-- ==== Sys2Proof/Word.lean ====
section
/-! DEFINITION. The word types of the ZV84 model and their plainest arithmetic. -/

namespace Sys2Proof

/-- A 32-bit word: one lane of a vector register, a launch constant (R137). -/
abbrev Word := BitVec 32
/-- A 64-bit word: a scalar register, an address, a register of the module (R56, R417). -/
abbrev Word64 := BitVec 64
/-- A byte of memory. -/
abbrev Byte := BitVec 8
/-- The 32 values of one physical vector register, lane 0 first (R58). -/
abbrev Lanes := List Word
/-- A lane mask: bit l is lane l (R46). -/
abbrev Mask := BitVec 32
/-- Data by natural key, in rising order of key with no repeats. -/
abbrev NMap (α : Type) := List (Nat × α)

/-- The bit `i` of a word as a natural, 0 or 1. -/
def bitNat {n : Nat} (x : BitVec n) (i : Nat) : Nat := if x.getLsbD i then 1 else 0

/-- Bits `hi:lo` of a word as a natural (R2). -/
def bits {n : Nat} (x : BitVec n) (hi lo : Nat) : Nat := (x.extractLsb' lo (hi + 1 - lo)).toNat

/-- `x` read as a two's-complement number of `w` bits (R137). -/
def signedOf (w : Nat) (x : Nat) : Int :=
  if x % 2 ^ w < 2 ^ (w - 1) then (x % 2 ^ w : Nat) else ((x % 2 ^ w : Nat) : Int) - (2 ^ w : Nat)

end Sys2Proof
end

