-- ==== Sys2Proof/Syntax.lean ====
section
/-! DEFINITION. The syntax of the ZV84: the fields of the instruction word (R112), the operands of the events, and
the one inductive of the part's steps, one constructor per row of spec/opcode_table.json. -/

namespace Sys2Proof

/-- The fields of an instruction word besides OPC, under the manual's names (R112). `x` is X: IMM32 when `xk` is set,
C in its bits 8:0 and EXT in its bits 31:9 when it is not. -/
structure Fields where
  yld : Bool
  stall : BitVec 4
  lrc : Bool
  lrb : Bool
  lra : Bool
  gneg : Bool
  grd : BitVec 4
  mod : BitVec 10
  xk : Bool
  x : BitVec 32
  b : BitVec 9
  a : BitVec 9
  d : BitVec 9
  deriving DecidableEq, Repr

/-- Operand C (R112). -/
def Fields.c (f : Fields) : BitVec 9 := f.x.extractLsb' 0 9
/-- EXT (R112). -/
def Fields.ext (f : Fields) : BitVec 23 := f.x.extractLsb' 9 23

/-- The fields of the canonical NOP (R134): guard p15, every other field zero. -/
def Fields.nop : Fields :=
  { yld := false, stall := 0, lrc := false, lrb := false, lra := false, gneg := false, grd := 15, mod := 0,
    xk := false, x := 0, b := 0, a := 0, d := 0 }

/-- The places whose errors are corrected and counted (R36). -/
inductive ErrorPlace where
  | registerFile | sram | l2 | link | dram | fabric
  deriving DecidableEq, Repr

/-- An error met in the data of an access or a transfer (R238 step 7, R423); one of DRAM may leave the sector's metadata
unreadable (R309). `router` is a word whose parity a router's buffer found odd. A corrected one is only counted (R36). -/
inductive DataError where
  | sram | l2 | dram | dramMeta | router
  | corrected (p : ErrorPlace)
  deriving DecidableEq, Repr

/-- Where the matrix engine met an uncorrectable error (R229): the tile store, a word of an A or a B fragment in the
operand buffer, or a scratchpad word read as a B column or by MWRACC; or an error of a tile store word that was corrected (R36). -/
inductive StorageSite where
  | tileStore | fragmentA | fragmentB | scratchB | scratchWord | corrected
  deriving DecidableEq, Repr

/-- What a scrub read of a sector found (R309). -/
inductive SymbolError where
  | none | single | double | doubleMeta
  deriving DecidableEq, Repr

/-- A packet of the fabric: the header fields of R315 that programs or engines use, and the payload. `status` and
`bitmap` are what an acknowledgement carries (R323, R338); `op`, `ty`, `opB` and `opC` are an atomic's operands, whose
place in the payload the spec does not lay out. `pcrc` is the check that the packet carries (R312). -/
structure Packet where
  pkind : Nat
  pkey : Nat
  smod : Nat
  dmod : Nat
  plane : Nat
  daddr : Word64
  len : Nat
  mbox : Word64
  xid : Nat
  pseq : Nat
  att : Nat
  last : Bool
  ben : BitVec 16
  epoch : Nat
  group : Nat
  rop : Nat
  ver : Nat
  itime : Nat
  payload : List Byte
  status : Nat
  bitmap : Word64
  op : Nat
  ty : Nat
  opB : Word64
  opC : Word64
  pcrc : Word
  deriving DecidableEq, Repr

/-- A brumation trigger (R367, R419, R427). `grp` tells that the source is a group, named by `cuh`, `brl` and `slot`. -/
structure Trigger where
  time : Nat
  modn : Nat
  tile : Nat
  cause : Nat
  syn : Word
  grp : Bool
  cuh : Nat
  brl : Nat
  slot : Nat
  deriving DecidableEq, Repr

/-- What training and self-test find in one start (R450, R453): the stage that stops with FAIL (0 for none) and the
tile it names, links and ports up, enabled CUs per die, region offsets, the serial number, the time master's count at
the end of stage 7 (R371), and the sectors that memory initialisation could not write cleanly. -/
structure StartResult where
  failStage : Nat
  etile : Nat
  hpm : BitVec 4
  lnk : BitVec 310
  cum : List Word64
  fpm : Word64
  serial : BitVec 128
  ofs : List Int
  count : Nat
  poisoned : List Nat
  deriving DecidableEq, Repr

/-- What a tree-barrier release says: the phase that completed, modulo 2^16, and whether a group of another module was excused from it
(R350, R358). -/
structure TreeRelease where
  phase : Nat
  excused : Bool := false
  deriving DecidableEq, Repr

/-- Errors in a group's registers: the lanes whose vector or predicate registers hold an uncorrectable one, the other registers that hold
one, by the selectors of R407 (R423), and the number of single-bit errors, which are corrected (R36). -/
structure RegErrors where
  lanes : Mask
  regs : List Nat := []
  corrected : Nat := 0
  deriving DecidableEq, Repr

/-- One step of the part: an instruction form, or an event of an engine, the tree, the fabric or the host. -/
inductive Instr where
  /-- Does nothing beyond decoding, retiring and folding its opcode into the signature (R159). -/
  | nop (f : Fields)
  /-- Moves the whole group's PC by a displacement when LIVE is non-empty (R162). -/
  | bra (f : Fields)
  /-- Uniform branch taken when a predicate over LIVE meets the mode any, all or none (R162). -/
  | brc (f : Fields)
  /-- Divergent branch that pushes a reconvergence-stack entry and runs the taken lanes first (R163). -/
  | brd (f : Fields)
  /-- Switches to the path still to run or pops the stack entry and restores the divergence mask (R51). -/
  | join (f : Fields)
  /-- Writes the return PC to a link register and branches (R164). -/
  | call (f : Fields)
  /-- Sets the PC from a scalar register (R164). -/
  | ret (f : Fields)
  /-- Sets the PC to a register plus a register or immediate (R164). -/
  | bri (f : Fields)
  /-- Ends the live lanes, and the group once no launched lane remains (R166). -/
  | exit (f : Fields)
  /-- Continues at a displacement and offers the group for a swap behind every ready pending group (R165). -/
  | yield (f : Fields)
  /-- Holds the group until each outstanding-operation counter is at or below its given count (R168). -/
  | wait (f : Fields)
  /-- Holds the group until the named matrix batch and every earlier batch are complete (R169). -/
  | waitb (f : Fields)
  /-- Arrives at a workgroup or cluster barrier, optionally releasing and acquiring, and waits for the phase to complete (R170). -/
  | bar (f : Fields)
  /-- Reads the execution mask into a register (R173). -/
  | exmrd (f : Fields)
  /-- Sets EXM to the source ANDed with the current entry mask (R173). -/
  | exmwr (f : Fields)
  /-- Reads a special register into a destination (R174). -/
  | rdsr (f : Fields)
  /-- Writes a writable special register at retirement (R174). -/
  | wrsr (f : Fields)
  /-- Compares the running signature with an expected value, resets it, and counts a match or faults SIGF (R176). -/
  | sigchk (f : Fields)
  /-- Faults the group on purpose with BKPT and triggers brumation of the job (R178). -/
  | bkpt (f : Fields)
  /-- Faults the group on purpose with cause TRAP and a 16-bit code (R178). -/
  | trap (f : Fields)
  /-- Reads the local copy of the time counter, never decreasing (R179). -/
  | rdtimeL (f : Fields)
  /-- Reads the offset-corrected global time, never decreasing (R179). -/
  | rdtimeG (f : Fields)
  /-- Writes the latency band to the home of an address or to a mailbox, or 0xFF, without faulting (R180). -/
  | rdband (f : Fields)
  /-- Scalar add, wrapping or saturating (R182). -/
  | sadd (f : Fields)
  /-- Scalar subtract (R182). -/
  | ssub (f : Fields)
  /-- Scalar multiply, low half or saturated (R182). -/
  | smul (f : Fields)
  /-- Scalar multiply giving the high half of the exact product (R182). -/
  | smulh (f : Fields)
  /-- Scalar multiply-add with one wrap or saturation at the end (R182). -/
  | smad (f : Fields)
  /-- Scalar bitwise and (R182). -/
  | sand (f : Fields)
  /-- Scalar bitwise or (R182). -/
  | sor (f : Fields)
  /-- Scalar bitwise exclusive or (R182). -/
  | sxor (f : Fields)
  /-- Scalar shift left (R182). -/
  | sshl (f : Fields)
  /-- Scalar logical shift right (R182). -/
  | sshr (f : Fields)
  /-- Scalar arithmetic shift right (R182). -/
  | ssar (f : Fields)
  /-- Scalar minimum (R182). -/
  | smin (f : Fields)
  /-- Scalar maximum (R182). -/
  | smax (f : Fields)
  /-- Scalar compare writing a predicate in every lane of LIVE (R182). -/
  | scmp (f : Fields)
  /-- Scalar select on a nonzero operand (R182). -/
  | ssel (f : Fields)
  /-- Scalar move with extension (R182). -/
  | smov (f : Fields)
  /-- Moves an immediate into a scalar register, or into its high half with HI (R183). -/
  | smovi (f : Fields)
  /-- Forms a base plus a shifted index (R183). -/
  | slea (f : Fields)
  /-- Counts leading zero bits (R182). -/
  | sclz (f : Fields)
  /-- Counts one bits (R182). -/
  | spop (f : Fields)
  /-- Extracts a bit field with zero or sign extension (R183). -/
  | sbfe (f : Fields)
  /-- Inserts a bit field into a base value (R183). -/
  | sbfi (f : Fields)
  /-- Per-lane integer add (R187). -/
  | vadd (f : Fields)
  /-- Per-lane integer subtract (R187). -/
  | vsub (f : Fields)
  /-- Per-lane integer multiply (R187). -/
  | vmul (f : Fields)
  /-- Per-lane high half of the integer product (R187). -/
  | vmulh (f : Fields)
  /-- Per-lane integer multiply-add (R187). -/
  | vmad (f : Fields)
  /-- Per-lane 32-bit multiply plus a 64-bit addend giving a 64-bit result (R187). -/
  | vmadw (f : Fields)
  /-- Per-lane add or subtract with carry-in and carry-out predicates (R188). -/
  | vaddc (f : Fields)
  /-- Per-lane bitwise and (R187). -/
  | vand (f : Fields)
  /-- Per-lane bitwise or (R187). -/
  | vor (f : Fields)
  /-- Per-lane bitwise exclusive or (R187). -/
  | vxor (f : Fields)
  /-- Per-lane shift left (R187). -/
  | vshl (f : Fields)
  /-- Per-lane logical shift right (R187). -/
  | vshr (f : Fields)
  /-- Per-lane arithmetic shift right (R187). -/
  | vsar (f : Fields)
  /-- Per-lane integer minimum (R187). -/
  | vmin (f : Fields)
  /-- Per-lane integer maximum (R187). -/
  | vmax (f : Fields)
  /-- Per-lane absolute value (R187). -/
  | vabs (f : Fields)
  /-- Per-lane integer compare writing a predicate (R188). -/
  | vcmp (f : Fields)
  /-- Per-lane select by predicate (R188). -/
  | vsel (f : Fields)
  /-- Per-lane move of a bit pattern (R187). -/
  | vmov (f : Fields)
  /-- Moves an extended immediate into every live lane (R187). -/
  | vmovi (f : Fields)
  /-- Per-lane bit-field extract (R187). -/
  | vbfe (f : Fields)
  /-- Per-lane bit-field insert (R187). -/
  | vbfi (f : Fields)
  /-- Per-lane count of leading zeros (R187). -/
  | vclz (f : Fields)
  /-- Per-lane count of one bits (R187). -/
  | vpop (f : Fields)
  /-- Per-lane bit reversal (R187). -/
  | vbrev (f : Fields)
  /-- F32 add, rounded once per RM (R190). -/
  | fadd (f : Fields)
  /-- F32 subtract (R190). -/
  | fsub (f : Fields)
  /-- F32 multiply (R190). -/
  | fmul (f : Fields)
  /-- F32 fused multiply-add, rounded once (R190). -/
  | ffma (f : Fields)
  /-- F32 minimumNumber (R191). -/
  | fmin (f : Fields)
  /-- F32 maximumNumber (R191). -/
  | fmax (f : Fields)
  /-- F32 compare writing a predicate (R192). -/
  | fcmp (f : Fields)
  /-- Writes a one-hot class mask of a float (R192). -/
  | fclass (f : Fields)
  /-- F32 division, correctly rounded (R190). -/
  | fdiv (f : Fields)
  /-- F32 square root, correctly rounded (R190). -/
  | fsqrt (f : Fields)
  /-- F32 reciprocal, correctly rounded to nearest-even (R193). -/
  | frcp (f : Fields)
  /-- F32 reciprocal square root (R193). -/
  | frsq (f : Fields)
  /-- F32 base-2 exponential (R193). -/
  | fexp2 (f : Fields)
  /-- F32 base-2 logarithm (R193). -/
  | flog2 (f : Fields)
  /-- F32 hyperbolic tangent (R193). -/
  | ftanh (f : Fields)
  /-- Packed 16-bit float add per element (R190). -/
  | hadd2 (f : Fields)
  /-- Packed 16-bit float multiply per element (R190). -/
  | hmul2 (f : Fields)
  /-- Packed 16-bit float fused multiply-add per element (R190). -/
  | hfma2 (f : Fields)
  /-- Packed 16-bit float maximumNumber (R191). -/
  | hmax2 (f : Fields)
  /-- Packed 16-bit float minimumNumber (R191). -/
  | hmin2 (f : Fields)
  /-- Converts, packs or unpacks values between register types (R195). -/
  | cvt (f : Fields)
  /-- Converts F32 to S64 fixed point at a given scale, RNE and saturating (R196). -/
  | fxcvt (f : Fields)
  /-- Converts S64 fixed point to F32 per RM (R196). -/
  | fxtof (f : Fields)
  /-- Exchanges values within a quad by an xor pattern (R198). -/
  | qswp (f : Fields)
  /-- Broadcasts one lane's value within each quad (R198). -/
  | qbc (f : Fields)
  /-- Reads another lane's value by index, up, down or xor mode, with a validity predicate (R199). -/
  | shfl (f : Fields)
  /-- Evaluates any, all, eq or ballot of a predicate over the participants (R201). -/
  | vote (f : Fields)
  /-- Reduces a value over the participants in a fixed tree order (R202). -/
  | gred (f : Fields)
  /-- Computes an inclusive or exclusive prefix over the participants (R202). -/
  | gscan (f : Fields)
  /-- Computes any function of three predicates by an 8-bit table (R203). -/
  | plop (f : Fields)
  /-- Moves a predicate to or from a 32-bit lane mask (R204). -/
  | pmov (f : Fields)
  /-- Allocates a tile in the tile store and returns its handle, or 0 (R209). -/
  | mtalloc (f : Fields)
  /-- Ends a tile's life at once and queues the return of its units (R209). -/
  | mtfree (f : Fields)
  /-- Queues setting every word of a tile to zero (R223). -/
  | mzero (f : Fields)
  /-- Captures fragments and queues one multiply-accumulate step on a tile (R218). -/
  | mma (f : Fields)
  /-- Captures fragments and queues KC multiply-accumulate steps on a tile (R218). -/
  | mloop (f : Fields)
  /-- Queues loading a tile from scratch words (R223). -/
  | mwracc (f : Fields)
  /-- Queues writing a tile to memory, converted to F32, BF16, F16, S32 or S16 (R224). -/
  | mdrain (f : Fields)
  /-- Queues writing a tile as OCP MX blocks with computed scales (R225). -/
  | mdrainq (f : Fields)
  /-- Closes the group's open matrix work as a numbered batch and raises the M counter (R214). -/
  | mbatch (f : Fields)
  /-- Per-lane load issued into the operand log (R240). -/
  | ld (f : Fields)
  /-- Per-lane store, optionally with byte enables (R240). -/
  | st (f : Fields)
  /-- Uniform load performed once for the group (R240). -/
  | ldu (f : Fields)
  /-- Uniform store performed once for the group (R240). -/
  | stu (f : Fields)
  /-- Acquire or acquire-release load (R240). -/
  | lda (f : Fields)
  /-- Release or acquire-release store (R240). -/
  | stl (f : Fields)
  /-- Atomic read-modify-write per lane at the place its scope names, returning the old value (R244). -/
  | atom (f : Fields)
  /-- Atomic reduction without a returned value, possibly merged (R244). -/
  | red (f : Fields)
  /-- Performs the ordering and cache actions of its ordering and scope, and reports pending fabric failures (R247). -/
  | fence (f : Fields)
  /-- Prefetches a line into L1 or a sector into L2, possibly dropped (R248). -/
  | pref (f : Fields)
  /-- Locks a sector at the L2 slice with all tokens and reads from it (R249). -/
  | lnlk (f : Fields)
  /-- Unlocks a sector, optionally storing, and returns whether the lock held (R249). -/
  | lnul (f : Fields)
  /-- Writes back a line's dirty bytes to L2 or to its home, optionally invalidating (R252). -/
  | lnwb (f : Fields)
  /-- Invalidates a line, discarding dirty bytes, optionally returning the sector's tokens to the home (R252). -/
  | lndrop (f : Fields)
  /-- Arms a monitor on a sector (R253). -/
  | marm (f : Fields)
  /-- Sleeps until a selected monitor fires or a timeout passes (R255). -/
  | mslp (f : Fields)
  /-- Checks and enters a copy command in the workgroup's ring (R261). -/
  | cpyq (f : Fields)
  /-- Initialises a phase-counter record with an expectation (R283). -/
  | phinit (f : Fields)
  /-- Makes an arrival of a value on a phase counter (R283). -/
  | pharr (f : Fields)
  /-- Waits until a phase counter has passed a given phase (R284). -/
  | phwait (f : Fields)
  /-- Reads a phase counter's phase and count without waiting (R284). -/
  | phtest (f : Fields)
  /-- Enters a bulk transfer from local memory to a system address (R331). -/
  | bxsend (f : Fields)
  /-- Enters a bulk transfer from a system address into local memory (R332). -/
  | bxget (f : Fields)
  /-- Enters a multicast to every member of a group (R338). -/
  | bxmc (f : Fields)
  /-- Enters a contribution to a switch reduction over a group (R339). -/
  | bxred (f : Fields)
  /-- Writes a 64-bit value at a system address and optionally arrives on a mailbox (R333). -/
  | bxflag (f : Fields)
  /-- Registers a phase counter as a mailbox and returns its handle (R321). -/
  | mboxreg (f : Fields)
  /-- Releases a mailbox once every accepted packet has been counted (R322). -/
  | mboxrel (f : Fields)
  /-- Returns fabric status, optionally waiting for all BX commands, raising any recorded failure (R343). -/
  | fabst (f : Fields)
  /-- Joins the pending phase of a tree barrier, optionally releasing (R362). -/
  | tbjoin (f : Fields)
  /-- Waits until a tree-barrier phase completes or the object closes (R362). -/
  | tbwait (f : Fields)
  /-- Reads a tree barrier's status without waiting (R362). -/
  | tbtest (f : Fields)
  /-- Clears one CU's bit from a tree barrier's mask (R362). -/
  | tbexc (f : Fields)
  /-- Raises a brumation trigger for a partition (R364). -/
  | haltj (f : Fields)
  /-- Enters a launch record in the context's device launch buffer (R389). -/
  | launch (f : Fields)
  /-- Signals a queue token with this CU as producer after earlier stores are performed (R390). -/
  | qtokSig (f : Fields)
  /-- Reads a queue token's count (R390). -/
  | qtokGet (f : Fields)
  /-- Reads and resets a queue token (R390). -/
  | qtokReset (f : Fields)
  /-- Appends an item to a cluster's work list (R393). -/
  | wlapp (f : Fields)
  /-- Takes an item from the own cluster's work list, waiting until one arrives or the object is done (R393). -/
  | wltake (f : Fields)
  /-- Returns a work-list object's status word (R393). -/
  | wlstat (f : Fields)
  /-- Reads one item of a frozen group's state (R409). -/
  | fzrd (f : Fields)
  /-- Writes one item of a frozen group's state (R409). -/
  | fzwr (f : Fields)
  /-- Sets a frozen group's resume PC (R410). -/
  | fzpc (f : Fields)
  /-- Sets a frozen group's execution mask under the entry-mask rule (R410). -/
  | fzmask (f : Fields)
  /-- Reads a word of an operand-log entry (R411). -/
  | fzlogRd (f : Fields)
  /-- Reads one register of an entry's captured operand for a lane (R411). -/
  | fzlogReg (f : Fields)
  /-- Places part of a lane's result for a faulted entry (R411). -/
  | fzlogPut (f : Fields)
  /-- Completes a faulted log entry with its put results and frees it (R411). -/
  | fzlogDone (f : Fields)
  /-- Kills named lanes of a frozen group for good (R410). -/
  | fzlane (f : Fields)
  /-- Runs one instruction of a frozen group and reports its status (R412). -/
  | fzstep (f : Fields)
  /-- Sets the group's disposition to RUN and resumes it, at once or at RESUMEJ (R413). -/
  | fzres (f : Fields)
  /-- Kills the group's workgroup, or the whole context (R413). -/
  | fzkill (f : Fields)
  /-- Returns the capability of the i-th frozen group of the context (R414). -/
  | capqEnum (f : Fields)
  /-- Returns the status of a capability (R414). -/
  | capqStat (f : Fields)
  /-- Ends the tadpole, resuming its group or leaving it held (R413). -/
  | hret (f : Fields)
  /-- Reads a module register within the tadpole's reach (R417). -/
  | prd (f : Fields)
  /-- Writes a module register within the tadpole's reach (R417). -/
  | pwr (f : Fields)
  /-- Drops cached translations of a range and waits for requests made under them (R448). -/
  | rlbinv (f : Fields)
  /-- Saves a halted context's state to a save image and hands its CUs over (R431). -/
  | ctxsv (f : Fields)
  /-- Restores a context from a save image, left frozen (R432). -/
  | ctxld (f : Fields)
  /-- Sends a resume request for a halted partition and ends the tadpole (R433). -/
  | resumej (f : Fields)
  /-- Retires a CU, killing its workgroups and clearing its barrier bits (R420). -/
  | curet (f : Fields)
  /-- An access in the operand log completes, writes its data and frees its entry and counter (R100). -/
  | accessCompletion (thread entry : Nat)
  /-- An access found faulted after issue marks its entry and freezes the group at the next boundary (R101). -/
  | accessFault (thread entry : Nat) (bad : Option DataError)
  /-- A waiting fault or notice gets a place in the pool and a tadpole is spawned (R400). -/
  | tadpoleSpawn (cu : Nat)
  /-- A watchdog counter reaches 2^24 and the group or tadpole faults WDOG (R424). -/
  | watchdogExpiry (thread : Nat)
  /-- A pending group becomes overdue and is forced into an active slot (R71). -/
  | overdueSwap (cu barrel slot : Nat)
  /-- A group waiting on a long-latency dependence is swapped with a ready pending group (R70). -/
  | groupSwap (cu barrel slot : Nat)
  /-- The work engine saves a group at a blocking point to the park area and frees its registers (R386). -/
  | groupPark (thread : Nat)
  /-- A parked group's wake condition fires and it is restored to pending (R72). -/
  | wakeConditionFires (thread : Nat)
  /-- After the time slice, the engine begins reclaiming a CU for another context and evicts its workgroups (R387). -/
  | cuReclaim (cu : Nat)
  /-- A workgroup or cluster barrier phase completes and its waiters are released (R171). -/
  | barrierPhaseComplete (cluster : Bool) (owner id : Nat)
  /-- A queued matrix operation finishes, setting flags, and its batch may complete (R214). -/
  | matrixOperationComplete (cu entry : Nat)
  /-- A copy command starts, fetching its tensor shape record if any (R268). -/
  | copyDispatch (wg entry : Nat)
  /-- A copy command's writes are performed and its stamp, arrival and notify word are written (R274). -/
  | copyComplete (wg entry : Nat)
  /-- A running copy command meets a fault and is held, freezing its group imprecisely (R276). -/
  | copyEngineFault (wg entry : Nat) (bad : Option (DataError × Bool × Nat))
  /-- An MSLP's timeout expires and it wakes with the timed-out bit (R255). -/
  | mslpTimeout (thread : Nat)
  /-- A lock reaching age 4,096 with a waiter, or whose holder ends, is broken (R251). -/
  | lockBreak (thread entry : Nat)
  /-- A transient read request for a sector is answered by its receiving L2 or home (R293). -/
  | rdt (msg : Nat)
  /-- A transient write request is answered with all tokens by holders and the home (R293). -/
  | wrt (msg : Nat)
  /-- Tokens, with or without data, arrive at a party and are counted (R293). -/
  | tok (msg : Nat)
  /-- An L2 gives tokens back to the home, with data when dirty (R294). -/
  | wb (msg : Nat)
  /-- A persistent request arrives at the home and is entered pending or refused (R298). -/
  | preq (msg : Nat)
  /-- An activation makes every agent forward the sector's tokens to the requester (R299). -/
  | pact (msg : Nat)
  /-- A satisfied requester reports done, and the home marks, frees or activates entries (R298). -/
  | pdone (msg : Nat)
  /-- Agents remove the places for a sector that has no active request (R299). -/
  | pdeact (msg : Nat)
  /-- Every agent discards its tokens of a sector, sending dirty data and an acknowledgement (R302). -/
  | rgstart (msg : Nat)
  /-- An agent's regrowth acknowledgement arrives at the home (R302). -/
  | rgack (msg : Nat)
  /-- Dirty data of a discarded owner token arrives at the home (R302). -/
  | rgdata (msg : Nat)
  /-- Agents take the sector's new serial number (R302). -/
  | rgend (msg : Nat)
  /-- A transient attempt's retry interval expires, leading to attempt 2 or a persistent request (R292). -/
  | transientRetryExpiry (agent sector : Nat)
  /-- Each home clock the home activates the lowest pending entry of a sector (R298). -/
  | persistentArbitration (home : Nat)
  /-- An atomic at the home gathers all tokens by a home request and executes the queued atomics (R457). -/
  | homeRequest (home : Nat)
  /-- A request unsatisfied for 20 µs, or an agent loss, starts regrowth of a sector (R302). -/
  | regrowthTrigger (home sector : Nat)
  /-- An agent raises its PREQ again 1 µs after a PNAK (R298). -/
  | pnakRetry (agent : Nat)
  /-- The home expands a window sector into BF16 and returns an immutable copy (R308). -/
  | windowSectorRead (agent sector : Nat)
  /-- A launch entry reaches the head of its queue (R376). -/
  | entryLaunch (ctx queue : Nat)
  /-- A signal-token entry signals its token once earlier entries finish (R376). -/
  | entrySignalToken (ctx queue : Nat)
  /-- A wait-for-token entry holds the queue until the token is satisfied (R376). -/
  | entryWaitToken (ctx queue : Nat)
  /-- A reset-token entry resets its token once earlier entries finish (R376). -/
  | entryResetToken (ctx queue : Nat)
  /-- A launch whose awaited token is satisfied is accepted and checked (R380). -/
  | launchAccept (ctx stream : Nat)
  /-- A die has room and the engine chooses and places a cluster (R378). -/
  | dispatchOpportunity (die : Nat)
  /-- A launch ends, releases, signals its token and finishes its entry (R377). -/
  | launchComplete (launch : Nat)
  /-- The detector's two waves find a work-list object quiescent and declare it done (R394). -/
  | terminationWaves (ctx object : Nat)
  /-- A system-space load, store or atomic packet is performed at the destination (R316). -/
  | systemAccessPacket (p : Packet)
  /-- A receive port checks, writes and counts a request-channel packet and acknowledges it (R323). -/
  | dataPacketReceive (p : Packet)
  /-- A source port reads a part and returns it as get data (R332). -/
  | getRequest (p : Packet)
  /-- A packet's acknowledgement or reply arrives at the sender (R334). -/
  | acknowledgement (p : Packet)
  /-- A merged acknowledgement with a failure bitmap arrives for a multicast packet (R338). -/
  | mergedAcknowledgement (p : Packet)
  /-- A switch replicates a multicast packet under its latched version (R338). -/
  | multicastReplication (p : Packet)
  /-- A switch combines a reduction contribution and the root sends the result down (R339). -/
  | reductionContribution (p : Packet)
  /-- After 100 ms without every contribution, the switch replies with the missing members (R339). -/
  | reductionTimeout (key group ver epoch pseq : Nat)
  /-- An unacknowledged packet is retransmitted after 250 µs, or the command fails LOST (R314). -/
  | retransmissionTimeout (xid pseq : Nat)
  /-- A packet older than 1 ms is dropped (R314). -/
  | packetLifetimeExpiry (xid pseq : Nat)
  /-- A packet waits 4 ms for an earlier one and the transfer's counting ends (R323). -/
  | countingEndTimeout (smod xid : Nat)
  /-- A failed command's last reply arrives and the failure is recorded (R341). -/
  | fabricFailureRecorded (thread seq : Nat)
  /-- A peer in RECOV for 2 s becomes LOST and its work fails (R346). -/
  | peerLost (peer : Nat)
  /-- A tree node receives a halt wave, forwards it and stops issue below (R367). -/
  | haltWave (key : Nat) (trigger : Trigger)
  /-- 4 µs after the first wave the pod root sends down the settled first trigger (R368). -/
  | firstTriggerSettled (key : Nat) (trigger : Trigger)
  /-- A module drained and settled becomes halted and spawns its agent (R426). -/
  | brumationDrained (ctx : Nat)
  /-- At the fixed resume time every RUN group issues and held work continues (R434). -/
  | resumeAtT (key : Nat)
  /-- A resume not acknowledged within 100 ms fails and new agents are spawned (R435). -/
  | resumeFailure (key : Nat)
  /-- A tree-barrier phase completes at the pod root and its release wakes the waiters (R358). -/
  | treeBarrierRelease (key object : Nat) (rel : TreeRelease)
  /-- In regrowth step 3, a remote module in link recovery is counted lost after 2 s, or an announced RGDATA after 1 ms, and
  regrowth proceeds to its new serial number (R302). -/
  | regrowthWaitTimeout (home sector agent : Nat)
  /-- A regrowth trigger held because the sector was regrown within the last 2 ms, or because the table was full, starts regrowth
  once the sector may be regrown (R303). -/
  | regrowthDeferralExpiry (home sector : Nat)
  /-- A running BX command meets XLAT, PERM, POISON or UCE on its source, or on BXGET's destination, is held at a packet, and
  freezes its group imprecisely (R344). -/
  | fabricEngineFault (thread seq : Nat) (bad : Option (DataError × Nat))
  /-- A fetched line fails its CRC, is refetched once, and on a second failure raises UCE (R109). -/
  | codeLineCrcMismatch (again : Bool)
  /-- An uncorrectable error in one lane's register kills the lane and sends a notice (R423). -/
  | laneDeath (thread : Nat) (errs : RegErrors)
  /-- The matrix engine meets an uncorrectable storage error, poisons blocks and freezes the workgroup (R229). -/
  | mstg (cu entry : Nat) (site : StorageSite) (row col : Nat)
  /-- A refresh activation reads and corrects a rotation of sectors (R309). -/
  | scrubActivation (home sector : Nat) (error : SymbolError)
  /-- A write to a format window's control enables, changes or disables it, dropping read copies (R306). -/
  | fwctlWrite (window : Nat) (value : Word64)
  /-- A write of GCTL commits a multicast group's members as a new version (R337). -/
  | gctlCommit (key group : Nat) (value : Word64)
  /-- A write of TBCTL opens or closes a tree-barrier object (R353). -/
  | tbctlWrite (key object : Nat) (value : Word64)
  /-- A write of TMCTL designates the pod's time master (R371). -/
  | tmctlWrite (value : Word64)
  /-- A write to a module or BAR0 register without behaviour of its own (R417). -/
  | registerWrite (bar0 : Bool) (address : Nat) (value : Word64)
  /-- A doorbell write makes queue entries available (R375). -/
  | qtailDoorbell (ctx queue : Nat) (value : Word64)
  /-- A write of QCPL sets the completion word and clears CERR (R374). -/
  | qcplWrite (ctx queue : Nat) (value : Word64)
  /-- A recovery notice moves a peer between UP and RECOV (R345). -/
  | recoveryNotice (peer : Nat) (up : Bool)
  /-- A failed plane-0 tree path moves the partition's tree traffic to plane 1 (R350). -/
  | treeFailover (key : Nat)
  /-- A die node whose row segment is lost attaches to another row (R351). -/
  | rowSegmentLoss (row : Nat)
  /-- Every 1 ms the root's marker recalibrates each die's time offset (R370). -/
  | timeCalibration (die : Nat) (residual : Int)
  /-- A compute die or memory tile is lost and contexts that touched it trap with DIEL (R22). -/
  | dieLoss (tile : Nat)
  /-- System software resets one tile, which returns after self-test (R23). -/
  | dieReset (tile : Nat) (cus : Word64) (offset : Int)
  /-- A host-to-device snoop makes the holding L2 give up the host line (R440). -/
  | hostSnoop (port line : Nat)
  /-- A host CXL.mem read gathers one token and returns the sector (R438). -/
  | cxlMemRead (port address : Nat)
  /-- A host CXL.mem write gathers all tokens and merges the bytes (R438). -/
  | cxlMemWrite (port address : Nat) (enables : BitVec 64) (data : List Byte)
  /-- A power cycle or module reset runs the start-up stages to MREADY or FAIL (R450). -/
  | moduleStart (result : StartResult)
  /-- Power cap, temperature or feed voltage changes the clock step (R456). -/
  | throttleTrigger (step causes : BitVec 4)
  /-- A junction at 110 °C resets the module (R455). -/
  | thermalReset
  /-- SPDM request answered by the responder (R454). -/
  | getVersion
  /-- SPDM request answered by the responder (R454). -/
  | getCapabilities
  /-- SPDM request answered by the responder (R454). -/
  | negotiateAlgorithms (algorithms : List Byte)
  /-- SPDM request answered by the responder (R454). -/
  | getDigests
  /-- SPDM request answered by the responder (R454). -/
  | getCertificate (slot offset length : Nat)
  /-- SPDM challenge answered with a signature (R454). -/
  | challenge (slot : Nat) (nonce : List Byte)
  /-- SPDM request returning the measurement blocks (R454). -/
  | getMeasurements (index : Nat) (nonce : List Byte)
  /-- A host port is reported lost, so each home frees its persistent-request entry and BLK bits, and regrowth recovers its tokens;
  on return it starts with a free entry (R298). -/
  | hostPortLoss (port : Nat) (back : Bool)
  /-- A host write of QCTL sets the ring size and enable, starts serving a kept doorbell when EN becomes 1, and fixes the port for
  MSI-X (R375). -/
  | qctlWrite (port ctx queue : Nat) (value : Word64)
  /-- A fabric port or its plane fails while the module runs, so it no longer counts as up and packets take the other planes (R313). -/
  | fabricPortDown (port : Nat)
  /-- A PLDM firmware-update message over MCTP on I3C stores new management firmware, which takes effect and is measured at the next
  module reset (R456). -/
  | pldmFirmwareUpdate (firmware : Word64)
  deriving DecidableEq, Repr

end Sys2Proof
end

