-- ==== Sys2Proof/Machine/Forms.lean ====
section
/-! DEFINITION. The opcode map (R122) and what each form accepts in its fields (R113-R121 and each form's entry): the
table behind the checks of R123. -/

namespace Sys2Proof

/-- The code that runs: it decides which forms and register codes exist (R113, R161, R398). -/
inductive Mode where
  | group | userTadpole | systemTadpole
  deriving DecidableEq, Repr

/-- A register named by a code of D, A, B or C (R113). -/
inductive Reg where
  | v (n : Nat) | s (n : Nat) | k (n : Nat) | w (n : Nat) | zr | reserved
  deriving DecidableEq, Repr

/-- The register classes an operand accepts (R115). -/
structure Accept where
  v : Bool := false
  s : Bool := false
  k : Bool := false
  w : Bool := false
  z : Bool := false
  deriving DecidableEq, Repr

/-- What a register field holds: nothing (reserved at zero), a predicate number (R114), something that is no register
field, or a register of the classes given, a vector name divisible by `align` (R57), a scalar one by `salign`;
`dest` tells that the form writes it. -/
inductive Operand where
  | none
  | pred
  | other
  | reg (acc : Accept) (align : Nat) (salign : Nat) (dest : Bool)
  deriving DecidableEq, Repr

/-- What one form, with its modifiers, accepts: the verdicts of reasons 3 to 6 of R123 and the operands for reasons
7 to 10. `combo` is the field code of a reason 8 that arises from a combination of operands. -/
structure FormSpec where
  xkOk : Bool := true
  modOk : Bool := true
  tyOk : Bool := true
  extOk : Bool := true
  d : Operand := .none
  a : Operand := .none
  b : Operand := .none
  c : Operand := .none
  combo : Option Nat := Option.none
  srOk : Bool := true
  deriving DecidableEq, Repr

/-- The register a code names (R113). -/
def regOf (code : Nat) : Reg :=
  if code < 320 then .v code else if code < 384 then .s (code - 320) else if code < 448 then .k (code - 384)
  else if code < 464 then .w (code - 448) else if code = 511 then .zr else .reserved

def Reg.isVector : Reg → Bool
  | .v _ => true
  | _ => false

def Accept.has (acc : Accept) : Reg → Bool
  | .v _ => acc.v
  | .s _ => acc.s
  | .k _ => acc.k
  | .w _ => acc.w
  | .zr => acc.z
  | .reserved => false

namespace Forms

/-- s, w, zr: a uniform destination. -/
def swz : Accept := { s := true, w := true, z := true }
/-- s, w. -/
def sw : Accept := { s := true, w := true }
/-- s, k, w, zr: a uniform source. -/
def skwz : Accept := { s := true, k := true, w := true, z := true }
def skw : Accept := { s := true, k := true, w := true }
def sz : Accept := { s := true, z := true }
def skz : Accept := { s := true, k := true, z := true }
def so : Accept := { s := true }
def vo : Accept := { v := true }
def vz : Accept := { v := true, z := true }
def vsz : Accept := { v := true, s := true, z := true }
def vswz : Accept := { v := true, s := true, w := true, z := true }
def vskw : Accept := { v := true, s := true, k := true, w := true }
def all : Accept := { v := true, s := true, k := true, w := true, z := true }

def dst (acc : Accept) (align : Nat := 1) : Operand := .reg acc align 1 true
def src (acc : Accept) (align : Nat := 1) : Operand := .reg acc align 1 false

/-- MOD bits `hi:lo` as a number. -/
def mo (f : Fields) (hi lo : Nat) : Nat := bits f.mod hi lo
/-- EXT bits `hi:lo` as a number. -/
def ex (f : Fields) (hi lo : Nat) : Nat := bits f.ext hi lo
/-- EXT is zero from bit `lo` upward. -/
def exZ (f : Fields) (lo : Nat) : Bool := f.xk || bits f.ext 22 lo = 0

def ty (f : Fields) : Nat := mo f 3 0
/-- The register alignment of a vector operand of type TY (R57): 2 for S64 and U64. -/
def tyAlign (t : Nat) : Nat := if t = 4 || t = 5 then 2 else 1

/-- The arithmetic MOD layout (R119): `sat` and `rm` tell whether the form uses them, `cs` which values of bits 9:7 it
accepts. -/
def arithMod (f : Fields) (sat rm : Bool) (cs : List Nat) : Bool :=
  ty f < 13 && (sat || mo f 6 6 = 0) && (rm || mo f 5 4 = 0) && cs.contains (mo f 9 7)

/-- The special registers that exist (R128, R258, R259, R401). -/
def srAssigned (n : Nat) : Bool :=
  n ≤ 0x0C || (0x10 ≤ n && n ≤ 0x12) || n = 0x18 || n = 0x19 || (0x20 ≤ n && n ≤ 0x22) || n = 0x28 || n = 0x29 ||
  n = 0x30 || n = 0x31 || (0x40 ≤ n && n ≤ 0x4D) || (0x60 ≤ n && n ≤ 0x63) || n = 0x70

/-- Registers of lane kind (R128). -/
def srLane (n : Nat) : Bool := n ≤ 1

/-- Special registers a form may write in the running class (R128, R129, R174). -/
def srWritable (m : Mode) (n : Nat) : Bool :=
  match m with
  | .group => n = 0x10 || n = 0x18 || n = 0x20 || n = 0x21 || n = 0x22 || n = 0x30 || n = 0x31
  | _ => n = 0x20 || n = 0x21

/-- Special registers the running code may read (R128, R259, R401). -/
def srReadable (m : Mode) (n : Nat) : Bool :=
  match m with
  | .group => n < 0x40
  | _ => n < 0x30 || 0x40 ≤ n

/-- The CTL forms (R159). One that needs XK = 1 and has XK = 0 fails check 3 with field code 7, as one that may not have it
does: R123 names the latter only (log 64). -/
def ctl (m : Mode) (op : Nat) (f : Fields) : Option FormSpec :=
  let z := f.mod = 0
  match op with
  | 0x00 | 0x04 | 0x08 => some { xkOk := !f.xk, modOk := z, extOk := exZ f 0 }
  | 0x01 | 0x09 => some { xkOk := f.xk, modOk := z }
  | 0x02 => some { xkOk := f.xk, modOk := mo f 9 6 = 0 && mo f 5 4 ≠ 3 }
  | 0x03 => some { xkOk := f.xk, modOk := mo f 9 4 = 0, a := .other, b := .other }
  | 0x05 => some { xkOk := f.xk, modOk := z, d := dst swz }
  | 0x06 => some { xkOk := !f.xk, modOk := z, extOk := exZ f 0, a := src sw }
  | 0x07 => some { modOk := z, extOk := exZ f 0, a := src swz, b := if f.xk then .none else src skwz }
  | 0x0A => some { xkOk := f.xk, modOk := z, extOk := bits f.x 31 24 = 0 }
  | 0x0B => some { xkOk := !f.xk, modOk := z, extOk := exZ f 8 }
  | 0x0C => some { xkOk := !f.xk, modOk := mo f 9 4 = 0 && mo f 1 0 < 2 && (mo f 3 2 = 0 || mo f 3 2 = 3),
                   extOk := exZ f 4 && (mo f 1 0 = 0 || ex f 3 0 < 4), d := .pred }
  | 0x0D => some { xkOk := !f.xk, modOk := z, extOk := exZ f 0, d := dst vswz }
  | 0x0E => some { modOk := z, extOk := exZ f 0, a := if f.xk then .none else src skwz }
  | 0x0F => some { xkOk := !f.xk, modOk := z, extOk := exZ f 8 && srAssigned (ex f 7 0),
                   d := dst (if srLane (ex f 7 0) then vz else vswz) }
  | 0x10 => some { xkOk := !f.xk, modOk := z, extOk := exZ f 8 && srAssigned (ex f 7 0), a := src skwz,
                   srOk := srWritable m (ex f 7 0) }
  | 0x11 => some { xkOk := f.xk, modOk := z }
  | 0x12 | 0x13 => some { xkOk := !f.xk, modOk := z, extOk := exZ f 16 }
  | 0x14 => some { xkOk := !f.xk, modOk := mo f 9 1 = 0, extOk := exZ f 0, d := dst swz }
  | 0x15 => some { xkOk := !f.xk, modOk := mo f 9 3 = 0 && mo f 1 0 ≠ 3, extOk := exZ f 0, d := dst vswz,
                   a := src vskw 2,
                   combo := if (regOf f.a.toNat).isVector && sw.has (regOf f.d.toNat) then some 2 else none }
  | _ => none

/-- The SAL forms (R182, R183). -/
def sal (op : Nat) (f : Fields) : Option FormSpec :=
  let t := ty f
  let int4 := [0, 1, 4, 5].contains t
  let u2 := [1, 5].contains t
  let two (sat : Bool) (tyOk : Bool) (cs : List Nat) (d : Operand) : Option FormSpec :=
    some { modOk := arithMod f sat false cs, tyOk := tyOk, extOk := exZ f 0, d := d, a := src skwz,
           b := if f.xk then .none else src skwz }
  let three (sat : Bool) (tyOk : Bool) (xkOk : Bool) : Option FormSpec :=
    some { xkOk := xkOk, modOk := arithMod f sat false [0], tyOk := tyOk, extOk := exZ f 0, d := dst swz,
           a := src skwz, b := src skwz, c := src skwz }
  let one (tyOk : Bool) : Option FormSpec :=
    some { xkOk := !f.xk, modOk := arithMod f false false [0], tyOk := tyOk, extOk := exZ f 0, d := dst swz,
           a := src skwz }
  match op with
  | 0x00 | 0x01 | 0x02 => two true int4 [0] (dst swz)
  | 0x03 => two false int4 [0] (dst swz)
  | 0x04 => three true int4 true
  | 0x05 | 0x06 | 0x07 => two false ([9, 5].contains t) [0] (dst swz)
  | 0x08 | 0x09 => two false u2 [0] (dst swz)
  | 0x0A => two false ([0, 4].contains t) [0] (dst swz)
  | 0x0B | 0x0C => two false int4 [0] (dst swz)
  | 0x0D => two false int4 [0, 1, 2, 3, 4, 5] .pred
  | 0x0E => three false u2 (!f.xk)
  | 0x0F => one ([0, 1, 5].contains t)
  | 0x10 => some { xkOk := f.xk, modOk := arithMod f false false (if t = 5 then [0, 1] else [0]), tyOk := int4,
                   d := dst swz }
  | 0x11 => two false ([0, 1, 5].contains t) [0, 1, 2, 3, 4, 5, 6, 7] (dst swz)
  | 0x12 | 0x13 => one u2
  | 0x14 => two false int4 [0] (dst swz)
  | 0x15 => three false u2 true
  | _ => none

/-- The VIN forms (R187, R188). -/
def vin (op : Nat) (f : Fields) : Option FormSpec :=
  let t := ty f
  let al := tyAlign t
  let two (sat : Bool) (tys : List Nat) (cs : List Nat) (d : Operand) : Option FormSpec :=
    some { modOk := arithMod f sat false cs, tyOk := tys.contains t, extOk := exZ f 0, d := d, a := src all al,
           b := if f.xk then .none else src all al }
  let one (sat : Bool) (tys : List Nat) (d : Operand) : Option FormSpec :=
    some { xkOk := !f.xk, modOk := arithMod f sat false [0], tyOk := tys.contains t, extOk := exZ f 0, d := d,
           a := src all al }
  match op with
  | 0x00 | 0x01 => two true [0, 1, 4, 5, 12] [0] (dst vz al)
  | 0x02 => two true [0, 1, 4, 5] [0] (dst vz al)
  | 0x03 => two false [0, 1, 4, 5] [0] (dst vz al)
  | 0x04 => some { modOk := arithMod f true false [0], tyOk := [0, 1, 4, 5].contains t, extOk := exZ f 0,
                   d := dst vz al, a := src all al, b := src all al, c := src all al }
  | 0x05 => some { modOk := arithMod f true false [0], tyOk := [0, 1].contains t, extOk := exZ f 0,
                   d := dst vz 2, a := src all, b := src all, c := src all 2 }
  | 0x06 => some { xkOk := !f.xk, modOk := arithMod f false false [0, 1, 2, 3], tyOk := t = 1,
                   extOk := exZ f 8 && (mo f 7 7 = 1 || ex f 3 0 = 0), d := dst vz, a := src all, b := src all }
  | 0x07 | 0x08 | 0x09 => two false [9, 5] [0] (dst vz al)
  | 0x0A | 0x0B => two false [1, 5] [0] (dst vz al)
  | 0x0C => two false [0, 4] [0] (dst vz al)
  | 0x0D | 0x0E => two false [0, 1, 4, 5, 12] [0] (dst vz al)
  | 0x0F => one true [0, 4, 12] (dst vz al)
  | 0x10 => two false [0, 1, 4, 5] [0, 1, 2, 3, 4, 5] .pred
  | 0x11 => some { xkOk := !f.xk, modOk := arithMod f false false [0], tyOk := [9, 5].contains t,
                   extOk := exZ f 4, d := dst vz al, a := src all al, b := src all al }
  | 0x12 => one false [9, 5] (dst vz al)
  | 0x13 => some { xkOk := f.xk, modOk := arithMod f false false [0], tyOk := [9, 4, 5].contains t, d := dst vz al }
  | 0x14 => two false [0, 1] [0] (dst vz)
  | 0x15 => some { modOk := arithMod f false false [0], tyOk := t = 1, extOk := exZ f 0, d := dst vz,
                   a := src all, b := src all, c := src all }
  | 0x16 | 0x17 => one false [1, 5] (dst vz)
  | 0x18 => one false [9, 5] (dst vz al)
  | _ => none

/-- The VFP forms (R190-R194). -/
def vfp (op : Nat) (f : Fields) : Option FormSpec :=
  let t := ty f
  let two (rm : Bool) (tys : List Nat) (cs : List Nat) (d : Operand) : Option FormSpec :=
    some { modOk := arithMod f false rm cs, tyOk := tys.contains t, extOk := exZ f 0, d := d, a := src all,
           b := if f.xk then .none else src all }
  let three (tys : List Nat) (cs : List Nat) : Option FormSpec :=
    some { modOk := arithMod f false true cs, tyOk := tys.contains t, extOk := exZ f 0, d := dst vz, a := src all,
           b := src all, c := src all }
  let one (rm : Bool) (tys : List Nat) : Option FormSpec :=
    some { xkOk := !f.xk, modOk := arithMod f false rm [0], tyOk := tys.contains t, extOk := exZ f 0, d := dst vz,
           a := src all }
  match op with
  | 0x00 | 0x01 | 0x02 | 0x08 => two true [6] [0] (dst vz)
  | 0x03 => three [6] [0]
  | 0x04 | 0x05 => two false [6] [0] (dst vz)
  | 0x06 => two false [6] [0, 1, 2, 3, 4, 5, 6] .pred
  | 0x07 => one false [6, 7, 8]
  | 0x09 => one true [6]
  | 0x0A | 0x0B | 0x0C | 0x0D | 0x0E => one false [6]
  | 0x0F | 0x10 => two true [10, 11] [0, 1] (dst vz)
  | 0x11 => three [10, 11] [0, 1, 2, 3]
  | 0x12 | 0x13 => two false [10, 11] [0] (dst vz)
  | _ => none

/-- The integer types of CVT (R195). -/
def cvtInt (t : Nat) : Bool := t ≤ 5
/-- The source codes CVT accepts for a destination (R195). A pair outside the table that no bullet of R195 names is refused
for its source code (log 65). -/
def cvtPair (st dt : Nat) : Bool :=
  if dt = 10 || dt = 11 then st = 6
  else if st = 10 || st = 11 then dt = 6
  else st ≤ 8 && st ≠ dt

/-- The VXF forms (R195-R204). -/
def vxf (op : Nat) (f : Fields) : Option FormSpec :=
  let t := ty f
  let al := tyAlign t
  match op with
  | 0x00 =>
    let st := ex f 3 0
    let packedDst := t = 10 || t = 11
    some { xkOk := !f.xk, modOk := arithMod f (cvtInt t && cvtInt st) true [0], tyOk := t ≤ 8 || packedDst,
           extOk := exZ f 5 && cvtPair st t && (ex f 4 4 = 0 || st = 10 || st = 11),
           d := dst vz al, a := src all (tyAlign st), b := if packedDst then src all else .none }
  | 0x01 => some { xkOk := !f.xk, modOk := arithMod f true true [0], tyOk := t = 6,
                   extOk := exZ f 6 && ex f 5 0 ≠ 63, d := dst vz 2, a := src all }
  | 0x02 => some { xkOk := !f.xk, modOk := arithMod f false true [0], tyOk := t = 6,
                   extOk := exZ f 6 && ex f 5 0 ≠ 63, d := dst vz, a := src { v := true, s := true, w := true } 2 }
  | 0x03 => some { xkOk := !f.xk, modOk := arithMod f false false [1, 2, 3], tyOk := [9, 5].contains t,
                   extOk := exZ f 4, d := dst vz al, a := src all al }
  | 0x04 => some { xkOk := !f.xk, modOk := arithMod f false false [0, 1, 2, 3], tyOk := [9, 5].contains t,
                   extOk := exZ f 4, d := dst vz al, a := src all al }
  | 0x05 =>
    let bimm := ex f 4 4 = 1
    some { xkOk := !f.xk, modOk := arithMod f false false [0, 1, 2, 3], tyOk := [9, 5].contains t,
           extOk := exZ f 10 && (bimm || ex f 9 5 = 0), d := dst vz al, a := src all al,
           b := if bimm then .none else src all }
  | 0x06 => some { xkOk := !f.xk, modOk := mo f 9 9 = 0 && mo f 6 0 = 0, extOk := exZ f 4,
                   d := if mo f 8 7 = 3 then dst vswz else .pred }
  | 0x07 | 0x08 =>
    let o := mo f 9 7
    some { xkOk := !f.xk,
           modOk := arithMod f (o = 0 && cvtInt t) (o = 0 && t = 6) [0, 1, 2, 3, 4, 5],
           tyOk := if o ≤ 2 then [0, 1, 4, 5, 6].contains t else [9, 5].contains t,
           extOk := exZ f (if op = 0x07 then 0 else 1),
           d := dst (if op = 0x07 then vswz else vz) al, a := src all al }
  | 0x09 => some { xkOk := !f.xk, modOk := f.mod = 0, extOk := bits f.ext 22 20 = 0, d := .pred }
  | 0x0A =>
    if mo f 7 7 = 0 then
      some { xkOk := !f.xk, modOk := mo f 9 8 = 0 && mo f 6 0 = 0, extOk := exZ f 0, d := .pred, a := src skwz }
    else
      some { xkOk := !f.xk, modOk := mo f 9 8 = 0 && mo f 6 0 = 0, extOk := exZ f 4, d := dst vswz }
  | _ => none

/-- The MAT forms (R210, R211). A tadpole has none. -/
def mat (m : Mode) (op : Nat) (f : Fields) : Option FormSpec :=
  let t := ty f
  let sb := mo f 7 7 = 1
  let mma (ext : Bool) : Option FormSpec :=
    some { xkOk := !f.xk, modOk := t < 13 && mo f 9 9 = 0 && mo f 5 4 = 0 && (mo f 6 6 = 0 || t = 2),
           tyOk := [8, 7, 6, 2].contains t, extOk := ext, d := src sw, a := src vo,
           b := src (if sb then skwz else vo) }
  if m ≠ .group then none else
  match op with
  | 0x00 => some { xkOk := !f.xk, modOk := mo f 9 2 = 0 && mo f 1 0 ≠ 3, extOk := exZ f 6, d := dst sw }
  | 0x01 | 0x02 => some { xkOk := !f.xk, modOk := f.mod = 0, extOk := exZ f 0, d := src sw }
  | 0x03 => mma (exZ f 0)
  | 0x04 => mma (exZ f 18 && !(sb && ex f 17 12 ≠ 0))
  | 0x05 => some { xkOk := !f.xk, modOk := f.mod = 0, extOk := exZ f 0, d := src sw, a := src skwz, b := src skwz }
  | 0x06 => some { xkOk := !f.xk,
                   modOk := t < 13 && mo f 9 8 = 0 && (mo f 5 4 = 0 || t = 8 || t = 7) && (mo f 6 6 = 0 || t = 2),
                   tyOk := [6, 8, 7, 0, 2].contains t, extOk := exZ f 0, d := src sw, a := src skwz, b := src skwz }
  | 0x07 => some { xkOk := !f.xk, modOk := mo f 9 8 = 0 && mo f 6 0 = 0, extOk := exZ f 4 && ex f 3 0 ≤ 5,
                   d := src sw, a := src skwz, b := src skwz, c := src skwz }
  | 0x08 => some { xkOk := !f.xk, modOk := f.mod = 0, extOk := exZ f 0, d := dst swz }
  | _ => none

/-- The register alignment of the data of width code W (R234). -/
def dataAlign (w : Nat) : Nat := if w ≤ 2 then 1 else 2 ^ (w - 2)

/-- The types each atomic operation accepts (R243). -/
def atomTy (op t : Nat) : Bool :=
  match op with
  | 0 => [0, 1, 4, 5, 6, 10, 11].contains t
  | 1 | 2 => [0, 1, 4, 5, 6].contains t
  | 3 | 4 | 5 | 6 | 7 => [9, 5].contains t
  | 8 | 9 => t = 1
  | _ => false

/-- The ACC forms (R232-R234, R242, R246-R249, R252, R253, R255). As data, zr counts as a vector register for LD and as a uniform one for
LDA, ST and STL (log 46). -/
def acc (op : Nat) (f : Fields) : Option FormSpec :=
  let w := mo f 9 7
  let b6 := mo f 6 6 = 1
  let or := mo f 5 4
  let sc := mo f 3 2
  let as := mo f 1 0
  let vd := (regOf f.d.toNat).isVector
  let sxOk := !b6 || w ≤ 1
  let base : Operand := src all 2
  let idx : Operand := src all
  let ubase : Operand := src skwz
  let firstVec : Option Nat :=
    if (regOf f.a.toNat).isVector then some 2 else if (regOf f.b.toNat).isVector then some 3 else none
  let ext3 := exZ f 3
  match op with
  | 0x00 => some { modOk := w < 7 && sxOk && or = 0 && as ≠ 3, extOk := ext3, d := dst vz (dataAlign w),
                   a := base, b := idx }
  | 0x01 => some { xkOk := !(f.xk && b6),
                   modOk := w < 7 && (vd || w ≤ 3) && !(b6 && w = 6) && or = 0 && as ≠ 3, extOk := ext3,
                   d := src all (dataAlign w), a := base, b := idx, c := if b6 then src all else .none }
  | 0x02 => some { modOk := w ≤ 3 && sxOk && or = 0 && as ≠ 3, extOk := ext3, d := dst swz, a := ubase, b := ubase }
  | 0x03 => some { modOk := w ≤ 3 && !b6 && or = 0 && as ≠ 3, extOk := ext3, d := src skwz, a := ubase, b := ubase }
  | 0x04 => some { modOk := w ≤ (if vd then 4 else 3) && sxOk && (or = 1 || or = 3) && as ≠ 3, extOk := ext3,
                   d := dst vswz (dataAlign w), a := base, b := idx, combo := if vd then none else firstVec }
  | 0x05 => some { xkOk := !(f.xk && b6), modOk := w ≤ (if vd then 4 else 3) && (or = 2 || or = 3) && as ≠ 3,
                   extOk := ext3, d := src all (dataAlign w), a := base, b := idx,
                   c := if b6 then src all else .none,
                   combo := if vd then none else
                     match firstVec with
                     | some n => some n
                     | none => if b6 && (regOf f.c.toNat).isVector then some 4 else none }
  | 0x06 | 0x07 =>
    let o := ex f 3 0
    let t := ex f 7 4
    let al := tyAlign t
    let uni := sw.has (regOf f.d.toNat)
    let cas := o = 7
    some { xkOk := !f.xk, modOk := w = 0 && !b6 && as ≠ 3,
           extOk := atomTy o t && !(op = 7 && cas),
           d := if op = 6 then dst vswz al else .none, a := base, b := src all al,
           c := if cas then src all al else .none,
           combo := if op = 6 && uni then
                      (match firstVec with
                       | some n => some n
                       | none => if cas && (regOf f.c.toNat).isVector then some 4 else none)
                    else none }
  | 0x08 => some { xkOk := !f.xk, modOk := w = 0 && !b6 && as = 0, extOk := exZ f 0 }
  | 0x09 => some { modOk := w ≤ 2 && !b6 && or = 0 && sc = 0 && (as = 0 || (as = 2 && w ≠ 0)), extOk := ext3,
                   a := base, b := idx }
  | 0x0A => some { modOk := w ≤ 3 && sxOk && or ≤ 1 && sc = 1 && (as = 0 || as = 2), extOk := ext3, d := dst swz,
                   a := ubase, b := ubase }
  | 0x0B => some { xkOk := !(f.xk && b6), modOk := w ≤ 3 && (or = 0 || or = 2) && sc = 1 && (as = 0 || as = 2),
                   extOk := ext3, d := dst swz, a := ubase, b := ubase, c := if b6 then src skwz else .none }
  | 0x0C => some { modOk := w ≤ 1 && or = 0 && sc = 0 && as = 0, extOk := ext3, a := base, b := idx }
  | 0x0D => some { modOk := w ≤ 1 && !b6 && or = 0 && sc = 0 && as = 0, extOk := ext3, a := base, b := idx }
  | 0x0E => some { modOk := w ≤ 3 && !b6 && or = 0 && sc = 0 && as ≠ 3, extOk := ext3, a := ubase, b := ubase }
  | 0x0F => some { modOk := mo f 5 0 = 0, extOk := exZ f 0, d := dst swz, a := if f.xk then .none else src skwz }
  | _ => none

/-- OR and SC of a form that releases or acquires under one of the codes `ors`: SC is one of `scs` then, and 00 with
OR = 00 (R260, R282, R327, R360, R389, R392). -/
def orSc (f : Fields) (ors scs : List Nat) : Bool :=
  if mo f 5 4 = 0 then mo f 3 2 = 0 else ors.contains (mo f 5 4) && scs.contains (mo f 3 2)

/-- The CPY forms (R260, R282). A tadpole has none. -/
def cpy (m : Mode) (op : Nat) (f : Fields) : Option FormSpec :=
  let z := mo f 9 6 = 0 && mo f 1 0 = 0
  let ib : Operand := if f.xk then .none else src skwz
  if m ≠ .group then none else
  match op with
  | 0x00 => some { xkOk := !f.xk, modOk := z && orSc f [2] [0, 1, 2, 3], extOk := exZ f 0, d := dst swz,
                   a := .reg so 1 4 false }
  | 0x01 => some { modOk := z && orSc f [2] [0, 1, 2, 3], extOk := exZ f 0, a := src skwz, b := ib }
  | 0x02 => some { modOk := z && orSc f [2] [0, 1, 2, 3], extOk := exZ f 0, d := dst swz, a := src skwz, b := ib }
  | 0x03 => some { modOk := z && orSc f [1] [0, 1, 2, 3], extOk := exZ f 0, d := dst swz, a := src skwz, b := ib }
  | 0x04 => some { xkOk := !f.xk, modOk := z && orSc f [1] [0, 1, 2, 3], extOk := exZ f 0, d := dst swz,
                   a := src skwz }
  | _ => none

/-- The FAB forms (R327). A tadpole has none. -/
def fab (m : Mode) (op : Nat) (f : Fields) : Option FormSpec :=
  let z := mo f 9 6 = 0 && mo f 1 0 = 0
  if m ≠ .group then none else
  match op with
  | 0x00 | 0x01 | 0x02 | 0x03 =>
    some { xkOk := !f.xk, modOk := z && orSc f [2] [0, 1, 2, 3], extOk := exZ f 0, d := dst swz,
           a := .reg so 1 4 false }
  | 0x04 => some { xkOk := !f.xk, modOk := z && orSc f [2] [0, 1, 2, 3], extOk := exZ f 0, d := dst swz,
                   a := src sw, b := src skwz, c := src swz }
  | 0x05 => some { xkOk := !f.xk, modOk := f.mod = 0, extOk := exZ f 0, d := dst sw, a := src skwz }
  | 0x06 => some { xkOk := !f.xk, modOk := f.mod = 0, extOk := exZ f 0, a := src sw }
  | 0x07 => some { xkOk := !f.xk, modOk := mo f 9 8 = 0 && mo f 6 0 = 0, extOk := exZ f 0, d := dst swz }
  | _ => none

/-- The SYN forms (R360). -/
def syn (m : Mode) (op : Nat) (f : Fields) : Option FormSpec :=
  let z := mo f 9 6 = 0 && mo f 1 0 = 0
  let grp := m = .group
  match op with
  | 0x00 => if grp then some { xkOk := !f.xk, modOk := z && orSc f [2] [2, 3], extOk := exZ f 6, d := dst swz }
            else none
  | 0x01 => if grp then some { xkOk := !f.xk, modOk := z && orSc f [1] [2, 3], extOk := exZ f 6, d := dst swz,
                               b := src skwz }
            else none
  | 0x02 => if grp then some { xkOk := !f.xk, modOk := z && orSc f [1] [2, 3], extOk := exZ f 6, d := dst swz }
            else none
  | 0x03 => some { xkOk := !f.xk, modOk := f.mod = 0, extOk := exZ f 6, d := dst swz, a := src skw, b := src skw }
  | 0x04 => some { xkOk := !f.xk, modOk := f.mod = 0, extOk := exZ f 0, d := dst swz, a := src skw, b := src skwz }
  | _ => none

/-- The WRK forms (R389, R390, R392). A tadpole has none. -/
def wrk (m : Mode) (op : Nat) (f : Fields) : Option FormSpec :=
  let z := mo f 9 6 = 0 && mo f 1 0 = 0
  if m ≠ .group then none else
  match op with
  | 0x00 => some { xkOk := !f.xk, modOk := z && orSc f [2] [2, 3], extOk := exZ f 0, d := dst swz, a := src skw }
  | 0x01 => some { xkOk := !f.xk, modOk := mo f 9 7 ≤ 2 && mo f 6 0 = 0, extOk := exZ f 0, d := dst swz,
                   a := src skw }
  | 0x02 => some { xkOk := !f.xk, modOk := z && orSc f [2] [1, 2, 3], extOk := exZ f 4, d := dst swz,
                   a := src skwz, b := src skwz }
  | 0x03 => some { xkOk := !f.xk, modOk := z && orSc f [1] [1, 2, 3], extOk := exZ f 8, d := dst swz }
  | 0x04 => some { xkOk := !f.xk, modOk := f.mod = 0, extOk := exZ f 4, d := dst swz }
  | _ => none

/-- The TRP forms (R408). -/
def trp (op : Nat) (f : Fields) : Option FormSpec :=
  let z := f.mod = 0
  let e := exZ f 0
  let ib (acc : Accept) : Operand := if f.xk then .none else src acc
  match op with
  | 0x00 => some { modOk := z, extOk := e, d := dst vsz, a := src so, b := ib skz }
  | 0x01 => some { xkOk := !f.xk, modOk := z, extOk := e, d := dst sz, a := src so, b := src skz, c := src skz }
  | 0x02 => some { xkOk := !f.xk, modOk := z, extOk := e, a := src so, b := src so }
  | 0x03 => some { modOk := z, extOk := e, d := dst sz, a := src so, b := ib skz }
  | 0x04 =>
    let md := mo f 1 0
    some { xkOk := !f.xk, modOk := mo f 9 2 = 0, extOk := exZ f 14, d := if md ≤ 1 then dst vsz else .none,
           a := src so, b := src skz, c := if md = 2 then src skz else .none }
  | 0x05 => some { modOk := z, extOk := e, d := dst sz, a := src so, b := ib skz }
  | 0x06 => some { xkOk := !f.xk, modOk := z, extOk := e, d := dst sz, a := src so }
  | 0x07 => some { xkOk := !f.xk, modOk := z, extOk := e, a := src so }
  | 0x08 => some { xkOk := !f.xk, modOk := mo f 9 1 = 0, extOk := e, a := src so }
  | 0x09 =>
    if mo f 0 0 = 1 then some { xkOk := !f.xk, modOk := mo f 9 1 = 0, extOk := e, d := dst sz, a := src so }
    else some { modOk := mo f 9 1 = 0, extOk := e, d := dst sz, a := ib skz }
  | 0x0A => some { xkOk := !f.xk, modOk := mo f 9 1 = 0, extOk := e }
  | _ => none

/-- The SYS forms (R415, R448). -/
def sys (op : Nat) (f : Fields) : Option FormSpec :=
  let z := f.mod = 0
  let e := exZ f 0
  let ia : Operand := if f.xk then .none else src skz
  match op with
  | 0x00 => some { modOk := z, extOk := e, d := dst sz, a := ia }
  | 0x01 => some { xkOk := !f.xk, modOk := z, extOk := e, a := src so, b := src skz }
  | 0x02 =>
    let all := mo f 0 0 = 1
    some { xkOk := !f.xk, modOk := mo f 9 1 = 0, extOk := e, d := dst sz,
           a := if all then .none else src skz, b := if all then .none else src skz }
  | 0x03 | 0x04 => some { xkOk := !f.xk, modOk := z, extOk := e, d := dst sz, a := src skz, b := src so }
  | 0x05 =>
    let own := mo f 0 0 = 1
    some { modOk := mo f 9 1 = 0, extOk := e, a := if own then .none else ia }
  | 0x06 => some { modOk := z, extOk := e, d := dst sz, a := ia }
  | _ => none

end Forms

/-- What the form with this OPC accepts when run by code of mode `m`; none when OPC is unassigned there (R122, R161). -/
def formSpec (m : Mode) (opc : Nat) (f : Fields) : Option FormSpec :=
  let op := opc % 64
  match opc / 64 with
  | 0x0 =>
    if m ≠ .group && [0x03, 0x04, 0x08, 0x09, 0x0B, 0x0C, 0x0E, 0x11].contains op then none else Forms.ctl m op f
  | 0x1 => Forms.sal op f
  | 0x2 => Forms.vin op f
  | 0x3 => Forms.vfp op f
  | 0x4 => Forms.vxf op f
  | 0x5 => Forms.mat m op f
  | 0x6 => Forms.acc op f
  | 0x7 => Forms.cpy m op f
  | 0x8 => Forms.fab m op f
  | 0x9 => Forms.syn m op f
  | 0xA => Forms.wrk m op f
  | 0xB => Forms.trp op f
  | 0xC => Forms.sys op f
  | _ => none

/-- The verdict of reason 7 on one field. -/
def Operand.shapeOk (code : Nat) : Operand → Bool
  | .none => code = 0
  | .pred => code < 16
  | .other => true
  | .reg _ _ _ _ => regOf code ≠ .reserved

/-- A register code that the running class has (R113): a tadpole has v0-v63 and no w registers. -/
def Reg.inMode (m : Mode) : Reg → Bool
  | .v n => m = .group || n < 64
  | .w _ => m = .group
  | _ => true

/-- The verdict of reason 8 on one field; a k in a D that the form writes is left to reason 10. -/
def Operand.classOk (m : Mode) (code : Nat) : Operand → Bool
  | .reg acc _ _ dest => ((acc.has (regOf code)) && (regOf code).inMode m) || (dest && (match regOf code with | .k _ => true | _ => false))
  | _ => true

/-- The verdict of reason 9 on one field (R57, R234, R260). -/
def Operand.alignOk (code : Nat) : Operand → Bool
  | .reg _ al sal _ =>
    match regOf code with
    | .v n => n % al = 0
    | .s n => n % sal = 0
    | _ => true
  | _ => true

/-- The verdict of reason 10 on D. -/
def Operand.writeOk (code : Nat) : Operand → Bool
  | .reg acc _ _ true => acc.k || (match regOf code with | .k _ => false | _ => true)
  | _ => true

/-- The first field, in the order D, A, B, C, whose verdict is false, by its field code; the manual gives no order among the fields of one
check (log 44). -/
def firstField (l : List (Bool × Nat)) : Option Nat :=
  match l with
  | [] => none
  | (ok, n) :: r => if ok then firstField r else some n

/-- The code whose register names a form's fields may hold: those of the TRP forms follow tadpoles (R408). -/
def namesOf (m : Mode) (opc : Nat) : Mode := if opc / 64 = 0xB && m = .group then .userTadpole else m

/-- The checks of R123 from reason 2 on, in order: none when the encoding is legal, else the reason and field code. -/
def illegal (m : Mode) (opc : Nat) (f : Fields) : Option (Nat × Nat) :=
  match formSpec m opc f with
  | none => some (2, 8)
  | some sp =>
    let cOp : Operand := if f.xk then .other else sp.c
    let fs (p : Operand → Nat → Bool) : Option Nat :=
      firstField [(p sp.d f.d.toNat, 1), (p sp.a f.a.toNat, 2), (p sp.b f.b.toNat, 3), (p cOp f.c.toNat, 4)]
    if !sp.xkOk then some (3, 7)
    else if !sp.modOk then some (4, 6)
    else if !sp.tyOk then some (5, 6)
    else if !sp.extOk then some (6, 5)
    else match fs (fun o c => o.shapeOk c) with
      | some n => some (7, n)
      | none =>
        match fs (fun o c => o.classOk (namesOf m opc) c) with
        | some n => some (8, n)
        | none =>
          match sp.combo with
          | some n => some (8, n)
          | none =>
            match fs (fun o c => o.alignOk c) with
            | some n => some (9, n)
            | none => if !(sp.d.writeOk f.d.toNat) then some (10, 1) else if !sp.srOk then some (10, 5) else none

end Sys2Proof
end

