-- ==== Sys2Proof/Machine/Opcodes.lean ====
section
/-! DEFINITION. OPC of every form and the form of every OPC (R122). -/

namespace Sys2Proof

/-- What an event answers where a form has its OPC and fields: it has no encoding. -/
def noForm : Option (Nat × Fields) := none

/-- OPC and fields of a form; an event has no encoding (R122). -/
def Instr.form : Instr → Option (Nat × Fields)
  | .nop f => some (0x000, f)
  | .bra f => some (0x001, f)
  | .brc f => some (0x002, f)
  | .brd f => some (0x003, f)
  | .join f => some (0x004, f)
  | .call f => some (0x005, f)
  | .ret f => some (0x006, f)
  | .bri f => some (0x007, f)
  | .exit f => some (0x008, f)
  | .yield f => some (0x009, f)
  | .wait f => some (0x00A, f)
  | .waitb f => some (0x00B, f)
  | .bar f => some (0x00C, f)
  | .exmrd f => some (0x00D, f)
  | .exmwr f => some (0x00E, f)
  | .rdsr f => some (0x00F, f)
  | .wrsr f => some (0x010, f)
  | .sigchk f => some (0x011, f)
  | .bkpt f => some (0x012, f)
  | .trap f => some (0x013, f)
  | .rdtimeL f => some (0x014, f)
  | .rdtimeG f => some (0x014, f)
  | .rdband f => some (0x015, f)
  | .sadd f => some (0x040, f)
  | .ssub f => some (0x041, f)
  | .smul f => some (0x042, f)
  | .smulh f => some (0x043, f)
  | .smad f => some (0x044, f)
  | .sand f => some (0x045, f)
  | .sor f => some (0x046, f)
  | .sxor f => some (0x047, f)
  | .sshl f => some (0x048, f)
  | .sshr f => some (0x049, f)
  | .ssar f => some (0x04A, f)
  | .smin f => some (0x04B, f)
  | .smax f => some (0x04C, f)
  | .scmp f => some (0x04D, f)
  | .ssel f => some (0x04E, f)
  | .smov f => some (0x04F, f)
  | .smovi f => some (0x050, f)
  | .slea f => some (0x051, f)
  | .sclz f => some (0x052, f)
  | .spop f => some (0x053, f)
  | .sbfe f => some (0x054, f)
  | .sbfi f => some (0x055, f)
  | .vadd f => some (0x080, f)
  | .vsub f => some (0x081, f)
  | .vmul f => some (0x082, f)
  | .vmulh f => some (0x083, f)
  | .vmad f => some (0x084, f)
  | .vmadw f => some (0x085, f)
  | .vaddc f => some (0x086, f)
  | .vand f => some (0x087, f)
  | .vor f => some (0x088, f)
  | .vxor f => some (0x089, f)
  | .vshl f => some (0x08A, f)
  | .vshr f => some (0x08B, f)
  | .vsar f => some (0x08C, f)
  | .vmin f => some (0x08D, f)
  | .vmax f => some (0x08E, f)
  | .vabs f => some (0x08F, f)
  | .vcmp f => some (0x090, f)
  | .vsel f => some (0x091, f)
  | .vmov f => some (0x092, f)
  | .vmovi f => some (0x093, f)
  | .vbfe f => some (0x094, f)
  | .vbfi f => some (0x095, f)
  | .vclz f => some (0x096, f)
  | .vpop f => some (0x097, f)
  | .vbrev f => some (0x098, f)
  | .fadd f => some (0x0C0, f)
  | .fsub f => some (0x0C1, f)
  | .fmul f => some (0x0C2, f)
  | .ffma f => some (0x0C3, f)
  | .fmin f => some (0x0C4, f)
  | .fmax f => some (0x0C5, f)
  | .fcmp f => some (0x0C6, f)
  | .fclass f => some (0x0C7, f)
  | .fdiv f => some (0x0C8, f)
  | .fsqrt f => some (0x0C9, f)
  | .frcp f => some (0x0CA, f)
  | .frsq f => some (0x0CB, f)
  | .fexp2 f => some (0x0CC, f)
  | .flog2 f => some (0x0CD, f)
  | .ftanh f => some (0x0CE, f)
  | .hadd2 f => some (0x0CF, f)
  | .hmul2 f => some (0x0D0, f)
  | .hfma2 f => some (0x0D1, f)
  | .hmax2 f => some (0x0D2, f)
  | .hmin2 f => some (0x0D3, f)
  | .cvt f => some (0x100, f)
  | .fxcvt f => some (0x101, f)
  | .fxtof f => some (0x102, f)
  | .qswp f => some (0x103, f)
  | .qbc f => some (0x104, f)
  | .shfl f => some (0x105, f)
  | .vote f => some (0x106, f)
  | .gred f => some (0x107, f)
  | .gscan f => some (0x108, f)
  | .plop f => some (0x109, f)
  | .pmov f => some (0x10A, f)
  | .mtalloc f => some (0x140, f)
  | .mtfree f => some (0x141, f)
  | .mzero f => some (0x142, f)
  | .mma f => some (0x143, f)
  | .mloop f => some (0x144, f)
  | .mwracc f => some (0x145, f)
  | .mdrain f => some (0x146, f)
  | .mdrainq f => some (0x147, f)
  | .mbatch f => some (0x148, f)
  | .ld f => some (0x180, f)
  | .st f => some (0x181, f)
  | .ldu f => some (0x182, f)
  | .stu f => some (0x183, f)
  | .lda f => some (0x184, f)
  | .stl f => some (0x185, f)
  | .atom f => some (0x186, f)
  | .red f => some (0x187, f)
  | .fence f => some (0x188, f)
  | .pref f => some (0x189, f)
  | .lnlk f => some (0x18A, f)
  | .lnul f => some (0x18B, f)
  | .lnwb f => some (0x18C, f)
  | .lndrop f => some (0x18D, f)
  | .marm f => some (0x18E, f)
  | .mslp f => some (0x18F, f)
  | .cpyq f => some (0x1C0, f)
  | .phinit f => some (0x1C1, f)
  | .pharr f => some (0x1C2, f)
  | .phwait f => some (0x1C3, f)
  | .phtest f => some (0x1C4, f)
  | .bxsend f => some (0x200, f)
  | .bxget f => some (0x201, f)
  | .bxmc f => some (0x202, f)
  | .bxred f => some (0x203, f)
  | .bxflag f => some (0x204, f)
  | .mboxreg f => some (0x205, f)
  | .mboxrel f => some (0x206, f)
  | .fabst f => some (0x207, f)
  | .tbjoin f => some (0x240, f)
  | .tbwait f => some (0x241, f)
  | .tbtest f => some (0x242, f)
  | .tbexc f => some (0x243, f)
  | .haltj f => some (0x244, f)
  | .launch f => some (0x280, f)
  | .qtokSig f => some (0x281, f)
  | .qtokGet f => some (0x281, f)
  | .qtokReset f => some (0x281, f)
  | .wlapp f => some (0x282, f)
  | .wltake f => some (0x283, f)
  | .wlstat f => some (0x284, f)
  | .fzrd f => some (0x2C0, f)
  | .fzwr f => some (0x2C1, f)
  | .fzpc f => some (0x2C2, f)
  | .fzmask f => some (0x2C3, f)
  | .fzlogRd f => some (0x2C4, f)
  | .fzlogReg f => some (0x2C4, f)
  | .fzlogPut f => some (0x2C4, f)
  | .fzlogDone f => some (0x2C4, f)
  | .fzlane f => some (0x2C5, f)
  | .fzstep f => some (0x2C6, f)
  | .fzres f => some (0x2C7, f)
  | .fzkill f => some (0x2C8, f)
  | .capqEnum f => some (0x2C9, f)
  | .capqStat f => some (0x2C9, f)
  | .hret f => some (0x2CA, f)
  | .prd f => some (0x300, f)
  | .pwr f => some (0x301, f)
  | .rlbinv f => some (0x302, f)
  | .ctxsv f => some (0x303, f)
  | .ctxld f => some (0x304, f)
  | .resumej f => some (0x305, f)
  | .curet f => some (0x306, f)
  | .codeLineCrcMismatch _ => noForm
  | .accessCompletion _ _ => noForm
  | .accessFault _ _ _ => noForm
  | .laneDeath _ _ => noForm
  | .tadpoleSpawn _ => noForm
  | .watchdogExpiry _ => noForm
  | .overdueSwap _ _ _ => noForm
  | .groupSwap _ _ _ => noForm
  | .groupPark _ => noForm
  | .wakeConditionFires _ => noForm
  | .cuReclaim _ => noForm
  | .barrierPhaseComplete _ _ _ => noForm
  | .matrixOperationComplete _ _ => noForm
  | .mstg _ _ _ _ _ => noForm
  | .copyDispatch _ _ => noForm
  | .copyComplete _ _ => noForm
  | .copyEngineFault _ _ _ => noForm
  | .mslpTimeout _ => noForm
  | .lockBreak _ _ => noForm
  | .rdt _ => noForm
  | .wrt _ => noForm
  | .tok _ => noForm
  | .wb _ => noForm
  | .preq _ => noForm
  | .pact _ => noForm
  | .pdone _ => noForm
  | .pdeact _ => noForm
  | .rgstart _ => noForm
  | .rgack _ => noForm
  | .rgdata _ => noForm
  | .rgend _ => noForm
  | .transientRetryExpiry _ _ => noForm
  | .persistentArbitration _ => noForm
  | .homeRequest _ => noForm
  | .regrowthTrigger _ _ => noForm
  | .pnakRetry _ => noForm
  | .scrubActivation _ _ _ => noForm
  | .fwctlWrite _ _ => noForm
  | .windowSectorRead _ _ => noForm
  | .gctlCommit _ _ _ => noForm
  | .tbctlWrite _ _ _ => noForm
  | .tmctlWrite _ => noForm
  | .registerWrite _ _ _ => noForm
  | .qtailDoorbell _ _ _ => noForm
  | .qcplWrite _ _ _ => noForm
  | .entryLaunch _ _ => noForm
  | .entrySignalToken _ _ => noForm
  | .entryWaitToken _ _ => noForm
  | .entryResetToken _ _ => noForm
  | .launchAccept _ _ => noForm
  | .dispatchOpportunity _ => noForm
  | .launchComplete _ => noForm
  | .terminationWaves _ _ => noForm
  | .systemAccessPacket _ => noForm
  | .dataPacketReceive _ => noForm
  | .getRequest _ => noForm
  | .acknowledgement _ => noForm
  | .mergedAcknowledgement _ => noForm
  | .multicastReplication _ => noForm
  | .reductionContribution _ => noForm
  | .reductionTimeout _ _ _ _ _ => noForm
  | .retransmissionTimeout _ _ => noForm
  | .packetLifetimeExpiry _ _ => noForm
  | .countingEndTimeout _ _ => noForm
  | .fabricFailureRecorded _ _ => noForm
  | .recoveryNotice _ _ => noForm
  | .peerLost _ => noForm
  | .haltWave _ _ => noForm
  | .firstTriggerSettled _ _ => noForm
  | .brumationDrained _ => noForm
  | .resumeAtT _ => noForm
  | .resumeFailure _ => noForm
  | .treeBarrierRelease _ _ _ => noForm
  | .treeFailover _ => noForm
  | .rowSegmentLoss _ => noForm
  | .timeCalibration _ _ => noForm
  | .dieLoss _ => noForm
  | .dieReset _ _ _ => noForm
  | .hostSnoop _ _ => noForm
  | .cxlMemRead _ _ => noForm
  | .cxlMemWrite _ _ _ _ => noForm
  | .moduleStart _ => noForm
  | .throttleTrigger _ _ => noForm
  | .thermalReset => noForm
  | .getVersion => noForm
  | .getCapabilities => noForm
  | .negotiateAlgorithms _ => noForm
  | .getDigests => noForm
  | .getCertificate _ _ _ => noForm
  | .challenge _ _ => noForm
  | .getMeasurements _ _ => noForm
  | .regrowthWaitTimeout _ _ _ => noForm
  | .regrowthDeferralExpiry _ _ => noForm
  | .fabricEngineFault _ _ _ => noForm
  | .hostPortLoss _ _ => noForm
  | .qctlWrite _ _ _ _ => noForm
  | .fabricPortDown _ => noForm
  | .pldmFirmwareUpdate _ => noForm

/-- The forms of class 0x0 by operation number (R122). -/
def ofCtl (op : Nat) (f : Fields) : Option Instr :=
  match op with
  | 0x00 => some (.nop f)
  | 0x01 => some (.bra f)
  | 0x02 => some (.brc f)
  | 0x03 => some (.brd f)
  | 0x04 => some (.join f)
  | 0x05 => some (.call f)
  | 0x06 => some (.ret f)
  | 0x07 => some (.bri f)
  | 0x08 => some (.exit f)
  | 0x09 => some (.yield f)
  | 0x0A => some (.wait f)
  | 0x0B => some (.waitb f)
  | 0x0C => some (.bar f)
  | 0x0D => some (.exmrd f)
  | 0x0E => some (.exmwr f)
  | 0x0F => some (.rdsr f)
  | 0x10 => some (.wrsr f)
  | 0x11 => some (.sigchk f)
  | 0x12 => some (.bkpt f)
  | 0x13 => some (.trap f)
  | 0x14 => (match Forms.mo f 0 0 with | 0 => some (.rdtimeL f) | 1 => some (.rdtimeG f) | _ => none)
  | 0x15 => some (.rdband f)
  | _ => none

/-- The forms of class 0x1 by operation number (R122). -/
def ofSal (op : Nat) (f : Fields) : Option Instr :=
  match op with
  | 0x00 => some (.sadd f)
  | 0x01 => some (.ssub f)
  | 0x02 => some (.smul f)
  | 0x03 => some (.smulh f)
  | 0x04 => some (.smad f)
  | 0x05 => some (.sand f)
  | 0x06 => some (.sor f)
  | 0x07 => some (.sxor f)
  | 0x08 => some (.sshl f)
  | 0x09 => some (.sshr f)
  | 0x0A => some (.ssar f)
  | 0x0B => some (.smin f)
  | 0x0C => some (.smax f)
  | 0x0D => some (.scmp f)
  | 0x0E => some (.ssel f)
  | 0x0F => some (.smov f)
  | 0x10 => some (.smovi f)
  | 0x11 => some (.slea f)
  | 0x12 => some (.sclz f)
  | 0x13 => some (.spop f)
  | 0x14 => some (.sbfe f)
  | 0x15 => some (.sbfi f)
  | _ => none

/-- The forms of class 0x2 by operation number (R122). -/
def ofVin (op : Nat) (f : Fields) : Option Instr :=
  match op with
  | 0x00 => some (.vadd f)
  | 0x01 => some (.vsub f)
  | 0x02 => some (.vmul f)
  | 0x03 => some (.vmulh f)
  | 0x04 => some (.vmad f)
  | 0x05 => some (.vmadw f)
  | 0x06 => some (.vaddc f)
  | 0x07 => some (.vand f)
  | 0x08 => some (.vor f)
  | 0x09 => some (.vxor f)
  | 0x0A => some (.vshl f)
  | 0x0B => some (.vshr f)
  | 0x0C => some (.vsar f)
  | 0x0D => some (.vmin f)
  | 0x0E => some (.vmax f)
  | 0x0F => some (.vabs f)
  | 0x10 => some (.vcmp f)
  | 0x11 => some (.vsel f)
  | 0x12 => some (.vmov f)
  | 0x13 => some (.vmovi f)
  | 0x14 => some (.vbfe f)
  | 0x15 => some (.vbfi f)
  | 0x16 => some (.vclz f)
  | 0x17 => some (.vpop f)
  | 0x18 => some (.vbrev f)
  | _ => none

/-- The forms of class 0x3 by operation number (R122). -/
def ofVfp (op : Nat) (f : Fields) : Option Instr :=
  match op with
  | 0x00 => some (.fadd f)
  | 0x01 => some (.fsub f)
  | 0x02 => some (.fmul f)
  | 0x03 => some (.ffma f)
  | 0x04 => some (.fmin f)
  | 0x05 => some (.fmax f)
  | 0x06 => some (.fcmp f)
  | 0x07 => some (.fclass f)
  | 0x08 => some (.fdiv f)
  | 0x09 => some (.fsqrt f)
  | 0x0A => some (.frcp f)
  | 0x0B => some (.frsq f)
  | 0x0C => some (.fexp2 f)
  | 0x0D => some (.flog2 f)
  | 0x0E => some (.ftanh f)
  | 0x0F => some (.hadd2 f)
  | 0x10 => some (.hmul2 f)
  | 0x11 => some (.hfma2 f)
  | 0x12 => some (.hmax2 f)
  | 0x13 => some (.hmin2 f)
  | _ => none

/-- The forms of class 0x4 by operation number (R122). -/
def ofVxf (op : Nat) (f : Fields) : Option Instr :=
  match op with
  | 0x00 => some (.cvt f)
  | 0x01 => some (.fxcvt f)
  | 0x02 => some (.fxtof f)
  | 0x03 => some (.qswp f)
  | 0x04 => some (.qbc f)
  | 0x05 => some (.shfl f)
  | 0x06 => some (.vote f)
  | 0x07 => some (.gred f)
  | 0x08 => some (.gscan f)
  | 0x09 => some (.plop f)
  | 0x0A => some (.pmov f)
  | _ => none

/-- The forms of class 0x5 by operation number (R122). -/
def ofMat (op : Nat) (f : Fields) : Option Instr :=
  match op with
  | 0x00 => some (.mtalloc f)
  | 0x01 => some (.mtfree f)
  | 0x02 => some (.mzero f)
  | 0x03 => some (.mma f)
  | 0x04 => some (.mloop f)
  | 0x05 => some (.mwracc f)
  | 0x06 => some (.mdrain f)
  | 0x07 => some (.mdrainq f)
  | 0x08 => some (.mbatch f)
  | _ => none

/-- The forms of class 0x6 by operation number (R122). -/
def ofAcc (op : Nat) (f : Fields) : Option Instr :=
  match op with
  | 0x00 => some (.ld f)
  | 0x01 => some (.st f)
  | 0x02 => some (.ldu f)
  | 0x03 => some (.stu f)
  | 0x04 => some (.lda f)
  | 0x05 => some (.stl f)
  | 0x06 => some (.atom f)
  | 0x07 => some (.red f)
  | 0x08 => some (.fence f)
  | 0x09 => some (.pref f)
  | 0x0A => some (.lnlk f)
  | 0x0B => some (.lnul f)
  | 0x0C => some (.lnwb f)
  | 0x0D => some (.lndrop f)
  | 0x0E => some (.marm f)
  | 0x0F => some (.mslp f)
  | _ => none

/-- The forms of class 0x7 by operation number (R122). -/
def ofCpy (op : Nat) (f : Fields) : Option Instr :=
  match op with
  | 0x00 => some (.cpyq f)
  | 0x01 => some (.phinit f)
  | 0x02 => some (.pharr f)
  | 0x03 => some (.phwait f)
  | 0x04 => some (.phtest f)
  | _ => none

/-- The forms of class 0x8 by operation number (R122). -/
def ofFab (op : Nat) (f : Fields) : Option Instr :=
  match op with
  | 0x00 => some (.bxsend f)
  | 0x01 => some (.bxget f)
  | 0x02 => some (.bxmc f)
  | 0x03 => some (.bxred f)
  | 0x04 => some (.bxflag f)
  | 0x05 => some (.mboxreg f)
  | 0x06 => some (.mboxrel f)
  | 0x07 => some (.fabst f)
  | _ => none

/-- The forms of class 0x9 by operation number (R122). -/
def ofSyn (op : Nat) (f : Fields) : Option Instr :=
  match op with
  | 0x00 => some (.tbjoin f)
  | 0x01 => some (.tbwait f)
  | 0x02 => some (.tbtest f)
  | 0x03 => some (.tbexc f)
  | 0x04 => some (.haltj f)
  | _ => none

/-- The forms of class 0xa by operation number (R122). -/
def ofWrk (op : Nat) (f : Fields) : Option Instr :=
  match op with
  | 0x00 => some (.launch f)
  | 0x01 => (match Forms.mo f 9 7 with | 0 => some (.qtokSig f) | 1 => some (.qtokGet f) | 2 => some (.qtokReset f) | _ => none)
  | 0x02 => some (.wlapp f)
  | 0x03 => some (.wltake f)
  | 0x04 => some (.wlstat f)
  | _ => none

/-- The forms of class 0xb by operation number (R122). -/
def ofTrp (op : Nat) (f : Fields) : Option Instr :=
  match op with
  | 0x00 => some (.fzrd f)
  | 0x01 => some (.fzwr f)
  | 0x02 => some (.fzpc f)
  | 0x03 => some (.fzmask f)
  | 0x04 => (match Forms.mo f 1 0 with | 0 => some (.fzlogRd f) | 1 => some (.fzlogReg f) | 2 => some (.fzlogPut f) | 3 => some (.fzlogDone f) | _ => none)
  | 0x05 => some (.fzlane f)
  | 0x06 => some (.fzstep f)
  | 0x07 => some (.fzres f)
  | 0x08 => some (.fzkill f)
  | 0x09 => (match Forms.mo f 0 0 with | 0 => some (.capqEnum f) | 1 => some (.capqStat f) | _ => none)
  | 0x0A => some (.hret f)
  | _ => none

/-- The forms of class 0xc by operation number (R122). -/
def ofSys (op : Nat) (f : Fields) : Option Instr :=
  match op with
  | 0x00 => some (.prd f)
  | 0x01 => some (.pwr f)
  | 0x02 => some (.rlbinv f)
  | 0x03 => some (.ctxsv f)
  | 0x04 => some (.ctxld f)
  | 0x05 => some (.resumej f)
  | 0x06 => some (.curet f)
  | _ => none

/-- The form that an OPC and its fields name (R122). -/
def ofForm (opc : Nat) (f : Fields) : Option Instr :=
  match opc / 64 with
  | 0 => ofCtl (opc % 64) f
  | 1 => ofSal (opc % 64) f
  | 2 => ofVin (opc % 64) f
  | 3 => ofVfp (opc % 64) f
  | 4 => ofVxf (opc % 64) f
  | 5 => ofMat (opc % 64) f
  | 6 => ofAcc (opc % 64) f
  | 7 => ofCpy (opc % 64) f
  | 8 => ofFab (opc % 64) f
  | 9 => ofSyn (opc % 64) f
  | 10 => ofWrk (opc % 64) f
  | 11 => ofTrp (opc % 64) f
  | 12 => ofSys (opc % 64) f
  | _ => none

end Sys2Proof
end

