-- ==== Sys2Proof/WellFormed.lean ====
section
/-! DEFINITION. Well-formed instructions: a form whose fields pass the checks of R123 for the code that runs it, and an
event whose operands name parts the module has. -/

namespace Sys2Proof

/-- Operands of an event that name a part outside the module's counts (R10, R12, R13, R305, R352, R372). -/
def Instr.eventWf : Instr → Bool
  | .fwctlWrite w _ => w < 16
  | .gctlCommit _ g _ => g < 256
  | .tbctlWrite _ b _ => b < 64
  | .qtailDoorbell c q _ => c < 1024 && q < 4
  | .qcplWrite c q _ => c < 1024 && q < 4
  | .qctlWrite p c q _ => p < 4 && c < 1024 && q < 4
  | .dieLoss t => t < 168
  | .dieReset t _ _ => t < 168
  | .hostSnoop p _ => p < 4
  | .cxlMemRead p _ => p < 4
  | .cxlMemWrite p _ _ d => p < 4 && d.length = 64
  | .hostPortLoss p _ => p < 4
  | .fabricPortDown p => p < 64
  | .rowSegmentLoss r => r < 12
  | .timeCalibration d _ => d < 84
  | .dispatchOpportunity d => d < 84
  | _ => true

/-- A well-formed step for code of mode `m`. -/
def Instr.wf (m : Mode) (i : Instr) : Bool :=
  match i.form with
  | some (opc, f) => (illegal m opc f).isNone && ofForm opc f == some i
  | none => i.eventWf

end Sys2Proof
end

