-- ==== Sys2Proof/Decode.lean ====
section
/-! DEFINITION. The 96-bit instruction word (R112): its fields, the decoder with the checks of R123 in order, and the
encoder from the same field map. -/

namespace Sys2Proof

/-- The fields of an instruction word (R112). -/
def fieldsOf (w : BitVec 96) : Fields :=
  { yld := w.getLsbD 92, stall := w.extractLsb' 88 4, lrc := w.getLsbD 87, lrb := w.getLsbD 86,
    lra := w.getLsbD 85, gneg := w.getLsbD 84, grd := w.extractLsb' 80 4, mod := w.extractLsb' 70 10,
    xk := w.getLsbD 69, x := w.extractLsb' 37 32, b := w.extractLsb' 28 9, a := w.extractLsb' 19 9,
    d := w.extractLsb' 10 9 }

/-- OPC of an instruction word (R112). -/
def opcOf (w : BitVec 96) : Nat := (w.extractLsb' 0 10).toNat

/-- The word with OPC and these fields, bits 95:93 zero (R112). -/
def wordOf (opc : Nat) (f : Fields) : BitVec 96 :=
  (0 : BitVec 3) ++ BitVec.ofBool f.yld ++ f.stall ++ BitVec.ofBool f.lrc ++ BitVec.ofBool f.lrb ++
    BitVec.ofBool f.lra ++ BitVec.ofBool f.gneg ++ f.grd ++ f.mod ++ BitVec.ofBool f.xk ++ f.x ++ f.b ++ f.a ++
    f.d ++ BitVec.ofNat 10 opc

/-- What the decoder answers: an instruction, or an illegal encoding with its reason and field code (R123). -/
inductive Decoded where
  | instr (i : Instr)
  | illegal (reason field : Nat)
  deriving DecidableEq, Repr

/-- The decoder: the checks of R123 in order, whatever the guard. -/
def decode (m : Mode) (w : BitVec 96) : Decoded :=
  if w.extractLsb' 93 3 ≠ 0 then .illegal 1 9
  else
    match illegal m (opcOf w) (fieldsOf w) with
    | some (r, c) => .illegal r c
    | none =>
      match ofForm (opcOf w) (fieldsOf w) with
      | some i => .instr i
      | none => .illegal 2 8

/-- FSYN of an illegal encoding (R123). -/
def iencFsyn (reason field : Nat) : Nat := reason + 16 * field

/-- The word of a form (R112); an event has none. -/
def encode (i : Instr) : Option (BitVec 96) := i.form.map fun p => wordOf p.1 p.2

/-- The three stored words of an instruction word, lowest address first (R107). -/
def storedWords (w : BitVec 96) : List Word := [w.extractLsb' 0 32, w.extractLsb' 32 32, w.extractLsb' 64 32]

/-- The 12 bytes of a slot, lowest address first (R107, R2). -/
def wordBytes (w : BitVec 96) : List Byte := (List.range 12).map fun i => w.extractLsb' (8 * i) 8

/-- The instruction word that 12 bytes hold. -/
def bytesWord (l : List Byte) : BitVec 96 :=
  l.foldr (fun b acc => (acc <<< 8) ||| b.setWidth 96) 0

/-- What the decoder reads from an instruction numbered as the opcode table numbers its bits; bits above `nbits` are
zero. The word is read as group code. -/
def decodeTableWord (nbits w : Nat) : Option Instr :=
  let word := bytesWord (wordBytes (BitVec.ofNat 96 (w % 2 ^ nbits)))
  match decode .group word with
  | .instr i => some i
  | .illegal _ _ => none

end Sys2Proof
end

