-- ==== Sys2Proof/Config.lean ====
section
/-! DEFINITION. What one implementation fixes and the values the spec leaves open. An `opaque` constant has no body that
a proof can see: a claim about it holds whatever it is. -/

namespace Sys2Proof

/-- Free values (log 3): the `n`-th value the spec leaves open in a run. -/
opaque Config.freeValue (n : Nat) : Word64

/-- The choice among the values a w register may show in the 0 to 3 clk after a write (R63, log 3). -/
opaque Config.wRace (n : Nat) (reg : Nat) : Nat

/-- Whether the module drops a prefetch (R248, log 3). -/
opaque Config.prefDrop (n : Nat) : Bool

/-- The number of the physical register that a rename takes, as FZLOG shows it (R58, R239, log 4). -/
opaque Config.physNum (id : Nat) : BitVec 11

/-- The hash that spreads sectors over the slices of an L2 (R16, log 38). -/
opaque Config.sliceHash (sec : Nat) : Nat

/-- Whether a request that finds a translation cached in another form than memory now has uses the new one (R447, log 60). -/
opaque Config.newForm (n ctx va : Nat) : Bool

/-- The syndrome of a data word whose parity a router's buffer found odd, which no chapter gives (R36, log 59). -/
opaque Config.routerSyn : Nat

/-- Which line a full cache gives up (R78, R293, log 23). -/
opaque Config.victim (n : Nat) : Nat

/-- SHA-384 of a byte string, a function of another standard (R453, R454, log 15). -/
opaque Config.sha384 (m : List Byte) : List Byte

/-- The module's ECDSA P-384 signature of a byte string; the `n`-th signature made (R453, R454, log 15). -/
opaque Config.signature (n : Nat) (m : List Byte) : List Byte

/-- The body of an SPDM response, whose layout the DMTF standard gives (R454, log 15). -/
opaque Config.spdmBody (code : Nat) (request : List Byte) : List Byte

/-- The image of the fault sequencers' microcode (R454, log 15). -/
opaque Config.microcode : List Byte

/-- The body of the save image of a state, whose layout the spec does not give (R431, log 15). -/
opaque Config.imageBody {α : Type} (state : α) : List Byte

/-- Byte `i` of what the `n`-th park writes into the park area, whose layout the spec does not give (R373, log 31). -/
opaque Config.parkByte (n i : Nat) : Byte

/-- What a module register reaches whose address no chapter gives (log 32): a word of a mailbox entry (R319), of an entry of a home's
persistent-request table (R297), of a held packet's header (R315), or the readmission of a lost peer (R346). -/
inductive HiddenReg where
  | mailbox (entry word : Nat)
  | persistent (home agent word : Nat)
  | heldPacket (num word : Nat)
  | readmit
  deriving DecidableEq, Repr

/-- Where the module keeps those registers, among the addresses that no chapter assigns (R417, log 32). -/
opaque Config.moduleMap (a : Nat) : Option HiddenReg

/-- Compute dies (R10). -/
def Config.dies : Nat := 84
/-- CUs of a compute die at nominal count (R16). -/
def Config.cusPerDie : Nat := 64
/-- Bytes of the pool (R445). -/
def Config.poolBytes : Nat := 4032 * 2 ^ 30

end Sys2Proof
end

