-- ==== Sys2Proof/Machine/Maps.lean ====
section
/-! DEFINITION. Maps from naturals kept as lists in rising order of key, and byte memories in one canonical form. -/

namespace Sys2Proof

/-- The value at a key. -/
def nget {α : Type} (m : NMap α) (k : Nat) : Option α :=
  match m with
  | [] => none
  | (j, v) :: r => if j = k then some v else nget r k

/-- The value at a key, or a default. -/
def ngetD {α : Type} (m : NMap α) (k : Nat) (d : α) : α := (nget m k).getD d

/-- Put a value at a key, keeping the order. -/
def nset {α : Type} (m : NMap α) (k : Nat) (v : α) : NMap α :=
  match m with
  | [] => [(k, v)]
  | (j, w) :: r => if k < j then (k, v) :: (j, w) :: r else if j = k then (k, v) :: r else (j, w) :: nset r k v

/-- Remove a key. -/
def nerase {α : Type} (m : NMap α) (k : Nat) : NMap α := m.filter fun p => p.1 ≠ k

/-- Change the value at a key that is present. -/
def nmod {α : Type} (m : NMap α) (k : Nat) (g : α → α) : NMap α :=
  match nget m k with
  | some v => nset m k (g v)
  | none => m

/-- Change every value, told its key. -/
def nmap {α : Type} (m : NMap α) (g : Nat → α → α) : NMap α := m.map fun p => (p.1, g p.1 p.2)

/-- The keys, rising. -/
def nkeys {α : Type} (m : NMap α) : List Nat := m.map (·.1)
/-- The values, in order of key. -/
def nvals {α : Type} (m : NMap α) : List α := m.map (·.2)

/-- A byte memory: addresses rising, no entry equal to zero, which is what an unlisted address reads as. -/
abbrev Memory := List Host.Cell

/-- One byte; an address that is not listed reads zero (R39, R450; host memory: log 14). -/
def Memory.byte (m : Memory) (a : Nat) : Byte := ngetD m a 0

/-- Write one byte, keeping the canonical form. -/
def Memory.setByte (m : Memory) (a : Nat) (b : Byte) : Memory := if b = 0 then nerase m a else nset m a b

/-- `n` bytes from `a` on. -/
def Memory.bytes (m : Memory) (a n : Nat) : List Byte := (List.range n).map fun i => Memory.byte m (a + i)

/-- Write bytes from `a` on. -/
def Memory.setBytes (m : Memory) (a : Nat) (l : List Byte) : Memory :=
  match l with
  | [] => m
  | b :: r => Memory.setBytes (Memory.setByte m a b) (a + 1) r

/-- Write the bytes that `en` enables, `i` counting from the first. -/
def Memory.setEnabled (m : Memory) (a : Nat) (en : Nat → Bool) (l : List Byte) (i : Nat := 0) : Memory :=
  match l with
  | [] => m
  | b :: r => Memory.setEnabled (if en i then Memory.setByte m (a + i) b else m) a en r (i + 1)

/-- The canonical form: addresses strictly rising, no zero byte listed. -/
def Memory.wf (m : Memory) : Bool :=
  match m with
  | [] => true
  | (a, b) :: r =>
    (b ≠ 0) && (match r with | [] => true | (a', _) :: _ => a < a') && Memory.wf r

/-- The little-endian number a byte string holds (R2). -/
def leNat (l : List Byte) : Nat := l.foldr (fun b acc => acc * 256 + b.toNat) 0

/-- The low `n` bytes of a number, least significant first (R2). -/
def leBytes (n x : Nat) : List Byte := (List.range n).map fun i => BitVec.ofNat 8 (x >>> (8 * i))

end Sys2Proof
end

