-- ==== Sys2Proof/Machine/State.lean ====
section
/-! DEFINITION. The state of the module as plain data: one structure per party of the manual, and the state after reset.
Names of fields follow the manual's. Times are in main clocks (`clk`, R5) unless a comment says ns. -/

namespace Sys2Proof.Machine

/-! ### Threads: groups and tadpoles -/

/-- A physical vector register (R58): its name, never reused (log 4), and its 32 lanes. -/
structure PReg where
  id : Nat
  val : Lanes
  deriving DecidableEq, Repr

/-- An entry of the reconvergence stack (R50). -/
structure Frame where
  d : Mask
  c : Mask
  p : Mask
  ppc : Word64
  rpc : Word64
  deriving DecidableEq, Repr

/-- Where a group stands (R68). Frozen is told by the thread's `fz`. -/
inductive Place where
  | waiting | active | pending | parked | exited
  deriving DecidableEq, Repr

/-- An operand captured in a log entry (R237, R239). -/
inductive OpVal where
  | unused
  | uniform (v : Word64)
  | vector (regs : List PReg)
  deriving DecidableEq, Repr

/-- The destination of a log entry (R100): registers allocated at issue, or a uniform register's code. -/
inductive Dest where
  | none
  | vector (names : List (Nat × Nat))
  | uniform (code : Nat)
  deriving DecidableEq, Repr

/-- An entry of the operand log (R237), with what the model needs to perform it: `id` counts entries along the ring, `wb`
holds the sectors that its release has still to write back (none before the release begins), `fmark` the fabric sequence
number at issue, `sent` the lanes whose request is with the home or another module. -/
structure LogEntry where
  id : Nat
  pc : Word64
  opc : Nat
  f : Fields
  opD : OpVal
  opA : OpVal
  opB : OpVal
  opC : OpVal
  dest : Dest
  once : Bool
  effm : Mask
  helper : Mask
  flt : Mask
  done : Mask
  cause : Nat
  syn : Nat
  state : Nat
  wb : Option (List Nat)
  fmark : Nat
  sent : Mask
  wo : Bool
  res : NMap (BitVec 512)
  put : NMap Word
  coh : NMap Nat := []
  rank : Nat := 0
  deriving DecidableEq, Repr

/-- A lock entry of a group (R249): held at the L2 of die `die`, entered at `since`. -/
structure Lock where
  sector : Nat
  die : Nat
  held : Bool
  since : Nat
  waiter : Bool
  deriving DecidableEq, Repr

/-- A monitor (R253): the space code, bits 56:6 of the address named, and the place watched. -/
structure Monitor where
  space : Nat
  addr : Nat
  place : Nat
  die : Nat
  armed : Bool
  fired : Bool
  deriving DecidableEq, Repr

/-- The registers of a fault record (R128, R403), with the TKIND its tadpole is given (R401). -/
structure FaultRec where
  cause : Word64
  fpc : Word64
  fmask : Word64
  lanes : Word64
  opd0 : Word64
  opd1 : Word64
  opd2 : Word64
  opd3 : Word64
  syn : Word64
  unit : Word64
  tilem : Word64
  tilen : Word64
  cap : Word64
  time : Word64
  deriving DecidableEq, Repr

/-- All fault registers zero. -/
def FaultRec.zero : FaultRec := ⟨0, 0, 0, 0, 0, 0, 0, 0, 0, 0, 0, 0, 0, 0⟩

/-- A frozen group (R396, R397): its record, whether a fault of its own or brumation holds it, the disposition HOLD,
whether the fault is imprecise, and the group with which it is held under R229. -/
structure Freeze where
  fr : FaultRec
  byFault : Bool
  byBrum : Bool
  hold : Bool
  imp : Bool
  tied : Option Nat
  deriving DecidableEq, Repr

/-- A batch of matrix work (R214): its number and the operations not yet complete. -/
structure Batch where
  num : Nat
  ops : List Nat
  deriving DecidableEq, Repr

/-- A recorded fabric failure (R341): its kind, how many failures came after it, and FOPD0 to FOPD3. -/
structure FabFail where
  kind : Nat
  more : Nat
  opd0 : Word64
  opd1 : Word64
  opd2 : Word64
  opd3 : Word64
  deriving DecidableEq, Repr

/-- An instruction that has issued and waits at the PC (log 5): barrier phase joined, sleep deadline, or an action
under way. -/
structure Blk where
  stage : Nat
  val : Nat
  aux : Nat
  deriving DecidableEq, Repr

/-- A w-register write (R63): the clk from which it counts, the barrel whose write won that clk, and every group that
wrote in it. -/
structure WWrite where
  eff : Nat
  barrel : Nat
  tids : List Nat
  val : Word64
  deriving DecidableEq, Repr

/-- A w register (R63): its settled value and the writes that may still race. -/
structure WReg where
  val : Word64
  recent : List WWrite
  deriving DecidableEq, Repr

/-- A group or a tadpole (R42, R399). `stepping` is FZSTEP's progress (R412): 0 none, 1 asked for, 2 issued, 3 ended with `stepRes`.
`offer` is a swap offered by YLD (1) or YIELD (2); `moved` asks for the acquire of R80; `aslot` is the active slot (R69), `behind`
orders groups that became ready at one time (R165), `woke` tells since when a parked group's condition holds (R386); `waits` tells
that its last turn went unused; `wb` is as in a log entry, for a release of the instruction at the PC. `corrupt` lists, by their
selectors of R407, the registers, masks and the stack that hold an uncorrectable error (R423). `logSeq` numbers the next log entry,
`ops` holds the operand words that CPYQ or a BX form has read while it waits to enter its command, `postMore` holds faults that come
after `postCause`, and `early` the joins that FZSTEP made in a frozen group (R369). -/
structure Thread where
  kind : Mode
  agent : Bool
  noticeTad : Bool
  hasWg : Bool
  wg : Nat
  gnum : Nat
  ctx : Nat
  launch : Nat
  cu : Nat
  barrel : Nat
  slot : Nat
  place : Place
  budget : Nat
  pc : Word64
  exm : Mask
  deadm : Mask
  hlpm : Mask
  lmask : Mask
  exited : Mask
  c0 : Mask
  stack : List Frame
  shExm : Mask
  shC : Mask
  vmap : NMap PReg
  sreg : NMap Word64
  preg : NMap Mask
  kreg : NMap Word
  sig : Word
  nchk : Word
  fpctl : Word64
  fpstat : Word64
  mstat : Word64
  cL : Nat
  cS : Nat
  cC : Nat
  cM : Nat
  timeL : Word64
  timeG : Word64
  log : List LogEntry
  logSeq : Nat
  locks : NMap Lock
  mons : NMap Monitor
  batchNo : Nat
  openOps : List Nat
  batches : List Batch
  fseq : Nat
  fOpen : List Nat
  ffail : Option FabFail
  joins : NMap Nat
  early : NMap Nat
  blk : Option Blk
  wb : Option (List Nat)
  fz : Option Freeze
  postCause : Option FaultRec
  postMore : List FaultRec
  gen : Nat
  frec : FaultRec
  tkind : Word64
  target : Option Nat
  pselCtx : Nat
  pselKey : Nat
  notice : Mask
  stall : Nat
  waits : Bool
  offer : Nat
  readySince : Nat
  aslot : Nat
  behind : Nat
  woke : Option Nat
  slotSince : Nat
  swaps : Nat
  overdue : Option Nat
  wdSince : Nat
  stepping : Nat
  stepRes : Nat
  stepSince : Nat
  moved : Bool
  corrupt : List Nat
  ops : List Word64 := []
  deriving DecidableEq, Repr

/-! ### Workgroups, launches, contexts, CUs -/

/-- A barrier's current phase (R170, R171). -/
structure Bar where
  phase : Nat
  arrived : List Nat
  lastExcused : Bool
  deriving DecidableEq, Repr

/-- A live tile (R207-R209): its handle fields and its first unit; `dying` from the issue of its MTFREE. -/
structure Tile where
  gen : Nat
  nf : Nat
  mc : Nat
  base : Nat
  dying : Bool
  deriving DecidableEq, Repr

/-- An engine command held by a fault (R276, R344): the cause, and the group that took the fault. -/
structure Held where
  cause : Nat
  taker : Option Nat
  deriving DecidableEq, Repr

/-- A command in the copy ring (R257, R263), with CPYNTF and CPYSTB as it was entered (R259), the destination blocks and the
bytes already written, the overflow mark of R156, and its stage: 0 data, 1 stamp, 2 arrival, 3 notify word, 4 only the
stamp of its abandonment. `stepped` tells that FZSTEP entered it in a group that has not run since (R275), and `buf` keeps the
aligned 16-byte parts of an index list that the last block used (R265). -/
structure CopyCmd where
  id : Nat
  w0 : Word64
  w1 : Word64
  w2 : Word64
  w3 : Word64
  ntf : Word64
  stb : Word64
  seq : Nat
  tid : Nat
  running : Bool
  shape : List Byte
  pos : Nat
  written : Nat
  wo : Bool
  stage : Nat
  held : Option Held
  stepped : Bool
  buf : NMap (List Byte)
  deriving DecidableEq, Repr

/-- The kinds of queued matrix operations (R213). -/
inductive MatKind where
  | free | zero | mma | wracc | drain | drainq
  deriving DecidableEq, Repr

/-- A 64-byte block that a drain has still to write: global (space 0) with its range entry and physical address, or scratch
(space 1). -/
structure DrainPart where
  space : Nat
  addr : Nat
  e : Nat
  pa : Nat
  deriving DecidableEq, Repr

/-- A queued matrix operation with its captured operands (R213, R217): fragments by step, the register values read at issue,
the number of captured registers, the log position before which scratch stores are earlier (R226), the destination blocks
not yet written, and the blocks that a storage error has poisoned (R229). `stepped` is as in a copy
command (R230); `caps` names the physical registers that it captured at `since` (R31). -/
structure MatOp where
  id : Nat
  tid : Nat
  wg : Nat
  barrel : Nat
  pc : Word64
  kind : MatKind
  handle : Word64
  f : Fields
  frA : List (List Lanes)
  frB : List (List Lanes)
  va : Word64
  vb : Word64
  vc : Word64
  mxovf : Bool
  bufRegs : Nat
  mark : Nat
  dst : List DrainPart
  nan : List (Nat × Nat)
  stepped : Bool
  caps : List Nat
  since : Nat
  deriving DecidableEq, Repr

/-- The last write of a copy register (R63, R259): its clk, the barrel that made it, and the value before that clk. -/
structure CopyWr where
  clk : Nat
  barrel : Nat
  before : Word64
  deriving DecidableEq, Repr

/-- A workgroup (R42). `place` is its resident slot in the CU (R319), `cpyWr` the last write of each of the copy registers (R259).
`mqSave` holds the matrix operations of a saved workgroup (R431), `corrupt` its registers that hold an uncorrectable error (R423).
-/
structure Wg where
  launch : Nat
  ctx : Nat
  lin : Nat
  x : Nat
  y : Nat
  z : Nat
  clid : Nat
  cu : Nat
  ng : Nat
  groups : List Nat
  spBytes : Nat
  tsUnits : Nat
  scratch : Memory
  tileMem : Memory
  tiles : List Tile
  tileGen : Nat
  w : NMap WReg
  bars : NMap Bar
  ring : List CopyCmd
  cpySeq : Nat
  cpyDone : Nat
  cpyNtf : Word64
  cpyStb : Word64
  cpyWr : NMap CopyWr
  place : Nat
  boxes : List Nat
  killed : Bool
  excused : Bool
  evicted : Bool
  mqSave : List MatOp
  corrupt : List Nat
  deriving DecidableEq, Repr

/-- The fields of a launch record (R64). -/
structure LaunchRec where
  code : Nat
  hpc : Nat
  nwgx : Nat
  nwgy : Nat
  nwgz : Nat
  hlpen : Bool
  clsz : Nat
  ng : Nat
  lastln : Nat
  spsz : Nat
  spsplit : Nat
  tssz : Nat
  regs : Nat
  que : Nat
  prio : Nat
  kptr : Nat
  kcnt : Nat
  mispol : Nat
  haltm : Nat
  place : Nat
  pen : Bool
  waittk : Word64
  sigtk : Word64
  ltab : Nat
  deriving DecidableEq, Repr

/-- Where a launch came from: a host queue and its entry's number, or the device launch buffer (R376, R389). -/
inductive Source where
  | queue (q seq : Nat)
  | device (num : Nat)
  deriving DecidableEq, Repr

/-- An accepted launch (R64, R377-R383). `foot` is the token's image as the launch was accepted (R382), `confine` the dies it
is confined to and `onCu` the CU, `acted` the CUs that have performed its acquire, `since` the time from which it waits for a
CU (R387); `excused` lists the clusters of which a workgroup has been killed (R171). -/
structure Launch where
  lr : LaunchRec
  ctx : Nat
  gridid : Nat
  src : Source
  irq : Bool
  k : NMap Word
  placeTab : List Nat
  next : Nat
  clusters : Nat
  live : Nat
  onDie : NMap Nat
  ranOn : List Nat
  scope : Nat
  acted : List Nat
  relDone : Bool
  foot : Word64
  confine : List Nat
  onCu : Option Nat
  since : Nat
  cbar : NMap Bar
  excused : List Nat
  killed : Bool
  deriving DecidableEq, Repr

/-- An entry taken from a ring and not yet finished (R376, R377): its number, IRQ and, once known, its status. -/
structure QEntry where
  seq : Nat
  irq : Bool
  status : Option Nat
  deriving DecidableEq, Repr

/-- A host queue of a context (R374-R377). `tail` and `head` count entries from the start, not modulo 2^32; `pend` is the record
address of the launch entry at the head, not yet accepted; `rep` holds the statuses of device launches that it is to report
(R389); `wr` tells that a completion word is being written, for an entry of the ring or not. -/
structure Queue where
  base : Word64
  ctl : Word64
  tail : Nat
  head : Nat
  cpl : Word64
  done : Nat
  entries : List QEntry
  pend : Option Nat
  rep : List Nat
  wr : Option Bool
  port : Nat
  deriving DecidableEq, Repr

def Queue.reset : Queue :=
  { base := 0, ctl := 0, tail := 0, head := 0, cpl := 0, done := 0, entries := [], pend := none, rep := [], wr := none,
    port := 0 }

/-- A work-list object (R391-R394). -/
structure WorkObj where
  launch : Nat
  lists : NMap (List Word64)
  ops : Nat
  waves : Nat
  snap : Nat
  done : Bool
  deriving DecidableEq, Repr

/-- A block of a context's park area (R373): whose it is, a group's or, from 2^64 on, a workgroup's, its offset and its size. -/
structure ParkBlock where
  owner : Nat
  off : Nat
  size : Nat
  deriving DecidableEq, Repr

/-- A context (R372, R402, R419, R443). -/
structure Ctx where
  ctl : Word64
  dieset0 : Word64
  dieset1 : Word64
  parkb : Word64
  sysent : Word64
  brst : Word64
  rtbase : Word64
  rtcnt : Word64
  tdm : BitVec 168
  queues : NMap Queue
  devBuf : List (Nat × Nat)
  devCount : Nat
  objs : NMap WorkObj
  trig : List Trigger
  trigTotal : Nat
  hcause : Word64
  hsrc : Word64
  htime : Word64
  settled : Bool
  cuh : List Nat
  park : List ParkBlock
  nextGrid : Nat
  sysMeas : List Byte
  deriving DecidableEq, Repr

def Ctx.reset : Ctx :=
  { ctl := 0, dieset0 := 0, dieset1 := 0, parkb := 0, sysent := 0, brst := 0, rtbase := 0, rtcnt := 0, tdm := 0,
    queues := [], devBuf := [], devCount := 0, objs := [], trig := [], trigTotal := 0, hcause := 0, hsrc := 0,
    htime := 0, settled := false, cuh := [], park := [], nextGrid := 1, sysMeas := [] }

/-- A line of L1 (R78): masks per byte, bit i for byte i, and 64 bytes; `poi` and `wo` are the marks of R304 and R156,
`t64` the budget of its range. -/
structure L1Line where
  valid : BitVec 64
  dirty : BitVec 64
  data : List Byte
  poi : Bool
  wo : Bool
  t64 : Bool
  deriving DecidableEq, Repr

/-- A spawn that waits for a place (R400). -/
structure Spawn where
  time : Nat
  barrel : Nat
  slot : Nat
  tid : Nat
  hasTid : Bool
  ctx : Nat
  sys : Bool
  notice : Bool
  agent : Bool
  fr : FaultRec
  tkind : Word64
  deriving DecidableEq, Repr

/-- An entry of a range lookaside buffer (R447): a range entry of a context or, of a paged range, one of its pages, by its place in the
range and its physical number, both in units of 4 KiB, and whether it has 2 MiB. -/
structure RlbEntry where
  ctx : Nat
  e : Nat
  page : Option (Nat × Nat × Bool)
  deriving DecidableEq, Repr

/-- A compute unit (R16, R17). `since` is when the resident context took it; `rlb` is its range lookaside buffer (R447). -/
structure Cu where
  en : Bool
  ret : Bool
  ctx : Option Nat
  since : Nat
  split : Nat
  reclaim : Bool
  l1 : NMap L1Line
  mq : List MatOp
  pool : List Nat
  agent : Option Nat
  spawnq : List Spawn
  rlb : List RlbEntry
  deriving DecidableEq, Repr

def Cu.reset : Cu :=
  { en := false, ret := false, ctx := none, since := 0, split := 0, reclaim := false, l1 := [], mq := [], pool := [],
    agent := none, spawnq := [], rlb := [] }

/-! ### Memory and the token protocol -/

/-- A sector in a die's L2 (R288) under a budget `t64`; `wok` tells that the home has answered a write request of this
acquisition (R292), `rg` that a regrowth under `ser` has been acknowledged (R302). -/
structure TokLine where
  t64 : Bool
  n : Nat
  o : Bool
  v : Bool
  d : Bool
  data : List Byte
  poi : Bool
  ser : Nat
  wok : Bool
  rg : Bool
  deriving DecidableEq, Repr

/-- The home's metadata of a sector (R289). -/
structure Meta where
  poi : Bool
  md : Bool
  t64 : Bool
  ser : Nat
  ho : Bool
  hn : Nat
  deriving DecidableEq, Repr

/-- The metadata that memory initialisation leaves (R289). -/
def Meta.init : Meta := { poi := false, md := false, t64 := false, ser := 0, ho := true, hn := 8 }

/-- Message kinds (R290). -/
inductive MsgKind where
  | rdt | wrt | tok | wb | preq | pact | pdone | pdeact | pnak | rgstart | rgack | rgdata | rgend
  deriving DecidableEq, Repr

/-- A party of the protocol: a home by memory-tile index, or an agent (R12). -/
inductive Party where
  | home (h : Nat)
  | agent (a : Nat)
  deriving DecidableEq, Repr

/-- A message in flight (R290), to the party `dst`. `acq` numbers the acquisition that a request, and the home's answer to it,
belongs to (R292, log 40). -/
structure Msg where
  acq : Nat
  kind : MsgKind
  src : Party
  dst : Party
  req : Nat
  sector : Nat
  cnt : Nat
  own : Bool
  dat : Bool
  dty : Bool
  poi : Bool
  t64 : Bool
  ser : Nat
  att : Nat
  wr : Bool
  aseq : Nat
  hint : List Nat
  data : List Byte
  deriving DecidableEq, Repr

/-- A request that an agent has outstanding for a sector (R292); attempt 3 is the persistent request, 4 one that waits
for the agent's earlier one or for 1 µs after a PNAK. `acq` numbers the acquisition; `eng` names the engine or
the port that waits, and `got` tells since when the request is satisfied while that one has still to make its access (R300). -/
structure Transient where
  acq : Nat
  eng : Option Nat
  got : Option Nat
  wr : Bool
  t64 : Bool
  att : Nat
  since : Nat
  deadline : Nat
  deriving DecidableEq, Repr

/-- State of an entry of the persistent-request table (R297). -/
inductive PState where
  | free | pending | active | marked
  deriving DecidableEq, Repr

/-- An entry of a home's persistent-request table (R297). -/
structure PEntry where
  blk : List Nat
  rtime : Nat
  st : PState
  wr : Bool
  ser : Nat
  sector : Nat
  deriving DecidableEq, Repr

/-- A place in an agent's active table (R299): the home, the requester (256 for the home itself), sector and number. -/
structure ActPlace where
  home : Nat
  req : Nat
  sector : Nat
  wr : Bool
  aseq : Nat
  deriving DecidableEq, Repr

/-- An atomic that waits at a home (R457): the lane, or the packet of another module, that asked for it, and its operation. -/
structure HomeAtom where
  pkt : Option Packet
  tid : Nat
  eid : Nat
  lane : Nat
  sector : Nat
  addr : Nat
  op : Nat
  ty : Nat
  b : Word64
  c : Word64
  deriving DecidableEq, Repr

/-- A home request (R457). -/
structure HomeReq where
  sector : Nat
  active : Bool
  since : Nat
  aseq : Nat
  deriving DecidableEq, Repr

/-- A regrowth under way (R302): the agents still to acknowledge and those whose RGDATA is still to come, with the
time each was announced, under the serial number `ser`. -/
structure Regrow where
  sector : Nat
  ser : Nat
  hadHo : Bool
  waitAck : List Nat
  waitData : NMap Nat
  lostData : Bool
  data : Option (List Byte × Bool)
  since : Nat
  deriving DecidableEq, Repr

/-- One home (R287-R309). `unread` lists the sectors whose metadata an error has left unreadable, to be regrown when next
requested (R309). -/
structure Home where
  ptab : NMap PEntry
  aseq : Nat
  hreq : Option HomeReq
  after : List Nat
  atoms : List HomeAtom
  regrow : List Regrow
  recent : NMap Nat
  deferred : List Nat
  unread : List Nat
  fast : Nat
  hint : NMap (List Nat)
  scrub : Nat
  corrected : Nat
  deriving DecidableEq, Repr

def Home.reset : Home :=
  { ptab := [], aseq := 0, hreq := none, after := [], atoms := [], regrow := [], recent := [], deferred := [], unread := [], fast := 0,
    hint := [], scrub := 0, corrected := 0 }

/-- A 64-byte block of a registered destination: whether the engine's write of it is done, and the bytes of the range that are not
accessible yet (R266). -/
structure RegBlock where
  written : Bool
  bytes : BitVec 64
  deriving DecidableEq, Repr

/-- A destination registered by command `cmd` of engine `eng` at a die's L2 (R32, R266), space 0, under the addresses of context
`ctx`, or in the scratchpad of workgroup `wg`, space 1: the blocks that still bar accesses, by address divided by 64. -/
structure Reg32 where
  cmd : Nat
  eng : Nat
  die : Nat
  wg : Nat
  ctx : Nat
  space : Nat
  pend : NMap RegBlock
  deriving DecidableEq, Repr

/-- A format window (R305). -/
structure Window where
  ctl : Word64
  exl : Word64
  exb : Word64
  elb : Word64
  scb : Word64
  mtb : Word64
  deriving DecidableEq, Repr

def Window.reset : Window := ⟨0, 0, 0, 0, 0, 0⟩

/-- A host line held by a die's L2 (R439), since when. -/
structure HostLine where
  die : Nat
  data : List Byte
  dirty : Bool
  since : Nat
  deriving DecidableEq, Repr

/-- A request of an L2 of another module that waits behind a fabric port of this one (R301); `pers` tells of a persistent
one. -/
structure Behind where
  port : Nat
  md : Nat
  agent : Nat
  sector : Nat
  wr : Bool
  t64 : Bool
  pers : Bool
  deriving DecidableEq, Repr

/-- A module that may hold tokens of a coherent sector of this one, behind a port, and its name for the sector (R301). -/
structure Sharer where
  port : Nat
  md : Nat
  key : Nat
  va : Nat
  deriving DecidableEq, Repr

/-- Memory and every party of the token protocol. `l2` is keyed by agent × 2^80 + sector; `winReq` holds in the same form the
window sectors that an L2 has asked for. Of the coherent ranges that modules share (R301): `behind` and `shared` are kept for
sectors of this module, `rgPort` the acknowledgements of a regrowth that a port still awaits from other modules; `rgOut` those
that this module still gathers for another one's sector, `refused` the causes with which another module refused a sector. `walkers` holds
the range entries that each die's walker keeps, with their contexts (R447). `pressed`
tells since when a message for an agent waits for an engine's tokens of a sector (R300). -/
structure MemSys where
  behind : List Behind
  shared : NMap (List Sharer)
  rgPort : NMap (List Nat × Bool)
  rgOut : NMap (List Nat × Bool)
  refused : NMap Nat
  pressed : NMap Nat
  walkers : NMap (List (Nat × Nat))
  dram : Memory
  smeta : NMap Meta
  hostMem : Memory
  l2 : NMap TokLine
  copies : NMap (List Byte × Bool)
  trans : NMap Transient
  pnak : NMap Nat
  places : NMap (List ActPlace)
  pred : NMap (List Nat)
  hostLines : NMap HostLine
  homes : NMap Home
  regs : List Reg32
  wins : NMap Window
  homeSets : NMap (BitVec 84)
  net : NMap Msg
  winReq : List Nat
  routerErr : Nat
  portErr : NMap Nat
  deriving DecidableEq, Repr

/-! ### Fabric, tree, host -/

/-- A fabric command in progress (R328-R335): kinds 0 BXSEND, 1 BXGET, 2 BXMC, 3 BXRED, 4 BXFLAG. Of its `total` packets,
`sent` have been injected; `left` lists the replies still to come: packet numbers, and for BXRED twice the number for a
result and one more for the root's reply. `stepped` tells that FZSTEP entered it, `wo` that it has read a marked
sector (R156), `wrote` how many bytes of a BXGET are written. -/
structure FabCmd where
  id : Nat
  tid : Nat
  ctx : Nat
  cu : Nat
  seq : Nat
  kind : Nat
  w0 : Word64
  w1 : Word64
  w2 : Word64
  w3 : Word64
  xid : Nat
  total : Nat
  sent : Nat
  left : List Nat
  fail : Nat
  failAddr : Word64
  counted : Nat
  bitmap : Word64
  held : Option Held
  stepped : Bool
  wo : Bool
  wrote : Nat
  deriving DecidableEq, Repr

/-- A request-channel packet without its acknowledgement (R314): injected at `since`, or held at the sender
(R345); `sw` when its first switch replicates or combines it. -/
structure Unacked where
  pkt : Packet
  since : Nat
  inj : Bool
  sw : Bool
  deriving DecidableEq, Repr

/-- A mailbox (R319-R322): `infl` counts the packets accepted and not yet counted. -/
structure Mailbox where
  used : Bool
  key : Nat
  gen : Nat
  ctx : Nat
  wg : Nat
  off : Nat
  die : Nat
  cu : Nat
  wgs : Nat
  infl : Nat
  closing : Bool
  deriving DecidableEq, Repr

/-- Counting state of a transfer at a receive port (R323): the next packet to count, the bytes counted, the packet at which
counting has ended, whether it ended because packets came too late, and whether the last packet has been answered. -/
structure RxCount where
  next : Nat
  bytes : Nat
  endAt : Option Nat
  late : Bool
  last : Bool
  since : Nat
  deriving DecidableEq, Repr

def RxCount.zero : RxCount := ⟨0, 0, none, false, false, 0⟩

/-- A packet that a port is performing (R316, R323, R332): the mailbox, with its generation, that counts it in flight, the sector
parts still to be written or read (address and length), what has been read, whether of a marked sector (R156), and when it came. -/
structure RxPkt where
  pkt : Packet
  box : Option (Nat × Nat)
  parts : List (Nat × Nat)
  buf : List Byte
  written : Bool
  since : Nat
  wo : Bool := false
  deriving DecidableEq, Repr

/-- A multicast group of a partition (R336, R337): staged and in-force members, and those of each earlier version. -/
structure McGroup where
  ctl : Word64
  mmod : NMap Word64
  mhnd : NMap Word64
  ver : Nat
  live : NMap Word64
  liveH : NMap Word64
  old : NMap (List Nat × List Word64)
  deriving DecidableEq, Repr

def McGroup.reset : McGroup := ⟨0, [], [], 0, [], [], []⟩

/-- A reduction in progress at the switch (R339), with the members and handles of the version that it latched: contributions by
member, and the members marked failed. -/
structure Reduction where
  key : Nat
  group : Nat
  ver : Nat
  epoch : Nat
  pseq : Nat
  rop : Nat
  len : Nat
  members : List Nat
  handles : List Word64
  got : NMap Packet
  bad : List Nat
  since : Nat
  deriving DecidableEq, Repr

/-- A merged acknowledgement being gathered (R338): the members, those whose reply is missing, and the bitmap so far. -/
structure MergeAck where
  key : Nat
  group : Nat
  ver : Nat
  xid : Nat
  pseq : Nat
  members : List Nat
  handles : List Word64
  waiting : List Nat
  bitmap : Word64
  deriving DecidableEq, Repr

/-- Standing of a peer module (R345). -/
inductive PeerState where
  | up | recov (since : Nat) | lost
  deriving DecidableEq, Repr

/-- The fabric side of the module. `net` holds packets on their way to this module's ports, `up` those at its first switch, `out`
those that have left for other modules; `held` keeps coherence packets for a module in recovery (R345). `rx` is keyed by source
module × 2^24 + XID, `rxq` and `seen` by that × 2^32 + PSEQ; `seen` keeps each reply with its time (R314). `ports` tells, in
twenty-fifths of a clk, until when a port injects the flits queued there (R313). `sysReq` names, for a system access by its packet's
transfer number, the thread, the log entry, the lane and the 16-byte part (R316). -/
structure Fabric where
  ports : NMap Nat
  held : List Packet
  cmds : NMap FabCmd
  net : List Packet
  up : List Packet
  out : List Packet
  unacked : List Unacked
  boxes : NMap Mailbox
  rx : NMap RxCount
  rxq : NMap RxPkt
  seen : NMap (Nat × Packet)
  peers : NMap PeerState
  sysReq : NMap (Nat × Nat × Nat × Nat)
  reds : List Reduction
  merges : List MergeAck
  fpm : Word64
  errs : Nat
  deriving DecidableEq, Repr

/-- A tree-barrier object of a partition (R352-R358): `phase` counts the phases completed since it was opened, `launch` and
`grid` name the bound launch, `excused` is the flag of the pending phase. -/
structure TreeObj where
  en : Bool
  exc0 : Bool
  exc1 : Bool
  phase : Nat
  launch : Option Nat
  grid : Nat
  msk : NMap Word64
  mem : NMap Word64
  excused : Bool
  deriving DecidableEq, Repr

def TreeObj.reset : TreeObj :=
  { en := false, exc0 := false, exc1 := false, phase := 0, launch := none, grid := 0, msk := [], mem := [], excused := false }

/-- A partition, by key: its objects, multicast groups and tokens, the plane of its tree traffic, and its brumation (R38, R350,
R367, R368, R433, R434): halt waves that have not been sent yet, the earliest trigger known and when its wave was received,
the settled one, when a resume was asked for, and the resume time. -/
structure Part where
  objs : NMap TreeObj
  groups : NMap McGroup
  toks : NMap Word64
  plane : Nat
  waves : List Trigger
  first : Option Trigger
  haltAt : Option Nat
  asked : Option Nat
  lost : Bool
  resumeT : Option Nat
  deriving DecidableEq, Repr

def Part.reset : Part :=
  { objs := [], groups := [], toks := [], plane := 0, waves := [], first := none, haltAt := none, asked := none, lost := false, resumeT := none }

/-- A CXL.mem access of the host in progress at a port: a read, or the bytes that a write enables (R438). -/
structure HostOp where
  port : Nat
  addr : Nat
  write : Bool
  en : BitVec 64
  data : List Byte
  deriving DecidableEq, Repr

/-- An entry of a port's MSI-X table in BAR2 (R436), in the layout of the PCIe standard: a masked vector sends nothing (log 61). -/
structure MsixEntry where
  addr : Word64
  data : BitVec 32
  ctl : BitVec 32
  deriving DecidableEq, Repr

/-- An entry after reset: masked. -/
def MsixEntry.reset : MsixEntry := { addr := 0, data := 0, ctl := 1 }
def MsixEntry.masked (x : MsixEntry) : Bool := x.ctl.getLsbD 0

/-- What the module has sent to the host or keeps for it (R377, R436-R456): MSI-X messages (port and vector), the ports' MSI-X tables and
the vectors whose pending bit is set, by port × 2048 + vector, accesses in progress, what reads have returned with the poison indication,
SPDM responses. -/
structure HostSide where
  msix : List (Nat × Nat)
  table : NMap MsixEntry
  pba : List Nat
  ops : List HostOp
  reads : List (List Byte × Bool)
  spdm : List (List Byte)
  deriving DecidableEq, Repr

/-- The module as a whole: start-up, time, tiles, dispatch positions (R10-R30, R378, R450-R456). `corrected` counts corrected errors
by place, in the order of `ErrorPlace` (R36). `offset` and `due`, the offset that is in force once a count is passed, are kept by
compute die, and as 84 for the module root, which is steered toward the time master (R370, R371). -/
structure Module where
  corrected : NMap Nat
  number : Nat
  mstatus : Word64
  config : List Byte
  pcap : Word64
  thr : Word64
  tmctl : Word64
  lostTiles : List Nat
  offset : NMap Int
  skew : NMap Int
  slew : NMap Nat
  due : NMap (Nat × Int)
  epoch : Nat
  rows : List Nat
  fwCur : Word64
  fwNew : Word64
  links : BitVec 310
  dispCtx : NMap Nat
  dispQue : NMap Nat
  dispLow : NMap Nat
  signs : Nat
  deriving DecidableEq, Repr

/-- The model's own fields (logs 1 to 5): environment inputs still to come, the step counter, the main clock, the clocks that coming
steps take, the slot from which the next turn is looked for, the thread whose turn it is, and counters for fresh names and free
values. -/
structure Env where
  agenda : List Instr
  tick : Nat
  turn : Nat
  clk : Nat
  slow : Nat
  pace : List Nat
  cur : Option Nat
  freeCtr : Nat
  nextId : Nat
  deriving DecidableEq, Repr

/-- What a save image of a context holds (R34, R431); the layout of its bytes is open, so that the state stands beside them (log 33). -/
structure SaveImage where
  ctx : Nat
  tdm : BitVec 168
  thr : NMap Thread
  wgs : NMap Wg
  cmds : NMap FabCmd
  unacked : List Unacked
  boxes : NMap Mailbox
  cbars : NMap (NMap Bar)
  objs : NMap WorkObj
  deriving DecidableEq, Repr

/-- The machine. -/
structure State where
  env : Env
  mdl : Module
  mem : MemSys
  thr : NMap Thread
  wgs : NMap Wg
  lch : NMap Launch
  ctxs : NMap Ctx
  cus : NMap Cu
  parts : NMap Part
  fab : Fabric
  host : HostSide
  images : NMap SaveImage
  deriving DecidableEq, Repr

/-- Why the machine stops. -/
inductive Fault where
  /-- Raised by the meaning of an instruction form when no thread is there to issue it. No instruction of the hardware
  issues without a thread, so the stop is safe: nothing that the hardware does is lost. -/
  | noIssuer
  deriving DecidableEq, Repr

/-- Why the model gives no meaning. -/
inductive Refusal where
  /-- Raised by an arm of `exec` for an instruction that has no meaning yet. Safe: nothing is claimed of it. -/
  | notModelled (mnemonic : String)
  deriving DecidableEq, Repr

def MemSys.reset : MemSys :=
  { behind := [], shared := [], rgPort := [], rgOut := [], refused := [], pressed := [], walkers := [],
    dram := [], smeta := [], hostMem := [], l2 := [], copies := [], trans := [], pnak := [], places := [], pred := [],
    hostLines := [], homes := [], regs := [], wins := [], homeSets := [], net := [], winReq := [], routerErr := 0, portErr := [] }

def Fabric.reset : Fabric :=
  { ports := [], held := [], cmds := [], net := [], up := [], out := [], unacked := [], boxes := [], rx := [], rxq := [], seen := [], peers := [], sysReq := [],
    reds := [], merges := [], fpm := 0, errs := 0 }

def Module.reset : Module :=
  { corrected := [], number := 0, mstatus := 0, config := [], pcap := 0, thr := 0, tmctl := 0, lostTiles := [],
    offset := [], skew := [], slew := [], due := [], epoch := 0, rows := [], fwCur := 0, fwNew := 0, links := 0, dispCtx := [],
    dispQue := [], dispLow := [], signs := 0 }

/-- The module right after reset, before its start-up runs (R450, R452). -/
def State.reset : State :=
  { env := { agenda := [], tick := 0, turn := 0, clk := 0, slow := 0, pace := [], cur := none, freeCtr := 0, nextId := 0 },
    mdl := Module.reset, mem := MemSys.reset, thr := [], wgs := [], lch := [], ctxs := [], cus := [], parts := [],
    fab := Fabric.reset,
    host := { msix := [], table := [], pba := [], ops := [], reads := [], spdm := [] }, images := [] }

end Sys2Proof.Machine
end

