-- ==== Sys2Proof/Machine/Flags.lean ====
section
/-! DEFINITION. The exception flags of FPSTAT and FPCTL (R147-R149), of MSTAT (R228), and the bit-field helpers of
registers. -/

namespace Sys2Proof.Machine

/-- Flag bits of FPSTAT (R149). -/
def flagNX : Nat := 1
def flagUF : Nat := 2
def flagOF : Nat := 4
def flagDZ : Nat := 8
def flagNV : Nat := 16
def flagWO : Nat := 32

/-- Flag bits of MSTAT (R228). -/
def mflagCLOST : Nat := 1
def mflagNV : Nat := 2
def mflagOF : Nat := 4
def mflagIOVF : Nat := 8
def mflagDSAT : Nat := 16
def mflagDNV : Nat := 32
def mflagMERR : Nat := 64

/-- The bits a register keeps when it is written: the defined fields of FPCTL, FPSTAT and MSTAT (R4, R148, R149, R228). -/
def fpctlMask : Word64 := 0x13F
def fpstatMask : Word64 := 0x3F
def mstatMask : Word64 := 0x7F

/-- FPSTAT after an instruction raised `flags` (R149): each is set whose DIS bit in FPCTL is clear. -/
def raiseFlags (fpctl fpstat : Word64) (flags : Nat) : Word64 :=
  fpstat ||| (BitVec.ofNat 64 flags &&& ~~~fpctl &&& fpstatMask)

/-- Replace bits `hi:lo` of a number. -/
def setField (x hi lo v : Nat) : Nat :=
  let w := hi + 1 - lo
  x - ((x >>> lo) % 2 ^ w) <<< lo + (v % 2 ^ w) <<< lo

/-- Sign-extend the low `w` bits of a number to 64 bits. -/
def sext64 (w : Nat) (x : Nat) : Word64 := BitVec.ofInt 64 (signedOf w x)

end Sys2Proof.Machine
end

