-- ==== Sys2Proof/Machine/Ops.lean ====
section
/-! DEFINITION. Named operations over the machine's records: reading and writing them, time, lane masks, register
writes, capabilities, freezing for a fault, killing, and the return from a frozen state. -/

namespace Sys2Proof.Machine

open Host (Outcome)

/-- A number as a field of a bit layout: its low `width` bits, from bit `low` on. -/
def fieldAt (x width low : Nat) : Nat := x % 2 ^ width * 2 ^ low

/-! ### Records by key -/

def State.thread (s : State) (tid : Nat) : Option Thread := nget s.thr tid
def State.setThread (s : State) (tid : Nat) (t : Thread) : State := { s with thr := nset s.thr tid t }
def State.modThread (s : State) (tid : Nat) (g : Thread → Thread) : State := { s with thr := nmod s.thr tid g }
def State.wg (s : State) (w : Nat) : Option Wg := nget s.wgs w
def State.modWg (s : State) (w : Nat) (g : Wg → Wg) : State := { s with wgs := nmod s.wgs w g }
def State.modLaunch (s : State) (l : Nat) (g : Launch → Launch) : State := { s with lch := nmod s.lch l g }
def State.ctx (s : State) (c : Nat) : Ctx := ngetD s.ctxs c Ctx.reset
def State.setCtx (s : State) (c : Nat) (x : Ctx) : State := { s with ctxs := nset s.ctxs c x }
def State.modCtx (s : State) (c : Nat) (g : Ctx → Ctx) : State := s.setCtx c (g (s.ctx c))
def State.cu (s : State) (n : Nat) : Cu := ngetD s.cus n Cu.reset
def State.setCu (s : State) (n : Nat) (x : Cu) : State := { s with cus := nset s.cus n x }
def State.modCu (s : State) (n : Nat) (g : Cu → Cu) : State := s.setCu n (g (s.cu n))
def State.part (s : State) (k : Nat) : Part := ngetD s.parts k Part.reset
def State.setPart (s : State) (k : Nat) (p : Part) : State := { s with parts := nset s.parts k p }
def State.modPart (s : State) (k : Nat) (g : Part → Part) : State := s.setPart k (g (s.part k))
def State.modMem (s : State) (g : MemSys → MemSys) : State := { s with mem := g s.mem }
def State.modFab (s : State) (g : Fabric → Fabric) : State := { s with fab := g s.fab }
def State.modModule (s : State) (g : Module → Module) : State := { s with mdl := g s.mdl }
def State.home (s : State) (h : Nat) : Home := ngetD s.mem.homes h Home.reset
def State.setHome (s : State) (h : Nat) (x : Home) : State :=
  { s with mem := { s.mem with homes := nset s.mem.homes h x } }
def State.modHome (s : State) (h : Nat) (g : Home → Home) : State := s.setHome h (g (s.home h))

/-- The number of a place in the module's counts of corrected errors. -/
def placeCode (p : ErrorPlace) : Nat :=
  match p with
  | .registerFile => 0 | .sram => 1 | .l2 => 2 | .link => 3 | .dram => 4 | .fabric => 5
/-- The number of code lines among those places. -/
def codeLinePlace : Nat := 6
/-- An error has been corrected at a place: it is counted (R36). -/
def countAt (s : State) (n : Nat) : State := s.modModule fun m => { m with corrected := nset m.corrected n (ngetD m.corrected n 0 + 1) }
def countError (s : State) (p : ErrorPlace) : State := countAt s (placeCode p)
/-- As many errors as an event found corrected. -/
def countErrors (s : State) (p : ErrorPlace) (n : Nat) : State := n.repeat (fun x => countError x p) s

/-- A fresh name (log 4). -/
def State.fresh (s : State) : Nat × State :=
  (s.env.nextId, { s with env := { s.env with nextId := s.env.nextId + 1 } })

/-! ### Time (R5, R29) and places (R10-R14) -/

/-- The main clocks that the compute dies' clock has made: those at full speed, less what throttling has taken (R456). -/
def State.cyc (s : State) : Nat := s.env.clk - s.env.slow / 16
/-- The module root's count before it is steered: the main clock runs at 2.25 GHz. -/
def State.raw (s : State) : Nat := s.mdl.epoch + s.env.clk * 4 / 9
/-- The offset in force for a compute die, or for the module root, 84: a new one counts once the count has gone on, so that no
reading falls (R370). -/
def offsetOf (s : State) (d : Nat) : Int :=
  match nget s.mdl.due d with
  | some (n, o) => if n < s.raw then o else ngetD s.mdl.offset d 0
  | none => ngetD s.mdl.offset d 0
/-- Root time in ns. -/
def State.ns (s : State) : Nat := (s.raw + offsetOf s 84).toNat
/-- Main clocks in a number of ns, rounded up. -/
def nsToClk (ns : Nat) : Nat := (ns * 9 + 3) / 4
/-- The compute die of a CU number (R419). -/
def dieOf (cu : Nat) : Nat := cu / 64
/-- The local copy of the time counter in a region (R29). -/
def State.localTime (s : State) (die : Nat) : Word64 := BitVec.ofInt 64 ((s.ns : Int) + ngetD s.mdl.skew die 0)
/-- The local copy corrected by the region's offset (R29). -/
def State.globalTime (s : State) (die : Nat) : Word64 :=
  s.localTime die + BitVec.ofInt 64 (offsetOf s die)

/-- Row and column of a tile (R10). -/
def tileRow (t : Nat) : Nat := t / 14
def tileCol (t : Nat) : Nat := t % 14
/-- A compute tile has row + column even (R10). -/
def isCompute (t : Nat) : Bool := (tileRow t + tileCol t) % 2 = 0
/-- The tile number of a compute die's index (R12). -/
def computeTile (w : Nat) : Nat := (w / 7) * 14 + 2 * (w % 7) + (w / 7) % 2
/-- The tile number of a memory tile's index (R12). -/
def memoryTile (w : Nat) : Nat := (w / 7) * 14 + 2 * (w % 7) + (w / 7 + 1) % 2
/-- A tile's index within its kind (R12). -/
def tileIndex (t : Nat) : Nat := tileRow t * 7 + tileCol t / 2
/-- Die boundaries between two tiles (R27). -/
def crossings (a b : Nat) : Nat :=
  (max (tileRow a) (tileRow b) - min (tileRow a) (tileRow b)) + (max (tileCol a) (tileCol b) - min (tileCol a) (tileCol b))
/-- The latency band of a number of crossings (R27). -/
def bandOf (n : Nat) : Nat :=
  if n = 0 then 0 else if n = 1 then 1 else if n = 2 then 2 else if n ≤ 4 then 3 else if n ≤ 8 then 4
  else if n ≤ 16 then 5 else 6
/-- The upper delivery bound of a band in ns (R27). -/
def bandUpper (b : Nat) : Nat :=
  match b with
  | 0 => 40 | 1 => 70 | 2 => 100 | 3 => 150 | 4 => 240 | 5 => 420 | 6 => 600 | _ => 3000

/-! ### Lanes -/

/-- The lanes a predicate over lane numbers picks. -/
def laneMask (p : Nat → Bool) : Mask := BitVec.ofNat 32 ((List.range 32).foldl (fun acc l => if p l then acc + 2 ^ l else acc) 0)
/-- The lanes of a mask, rising. -/
def lanesOf (m : Mask) : List Nat := (List.range 32).filter fun l => m.getLsbD l
/-- The lowest lane of a mask. -/
def lowestLane (m : Mask) : Nat := ((lanesOf m).head?).getD 0
/-- The mask of the lowest lane. -/
def lowestMask (m : Mask) : Mask := if m = 0 then 0 else BitVec.ofNat 32 (2 ^ lowestLane m)
/-- A number of lanes. -/
def laneCount (m : Mask) : Nat := (lanesOf m).length
/-- 32 lanes from a function of the lane number. -/
def mkLanes (g : Nat → Word) : Lanes := (List.range 32).map g
/-- The lanes of the quads that hold a lane of the mask. -/
def quadFill (m : Mask) : Mask := laneMask fun l => (m >>> (4 * (l / 4))) &&& 0xF ≠ 0

/-- A predicate register in every lane; p15 is true (R7, R114). -/
def Thread.pred (t : Thread) (n : Nat) : Mask := if n = 15 then 0xFFFFFFFF else ngetD t.preg n 0

/-- The lanes outside tadpoles; a tadpole has one lane (R399). -/
def Thread.isGroup (t : Thread) : Bool := t.kind = .group
/-- The guard G (R116). -/
def Thread.guard (t : Thread) (f : Fields) : Mask :=
  let p := t.pred f.grd.toNat
  if f.gneg then ~~~p else p
/-- LIVE (R46); in a tadpole, lane 0 under the guard (R399). -/
def Thread.live (t : Thread) (f : Fields) : Mask :=
  if t.isGroup then t.exm &&& ~~~t.deadm &&& t.guard f else t.guard f &&& 1
/-- EFF (R46). -/
def Thread.eff (t : Thread) (f : Fields) : Mask := if t.isGroup then t.live f &&& ~~~t.hlpm else t.live f
/-- The guard "never" (R116). -/
def neverGuard (f : Fields) : Bool := f.grd = 15 && f.gneg
/-- Lanes that read as dead: dead, exited or never launched (R74). -/
def Thread.deadLanes (t : Thread) : Mask :=
  if t.isGroup then t.deadm ||| t.exited ||| ~~~t.lmask else ~~~1
/-- The entry mask C of the current level (R50). -/
def Thread.curC (t : Thread) : Mask :=
  match t.stack with
  | [] => t.c0
  | e :: _ => e.c

/-! ### The PC (R111) -/

def pcIndex (pc : Word64) : Int := ((pc.toNat >>> 6) * 5 + (pc.toNat % 64) / 12 : Nat)
def pcOf (i : Int) : Word64 := BitVec.ofNat 64 ((i.toNat / 5) <<< 6 + (i.toNat % 5) * 12)
def nextPc (pc : Word64) : Word64 := pcOf (pcIndex pc + 1)
/-- Bits 5:0 of a PC are a slot offset. -/
def slotOk (pc : Word64) : Bool := let o := pc.toNat % 64; o = 0 || o = 12 || o = 24 || o = 36 || o = 48
/-- Bits 63:57 of a PC are zero. -/
def pcHighOk (pc : Word64) : Bool := pc.toNat < 2 ^ 57
/-- The target of a displacement, or none when it is a bad target (R111). -/
def dispTarget (pc : Word64) (disp : Int) : Option Word64 :=
  let i := pcIndex pc + disp
  if i < 0 then none
  else if (i.toNat / 5) <<< 6 < 2 ^ 57 then some (pcOf i) else none

/-! ### Cause codes (R129) -/

def cIENC : Nat := 0x01
def cPRIV : Nat := 0x02
def cBKPT : Nat := 0x03
def cTRAP : Nat := 0x04
def cMISAL : Nat := 0x05
def cXLAT : Nat := 0x06
def cPERM : Nat := 0x07
def cSIGF : Nat := 0x08
def cMASKF : Nat := 0x09
def cUCE : Nat := 0x0A
def cMSTG : Nat := 0x0B
def cFMTW : Nat := 0x0C
def cDIEL : Nat := 0x0D
def cWDOG : Nat := 0x0E
def cFABF : Nat := 0x0F
def cHALT : Nat := 0x10
def cSTEP : Nat := 0x11
def cCAPF : Nat := 0x12
def cLOCKB : Nat := 0x13
def cPOISON : Nat := 0x14

/-- FUNIT (R422): kind and index. -/
def funit (kind index : Nat) : Word64 := BitVec.ofNat 64 (16 * kind + index)

/-! ### w registers (R63) -/

/-- The value a read at clk `now` by thread `tid` gets; `pick` chooses among the allowed ones. -/
def WReg.read (r : WReg) (now tid pick : Nat) : Word64 :=
  let seen := fun (x : WWrite) => x.eff + 4 ≤ now || x.tids.contains tid
  -- the last write surely seen, then those that may be
  let n := r.recent.length
  let lastSeen := (List.range n).foldl (fun acc i => if (r.recent[i]?).any seen then i + 1 else acc) 0
  let base := if lastSeen = 0 then r.val else ((r.recent[lastSeen - 1]?).map (·.val)).getD r.val
  let maybe := ((r.recent.drop lastSeen).filter fun x => x.eff ≤ now).map (·.val)
  let cands := base :: maybe
  (cands[pick % cands.length]?).getD base

/-- Insert a write in order of clk; of two in one clk, the highest barrel's stays (R63). -/
def wInsert (l : List WWrite) (x : WWrite) : List WWrite :=
  match l with
  | [] => [x]
  | y :: r =>
    if y.eff < x.eff then y :: wInsert r x
    else if y.eff = x.eff then
      (if y.barrel ≤ x.barrel then { x with tids := y.tids ++ x.tids } else { y with tids := y.tids ++ x.tids }) :: r
    else x :: y :: r

/-- The clk from which a group's write counts: after every earlier write of its own (R63, R157, R185). -/
def WReg.after (r : WReg) (eff tid : Nat) : Nat := r.recent.foldl (fun n x => if x.tids.contains tid then max n (x.eff + 1) else n) eff

/-- A write that counts from `eff`, or from its group's earlier writes on; writes that every group surely sees settle. -/
def WReg.write (r : WReg) (now eff barrel tid : Nat) (v : Word64) : WReg :=
  let eff := r.after eff tid
  let old := r.recent.filter fun x => x.eff + 4 ≤ now
  let val := ((old.getLast?).map (·.val)).getD r.val
  { val := val,
    recent := wInsert (r.recent.filter fun x => !(x.eff + 4 ≤ now)) { eff := eff, barrel := barrel, tids := [tid], val := v } }

/-- Every write settled, as a workgroup barrier orders it (R170). -/
def WReg.settle (r : WReg) : WReg := { val := ((r.recent.getLast?).map (·.val)).getD r.val, recent := [] }

def WReg.zero : WReg := ⟨0, []⟩

/-! ### Register writes -/

/-- The value of one lane of a vector name; unmapped names read zero (R56). -/
def Thread.vlane (t : Thread) (n l : Nat) : Word := ((nget t.vmap n).bind fun p => p.val[l]?).getD 0

/-- Map a vector name to a fresh physical register, keeping the lanes outside `mask` (R58). -/
def Thread.writeVec (t : Thread) (id n : Nat) (val : Nat → Word) (mask : Mask) : Thread :=
  { t with vmap := nset t.vmap n { id := id, val := mkLanes fun l => if mask.getLsbD l then val l else t.vlane n l } }

/-- Write a predicate in the lanes of `mask`; p15 discards (R114). -/
def Thread.writePred (t : Thread) (n : Nat) (val mask : Mask) : Thread :=
  if n = 15 then t else { t with preg := nset t.preg n ((val &&& mask) ||| (t.pred n &&& ~~~mask)) }

/-- A register write of an instruction. -/
inductive Write where
  /-- A vector name in the lanes of a mask (R58). -/
  | vec (n : Nat) (val : Lanes) (mask : Mask)
  /-- A predicate in the lanes of a mask. -/
  | prd (n : Nat) (val mask : Mask)
  /-- A uniform register by its code: s, w, or zr, which discards (R113). -/
  | uni (code : Nat) (val : Word64)
  deriving DecidableEq, Repr

/-- Perform one register write of thread `tid`. A w write counts from `lat` clk after now (R63, R185). -/
def applyWrite (lat tid : Nat) (s : State) (w : Write) : State :=
  match w with
  | .vec n val mask =>
    let (id, s) := s.fresh
    s.modThread tid fun t => t.writeVec id n (fun l => (val[l]?).getD 0) mask
  | .prd n val mask => s.modThread tid fun t => t.writePred n val mask
  | .uni code val =>
    match regOf code with
    | .s n => s.modThread tid fun t => { t with sreg := nset t.sreg n val }
    | .w n =>
      match s.thread tid with
      | none => s
      | some t =>
        s.modWg t.wg fun g =>
          let r := (ngetD g.w n WReg.zero).write s.cyc (s.cyc + lat) t.barrel tid val
          { g with w := nset g.w n r }
    | _ => s

/-- Perform register writes in order. -/
def applyWrites (lat tid : Nat) (s : State) (ws : List Write) : State := ws.foldl (applyWrite lat tid) s

/-- The vector names a list of writes would newly map (R53, R59). -/
def newNames (t : Thread) (ws : List Write) : List Nat :=
  (ws.filterMap fun w => match w with
    | .vec n _ _ => if (nget t.vmap n).isNone then some n else none
    | _ => none).eraseDups

/-- Whether the names that writes newly map keep a group within its register budget (R59); a tadpole's names are its own
(R399). The names that the same form releases by its last-read bits (R60) still count: the rules give no order (log 53). -/
def Thread.fits (t : Thread) (ws : List Write) : Bool :=
  !t.isGroup || (newNames t ws).isEmpty || t.vmap.length + (newNames t ws).length ≤ t.budget

/-! ### Signatures (R175) -/

/-- One byte folded into the reflected CRC-32C. -/
def fold8 (s : Word) (x : Byte) : Word :=
  (List.range 8).foldl (fun acc _ => (acc >>> 1) ^^^ (if acc.getLsbD 0 then 0x82F63B78 else 0)) (s ^^^ x.setWidth 32)
def fold16 (s : Word) (h : BitVec 16) : Word := fold8 (fold8 s (h.extractLsb' 0 8)) (h.extractLsb' 8 8)

/-- The signature after a form of operation number `opc` issues; a tadpole keeps none. -/
def Thread.foldOpc (t : Thread) (opc : Nat) : Thread :=
  if t.isGroup then { t with sig := fold16 t.sig (BitVec.ofNat 16 opc) } else t
/-- The signature at a reset point. -/
def Thread.setSig (t : Thread) (v : Word) : Thread := if t.isGroup then { t with sig := v } else t

/-! ### Capabilities (R404) -/

/-- The CU handle of a CU in a context: its place in the order of first admission. -/
def Ctx.handle (c : Ctx) (cu : Nat) : Nat := c.cuh.findIdx (· = cu)

/-- The capability that names a group at its present generation. -/
def State.capOf (s : State) (t : Thread) : Word64 :=
  BitVec.ofNat 64 (t.ctx <<< 54 + (s.ctx t.ctx).handle t.cu <<< 40 + t.barrel <<< 38 + t.slot <<< 33 + t.gen <<< 16)
/-- The job capability of a context. -/
def jobCap (c : Nat) : Word64 := BitVec.ofNat 64 (c <<< 54 + 1 <<< 32)

/-- The partition key of a context (R372). -/
def Ctx.key (c : Ctx) : Nat := bits c.ctl 63 48

/-! ### Triggers of brumation (R425, R427, R30) -/

/-- The order of R30: time, then source number. -/
def trigBefore (a b : Trigger) : Bool :=
  a.time < b.time || (a.time = b.time && a.modn * 256 + a.tile < b.modn * 256 + b.tile)

def insertTrigger (l : List Trigger) (x : Trigger) : List Trigger :=
  match l with
  | [] => [x]
  | y :: r => if trigBefore x y then x :: y :: r else y :: insertTrigger r x

/-- The cause registers of a trigger (R427). -/
def hcauseOf (x : Trigger) : Word64 := BitVec.ofNat 64 (x.syn.toNat <<< 16 + x.cause)
def hsrcOf (x : Trigger) : Word64 :=
  BitVec.ofNat 64 (x.modn <<< 52 + (if x.grp then x.cuh <<< 38 + x.brl <<< 36 + x.slot <<< 31 + 1 else 0))

/-- Whether a partition is halting, halted or resuming: not 0. -/
def State.halting (s : State) (c : Nat) : Bool := bits (s.ctx c).brst 1 0 ≠ 0

/-- The cause registers of a context show a trigger. -/
def Ctx.show (k : Ctx) (x : Trigger) : Ctx := { k with hcause := hcauseOf x, hsrc := hsrcOf x, htime := BitVec.ofNat 64 x.time }

/-- A partition begins to halt: the last brumation's buffer and count are cleared (R427). -/
def Ctx.beginHalt (k : Ctx) (x : Trigger) : Ctx :=
  if bits k.brst 1 0 ≠ 0 then k
  else { k.show x with brst := (k.brst &&& ~~~3) ||| 1, trig := [], trigTotal := 0, settled := false }

/-- The earliest trigger that a module knows of is shown until the settled one is (R427). -/
def noteTrigger (s : State) (c : Nat) (x : Trigger) : State :=
  let key := (s.ctx c).key
  let first := match (s.part key).first with
    | some y => if trigBefore x y then x else y
    | none => x
  let s := s.modPart key fun p => { p with first := some first }
  s.modCtx c fun k => let k := k.beginHalt x; if k.settled then k else k.show first

/-- Raise a trigger of this module: it is recorded in the context's buffer, which keeps the 8 earliest, and sent as a halt wave
unless the job is halting already (R425, R427). -/
def raiseTrigger (s : State) (c : Nat) (x : Trigger) : State :=
  let was := s.halting c
  let s := noteTrigger s c x
  let s := s.modCtx c fun k => { k with trig := (insertTrigger k.trig x).take 8, trigTotal := min 255 (k.trigTotal + 1) }
  if was then s else s.modPart (s.ctx c).key fun p => { p with waves := p.waves ++ [x] }

/-! ### Killing (R413, R249, R275, R325, R357) -/

/-- Break the locks of a thread: its entries stay, broken (R251). -/
def Thread.breakLocks (t : Thread) : Thread :=
  { t with locks := nmap t.locks fun _ k => { k with held := false } }

/-- End a thread for good: it leaves its place, holds no registers and its frozen record goes stale. -/
def Thread.finish (t : Thread) : Thread :=
  { t.breakLocks with place := .exited, fz := none, blk := none, gen := (t.gen + 1) % 65536, stall := 0, overdue := none }

/-- The stages of FZSTEP (R412): it waits for reissued entries, then for the instruction. -/
def stepWait : Nat := 41
def stepRun : Nat := 42

/-- Remove a tadpole: it frees its place in the pool (R400). A step that it was making of a group is over. -/
def endTadpole (s : State) (tid : Nat) : State :=
  match s.thread tid with
  | none => s
  | some t =>
    let s := match t.blk with
      | some b => if b.stage = stepWait || b.stage = stepRun then s.modThread b.val fun u => { u with stepping := 0 } else s
      | none => s
    let s := s.modCu t.cu fun c =>
      { c with pool := c.pool.filter (· ≠ tid), agent := if c.agent = some tid then none else c.agent }
    { s with thr := nerase s.thr tid, env := { s.env with cur := if s.env.cur = some tid then none else s.env.cur } }

/-- The open objects bound to a launch take the excused flag of their pending phase (R357). -/
def exciseObjs (s : State) (key launch : Nat) : State :=
  s.modPart key fun p => { p with objs := nmap p.objs fun _ o => if o.en && o.launch = some launch then { o with excused := true } else o }

/-- What a killed workgroup's ring keeps: the commands that a fault held, which are abandoned, with a stamp where STE asks for one (R275,
R276). DONE advances past those that no discarded command precedes (R258), which `running` tells. -/
def abandoned (l : List CopyCmd) : List CopyCmd :=
  let first := l.takeWhile fun c => c.held.isSome || c.stage = 4
  (l.filter fun c => c.held.isSome || c.stage = 4).map fun c => { c with stage := 4, running := first.any fun x => x.id = c.id }

/-- Kill a workgroup: its groups end and their accesses run on, less the faulted ones; waiting spawns for them, its barriers,
commands in the ring, queued matrix operations, registrations and mailboxes go; cluster and tree phases excuse it (R166,
R171, R230, R251, R275, R325, R347, R357). -/
def killWg (s : State) (w : Nat) : State :=
  match s.wg w with
  | none => s
  | some g =>
    if g.killed then s
    else
      let stood := g.groups.any fun tid => match s.thread tid with | some t => t.place ≠ .exited | none => false
      let s := g.groups.foldl (fun s tid =>
        let s := s.modThread tid fun t =>
          { t.finish with vmap := [], log := t.log.filter (·.state ≠ 1), fOpen := [], ffail := none, openOps := [], batches := [] }
        s.modCu g.cu fun c => { c with spawnq := c.spawnq.filter fun q => !(q.hasTid && q.tid = tid) }) s
      let s := s.modWg w fun g => { g with killed := true, excused := true, bars := [], ring := abandoned g.ring, tiles := [], mqSave := [] }
      let s := s.modCu g.cu fun c => { c with mq := c.mq.filter fun m => m.wg ≠ w }
      let s := s.modMem fun m => { m with regs := m.regs.filter fun r => r.wg ≠ w }
      let mine := (s.fab.cmds.filter fun p => g.groups.contains p.2.tid).map fun p => p.2.xid
      let s := { s with fab := { s.fab with
        cmds := s.fab.cmds.filter fun p => !g.groups.contains p.2.tid,
        unacked := s.fab.unacked.filter fun u => u.inj || !mine.contains u.pkt.xid,
        boxes := nmap s.fab.boxes fun _ b =>
          if b.used && b.ctx = g.ctx && b.wg = w then { b with used := false, closing := false, infl := 0 } else b } }
      let s := if stood then exciseObjs s (s.ctx g.ctx).key g.launch else s
      s.modLaunch g.launch fun l =>
        { l with killed := true, excused := if stood && !l.excused.contains g.clid then l.excused ++ [g.clid] else l.excused }

/-- The launches that a queue has taken, and those in the device buffer, finish KILLED (R377, R400): the device launches that
were never accepted are reported on queue 0. -/
def Queue.kill (q : Queue) (dev : Nat) : Queue :=
  let last := match q.pend with | some _ => q.entries.getLast?.map (·.seq) | none => none
  { q with pend := none, rep := q.rep ++ List.replicate dev 4,
           entries := q.entries.map fun e => if some e.seq = last then { e with status := some 4 } else e }

/-- Kill a context: every workgroup of it, and its launches finish KILLED (R377, R398). -/
def killCtx (s : State) (c : Nat) : State :=
  let ws := (s.wgs.filter fun p => p.2.ctx = c).map (·.1)
  let s := ws.foldl killWg s
  let ts := (s.thr.filter fun p => p.2.ctx = c && !p.2.isGroup).map (·.1)
  let s := ts.foldl endTadpole s
  let s := { s with lch := nmap s.lch fun _ l => if l.ctx = c then { l with killed := true, next := l.clusters } else l }
  s.modCtx c fun k =>
    let dev := k.devBuf.length
    let qs := if dev = 0 then k.queues else nset k.queues 0 (ngetD k.queues 0 Queue.reset)
    { k with devBuf := [], objs := [], queues := nmap qs fun i q => q.kill (if i = 0 then dev else 0) }

/-! ### Spawning and freezing (R396-R403) -/

/-- The bits of TKIND (R401). -/
def tkindOf (sys nest ntc agt imp brum : Bool) (ocause : Nat) : Word64 :=
  BitVec.ofNat 64 ((if sys then 1 else 0) + (if nest then 2 else 0) + (if ntc then 4 else 0) + (if agt then 8 else 0)
    + (if imp then 16 else 0) + (if brum then 32 else 0) + ocause <<< 8)

/-- The order of the spawn queue (R400). -/
def Spawn.before (a b : Spawn) : Bool :=
  a.time < b.time || (a.time = b.time && (a.barrel < b.barrel || (a.barrel = b.barrel && a.slot < b.slot)))

def insertSpawn (l : List Spawn) (x : Spawn) : List Spawn :=
  match l with
  | [] => [x]
  | y :: r => if x.before y then x :: y :: r else y :: insertSpawn r x

/-- The launch a thread belongs to. -/
def State.launchOf (s : State) (t : Thread) : Option Launch := nget s.lch t.launch

/-- Queue the tadpole for a fault, or kill the context where a system tadpole is needed and SYSENT is 0 (R398). `sys`
forces a system tadpole. A tadpole for a fault in a user tadpole takes that one's place, ahead of the queue (R400). -/
def queueSpawn (s : State) (tid : Nat) (t : Thread) (fr : FaultRec) (sys nest ntc imp : Bool) (ocause : Nat) : State :=
  let hpc := ((s.launchOf t).map (·.lr.hpc)).getD 0
  let useSys := sys || hpc = 0
  if useSys && (s.ctx t.ctx).sysent = 0 then killCtx s t.ctx
  else
    let tk := tkindOf useSys nest ntc false imp (s.halting t.ctx) ocause
    let target := if t.isGroup then tid else t.target.getD tid
    s.modCu t.cu fun c =>
      let q : Spawn :=
        { time := fr.time.toNat, barrel := t.barrel, slot := t.slot, tid := target,
          hasTid := t.isGroup || t.target.isSome, ctx := t.ctx, sys := useSys, notice := ntc, agent := false, fr := fr,
          tkind := tk }
      { c with spawnq := if nest then q :: c.spawnq else insertSpawn c.spawnq q }

/-- What a fault says, before the thread fills in the rest of its record (R403). `async` tells that it was found after issue,
at a boundary at which the instruction at the PC may stand in a wait. -/
structure Trap where
  cause : Nat
  syn : Word64 := 0
  lanes : Word64 := 0
  opd0 : Word64 := 0
  opd1 : Word64 := 0
  opd2 : Word64 := 0
  opd3 : Word64 := 0
  unit : Option Word64 := none
  tilem : Word64 := 0
  tilen : Word64 := 0
  fpc : Option Word64 := none
  imp : Bool := false
  async : Bool := false
  deriving DecidableEq, Repr

/-- The record of a fault of thread `t` (R403). -/
def faultRec (s : State) (t : Thread) (x : Trap) : FaultRec :=
  { cause := BitVec.ofNat 64 x.cause, fpc := x.fpc.getD t.pc, fmask := t.exm.setWidth 64, lanes := x.lanes,
    opd0 := x.opd0, opd1 := x.opd1, opd2 := x.opd2, opd3 := x.opd3, syn := x.syn,
    unit := x.unit.getD (funit 1 t.barrel), tilem := x.tilem, tilen := x.tilen,
    cap := if t.isGroup then s.capOf t else t.frec.cap, time := s.globalTime (dieOf t.cu) }

/-- The trigger that a fault of a group raises (R425). -/
def triggerOf (s : State) (t : Thread) (fr : FaultRec) : Trigger :=
  { time := fr.time.toNat, modn := s.mdl.number, tile := computeTile (dieOf t.cu), cause := fr.cause.toNat,
    syn := fr.syn.setWidth 32, grp := true, cuh := (s.ctx t.ctx).handle t.cu, brl := t.barrel, slot := t.slot }

/-- Taking an exception (R396-R401): a group freezes with a record of the fault and its resume point, and a tadpole is
queued; its barrel slot passes to the tadpole. BKPT, and the causes that HALTM selects, also trigger brumation (R425). A
misaligned access under MISPOL 01 kills the context (R99). A fault in a user tadpole ends it and queues a system
tadpole with NEST; a fault in a system tadpole kills its context. DIEL always goes to a system tadpole. -/
def takeFault (s : State) (tid : Nat) (x : Trap) (resume : Word64) : State :=
  match s.thread tid with
  | none => s
  | some t =>
    let fr := faultRec s t x
    match t.kind with
    | .group =>
      if t.stepping ≠ 0 then
        -- a stepped instruction raises no fault and spawns no tadpole; its cause is recorded (R412)
        let s := s.setThread tid
          { t with pc := resume, blk := if x.async then t.blk else none, stepping := 3, stepRes := x.cause,
                   fz := t.fz.map fun z => { z with fr := fr } }
        let haltm := ((s.launchOf t).map (·.lr.haltm)).getD 0
        let asked := x.cause = cTRAP && !x.syn.getLsbD 31 && haltm.testBit x.cause
        if x.cause = cBKPT || asked then raiseTrigger s t.ctx (triggerOf s t fr) else s
      else if x.cause = cMISAL && ((s.launchOf t).map (·.lr.mispol)).getD 0 = 1 then
        let haltm := ((s.launchOf t).map (·.lr.haltm)).getD 0
        killCtx (if haltm.testBit x.cause then raiseTrigger s t.ctx (triggerOf s t fr) else s) t.ctx
      else
        let haltm := ((s.launchOf t).map (·.lr.haltm)).getD 0
        let z : Freeze :=
          { fr := fr, byFault := true, byBrum := (t.fz.map (·.byBrum)).getD false, hold := false, imp := x.imp,
            tied := none }
        let s := s.setThread tid
          { t with pc := resume, blk := if x.async then t.blk else none, wb := if x.async then t.wb else none,
                   ops := if x.async then t.ops else [], fz := some z }
        let s := queueSpawn s tid t fr (x.cause = cDIEL) false false x.imp 0
        if x.cause = cBKPT || haltm.testBit x.cause then raiseTrigger s t.ctx (triggerOf s t fr) else s
    | .userTadpole =>
      let s := queueSpawn s tid t fr true true false x.imp (bits t.frec.cause 7 0)
      endTadpole s tid
    | .systemTadpole => killCtx s t.ctx

/-- A faulted entry to be performed again: lanes that a tadpole completed stay completed, the others are checked anew, at another
module too (R102, R238, R411). -/
def LogEntry.reissued (e : LogEntry) : LogEntry :=
  let again := e.flt &&& ~~~e.done
  { e with state := 0, flt := e.flt &&& e.done, cause := 0, syn := 0, rank := 0, sent := e.sent &&& ~~~again,
           coh := e.coh.filter fun p => !again.getLsbD (p.1 / 4) }

/-- A frozen group leaves the frozen state (R397, R413): its generation advances and it issues from its resume PC.
Held accesses go on;
after a fault of its own, its faulted log entries are reissued (R101, R102). -/
def unfreeze (t : Thread) (now : Nat) : Thread :=
  let own := (t.fz.map (·.byFault)).getD false
  let t := { t with fz := none, gen := (t.gen + 1) % 65536, wdSince := now, readySince := now, swaps := 0, overdue := none, early := [],
                    log := t.log.map fun e => if e.state = 2 then { e with state := 0 } else e }
  if own then
    { t with log := t.log.map fun e =>
               if e.state = 1 then e.reissued else e }
  else t

/-- The commands that a group's fault held, or that it was stepped into, go on with it, once no further fault of it waits (R230,
R275, R276, R344). -/
def goOn (s : State) (tid : Nat) : State :=
  match s.thread tid with
  | none => s
  | some t =>
    if t.postCause.isSome || t.fz.isSome then s
    else
      let free := fun (h : Option Held) => if h.any fun x => x.taker = some tid then none else h
      let op := fun (o : MatOp) => if o.tid = tid then { o with stepped := false } else o
      let s := s.modWg t.wg fun g =>
        { g with mqSave := g.mqSave.map op,
                 ring := g.ring.map fun c => { c with held := free c.held, stepped := c.stepped && c.tid ≠ tid } }
      let s := s.modCu t.cu fun u => { u with mq := u.mq.map op }
      s.modFab fun x => { x with cmds := nmap x.cmds fun _ c => { c with held := free c.held } }

/-- A group goes on. -/
def runOn (s : State) (tid : Nat) (t : Thread) : State := goOn (s.setThread tid (unfreeze t s.cyc)) tid

/-- One group's part of a resume: in brumation its disposition becomes RUN and it waits for RESUMEJ. A group that MSTG of another
one holds stays held (R229). -/
def resumeOne (s : State) (tid : Nat) : State :=
  match s.thread tid with
  | none => s
  | some t =>
    match t.fz with
    | none => s
    | some z =>
      if z.tied.isSome then
        if z.byFault then
          s.setThread tid { unfreeze t s.cyc with fz := some { z with byFault := false, hold := true } }
        else s
      else if s.halting t.ctx then s.setThread tid { t with fz := some { z with hold := false, byBrum := true } }
      else runOn s tid t

/-- A fault of MSTG that a group has still to take. -/
def Thread.owesMstg (t : Thread) : Bool :=
  (t.postCause.any fun r => bits r.cause 7 0 = cMSTG) || t.postMore.any fun r => bits r.cause 7 0 = cMSTG

/-- A group held with another one under R229 is held no more: it resumes, unless a fault of its own holds it. -/
def untie (s : State) (tid : Nat) : State :=
  let s := s.modThread tid fun t => { t with fz := t.fz.map fun z => { z with tied := none } }
  if ((s.thread tid).bind (·.fz)).any fun z => z.byFault then s else resumeOne s tid

/-- The return from an exception (R413): the group's disposition becomes RUN. Outside brumation it resumes at its resume
PC; in brumation it waits for RESUMEJ. Groups held with it under R229 resume with it. -/
def resumeGroup (s : State) (tid : Nat) : State :=
  let tied := (s.thr.filter fun p => (p.2.fz.bind (·.tied)) = some tid).map (·.1)
  let owes := ((s.thread tid).map Thread.owesMstg).getD false
  let s := resumeOne s tid
  if owes then s else tied.foldl untie s

/-- Hold the other groups of a workgroup with the one that takes MSTG with record `fr` (R229). -/
def holdWith (s : State) (w main : Nat) (fr : FaultRec) : State :=
  match s.wg w with
  | some g =>
    g.groups.foldl (fun s i =>
      if i = main then s
      else s.modThread i fun u =>
        if u.place = .exited then u
        else
          match u.fz with
          | some z => { u with fz := some { z with tied := some main } }
          | none => { u with fz := some { fr := fr, byFault := false, byBrum := false, hold := true, imp := true, tied := some main } }) s
  | none => s

end Sys2Proof.Machine
end

