-- ==== Sys2Proof/Machine/Operands.lean ====
section
/-! DEFINITION. The operand forms (R56, R57, R113-R115, R121, R137, R138): what a source field supplies to a lane or to the
group, immediates, and how results are stored. -/

namespace Sys2Proof.Machine

/-! ### Reading -/

/-- A w register as thread `t` reads it now (R63). -/
def State.wreg (s : State) (tid : Nat) (t : Thread) (n : Nat) : Word64 :=
  match s.wg t.wg with
  | some g => if t.hasWg then (ngetD g.w n WReg.zero).read s.cyc tid (Config.wRace s.env.freeCtr n) else 0
  | none => 0

/-- The 64 bits that a uniform register supplies (R115); vector codes and reserved codes supply zero. -/
def uniVal (s : State) (tid : Nat) (t : Thread) (code : Nat) : Word64 :=
  match regOf code with
  | .s n => ngetD t.sreg n 0
  | .k n => (ngetD t.kreg n 0).setWidth 64
  | .w n => s.wreg tid t n
  | _ => 0

/-- The 32 bits that a source supplies to lane `l`, register `j` of the operand for a vector (R115). -/
def lane32 (s : State) (tid : Nat) (t : Thread) (code j l : Nat) : Word :=
  match regOf code with
  | .v n => t.vlane (n + j) l
  | _ => (uniVal s tid t code).setWidth 32

/-- The 64 bits that a source supplies to lane `l`: a pair, or a whole uniform register (R57, R115). -/
def lane64 (s : State) (tid : Nat) (t : Thread) (code l : Nat) : Word64 :=
  match regOf code with
  | .v n => (t.vlane n l).setWidth 64 ||| ((t.vlane (n + 1) l).setWidth 64 <<< 32)
  | _ => uniVal s tid t code

/-- Whether a type is 64 bits wide (R118). -/
def tyWide (ty : Nat) : Bool := ty = 4 || ty = 5
/-- Whether a type is signed (R137). -/
def tySigned (ty : Nat) : Bool := ty = 0 || ty = 2 || ty = 4 || ty = 12
/-- The width of a scalar type. -/
def tyWidth (ty : Nat) : Nat := if tyWide ty then 64 else if ty = 2 || ty = 3 || ty = 7 || ty = 8 then 16 else 32

/-- The pattern that a source supplies to lane `l` at a type's register width: 64 bits, or 32. -/
def laneTy (s : State) (tid : Nat) (t : Thread) (ty code l : Nat) : Nat :=
  if tyWide ty then (lane64 s tid t code l).toNat else (lane32 s tid t code 0 l).toNat

/-- IMM32 at a type (R121): sign-extended for signed types, zero-extended for unsigned ones and B32, else the pattern. -/
def immTy (ty : Nat) (x : BitVec 32) : Nat :=
  if ty = 4 then (x.signExtend 64).toNat else x.toNat

/-- The pattern that a uniform source supplies at a type's width (R181). -/
def uniTy (s : State) (tid : Nat) (t : Thread) (ty code : Nat) : Nat :=
  if tyWide ty then (uniVal s tid t code).toNat else ((uniVal s tid t code).setWidth 32).toNat

/-- A pattern read as the number that a type gives it (R137). -/
def numTy (ty x : Nat) : Int :=
  let w := tyWidth ty
  if tySigned ty then signedOf w x else ((x % 2 ^ w : Nat) : Int)

/-! ### Storing -/

/-- An exact integer stored at width `w` (R139): wrapped, or saturated. -/
def storeInt (w : Nat) (signed sat : Bool) (i : Int) : Nat :=
  let lo : Int := if signed then -(2 ^ (w - 1) : Nat) else 0
  let hi : Int := if signed then (2 ^ (w - 1) : Nat) - 1 else (2 ^ w : Nat) - 1
  let r := if sat then (if i < lo then lo else if hi < i then hi else i) else i
  (r % (2 ^ w : Nat)).toNat

/-- An exact integer stored in a type (R138, R139). -/
def storeTy (ty : Nat) (sat : Bool) (i : Int) : Nat := storeInt (tyWidth ty) (tySigned ty) sat i

/-- A result pattern of a type as an s or w register holds it (R138); the upper half of an F32 result is zero (log 45). -/
def uniStore (ty x : Nat) : Word64 :=
  if tyWide ty then BitVec.ofNat 64 x else if ty = 0 then sext64 32 x else BitVec.ofNat 64 (x % 2 ^ 32)

/-- A 16-bit integer result as a lane holds it (R138). -/
def lane16 (signed : Bool) (x : Nat) : Nat := if signed then ((BitVec.ofNat 16 x).signExtend 32).toNat else x % 2 ^ 16

/-- The writes of a per-lane result of 32 or 64 bits to a vector destination (R57, R138); zr discards, and with no lane
to write there is no write (R46). -/
def vecWrites (code : Nat) (wide : Bool) (live : Mask) (val : Nat → Nat) : List Write :=
  match regOf code with
  | .v n =>
    if live = 0 then []
    else if wide then
      [.vec n (mkLanes fun l => BitVec.ofNat 32 (val l)) live,
       .vec (n + 1) (mkLanes fun l => BitVec.ofNat 32 (val l >>> 32)) live]
    else [.vec n (mkLanes fun l => BitVec.ofNat 32 (val l)) live]
  | _ => []

/-- The write of one value for the group to a destination of any class (R116, R126): every lane of LIVE, or once. -/
def anyWrites (code : Nat) (wide : Bool) (live : Mask) (vec : Nat) (uni : Word64) : List Write :=
  match regOf code with
  | .v _ => vecWrites code wide live fun _ => vec
  | _ => [.uni code uni]

/-- The write of a predicate result (R114). -/
def predWrites (code : Nat) (val live : Mask) : List Write := [.prd (code % 16) val live]

end Sys2Proof.Machine
end

