-- ==== Sys2Proof/Machine/Arith.lean ====
section
/-! DEFINITION. The integer results that the scalar and the vector forms share (R139, R182, R183, R187): each takes the type
code and the source patterns at the type's width, and gives the result pattern. -/

namespace Sys2Proof.Machine.Arith

/-- An exact result stored at the type's width. -/
def st (ty : Nat) (sat : Bool) (i : Int) : Nat := storeTy ty sat i

def add (ty : Nat) (sat : Bool) (a b : Nat) : Nat := st ty sat (numTy ty a + numTy ty b)
def sub (ty : Nat) (sat : Bool) (a b : Nat) : Nat := st ty sat (numTy ty a - numTy ty b)
def mul (ty : Nat) (sat : Bool) (a b : Nat) : Nat := st ty sat (numTy ty a * numTy ty b)
/-- The high half of the exact product (R182). -/
def mulh (ty : Nat) (a b : Nat) : Nat := st ty false ((numTy ty a * numTy ty b) / (2 ^ tyWidth ty : Nat))
def mad (ty : Nat) (sat : Bool) (a b c : Nat) : Nat := st ty sat (numTy ty a * numTy ty b + numTy ty c)
def shl (ty : Nat) (a b : Nat) : Nat := (a <<< (b % tyWidth ty)) % 2 ^ tyWidth ty
def shr (ty : Nat) (a b : Nat) : Nat := a >>> (b % tyWidth ty)
def sar (ty : Nat) (a b : Nat) : Nat := st ty false (numTy ty a / (2 ^ (b % tyWidth ty) : Nat))
def min (ty : Nat) (a b : Nat) : Nat := if numTy ty a ≤ numTy ty b then a else b
def max (ty : Nat) (a b : Nat) : Nat := if numTy ty b ≤ numTy ty a then a else b
/-- A relation of SCMP and VCMP (R182). -/
def rel (r ty : Nat) (a b : Nat) : Bool :=
  match r with
  | 0 => numTy ty a = numTy ty b
  | 1 => numTy ty a ≠ numTy ty b
  | 2 => numTy ty a < numTy ty b
  | 3 => numTy ty a ≤ numTy ty b
  | 4 => numTy ty b < numTy ty a
  | _ => numTy ty b ≤ numTy ty a
/-- Leading zero bits at the type's width. -/
def clz (ty : Nat) (a : Nat) : Nat := if a = 0 then tyWidth ty else tyWidth ty - 1 - Nat.log2 a
def pop (ty : Nat) (a : Nat) : Nat := ((List.range (tyWidth ty)).filter fun i => a.testBit i).length
def brev (ty : Nat) (a : Nat) : Nat :=
  (List.range (tyWidth ty)).foldl (fun acc i => if a.testBit i then acc + 2 ^ (tyWidth ty - 1 - i) else acc) 0
/-- The field's length (R183). -/
def bfLen (ty b : Nat) : Nat := Nat.min ((b >>> 8) % 128) (tyWidth ty)
/-- A field extracted: bits at or above the width read zero, or the sign (R183). -/
def bfe (ty : Nat) (a b : Nat) : Nat :=
  let pos := b % 64
  let len := bfLen ty b
  if len = 0 then 0
  else
    let field := ((numTy ty a / (2 ^ pos : Nat)) % (2 ^ len : Nat)).toNat
    st ty false (if tySigned ty then signedOf len field else field)
/-- A field inserted into the base `c`; bits at or beyond the width are discarded (R183). -/
def bfi (ty : Nat) (a b c : Nat) : Nat :=
  let pos := b % 64
  let len := bfLen ty b
  let w := tyWidth ty
  (List.range w).foldl
    (fun acc i => if (if pos ≤ i && i < pos + len then a.testBit (i - pos) else c.testBit i) then acc + 2 ^ i else acc) 0
/-- The absolute value; the type's minimum wraps or saturates (R187). -/
def abs (ty : Nat) (sat : Bool) (a : Nat) : Nat := st ty sat ((numTy ty a).natAbs)

/-- A two-element operation on S16x2 (R137, R139). -/
def packed (g : Nat → Nat → Nat) (a b : Nat) : Nat :=
  g (a % 65536) (b % 65536) + (g (a / 65536) (b / 65536)) * 65536

end Sys2Proof.Machine.Arith
end

