-- ==== Sys2Proof/Machine/Translate.lean ====
section
/-! DEFINITION. Physical places and translation (R443-R447): pool addresses and their homes, the range table, page tables,
the lookaside buffer, and the coherent value of a byte. -/

namespace Sys2Proof.Machine

/-! ### Pool addresses (R445) -/

/-- The sector of a pool address. -/
def sectorOf (pa : Nat) : Nat := pa / 64
/-- A sector of another module's coherent range, as this module's L2s name it: the partition key, the module and its virtual
address there (R301). -/
def remoteSec (key md va : Nat) : Nat := (key * 4096 + md + 1) * 2 ^ 46 + va / 64
def isRemote (sec : Nat) : Bool := 2 ^ 46 ≤ sec
def remoteMod (sec : Nat) : Nat := (sec / 2 ^ 46 - 1) % 4096
def remoteKey (sec : Nat) : Nat := (sec / 2 ^ 46 - 1) / 4096
def remoteVa (sec : Nat) : Nat := sec % 2 ^ 46 * 64
/-- The home of a sector: pool page mod 84 (R445); from 84 on, the homes of another module. -/
def homeOf (sec : Nat) : Nat := if isRemote sec then 84 + remoteMod sec else (sec / 64) % 84
/-- The key of an agent's copy of a sector. -/
def l2key (agent sec : Nat) : Nat := agent * 2 ^ 80 + sec
/-- A sector's metadata at its home (R289). -/
def State.smeta (s : State) (sec : Nat) : Meta := ngetD s.mem.smeta sec Meta.init
def State.setMeta (s : State) (sec : Nat) (m : Meta) : State :=
  { s with mem := { s.mem with smeta := nset s.mem.smeta sec m } }
/-- The budget T of a sector (R287). -/
def Meta.budget (m : Meta) : Nat := if m.t64 then 64 else 8

/-- The data of a sector whose owner token an L2 or a port holds with a valid copy. -/
def State.ownerCopy (s : State) (sec : Nat) : Option TokLine :=
  ((s.mem.l2.find? fun p => p.1 % 2 ^ 80 = sec && p.2.o && p.2.v).map (·.2))

/-- The current coherent value of bytes of pool memory within one sector: the owner's copy, else DRAM. -/
def State.cohSector (s : State) (sec : Nat) : List Byte :=
  match s.ownerCopy sec with
  | some l => l.data
  | none =>
    match (s.mem.net.find? fun p => p.2.sector = sec && p.2.own && p.2.dat) with
    | some p => p.2.data
    | none => Memory.bytes s.mem.dram (sec * 64) 64

/-- The current coherent value of `n` bytes of pool memory. -/
def State.coh (s : State) (pa n : Nat) : List Byte :=
  let none' := fun (sec : Nat) => sec < pa / 64 || (pa + n - 1) / 64 < sec
  if (s.mem.l2.all fun p => none' (p.1 % 2 ^ 80) || !p.2.o) && s.mem.net.all fun p => none' p.2.sector || !p.2.own then Memory.bytes s.mem.dram pa n
  else (List.range n).map fun i => ((s.cohSector ((pa + i) / 64))[(pa + i) % 64]?).getD 0

/-- Bytes of module memory, or of host memory behind a port, for the walker (R441, R443). -/
def State.tableBytes (s : State) (host : Bool) (pa n : Nat) : List Byte :=
  if host then Memory.bytes s.mem.hostMem pa n else s.coh pa n

/-! ### Range entries (R443, R444) -/

/-- A range-table entry as a number, and its fields. -/
def reKind (e : Nat) : Nat := (e >>> 244) % 4
def reHport (e : Nat) : Nat := (e >>> 242) % 4
def reHset (e : Nat) : Nat := (e >>> 236) % 64
def reT64 (e : Nat) : Bool := e.testBit 235
def reCoh (e : Nat) : Bool := e.testBit 234
def reImm (e : Nat) : Bool := e.testBit 233
def reX (e : Nat) : Bool := e.testBit 232
def reW (e : Nat) : Bool := e.testBit 231
def reRd (e : Nat) : Bool := e.testBit 230
def reV (e : Nat) : Bool := e.testBit 229
def rePbase (e : Nat) : Nat := (e >>> 140) % 2 ^ 40
def reNpg (e : Nat) : Nat := (e >>> 64) % 2 ^ 45
def reVbase (e : Nat) : Nat := (e >>> 12) % 2 ^ 45
/-- The reserved bits of an entry. -/
def reRsv (e : Nat) : Nat :=
  e % 2 ^ 12 + (e >>> 57) % 2 ^ 7 + (e >>> 109) % 2 ^ 31 + (e >>> 180) % 2 ^ 49 + (e >>> 246) % 2 ^ 10

/-- The tiles of a home set, rising (R445). -/
def State.homeSet (s : State) (n : Nat) : List Nat :=
  (List.range 84).filter fun i => (ngetD s.mem.homeSets n 0).getLsbD i

/-- Whether an entry covers anything at all (R444). -/
def reValid (s : State) (e : Nat) : Bool :=
  reV e && reRsv e = 0 && reKind e ≠ 3 && reNpg e ≠ 0 && reVbase e + reNpg e ≤ 2 ^ 45 && !(reImm e && reW e)
    && !(reX e && !reImm e) && !(reKind e = 1 && 2 ^ 36 < reNpg e) && !(reKind e ≠ 0 && reHset e ≠ 0)
    && !(reHset e ≠ 0 && (s.homeSet (reHset e)).isEmpty)

/-- Whether an entry covers a virtual page. -/
def reCovers (e vpn : Nat) : Bool := reVbase e ≤ vpn && vpn < reVbase e + reNpg e

/-- Entry `i` of a context's range table. -/
def rangeEntry (s : State) (c : Ctx) (i : Nat) : Nat :=
  leNat (s.tableBytes (c.rtbase.getLsbD 0) (bits c.rtbase 51 12 * 4096 + 32 * i) 32)

/-- The walker's binary search for a virtual page among entries `lo .. lo + n − 1` (R443). -/
def rangeSearch (s : State) (c : Ctx) (vpn : Nat) (fuel lo n : Nat) : Option Nat :=
  match fuel with
  | 0 => none
  | k + 1 =>
    if n = 0 then none
    else
      let mid := lo + n / 2
      let e := rangeEntry s c mid
      if vpn < reVbase e then rangeSearch s c vpn k lo (n / 2)
      else if reCovers e vpn then (if reValid s e then some e else none)
      else rangeSearch s c vpn k (mid + 1) (n - n / 2 - 1)

/-- The addresses of the entries that the search reads. -/
def rangeReads (s : State) (c : Ctx) (vpn fuel lo n : Nat) : List Nat :=
  match fuel with
  | 0 => []
  | k + 1 =>
    if n = 0 then []
    else
      let mid := lo + n / 2
      let e := rangeEntry s c mid
      (bits c.rtbase 51 12 * 4096 + 32 * mid) ::
        (if vpn < reVbase e then rangeReads s c vpn k lo (n / 2)
        else if reCovers e vpn then [] else rangeReads s c vpn k (mid + 1) (n - n / 2 - 1))

/-- The page-table walk of R446: the physical page of page `o` of a paged range, from the table at page `tab`, and whether it lies in a
2 MiB page. -/
def pageWalk (s : State) (o level tab : Nat) : Option (Nat × Bool) :=
  match level with
  | 0 => none
  | k + 1 =>
    let a := tab * 4096 + 8 * ((o >>> (9 * k)) % 512)
    if Config.poolBytes ≤ a then none
    else
      let e := leNat (s.coh a 8)
      let pa := (e >>> 12) % 2 ^ 40
      let leaf := e.testBit 1
      if !e.testBit 0 || e >>> 52 ≠ 0 || (e >>> 2) % 2 ^ 10 ≠ 0 || (leaf && k ≠ 1) then none
      else if leaf then (if pa % 512 = 0 then some (pa + o % 512, true) else none)
      else if k = 0 then some (pa, false)
      else pageWalk s o k pa

/-- The addresses of the entries that the page-table walk reads. -/
def pageReads (s : State) (o level tab : Nat) : List Nat :=
  match level with
  | 0 => []
  | k + 1 =>
    let a := tab * 4096 + 8 * ((o >>> (9 * k)) % 512)
    if Config.poolBytes ≤ a then []
    else
      let e := leNat (s.coh a 8)
      a :: (if e.testBit 0 && !e.testBit 1 then pageReads s o k ((e >>> 12) % 2 ^ 40) else [])

/-- The physical page of page `j` of a range (R445, R446); for host memory, the host page. -/
def rangePage (s : State) (e j : Nat) : Option Nat :=
  match reKind e with
  | 1 => (pageWalk s j 4 (rePbase e)).bind fun p => if p.1 * 4096 < Config.poolBytes then some p.1 else none
  | 2 => some (rePbase e + j)
  | _ =>
    if reHset e = 0 then
      (if (rePbase e + j) * 4096 < Config.poolBytes then some (rePbase e + j) else none)
    else
      let set := s.homeSet (reHset e)
      let off := rePbase e + j / set.length
      if off * 4096 < 48 * 2 ^ 30 then some (off * 84 + (set[j % set.length]?).getD 0) else none

/-! ### Translation -/

/-- A translated address: its range entry and the physical byte address. -/
structure Xl where
  e : Nat
  pa : Nat
  deriving DecidableEq, Repr

/-- An address translated by a range entry that covers it. -/
def rangeXl (s : State) (e va : Nat) : Option Xl :=
  (rangePage s e (va / 4096 - reVbase e)).map fun p => ⟨e, p * 4096 + va % 4096⟩

/-- The walk of a virtual address under a context's range table (R443-R446). -/
def walk (s : State) (c va : Nat) : Option Xl :=
  let k := s.ctx c
  let vpn := va / 4096
  match rangeSearch s k vpn 18 0 (bits k.rtcnt 16 0) with
  | none => none
  | some e => rangeXl s e va

/-- Translate under a partition key: the lowest context of the partition that maps the address, and its translation (R38). -/
def keyWalk (s : State) (key va : Nat) : Option (Nat × Xl) :=
  (nkeys s.ctxs).findSome? fun c => if (s.ctx c).key = key then (walk s c va).map fun x => (c, x) else none
def keyXl (s : State) (key va : Nat) : Option Xl := (keyWalk s key va).map (·.2)

/-- The pages of an entry's range that the entry translates: its first one and their number (R447). -/
def RlbEntry.span (x : RlbEntry) : Nat × Nat :=
  match x.page with
  | none => (reVbase x.e, reNpg x.e)
  | some (j, _, large) => (reVbase x.e + j, if large then 512 else 1)
/-- An entry of a lookaside buffer translates an address. -/
def RlbEntry.xl (x : RlbEntry) (s : State) (c va : Nat) : Option Xl :=
  let vpn := va / 4096
  if x.ctx ≠ c || !reCovers x.e vpn || vpn < x.span.1 || x.span.1 + x.span.2 ≤ vpn then none
  else
    match x.page with
    | none => rangeXl s x.e va
    | some (_, p, _) => some ⟨x.e, (p + (vpn - x.span.1)) * 4096 + va % 4096⟩

/-- The translation that the CU's lookaside buffer gives, and the one by a range entry that its die's walker keeps (R447). -/
def rlbXl (s : State) (cu c va : Nat) : Option Xl := (s.cu cu).rlb.findSome? fun x => x.xl s c va
def walkerXl (s : State) (cu c va : Nat) : Option Xl :=
  ((ngetD s.mem.walkers (cu / 64) []).find? fun p => p.1 = c && reCovers p.2 (va / 4096)).bind fun p => rangeXl s p.2 va

/-- Translation for a CU (R447): by what is cached or by the walk, and where these differ by either, as the module chooses for each
request (log 60). -/
def translate (s : State) (cu c va : Nat) : Option Xl :=
  let new := walk s c va
  match (rlbXl s cu c va).orElse fun _ => walkerXl s cu c va with
  | none => new
  | some x => if new = some x || !Config.newForm s.env.freeCtr c va then some x else new

/-- The entry that a lookaside buffer takes for an address translated. -/
def rlbEntry (s : State) (c va : Nat) (x : Xl) : RlbEntry :=
  let j := va / 4096 - reVbase x.e
  { ctx := c, e := x.e, page := if reKind x.e = 1 then
      (match pageWalk s j 4 (rePbase x.e) with
        | some (_, true) => some (j - j % 512, x.pa / 4096 - j % 512, true)
        | _ => some (j, x.pa / 4096, false))
    else none }

/-- Keep a translation in the CU's lookaside buffer, which holds 64, and its range entry at the die's walker, which holds 4,096 (R447). -/
def rlbFill (s : State) (cu c va : Nat) (x : Xl) : State :=
  let s := if (rlbXl s cu c va).isSome then s else s.modCu cu fun u => { u with rlb := (rlbEntry s c va x :: u.rlb).take 64 }
  let l := ngetD s.mem.walkers (cu / 64) []
  if l.any fun p => p.1 = c && reCovers p.2 (va / 4096) then s
  else s.modMem fun m => { m with walkers := nset m.walkers (cu / 64) (((c, x.e) :: l).take 4096) }

/-- Host memory (R439). -/
def Xl.host (x : Xl) : Bool := reKind x.e = 2
/-- The sector of a translated address. -/
def Xl.sector (x : Xl) : Nat := sectorOf x.pa
/-- The tile that a translated address is homed on, or whose port serves it (R13, R445). That a host address counts for its
port's tile in a context's footprint and at a loss is the model's choice, since R21 speaks of homes alone (log 18). -/
def Xl.tile (x : Xl) : Nat :=
  if x.host then ([1, 13, 154, 166][reHport x.e]?).getD 0 else memoryTile (homeOf x.sector)
/-- A context's request has been translated to an address: the tile counts as touched (R21). -/
def State.touch (s : State) (c : Nat) (x : Xl) : State :=
  s.modCtx c fun k => { k with tdm := k.tdm ||| BitVec.ofNat 168 (2 ^ x.tile) }

/-- The tile of a translated address is lost (R22). -/
def State.tileLost (s : State) (x : Xl) : Bool := s.mdl.lostTiles.contains x.tile

/-! ### Format windows (R305, R308) -/

def State.win (s : State) (w : Nat) : Window := ngetD s.mem.wins w Window.reset
def Window.enabled (w : Window) : Bool := w.ctl.getLsbD 0
/-- Expanded sectors of an enabled window. -/
def Window.covers (w : Window) (sec : Nat) : Bool :=
  w.enabled && bits w.exb 47 0 / 64 ≤ sec && sec < bits w.exb 47 0 / 64 + bits w.exl 33 0
/-- The enabled window that covers a sector. -/
def State.winOf (s : State) (sec : Nat) : Option Nat := (List.range 16).find? fun w => (s.win w).covers sec

end Sys2Proof.Machine
end

