-- ==== Sys2Proof/Machine/Token.lean ====
section
/-! DEFINITION. The Gheine parties (R287-R304): tokens at an agent's L2 and at a home, messages, transient and persistent
requests, and what each party does with a message it receives. -/

namespace Sys2Proof.Machine

/-! ### Lines, messages, holders -/

/-- No tokens, under a serial number. -/
def TokLine.empty (ser : Nat) : TokLine :=
  { t64 := false, n := 0, o := false, v := false, d := false, data := [], poi := false, ser := ser, wok := false, rg := false }

/-- An agent's state of a sector; one that it has no state of is taken under the home's serial number. -/
def State.line (s : State) (a sec : Nat) : TokLine := ngetD s.mem.l2 (l2key a sec) (TokLine.empty (s.smeta sec).ser)
def State.setLine (s : State) (a sec : Nat) (l : TokLine) : State :=
  s.modMem fun m => { m with l2 := nset m.l2 (l2key a sec) l }
/-- The state that a message finds: the serial number of the first message is taken (R291). -/
def State.lineFor (s : State) (a : Nat) (m : Msg) : TokLine :=
  (nget s.mem.l2 (l2key a m.sector)).getD (TokLine.empty m.ser)
/-- An agent that has no state of a sector keeps the serial number of the first message about it (R291). -/
def noteSer (s : State) (a : Nat) (m : Msg) : State :=
  match nget s.mem.l2 (l2key a m.sector) with
  | some _ => s
  | none => s.setLine a m.sector (TokLine.empty m.ser)

/-- The budget T of a line (R287). -/
def TokLine.budget (l : TokLine) : Nat := if l.t64 then 64 else 8
/-- A sector that may be read, or written (R287, R292). -/
def TokLine.canRead (l : TokLine) : Bool := 1 ≤ l.n && l.v
def TokLine.canWrite (l : TokLine) : Bool := l.n = l.budget && l.v && l.wok
def State.canRead (s : State) (a sec : Nat) : Bool := (s.line a sec).canRead
def State.canWrite (s : State) (a sec : Nat) : Bool := (s.line a sec).canWrite

/-- A message of a kind about a sector, everything else empty. -/
def Msg.of (kind : MsgKind) (src dst : Party) (req sector ser : Nat) : Msg :=
  { acq := 0, kind := kind, src := src, dst := dst, req := req, sector := sector, cnt := 0, own := false, dat := false, dty := false,
    poi := false, t64 := false, ser := ser, att := 0, wr := false, aseq := 0, hint := [], data := [] }

def send (s : State) (m : Msg) : State :=
  let (id, s) := s.fresh
  s.modMem fun x => { x with net := nset x.net id m }

/-- A compute die or a host port that is not lost. -/
def State.agentLive (s : State) (a : Nat) : Bool := !(s.mdl.lostTiles.contains (if a < 84 then computeTile a else 1000 + a))

/-- The agents that a broadcast reaches (R298): every compute die and host port that is not lost, and every fabric port. A port stands
for other modules in a coherent system range, and holds tokens for the packets of any range, so that it is told of every sector (log
38). -/
def State.agents (s : State) : List Nat := (List.range 152).filter fun a => 88 ≤ a || s.agentLive a

/-- The pages of a direct range of pool memory, or those that a page table maps (R445, R446): the place of a pool page among them. -/
def pageIn (s : State) (e page : Nat) : Option Nat :=
  if reKind e = 0 then
    if reHset e = 0 then (if rePbase e ≤ page && page < rePbase e + reNpg e then some (page - rePbase e) else none)
    else
      let set := s.homeSet (reHset e)
      let j := (page / 84 - rePbase e) * set.length + set.findIdx (· = page % 84)
      if set.contains (page % 84) && rePbase e ≤ page / 84 && j < reNpg e then some j else none
  else if reKind e = 1 then (List.range (reNpg e)).find? fun j => rangePage s e j = some page
  else none

/-- The partition keys and virtual addresses under which the contexts' tables map a sector of the pool as coherent (R301). -/
def State.coherentNames (s : State) (sec : Nat) : List (Nat × Nat) :=
  ((s.ctxs.map fun p => (List.range (bits p.2.rtcnt 16 0)).filterMap fun i =>
    let e := rangeEntry s p.2 i
    if reValid s e && reCoh e && reKind e ≠ 2 then
      (pageIn s e (sec / 64)).map fun j => (p.2.key, (reVbase e + j) * 4096 + sec % 64 * 64)
    else none).flatten).eraseDups

/-- The sector lies in a coherent system range, of this module or of another one (R301). -/
def State.isCoherent (s : State) (sec : Nat) : Bool := isRemote sec || !(s.coherentNames sec).isEmpty

/-- The number under which an agent's port asks for tokens, beside those of the CUs' engines. -/
def portEng (a : Nat) : Nat := 2 ^ 20 + a

/-- An error has left a sector's metadata unreadable: it is poisoned, the home has every token under the next serial number, and it is
regrown when next requested (R309). -/
def unreadable (s : State) (sec : Nat) : State :=
  let m := s.smeta sec
  let s := s.setMeta sec { m with poi := true, hn := m.budget, ho := true, ser := (m.ser + 1) % 16 }
  s.modHome (homeOf sec) fun x => { x with unread := if x.unread.contains sec then x.unread else x.unread ++ [sec] }

/-- Send a home's message about its sector to every agent. -/
def broadcast (s : State) (m : Msg) : State :=
  let m := { m with t64 := (s.smeta m.sector).t64 }
  s.agents.foldl (fun s a => send s { m with dst := .agent a }) s

/-- A host line's number: its port and its address. -/
def hostKey (x : Xl) : Nat := reHport x.e * 2 ^ 46 + x.pa / 64
/-- The place of a host line, beside the sectors of pools. -/
def hostPlace (key : Nat) : Nat := 2 ^ 100 + key
/-- The sector or host line of a translated address. -/
def Xl.place (x : Xl) : Nat := if x.host then hostPlace (hostKey x) else x.sector

/-- The place of a registered block of global space now. -/
def Reg32.placeOf (r : Reg32) (s : State) (b : Nat) : Option Nat :=
  if b * 64 < 2 ^ 57 then (walk s r.ctx (b * 64)).map Xl.place else none
/-- A registration still awaits the engine's write of a place, or the command's end where it writes nothing of it. -/
def Reg32.awaits (r : Reg32) (s : State) (place : Nat) : Bool := r.pend.any fun x => !x.2.written && r.placeOf s x.1 = some place
/-- A registration of scratch space bars bytes of a block; `gaps` tells that those count which the command will not write. -/
def Reg32.bars (r : Reg32) (b : Nat) (mask : BitVec 64) (gaps : Bool) : Bool :=
  (nget r.pend b).any fun x => x.bytes &&& mask ≠ 0 && (gaps || !x.written)

/-- An engine's registration holds a sector at a die's L2 (R32). -/
def engineHolds (s : State) (a sec : Nat) : Bool := s.mem.regs.any fun r => r.space = 0 && r.die = a && r.awaits s sec
/-- A message has waited 4,096 clk for an agent that still gathers the tokens of a sector: it gives up what it has (R300, log 24). -/
def yields (s : State) (a sec : Nat) : Bool :=
  let l := s.line a sec
  l.n ≠ l.budget && (nget s.mem.pressed (l2key a sec)).any fun t => t + 4096 ≤ s.cyc
/-- The engine at an L2 keeps the tokens of a sector until its write, unless brumation stops it; the units that receive from the fabric
write through a port (R32, R275, R323). -/
def engineKeeps (s : State) (a sec : Nat) : Bool :=
  (s.mem.regs.any fun r => r.space = 0 && r.die = a && r.eng % 4 ≠ 2 && !s.halting r.ctx && r.awaits s sec) && !yields s a sec

/-- The lock that holds a sector at a die's L2: its group and entry (R250). -/
def lockOn (s : State) (a sec : Nat) : Option (Nat × Nat) :=
  (s.thr.findSome? fun p => (p.2.locks.find? fun k => k.2.held && k.2.die = a && k.2.sector = sec).map fun k => (p.1, k.1))

/-- Note that something waits for a locked sector (R251). -/
def markWaiter (s : State) (a sec : Nat) : State :=
  match lockOn s a sec with
  | none => s
  | some (tid, key) =>
    s.modThread tid fun t => { t with locks := nmod t.locks key fun k => { k with waiter := true } }

/-- An engine or a port of the agent has the tokens it waited for and has still to make its access (R300); a fabric port that writes
keeps those that it gathers from the first one on (R32). -/
def owes (s : State) (a sec : Nat) : Bool :=
  match nget s.mem.trans (l2key a sec) with
  | some t => t.got.isSome || (88 ≤ a && t.eng.isSome && t.wr && !yields s a sec)
  | none => false

/-- Messages other than TOK wait for a lock or an engine that holds the sector (R293, R300). -/
def heldAt (s : State) (a sec : Nat) : Bool := engineKeeps s a sec || (lockOn s a sec).isSome || owes s a sec

/-- Fire the armed monitors that a predicate picks (R254). -/
def fireIf (s : State) (p : Monitor → Bool) : State :=
  { s with thr := nmap s.thr fun _ t =>
      if t.mons.any fun q => q.2.armed && p q.2 then
        { t with mons := nmap t.mons fun _ m => if m.armed && p m then { m with fired := true } else m }
      else t }

/-- A write of a sector of the pool is performed at an L2 or a home. -/
def fireSector (s : State) (sec : Nat) : State := fireIf s fun m => m.space ≠ 1 && m.place = sec
/-- A die's L2 has given up its last token of a sector. -/
def fireLoss (s : State) (a sec : Nat) : State := fireIf s fun m => m.space ≠ 1 && m.place = sec && m.die = a

/-- Put a line; giving up the last token fires monitors, and fewer than all tokens ends what a home's answer allowed. -/
def State.putLine (s : State) (a sec : Nat) (l : TokLine) : State :=
  let old := s.line a sec
  let l := if l.n = 0 then { TokLine.empty l.ser with rg := l.rg, wok := l.wok } else l
  let s := s.setLine a sec l
  if l.n = 0 && old.n ≠ 0 then fireLoss s a sec else s

/-- The tile of an agent (R12-R14). -/
def agentTile (a : Nat) : Nat :=
  if a < 84 then computeTile a
  else if a < 88 then ([1, 13, 154, 166][a - 84]?).getD 0
  else
    let j := (a - 88) / 2
    ([1, 3, 5, 7, 9, 11, 13, 14, 16, 18, 20, 22, 24, 26, 69, 70, 97, 98, 141, 143, 145, 147, 149, 151, 153, 154, 156, 158,
      160, 162, 164, 166][j]?).getD 0

/-! ### Predictor (R295) -/

/-- The L2 slice of a sector; the hash is the implementation's (R16). -/
def sliceOfSector (sec : Nat) : Nat := Config.sliceHash sec % 64
/-- The predictor's entry of a sector: bits 15:6 of its address, in the predictor of its slice. -/
def predKey (a sec : Nat) : Nat := (a * 64 + sliceOfSector sec) * 1024 + sec % 1024
def learn (s : State) (a sec x : Nat) : State :=
  if 84 ≤ a || 152 ≤ x then s
  else s.modMem fun m =>
    let l := ngetD m.pred (predKey a sec) []
    if l.contains x then m else { m with pred := nset m.pred (predKey a sec) ((if l.length < 4 then l else l.drop 1) ++ [x]) }

/-! ### Giving tokens -/

/-- The place in force for a sector at an agent; a removed one stays as a mark of its number (R299). -/
def placeAt (s : State) (a sec : Nat) : Option ActPlace := (ngetD s.mem.places a []).find? fun p => p.sector = sec

/-- The agent's own persistent request for the sector is active. -/
def ownActive (s : State) (a sec : Nat) : Bool :=
  match placeAt s a sec, nget s.mem.trans (l2key a sec) with
  | some p, some t => p.req = a && t.att = 3
  | _, _ => false
/-- The PACT of the agent's persistent request for writing has arrived: it may write once it has every token, whatever comes between
(R292). -/
def leaveToWrite (s : State) (a sec : Nat) : Bool :=
  ownActive s a sec && (match placeAt s a sec, nget s.mem.trans (l2key a sec) with | some p, some t => p.wr && t.wr | _, _ => false)
/-- No tokens of a sector, under a serial number. -/
def State.noTokens (s : State) (a sec ser : Nat) : TokLine := { TokLine.empty ser with wok := leaveToWrite s a sec }

/-- Agent `a` sends `k` tokens of a sector, with the owner token or not, with data or not. -/
def giveTok (s : State) (a sec : Nat) (dst : Party) (req k : Nat) (own dat : Bool) : State :=
  let l := s.line a sec
  let m := { Msg.of .tok (.agent a) dst req sec l.ser with
    t64 := l.t64, cnt := k, own := own, dat := dat, dty := own && l.d, poi := dat && l.poi, data := if dat then l.data else [] }
  let s := s.putLine a sec
    { l with n := l.n - k, o := l.o && !own, d := l.d && !own, wok := leaveToWrite s a sec, v := l.v && l.n ≠ k }
  send s m

/-- Agent `a` forwards under an activation (R293): for writing all its tokens, for reading the owner token with the data. -/
def forwardTok (s : State) (a sec : Nat) (wr : Bool) (dst : Party) (req : Nat) : State :=
  let l := s.line a sec
  if l.n = 0 then s
  else if wr then giveTok s a sec dst req l.n l.o (l.o && l.v)
  else if l.o then giveTok s a sec dst req 1 true l.v
  else s

/-- The party that an activation forwards to: an agent, or the sector's home (R457). -/
def partyOf (req sec : Nat) : Party := if req = 256 then .home (homeOf sec) else .agent req

def setPlace (s : State) (a : Nat) (p : ActPlace) : State :=
  s.modMem fun m => { m with places := nset m.places a (p :: (ngetD m.places a []).filter fun q => q.sector ≠ p.sector) }

/-- Give tokens back to the home (R294): with data when dirty, or without where the caller says so. -/
def writeBack (s : State) (a sec : Nat) (dropData : Bool := false) : State :=
  let l := s.line a sec
  if l.n = 0 then s
  else
    let dat := l.o && l.d && !dropData
    let m := { Msg.of .wb (.agent a) (.home (homeOf sec)) a sec l.ser with
      t64 := l.t64, cnt := l.n, own := l.o, dat := dat, dty := dat, poi := dat && l.poi, data := if dat then l.data else [] }
    send (s.putLine a sec { l with n := 0, wok := false }) m

/-! ### Requests (R292) -/

/-- Twice the upper bound of the farthest of the destinations, or 200 ns for the home alone; a home on another module lies in
band 7. -/
def retryNs (a sec : Nat) (l : List Nat) : Nat :=
  if isRemote sec then 6000
  else if l.isEmpty then 200
  else
    let far := (l.map agentTile ++ [memoryTile (homeOf sec)]).foldl (fun acc t => max acc (crossings (agentTile a) t)) 0
    2 * bandUpper (bandOf far)

def requestMsg (s : State) (a sec : Nat) (wr t64 : Bool) (att : Nat) : Msg :=
  { Msg.of (if wr then .wrt else .rdt) (.agent a) (.home (homeOf sec)) a sec (s.line a sec).ser with
    t64 := t64, att := att, wr := wr, acq := ((nget s.mem.trans (l2key a sec)).map (·.acq)).getD 0 }

def sendRequest (s : State) (a sec : Nat) (wr t64 : Bool) (att : Nat) (l : List Nat) : State :=
  let m := requestMsg s a sec wr t64 att
  l.foldl (fun s b => send s { m with dst := .agent b }) (send s m)

/-- Make sure that a read or write that agent `a` cannot perform has a request outstanding; `eng` names the engine or the port that
asks. -/
def need (s : State) (a sec : Nat) (wr t64 : Bool) (eng : Option Nat := none) : State :=
  if (if wr then s.canWrite a sec else s.canRead a sec) || (nget s.mem.trans (l2key a sec)).isSome then s
  else
    let (acq, s) := s.fresh
    let l := if s.mem.pred.isEmpty then [] else
      (ngetD s.mem.pred (predKey a sec) []).filter fun b => b ≠ a && s.agents.contains b
    let t : Transient :=
      { acq := acq, eng := eng, got := none, wr := wr, t64 := t64, att := 1, since := s.env.clk, deadline := s.env.clk + nsToClk (retryNs a sec l) }
    sendRequest (s.modMem fun m => { m with trans := nset m.trans (l2key a sec) t }) a sec wr t64 1 l

/-- Raise a persistent request, or wait while the agent has one outstanding (R297). -/
def persist (s : State) (a sec : Nat) (t : Transient) : State :=
  let busy := s.mem.trans.any fun p => p.1 / 2 ^ 80 = a && p.2.att = 3
  let s := s.modMem fun m => { m with trans := nset m.trans (l2key a sec) { t with att := if busy then 4 else 3 } }
  if busy then s
  else send s { Msg.of .preq (.agent a) (.home (homeOf sec)) a sec (s.line a sec).ser with t64 := t.t64, wr := t.wr }

/-- The retry interval of a transient attempt has passed; a coherent system range is asked of the fabric ports as well. -/
def retryExpired (s : State) (a sec : Nat) : State :=
  match nget s.mem.trans (l2key a sec) with
  | none => s
  | some t =>
    let old := t.since + nsToClk 2000 ≤ s.env.clk
    if 3 ≤ t.att || !(old || t.deadline ≤ s.env.clk) then s
    else if t.att = 1 && !old then
      let wide := s.isCoherent sec
      let t := { t with att := 2, deadline := s.env.clk + nsToClk (if wide then 6000 else 1200) }
      let s := s.modMem fun m => { m with trans := nset m.trans (l2key a sec) t }
      sendRequest s a sec t.wr t.t64 2 (s.agents.filter fun b => (b < 84 || (wide && !isRemote sec && 88 ≤ b)) && b ≠ a)
    else persist s a sec t

/-- An L2's own transient request is outstanding, or its persistent one is active and has still its access to make: it ignores the
requests of others (R293, R300). -/
def ownTransient (s : State) (a sec : Nat) : Bool :=
  (match nget s.mem.trans (l2key a sec) with | some t => t.att < 3 | none => false) || ownActive s a sec

/-- Whether an agent's request for a sector is satisfied. -/
def satisfied (s : State) (a sec : Nat) : Bool :=
  match nget s.mem.trans (l2key a sec) with
  | none => false
  | some t => if t.wr then s.canWrite a sec else s.canRead a sec

/-- The request of an agent that has waited longest behind a persistent one (R297, R301). -/
def nextWaiting (s : State) (a : Nat) : Option (Nat × Transient) :=
  s.mem.trans.foldl (fun (acc : Option (Nat × Transient)) p =>
    if p.1 / 2 ^ 80 ≠ a || p.2.att ≠ 4 then acc
    else match acc with
      | none => some p
      | some q => if p.2.since < q.2.since then some p else acc) none

/-- A request is over: a persistent one is reported done, and the next that waits is raised (R297, R300). -/
def finishRequest (s : State) (a sec : Nat) : State :=
  match nget s.mem.trans (l2key a sec) with
  | none => s
  | some t =>
    let s := s.modMem fun m => { m with trans := nerase m.trans (l2key a sec) }
    if t.att ≠ 3 then s
    else
      let s := send s { Msg.of .pdone (.agent a) (.home (homeOf sec)) a sec (s.line a sec).ser with t64 := t.t64, wr := t.wr }
      match nextWaiting s a with
      | none => s
      | some (k, t) => if (nget s.mem.pnak a).isSome then s else persist s a (k % 2 ^ 80) t

/-- An engine or a port has made the access that a satisfied request was for (R300). -/
def served (s : State) (a sec : Nat) : State :=
  match nget s.mem.trans (l2key a sec) with
  | some t => if t.eng.isSome && (t.got.isSome || satisfied s a sec) then finishRequest s a sec else s
  | none => s

/-! ### What an agent does with a message (R291, R293, R299, R302) -/

/-- RDT at an agent. -/
def agentRdt (s : State) (a : Nat) (m : Msg) : State :=
  let s := learn s a m.sector m.req
  let l := s.lineFor a m
  if l.ser ≠ m.ser || !l.o || ownTransient s a m.sector then s
  else if 2 ≤ l.n then giveTok s a m.sector (.agent m.req) m.req 1 false true
  else giveTok s a m.sector (.agent m.req) m.req 1 true true

/-- WRT at an agent. -/
def agentWrt (s : State) (a : Nat) (m : Msg) : State :=
  let s := learn s a m.sector m.req
  let l := s.lineFor a m
  if l.ser ≠ m.ser || l.n = 0 || ownTransient s a m.sector then s
  else forwardTok s a m.sector true (.agent m.req) m.req

/-- The slice's share of the die's 384 MiB (R16). -/
def sliceSectors : Nat := 98304

/-- The places whose lines one slice of a die's L2 holds: sectors under tokens, expanded sectors of windows, host lines. -/
def sliceHeld (s : State) (a sl : Nat) : List Nat :=
  let at_ := fun (key : Nat) => if key / 2 ^ 80 = a && sliceOfSector (key % 2 ^ 80) = sl then some (key % 2 ^ 80) else none
  s.mem.l2.filterMap (fun p => if p.2.n = 0 then none else at_ p.1) ++ s.mem.copies.filterMap (fun p => at_ p.1)
    ++ s.mem.hostLines.filterMap fun p =>
      if p.2.die = a && sliceOfSector (hostPlace p.1) = sl then some (hostPlace p.1) else none
/-- The lines of every L2 together: below a slice's share no slice is full. -/
def State.lineCount (s : State) : Nat := s.mem.l2.length + s.mem.copies.length + s.mem.hostLines.length

/-- No line is free for a sector that a die's L2 does not hold: its slice is full (R293). -/
def lineFull (s : State) (a sec : Nat) : Bool :=
  a < 84 && sliceSectors ≤ s.lineCount && (s.line a sec).n = 0 && sliceSectors ≤ (sliceHeld s a (sliceOfSector sec)).length

/-- An agent with a place in force for another requester passes its tokens on, unless it must keep them (R293, R300). -/
def passTok (s : State) (a sec : Nat) : State :=
  match placeAt s a sec with
  | some p => if p.req ≤ 256 && p.req ≠ a && !heldAt s a sec then forwardTok s a sec p.wr (partyOf p.req sec) p.req else s
  | none => s

/-- Every agent passes on the tokens of its places in force, once nothing holds them any more (R293). -/
def passAll (s : State) : State :=
  s.mem.places.foldl (fun s p => p.2.foldl (fun s q => passTok s p.1 q.sector) s) s

/-- Whether a home's answer to a write request, in a TOK, is to this acquisition; a fabric port keeps it for those behind it (R292). -/
def wokOf (s : State) (a : Nat) (m : Msg) : Bool :=
  m.wr && (match nget s.mem.trans (l2key a m.sector) with | some t => t.wr && t.acq = m.acq | none => 88 ≤ a)

/-- TOK at an agent: tokens are counted; under a place in force for another they are passed on. A die whose slice has no line
free sends them to the home. -/
def agentTok (s : State) (a : Nat) (m : Msg) : State :=
  let l := s.lineFor a m
  let ahead := (m.ser + 16 - l.ser) % 16
  if (ahead = 0 && l.rg) || (ahead ≠ 0 && 7 < ahead) then s
  else
    let l := if ahead = 0 then l else s.noTokens a m.sector m.ser
    let s := if ahead = 0 then s else s.putLine a m.sector l
    let full := lineFull s a m.sector
    let l := { l with
      t64 := m.t64, n := l.n + m.cnt, o := l.o || m.own, d := if m.own then m.dty else l.d, v := l.v || m.dat,
      data := if m.dat then m.data else l.data, poi := if m.dat then m.poi else l.poi, wok := l.wok || wokOf s a m }
    let l := if l.n = 0 then { TokLine.empty l.ser with wok := l.wok } else l
    let s := s.setLine a m.sector l
    let s := match m.src with | .agent b => learn s a m.sector b | .home _ => s
    let s := m.hint.foldl (fun s b => learn s a m.sector b) s
    if full && l.n ≠ 0 && (nget s.mem.trans (l2key a m.sector)).isNone then writeBack s a m.sector
    else passTok s a m.sector

/-- Whether one activation number is older than another (R299). -/
def aseqOlder (x y : Nat) : Bool := let d := (y + 65536 - x) % 65536; 1 ≤ d && d ≤ 32767

/-- PACT at an agent: its place is entered, and tokens are forwarded to another requester; for the requester's own write it
is the home's leave (R292). -/
def agentPact (s : State) (a h : Nat) (m : Msg) : State :=
  let l := s.lineFor a m
  let stale := match placeAt s a m.sector with | some p => aseqOlder m.aseq p.aseq | none => false
  if l.ser ≠ m.ser || stale then s
  else
    let s := setPlace s a { home := h, req := m.req, sector := m.sector, wr := m.wr, aseq := m.aseq }
    let s := learn s a m.sector m.req
    if m.req = a then
      let mine := match nget s.mem.trans (l2key a m.sector) with | some t => t.wr && t.att = 3 | none => false
      (if m.wr && mine then s.setLine a m.sector { l with wok := true } else s)
    else forwardTok s a m.sector m.wr (partyOf m.req m.sector) m.req

/-- PDEACT at an agent: it leaves a mark of its number, also where no place stands (R299). -/
def agentPdeact (s : State) (a h : Nat) (m : Msg) : State :=
  let old := match placeAt s a m.sector with | some p => aseqOlder m.aseq p.aseq | none => false
  if (s.lineFor a m).ser ≠ m.ser || old then s
  else setPlace s a { home := h, req := 999, sector := m.sector, wr := false, aseq := m.aseq }

/-- RGSTART at an agent: tokens are discarded, dirty data and an acknowledgement sent (R302, step 2). -/
def agentRgstart (s : State) (a h : Nat) (m : Msg) : State :=
  let l := s.lineFor a m
  let dirty := l.o && l.d
  if l.ser ≠ m.ser then s
  else
    let s := s.putLine a m.sector { s.noTokens a m.sector m.ser with rg := true }
    let s := if dirty then
        send s { Msg.of .rgdata (.agent a) (.home h) a m.sector m.ser with dat := true, data := l.data, poi := l.poi, t64 := m.t64 }
      else s
    send s { Msg.of .rgack (.agent a) (.home h) a m.sector m.ser with dty := dirty, t64 := m.t64 }

/-- RGEND at an agent: the new serial number is current (R302, step 5). A persistent request that is not active is raised again under
it, since the home ignores one that bears the old number (R291, log 24). -/
def agentRgend (s : State) (a : Nat) (m : Msg) : State :=
  let l := s.line a m.sector
  if l.ser = m.ser && !l.rg then s
  else
    let s := s.putLine a m.sector (s.noTokens a m.sector m.ser)
    match nget s.mem.trans (l2key a m.sector) with
    | some t =>
      if t.att = 3 && !ownActive s a m.sector then
        send s { Msg.of .preq (.agent a) (.home (homeOf m.sector)) a m.sector m.ser with t64 := t.t64, wr := t.wr }
      else s
    | none => s

/-- PNAK at an agent: the request is raised again 1 µs later (R298). -/
def agentPnak (s : State) (a : Nat) (m : Msg) : State :=
  if (s.lineFor a m).ser ≠ m.ser then s
  else s.modMem fun x =>
    { x with pnak := nset x.pnak a (s.env.clk + nsToClk 1000),
             trans := nmod x.trans (l2key a m.sector) fun t => if t.att = 3 then { t with att := 4 } else t }

/-- The agent raises the refused request again. -/
def pnakAgain (s : State) (a : Nat) : State :=
  match nget s.mem.pnak a with
  | none => s
  | some due =>
    if s.env.clk < due then s
    else
      let s := s.modMem fun m => { m with pnak := nerase m.pnak a }
      match nextWaiting s a with
      | none => s
      | some (k, t) => persist s a (k % 2 ^ 80) t

/-! ### What a home does (R289, R294, R298, R302, R303) -/

/-- An agent's active entry for a sector in a home's table. -/
def activeFor (s : State) (h sec : Nat) : Option (Nat × PEntry) :=
  (s.home h).ptab.find? fun p => p.2.sector = sec && p.2.st = .active
/-- Regrowth of a sector runs. -/
def regrowing (s : State) (h sec : Nat) : Bool := (s.home h).regrow.any fun r => r.sector = sec
/-- A home request for a sector is pending or active (R457). -/
def homeAsks (s : State) (h sec : Nat) : Bool := match (s.home h).hreq with | some q => q.sector = sec | none => false

/-- The home holds every token of a sector. -/
def Meta.full (m : Meta) : Bool := m.hn = m.budget && m.ho

/-- The budget that a request asks for is taken where the home holds every token (R289). -/
def adjustBudget (s : State) (h sec : Nat) (t64 : Bool) : State :=
  let m := s.smeta sec
  if m.t64 ≠ t64 && m.full && (activeFor s h sec).isNone then s.setMeta sec { m with t64 := t64, hn := if t64 then 64 else 8 }
  else s

/-- Remember the last two agents that got tokens of a sector from the home; the cache holds 4,096 sectors (R294). -/
def noteHint (s : State) (h sec r : Nat) : State :=
  s.modHome h fun x =>
    if (nget x.hint sec).isNone && 4096 ≤ x.hint.length then x
    else { x with hint := nset x.hint sec ((r :: ngetD x.hint sec []).take 2) }

/-- The home sends tokens: `k` of them, with the owner token and the DRAM data where it goes with them. `wr` marks the answer to
a write request of acquisition `acq`. -/
def homeTok (s : State) (sec r k : Nat) (own dat wr : Bool) (acq : Nat := 0) : State :=
  let h := homeOf sec
  let m := s.smeta sec
  let msg := { Msg.of .tok (.home h) (.agent r) r sec m.ser with
    cnt := k, own := own, dat := dat, poi := dat && m.poi, t64 := m.t64, wr := wr, acq := acq, hint := ngetD (s.home h).hint sec [],
    data := if dat then Memory.bytes s.mem.dram (sec * 64) 64 else [] }
  let s := s.setMeta sec { m with hn := m.hn - k, ho := m.ho && !own }
  let s := send s msg
  if k = 0 then s else noteHint s h sec r

/-- The home forwards its own tokens to the requester of an active entry. -/
def homeForward (s : State) (sec r : Nat) (wr : Bool) : State :=
  let x := s.smeta sec
  if x.hn = 0 then s
  else if wr then homeTok s sec r x.hn x.ho x.ho false
  else if x.ho then homeTok s sec r 1 true true false
  else s

/-- TOK or WB at a home: tokens are counted after dirty data is in DRAM; an active entry then gets them, but not while regrowth
runs, which ends with every token at the home (R294, R296, R302). -/
def homeTokens (s : State) (h : Nat) (m : Msg) : State :=
  let x := s.smeta m.sector
  if x.ser ≠ m.ser then s
  else
    let s := if m.own && m.dty then s.modMem fun y => { y with dram := Memory.setBytes y.dram (m.sector * 64) m.data } else s
    let x := if m.own then { x with ho := true, md := false, poi := if m.dty then m.poi else x.poi } else x
    let s := s.setMeta m.sector { x with hn := x.hn + m.cnt }
    match activeFor s h m.sector with
    | some (r, e) => if regrowing s h m.sector then s else homeForward s m.sector r e.wr
    | none => s

/-- The pending entries of a home's table. -/
def pendingOf (x : Home) : List Nat := (x.ptab.filter fun p => p.2.st = .pending).map (·.1)

/-- Activate an agent's entry (R298): the home's own tokens go at once, every agent's under the PACT. -/
def activate (s : State) (h r : Nat) : State :=
  match nget (s.home h).ptab r with
  | none => s
  | some e =>
    let blk := (pendingOf (s.home h)).filter (· ≠ r)
    let aseq := ((s.home h).aseq + 1) % 65536
    let s := s.modHome h fun x =>
      { x with aseq := aseq, ptab := nset x.ptab r { e with st := .active, rtime := s.ns % 2 ^ 32, blk := blk } }
    let s := if e.wr then s.setMeta e.sector { s.smeta e.sector with md := true } else s
    let s := broadcast s { Msg.of .pact (.home h) (.home h) r e.sector (s.smeta e.sector).ser with wr := e.wr, aseq := aseq }
    homeForward s e.sector r e.wr

/-- The lowest pending agent for a sector. -/
def nextPending (s : State) (h sec : Nat) : Option Nat :=
  ((s.home h).ptab.find? fun p => p.2.sector = sec && p.2.st = .pending).map (·.1)

/-- Activate the next entry for a sector, or tell every agent that none is active. -/
def activateOrEnd (s : State) (h sec : Nat) : State :=
  match nextPending s h sec with
  | some r => if homeAsks s h sec || regrowing s h sec then s else activate s h r
  | none =>
    broadcast s { Msg.of .pdeact (.home h) (.home h) 999 sec (s.smeta sec).ser with aseq := (s.home h).aseq }

/-- One clk of a home's arbitration. -/
def arbitrate (s : State) (h : Nat) : State :=
  let secs := ((s.home h).ptab.filterMap fun p => if p.2.st = .pending then some p.2.sector else none).eraseDups
  secs.foldl (fun s sec =>
    if (activeFor s h sec).isSome || homeAsks s h sec || regrowing s h sec then s
    else match nextPending s h sec with | some r => activate s h r | none => s) s

/-- An agent has been served, or is lost: its bit goes from every BLK, and marked entries with none left are freed. -/
def clearBlk (x : Home) (a : Nat) : Home :=
  let p := nmap x.ptab fun _ e => { e with blk := e.blk.filter (· ≠ a) }
  { x with ptab := p.filter fun q => !(q.2.st = .marked && q.2.blk.isEmpty) }

/-- PDONE of agent `a` at a home (R298); one of another serial number is ignored (R291). While another agent's entry for the sector is
active, that one stays. -/
def homePdone (s : State) (h a sec ser : Nat) : State :=
  match nget (s.home h).ptab a with
  | none => s
  | some e =>
    if (s.smeta sec).ser ≠ ser then s
    else
      let s := s.modHome h fun x =>
        clearBlk { x with ptab := nset x.ptab a { e with st := .marked }, after := x.after.filter (· ≠ a) } a
      if (activeFor s h sec).isNone then activateOrEnd s h sec else s

/-- A lost agent's entry is treated as served and freed (R298). -/
def freeAgent (s : State) (h a : Nat) : State :=
  let e := nget (s.home h).ptab a
  let s := s.modHome h fun x => clearBlk { x with ptab := nerase x.ptab a, after := x.after.filter (· ≠ a) } a
  match e with
  | some e => if e.st = .active then activateOrEnd s h e.sector else s
  | none => s

/-! ### Regrowth -/

/-- Regrowth is complete (R302, steps 4 and 5). -/
def finishRegrow (s : State) (h : Nat) (r : Regrow) : State :=
  let x := s.smeta r.sector
  let ser := (x.ser + 1) % 16
  let s := match r.data with
    | some (d, _) => s.modMem fun m => { m with dram := Memory.setBytes m.dram (r.sector * 64) d }
    | none => s
  let poi := match r.data with
    | some (_, p) => p
    | none => x.poi || r.lostData || (!r.hadHo && x.md)
  let s := s.setMeta r.sector { x with ser := ser, hn := x.budget, ho := true, poi := poi, md := if r.data.isSome then false else x.md }
  let s := s.modHome h fun y =>
    { y with regrow := y.regrow.filter fun q => q.sector ≠ r.sector, recent := nset y.recent r.sector s.env.clk }
  let s := broadcast s (Msg.of .rgend (.home h) (.home h) 999 r.sector ser)
  match activeFor s h r.sector with
  | some (a, e) =>
    let s := if e.wr then s.setMeta r.sector { s.smeta r.sector with md := true } else s
    homeForward s r.sector a e.wr
  | none => s

/-- Go on with a regrowth once nothing more is waited for. -/
def checkRegrow (s : State) (h sec : Nat) : State :=
  match (s.home h).regrow.find? fun r => r.sector = sec with
  | some r => if r.waitAck.isEmpty && r.waitData.isEmpty then finishRegrow s h r else s
  | none => s

def modRegrow (s : State) (h sec : Nat) (g : Regrow → Regrow) : State :=
  s.modHome h fun x => { x with regrow := x.regrow.map fun r => if r.sector = sec then g r else r }

/-- Start regrowth (R302, step 1). Of a sector whose metadata an error has left unreadable, the agents still know the serial number
before it (R309). -/
def startRegrow (s : State) (h sec : Nat) : State :=
  let x := s.smeta sec
  let ser := if (s.home h).unread.contains sec then (x.ser + 15) % 16 else x.ser
  let s := s.modHome h fun y =>
    { y with deferred := y.deferred.filter (· ≠ sec), unread := y.unread.filter (· ≠ sec),
             regrow := y.regrow ++ [{ sector := sec, ser := ser, hadHo := x.ho, waitAck := s.agents, waitData := [],
                                      lostData := false, data := none, since := s.env.clk }] }
  let s := s.setMeta sec { x with hn := 0, ho := false }
  checkRegrow (broadcast s (Msg.of .rgstart (.home h) (.home h) 999 sec ser)) h sec

/-- Whether a sector may be regrown now (R303). -/
def mayRegrow (s : State) (h sec : Nat) : Bool :=
  let live := (s.home h).recent.filter fun p => s.env.clk < p.2 + nsToClk 2000000
  live.length < 4096 && !(live.any fun p => p.1 = sec)

/-- A trigger: regrowth starts, or waits under R303. -/
def triggerRegrow (s : State) (h sec : Nat) : State :=
  if regrowing s h sec then s
  else if mayRegrow s h sec then startRegrow s h sec
  else s.modHome h fun x => { x with deferred := if x.deferred.contains sec then x.deferred else x.deferred ++ [sec] }

/-- A request for a sector has been unsatisfied for 20 µs, or 2 µs after a loss (R302). -/
def regrowDue (s : State) (h sec : Nat) : Bool :=
  let limit := if s.env.clk < (s.home h).fast then 2000 else 20000
  (match activeFor s h sec with | some (_, e) => limit ≤ (s.ns + 2 ^ 32 - e.rtime) % 2 ^ 32 | none => false)
    || (match (s.home h).hreq with
        | some q => q.sector = sec && q.active && q.since + nsToClk limit ≤ s.env.clk
        | none => false)

/-- The serial number under which a home knows a sector: while regrowth runs, the one that it ends. -/
def homeSer (s : State) (h sec : Nat) : Nat :=
  match (s.home h).regrow.find? fun r => r.sector = sec with | some r => r.ser | none => (s.smeta sec).ser

/-- RGACK at a home. -/
def homeRgack (s : State) (h : Nat) (m : Msg) : State :=
  if homeSer s h m.sector ≠ m.ser then s
  else
    let s := modRegrow s h m.sector fun r =>
      { r with waitAck := r.waitAck.filter (· ≠ m.req),
               waitData := if m.dty && r.data.isNone then nset r.waitData m.req s.env.clk else r.waitData }
    checkRegrow s h m.sector

/-- RGDATA at a home. -/
def homeRgdata (s : State) (h : Nat) (m : Msg) : State :=
  if homeSer s h m.sector ≠ m.ser then s
  else
    let s := modRegrow s h m.sector fun r => { r with data := some (m.data, m.poi), waitData := nerase r.waitData m.req }
    checkRegrow s h m.sector

/-- An agent is no longer waited for in any regrowth of a home. -/
def regrowWithout (s : State) (h a : Nat) : State :=
  let secs := (s.home h).regrow.map (·.sector)
  secs.foldl (fun s sec =>
    let s := modRegrow s h sec fun r =>
      { r with waitAck := r.waitAck.filter (· ≠ a), waitData := nerase r.waitData a,
               lostData := r.lostData || (nget r.waitData a).isSome }
    checkRegrow s h sec) s

/-! ### Requests at a home -/

/-- A sector whose metadata an error has left unreadable is regrown when next requested (R309). -/
def regrowUnread (s : State) (h sec : Nat) : State :=
  if (s.home h).unread.contains sec then triggerRegrow s h sec else s

/-- RDT at a home. -/
def homeRdt (s : State) (h : Nat) (m : Msg) : State :=
  let s := regrowUnread s h m.sector
  if regrowing s h m.sector || homeAsks s h m.sector || (s.smeta m.sector).ser ≠ m.ser then s
  else
    let s := adjustBudget s h m.sector m.t64
    let x := s.smeta m.sector
    if x.ho then homeTok s m.sector m.req 1 (x.hn = 1) true false else s

/-- WRT at a home: always answered, and the sector marked as perhaps modified (R289). -/
def homeWrt (s : State) (h : Nat) (m : Msg) : State :=
  let s := regrowUnread s h m.sector
  if regrowing s h m.sector || homeAsks s h m.sector || (s.smeta m.sector).ser ≠ m.ser then s
  else
    let s := adjustBudget s h m.sector m.t64
    let x := s.smeta m.sector
    let s := s.setMeta m.sector { x with md := true }
    homeTok s m.sector m.req x.hn x.ho x.ho true m.acq

/-- PREQ at a home (R298). -/
def homePreq (s : State) (h : Nat) (m : Msg) : State :=
  let s := regrowUnread s h m.sector
  let barred : Bool := match nget (s.home h).ptab m.req with | some e => e.st = .marked | none => false
  if (s.smeta m.sector).ser ≠ m.ser then s
  else if barred then
    send s { Msg.of .pnak (.home h) (.agent m.req) m.req m.sector (s.smeta m.sector).ser with t64 := (s.smeta m.sector).t64 }
  else
    let s := adjustBudget s h m.sector m.t64
    let e : PEntry := { blk := [], rtime := 0, st := .pending, wr := m.wr, ser := m.ser, sector := m.sector }
    s.modHome h fun x => { x with ptab := nset x.ptab m.req e, after := x.after.filter (· ≠ m.req) }

end Sys2Proof.Machine
end

