-- ==== Sys2Proof/Machine/Cache.lean ====
section
/-! DEFINITION. Where an access is performed (R77-R84, R103, R439): L1 of a CU, the die's L2, host lines, scratchpads; write-back,
and the cache actions of a release and an acquire (R88, R89). -/

namespace Sys2Proof.Machine

/-- What a read gives: bytes, the poison mark (R304) and the overflow mark (R156). -/
structure Got where
  data : List Byte
  poi : Bool
  wo : Bool
  deriving DecidableEq, Repr

/-- What an access does to bytes at its place. An atomic is told the old value, and may write nothing (R244). -/
inductive MemOp where
  | load
  | store (en : Nat → Bool) (data : List Byte)
  | atomic (g : Nat → Option Nat)

/-- The byte mask of `n` bytes from `off` within 64. -/
def byteMask (off n : Nat) : BitVec 64 := BitVec.ofNat 64 ((2 ^ n - 1) <<< off)
/-- The byte mask of the bytes from `off` that are enabled. -/
def enMask (off n : Nat) (en : Nat → Bool) : BitVec 64 :=
  BitVec.ofNat 64 ((List.range n).foldl (fun acc i => if en i then acc + 2 ^ (off + i) else acc) 0)
/-- 64 bytes with those of a mask taken from another 64. -/
def mergeBytes (old new : List Byte) (mask : BitVec 64) : List Byte :=
  (List.range 64).map fun i => if mask.getLsbD i then (new[i]?).getD 0 else (old[i]?).getD 0
/-- Bytes placed at an offset of 64. -/
def spread (off : Nat) (d : List Byte) : List Byte := List.replicate off 0 ++ d ++ List.replicate (64 - off - d.length) 0

/-! ### L2 -/

/-- A write merged at an L2 that holds all tokens (R293, R304). -/
def l2Merge (s : State) (a sec : Nat) (mask : BitVec 64) (d : List Byte) : State :=
  let l := s.line a sec
  if mask = 0 then s
  else
    let s := s.setLine a sec
      { l with data := mergeBytes l.data d mask, d := true, poi := l.poi && mask ≠ BitVec.allOnes 64 }
    fireSector s sec

/-- A sector read at an L2, or asked for; immutable ranges are served by the home without tokens, windows once their
expansion has come (R79, R308). `eng` names the engine or port that reads. -/
def l2Fetch (s : State) (a sec : Nat) (imm t64 : Bool) (eng : Option Nat := none) : State × Option Got :=
  match s.winOf sec with
  | some _ =>
    match nget s.mem.copies (l2key a sec) with
    | some (d, mark) => (s, some ⟨d, false, mark⟩)
    | none =>
      let key := l2key a sec
      (s.modMem fun m => { m with winReq := if m.winReq.contains key then m.winReq else m.winReq ++ [key] }, none)
  | none =>
    if imm then (s, some ⟨Memory.bytes s.mem.dram (sec * 64) 64, (s.smeta sec).poi, false⟩)
    else if s.canRead a sec then
      let l := s.line a sec
      (s, some ⟨l.data, l.poi, false⟩)
    else (need s a sec false t64 eng, none)

/-- An access of a thread at an L2 waits for an engine, and for another group's lock (R103, R250). -/
def waitsAt (s : State) (a sec tid : Nat) : Bool :=
  engineHolds s a sec || (match lockOn s a sec with | some (t, _) => t ≠ tid | none => false)

/-! ### L1 (R78) -/

def State.l1 (s : State) (cu sec : Nat) : Option L1Line := nget (s.cu cu).l1 sec
def State.setL1 (s : State) (cu sec : Nat) (l : L1Line) : State := s.modCu cu fun c => { c with l1 := nset c.l1 sec l }
def L1Line.empty (t64 : Bool) : L1Line :=
  { valid := 0, dirty := 0, data := List.replicate 64 0, poi := false, wo := false, t64 := t64 }

/-- Bytes of a line, from an offset. -/
def sliceOf (d : List Byte) (off n : Nat) : List Byte := (d.drop off).take n

/-- The number under which a CU's L1 asks for the tokens of a line that it has to write back. -/
def lineEng (cu : Nat) : Nat := 2 ^ 30 + cu

/-- Write back a line's dirty bytes; tells whether no dirty byte is left. -/
def flushLine (s : State) (cu sec : Nat) : State × Bool :=
  match s.l1 cu sec with
  | none => (s, true)
  | some l =>
    if l.dirty = 0 then (s, true)
    else
      let a := dieOf cu
      if engineHolds s a sec then (s, false)
      else if s.canWrite a sec then
        let s := l2Merge s a sec l.dirty l.data
        (s.setL1 cu sec { l with dirty := 0, poi := l.poi && (s.line a sec).poi }, true)
      else (need s a sec true l.t64 (some (lineEng cu)), false)

/-- The lines of a CU's L1 under its split: what the scratchpad leaves of 1 MiB (R17). -/
def l1Lines (c : Cu) : Nat := (768 - 128 * c.split) * 16

/-- Room for one line more in a CU's L1: a full one evicts a line, after its dirty bytes are written back; which one is the
implementation's (R78, log 23). -/
def l1Room (s : State) (cu sec : Nat) : State × Bool :=
  let c := s.cu cu
  if (nget c.l1 sec).isSome || c.l1.length < l1Lines c then (s, true)
  else
    match (nkeys c.l1)[Config.victim s.env.freeCtr % c.l1.length]? with
    | none => (s, true)
    | some v =>
      match flushLine s cu v with
      | (s, false) => (s, false)
      | (s, true) => (s.modCu cu fun c => { c with l1 := nerase c.l1 v }, true)

/-- A line with every byte valid: what is missing is fetched from L2 beneath the dirty bytes. -/
def l1Fill (s : State) (cu sec : Nat) (mask : BitVec 64) (imm t64 : Bool) : State × Option L1Line :=
  let l := (s.l1 cu sec).getD (L1Line.empty t64)
  if l.valid &&& mask = mask then (s, some l)
  else if engineHolds s (dieOf cu) sec then (s, none)
  else
    match l1Room s cu sec with
    | (s, false) => (s, none)
    | (s, true) =>
      match l2Fetch s (dieOf cu) sec imm t64 with
      | (s, none) => (s, none)
      | (s, some g) =>
        let l := { l with valid := BitVec.allOnes 64, data := mergeBytes g.data l.data l.dirty, poi := g.poi, wo := g.wo }
        (s.setL1 cu sec l, some l)

/-- Refresh a line that L1 holds with bytes performed at L2: valid and clean. -/
def l1Refresh (s : State) (cu sec : Nat) (mask : BitVec 64) (d : List Byte) (poi wo : Bool) : State :=
  match s.l1 cu sec with
  | none => s
  | some l =>
    s.setL1 cu sec { l with data := mergeBytes l.data d mask, valid := l.valid ||| mask, dirty := l.dirty &&& ~~~mask,
                            poi := poi, wo := wo }

/-- Sectors with dirty bytes in a CU's L1. -/
def dirtySectors (s : State) (cu : Nat) : List Nat := ((s.cu cu).l1.filter fun p => p.2.dirty ≠ 0).map (·.1)

/-- Write back a list of sectors; the ones that remain. -/
def flushAll (s : State) (cu : Nat) (l : List Nat) : State × List Nat :=
  l.foldl (fun (acc : State × List Nat) sec =>
    let (s, ok) := flushLine acc.1 cu sec
    (s, if ok then acc.2 else acc.2 ++ [sec])) (s, [])

/-- The acquire action at CL or wider (R89). -/
def acquireL1 (s : State) (cu : Nat) : State :=
  s.modCu cu fun c =>
    let keep := c.l1.filter fun p => p.2.dirty ≠ 0
    { c with l1 := nmap keep fun _ l => { l with valid := l.dirty } }

/-! ### Host lines (R439, R440) -/

/-- The L2 that holds a host line gives it up, with dirty data. -/
def hostGiveUp (s : State) (key : Nat) : State :=
  match nget s.mem.hostLines key with
  | none => s
  | some h =>
    let s := s.modMem fun m =>
      { m with hostLines := nerase m.hostLines key,
               hostMem := if h.dirty then Memory.setBytes m.hostMem (key % 2 ^ 46 * 64) h.data else m.hostMem }
    fireIf s fun q => q.space ≠ 1 && q.place = hostPlace key

/-- A slice that has taken one line more than it holds gives another up: a sector is written back, an expanded sector dropped, a host
line given up. Which one is the implementation's (R1, R293). -/
def evictOne (s : State) (a place : Nat) : State :=
  if s.lineCount ≤ sliceSectors then s
  else
    let l := sliceHeld s a (sliceOfSector place)
    let may := l.filter fun x => x ≠ place && !heldAt s a x && (nget s.mem.trans (l2key a x)).isNone
    if l.length ≤ sliceSectors then s
    else match may[Config.victim s.env.freeCtr % may.length]? with
      | some x =>
        if hostPlace 0 ≤ x then hostGiveUp s (x - hostPlace 0)
        else if (nget s.mem.copies (l2key a x)).isSome then s.modMem fun m => { m with copies := nerase m.copies (l2key a x) }
        else writeBack s a x
      | none => s

/-- The die's L2 holds a host line, recalled from another L2; a full table recalls its oldest line. -/
def hostTake (s : State) (die key : Nat) : State :=
  match nget s.mem.hostLines key with
  | some h => if h.die = die then s else evictOne (take (hostGiveUp s key)) die (hostPlace key)
  | none => evictOne (take s) die (hostPlace key)
where
  take (s : State) : State :=
    let mine := s.mem.hostLines.filter fun p => p.1 / 2 ^ 46 = key / 2 ^ 46
    let oldest := mine.foldl (fun (acc : Option (Nat × HostLine)) p =>
      match acc with | none => some p | some q => if p.2.since < q.2.since then some p else some q) none
    let s := if 65536 ≤ mine.length then (match oldest with | some p => hostGiveUp s p.1 | none => s) else s
    let d := Memory.bytes s.mem.hostMem (key % 2 ^ 46 * 64) 64
    s.modMem fun m =>
      { m with hostLines := nset m.hostLines key { die := die, data := d, dirty := false, since := s.env.clk } }

/-! ### Performing -/

/-- Where an access goes once translated. `sys` is system space of this module (R76). -/
inductive Target where
  | scratch (wg off : Nat)
  | host (x : Xl)
  | pool (x : Xl) (sys : Bool)

/-- A memory of bytes under an operation. -/
def memApply (m : Memory) (a n : Nat) (op : MemOp) : Memory × List Byte :=
  let old := Memory.bytes m a n
  match op with
  | .load => (m, old)
  | .store en d => (Memory.setEnabled m a en d, [])
  | .atomic g => ((match g (leNat old) with | some x => Memory.setBytes m a (leBytes n x) | none => m), old)

def MemOp.writes : MemOp → Bool
  | .load => false
  | _ => true

/-- Whether an operation that finds an old value writes (R244). -/
def MemOp.changes (op : MemOp) (old : Nat) : Bool :=
  match op with
  | .load => false
  | .store _ _ => true
  | .atomic g => (g old).isSome

/-- The new 64 bytes and their mask when an operation acts on bytes of a sector. -/
def opBytes (d : List Byte) (off n : Nat) (op : MemOp) : List Byte × BitVec 64 :=
  match op with
  | .load => (d, 0)
  | .store en x => (spread off x, enMask off n en)
  | .atomic g =>
    match g (leNat (sliceOf d off n)) with
    | some x => (spread off (leBytes n x), byteMask off n)
    | none => (d, 0)

/-- The 64-byte blocks of a range of addresses, each with the mask of its bytes in the range. -/
def blockMasks (lo n : Nat) : NMap (BitVec 64) :=
  (List.range ((lo % 64 + n + 63) / 64)).map fun k =>
    let a := max (lo % 64) (64 * k)
    let z := min (lo % 64 + n) (64 * (k + 1))
    ((lo - lo % 64 + 64 * k) % 2 ^ 64 / 64, byteMask (a % 64) (z - a))

/-- Scratch bytes that a registration bars for the groups of the workgroup (R226, R266). -/
def scratchHeld (s : State) (w off n : Nat) : Bool :=
  s.mem.regs.any fun r => r.space = 1 && r.wg = w && (blockMasks off n).any fun p => r.bars p.1 p.2 true

/-- A registration bars a thread's access of `n` bytes of global or system space on its die: any access before the engine's write of
the sector (R103), one of its own workgroup to bytes that the command does not write until its end (R266). -/
def engineBars (s : State) (cu tid : Nat) (x : Xl) (n : Nat) : Bool :=
  s.mem.regs.any fun r => r.space = 0 && r.die = dieOf cu && r.pend.any fun b =>
    (!b.2.written || (((s.thread tid).map (·.wg)) = some r.wg && b.2.bytes &&& byteMask (x.pa % 64) n ≠ 0))
      && r.placeOf s b.1 = some x.place

/-- The place that a monitor on a scratch block names. -/
def scratchPlace (w off : Nat) : Nat := w * 2 ^ 20 + off / 64
/-- A write of scratch bytes fires the monitors of their blocks (R254). -/
def fireScratch (s : State) (w off n : Nat) : State :=
  fireIf s fun m => m.space = 1 && m.place / 2 ^ 20 = w && off / 64 ≤ m.place % 2 ^ 20
    && m.place % 2 ^ 20 ≤ (off + n - 1) / 64

def onScratch (s : State) (w off n : Nat) (op : MemOp) : State × Option Got :=
  match s.wg w with
  | none => (s, none)
  | some g =>
    if scratchHeld s w off n then (s, none)
    else
      let (m, old) := memApply g.scratch off n op
      let s := s.modWg w fun g => { g with scratch := m }
      (if op.changes (leNat old) then fireScratch s w off n else s, some ⟨old, false, false⟩)

/-- A host range: at the host's coherence point, or at the L2 that holds the line (R439). -/
def onHost (s : State) (cu : Nat) (x : Xl) (n : Nat) (op : MemOp) : State × Option Got :=
  if reCoh x.e then
    let key := hostKey x
    let s := hostTake s (dieOf cu) key
    match nget s.mem.hostLines key with
    | none => (s, none)
    | some h =>
      let off := x.pa % 64
      let (new, mask) := opBytes h.data off n op
      let s := if mask = 0 then s
        else
          fireIf (s.modMem fun m =>
            { m with hostLines := nset m.hostLines key { h with data := mergeBytes h.data new mask, dirty := true } })
            fun q => q.space ≠ 1 && q.place = hostPlace key
      (s, some ⟨sliceOf h.data off n, false, false⟩)
  else
    -- the port first recalls a line that an L2 holds under another entry, and an atomic takes its ownership until it is written back
    let s := hostGiveUp s (hostKey x)
    let (m, old) := memApply s.mem.hostMem x.pa n op
    (s.modMem fun y => { y with hostMem := m }, some ⟨old, false, false⟩)

/-- At the L1 of the CU (R82, WG). -/
def onL1 (s : State) (cu : Nat) (x : Xl) (n : Nat) (op : MemOp) : State × Option Got :=
  let sec := x.sector
  let off := x.pa % 64
  let t64 := reT64 x.e
  match op with
  | .store _ _ =>
    if engineHolds s (dieOf cu) sec then (s, none)
    else
      match l1Room s cu sec with
      | (s, false) => (s, none)
      | (s, true) =>
        let l := (s.l1 cu sec).getD (L1Line.empty t64)
        let (new, mask) := opBytes l.data off n op
        let dirty := l.dirty ||| mask
        (s.setL1 cu sec { l with data := mergeBytes l.data new mask, valid := l.valid ||| mask, dirty := dirty,
                                 poi := l.poi && dirty ≠ BitVec.allOnes 64 }, some ⟨[], false, false⟩)
  | _ =>
    match l1Fill s cu sec (byteMask off n) (reImm x.e) t64 with
    | (s, none) => (s, none)
    | (s, some l) =>
      if l.poi then (s, some ⟨sliceOf l.data off n, true, l.wo⟩)
      else if op.writes && engineHolds s (dieOf cu) sec then (s, none)
      else
        let (new, mask) := opBytes l.data off n op
        let s := if op.writes then
            s.setL1 cu sec { l with data := mergeBytes l.data new mask, dirty := l.dirty ||| mask }
          else s
        (s, some ⟨sliceOf l.data off n, false, l.wo⟩)

/-- At the die's L2 (R82, CL and wider): the issuing L1's dirty bytes of the sector are merged first. -/
def onL2 (s : State) (cu tid : Nat) (x : Xl) (n : Nat) (op : MemOp) : State × Option Got :=
  let sec := x.sector
  let a := dieOf cu
  let off := x.pa % 64
  let t64 := reT64 x.e
  let mask := byteMask off n
  if waitsAt s a sec tid then (markWaiter s a sec, none)
  else
    match op with
    | .store _ _ =>
      if s.canWrite a sec then
        let (new, en) := opBytes [] off n op
        let s := l2Merge s a sec en new
        (l1Refresh s cu sec en (s.line a sec).data (s.line a sec).poi false, some ⟨[], false, false⟩)
      else (need s a sec true t64, none)
    | _ =>
      match flushLine s cu sec with
      | (s, false) => (s, none)
      | (s, true) =>
        if op.writes && !s.canWrite a sec then (need s a sec true t64, none)
        else
          match l2Fetch s a sec (reImm x.e) t64 with
          | (s, none) => (s, none)
          | (s, some g) =>
            if g.poi then (s, some ⟨sliceOf g.data off n, true, g.wo⟩)
            else
              let (new, en) := opBytes g.data off n op
              let s := if op.writes then l2Merge s a sec en new else s
              let now := if op.writes then mergeBytes g.data new en else g.data
              (l1Refresh s cu sec mask now false g.wo, some ⟨sliceOf g.data off n, false, g.wo⟩)

/-- Perform an operation of `n` bytes within one sector or block at its place, for a thread of a CU. Nothing comes back while
it must wait. A system range that is not coherent keeps no copy (R83). -/
def perform (s : State) (cu tid scope : Nat) (x : Target) (n : Nat) (op : MemOp) : State × Option Got :=
  match x with
  | .scratch w off => onScratch s w off n op
  | .host x => if engineBars s cu tid x n then (s, none) else onHost s cu x n op
  | .pool x sys =>
    if engineBars s cu tid x n then (s, none)
    else if scope = 0 && !sys then onL1 s cu x n op
    else
      let (s, r) := onL2 s cu tid x n op
      (if sys && !reCoh x.e && r.isSome && !heldAt s (dieOf cu) x.sector then writeBack s (dieOf cu) x.sector else s, r)

end Sys2Proof.Machine
end

