-- ==== Sys2Proof/Machine/Crc.lean ====
section
/-! DEFINITION. The checksums of the manual: the CRC-16 of a code line (R108) and the CRC-32C of a string of bytes (R175,
R431). -/

namespace Sys2Proof.Machine

/-- One byte into the CRC-16 of polynomial 0x1021, most significant bit first (R108). -/
def crc16Byte (c : Nat) (b : Byte) : Nat :=
  (List.range 8).foldl (fun c _ => if c < 32768 then 2 * c else (2 * c) % 65536 ^^^ 0x1021) (c ^^^ (b.toNat <<< 8))

/-- The CRC-16 of a byte string (R108). -/
def crc16 (l : List Byte) : Nat := l.foldl crc16Byte 0xFFFF

/-- The CRC-32C of a byte string: the fold of R175 from all ones (R431). -/
def crc32c (l : List Byte) : Word := l.foldl fold8 0xFFFFFFFF

end Sys2Proof.Machine
end

