-- ==== Sys2Proof/Machine/Float.lean ====
section
/-! DEFINITION. Floating point (R143-R147, R190-R196): exact values as sign, integer and power of two, one rounding, and
the operations of the vector engine over them. -/

namespace Sys2Proof.Machine

/-- A binary interchange format: exponent and fraction widths (R143). -/
structure Fmt where
  eb : Nat
  fb : Nat
  deriving DecidableEq, Repr

def f32 : Fmt := ⟨8, 23⟩
def f16 : Fmt := ⟨5, 10⟩
def bf16 : Fmt := ⟨8, 7⟩

/-- The exponent bias. -/
def Fmt.bias (k : Fmt) : Nat := 2 ^ (k.eb - 1) - 1
/-- The canonical NaN (R145). -/
def Fmt.nan (k : Fmt) : Nat := (2 ^ k.eb - 1) <<< k.fb + 2 ^ (k.fb - 1)
/-- The magnitude pattern of infinity. -/
def Fmt.infMag (k : Fmt) : Nat := (2 ^ k.eb - 1) <<< k.fb
/-- The sign bit's weight. -/
def Fmt.signBit (k : Fmt) : Nat := 2 ^ (k.eb + k.fb)
/-- An infinity. -/
def Fmt.inf (k : Fmt) (neg : Bool) : Nat := k.infMag + (if neg then k.signBit else 0)
/-- A zero. -/
def Fmt.zero (k : Fmt) (neg : Bool) : Nat := if neg then k.signBit else 0

/-- What a pattern stands for: a NaN, an infinity, or `± m × 2^e` (a zero keeps its sign with `m = 0`). -/
inductive FVal where
  | nan (signalling : Bool)
  | inf (neg : Bool)
  | fin (neg : Bool) (m : Nat) (e : Int)
  deriving DecidableEq, Repr

/-- The value of a pattern (R143, R144). -/
def Fmt.val (k : Fmt) (x : Nat) : FVal :=
  let neg := (x / k.signBit) % 2 = 1
  let ex := (x / 2 ^ k.fb) % 2 ^ k.eb
  let fr := x % 2 ^ k.fb
  if ex = 2 ^ k.eb - 1 then
    if fr = 0 then .inf neg else .nan (fr < 2 ^ (k.fb - 1))
  else if ex = 0 then .fin neg fr (1 - (k.bias : Int) - k.fb)
  else .fin neg (fr + 2 ^ k.fb) ((ex : Int) - k.bias - k.fb)

def FVal.isNan : FVal → Bool
  | .nan _ => true
  | _ => false
def FVal.isSnan : FVal → Bool
  | .nan s => s
  | _ => false
def FVal.negate : FVal → FVal
  | .nan s => .nan s
  | .inf n => .inf !n
  | .fin n m e => .fin (!n) m e

/-- Whether a discarded part rounds up (R146): `rm` is RM, `n` the kept integer, `rem` of weight below `half × 2`. -/
def roundsUp (rm : Nat) (neg : Bool) (n rem half : Nat) : Bool :=
  match rm with
  | 0 => half < rem || (rem = half && n % 2 = 1)
  | 1 => false
  | 2 => !neg && rem ≠ 0
  | _ => neg && rem ≠ 0

/-- `m × 2^e` taken to a multiple of `2^q`: the integer multiple, and whether it is inexact. -/
def roundAt (rm : Nat) (neg : Bool) (m : Nat) (e q : Int) : Nat × Bool :=
  if q ≤ e then (m <<< (e - q).toNat, false)
  else
    let s := (q - e).toNat
    let n := m >>> s
    let rem := m % 2 ^ s
    (if roundsUp rm neg n rem (2 ^ (s - 1)) then n + 1 else n, rem ≠ 0)

/-- One rounding of the exact value `± m × 2^e`, `m > 0`, to a format: the pattern and the flags OF, UF and NX
(R146, R147). -/
def Fmt.round (k : Fmt) (rm : Nat) (neg : Bool) (m : Nat) (e : Int) : Nat × Nat :=
  let top : Int := (Nat.log2 m : Int) + e
  let emin : Int := 1 - (k.bias : Int)
  let q := max (top - k.fb) (emin - k.fb)
  let (n, inex) := roundAt rm neg m e q
  let be : Int := q + k.fb + k.bias
  let mag : Nat :=
    if n < 2 ^ k.fb then n
    else if n < 2 ^ (k.fb + 1) then be.toNat <<< k.fb + (n - 2 ^ k.fb)
    else (be.toNat + 1) <<< k.fb
  let sgn := if neg then k.signBit else 0
  if k.infMag ≤ mag then
    let toInf := rm = 0 || (rm = 2 && !neg) || (rm = 3 && neg)
    (sgn + (if toInf then k.infMag else k.infMag - 1), flagOF + flagNX)
  else
    let (u, _) := roundAt rm neg m e (top - k.fb)
    let tiny := top < emin && ¬(top = emin - 1 && u = 2 ^ (k.fb + 1))
    (sgn + mag, (if inex then flagNX else 0) + (if inex && tiny then flagUF else 0))

/-- The sign of an exact zero sum (R146). -/
def zeroSumNeg (rm : Nat) (na nb : Bool) : Bool := if na = nb then na else rm = 3

/-- NV for a signalling NaN among the inputs (R145). -/
def snanFlag (l : List FVal) : Nat := if l.any FVal.isSnan then flagNV else 0

/-- A sum of exact values, rounded once. -/
def Fmt.add (k : Fmt) (rm : Nat) (a b : FVal) : Nat × Nat :=
  match a, b with
  | .nan _, _ | _, .nan _ => (k.nan, snanFlag [a, b])
  | .inf na, .inf nb => if na = nb then (k.inf na, 0) else (k.nan, flagNV)
  | .inf na, _ => (k.inf na, 0)
  | _, .inf nb => (k.inf nb, 0)
  | .fin na ma ea, .fin nb mb eb =>
    let e := min ea eb
    let ia : Int := (if na then -1 else 1) * ((ma <<< (ea - e).toNat : Nat) : Int)
    let ib : Int := (if nb then -1 else 1) * ((mb <<< (eb - e).toNat : Nat) : Int)
    let s := ia + ib
    if s = 0 then
      (k.zero (if ma = 0 && mb = 0 then zeroSumNeg rm na nb else rm = 3), 0)
    else k.round rm (s < 0) s.natAbs e

/-- The exact product of two values that are not NaN; none for 0 × ∞. -/
def FVal.mul (a b : FVal) : Option FVal :=
  match a, b with
  | .inf na, .inf nb => some (.inf (na != nb))
  | .inf na, .fin nb m _ => if m = 0 then none else some (.inf (na != nb))
  | .fin na m _, .inf nb => if m = 0 then none else some (.inf (na != nb))
  | .fin na ma ea, .fin nb mb eb => some (.fin (na != nb) (ma * mb) (ea + eb))
  | _, _ => none

/-- A product, rounded once. -/
def Fmt.mul (k : Fmt) (rm : Nat) (a b : FVal) : Nat × Nat :=
  if a.isNan || b.isNan then (k.nan, snanFlag [a, b])
  else
    match a.mul b with
    | none => (k.nan, flagNV)
    | some (.inf n) => (k.inf n, 0)
    | some (.fin n m e) => if m = 0 then (k.zero n, 0) else k.round rm n m e
    | some (.nan _) => (k.nan, 0)

/-- `a × b + c`, rounded once; 0 × ∞ raises NV even when `c` is a quiet NaN (R190). -/
def Fmt.fma (k : Fmt) (rm : Nat) (a b c : FVal) : Nat × Nat :=
  if a.isNan || b.isNan then (k.nan, snanFlag [a, b, c])
  else
    match a.mul b with
    | none => (k.nan, flagNV)
    | some p => if c.isNan then (k.nan, snanFlag [c]) else k.add rm p c

/-- A quotient, correctly rounded (R190). -/
def Fmt.div (k : Fmt) (rm : Nat) (a b : FVal) : Nat × Nat :=
  match a, b with
  | .nan _, _ | _, .nan _ => (k.nan, snanFlag [a, b])
  | .inf na, .fin nb _ _ => (k.inf (na != nb), 0)
  | .inf _, .inf _ => (k.nan, flagNV)
  | .fin na _ _, .inf nb => (k.zero (na != nb), 0)
  | .fin na ma ea, .fin nb mb eb =>
    let n := na != nb
    if mb = 0 then (if ma = 0 then (k.nan, flagNV) else (k.inf n, flagDZ))
    else if ma = 0 then (k.zero n, 0)
    else
      let num := ma <<< 64
      let qt := num / mb
      let m := if num % mb = 0 then 2 * qt else 2 * qt + 1
      k.round rm n m (ea - eb - 65)

/-- A square root, correctly rounded; the square root of −0 is −0 (R190). -/
def Fmt.sqrt (k : Fmt) (rm : Nat) (a : FVal) : Nat × Nat :=
  match a with
  | .nan s => (k.nan, if s then flagNV else 0)
  | .inf n => if n then (k.nan, flagNV) else (k.inf false, 0)
  | .fin n m e =>
    if m = 0 then (k.zero n, 0)
    else if n then (k.nan, flagNV)
    else
      let sh := if (e - 80) % 2 = 0 then 80 else 81
      let x := m <<< sh
      let r := Nat.sqrt x
      let v := if r * r = x then 2 * r else 2 * r + 1
      k.round rm false v ((e - sh) / 2 - 1)

/-- The reciprocal square root, correctly rounded to nearest-even (R193). -/
def Fmt.rsqrt (k : Fmt) (a : FVal) : Nat × Nat :=
  match a with
  | .nan s => (k.nan, if s then flagNV else 0)
  | .inf n => if n then (k.nan, flagNV) else (k.zero false, 0)
  | .fin n m e =>
    if m = 0 then (k.inf n, flagDZ)
    else if n then (k.nan, flagNV)
    else
      -- 1/√(m·2^e) = √(2^(2p) / (m·2^e')) with e' even
      let (m', e') := if e % 2 = 0 then (m, e) else (2 * m, e - 1)
      let p : Nat := 160
      let x := 2 ^ (2 * p) / m'
      let r := Nat.sqrt x
      let exact := r * r * m' = 2 ^ (2 * p)
      k.round 0 false (if exact then 2 * r else 2 * r + 1) (-(p : Int) - e' / 2 - 1)

/-! ### 2^x, log₂ x and tanh x in fixed point -/

/-- Bits after the point in the working values below. -/
def fxBits : Nat := 320

/-- A sum of a series: `term` is the next term, `next i t` the one after. -/
def seriesSum (next : Nat → Nat → Nat) (fuel i term acc : Nat) : Nat :=
  match fuel with
  | 0 => acc
  | n + 1 => if term = 0 then acc else seriesSum next n (i + 1) (next i term) (acc + term)

/-- ln 2 in fixed point: the sum over i of 1 / (i · 2^i). -/
def ln2Fx : Nat :=
  (List.range 340).foldl (fun acc i => acc + (1 <<< (fxBits + 16)) / ((i + 1) * 2 ^ (i + 1))) 0 >>> 16

/-- e^t in fixed point, for t from 0 up to 1. -/
def expFx (t : Nat) : Nat :=
  seriesSum (fun i term => term * t / (1 <<< fxBits) / i) 200 1 (1 <<< fxBits) 0

/-- 2^f in fixed point, for f from 0 up to 1. -/
def exp2Fx (f : Nat) : Nat := expFx ((f * ln2Fx) >>> fxBits)

/-- log₂ of a fixed-point number from 1 up to 2, one bit a squaring. -/
def log2Fx (fuel x acc : Nat) : Nat :=
  match fuel with
  | 0 => acc
  | n + 1 =>
    let y := (x * x) >>> (2 * fxBits)
    if y < 2 <<< (2 * fxBits) then log2Fx n y (2 * acc) else log2Fx n (y >>> 1) (2 * acc + 1)

/-- `±m × 2^e` in fixed point, cut below. -/
def toFx (m : Nat) (e : Int) : Nat :=
  let s := e + fxBits
  if 0 ≤ s then m <<< s.toNat else m >>> (-s).toNat

/-- 2^a (R193). -/
def Fmt.exp2 (k : Fmt) (a : FVal) : Nat × Nat :=
  match a with
  | .nan s => (k.nan, if s then flagNV else 0)
  | .inf n => if n then (k.zero false, 0) else (k.inf false, 0)
  | .fin n m e =>
    if m = 0 then (k.round 0 false 1 0)
    else if 9 ≤ (Nat.log2 m : Int) + e then
      k.round 0 false 3 (if n then -2000 else 2000)
    else
      let x := toFx m e
      let one := 1 <<< fxBits
      let ip := x / one
      let fr := x % one
      if fr = 0 && (if e < 0 then m % 2 ^ (-e).toNat = 0 else true) then
        k.round 0 false 1 (if n then -(ip : Int) else ip)
      else
        -- below: −x = −(ip+1) + (1 − fr)
        let (i, f) : Int × Nat := if n then (-(ip : Int) - 1, one - fr) else ((ip : Int), fr)
        k.round 0 false (2 * exp2Fx f + 1) (i - fxBits - 1)

/-- log₂ a (R193). -/
def Fmt.log2 (k : Fmt) (a : FVal) : Nat × Nat :=
  match a with
  | .nan s => (k.nan, if s then flagNV else 0)
  | .inf n => if n then (k.nan, flagNV) else (k.inf false, 0)
  | .fin n m e =>
    if m = 0 then (k.inf true, flagDZ)
    else if n then (k.nan, flagNV)
    else
      let p := Nat.log2 m
      let i : Int := (p : Int) + e
      if m = 2 ^ p then
        (if i = 0 then (k.zero false, 0) else k.round 0 (i < 0) i.natAbs 0)
      else
        let f := log2Fx 200 (m <<< (2 * fxBits - p)) 0
        let t : Int := i * 2 ^ 201 + (2 * f + 1)
        k.round 0 (t < 0) t.natAbs (-201)

/-- tanh a (R193). -/
def Fmt.tanh (k : Fmt) (a : FVal) : Nat × Nat :=
  match a with
  | .nan s => (k.nan, if s then flagNV else 0)
  | .inf n => k.round 0 n 1 0
  | .fin n m e =>
    let top : Int := (Nat.log2 m : Int) + e
    if m = 0 then (k.zero n, 0)
    else if top < -12 then k.round 0 n (m <<< 64 - 1) (e - 64)
    else if 10 <<< 64 ≤ (if 0 ≤ e + 64 then m <<< (e + 64).toNat else m >>> (-(e + 64)).toNat) then
      k.round 0 n (2 ^ 64 - 1) (-64)
    else
      -- e^(2x) = 2^i · e^f with 2x = i·ln 2 + f
      let x := toFx m (e + 1)
      let i := x / ln2Fx
      let ex := expFx (x % ln2Fx) <<< i
      let one := 1 <<< fxBits
      let q := ((ex - one) <<< fxBits) / (ex + one)
      k.round 0 n (2 * q + 1) (-(fxBits : Int) - 1)

/-! ### Minimum, maximum, comparison, class -/

/-- The order of two values that are not NaN, −0 below +0: −1, 0 or 1. -/
def FVal.cmpTotal (a b : FVal) : Int :=
  let key : FVal → Int × Int × Int := fun v =>
    match v with
    | .inf n => (if n then -2 else 2, 0, 0)
    | .fin n m _ => if m = 0 then (0, if n then -1 else 0, 0) else (if n then -1 else 1, 0, 0)
    | .nan _ => (3, 0, 0)
  let (a1, a2, _) := key a
  let (b1, b2, _) := key b
  if a1 < b1 then -1 else if b1 < a1 then 1
  else
    match a, b with
    | .fin na ma ea, .fin _ mb eb =>
      if ma = 0 || mb = 0 then (if a2 < b2 then -1 else if b2 < a2 then 1 else 0)
      else
        let e := min ea eb
        let ia := ma <<< (ea - e).toNat
        let ib := mb <<< (eb - e).toNat
        if ia = ib then 0 else if (ia < ib) != na then -1 else 1
    | _, _ => 0

/-- minimumNumber, or maximumNumber with `mx` (R191). -/
def Fmt.minmax (k : Fmt) (mx : Bool) (x y : Nat) : Nat × Nat :=
  let a := k.val x
  let b := k.val y
  let fl := snanFlag [a, b]
  if a.isNan then (if b.isNan then (k.nan, fl) else (y, fl))
  else if b.isNan then (x, fl)
  else
    let c := a.cmpTotal b
    (if (if mx then 0 ≤ c else c ≤ 0) then x else y, fl)

/-- Numerical equality and order, zeros equal: none when unordered. -/
def FVal.cmp (a b : FVal) : Option Int :=
  if a.isNan || b.isNan then none
  else
    match a, b with
    | .fin _ 0 _, .fin _ 0 _ => some 0
    | _, _ => some (a.cmpTotal b)

/-- FCMP's relation and its NV (R192). -/
def fcmpRel (rel : Nat) (a b : FVal) : Bool × Nat :=
  let sn := snanFlag [a, b]
  match a.cmp b with
  | none =>
    let ordered := rel = 2 || rel = 3 || rel = 4 || rel = 5
    (rel = 1 || rel = 6, if ordered then flagNV else sn)
  | some c =>
    (match rel with
     | 0 => c = 0
     | 1 => c ≠ 0
     | 2 => c < 0
     | 3 => c ≤ 0
     | 4 => 0 < c
     | 5 => 0 ≤ c
     | _ => false, 0)

/-- FCLASS's mask (R192). -/
def Fmt.fclass (k : Fmt) (x : Nat) : Nat :=
  match k.val x with
  | .nan s => if s then 2 ^ 8 else 2 ^ 9
  | .inf n => if n then 2 ^ 0 else 2 ^ 7
  | .fin n m _ =>
    if m = 0 then (if n then 2 ^ 3 else 2 ^ 4)
    else if m < 2 ^ k.fb then (if n then 2 ^ 2 else 2 ^ 5)
    else (if n then 2 ^ 1 else 2 ^ 6)

/-! ### Conversions (R141, R151) -/

/-- A value taken to another format (R151). -/
def Fmt.ofVal (k : Fmt) (rm : Nat) (a : FVal) : Nat × Nat :=
  match a with
  | .nan s => (k.nan, if s then flagNV else 0)
  | .inf n => (k.inf n, 0)
  | .fin n m e => if m = 0 then (k.zero n, 0) else k.round rm n m e

/-- An integer, times a power of two, taken to a format; zero is +0. An overflow raises OF whatever the integer's type
(R147, log 63). -/
def Fmt.ofInt (k : Fmt) (rm : Nat) (i : Int) (e : Int := 0) : Nat × Nat :=
  if i = 0 then (k.zero false, 0) else k.round rm (i < 0) i.natAbs e

/-- A value, times a power of two, taken to an integer in `lo .. hi` (R141, R151). `nanTo` is what a NaN gives. -/
def floatToInt (rm : Nat) (lo hi : Int) (a : FVal) (scale : Int := 0) : Int × Nat :=
  match a with
  | .nan _ => (0, flagNV)
  | .inf n => (if n then lo else hi, flagNV)
  | .fin n m e =>
    let (r, inex) := roundAt rm n m (e + scale) 0
    let v : Int := if n then -(r : Int) else r
    if v < lo then (lo, flagNV) else if hi < v then (hi, flagNV) else (v, if inex then flagNX else 0)

end Sys2Proof.Machine
end

