-- ==== Sys2Proof/Machine/Fetch.lean ====
section
/-! DEFINITION. Fetching an instruction (R107-R109), decoding it for the code that runs (R123-R125), and whether it may issue
(R157): its sources, its counter and its log entry. -/

namespace Sys2Proof.Machine

/-- What a fetch gives. -/
inductive Fetched where
  | word (w : BitVec 96)
  | trap (x : Trap)
  deriving DecidableEq, Repr

/-- A code line at a translated address: its 64 bytes at the home, or in host memory (R79). -/
def lineBytes (s : State) (x : Xl) : List Byte :=
  if x.host then Memory.bytes s.mem.hostMem x.pa 64 else Memory.bytes s.mem.dram x.pa 64

/-- LCRC matches the line's first 60 bytes (R108). -/
def lineOk (l : List Byte) : Bool := crc16 (l.take 60) = leNat ((l.drop 62).take 2)

/-- A request of a context for an address that is homed on a lost tile (R22). -/
def dielTrap : Trap := { cause := cDIEL, unit := some 0, imp := true, async := true }

/-- Fetch the instruction at a PC under a context (R109). A line that fails its check fails its refetch as well, since
the stored bytes are the same. A line homed on a lost tile is DIEL (R22). A PC that is no slot offset and has high bits set is
MISAL, as at a transfer (log 62). -/
def fetchAt (s : State) (cu c : Nat) (pc : Word64) : Fetched :=
  if !slotOk pc then .trap { cause := cMISAL, opd0 := pc }
  else if !pcHighOk pc then .trap { cause := cXLAT, opd0 := pc }
  else
    match translate s cu c (pc.toNat / 64 * 64) with
    | none => .trap { cause := cXLAT, opd0 := pc }
    | some x =>
      if s.tileLost x then .trap dielTrap
      else if !reX x.e then .trap { cause := cPERM, opd0 := pc }
      else
        let l := lineBytes s x
        if lineOk l then .word (bytesWord ((l.drop (pc.toNat % 64)).take 12))
        else .trap { cause := cUCE, syn := 0x00010000, opd0 := pc }

/-- The fault registers that hold the word of a refused instruction (R124). -/
def wordTrap (cause : Nat) (syn : Nat) (w : BitVec 96) : Trap :=
  let f := fieldsOf w
  let fopd2 : Nat := (w.extractLsb' 0 46).toNat + (if f.xk then 2 ^ 46 else 0) + f.mod.toNat <<< 47
    + f.grd.toNat <<< 57 + (if f.gneg then 2 ^ 61 else 0)
  { cause := cause, syn := BitVec.ofNat 64 syn, opd0 := w.extractLsb' 0 64, opd1 := (w.extractLsb' 64 32).setWidth 64,
    opd2 := BitVec.ofNat 64 fopd2, opd3 := f.x.setWidth 64 }

/-- FSYN of PRIV for a decoded form in code of a class, or none (R125). -/
def privSyn (m : Mode) (opc : Nat) (f : Fields) : Option Nat :=
  if opc / 64 = 0xB && m = .group then some 1
  else if opc / 64 = 0xC && m ≠ .systemTadpole then some 2
  else if opc = 0x00F && !Forms.srReadable m (Forms.ex f 7 0) then some 3
  else if (opc = 0x243 || opc = 0x244) && m ≠ .systemTadpole then some 4
  else none

/-! ### Dependences (R157, R158) -/

/-- The names of a run of vector registers. -/
def nameRun (n k : Nat) : List Nat := (List.range k).map (n + ·)

/-- The steps of an MMA or MLOOP. -/
def mloopKc (opc : Nat) (f : Fields) : Nat := if opc = 0x144 then Forms.ex f 5 0 + 1 else 1
/-- The fragment registers of operand A, for a tile of MC (R215, R218). -/
def fragA (opc : Nat) (f : Fields) (mc : Nat) : List (List Nat) :=
  let rsa := if opc = 0x144 then Forms.ex f 11 6 else 0
  (List.range (mloopKc opc f)).map fun j => nameRun (f.a.toNat + j * rsa) (8 * 2 ^ mc)
/-- The fragment registers of operand B when B is in registers. -/
def fragB (opc : Nat) (f : Fields) (nf : Nat) : List (List Nat) :=
  let rsb := if opc = 0x144 then Forms.ex f 17 12 else 0
  (List.range (mloopKc opc f)).map fun j => nameRun (f.b.toNat + j * rsb) (8 * (nf + 1))

/-- The registers that a field of a form names as a source: vector names and uniform codes. -/
def fieldSrc (o : Operand) (code : Nat) : List Nat × List Nat :=
  match o with
  | .reg _ al sal false =>
    match regOf code with
    | .v n => (nameRun n al, [])
    | .s _ => ([], (List.range (max sal 1)).map (code + ·))
    | .w _ => ([], [code])
    | _ => ([], [])
  | _ => ([], [])

/-- The registers that a field names as a destination. -/
def fieldDst (o : Operand) (code : Nat) : List Nat × List Nat :=
  match o with
  | .reg _ al _ true =>
    match regOf code with
    | .v n => (nameRun n al, [])
    | .s _ | .w _ => ([], [code])
    | _ => ([], [])
  | _ => ([], [])

/-- The source registers of a form: vector names and uniform codes. MAT fragments are found from the handle. -/
def formSrc (s : State) (tid : Nat) (t : Thread) (opc : Nat) (f : Fields) : List Nat × List Nat :=
  match formSpec t.kind opc f with
  | none => ([], [])
  | some sp =>
    let p := [fieldSrc sp.d f.d.toNat, fieldSrc sp.a f.a.toNat, fieldSrc sp.b f.b.toNat,
      if f.xk then ([], []) else fieldSrc sp.c f.c.toNat]
    let v := (p.map (·.1)).flatten
    let u := (p.map (·.2)).flatten
    if opc = 0x143 || opc = 0x144 then
      let h := (uniVal s tid t f.d.toNat).toNat
      let fa := (fragA opc f ((h >>> 10) % 4)).flatten
      let fb := if Forms.mo f 7 7 = 1 then [] else (fragB opc f ((h >>> 12) % 64)).flatten
      (fa ++ fb, u)
    else (v, u)

/-- The predicates that a form reads beside its guard (R162, R188, R189, R201, R203, R204). -/
def predSrc (opc : Nat) (f : Fields) : List Nat :=
  match opc with
  | 0x002 => [Forms.mo f 3 0]
  | 0x003 => [Forms.mo f 3 0]
  | 0x086 => if Forms.mo f 7 7 = 1 then [Forms.ex f 3 0] else []
  | 0x091 => [Forms.ex f 3 0]
  | 0x106 => [Forms.ex f 3 0]
  | 0x109 => [Forms.ex f 3 0, Forms.ex f 7 4, Forms.ex f 11 8]
  | 0x10A => if Forms.mo f 7 7 = 1 then [Forms.ex f 3 0] else []
  | _ => []

/-- Whether a form reads a register that holds an uncorrectable error: a scalar, workgroup or predicate register that it names.
Masks and the stack are read by every instruction (R423). -/
def readsCorrupt (s : State) (tid : Nat) (t : Thread) (opc : Nat) (f : Fields) : Bool :=
  let bad := fun (sel : Nat) => t.corrupt.contains sel || (0x1C0 ≤ sel && ((s.wg t.wg).map (·.corrupt)).any fun l => t.hasWg && l.contains sel)
  t.corrupt.any (fun sel => 0x200 ≤ sel) || ((formSrc s tid t opc f).2.any fun c => bad c) || ((f.grd.toNat :: predSrc opc f).any fun n => bad (0x180 + n))

/-- UCE of a register that an instruction would read (R422, R423). -/
def corruptTrap (t : Thread) : Trap := { cause := cUCE, syn := 0x00020000, unit := some (funit 3 t.barrel) }

/-- What the front end finds at a thread's PC: a form to issue, or a fault (R109, R123-R125,
R423). -/
inductive Front where
  | form (i : Instr) (opc : Nat) (f : Fields)
  | trap (x : Trap)
  deriving DecidableEq, Repr

def front (s : State) (tid : Nat) (t : Thread) : Front :=
  match fetchAt s t.cu t.ctx t.pc with
  | .trap x => .trap x
  | .word w =>
    match decode t.kind w with
    | .illegal r c => .trap (wordTrap cIENC (iencFsyn r c) w)
    | .instr i =>
      match privSyn t.kind (opcOf w) (fieldsOf w) with
      | some n => .trap (wordTrap cPRIV n w)
      | none =>
        if t.blk.isNone && readsCorrupt s tid t (opcOf w) (fieldsOf w) then .trap (corruptTrap t)
        else .form i (opcOf w) (fieldsOf w)

/-- The names released by the last-read bits of a retiring form (R60, R217). Where LIVE is empty no handle is checked, and the
fragments are those that its bits name all the same (log 66). -/
def lrNames (s : State) (tid : Nat) (t : Thread) (opc : Nat) (f : Fields) : List Nat :=
  if !t.isGroup || !(f.lra || f.lrb || f.lrc) then []
  else
    match formSpec t.kind opc f with
    | none => []
    | some sp =>
      let h := (uniVal s tid t f.d.toNat).toNat
      let mat := opc = 0x143 || opc = 0x144
      let a := if !f.lra then [] else if mat then (fragA opc f ((h >>> 10) % 4)).flatten else (fieldSrc sp.a f.a.toNat).1
      let b := if !f.lrb then []
        else if mat then (if Forms.mo f 7 7 = 1 then [] else (fragB opc f ((h >>> 12) % 64)).flatten)
        else (fieldSrc sp.b f.b.toNat).1
      let c := if f.lrc && !f.xk then (fieldSrc sp.c f.c.toNat).1 else []
      (a ++ b ++ c).eraseDups

/-- The physical registers and uniform codes that accesses still in the log will write. -/
def pendIds (t : Thread) : List Nat :=
  (t.log.map fun e => match e.dest with | .vector l => l.map (·.2) | _ => []).flatten
def pendCodes (t : Thread) : List Nat :=
  t.log.filterMap fun e => match e.dest with | .uniform c => some c | _ => none

/-- The counter a form raises when it acts: 0 L, 1 S, 2 C, 3 M (R167). -/
def counterOf (opc : Nat) (f : Fields) : Option Nat :=
  match opc with
  | 0x180 | 0x182 | 0x184 | 0x18A | 0x18B => some 0
  | 0x181 | 0x183 | 0x185 | 0x187 | 0x18C => some 1
  | 0x186 => if f.d = 511 then some 1 else some 0
  | 0x1C0 | 0x200 | 0x201 | 0x202 | 0x203 | 0x204 => some 2
  | 0x148 => some 3
  | _ => none

/-- Whether a form acts for a thread: on LIVE for loads and MBATCH, else on EFF (R105, R167). -/
def formActs (t : Thread) (opc : Nat) (f : Fields) : Bool :=
  if opc = 0x180 || opc = 0x182 || opc = 0x184 || opc = 0x148 || opc = 0x188 || opc = 0x18F then t.live f ≠ 0
  else t.eff f ≠ 0

def Thread.counter (t : Thread) (n : Nat) : Nat :=
  match n with
  | 0 => t.cL | 1 => t.cS | 2 => t.cC | _ => t.cM

/-- Whether a form takes an operand-log entry when it acts (R236): the ACC forms but MSLP. -/
def takesEntry (opc : Nat) : Bool := opc / 64 = 6 && opc ≠ 0x18F

/-- A place at the tail of the log ring is free (R100, R237). -/
def Thread.logRoom (t : Thread) : Bool :=
  match t.log.head?, t.log.getLast? with
  | some a, some b => b.id + 1 - a.id < 64
  | _, _ => true

/-- Captured registers of a barrel that the matrix engine has still to read, and that no name holds any more: they stand in the
barrel's reserve (R31, R59). The engine reads them within 64 clk (R217). -/
def reserveUsed (s : State) (cu barrel : Nat) : Nat :=
  ((s.cu cu).mq.filter fun o => o.barrel = barrel && s.cyc < o.since + 64).foldl (fun n o =>
    n + (o.caps.filter fun id => !((s.thread o.tid).any fun t => t.vmap.any fun p => p.2.id = id)).length) 0

/-- A write of a mapped name finds its barrel's reserve of 256 registers empty (R59). -/
def reserveEmpty (s : State) (t : Thread) (opc : Nat) (f : Fields) : Bool :=
  t.isGroup && 256 ≤ reserveUsed s t.cu t.barrel &&
    (match formSpec t.kind opc f with
      | some sp => (fieldDst sp.d f.d.toNat).1.any fun n => (nget t.vmap n).isSome
      | none => false)

/-- The three conditions of R157: sources available, the counter below 63, a free log entry. A destination that keeps
lanes of its old value, or a uniform register that an access has still to write, counts as a source. Also a write waits for the
barrel's reserve (R59). -/
def ready (s : State) (tid : Nat) (t : Thread) (opc : Nat) (f : Fields) : Bool :=
  let acts := formActs t opc f
  let cnt := match counterOf opc f with | some n => !acts || t.counter n < 63 | none => true
  let ent := !takesEntry opc || !acts || t.logRoom
  let deps :=
    if t.log.isEmpty then true
    else
      let (v, u) := formSrc s tid t opc f
      let (dv, du) := match formSpec t.kind opc f with
        | some sp => fieldDst sp.d f.d.toNat
        | none => ([], [])
      let keeps := t.isGroup && t.live f ≠ 0xFFFFFFFF
      let names := v ++ (if keeps then dv else [])
      let ids := pendIds t
      let codes := pendCodes t
      (names.all fun n => match nget t.vmap n with | some p => !ids.contains p.id | none => true)
        && ((u ++ du).all fun c => !codes.contains c)
  cnt && ent && deps && !reserveEmpty s t opc f

end Sys2Proof.Machine
end

