-- ==== Sys2Proof/Machine/Issue.lean ====
section
/-! DEFINITION. How a form issues and retires: the signature, the register writes, the last-read release, the PC, and a fault
in place of all of these. Every meaning of a form is written over these operations. -/

namespace Sys2Proof.Machine

open Host (Outcome)

/-- What an instruction that retires does to its own thread: register writes, exception flags raised in EFF, the next PC
when it is not the following slot, the signature at a reset point (R175), and the clk after which a w write counts
(R185). -/
structure Done where
  writes : List Write := []
  flags : Nat := 0
  pc : Option Word64 := none
  sig : Option Word := none
  lat : Nat := 8
  deriving DecidableEq, Repr

/-- What an instruction does: it retires, it raises a fault (precise with itself as resume point, or with the next
instruction), or it is not ready. -/
inductive Act where
  | done (d : Done)
  | trap (x : Trap)
  | trapNext (x : Trap)
  | wait
  deriving DecidableEq, Repr

/-- Nothing beyond decoding, retiring and folding. -/
def Act.null : Act := .done {}

/-- TRAP with a syndrome (R53). -/
def trapSyn (syn : Nat) (lanes : Mask := 0) : Trap :=
  { cause := cTRAP, syn := BitVec.ofNat 64 syn, lanes := lanes.setWidth 64 }

/-- The budget fault of R53. -/
def budgetTrap (lanes : Mask := 0) : Trap := trapSyn 0x80000003 lanes

/-- The vector names that writes map. -/
def wroteNames (ws : List Write) : List Nat := ws.filterMap fun w => match w with | .vec n _ _ => some n | _ => none

/-- Release names that a last-read bit gives up: a name that the form itself writes has its new register already (R60). -/
def Thread.release (t : Thread) (names : List Nat) (ws : List Write) : Thread :=
  { t with vmap := t.vmap.filter fun p => !(names.contains p.1 && !(wroteNames ws).contains p.1) }

/-- The end of a form's issue: last-read release, flags, PC, hints, and the watchdog's restart (R60, R69, R112, R117, R149,
R424). `old` is the thread as its operands were read. -/
def Thread.retired (t old : Thread) (now : Nat) (names : List Nat) (f : Fields) (d : Done) : Thread :=
  let t := t.release names d.writes
  { t with fpstat := raiseFlags t.fpctl t.fpstat d.flags, pc := d.pc.getD (nextPc old.pc), blk := none, wb := none, ops := [],
           stall := f.stall.toNat, waits := false, offer := if f.yld && t.isGroup then 1 else t.offer, wdSince := now,
           stepping := if old.stepping = 1 then 2 else old.stepping }

/-- Fold a form's operation number, once for each issue, or set the signature of a reset point (R175). -/
def Thread.foldIssue (t : Thread) (opc : Nat) (sig : Option Word) : Thread :=
  match sig with
  | some v => t.setSig v
  | none => if t.blk.isSome then t else t.foldOpc opc

/-- Retire a form with its writes, and a further change `g` of its own thread; a group whose budget they pass takes TRAP
instead (R53). -/
def retire (opc : Nat) (f : Fields) (s : State) (tid : Nat) (t : Thread) (d : Done) (g : Thread → Thread := id) : State :=
  if t.fits d.writes then
    let names := lrNames s tid t opc f
    let s := applyWrites d.lat tid s d.writes
    s.modThread tid fun u => g ((u.foldIssue opc d.sig).retired t s.cyc names f d)
  else takeFault s tid (budgetTrap (t.live f)) t.pc

/-- Perform what an instruction does. -/
def actOn (opc : Nat) (f : Fields) (s : State) (tid : Nat) (t : Thread) (a : Act) : State :=
  match a with
  | .done d => retire opc f s tid t d
  | .trap x => takeFault s tid x t.pc
  | .trapNext x =>
    let names := lrNames s tid t opc f
    let s := s.modThread tid fun u => (u.foldIssue opc none).retired t s.cyc names f {}
    takeFault s tid { x with fpc := some (x.fpc.getD t.pc) } (nextPc t.pc)
  | .wait => s.modThread tid fun u => { u with waits := true }

/-- Run a form on the thread whose turn it is: not at all while it may not issue (R157), else as `body` says of the state
before it. -/
def issue (opc : Nat) (f : Fields) (s : State) (body : State → Nat → Thread → State) : Outcome State Fault Refusal :=
  match s.env.cur with
  | none => .fault .noIssuer
  | some tid =>
    match s.thread tid with
    | none => .fault .noIssuer
    | some t =>
      .next (if ready s tid t opc f then body s tid t else s.modThread tid fun u => { u with waits := true })

/-- A form that only reads and writes its own thread's registers. -/
def issueAct (opc : Nat) (f : Fields) (s : State) (act : State → Nat → Thread → Act) : Outcome State Fault Refusal :=
  issue opc f s fun s tid t => actOn opc f s tid t (act s tid t)

end Sys2Proof.Machine
end

