-- ==== Sys2Proof/Machine/Access.lean ====
section
/-! DEFINITION. The operand log (R100-R102, R236-R239): entering an access at issue, checking it, performing what can be
performed, faulting and completing it. -/

namespace Sys2Proof.Machine

/-! ### Fields of an access -/

def accAs (f : Fields) : Nat := Forms.mo f 1 0
def accScope (f : Fields) : Nat := Forms.mo f 3 2
def accOrder (f : Fields) : Nat := Forms.mo f 5 4
/-- ATOM and RED. -/
def isAtomic (opc : Nat) : Bool := opc = 0x186 || opc = 0x187
/-- Forms with the width field W (R234). -/
def hasW (opc : Nat) : Bool := (0x180 ≤ opc && opc ≤ 0x185) || opc = 0x18A || opc = 0x18B
/-- Loads, for the lanes that act and for the counter (R105, R236). -/
def isLoad (opc : Nat) : Bool := opc = 0x180 || opc = 0x182 || opc = 0x184
def isStore (opc : Nat) : Bool := opc = 0x181 || opc = 0x183 || opc = 0x185
/-- The bytes that a lane moves (R234, R243); 1 for the forms on lines and sectors. -/
def accBytes (opc : Nat) (f : Fields) : Nat :=
  if hasW opc then 2 ^ Forms.mo f 9 7
  else if isAtomic opc then (if tyWide (Forms.ex f 7 4) then 8 else 4) else 1
/-- Forms that act once for the group (R232, R240, R244, R249, R253). -/
def isOnce (opc : Nat) (f : Fields) : Bool :=
  match opc with
  | 0x182 | 0x183 | 0x18A | 0x18B | 0x18E => true
  | 0x184 | 0x185 => !(regOf f.d.toNat).isVector
  | 0x186 => match regOf f.d.toNat with | .s _ | .w _ => true | _ => false
  | _ => false
/-- Registers of a data operand of so many bytes. -/
def dataRegs (n : Nat) : Nat := if n ≤ 4 then 1 else n / 4
/-- BE of ST and STL (R241). -/
def hasBe (opc : Nat) (f : Fields) : Bool := (opc = 0x181 || opc = 0x185) && Forms.mo f 6 6 = 1
/-- Whether a form reads its bytes, or writes them, for permission (R238 step 4, R249, R252). -/
def needsRead (opc : Nat) (f : Fields) : Bool :=
  isLoad opc || isAtomic opc || opc = 0x189 || opc = 0x18A || opc = 0x18C || opc = 0x18E || (opc = 0x18B && Forms.mo f 6 6 = 0)
def needsWrite (opc : Nat) (f : Fields) : Bool :=
  isStore opc || isAtomic opc || opc = 0x18A || opc = 0x18D || (opc = 0x18B && Forms.mo f 6 6 = 1)

/-! ### Captured operands (R239) -/

/-- Capture a source field of `k` vector registers. -/
def capture (s : State) (tid : Nat) (t : Thread) (code k : Nat) : OpVal :=
  match regOf code with
  | .v n => .vector ((List.range k).map fun j => (nget t.vmap (n + j)).getD ⟨0, []⟩)
  | _ => .uniform (uniVal s tid t code)

/-- Register `j` of a captured operand in lane `l`. -/
def OpVal.lane (v : OpVal) (j l : Nat) : Word :=
  match v with
  | .unused => 0
  | .uniform x => if j = 0 then x.setWidth 32 else if j = 1 then x.extractLsb' 32 32 else 0
  | .vector rs => ((rs[j]?).bind fun r => r.val[l]?).getD 0
/-- The 64 bits of a captured operand in lane `l`. -/
def OpVal.lane64 (v : OpVal) (l : Nat) : Word64 :=
  match v with
  | .uniform x => x
  | _ => (v.lane 0 l).setWidth 64 ||| ((v.lane 1 l).setWidth 64 <<< 32)
/-- The low `n` bytes of a captured operand in lane `l`. -/
def OpVal.bytes (v : OpVal) (l n : Nat) : List Byte :=
  (List.range n).map fun i => BitVec.ofNat 8 ((v.lane (i / 4) l).toNat >>> (8 * (i % 4)))

/-- The address of a lane (R233). -/
def LogEntry.addr (e : LogEntry) (l : Nat) : Word64 :=
  if isAtomic e.opc then e.opA.lane64 l + sext64 15 (Forms.ex e.f 22 8)
  else
    let idx : Word64 := match e.opB with
      | .vector _ => (e.opB.lane 0 l).setWidth 64
      | v => v.lane64 l
    if e.f.xk then e.opA.lane64 l + idx + sext64 32 e.f.x.toNat
    else e.opA.lane64 l + (idx <<< (Forms.ex e.f 2 0))

/-- The lanes that an entry acts for: every lane of EFFM, or one for the group. -/
def LogEntry.lanes (e : LogEntry) : List Nat := if e.once then [lowestLane e.effm] else lanesOf e.effm
/-- Lanes still to be performed. -/
def LogEntry.todo (e : LogEntry) : List Nat := e.lanes.filter fun l => !e.done.getLsbD l && !e.flt.getLsbD l
def LogEntry.bytes (e : LogEntry) : Nat := accBytes e.opc e.f
/-- A helper lane's access suppresses its faults (R47); so does one performed for helper lanes alone (R240). -/
def LogEntry.quiet (e : LogEntry) (l : Nat) : Bool :=
  isLoad e.opc && (if e.once then e.effm &&& ~~~e.helper = 0 else e.helper.getLsbD l)

/-- A lane that acts only as a helper: it lies outside EFF (R46, R149). -/
def LogEntry.helps (e : LogEntry) (l : Nat) : Bool :=
  if e.once then e.effm &&& ~~~e.helper = 0 else e.helper.getLsbD l

/-- The parts of a lane's access (R97): address and length. -/
def accParts (a n : Nat) : List (Nat × Nat) :=
  if n ≤ 16 then [(a, n)] else (List.range (n / 16)).map fun i => (a + 16 * i, 16)

/-! ### Checks (R238) -/

/-- A failed check: its order, cause and syndrome. -/
structure Failed where
  rank : Nat
  cause : Nat
  syn : Nat
  deriving DecidableEq, Repr

/-- The syndrome of R256. -/
def accSyn (opc : Nat) (f : Fields) (bad16 : Bool) : Nat :=
  (if hasW opc then Forms.mo f 9 7 else 0) + (if bad16 then 8 else 0) + 16 * (opc % 16)

/-- Bytes of a thread's scratch allocation; none for an agent or a tadpole whose group has exited (R75, R399). -/
def scratchBytes (s : State) (t : Thread) : Nat :=
  let here := t.isGroup || (match t.target.bind s.thread with | some g => g.place ≠ .exited | none => false)
  if t.hasWg && here then ((s.wg t.wg).map (·.spBytes)).getD 0 else 0

/-- Steps 1 and 2, made at issue (R397). -/
def check12 (s : State) (t : Thread) (opc : Nat) (f : Fields) (addr : Word64) : Option Failed :=
  let n := accBytes opc f
  let wide := 16 < n
  let a := addr.toNat
  if a % (if wide then 16 else n) ≠ 0 then some ⟨1, cMISAL, accSyn opc f wide⟩
  else
    match accAs f with
    | 0 => if 2 ^ 57 ≤ a then some ⟨2, cXLAT, accSyn opc f false⟩ else none
    | 1 => if scratchBytes s t < a + n then some ⟨2, cPERM, accSyn opc f false⟩ else none
    | _ => none

/-- The die's walker reads module-resident tables through its L2 with one token, for a range entry that it does not keep and for every
page that the CU does not keep (R441, log 23). -/
def walkReads (s : State) (cu c va : Nat) : State :=
  let k := s.ctx c
  if (rlbXl s cu c va).isSome then s
  else
    let cached := (ngetD s.mem.walkers (cu / 64) []).find? fun p => p.1 = c && reCovers p.2 (va / 4096)
    let n := bits k.rtcnt 16 0
    let entries := if cached.isSome || k.rtbase.getLsbD 0 then [] else rangeReads s k (va / 4096) 18 0 n
    let pages := match (cached.map (·.2)).orElse fun _ => rangeSearch s k (va / 4096) 18 0 n with
      | some e => if reKind e = 1 then pageReads s (va / 4096 - reVbase e) 4 (rePbase e) else []
      | none => []
    let secs := ((entries ++ pages).filterMap fun a => if a < Config.poolBytes then some (sectorOf a) else none).eraseDups
    secs.foldl (fun s sec => (l2Fetch s (dieOf cu) sec false (s.smeta sec).t64).1) s

/-- Translate for a thread, remembering the tile touched (R21); a lost tile is DIEL (R22). -/
def xlate (s : State) (cu c va : Nat) : State × Except Nat Xl :=
  match translate s cu c va with
  | none => (walkReads s cu c va, .error cXLAT)
  | some x =>
    let s := (rlbFill (walkReads s cu c va) cu c va x).touch c x
    if s.tileLost x then (s, .error cDIEL) else (s, .ok x)

/-- Translate a system address of this module for a context, under its partition key (R75, R76). -/
def xlateKey (s : State) (c va : Nat) : State × Except Nat Xl :=
  match keyXl s (s.ctx c).key va with
  | none => (s, .error cXLAT)
  | some x =>
    let s := s.touch c x
    if s.tileLost x then (s, .error cDIEL) else (s, .ok x)

/-- Kinds of sector that a lock may not name (R249). -/
def lockBad (s : State) (sys : Bool) (x : Xl) : Bool :=
  reImm x.e || x.host || (s.winOf x.sector).isSome || (sys && !reCoh x.e)

/-- Steps 3 to 6 of one part. -/
def checkPart (s : State) (t : Thread) (opc : Nat) (f : Fields) (sys : Bool) (va : Nat) : State × Except Failed Target :=
  let syn := accSyn opc f false
  match if sys then xlateKey s t.ctx va else xlate s t.cu t.ctx va with
  | (s, .error c) => (s, .error ⟨3, c, if c = cDIEL then 0 else syn⟩)
  | (s, .ok x) =>
    let win := !x.host && (s.winOf x.sector).isSome
    (s, if opc = 0x18A && lockBad s sys x then .error ⟨3, cLOCKB, 3⟩
      else if (needsRead opc f && !reRd x.e) || (needsWrite opc f && (!reW x.e || reImm x.e)) then .error ⟨4, cPERM, syn⟩
      else if needsWrite opc f && win then .error ⟨5, cFMTW, syn⟩
      else if opc = 0x18A && 4 ≤ t.locks.length then .error ⟨6, cLOCKB, 1⟩
      else if opc = 0x18A && t.locks.any (fun k => k.2.sector = x.sector) then .error ⟨6, cLOCKB, 2⟩
      else .ok (if x.host then .host x else .pool x sys))

/-- Where the parts of a lane's access go. -/
inductive Where where
  | here (l : List (Target × Nat))
  | remote (mod : Nat)

/-- The parts in which a module performs an access: 16 bytes each, and 64 bytes that fill a sector as one (R97, R304). The
manual states no order among the parts; here they are performed together, in rising order (log 41). -/
def localParts (a n : Nat) : List (Nat × Nat) := if n = 64 && a % 64 = 0 then [(a, 64)] else accParts a n

/-- The answer of a module whose range table marks the range of a system access as coherent (R83, log 39): the access has passed the
checks there, and the L2 of the requester performs it under the budget told. -/
def coherentAnswer (t64 : Bool) : Nat := if t64 then 0x101 else 0x100

/-- The key of a part of a lane whose destination has answered so. -/
def cohKey (l i : Nat) : Nat := 4 * l + i

/-- A place of another module's coherent range, as this module's L2s name it (R301). -/
def remoteXl (s : State) (c md va : Nat) (t64 : Bool) : Xl :=
  ⟨2 ^ 234 + (if t64 then 2 ^ 235 else 0), remoteSec (s.ctx c).key md va * 64 + va % 64⟩

/-- Part `i` of a lane's system access to another module, where that one has found its range coherent. -/
def LogEntry.cohPart (e : LogEntry) (s : State) (c md l i va : Nat) : Option Xl :=
  (nget e.coh (cohKey l i)).map fun f => remoteXl s c md va (f = coherentAnswer true)

/-- The places at which this module's L2 performs a lane of a system access to another module: those of every part, once each has
been found coherent there. -/
def LogEntry.cohPlaces (e : LogEntry) (s : State) (c md l : Nat) : Option (List (Target × Nat)) :=
  let a := (e.addr l).toNat % 2 ^ 52
  let ps := accParts a e.bytes
  let xs := (List.range ps.length).filterMap fun i => (ps[i]?).bind fun p => e.cohPart s c md l i p.1
  match xs with
  | [] => none
  | x :: _ =>
    if xs.length ≠ ps.length then none
    else some ((localParts a e.bytes).map fun p => (.pool (remoteXl s c md p.1 (reT64 x.e)) true, p.2))

/-- Steps 3 to 6 of a lane. System addresses of another module are checked there (R75, R318), by a packet of each part; where the
destination's range is coherent this module's L2 then performs the access, less an atomic (R83, R301, R316). -/
def checkLane (s : State) (t : Thread) (e : LogEntry) (l : Nat) : State × Except Failed Where :=
  let a := (e.addr l).toNat
  let n := e.bytes
  match accAs e.f with
  | 1 => (s, .ok (.here ((localParts a n).map fun p => (.scratch t.wg p.1, p.2))))
  | as =>
    let sys := as = 2
    let md := a / 2 ^ 52
    let syn := accSyn e.opc e.f false
    if sys && md ≠ s.mdl.number then
      match nget s.fab.peers md with
      | none => (s, .error ⟨3, cXLAT, syn⟩)
      | some .lost => (s, .error ⟨3, cFABF, 5⟩)
      | some _ =>
        match e.cohPlaces s t.ctx md l with
        | none => (s, .ok (.remote md))
        | some ps =>
          let sec := remoteSec (s.ctx t.ctx).key md (a % 2 ^ 52)
          if e.opc = 0x18A && 4 ≤ t.locks.length then (s, .error ⟨6, cLOCKB, 1⟩)
          else if e.opc = 0x18A && t.locks.any (fun k => k.2.sector = sec) then (s, .error ⟨6, cLOCKB, 2⟩)
          else (s, .ok (.here ps))
    else
      let va := if sys then a % 2 ^ 52 else a
      (localParts va n).foldl (fun (acc : State × Except Failed Where) p =>
        match acc with
        | (s, .error x) => (s, .error x)
        | (s, .ok w) =>
          match checkPart s t e.opc e.f sys p.1, w with
          | (s, .error x), _ => (s, .error x)
          | (s, .ok y), .here l => (s, .ok (.here (l ++ [(y, p.2)])))
          | (s, .ok _), w => (s, .ok w)) (s, .ok (.here []))

/-- Steps 1 to 6 of a lane (R238); a reissue makes them again. -/
def checkAll (s : State) (t : Thread) (e : LogEntry) (l : Nat) : State × Except Failed Where :=
  match check12 s t e.opc e.f (e.addr l) with
  | some x => (s, .error x)
  | none => checkLane s t e l

/-! ### Entries -/

def Thread.entry (t : Thread) (eid : Nat) : Option LogEntry := t.log.find? fun e => e.id = eid
def Thread.modEntry (t : Thread) (eid : Nat) (g : LogEntry → LogEntry) : Thread :=
  { t with log := t.log.map fun e => if e.id = eid then g e else e }
def State.modEntry (s : State) (tid eid : Nat) (g : LogEntry → LogEntry) : State :=
  s.modThread tid fun t => t.modEntry eid g
def State.entry (s : State) (tid eid : Nat) : Option LogEntry := (s.thread tid).bind fun t => t.entry eid

/-- The offset of an entry from the head of the log ring (R237, R238). -/
def Thread.ringOffset (t : Thread) (eid : Nat) : Nat := eid - ((t.log.head?).map (·.id)).getD eid

/-- Lower a counter (R167). -/
def Thread.countDown (t : Thread) (n : Nat) : Thread :=
  match n with
  | 0 => { t with cL := t.cL - 1 }
  | 1 => { t with cS := t.cS - 1 }
  | 2 => { t with cC := t.cC - 1 }
  | _ => { t with cM := t.cM - 1 }
def Thread.countUp (t : Thread) (n : Nat) : Thread :=
  match n with
  | 0 => { t with cL := t.cL + 1 }
  | 1 => { t with cS := t.cS + 1 }
  | 2 => { t with cC := t.cC + 1 }
  | _ => { t with cM := t.cM + 1 }

/-- What the fault of an entry presents (R238, R403). DIEL names neither lane nor operand; of an access toward a lost peer the registers
are R341's, the address as that of the failing packet, and FOPD1 the entry's offset, since no command failed (R346, log 56). -/
def entryTrap (t : Thread) (e : LogEntry) : Trap :=
  let failed := e.flt &&& ~~~e.done
  let addr := e.addr (lowestLane failed)
  let off : Word64 := BitVec.ofNat 64 (t.ringOffset e.id)
  let x : Trap := { cause := e.cause, syn := BitVec.ofNat 64 e.syn, unit := some (funit 8 0), fpc := some e.pc, async := true }
  if e.cause = cDIEL then { x with imp := true }
  else if e.cause = cFABF then { x with opd1 := off, opd2 := addr }
  else { x with lanes := failed.setWidth 64, opd0 := addr, opd1 := off }

/-- An access whose group has ended is not performed for its failing lanes: a system tadpole of the context is spawned, with
a job capability and IMP set (R166). -/
def orphanFault (s : State) (t : Thread) (x : Trap) : State :=
  let fr := { faultRec s t x with cap := jobCap t.ctx }
  if (s.ctx t.ctx).sysent = 0 then killCtx s t.ctx
  else
    s.modCu t.cu fun c =>
      let q : Spawn :=
        { time := fr.time.toNat, barrel := t.barrel, slot := t.slot, tid := 0, hasTid := false, ctx := t.ctx, sys := true,
          notice := false, agent := false, fr := fr, tkind := tkindOf true false false false true (s.halting t.ctx) 0 }
      { c with spawnq := insertSpawn c.spawnq q }

/-- Mark lanes of an entry as failed and freeze its group at this boundary (R101, R102). The entry's cause is the first check
in order that any lane failed. A group that brumation alone holds, or that is parked, keeps the cause of the oldest entry in
program order for its resume or restore (R102, R388). -/
def markFault (s : State) (tid eid : Nat) (lanes : Mask) (x : Failed) : State :=
  match s.thread tid with
  | none => s
  | some t =>
    match t.entry eid with
    | none => s
    | some e =>
      let first := e.state ≠ 1
      let e' := { e with flt := e.flt ||| lanes, state := 1 }
      let e' := if first || x.rank < e.rank then { e' with cause := x.cause, syn := x.syn, rank := x.rank } else e'
      if t.place = .exited then
        let s := s.modEntry tid eid fun _ => { e with done := e.done ||| lanes }
        orphanFault s t (entryTrap t e')
      else
        let s := s.modEntry tid eid fun _ => e'
        let oldest := ((t.modEntry eid fun _ => e').log.find? fun x => x.state = 1).map (·.id) = some eid
        let kept := match t.postCause with | some fr => bits fr.unit 7 4 ≠ 8 | none => false
        let own := (t.fz.map (·.byFault)).getD false
        if t.fz.isSome && t.stepping ≠ 0 then takeFault s tid (entryTrap t e') t.pc
        else if t.fz.isSome || t.place = .parked then
          if own || kept || !oldest then s
          else s.modThread tid fun u => { u with postCause := some (faultRec s t (entryTrap t e')) }
        else if first then takeFault s tid (entryTrap t e') t.pc
        else s

/-! ### Completion -/

/-- A loaded value of `n` bytes as its register pattern (R234). -/
def extended (e : LogEntry) (x : Nat) : Nat :=
  if hasW e.opc && Forms.mo e.f 6 6 = 1 && e.opc ≠ 0x18B && e.bytes ≤ 2 then (sext64 (8 * e.bytes) x).toNat else x

/-- The key of a result that a tadpole puts (R411). -/
def putKey (l j : Nat) : Nat := 16 * l + j

/-- Part `j` of a lane's result: what a tadpole put for a faulted lane, or 0; else what was loaded (R234, R411). -/
def LogEntry.part (e : LogEntry) (l j : Nat) : Word :=
  if e.flt.getLsbD l then ngetD e.put (putKey l j) 0 else BitVec.ofNat 32 (extended e (ngetD e.res l 0).toNat >>> (32 * j))

/-- Write an entry's results in the lanes of a mask: to the registers allocated at its issue, unless their names have been
remapped since (R101). A w register takes its value at this clk (R63); an ended group writes none (R166). -/
def writeResults (s : State) (tid : Nat) (e : LogEntry) (mask : Mask) : State :=
  match e.dest with
  | .none => s
  | .uniform code =>
    let l := lowestLane e.effm
    let x := extended e (ngetD e.res l 0).toNat
    let v : Word64 :=
      if e.flt ≠ 0 then (e.part l 0).setWidth 64 ||| ((e.part l 1).setWidth 64 <<< 32)
      else if isAtomic e.opc then uniStore (Forms.ex e.f 7 4) x else BitVec.ofNat 64 x
    if ((s.thread tid).map (·.place)) = some .exited then s else applyWrite 0 tid s (.uni code v)
  | .vector names =>
    s.modThread tid fun t =>
      (List.range names.length).foldl (fun t j =>
        match names[j]? with
        | none => t
        | some (n, id) =>
          match nget t.vmap n with
          | some p =>
            if p.id = id then
              let val := fun l =>
                if mask.getLsbD l && !t.deadm.getLsbD l then e.part l j else t.vlane n l
              { t with vmap := nset t.vmap n { p with val := mkLanes val } }
            else t
          | none => t) t

/-- The entry completes: results, the flags of a marked sector (R156), the counter, and the entry is freed (R100). -/
def completeEntry (s : State) (tid eid : Nat) : State :=
  match s.entry tid eid with
  | none => s
  | some e =>
    let s := writeResults s tid e (if e.once then e.effm else e.done ||| e.flt)
    s.modThread tid fun t =>
      -- a load in system space, on which the group waited, is there: the watchdog counts from now on (R424)
      let t := if t.waits && isLoad e.opc && accAs e.f = 2 then { t with wdSince := s.cyc } else t
      let t := { t with log := t.log.filter fun x => x.id ≠ eid,
                        fpstat := if e.wo then raiseFlags t.fpctl t.fpstat (flagWO + flagOF) else t.fpstat }
      match counterOf e.opc e.f with
      | some n => t.countDown n
      | none => t

/-! ### Order within a group (R85, R87, R88, R91, R247, R252, R253, R317) -/

def isFence (e : LogEntry) : Bool := e.opc = 0x188
/-- Later accesses wait for it: fences, acquires and MARM. -/
def holdsLater (e : LogEntry) : Bool :=
  isFence e || e.opc = 0x18E
    || ((accOrder e.f = 1 || accOrder e.f = 3) && (e.opc = 0x184 || isAtomic e.opc || e.opc = 0x18A))
/-- It performs a release action first. -/
def isRelease (e : LogEntry) : Bool :=
  (accOrder e.f = 2 || accOrder e.f = 3) && (e.opc = 0x184 || e.opc = 0x185 || isAtomic e.opc || e.opc = 0x18B || isFence e)
def isAcquire (e : LogEntry) : Bool :=
  (accOrder e.f = 1 || accOrder e.f = 3) && (e.opc = 0x184 || isAtomic e.opc || e.opc = 0x18A || isFence e)

/-- The bytes of a lane's access, widened to the sector for forms on sectors and for system space. -/
def span (e : LogEntry) (l : Nat) : Nat × Nat :=
  let a := (e.addr l).toNat
  if accAs e.f = 2 || 0x189 ≤ e.opc then (a / 64 * 64, a / 64 * 64 + (a % 64 + e.bytes + 63) / 64 * 64) else (a, a + e.bytes)

/-- The offsets within a page that a span covers: those past a page's end stand at the start of the next. -/
def pageSpans (p : Nat × Nat) : List (Nat × Nat) :=
  let a := p.1 % 4096
  let z := a + (p.2 - p.1)
  if z ≤ 4096 then [(a, z)] else [(a, 4096), (0, z - 4096)]

def meet (p q : Nat × Nat) : Bool := p.1 < q.2 && q.1 < p.2

/-- Whether lane `i` of one entry and lane `j` of another may touch one byte: page offsets are compared, since two addresses may
name one place. -/
def lanesMeet (x : LogEntry) (i : Nat) (e : LogEntry) (j : Nat) : Bool :=
  (pageSpans (span x i)).any fun p => (pageSpans (span e j)).any fun q => meet p q

/-- Whether accesses of two entries may touch one byte. -/
def overlaps (x e : LogEntry) : Bool :=
  if isFence x || isFence e || (accAs x.f = 1) ≠ (accAs e.f = 1) then false
  else x.lanes.any fun i => e.lanes.any fun j => lanesMeet x i e j

/-- Earlier entries of the log. -/
def Thread.before (t : Thread) (eid : Nat) : List LogEntry := t.log.takeWhile fun x => x.id ≠ eid

/-- Whether the order of R85, R87 and R247 lets an entry be performed. A release at any scope waits until every earlier access
has completed, a system store with its acknowledgement; the manual asks for the acknowledgement at SY only (R88, log 41). -/
def mayPerform (t : Thread) (e : LogEntry) : Bool :=
  let old := (t.before e.id).filter fun x => x.opc ≠ 0x189
  if isRelease e then old.isEmpty
  else if isFence e && accOrder e.f = 1 then
    old.all fun x => !isFence x && counterOf x.opc x.f ≠ some 0
  else old.all fun x => !holdsLater x && !overlaps x e

/-- Earlier commands on the fabric are complete, as a release at SY asks (R334). -/
def fabricQuiet (t : Thread) (mark : Nat) : Bool := t.fOpen.all fun n => mark < n

/-- Go on with the release action of a thread (R88): write back what was dirty when it began. `none` once done. -/
def releaseWork (s : State) (cu scope : Nat) (wb : Option (List Nat)) : State × List Nat :=
  if scope = 0 then (s, [])
  else flushAll s cu (wb.getD (dirtySectors s cu))

/-! ### Atomic operations (R243) -/

/-- The new value of an atomic. -/
def atomNew (op ty old b c : Nat) : Nat :=
  let w := if tyWide ty then 64 else 32
  let b := b % 2 ^ w
  let c := c % 2 ^ w
  match op with
  | 0 =>
    if ty = 6 then (f32.add 0 (f32.val old) (f32.val b)).1
    else if ty = 10 || ty = 11 then
      let k := if ty = 10 then f16 else bf16
      Arith.packed (fun x y => (k.add 0 (k.val x) (k.val y)).1) old b
    else (old + b) % 2 ^ w
  | 1 => if ty = 6 then (f32.minmax false old b).1 else Arith.min ty old b
  | 2 => if ty = 6 then (f32.minmax true old b).1 else Arith.max ty old b
  | 3 => old &&& b
  | 4 => old ||| b
  | 5 => old ^^^ b
  | 6 => b
  | 7 => if old = c then b else old
  | 8 => if b ≤ old then 0 else old + 1
  | _ => if old = 0 || b < old then b else old - 1

/-- What an atomic writes: nothing when it is a CAS that fails (R244). -/
def atomWrite (op ty old b c : Nat) : Option Nat :=
  if op = 7 && old ≠ c % 2 ^ (if tyWide ty then 64 else 32) then none else some (atomNew op ty old b c)

def LogEntry.atomB (e : LogEntry) (l : Nat) : Word64 :=
  if e.bytes = 8 then e.opB.lane64 l else (e.opB.lane 0 l).setWidth 64
def LogEntry.atomC (e : LogEntry) (l : Nat) : Word64 :=
  if e.bytes = 8 then e.opC.lane64 l else (e.opC.lane 0 l).setWidth 64

/-- The operation of one part of a lane, `off` bytes into its data. -/
def LogEntry.op (e : LogEntry) (l off n : Nat) : MemOp :=
  if isAtomic e.opc then
    .atomic fun old => atomWrite (Forms.ex e.f 3 0) (Forms.ex e.f 7 4) old (e.atomB l).toNat (e.atomC l).toNat
  else if isStore e.opc then
    let be := (e.opC.lane 0 l).toNat
    .store (fun i => !hasBe e.opc e.f || be.testBit (off + i)) (((e.opD.bytes l (off + n))).drop off)
  else if e.opc = 0x18B then .store (fun _ => true) (e.opC.bytes l n)
  else .load

/-! ### Performing lanes -/

/-- The lanes of a thread that have died. -/
def State.deadOf (s : State) (tid : Nat) : Mask := ((s.thread tid).map (·.deadm)).getD 0
/-- A lane whose access may raise flags: inside EFF and alive (R149). -/
def LogEntry.raises (e : LogEntry) (l : Nat) (dead : Mask) : Bool :=
  !e.helps l && (if e.once then e.effm &&& ~~~dead ≠ 0 else !dead.getLsbD l)

/-- Mark a lane performed, with a result. A lane outside EFF raises no flag, nor one that has died since its issue (R149, log 57). -/
def laneDone (s : State) (tid eid l : Nat) (res : Option Nat) (wo : Bool) : State :=
  let dead := s.deadOf tid
  s.modEntry tid eid fun e =>
    { e with done := e.done ||| (if e.once then e.effm else BitVec.ofNat 32 (2 ^ l)), wo := e.wo || (wo && e.raises l dead),
             res := match res with | some x => nset e.res l (BitVec.ofNat 512 x) | none => e.res }

/-- Perform every part of a lane, or none (log 41): the state that remains when a part must wait holds its request only. -/
def performParts (s : State) (tid : Nat) (t : Thread) (e : LogEntry) (l scope : Nat) (ps : List (Target × Nat)) :
    State × Option Got :=
  let r := ps.foldl (fun (acc : State × Option Got × Nat) p =>
    match acc with
    | (s, none, k) => (s, none, k)
    | (s, some g, k) =>
      match perform s t.cu tid scope p.1 p.2 (e.op l k p.2) with
      | (s', some h) => (s', some ⟨g.data ++ h.data, g.poi || h.poi, g.wo || h.wo⟩, k + p.2)
      | (_, none) => (s, none, k)) (s, some ⟨[], false, false⟩, 0)
  match r with
  | (s', some g, _) => (s', some g)
  | (_, none, k) =>
    match (ps.foldl (fun (acc : Nat × Option (Target × Nat)) p =>
      (acc.1 + p.2, if acc.1 = k && acc.2.isNone then some p else acc.2)) (0, none)).2 with
    | some p => ((perform s t.cu tid scope p.1 p.2 (e.op l k p.2)).1, none)
    | none => (s, none)

/-- A packet with a key and a destination, everything else empty (R315). -/
def Packet.blank : Packet :=
  { pkind := 0, pkey := 0, smod := 0, dmod := 0, plane := 0, daddr := 0, len := 0, mbox := 0, xid := 0, pseq := 0, att := 0,
    last := false, ben := 0, epoch := 0, group := 0, rop := 0, ver := 0, itime := 0, payload := [], status := 0, bitmap := 0,
    op := 0, ty := 0, opB := 0, opC := 0, pcrc := 0 }

/-- The virtual channel of a packet's kind (R311). -/
def packetVc (p : Packet) : Nat := if p.pkind = 10 then 2 else if [2, 8, 9, 11].contains p.pkind then 1 else 0

/-- The header flit of a packet, less its PCRC (R315). -/
def packetHeader (p : Packet) : Nat :=
  fieldAt p.itime 32 448 + fieldAt p.ben.toNat 16 320 + fieldAt p.epoch 16 304 + fieldAt p.group 8 296 + fieldAt p.rop 4 292
    + fieldAt p.ver 8 284 + fieldAt p.pkey 16 240 + fieldAt p.dmod 12 228 + fieldAt p.smod 12 216 + fieldAt p.plane 6 210
    + fieldAt (packetVc p) 2 208 + fieldAt p.pkind 4 204 + fieldAt p.len 12 192 + fieldAt p.daddr.toNat 64 128
    + fieldAt p.mbox.toNat 64 64 + fieldAt p.xid 24 40 + fieldAt p.pseq 32 8 + fieldAt p.att 2 6 + (if p.last then 1 else 0)

/-- What the spec gives no place in header or payload, as bytes: where a packet has such values they are covered too (log 43). -/
def packetRest (p : Packet) : List Byte :=
  if p.status = 0 && p.bitmap = 0 && p.op = 0 && p.ty = 0 && p.opB = 0 && p.opC = 0 then [] else
  leBytes 8 p.status ++ leBytes 8 p.bitmap.toNat ++ leBytes 1 p.op ++ leBytes 1 p.ty ++ leBytes 8 p.opB.toNat ++ leBytes 8 p.opC.toNat

/-- The CRC-32C of header bits 479:0 and the payload (R312). -/
def packetCrc (p : Packet) : Word := crc32c (leBytes 60 (packetHeader p) ++ p.payload ++ packetRest p)
/-- A packet with its PCRC. -/
def sealed (p : Packet) : Packet := { p with pcrc := packetCrc p }
/-- The 512 bits of the header flit. -/
def packetImage (p : Packet) : Nat := p.pcrc.toNat * 2 ^ 480 + packetHeader p
/-- A packet was injected 1 ms ago or more (R314). -/
def expired (s : State) (p : Packet) : Bool := decide (1000000 ≤ (s.ns + 2 ^ 32 - p.itime) % 2 ^ 32)

/-- Flits of a packet: its header and its payload (R312). -/
def packetFlits (p : Packet) : Nat := 1 + (p.payload.length + 63) / 64

/-- Flits queued for injection at a port: one of 64 bytes takes 18 twenty-fifths of a clk at 200 GB/s (R310). -/
def portQueue (s : State) (p : Nat) : Nat := (ngetD s.fab.ports p 0 - 25 * s.env.clk + 17) / 18

/-- The plane of a packet: of the ports that are up, the one with the fewest flits queued, the lowest of equals (R313). -/
def choosePlane (s : State) : Nat :=
  let up := (List.range 64).filter fun p => s.fab.fpm.getLsbD p
  up.foldl (fun acc p => if portQueue s p < portQueue s acc then p else acc) ((up.head?).getD 0)

/-- A packet takes its place in its port's queue. -/
def queueFlits (s : State) (p : Packet) : State :=
  s.modFab fun x => { x with ports := nset x.ports p.plane (max (ngetD x.ports p.plane 0) (25 * s.env.clk) + 18 * packetFlits p) }

/-- Whether packets for a module are injected, or held at the sender (R345). -/
def peerUp (s : State) (md : Nat) : Bool :=
  md = s.mdl.number || (match nget s.fab.peers md with | some .up => true | _ => false)

/-- A packet enters the fabric on the plane chosen now, with its injection time: at this module's own ports, or at its first switch
when that replicates or combines it. It leaves as it was injected, which is what the sender keeps (R313, R314). -/
def inject (s : State) (p : Packet) (sw : Bool) : State × Packet :=
  let p := sealed { p with plane := if p.pkind = 4 then p.group % 64 else choosePlane s, itime := s.ns % 2 ^ 32 }
  let s := queueFlits s p
  ({ s with fab := { s.fab with net := if !sw && p.dmod = s.mdl.number then s.fab.net ++ [p] else s.fab.net,
                                up := if sw then s.fab.up ++ [p] else s.fab.up } }, p)

/-- The modules that a packet is for: its destination, or the members of its group. -/
def packetPeers (s : State) (p : Packet) (sw : Bool) : List Nat :=
  if !sw then [p.dmod]
  else
    let g := ngetD (s.part p.pkey).groups p.group McGroup.reset
    (List.range (bits g.ctl 6 0)).map fun i => bits (ngetD g.live i 0) 11 0

/-- A packet may be injected: no module that it is for is in recovery or lost, or it goes to none (R345). -/
def mayLeave (s : State) (p : Packet) (sw : Bool) : Bool :=
  (packetPeers s p sw).all fun m => peerUp s m || (sw && (match nget s.fab.peers m with | some (.recov _) => false | _ => true))

/-- Send a request-channel packet; it is kept until acknowledged (R314). `sw` tells that the first switch replicates or combines
it. -/
def sendPacket (s : State) (p : Packet) (sw : Bool := false) : State :=
  let p := { p with smod := s.mdl.number }
  let go := mayLeave s p sw
  let (s, p) := if go then inject s p sw else (s, p)
  { s with fab := { s.fab with unacked := s.fab.unacked ++ [{ pkt := p, since := s.env.clk, inj := go, sw := sw }] } }

/-- Send the packets of a lane's access to another module, one for each part (R316); of LNLK, LNUL and MARM, whose effect is not the
destination's, they ask for the checks alone, under a code of the form (R249, R253, log 39). -/
def sendLane (s : State) (tid : Nat) (t : Thread) (e : LogEntry) (l md : Nat) : State :=
  let a := (e.addr l).toNat % 2 ^ 52
  let parts := accParts a e.bytes
  let s := (List.range parts.length).foldl (fun s i =>
    match parts[i]? with
    | none => s
    | some (va, n) =>
      let (id, s) := s.fresh
      let xid := id % 2 ^ 24
      let kind := if isAtomic e.opc then 7 else if isStore e.opc then 6 else 5
      let check := if isAtomic e.opc || isStore e.opc || isLoad e.opc then none else some (e.opc % 16, Forms.mo e.f 6 6)
      let be := (e.opC.lane 0 l).toNat >>> (16 * i)
      let p := { Packet.blank with
        pkind := kind, pkey := (s.ctx t.ctx).key, dmod := md, daddr := BitVec.ofNat 64 va, len := n, xid := xid, last := true,
        ben := if kind = 6 then BitVec.ofNat 16 (if hasBe e.opc e.f then be % 2 ^ n else 65535) else 0,
        payload := if kind = 6 then (e.opD.bytes l (16 * i + n)).drop (16 * i) else [],
        op := if kind = 7 then Forms.ex e.f 3 0 else (check.map (·.1)).getD 0,
        ty := if kind = 7 then Forms.ex e.f 7 4 else (check.map (·.2)).getD 0,
        opB := if kind = 7 then e.atomB l else 0, opC := if kind = 7 then e.atomC l else 0 }
      let s := { s with fab := { s.fab with sysReq := nset s.fab.sysReq xid (tid, e.id, l, i) } }
      sendPacket s p) s
  s.modEntry tid e.id fun e => { e with sent := e.sent ||| BitVec.ofNat 32 (2 ^ l) }

/-- Queue a lane's atomic at the sector's home (R457), the issuing L1's dirty bytes of the sector first; not while an engine or
another group's lock holds the sector on the die (R103, R250). -/
def sendAtom (s : State) (tid : Nat) (t : Thread) (e : LogEntry) (l : Nat) (x : Xl) : State :=
  if waitsAt s (dieOf t.cu) x.sector tid || engineBars s t.cu tid x e.bytes then markWaiter s (dieOf t.cu) x.sector
  else
    match flushLine s t.cu x.sector with
    | (s, false) => s
    | (s, true) =>
      let a : HomeAtom := { pkt := none, tid := tid, eid := e.id, lane := l, sector := x.sector, addr := x.pa, op := Forms.ex e.f 3 0,
                            ty := Forms.ex e.f 7 4, b := e.atomB l, c := e.atomC l }
      let s := s.modHome (homeOf x.sector) fun h => { h with atoms := h.atoms ++ [a] }
      s.modEntry tid e.id fun e => { e with sent := e.sent ||| BitVec.ofNat 32 (2 ^ l) }

/-- Atomics of global space at DV or SY, and of this module's system space, execute at the home (R82, R83). -/
def atHome (e : LogEntry) (x : Target) : Bool :=
  match x with
  | .pool _ sys => isAtomic e.opc && (sys || 2 ≤ accScope e.f)
  | _ => false

/-- A store part with no byte enabled moves nothing (R105). -/
def noBytes (e : LogEntry) (l : Nat) : Bool :=
  hasBe e.opc e.f && (List.range e.bytes).all fun i => !(e.opC.lane 0 l).getLsbD i

/-- The level of PREF, and the modes of LNWB and LNDROP. -/
def accMode (f : Fields) : Nat := Forms.mo f 9 7

/-- A line written back, and with INV its clean bytes dropped (R252). -/
def invClean (s : State) (cu sec : Nat) : State :=
  match s.l1 cu sec with
  | none => s
  | some l =>
    if l.dirty = 0 then s.modCu cu fun c => { c with l1 := nerase c.l1 sec }
    else s.setL1 cu sec { l with valid := l.dirty }

/-- A write-back from a die's L2 is still on its way to the home. -/
def wbOpen (s : State) (a sec : Nat) : Bool :=
  s.mem.net.any fun p => p.2.kind = .wb && p.2.sector = sec && p.2.src = .agent a

/-- LNWB on a sector; tells whether it is done: in mode home once the home has what was written back (R252); the
entry's lane counts as sent while that is under way. -/
def lnwb (s : State) (t : Thread) (tid : Nat) (e : LogEntry) (l sec : Nat) : State × Bool :=
  let a := dieOf t.cu
  let inv := fun (s : State) => if Forms.mo e.f 6 6 = 1 then invClean s t.cu sec else s
  if e.sent.getLsbD l then (if wbOpen s a sec then (s, false) else (inv s, true))
  else if heldAt s a sec then (markWaiter s a sec, false)
  else
    match flushLine s t.cu sec with
    | (s, false) => (s, false)
    | (s, true) =>
      if accMode e.f = 1 && (s.line a sec).n ≠ 0 then
        ((writeBack s a sec).modEntry tid e.id fun e => { e with sent := e.sent ||| BitVec.ofNat 32 (2 ^ l) }, false)
      else (inv s, true)

/-- LNDROP on a sector (R252). -/
def lndrop (s : State) (t : Thread) (f : Fields) (sec : Nat) (t64 : Bool) : State × Bool :=
  let a := dieOf t.cu
  let drop := fun (s : State) => s.modCu t.cu fun c => { c with l1 := nerase c.l1 sec }
  if heldAt s a sec then (markWaiter s a sec, false)
  else if accMode f = 0 then (drop s, true)
  else if s.canWrite a sec then (writeBack (drop s) a sec true, true)
  else (need (drop s) a sec true t64, false)

/-- PREF of a sector; a dropped one is done (R248). -/
def pref (s : State) (t : Thread) (tid : Nat) (f : Fields) (x : Xl) : State × Bool :=
  let a := dieOf t.cu
  let sec := x.sector
  let dropIt := Config.prefDrop s.env.freeCtr
  let s := { s with env := { s.env with freeCtr := s.env.freeCtr + 1 } }
  if dropIt || waitsAt s a sec tid then (s, true)
  else if accMode f = 2 && !reImm x.e && (s.winOf sec).isNone then
    (if s.canWrite a sec then (s, true) else (need s a sec true (reT64 x.e), false))
  else
    match l2Fetch s a sec (reImm x.e) (reT64 x.e) with
    | (s, none) => (s, false)
    | (s, some _) => if accMode f = 0 then ((l1Fill s t.cu sec (BitVec.allOnes 64) (reImm x.e) (reT64 x.e)).1, true) else (s, true)

/-- A monitor of a thread is set on a place (R253). -/
def setMonitor (s : State) (tid m space addr place die : Nat) (fired : Bool) : State :=
  s.modThread tid fun t =>
    let x : Monitor := { space := space, addr := addr, place := place, die := die, armed := true, fired := fired }
    { t with mons := nset t.mons m x }

/-- MARM at its place; tells whether it is done. In another module's range that is not coherent the monitor fires with the reply to the
packet that asked for the checks (R253, R254). -/
def marm (s : State) (t : Thread) (tid : Nat) (e : LogEntry) (w : Where) : State × Bool :=
  let m := Forms.mo e.f 8 7
  let addr := (e.addr (lowestLane e.effm)).toNat % 2 ^ 57 / 64
  let die := dieOf t.cu
  match w with
  | .remote _ => (setMonitor s tid m 2 addr 0 die true, true)
  | .here ((.scratch w off, _) :: _) => (setMonitor s tid m 1 addr (scratchPlace w off) die false, true)
  | .here ((.host x, _) :: _) =>
    if reCoh x.e then (setMonitor (hostTake s die (hostKey x)) tid m 0 addr (hostPlace (hostKey x)) die false, true)
    else (setMonitor s tid m 0 addr 0 die true, true)
  | .here ((.pool x sys, _) :: _) =>
    if sys && !reCoh x.e then (setMonitor s tid m 2 addr x.sector die true, true)
    else if reImm x.e || (s.winOf x.sector).isSome then (setMonitor s tid m (if sys then 2 else 0) addr x.sector die false, true)
    else if s.canRead die x.sector then (setMonitor s tid m (if sys then 2 else 0) addr x.sector die false, true)
    else (need s die x.sector false (reT64 x.e), false)
  | .here [] => (s, true)

/-- LNLK once its checks pass: the lock is entered with all tokens, and the data read at the slice (R249). It takes the lowest
free entry, a choice that R249 and R407 leave open (log 67). -/
def lnlk (s : State) (t : Thread) (tid : Nat) (e : LogEntry) (x : Xl) (y : Target) : State × Option Got :=
  let a := dieOf t.cu
  if waitsAt s a x.sector tid then (markWaiter s a x.sector, none)
  else if !s.canWrite a x.sector then (need s a x.sector true (reT64 x.e), none)
  else
    match perform s t.cu tid 1 y e.bytes .load with
    | (s, none) => (s, none)
    | (s, some g) =>
      if g.poi then (s, some g)
      else
        let key := ((List.range 4).find? fun k => (nget t.locks k).isNone).getD 0
        let k : Lock := { sector := x.sector, die := a, held := true, since := s.cyc, waiter := false }
        (s.modThread tid fun t => { t with locks := nset t.locks key k }, some g)

/-- LNUL once its checks pass: the store, the end of the lock and the status (R249). -/
def lnul (s : State) (t : Thread) (tid : Nat) (e : LogEntry) (x : Xl) (y : Target) : State × Option Nat :=
  match t.locks.find? fun k => k.2.sector = x.sector with
  | none => (s, some 2)
  | some (key, k) =>
    let drop := fun (s : State) => s.modThread tid fun t => { t with locks := nerase t.locks key }
    if !k.held then (drop s, some 1)
    else if Forms.mo e.f 6 6 = 1 then
      match perform s t.cu tid 1 y e.bytes (e.op (lowestLane e.effm) 0 e.bytes) with
      | (s, none) => (s, none)
      | (s, some _) => (drop s, some 0)
    else (drop s, some 0)

/-- A bit for a lane. -/
def laneBit (l : Nat) : Mask := BitVec.ofNat 32 (2 ^ l)

/-- The result of a lane of LNUL without a lock, or of a load as read. -/
def LogEntry.sysResult (e : LogEntry) (l : Nat) : Option Nat :=
  if isStore e.opc then none else if e.opc = 0x18B then some 2 else some (ngetD e.res l 0).toNat

/-- A sent lane whose replies have all come: of parts that lie in a coherent range beside others that do not, this module's L2 performs
those one by one; the lane is then done (R83, R316). -/
def mixedLane (s : State) (tid : Nat) (t : Thread) (e : LogEntry) (l md : Nat) (poison : Failed) : State × Option Failed :=
  if s.fab.sysReq.any fun r => r.2.1 = tid && r.2.2.1 = e.id && r.2.2.2.1 = l then (s, none)
  else
    let ps := accParts ((e.addr l).toNat % 2 ^ 52) e.bytes
    let (s, bad) := (List.range ps.length).foldl (fun (acc : State × Bool) i =>
      match (ps[i]?).bind fun p => (e.cohPart s t.ctx md l i p.1).map fun x => (x, p.2) with
      | none => acc
      | some (x, n) =>
        match perform acc.1 t.cu tid (accScope e.f) (.pool x true) n (e.op l (16 * i) n) with
        | (s, none) => (s, acc.2)
        | (s, some g) =>
          if g.poi then (s, true)
          else
            (s.modEntry tid e.id fun e =>
              { e with coh := nerase e.coh (cohKey l i), wo := e.wo || g.wo,
                       res := nset e.res l (ngetD e.res l 0 ||| BitVec.ofNat 512 (leNat g.data <<< (128 * i))) }, acc.2)) (s, false)
    if bad then (s, some poison)
    else
      match s.entry tid e.id with
      | some e => (if e.coh.any fun p => p.1 / 4 = l then s else laneDone s tid e.id l (e.sysResult l) false, none)
      | none => (s, none)

/-- The home of a coherent sector has refused this module's L2 what its checks had allowed: the lane is checked there again. -/
def recheck (s : State) (tid : Nat) (t : Thread) (e : LogEntry) (l : Nat) (ps : List (Target × Nat)) : Option State :=
  let keys := ps.filterMap fun p => match p.1 with | .pool x _ => some (l2key (dieOf t.cu) x.sector) | _ => none
  if s.mem.refused.isEmpty || !(keys.any fun k => (nget s.mem.refused k).isSome) then none
  else
    let s := s.modMem fun m => { m with refused := m.refused.filter fun r => !keys.contains r.1 }
    some (s.modEntry tid e.id fun e =>
      { e with sent := e.sent &&& ~~~laneBit l, coh := e.coh.filter fun p => p.1 / 4 ≠ l })

/-- Perform one lane whose checks have passed; a poisoned sector is found here (R238 step 7). PREF, LNWB and LNDROP of a host line have
nothing to do there (log 48). -/
def performLane (s : State) (tid : Nat) (t : Thread) (e : LogEntry) (l : Nat) (w : Where) : State × Option Failed :=
  let poison : Failed := ⟨7, cPOISON, accSyn e.opc e.f false⟩
  match (match w with | .here ps => recheck s tid t e l ps | .remote _ => none) with
  | some s => (s, none)
  | none =>
  if noBytes e l && (match w with | .remote _ => false | _ => true) then (laneDone s tid e.id l none false, none)
  else if e.opc = 0x18E && (match w with | .remote _ => false | _ => true) then
    let (s, ok) := marm s t tid e w
    (if ok then laneDone s tid e.id l none false else s, none)
  else
    match w with
    | .remote md =>
      if e.opc = 0x189 then (laneDone s tid e.id l none false, none)
      else if e.sent.getLsbD l then mixedLane s tid t e l md poison
      else if s.halting t.ctx && t.isGroup && t.stepping = 0 then (s.modEntry tid e.id fun e => { e with state := 2 }, none)
      else (sendLane s tid t e l md, none)
    | .here ps =>
      match e.opc, ps with
      | 0x189, (.pool x _, _) :: _ =>
        let (s, ok) := pref s t tid e.f x
        (if ok then laneDone s tid e.id l none false else s, none)
      | 0x18C, (.pool x _, _) :: _ =>
        let (s, ok) := lnwb s t tid e l x.sector
        (if ok then laneDone s tid e.id l none false else s, none)
      | 0x18D, (.pool x _, _) :: _ =>
        let (s, ok) := lndrop s t e.f x.sector (reT64 x.e)
        (if ok then laneDone s tid e.id l none false else s, none)
      | 0x18A, (.pool x y, _) :: _ =>
        match lnlk s t tid e x (.pool x y) with
        | (s, none) => (s, none)
        | (s, some g) => if g.poi then (s, some poison) else (laneDone s tid e.id l (some (leNat g.data)) g.wo, none)
      | 0x18B, (.pool x y, _) :: _ =>
        match lnul s t tid e x (.pool x y) with
        | (s, none) => (s, none)
        | (s, some v) => (laneDone s tid e.id l (some v) false, none)
      | _, (.pool x y, _) :: _ =>
        if atHome e (.pool x y) then (if e.sent.getLsbD l then s else sendAtom s tid t e l x, none)
        else ordinary s poison ps
      | 0x189, _ | 0x18C, _ | 0x18D, _ => (laneDone s tid e.id l none false, none)
      | 0x18B, _ => (laneDone s tid e.id l (some 2) false, none)
      | _, _ => ordinary s poison ps
where
  /-- A load, store or atomic at its place. -/
  ordinary (s : State) (poison : Failed) (ps : List (Target × Nat)) : State × Option Failed :=
    match performParts s tid t e l (accScope e.f) ps with
    | (s, none) => (s, none)
    | (s, some g) =>
      if g.poi then (s, some poison)
      else (laneDone s tid e.id l (if isStore e.opc then none else some (leNat g.data)) g.wo, none)

/-- A store lane waits for lower lanes that write the same bytes (R241). -/
def laneTurn (e : LogEntry) (l : Nat) : Bool :=
  !isStore e.opc || e.todo.all fun i => l ≤ i || !lanesMeet e i e l

/-- Perform what lanes of an entry can be performed; a failing lane stays for ACCESS_FAULT, a quiet one is done with zero. -/
def performLanes (s : State) (tid eid : Nat) : State :=
  match s.entry tid eid with
  | none => s
  | some e0 =>
    e0.todo.foldl (fun s l =>
      match s.thread tid, s.entry tid eid with
      | some t, some e =>
        if !laneTurn e l then s
        else
          match checkAll s t e l with
          | (s, .error _) => if e.quiet l || e.opc = 0x189 then laneDone s tid eid l none false else s
          | (s, .ok w) =>
            match performLane s tid t e l w with
            | (s, some _) => if e.quiet l || e.opc = 0x189 then laneDone s tid eid l none false else s
            | (s, none) => s
      | _, _ => s) s

/-- Whether every lane of an entry has completed. -/
def LogEntry.finished (e : LogEntry) : Bool := e.lanes.all fun l => e.done.getLsbD l

/-- Advance an entry as far as the state allows (R87-R91, R238, R240, R244, R247): release, lanes, acquire, completion. -/
def advance (s : State) (tid eid : Nat) : State :=
  match s.thread tid with
  | none => s
  | some t =>
    match t.entry eid with
    | none => s
    | some e =>
      if !mayPerform t e || e.state = 2 then s
      else
        let (s, left) := if isRelease e then releaseWork s t.cu (accScope e.f) e.wb else (s, [])
        let s := if isRelease e then s.modEntry tid eid fun e => { e with wb := some left } else s
        if !left.isEmpty || (isRelease e && accScope e.f = 3 && !fabricQuiet t e.fmark) then s
        else
          let s := if isFence e then s else performLanes s tid eid
          match s.entry tid eid with
          | none => s
          | some e =>
            if !isFence e && !e.finished then s
            else
              let s := if isAcquire e && accScope e.f ≠ 0 then acquireL1 s t.cu else s
              completeEntry s tid eid

/-- The cause and syndrome of an error met in the data (R238, R423). -/
def dataErrorSyn (d : DataError) : Nat := match d with
  | .sram => 0x30000 | .l2 => 0x40000 | .router => Config.routerSyn % 2 ^ 32 | _ => 0x50000

/-- What a demand read's error in DRAM leaves at the sector's home (R309): a corrected one is counted, an uncorrectable one poisons
the sector, and with unreadable metadata the home takes every token back under the next serial number. -/
def dramError (s : State) (sec : Nat) (d : DataError) : State :=
  let m := s.smeta sec
  match d with
  | .dram => s.setMeta sec { m with poi := true }
  | .dramMeta => unreadable s sec
  | .corrected .dram => s.modHome (homeOf sec) fun x => { x with corrected := x.corrected + 1 }
  | .sram | .l2 | .router | .corrected _ => s

/-- An error that was corrected raises nothing (R36). -/
def isCorrected (d : DataError) : Bool := match d with | .corrected _ => true | _ => false

/-- An error of a demand read of an access's place: a corrected one is counted, and of DRAM the home keeps what it is. -/
def whereError (s : State) (w : Where) (d : DataError) : State :=
  let s := match d with | .corrected p => countError s p | _ => s
  match w with
  | .here ((.pool x _, _) :: _) => if isRemote x.sector then s else dramError s x.sector d
  | _ => s

/-- LNLK's entry counts are made once the LNULs before it are performed (R249). -/
def lockEarly (t : Thread) (e : LogEntry) (x : Failed) : Bool :=
  x.rank = 6 && ((t.before e.id).any fun y => y.opc = 0x18A || y.opc = 0x18B)

/-- The failing lanes of an entry now, each with its check; `bad` is an error met in the data of the lowest lane that passes
every check (R238, R309, R423). -/
def failingLanes (s : State) (t : Thread) (e : LogEntry) (tid : Nat) (bad : Option DataError) : State × List (Nat × Failed) :=
  e.todo.foldl (fun (acc : State × List (Nat × Failed)) l =>
    let (s, out) := acc
    if e.quiet l || e.opc = 0x189 || isFence e then (s, out)
    else
      match checkAll s t e l with
      | (s, .error x) => (s, if lockEarly t e x then out else out ++ [(l, x)])
      | (s, .ok w) =>
        match bad with
        | some d =>
          if out.any fun p => p.2.rank = 7 then (s, out)
          else if isCorrected d then (whereError s w d, out)
          else (whereError s w d, out ++ [(l, ⟨7, cUCE, dataErrorSyn d⟩)])
        | none =>
          if !mayPerform t e || (isRelease e && e.wb ≠ some []) then (s, out)
          else
            match performLane s tid t e l w with
            | (_, some x) => (s, out ++ [(l, x)])
            | (_, none) => (s, out)) (s, [])

/-- The first check in order that any lane failed. -/
def firstFailed (l : List (Nat × Failed)) : Option Failed :=
  l.foldl (fun (acc : Option Failed) p =>
    match acc with | none => some p.2 | some x => if p.2.rank < x.rank then some p.2 else some x) none

/-- Mark the lanes that fail as failed; a refusal of another module is taken with it. -/
def faultLanes (s : State) (tid eid : Nat) (l : List (Nat × Failed)) : State :=
  match firstFailed l, s.entry tid eid with
  | some x, some e =>
    let m := if e.once then BitVec.ofNat 32 (2 ^ lowestLane e.effm) else laneMask fun i => l.any fun p => p.1 = i
    markFault s tid eid m x
  | _, _ => s

/-! ### Issue (R236) -/

/-- The vector names that a form's destination takes. -/
def accDest (opc : Nat) (f : Fields) : List Nat :=
  if isLoad opc || opc = 0x186 then
    match regOf f.d.toNat with | .v n => nameRun n (dataRegs (accBytes opc f)) | _ => []
  else []
/-- The uniform register of a form's destination. -/
def accUni (opc : Nat) (f : Fields) : Option Nat :=
  if isLoad opc || opc = 0x186 || opc = 0x18A || opc = 0x18B then
    match regOf f.d.toNat with | .s _ | .w _ => some f.d.toNat | _ => none
  else none

/-- An access enters the log: operands are captured, destinations allocated, the counter raised, and steps 1 and 2 of R238
made. Its release actions and lanes are performed later. The D field of an entry with a uniform destination holds 0 (log 47). -/
def enterAccess (opc : Nat) (f : Fields) (s : State) (tid : Nat) (t : Thread) : State :=
  let acts := if isLoad opc || opc = 0x188 then t.live f else t.eff f
  if acts = 0 then retire opc f s tid t {}
  else
    let names := accDest opc f
    let writes := names.map fun n => Write.vec n (mkLanes fun l => t.vlane n l) acts
    if !t.fits writes then takeFault s tid (budgetTrap acts) t.pc
    else
      let n := accBytes opc f
      let id := t.logSeq
      let opD := if isStore opc then capture s tid t f.d.toNat (dataRegs n) else .unused
      let once := isOnce opc f
      let e : LogEntry :=
        { id := id, pc := t.pc, opc := opc, f := f, opD := opD,
          opA := if opc = 0x188 then .unused else capture s tid t f.a.toNat 2,
          opB := if opc = 0x188 then .unused else capture s tid t f.b.toNat (if isAtomic opc then dataRegs n else 1),
          opC := if hasBe opc f || (opc = 0x186 && Forms.ex f 3 0 = 7) || (opc = 0x18B && Forms.mo f 6 6 = 1) then
              capture s tid t f.c.toNat (if hasBe opc f then 1 else dataRegs n) else .unused,
          dest := .none, once := once, effm := acts, helper := if t.isGroup then acts &&& t.hlpm else 0, flt := 0, done := 0,
          cause := 0, syn := 0, state := 0, wb := none, fmark := t.fseq, sent := 0, wo := false, res := [], put := [] }
      let s := retire opc f s tid t { writes := writes }
      let s := s.modThread tid fun u =>
        let dest := match accUni opc f with
          | some c => Dest.uniform c
          | none => if names.isEmpty then Dest.none else Dest.vector (names.filterMap fun n => (nget u.vmap n).map fun p => (n, p.id))
        let opD := if names.isEmpty then (match accUni opc f with | some _ => OpVal.uniform 0 | none => e.opD)
          else OpVal.vector (names.filterMap fun n => nget u.vmap n)
        let e := { e with dest := dest, opD := opD }
        let u := { u with log := u.log ++ [e], logSeq := id + 1 }
        match counterOf opc f with | some k => u.countUp k | none => u
      let bad := e.lanes.filterMap fun l =>
        if e.quiet l || opc = 0x189 || opc = 0x188 then none else (check12 s t opc f (e.addr l)).map fun x => (l, x)
      let s := if opc = 0x189 || isLoad opc then
          e.lanes.foldl (fun s l => if (e.quiet l || opc = 0x189) && (check12 s t opc f (e.addr l)).isSome then
            laneDone s tid id l none false else s) s
        else s
      faultLanes s tid id bad

end Sys2Proof.Machine
end

