-- ==== Sys2Proof/Machine/Acc.lean ====
section
/-! DEFINITION. The forms of the access engine (R232-R255). -/

namespace Sys2Proof.Machine

open Host (Outcome)

/-- LD (R240). -/
def execLd (f : Fields) (s : State) : Outcome State Fault Refusal := issue 0x180 f s (enterAccess 0x180 f)
/-- ST (R240). -/
def execSt (f : Fields) (s : State) : Outcome State Fault Refusal := issue 0x181 f s (enterAccess 0x181 f)
/-- LDU (R240). -/
def execLdu (f : Fields) (s : State) : Outcome State Fault Refusal := issue 0x182 f s (enterAccess 0x182 f)
/-- STU (R240). -/
def execStu (f : Fields) (s : State) : Outcome State Fault Refusal := issue 0x183 f s (enterAccess 0x183 f)
/-- LDA (R240). -/
def execLda (f : Fields) (s : State) : Outcome State Fault Refusal := issue 0x184 f s (enterAccess 0x184 f)
/-- STL (R240). -/
def execStl (f : Fields) (s : State) : Outcome State Fault Refusal := issue 0x185 f s (enterAccess 0x185 f)
/-- ATOM (R244). -/
def execAtom (f : Fields) (s : State) : Outcome State Fault Refusal := issue 0x186 f s (enterAccess 0x186 f)
/-- RED (R244): performed one after another, as a merged one is bound to equal (R245). -/
def execRed (f : Fields) (s : State) : Outcome State Fault Refusal := issue 0x187 f s (enterAccess 0x187 f)
/-- PREF (R248). -/
def execPref (f : Fields) (s : State) : Outcome State Fault Refusal := issue 0x189 f s (enterAccess 0x189 f)
/-- LNLK (R249). -/
def execLnlk (f : Fields) (s : State) : Outcome State Fault Refusal := issue 0x18A f s (enterAccess 0x18A f)
/-- LNUL (R249). -/
def execLnul (f : Fields) (s : State) : Outcome State Fault Refusal := issue 0x18B f s (enterAccess 0x18B f)
/-- LNWB (R252). -/
def execLnwb (f : Fields) (s : State) : Outcome State Fault Refusal := issue 0x18C f s (enterAccess 0x18C f)
/-- LNDROP (R252). -/
def execLndrop (f : Fields) (s : State) : Outcome State Fault Refusal := issue 0x18D f s (enterAccess 0x18D f)
/-- MARM (R253). -/
def execMarm (f : Fields) (s : State) : Outcome State Fault Refusal := issue 0x18E f s (enterAccess 0x18E f)

/-- The fault that reports a recorded fabric failure (R341). -/
def fabTrap (x : FabFail) : Trap :=
  { cause := cFABF, syn := BitVec.ofNat 64 (x.kind + 256 * x.more), opd0 := x.opd0, opd1 := x.opd1, opd2 := x.opd2,
    opd3 := x.opd3, unit := some (funit 10 0) }

/-- FENCE (R91, R247): a recorded fabric failure is raised first, precisely (R341). -/
def execFence (f : Fields) (s : State) : Outcome State Fault Refusal :=
  issue 0x188 f s fun s tid t =>
    match t.ffail with
    | some x =>
      if t.live f = 0 then enterAccess 0x188 f s tid t
      else takeFault (s.modThread tid fun u => { u with ffail := none }) tid (fabTrap x) t.pc
    | none => enterAccess 0x188 f s tid t

/-- A form that has issued and stands in a wait at the PC (log 5): its operation is folded once. -/
def standIn (opc : Nat) (s : State) (tid : Nat) (b : Blk) : State :=
  s.modThread tid fun u => { (if u.blk.isSome then u else u.foldOpc opc) with blk := some b, waits := true }

/-- The monitors that MSEL picks (R255). -/
def mselMons (f : Fields) (t : Thread) : NMap Monitor := t.mons.filter fun p => (Forms.mo f 9 6).testBit p.1
/-- T of MSLP in ns (R255). -/
def mslpTime (f : Fields) (s : State) (tid : Nat) (t : Thread) : Nat :=
  if f.xk then f.x.toNat else ((uniVal s tid t f.a.toNat).setWidth 32).toNat

/-- The end of MSLP with the fired monitors disarmed: D := F, or bit 8 when none fired (R255). -/
def mslpEnd (f : Fields) (s : State) (tid : Nat) (t : Thread) (d : Nat) : State :=
  let sel := mselMons f t
  retire 0x18F f s tid t { writes := [.uni f.d.toNat (BitVec.ofNat 64 d)] } fun u =>
    { u with mons := nmap u.mons fun k m => if m.fired && sel.any (fun p => p.1 = k) then { m with armed := false, fired := false } else m }

/-- The stage of a group in MSLP. -/
def mslpStage : Nat := 399

/-- MSLP (R255). -/
def execMslp (f : Fields) (s : State) : Outcome State Fault Refusal :=
  issue 0x18F f s fun s tid t =>
    if t.live f = 0 then retire 0x18F f s tid t {}
    else
      let sel := mselMons f t
      let time := mslpTime f s tid t
      let fired := sel.foldl (fun acc p => if p.2.fired then acc + 2 ^ p.1 else acc) 0
      let since := match t.blk with | some b => b.val | none => s.ns
      if t.blk.isNone && !(sel.any fun p => p.2.armed) && time = 2 ^ 32 - 1 then mslpEnd f s tid t 512
      else if fired ≠ 0 then mslpEnd f s tid t fired
      else if time ≠ 2 ^ 32 - 1 && since + time ≤ s.ns then mslpEnd f s tid t 256
      else if t.stepping = 1 then s.modThread tid fun u => { u with waits := true }
      else standIn 0x18F s tid { stage := mslpStage, val := since, aux := time }

end Sys2Proof.Machine
end

