-- ==== Sys2Proof/Machine/Ctl.lean ====
section
/-! DEFINITION. The control forms (R159-R180) and the ends of lanes, groups and workgroups (R48, R49, R54, R166). -/

namespace Sys2Proof.Machine

open Host (Outcome)

/-! ### Ends of lanes and groups -/

/-- Lanes leave EXM and every mask of the stack, the shadow copies with them (R48, R54, R421). -/
def Thread.dropLanes (t : Thread) (m : Mask) : Thread :=
  { t with exm := t.exm &&& ~~~m, c0 := t.c0 &&& ~~~m, shExm := t.shExm &&& ~~~m, shC := t.shC &&& ~~~m,
           stack := t.stack.map fun e => { e with d := e.d &&& ~~~m, c := e.c &&& ~~~m, p := e.p &&& ~~~m } }

/-- Launched lanes that are not helpers and have neither exited nor died (R49). -/
def Thread.aliveLanes (t : Thread) : Mask := t.lmask &&& ~~~t.hlpm &&& ~~~t.exited &&& ~~~t.deadm

/-- Helper lanes whose quad keeps no launched lane (R48). -/
def Thread.idleHelpers (t : Thread) : Mask := t.hlpm &&& t.lmask &&& ~~~quadFill t.aliveLanes

/-- Lanes exit, and helper lanes with the last of their quad (R48). -/
def Thread.exitLanes (t : Thread) (m : Mask) : Thread :=
  let t := { t with exited := t.exited ||| m }
  let h := t.idleHelpers
  { (t.dropLanes (m ||| h)) with exited := t.exited ||| h }

/-- A workgroup whose groups have all exited: its mailboxes are released as MBOXREL does, and its locks broken (R251, R325). -/
def wgExited (s : State) (w : Nat) : State :=
  match s.wg w with
  | none => s
  | some g =>
    let s := g.groups.foldl (fun s tid => s.modThread tid Thread.breakLocks) s
    { s with fab := { s.fab with boxes := nmap s.fab.boxes fun _ b =>
        if b.used && b.ctx = g.ctx && b.wg = w then (if b.infl = 0 then { b with used := false, closing := false }
          else { b with closing := true }) else b } }

/-- Whether every group of a workgroup has exited. -/
def allExited (s : State) (g : Wg) : Bool :=
  g.groups.all fun tid => match s.thread tid with | some t => t.place = .exited | none => true

/-- A group ends (R166): its registers go, its accesses and commands run on, those too into which FZSTEP entered it (R230), and a recorded
fabric failure is raised in a system tadpole (R341). -/
def endGroup (s : State) (tid : Nat) : State :=
  match s.thread tid with
  | none => s
  | some t =>
    let s := match t.ffail with | some x => orphanFault s t (fabTrap x) | none => s
    let s := goOn (s.modThread tid fun u => { u with fz := none, postCause := none, postMore := [] }) tid
    let s := s.modThread tid fun u =>
      { u with place := .exited, vmap := [], fz := none, blk := none, wb := none, ops := [], gen := (u.gen + 1) % 65536, ffail := none,
               stall := 0, overdue := none, offer := 0 }
    match s.wg t.wg with
    | some g => if allExited s g then wgExited s t.wg else s
    | none => s

/-- End the group if no launched lane remains (R49). -/
def endIfEmpty (s : State) (tid : Nat) : State :=
  match s.thread tid with
  | some t => if t.isGroup && t.aliveLanes = 0 && t.place ≠ .exited then endGroup s tid else s
  | none => s

/-! ### Transfers (R111, R162-R165) -/

/-- The signature after BRA, BRC, CALL, RET, BRI and YIELD (R175). -/
def sigReset : Word := 0xFFFFFFFF

/-- A bad target (R111): XLAT or MISAL, precise, with the target in FOPD0. -/
def targetTrap (cause : Nat) (target : Word64) : Trap := { cause := cause, opd0 := target }

/-- The PC of a displacement, not checked (R111, R163). -/
def rawTarget (pc : Word64) (disp : Int) : Word64 :=
  let i := pcIndex pc + disp
  BitVec.ofInt 64 ((i / 5) * 64 + (i % 5) * 12)

/-- The transfer to a displacement. -/
def jumpDisp (t : Thread) (f : Fields) (d : Done) : Act :=
  match dispTarget t.pc f.x.toInt with
  | some pc => .done { d with pc := some pc, sig := some sigReset }
  | none => .trap (targetTrap cXLAT (rawTarget t.pc f.x.toInt))

/-- The transfer to a computed PC (R111, R164). A value that fails both checks is MISAL, an order the rules do not give (log 62). -/
def jumpTo (pc : Word64) : Act :=
  if !slotOk pc then .trap (targetTrap cMISAL pc)
  else if !pcHighOk pc then .trap (targetTrap cXLAT pc)
  else .done { pc := some pc, sig := some sigReset }

/-- A transfer that is not taken still resets the signature (R175). -/
def notTaken : Act := .done { sig := some sigReset }

/-- NOP (R159). -/
def execNop (f : Fields) (s : State) : Outcome State Fault Refusal := issueAct 0x000 f s fun _ _ _ => .null

/-- BRA (R162). -/
def execBra (f : Fields) (s : State) : Outcome State Fault Refusal :=
  issueAct 0x001 f s fun _ _ t => if t.live f = 0 then notTaken else jumpDisp t f {}

/-- Whether BRC is taken (R162). -/
def brcTaken (t : Thread) (f : Fields) : Bool :=
  let live := t.live f
  let p := t.pred (Forms.mo f 3 0) &&& live
  match Forms.mo f 5 4 with
  | 0 => p ≠ 0
  | 1 => live ≠ 0 && p = live
  | _ => live ≠ 0 && p = 0

/-- BRC (R162). -/
def execBrc (f : Fields) (s : State) : Outcome State Fault Refusal :=
  issueAct 0x002 f s fun _ _ t => if brcTaken t f then jumpDisp t f {} else notTaken

/-- The signed 18-bit reconvergence displacement of BRD: A low, B high (R159). -/
def brdRpc (f : Fields) : Int := signedOf 18 (f.a.toNat + 512 * f.b.toNat)

/-- A move of the PC that faults under R111 when the PC is bad. -/
def movePc (pc : Word64) : Option Trap := if slotOk pc && pcHighOk pc then none else some (targetTrap cXLAT pc)

/-- BRD (R51, R163). -/
def execBrd (f : Fields) (s : State) : Outcome State Fault Refusal :=
  issue 0x003 f s fun s tid t =>
    if 64 ≤ t.stack.length then takeFault s tid (trapSyn 0x80000001 (t.live f)) t.pc
    else
      let tk := t.live f &&& t.pred (Forms.mo f 3 0)
      let rest := t.exm &&& ~~~tk
      let target := rawTarget t.pc f.x.toInt
      let rpc := rawTarget t.pc (brdRpc f)
      let (exm, top, pc) :=
        if tk ≠ 0 then (tk, ({ d := t.exm, c := tk, p := rest, ppc := nextPc t.pc, rpc := rpc } : Frame), target)
        else (rest, { d := t.exm, c := rest, p := 0, ppc := nextPc t.pc, rpc := rpc }, nextPc t.pc)
      match movePc pc with
      | some x => takeFault s tid x t.pc
      | none =>
        let sig := fold16 0xFFFFFFFF (if tk ≠ 0 then 0xE001 else 0xE002)
        retire 0x003 f s tid t { pc := some pc, sig := some sig } fun u =>
          { u with exm := exm, stack := top :: u.stack, shExm := exm, shC := top.c }

/-- JOIN (R51). -/
def execJoin (f : Fields) (s : State) : Outcome State Fault Refusal :=
  issue 0x004 f s fun s tid t =>
    match t.stack with
    | [] => takeFault s tid (trapSyn 0x80000002 (t.live f)) t.pc
    | top :: rest =>
      if top.p ≠ 0 then
        match movePc top.ppc with
        | some x => takeFault s tid x t.pc
        | none =>
          retire 0x004 f s tid t { pc := some top.ppc, sig := some (fold16 0xFFFFFFFF 0xE002) } fun u =>
            { u with exm := top.p, stack := { top with c := top.p, p := 0 } :: rest, shExm := top.p, shC := top.p }
      else
        match movePc top.rpc with
        | some x => takeFault s tid x t.pc
        | none =>
          let c := match rest with | [] => t.c0 | e :: _ => e.c
          retire 0x004 f s tid t { pc := some top.rpc, sig := some (fold16 0xFFFFFFFF 0xE003) } fun u =>
            { u with exm := top.d, stack := rest, shExm := top.d, shC := c }

/-- CALL: the link is written only when the target holds (R164). -/
def execCall (f : Fields) (s : State) : Outcome State Fault Refusal :=
  issueAct 0x005 f s fun _ _ t =>
    if t.live f = 0 then notTaken else jumpDisp t f { writes := [.uni f.d.toNat (nextPc t.pc)] }

/-- RET (R164). -/
def execRet (f : Fields) (s : State) : Outcome State Fault Refusal :=
  issueAct 0x006 f s fun s tid t => if t.live f = 0 then notTaken else jumpTo (uniVal s tid t f.a.toNat)

/-- BRI (R164). -/
def execBri (f : Fields) (s : State) : Outcome State Fault Refusal :=
  issueAct 0x007 f s fun s tid t =>
    if t.live f = 0 then notTaken
    else
      let b : Word64 := if f.xk then f.x.signExtend 64 else uniVal s tid t f.b.toNat
      jumpTo (uniVal s tid t f.a.toNat + b)

/-- YIELD: a transfer that offers the group for a swap (R165). -/
def execYield (f : Fields) (s : State) : Outcome State Fault Refusal :=
  issue 0x009 f s fun s tid t =>
    if t.live f = 0 then actOn 0x009 f s tid t notTaken
    else
      match jumpDisp t f {} with
      | .done d => retire 0x009 f s tid t d fun u => { u with offer := 2 }
      | a => actOn 0x009 f s tid t a

/-- EXIT (R48, R49, R166). -/
def execExit (f : Fields) (s : State) : Outcome State Fault Refusal :=
  issue 0x008 f s fun s tid t =>
    let m := t.eff f
    endIfEmpty (retire 0x008 f s tid t {} fun u => u.exitLanes m) tid

/-! ### Waits -/

/-- WAIT (R168). -/
def execWait (f : Fields) (s : State) : Outcome State Fault Refusal :=
  issueAct 0x00A f s fun _ _ t =>
    let x := f.x.toNat
    let ok := t.cL ≤ x % 64 && t.cS ≤ (x >>> 6) % 64 && t.cC ≤ (x >>> 12) % 64 && t.cM ≤ (x >>> 18) % 64
    if t.live f = 0 || ok then .null else .wait

/-- Whether WAITB holds for batch `n` (R169): batches older than the 63 before the last have no number of their own. -/
def batchWaits (t : Thread) (n : Nat) : Bool :=
  let back := (t.batchNo % 256 + 255 + 256 - n % 256) % 256
  t.batchNo ≠ 0 && back ≤ 63 && back < t.batchNo && t.batches.any fun b => b.num + back ≤ t.batchNo

/-- WAITB (R169). -/
def execWaitb (f : Fields) (s : State) : Outcome State Fault Refusal :=
  issueAct 0x00B f s fun _ _ t => if t.live f ≠ 0 && batchWaits t (Forms.ex f 7 0) then .wait else .null

/-! ### Barriers (R170-R172) -/

def Bar.zero : Bar := ⟨0, [], false⟩

/-- The key of a cluster's barrier in its launch. -/
def clusterBar (clid id : Nat) : Nat := clid * 4 + id

/-- The barrier that a BAR names. -/
def barOf (s : State) (t : Thread) (f : Fields) : Bar :=
  let id := Forms.ex f 3 0
  match s.wg t.wg with
  | none => Bar.zero
  | some g =>
    if Forms.mo f 1 0 = 0 then ngetD g.bars id Bar.zero
    else ((nget s.lch g.launch).map fun l => ngetD l.cbar (clusterBar g.clid id) Bar.zero).getD Bar.zero

/-- Change the barrier that a BAR names. -/
def modBar (s : State) (t : Thread) (f : Fields) (h : Bar → Bar) : State :=
  let id := Forms.ex f 3 0
  match s.wg t.wg with
  | none => s
  | some g =>
    if Forms.mo f 1 0 = 0 then s.modWg t.wg fun g => { g with bars := nset g.bars id (h (ngetD g.bars id Bar.zero)) }
    else s.modLaunch g.launch fun l =>
      let k := clusterBar g.clid id
      { l with cbar := nset l.cbar k (h (ngetD l.cbar k Bar.zero)) }

/-- The workgroups of a cluster that still stand. -/
def clusterWgs (s : State) (launch clid : Nat) : NMap Wg :=
  s.wgs.filter fun p => p.2.launch = launch && p.2.clid = clid && !p.2.killed

/-- The groups that a barrier's phase still lacks. -/
def missing (s : State) (b : Bar) (groups : List Nat) : List Nat :=
  groups.filter fun tid =>
    !b.arrived.contains tid && (match s.thread tid with | some t => t.place ≠ .exited | none => false)

/-- The end of a phase, in which a member may have been excused. -/
def Bar.next (b : Bar) (ex : Bool) : Bar := { phase := b.phase + 1, arrived := [], lastExcused := ex }

/-- BARRIER_PHASE_COMPLETE (R171): the phase of a workgroup's barrier, or of a cluster's (owner: launch × 2^32 + CLID), ends once
every member has arrived, exited or been excused, as the groups of a killed workgroup are from then on. A workgroup phase orders its
w registers (R63). -/
def phaseEnd (s : State) (cluster : Bool) (owner id : Nat) : State :=
  if cluster then
    let launch := owner / 2 ^ 32
    let clid := owner % 2 ^ 32
    match (nget s.lch launch).bind fun l => (nget l.cbar (clusterBar clid id)).map fun b => (l, b) with
    | none => s
    | some (l, b) =>
      let groups := ((clusterWgs s launch clid).map fun p => p.2.groups).flatten
      if b.arrived.isEmpty || !(missing s b groups).isEmpty then s
      else s.modLaunch launch fun y => { y with cbar := nset y.cbar (clusterBar clid id) (b.next (l.excused.contains clid)) }
  else
    match s.wg owner with
    | none => s
    | some g =>
      match nget g.bars id with
      | none => s
      | some b =>
        if b.arrived.isEmpty || !(missing s b g.groups).isEmpty then s
        else s.modWg owner fun g => { g with bars := nset g.bars id (b.next false), w := nmap g.w fun _ r => r.settle }

/-- The end of a BAR once its phase is over. -/
def barEnd (f : Fields) (s : State) (tid : Nat) (t : Thread) : State :=
  let s := if Forms.mo f 3 2 = 3 && Forms.mo f 1 0 ≠ 0 then acquireL1 s t.cu else s
  let ok : Mask := if (barOf s t f).lastExcused then 0 else 0xFFFFFFFF
  retire 0x00C f s tid t { writes := predWrites f.d.toNat ok (t.live f) }

/-- The release action of a form at the PC, with every earlier access performed (R88): tells whether it is done. -/
def releaseAtPc (s : State) (tid : Nat) (t : Thread) (scope : Nat) : State × Bool :=
  if t.log.any fun e => e.opc ≠ 0x189 then (s, false)
  else
    let (s, left) := releaseWork s t.cu scope t.wb
    (s.modThread tid fun u => { u with wb := some left }, left.isEmpty && (scope ≠ 3 || t.fOpen.isEmpty))

/-- BAR (R170): release, arrival, wait for the phase, acquire, status. Stage 1 releases, stage 2 has arrived. A stepped BAR
issues only when its arrival ends the phase (R412). -/
def execBar (f : Fields) (s : State) : Outcome State Fault Refusal :=
  issue 0x00C f s fun s tid t =>
    if t.live f = 0 then retire 0x00C f s tid t {}
    else
      let rel := Forms.mo f 3 2 = 3
      let stage := match t.blk with | some b => b.stage | none => 0
      if stage = 2 then
        if (match t.blk with | some b => b.val | none => 0) < (barOf s t f).phase then barEnd f s tid t
        else s.modThread tid fun u => { u with waits := true }
      else
        let (s, ok) := if rel then releaseAtPc s tid t (Forms.mo f 1 0) else (s, true)
        if !ok then
          (if t.stepping = 1 then s.modThread tid fun u => { u with waits := true }
           else standIn 0x00C s tid { stage := 1, val := 0, aux := 0 })
        else
          let b := barOf s t f
          match s.wg t.wg with
          | none => s
          | some g =>
            let members := if Forms.mo f 1 0 = 0 then g.groups
              else ((clusterWgs s g.launch g.clid).map fun p => p.2.groups).flatten
            let last := (missing s b members).all (· = tid)
            if t.stepping = 1 && !last then s.modThread tid fun u => { u with waits := true }
            else
              let s := modBar s t f fun b => { b with arrived := b.arrived ++ [tid] }
              standIn 0x00C s tid { stage := 2, val := b.phase, aux := 0 }

/-! ### Masks and special registers (R126-R129, R173, R174) -/

/-- EXM := X ∧ C, the shadow copy recomputed with it (R52, R421). -/
def Thread.setExm (t : Thread) (x : Mask) : Thread :=
  let m := x &&& t.curC
  { t with exm := m, shExm := m }

/-- The thread whose values the numbers 0x00-0x19 and 0x22-0x29 read: the group itself, or the frozen group of a tadpole;
none for an agent (R129). -/
def readThread (s : State) (t : Thread) : Option Thread :=
  if t.isGroup then some t else t.target.bind s.thread

/-- The numbers that a tadpole reads of its frozen group. -/
def srOfGroup (n : Nat) : Bool := n ≤ 0x19 || (0x22 ≤ n && n ≤ 0x29)

/-- A copy register as it stands after the writes so far. -/
def Wg.copyVal (g : Wg) (n : Nat) : Word64 := if n = 0x30 then g.cpyNtf else g.cpyStb

/-- A copy register as a group of a barrel reads it at clk `now`: in the clk of a write by another barrel it is as before that clk, since
the highest barrel's write may still come (R63, R259). -/
def Wg.copyReg (g : Wg) (n now barrel : Nat) : Word64 :=
  match nget g.cpyWr n with
  | some w => if w.clk = now && w.barrel ≠ barrel then w.before else g.copyVal n
  | none => g.copyVal n

/-- A special register of uniform kind, or of lane kind in lane `l` (R44, R128). -/
def srOwn (s : State) (t : Thread) (n l : Nat) : Word64 :=
  let w := s.wg t.wg
  let k := s.ctx t.ctx
  let num := fun (x : Nat) => BitVec.ofNat 64 x
  let ofWg := fun (g : Wg → Nat) => num ((w.map g).getD 0)
  let ofLr := fun (g : LaunchRec → Nat) => num (((s.launchOf t).map fun x => g x.lr).getD 0)
  match n with
  | 0x00 => num l
  | 0x01 => num (l / 4)
  | 0x02 => num t.gnum
  | 0x03 => ofWg (·.ng)
  | 0x04 => ofWg (·.x)
  | 0x05 => ofWg (·.y)
  | 0x06 => ofWg (·.z)
  | 0x07 => num (((w.bind fun g => (s.launchOf t).map fun x => g.lin % (x.lr.clsz + 1))).getD 0)
  | 0x08 => ofWg (·.clid)
  | 0x09 => num (((s.launchOf t).map (·.gridid)).getD 0)
  | 0x0A => ofLr (·.nwgx)
  | 0x0B => ofLr (·.nwgy)
  | 0x0C => ofLr (·.nwgz)
  | 0x10 => t.exm.setWidth 64
  | 0x11 => t.deadm.setWidth 64
  | 0x12 => t.hlpm.setWidth 64
  | 0x18 => t.sig.setWidth 64
  | 0x19 => t.nchk.setWidth 64
  | 0x20 => t.fpctl
  | 0x21 => t.fpstat
  | 0x22 => t.mstat
  | 0x28 => ofWg (·.cpySeq)
  | 0x29 => ofWg (·.cpyDone)
  | 0x30 | 0x31 => (w.map (·.copyReg n s.cyc t.barrel)).getD 0
  | 0x40 => t.frec.cause
  | 0x41 => t.frec.fpc
  | 0x42 => t.frec.fmask
  | 0x43 => t.frec.lanes
  | 0x44 => t.frec.opd0
  | 0x45 => t.frec.opd1
  | 0x46 => t.frec.opd2
  | 0x47 => t.frec.opd3
  | 0x48 => t.frec.syn
  | 0x49 => t.frec.unit
  | 0x4A => t.frec.tilem
  | 0x4B => t.frec.tilen
  | 0x4C => t.frec.cap
  | 0x4D => t.frec.time
  | 0x60 => k.hcause
  | 0x61 => k.hsrc
  | 0x62 => k.htime
  | 0x63 => num (k.trigTotal + 256 * k.trig.length + (if k.settled then 65536 else 0))
  | 0x70 => t.tkind
  | _ => 0

/-- A special register as the running code reads it (R128, R129). -/
def srVal (s : State) (t : Thread) (n l : Nat) : Word64 :=
  if t.isGroup || !srOfGroup n then srOwn s t n l
  else match readThread s t with | some g => srOwn s g n (if n ≤ 1 then 0 else l) | none => 0

/-- The write of a special register's value to a destination of any class. -/
def srWrites (s : State) (t : Thread) (f : Fields) (n : Nat) (live : Mask) : List Write :=
  match regOf f.d.toNat with
  | .v _ => vecWrites f.d.toNat false live fun l => (srVal s t n l).toNat
  | _ => [.uni f.d.toNat (srVal s t n 0)]

/-- EXMRD (R160, R161, R173): it acts whatever LIVE is, but for the guard "never". -/
def execExmrd (f : Fields) (s : State) : Outcome State Fault Refusal :=
  issueAct 0x00D f s fun s _ t => if neverGuard f then .null else .done { writes := srWrites s t f 0x10 (t.live f) }

/-- EXMWR (R173). -/
def execExmwr (f : Fields) (s : State) : Outcome State Fault Refusal :=
  issue 0x00E f s fun s tid t =>
    if neverGuard f then retire 0x00E f s tid t {}
    else
      let x : Mask := if f.xk then f.x else (uniVal s tid t f.a.toNat).setWidth 32
      retire 0x00E f s tid t {} fun u => u.setExm x

/-- RDSR (R174): SIGACC is read with this instruction's own fold (R175). -/
def execRdsr (f : Fields) (s : State) : Outcome State Fault Refusal :=
  issueAct 0x00F f s fun s _ t =>
    let n := Forms.ex f 7 0
    if n = 0x10 then (if neverGuard f then .null else .done { writes := srWrites s t f n (t.live f) })
    else if t.live f = 0 then .null
    else .done { writes := srWrites s (t.foldOpc 0x00F) f n (t.live f) }

/-- The bits of CPYNTF and CPYSTB that a write keeps (R259). -/
def cpyNtfMask : Word64 := 0x01FFFFFFFFFFFFF9
def cpyStbMask : Word64 := 0x01FFFFFFFFFFF801

/-- A write of a copy register at clk `now` from a barrel: of those of one clk, the highest barrel's stays (R63, R259). -/
def Wg.writeCopyReg (g : Wg) (n now barrel : Nat) (v : Word64) : Wg :=
  let same := (nget g.cpyWr n).filter fun w => w.clk = now
  if same.any fun w => barrel < w.barrel then g
  else
    let before := match same with | some w => w.before | none => g.copyVal n
    let g := { g with cpyWr := nset g.cpyWr n { clk := now, barrel := barrel, before := before } }
    if n = 0x30 then { g with cpyNtf := v &&& cpyNtfMask } else { g with cpyStb := v &&& cpyStbMask }

/-- WRSR (R127, R174, R259). -/
def execWrsr (f : Fields) (s : State) : Outcome State Fault Refusal :=
  issue 0x010 f s fun s tid t =>
    let n := Forms.ex f 7 0
    let v := uniVal s tid t f.a.toNat
    if n = 0x10 then
      (if neverGuard f then retire 0x010 f s tid t {} else retire 0x010 f s tid t {} fun u => u.setExm (v.setWidth 32))
    else if t.live f = 0 then retire 0x010 f s tid t {}
    else
      let s := if n = 0x30 || n = 0x31 then s.modWg t.wg fun g => g.writeCopyReg n s.cyc t.barrel v else s
      retire 0x010 f s tid t {} fun u =>
        match n with
        | 0x18 => { u with sig := v.setWidth 32 }
        | 0x20 => { u with fpctl := v &&& fpctlMask }
        | 0x21 => { u with fpstat := v &&& fpstatMask }
        | 0x22 => { u with mstat := v &&& mstatMask }
        | _ => u

/-! ### Signatures, breakpoints, time, distance -/

/-- SIGCHK (R176): the resume point of a failure is the next instruction. Under the guard never it makes no check, and its OPC is folded
as that of any other form (log 50). -/
def execSigchk (f : Fields) (s : State) : Outcome State Fault Refusal :=
  issue 0x011 f s fun s tid t =>
    if neverGuard f then retire 0x011 f s tid t {}
    else
      let ok := t.sig = f.x
      let s := retire 0x011 f s tid t { sig := some sigReset } fun u => { u with nchk := if ok then u.nchk + 1 else u.nchk }
      if ok then s
      else takeFault s tid
        { cause := cSIGF, syn := t.sig.setWidth 64, opd0 := f.x.setWidth 64, unit := some (funit 4 t.barrel), fpc := some t.pc }
        (nextPc t.pc)

/-- What BKPT and TRAP raise (R178). -/
def softTrap (cause : Nat) (f : Fields) (t : Thread) : Act :=
  if t.live f = 0 then .null
  else .trapNext { cause := cause, syn := BitVec.ofNat 64 (Forms.ex f 15 0), lanes := (t.live f).setWidth 64 }

/-- BKPT (R178). -/
def execBkpt (f : Fields) (s : State) : Outcome State Fault Refusal := issueAct 0x012 f s fun _ _ t => softTrap cBKPT f t
/-- TRAP (R178). -/
def execTrap (f : Fields) (s : State) : Outcome State Fault Refusal := issueAct 0x013 f s fun _ _ t => softTrap cTRAP f t

/-- The greater of two times as unsigned numbers. -/
def laterOf (a b : Word64) : Word64 := if a.toNat < b.toNat then b else a

/-- RDTIME.L (R179). -/
def execRdtimeL (f : Fields) (s : State) : Outcome State Fault Refusal :=
  issue 0x014 f s fun s tid t =>
    if t.live f = 0 then retire 0x014 f s tid t {}
    else
      let v := laterOf t.timeL (s.localTime (dieOf t.cu))
      retire 0x014 f s tid t { writes := [.uni f.d.toNat v] } fun u => { u with timeL := v }

/-- RDTIME.G (R179). -/
def execRdtimeG (f : Fields) (s : State) : Outcome State Fault Refusal :=
  issue 0x014 f s fun s tid t =>
    if t.live f = 0 then retire 0x014 f s tid t {}
    else
      let v := laterOf t.timeG (s.globalTime (dieOf t.cu))
      retire 0x014 f s tid t { writes := [.uni f.d.toNat v] } fun u => { u with timeG := v }

/-- The mailbox that a handle names here for a partition, when it is valid (R320). -/
def boxOf (s : State) (key : Nat) (h : Word64) : Option (Nat × Mailbox) :=
  let i := bits h 13 0
  if h = 0 || bits h 63 52 ≠ s.mdl.number || bits h 51 32 ≠ 0 || bits h 15 14 ≠ 0 then none
  else match nget s.fab.boxes i with
    | some b => if b.used && !b.closing && b.gen = bits h 31 16 && b.key = key then some (i, b) else none
    | none => none

/-- The band between a CU and a tile. -/
def bandTo (cu tile : Nat) : Nat := bandOf (crossings (computeTile (dieOf cu)) tile)

/-- The band of an address or a mailbox handle (R180, R326). -/
def bandVal (s : State) (t : Thread) (f : Fields) (x : Word64) : Nat :=
  let home := fun va =>
    match walk s t.ctx va with
    | none => 0xFF
    | some y => if y.host then 7 else bandTo t.cu (memoryTile (homeOf y.sector))
  if Forms.mo f 2 2 = 1 then
    if bits x 63 52 ≠ s.mdl.number then 7
    else match boxOf s (s.ctx t.ctx).key x with
      | none => 0xFF
      | some (_, b) => match s.wg b.wg with | some g => bandTo t.cu (computeTile (dieOf g.cu)) | none => 0xFF
  else match Forms.mo f 1 0 with
    | 1 => 0
    | 2 => if bits x 63 52 ≠ s.mdl.number then 7 else home (bits x 51 0)
    | _ => if bits x 63 57 ≠ 0 then 0xFF else home (bits x 56 0)

/-- RDBAND (R180). -/
def execRdband (f : Fields) (s : State) : Outcome State Fault Refusal :=
  issueAct 0x015 f s fun s tid t =>
    if t.live f = 0 then .null
    else
      match regOf f.a.toNat with
      | .v _ => .done { writes := vecWrites f.d.toNat false (t.live f) fun l => bandVal s t f (lane64 s tid t f.a.toNat l) }
      | _ =>
        let b := bandVal s t f (uniVal s tid t f.a.toNat)
        .done { writes := anyWrites f.d.toNat false (t.live f) b (BitVec.ofNat 64 b) }

end Sys2Proof.Machine
end

