-- ==== Sys2Proof/Machine/Engine.lean ====
section
/-! DEFINITION. What the copy, matrix and fabric engines share (R32, R76, R103, R272-R276, R281): their reads and writes of memory
as token holders, registrations, imprecise faults, and arrivals on a phase counter. -/

namespace Sys2Proof.Machine

/-- The number of a CU's engine: 0 copy, 1 matrix, 2 fabric, 3 what writes save images and the park area. -/
def engineOf (cu kind : Nat) : Nat := cu * 4 + kind

/-- What an engine's step on memory comes to: a value, a wait, or a fault of a cause at an address. -/
inductive Eng (α : Type) where
  | ok (x : α)
  | wait
  | bad (cause : Nat) (addr : Nat)
  deriving DecidableEq, Repr

/-- Another engine of the die, or a lock, holds a sector (R103, R250, R272). Of engines that have registered the same sector the one that
did so first goes first (log 55). -/
def engineBlocked (s : State) (a sec eng : Nat) : Bool :=
  let holds := s.mem.regs.filter fun r => r.space = 0 && r.die = a && r.awaits s sec
  !(holds.takeWhile fun r => r.eng ≠ eng).isEmpty || (lockOn s a sec).isSome

/-- An engine that another one bars keeps no tokens for its own access. -/
def engineLets (s : State) (a sec eng : Nat) : State :=
  match nget s.mem.trans (l2key a sec) with
  | some t => if t.eng = some eng && t.got.isSome then finishRequest s a sec else s
  | none => s

/-- Translate a global address for an engine and check it: `w` for writing (R75, R79). -/
def engineXl (s : State) (cu c va : Nat) (w : Bool) : State × Eng Xl :=
  if 2 ^ 57 ≤ va then (s, .bad cXLAT va)
  else
    match xlate s cu c va with
    | (s, .error e) => (s, .bad e va)
    | (s, .ok x) =>
      (s, if w && (!reW x.e || reImm x.e) then .bad cPERM va
        else if !w && !reRd x.e then .bad cPERM va
        else if w && !x.host && (s.winOf x.sector).isSome then .bad cFMTW va
        else .ok x)

/-- The 64 bytes of a translated sector as a die's L2 reads them; of host memory, as the host's coherence point has them. -/
def engineRead (s : State) (a eng va : Nat) (x : Xl) : State × Eng (List Byte × Bool) :=
  if x.host then
    let s := hostGiveUp s (hostKey x)
    (s, .ok (Memory.bytes s.mem.hostMem (x.pa / 64 * 64) 64, false))
  else if engineBlocked s a x.sector eng then (markWaiter (engineLets s a x.sector eng) a x.sector, .wait)
  else
    match l2Fetch s a x.sector (reImm x.e) (reT64 x.e) (some eng) with
    | (s, none) => (s, .wait)
    | (s, some g) => (served s a x.sector, if g.poi then .bad cPOISON va else .ok (g.data, g.wo))

/-- Write the bytes of a mask of a translated sector, holding all its tokens (R32); tells whether it is done. -/
def engineWrite (s : State) (a eng : Nat) (x : Xl) (mask : BitVec 64) (d : List Byte) : State × Bool :=
  if x.host then
    let s := hostGiveUp s (hostKey x)
    let base := x.pa / 64 * 64
    (s.modMem fun m => { m with hostMem := Memory.setEnabled m.hostMem base (fun i => mask.getLsbD i) d }, true)
  else if engineBlocked s a x.sector eng then (markWaiter (engineLets s a x.sector eng) a x.sector, false)
  else if s.canWrite a x.sector then (served (l2Merge s a x.sector mask d) a x.sector, true)
  else (need s a x.sector true (reT64 x.e) (some eng), false)

/-- Write blocks of 64 bytes from `va` on through a die's L2, as far as tokens allow; a block that may not be written faults. -/
def writeImage (s : State) (cu c va : Nat) (blocks : List (List Byte)) : State × Eng Unit :=
  match blocks with
  | [] => (s, .ok ())
  | b :: rest =>
    match engineXl s cu c va true with
    | (s, .bad e a) => (s, .bad e a)
    | (s, .wait) => (s, .wait)
    | (s, .ok x) =>
      match engineWrite s (dieOf cu) (engineOf cu 3) x (byteMask 0 b.length) b with
      | (s, false) => (s, .wait)
      | (s, true) => writeImage s cu c (va + 64) rest

/-- Bytes in blocks of 64. -/
def blocks64 (l : List Byte) : List (List Byte) := (List.range ((l.length + 63) / 64)).map fun i => (l.drop (64 * i)).take 64

/-- One byte of an engine's source: global, or a scratchpad offset checked against the allocation (R262, R276). `wo` is the
overflow mark of R156. -/
def engineByte (s : State) (cu c w eng space va : Nat) : State × Eng (Byte × Bool) :=
  if space = 1 then
    match s.wg w with
    | none => (s, .wait)
    | some g =>
      if g.spBytes ≤ va then (s, .bad cPERM va)
      else if s.mem.regs.any fun r => r.space = 1 && r.wg = w && r.eng ≠ eng && r.bars (va / 64) (byteMask (va % 64) 1) false then
        (s, .wait)
      else (s, .ok (Memory.byte g.scratch va, false))
  else
    match engineXl s cu c va false with
    | (s, .bad e v) => (s, .bad e v)
    | (s, .wait) => (s, .wait)
    | (s, .ok x) =>
      match engineRead s (dieOf cu) eng va x with
      | (s, .bad e v) => (s, .bad e v)
      | (s, .wait) => (s, .wait)
      | (s, .ok (d, wo)) => (s, .ok ((d[x.pa % 64]?).getD 0, wo))

/-- Bytes of a source at consecutive addresses modulo 2^64. -/
def engineBytes (s : State) (cu c w eng space va n : Nat) : State × Eng (List Byte × Bool) :=
  (List.range n).foldl (fun (acc : State × Eng (List Byte × Bool)) i =>
    match acc with
    | (s, .ok (l, m)) =>
      match engineByte s cu c w eng space ((va + i) % 2 ^ 64) with
      | (s, .ok (b, k)) => (s, .ok (l ++ [b], m || k))
      | (s, .wait) => (s, .wait)
      | (s, .bad e v) => (s, .bad e v)
    | x => x) (s, .ok ([], false))

/-- Write an aligned 8-byte word in global space at a die's L2, single-copy atomically (R277, R279). -/
def engineWord (s : State) (cu c eng va : Nat) (v : Word64) : State × Eng Unit :=
  match engineXl s cu c va true with
  | (s, .bad e a) => (s, .bad e a)
  | (s, .wait) => (s, .wait)
  | (s, .ok x) =>
    let off := x.pa % 64
    let (s, ok) := engineWrite s (dieOf cu) eng x (byteMask off 8) (spread off (leBytes 8 v.toNat))
    (s, if ok then .ok () else .wait)

/-! ### Registrations (R32, R266) -/

/-- The blocks of a range to register. -/
def rangeBlocks (lo n : Nat) : NMap RegBlock :=
  if n = 0 then [] else (blockMasks lo n).map fun p => (p.1, { written := false, bytes := p.2 })

/-- Register a destination. -/
def register (s : State) (r : Reg32) : State :=
  if r.pend.isEmpty then s else s.modMem fun m => { m with regs := m.regs ++ [r] }
/-- Bytes of a block of a command's destination have been written; `all` tells that the command writes no more of it. -/
def regWritten (s : State) (cmd space b : Nat) (mask : BitVec 64) (all : Bool) : State :=
  let upd := fun (x : Nat × RegBlock) => (x.1, ({ written := all, bytes := x.2.bytes &&& ~~~mask } : RegBlock))
  s.modMem fun m => { m with regs := m.regs.map fun r =>
    if r.cmd = cmd && r.space = space then
      { r with pend := (r.pend.map fun x => if x.1 = b then upd x else x).filter fun x => x.2.bytes ≠ 0 }
    else r }
/-- A command's registrations end. -/
def regEnd (s : State) (cmd : Nat) : State := s.modMem fun m => { m with regs := m.regs.filter fun r => r.cmd ≠ cmd }

/-- An access to the scratchpad that a thread's log still holds: an engine's write to scratch comes after it (R226). -/
def scratchOpen (t : Thread) : Bool := t.log.any fun e => accAs e.f = 1 && !isFence e && e.opc ≠ 0x189
/-- A scratch store in the log older than a mark. -/
def scratchStoreOpen (t : Thread) (mark : Nat) : Bool :=
  t.log.any fun e => accAs e.f = 1 && (isStore e.opc || isAtomic e.opc) && e.id < mark
/-- The number that the thread's next log entry takes. -/
def Thread.nextEntry (t : Thread) : Nat := t.logSeq
/-- Accesses in the log whose effect a command of a source space, 0 global and 1 scratch, would see (R272): stores and atomics that
are performed at L2 or beyond, or in the scratchpad. -/
def sourceOpen (t : Thread) (space : Nat) : Bool :=
  t.log.any fun e => (isStore e.opc || isAtomic e.opc || e.opc = 0x18B) &&
    (if space = 1 then accAs e.f = 1 else accAs e.f ≠ 1 && (accAs e.f = 2 || accScope e.f ≠ 0 || e.opc = 0x18B))

/-! ### Imprecise faults (R102, R229, R276, R344) -/

/-- An imprecise fault of a group: it freezes now, or, already frozen or parked, before its first instruction after its resume or
restore (R388). -/
def engineFault (s : State) (tid : Nat) (x : Trap) : State :=
  match s.thread tid with
  | none => s
  | some t =>
    let x := { x with imp := true, async := true }
    if (t.fz.isNone && t.place ≠ .parked) || t.stepping ≠ 0 then takeFault s tid x t.pc
    else if t.postCause.isSome then s.modThread tid fun u => { u with postMore := u.postMore ++ [faultRec s t x] }
    else s.modThread tid fun u => { u with postCause := some (faultRec s t x) }

/-- DIEL in every group of a kind that has not exited (R22). -/
def dielWhere (s : State) (hit : Thread → Bool) : State :=
  ((s.thr.filter fun p => p.2.isGroup && p.2.place ≠ .exited && hit p.2).map (·.1)).foldl (fun s tid =>
    match s.thread tid with
    | some t => if t.place = .exited then s else engineFault s tid dielTrap
    | none => s) s

/-- A request that no group of a context makes, but the work engine or a packet under its tables: the tile counts as touched, and one that
is lost traps the context's groups (R21, R22, log 18). -/
def requestCtx (s : State) (c : Nat) (x : Xl) (again : Bool) : State :=
  let new := !(s.ctx c).tdm.getLsbD x.tile
  let s := s.touch c x
  if s.tileLost x && (again || new) then dielWhere s fun t => t.ctx = c else s

/-- The group of a workgroup that takes an engine's fault: the issuing group, else the lowest-numbered one that has not
exited. -/
def faultTaker (s : State) (w tid : Nat) : Option Nat :=
  let alive : Nat → Bool := fun i => match s.thread i with | some t => decide (t.place ≠ .exited) | none => false
  if alive tid then some tid
  else
    match s.wg w with
    | none => none
    | some g => g.groups.find? alive

/-- Raise an engine's fault in that group, or in a system tadpole when every group has exited; tells who took it. -/
def raiseEngine (s : State) (w tid : Nat) (x : Trap) : State × Option Nat :=
  match faultTaker s w tid with
  | some i => (engineFault s i x, some i)
  | none =>
    match s.thread tid with
    | some t => (orphanFault s t { x with imp := true }, none)
    | none => (s, none)

/-! ### Phase counters (R280, R281) -/

/-- The fields of a record. -/
def phPhase (r : Nat) : Nat := r >>> 112
def phExp (r : Nat) : Nat := (r >>> 64) % 2 ^ 40
def phCnt (r : Nat) : Nat := r % 2 ^ 64
/-- A record after an arrival of value `v`; reserved bits stay. -/
def phArrive (r v : Nat) : Nat :=
  let cnt := (phCnt r + v) % 2 ^ 64
  let ex := phExp r
  if ex = 0 then r - phCnt r + cnt
  else
    let ph := (phPhase r + cnt / ex) % 2 ^ 16
    ph <<< 112 + ((r >>> 64) % 2 ^ 48) <<< 64 + cnt % ex

/-- The record at a scratch offset of a workgroup. -/
def phRecord (s : State) (w off : Nat) : Nat := match s.wg w with | some g => leNat (Memory.bytes g.scratch off 16) | none => 0
/-- Store a record: one 16-byte write. -/
def phStore (s : State) (w off r : Nat) : State :=
  fireScratch (s.modWg w fun g => { g with scratch := Memory.setBytes g.scratch off (leBytes 16 r) }) w off 16
/-- An arrival of value `v` on a record. -/
def arrive (s : State) (w off v : Nat) : State := phStore s w off (phArrive (phRecord s w off) v)

end Sys2Proof.Machine
end

