-- ==== Sys2Proof/Machine/Copy.lean ====
section
/-! DEFINITION. The copy engine (R257-R279) and the forms on phase counters (R280-R286). -/

namespace Sys2Proof.Machine

open Host (Outcome)

/-! ### Fields of a command (R263, R264) -/

namespace CopyCmd

def kind (c : CopyCmd) : Nat := bits c.w0 3 0
def sas (c : CopyCmd) : Nat := bits c.w0 5 4
def das (c : CopyCmd) : Nat := bits c.w0 7 6
def ste (c : CopyCmd) : Bool := c.w0.getLsbD 10
def phe (c : CopyCmd) : Bool := c.w0.getLsbD 11
def ord (c : CopyCmd) : Bool := c.w0.getLsbD 12
def arr1 (c : CopyCmd) : Bool := c.w0.getLsbD 13
def p0 (c : CopyCmd) : Nat := bits c.w0 39 16
def stix (c : CopyCmd) : Nat := bits c.w0 47 40
def phoff (c : CopyCmd) : Nat := 16 * bits c.w0 63 48
def src (c : CopyCmd) : Nat := c.w1.toNat
def dst (c : CopyCmd) : Nat := c.w2.toNat
/-- LEN of a linear or fill command. -/
def len (c : CopyCmd) : Nat := bits c.w3 39 0
/-- ROWS of a strided command, and of a gather its COUNT. -/
def rows (c : CopyCmd) : Nat := c.p0 + 1
def rb (c : CopyCmd) : Nat := bits c.w3 15 0 + 1
def sstr (c : CopyCmd) : Int := signedOf 24 (bits c.w3 39 16)
def dstr (c : CopyCmd) : Int := signedOf 24 (bits c.w3 63 40)
def list (c : CopyCmd) : Nat := bits c.w3 56 0
def ilas (c : CopyCmd) : Nat := bits c.w3 60 60
def elw (c : CopyCmd) : Nat := if c.kind = 2 then bits c.w3 63 61 else c.p0 % 8
/-- Bytes of an element. -/
def size (c : CopyCmd) : Nat := 2 ^ c.elw
/-- DSPAN in bytes. -/
def span (c : CopyCmd) : Nat := 64 * (c.p0 >>> 3)
/-- The address of the shape record. -/
def record (c : CopyCmd) : Nat := bits c.w3 56 6 * 64

end CopyCmd

/-- An address modulo 2^64. -/
def wrap64 (i : Int) : Nat := (i % (2 ^ 64 : Nat)).toNat

/-- The least range that holds rows of `n` bytes, `st` apart: its start and length. -/
def rowsRange (b : Nat) (st : Int) (k n : Nat) : Nat × Nat :=
  let far : Int := st * ((k - 1 : Nat) : Int)
  (if st < 0 then wrap64 (b + far) else b, far.natAbs + n)

/-- The registered range (R266): start and length; length 0 for a zero-length command. -/
def CopyCmd.range (c : CopyCmd) : Nat × Nat :=
  match c.kind with
  | 1 => rowsRange c.dst c.dstr c.rows c.rb
  | 2 => (c.dst, c.rows * c.size)
  | 3 => (c.dst, c.span)
  | _ => (c.dst, c.len)

/-! ### Checks at entry (R262) -/

/-- A reserved code or field. -/
def CopyCmd.reserved (c : CopyCmd) : Bool :=
  let p0 := c.p0
  4 < c.kind || 2 ≤ c.sas || 2 ≤ c.das || (c.kind = 4 && c.sas ≠ 0) || bits c.w0 9 8 ≠ 0 || bits c.w0 15 14 ≠ 0
    || (match c.kind with
        | 0 | 4 => p0 ≠ 0 || bits c.w3 63 40 ≠ 0
        | 2 => bits c.w3 59 57 ≠ 0 || 5 ≤ c.elw
        | 3 => bits c.w3 63 57 ≠ 0 || bits c.w3 5 0 ≠ 0 || 5 ≤ c.elw
        | _ => false)

/-- Bytes `a .. a + n − 1` lie in a scratch allocation. -/
def inScratch (sp a n : Nat) : Bool := a < 2 ^ 32 && a + n ≤ sp

/-- The precise fault of a command at its issue: cause, FSYN and address; of several the first in the order of these checks (log 49). -/
def CopyCmd.fault (c : CopyCmd) (sp : Nat) : Option (Nat × Nat × Nat) :=
  let (lo, n) := c.range
  if c.reserved then some (cTRAP, 0x80000020, 0)
  else if c.ste && !c.stb.getLsbD 0 then some (cTRAP, 0x80000021, 0)
  else if c.kind = 2 && c.list % 4 ≠ 0 then some (cTRAP, 0x80000022, 0)
  else if n ≠ 0 && c.das = 0 && 2 ^ 57 ≤ c.dst then some (cXLAT, 0, c.dst)
  else if n ≠ 0 && c.kind ≠ 4 && c.sas = 0 && 2 ^ 57 ≤ c.src then some (cXLAT, 0, c.src)
  else if n ≠ 0 && c.das = 1 && !inScratch sp lo n then some (cPERM, 0, lo)
  else if n ≠ 0 && c.kind ≠ 4 && c.sas = 1 && !(match c.kind with
      | 0 => inScratch sp c.src c.len
      | 1 => let r := rowsRange c.src c.sstr c.rows c.rb; inScratch sp r.1 r.2
      | _ => inScratch sp c.src 1) then some (cPERM, 0, c.src)
  else if c.kind = 2 && c.ilas = 1 && !inScratch sp c.list (4 * c.rows) then some (cPERM, 0, c.list)
  else if c.phe && !inScratch sp c.phoff 16 then some (cPERM, 0, c.phoff)
  else none

/-! ### CPYQ (R261) -/

/-- The operand words of a form that enters a command, as it read them at its issue: while it waits for its release or for room they
stay what they were, and their checks are not made again (R261, R328). -/
def Thread.words (t : Thread) (read : Nat → Word64) : List Word64 := if t.ops.isEmpty then (List.range 4).map read else t.ops
/-- The form waits, with the words that it has read. -/
def waitWith (s : State) (tid : Nat) (ws : List Word64) : State := s.modThread tid fun u => { u with waits := true, ops := ws }

/-- The four scalar registers that CPYQ reads. -/
def cpyWords (s : State) (tid : Nat) (t : Thread) (f : Fields) : List Word64 := t.words fun k => uniVal s tid t (f.a.toNat + k)

/-- The command that CPYQ enters. -/
def cmdOf (s : State) (tid : Nat) (t : Thread) (f : Fields) : CopyCmd :=
  let w := fun (k : Nat) => ((cpyWords s tid t f)[k]?).getD 0
  let g := s.wg t.wg
  { id := 0, w0 := w 0, w1 := w 1, w2 := w 2, w3 := w 3, ntf := (g.map (·.copyReg 0x30 s.cyc t.barrel)).getD 0,
    stb := (g.map (·.copyReg 0x31 s.cyc t.barrel)).getD 0,
    seq := (((g.map (·.cpySeq)).getD 0) + 1) % 2 ^ 32, tid := tid, running := false, shape := [], pos := 0, written := 0,
    wo := false, stage := 0, held := none, stepped := t.stepping = 1, buf := [] }

/-- The group's own accesses that a command's reads would see are not all performed yet (R272). -/
def CopyCmd.readsOpen (c : CopyCmd) (t : Thread) : Bool :=
  c.range.2 ≠ 0 && ((c.kind ≠ 4 && sourceOpen t c.sas) || (c.kind = 2 && sourceOpen t c.ilas) || (c.kind = 3 && sourceOpen t 0))

/-- CPYQ (R261). -/
def execCpyq (f : Fields) (s : State) : Outcome State Fault Refusal :=
  issue 0x1C0 f s fun s tid t =>
    if t.eff f = 0 then retire 0x1C0 f s tid t {}
    else
      let c := cmdOf s tid t f
      match if t.ops.isEmpty then c.fault (((s.wg t.wg).map (·.spBytes)).getD 0) else none with
      | some (cause, syn, a) =>
        takeFault s tid { cause := cause, syn := BitVec.ofNat 64 syn, opd0 := BitVec.ofNat 64 a,
                          lanes := if cause = cTRAP then (t.live f).setWidth 64 else 0, unit := some (funit 9 0) } t.pc
      | none =>
        let (s, ok) := if accOrder f = 2 then releaseAtPc s tid t (accScope f) else (s, true)
        let room := ((s.wg t.wg).map fun g => decide (g.ring.length < 32)).getD false
        if !ok || !room || (c.das = 1 && scratchOpen t) || c.readsOpen t then waitWith s tid (cpyWords s tid t f)
        else
          let (id, s) := s.fresh
          let (lo, n) := c.range
          let s := register s { cmd := id, eng := engineOf t.cu 0, die := dieOf t.cu, wg := t.wg, ctx := t.ctx, space := c.das,
                                pend := rangeBlocks lo n }
          let s := s.modWg t.wg fun g => { g with cpySeq := c.seq, ring := g.ring ++ [{ c with id := id }] }
          retire 0x1C0 f s tid t { writes := [.uni f.d.toNat (BitVec.ofNat 64 c.seq)] }
            (·.countUp 2)

/-! ### Tensor shape records (R267-R271) -/

namespace Shape

def field (r : List Byte) (hi lo : Nat) : Nat := (leNat r >>> lo) % 2 ^ (hi + 1 - lo)
def ext (r : List Byte) (j : Nat) : Nat := field r (32 * j + 31) (32 * j)
def ds (r : List Byte) (j : Nat) : Int := signedOf 32 (field r (32 * j + 159) (32 * j + 128))
def k (r : List Byte) (j : Nat) : Int := signedOf 32 (field r (32 * j + 287) (32 * j + 256))
def mop (r : List Byte) (j : Nat) : Nat := field r (16 * j + 399) (16 * j + 384)

/-- kv of a micro-op. -/
def kv (r : List Byte) (m : Nat) : Int := if m.testBit 7 then k r (m % 4) else signedOf 7 (m % 128)
/-- Whether a micro-op uses IMM. -/
def usesImm (op : Nat) : Bool := op = 2 || 4 ≤ op

/-- A micro-op that R271 rejects. -/
def badMop (r : List Byte) (m : Nat) : Bool :=
  let op := m >>> 13
  (match op with
    | 0 => m % 2 ^ 13 ≠ 0
    | 1 | 3 => m % 2 ^ 8 ≠ 0
    | _ => (m >>> 8) % 8 ≠ 0)
    || (usesImm op && m.testBit 7 && (m >>> 2) % 32 ≠ 0) || (op = 5 && kv r m ≤ 0)

/-- The offset of the destination of the least and of the greatest element from DST. -/
def corner (r : List Byte) (hi : Bool) : Int :=
  (List.range 4).foldl (fun acc j =>
    let far := ds r j * ((ext r j - 1 : Nat) : Int)
    acc + (if hi then max 0 far else min 0 far)) 0

/-- A record that the engine rejects, for a destination of `span` bytes. -/
def rejected (r : List Byte) (span size : Nat) : Bool :=
  (List.range 8).any (fun j => badMop r (mop r j)) || 2 ^ 40 < ext r 0 * ext r 1 * ext r 2 * ext r 3
    || (!(List.range 4).any (fun j => ext r j = 0) && (corner r false < 0 || (span : Int) < corner r true + size))

/-- Wrap to a signed 64-bit value. -/
def w64 (i : Int) : Int := signedOf 64 (wrap64 i)

/-- The working values, the offset and the validity while micro-ops run. -/
structure Prog where
  y : List Int
  o : Int
  val : Bool
  stop : Bool

/-- A coordinate, 0 beyond the last. -/
def ngetOr (l : List Nat) (i : Nat) : Nat := (l[i]?).getD 0

/-- Run one micro-op at coordinates `c`. -/
def runMop (r : List Byte) (c : List Nat) (p : Prog) (m : Nat) : Prog :=
  let op := m >>> 13
  let d := (m >>> 11) % 4
  let sel := (m >>> 8) % 8
  let sv : Int := if sel < 4 then (ngetOr c sel : Nat) else (p.y[sel - 4]?).getD 0
  let yd := (p.y[d]?).getD 0
  let n := kv r m
  if p.stop then p
  else
    match op with
    | 0 => { p with stop := true }
    | 1 => { p with y := p.y.set d sv }
    | 2 => { p with y := p.y.set d (w64 (yd * n)) }
    | 3 => { p with y := p.y.set d (w64 (yd + sv)) }
    | 4 => { p with y := p.y.set d (w64 (yd + n)) }
    | 5 => { p with y := p.y.set d (Int.fdiv yd n) }
    | 6 => if yd < 0 || n ≤ yd then { p with val := false } else p
    | _ => { p with o := w64 (p.o + yd * n) }

/-- The source offset of an element, none for padding. -/
def offset (r : List Byte) (c : List Nat) : Option Int :=
  let p := (List.range 8).foldl (fun p j => runMop r c p (mop r j)) { y := [0, 0, 0, 0], o := 0, val := true, stop := false }
  if p.val then some p.o else none

/-- Coordinates of element `i` of the walk, c0 fastest. -/
def coords (r : List Byte) (i : Nat) : List Nat :=
  let e := ext r
  [i % e 0, i / e 0 % e 1, i / (e 0 * e 1) % e 2, i / (e 0 * e 1 * e 2)]
def count (r : List Byte) : Nat := ext r 0 * ext r 1 * ext r 2 * ext r 3
/-- The destination of an element, as an offset from DST. -/
def dest (r : List Byte) (c : List Nat) : Int :=
  (List.range 4).foldl (fun acc j => acc + ((ngetOr c j : Nat) : Int) * ds r j) 0

end Shape

/-! ### What each destination byte receives (R265, R270) -/

/-- The source of a destination byte. -/
inductive ByteSrc where
  | skip
  | const (b : Byte)
  | addr (a : Nat)
  /-- Byte `i` of the source element that entry `j` of the index list names. -/
  | index (j i : Nat)
  deriving DecidableEq, Repr

/-- Where destination address `a` is filled from; later writes are final. -/
def CopyCmd.byteSrc (c : CopyCmd) (a : Nat) : ByteSrc :=
  let off := fun (b : Nat) => (a + 2 ^ 64 - b) % 2 ^ 64
  match c.kind with
  | 0 => if off c.dst < c.len then .addr ((c.src + off c.dst) % 2 ^ 64) else .skip
  | 4 => if off c.dst < c.len then .const (c.w1.extractLsb' (8 * (a % 8)) 8) else .skip
  | 1 =>
    let row := fun (j : Nat) => wrap64 (c.dst + c.dstr * j)
    match (List.range c.rows).reverse.find? fun j => off (row j) < c.rb with
    | some j => .addr (wrap64 (c.src + c.sstr * j + off (row j)))
    | none => .skip
  | 2 => if off c.dst < c.rows * c.size then .index (off c.dst / c.size) (off c.dst % c.size) else .skip
  | _ =>
    let at' := fun (i : Nat) => wrap64 (c.dst + Shape.dest c.shape (Shape.coords c.shape i))
    match (List.range (Shape.count c.shape)).reverse.find? fun i => off (at' i) < c.size with
    | none => .skip
    | some i =>
      match Shape.offset c.shape (Shape.coords c.shape i) with
      | none => .const 0
      | some o => .addr (wrap64 (c.src + o + off (at' i)))

/-- Fold a read of an engine over a list, with the overflow mark gathered; the first wait or fault ends it. -/
def engineFold {α β : Type} (s : State) (l : List α) (step : State → α → State × Eng (β × Bool)) : State × Eng (List β × Bool) :=
  l.foldl (fun (acc : State × Eng (List β × Bool)) i =>
    match acc with
    | (s, .ok (out, m)) =>
      (match step s i with
        | (s, .ok (x, k)) => (s, .ok (out ++ [x], m || k))
        | (s, .wait) => (s, .wait)
        | (s, .bad e v) => (s, .bad e v))
    | x => x) (s, .ok ([], false))

/-- The aligned 16-byte parts of the index list that a destination block uses. -/
def CopyCmd.listParts (c : CopyCmd) (base : Nat) : List Nat :=
  ((List.range 64).filterMap fun i =>
    match c.byteSrc ((base + i) % 2 ^ 64) with
    | .index j _ => some ((c.list + 4 * j) / 16)
    | _ => none).eraseDups

/-- Read those parts, less the ones read already: each is read once, as a whole (R265). -/
def readList (s : State) (cu ctx w : Nat) (c : CopyCmd) (base : Nat) : State × Eng (NMap (List Byte) × Bool) :=
  engineFold s (c.listParts base) fun s p =>
    match nget c.buf p with
    | some d => (s, .ok ((p, d), false))
    | none =>
      match engineBytes s cu ctx w (engineOf cu 0) c.ilas (16 * p) 16 with
      | (s, .ok (d, k)) => (s, .ok ((p, d), k))
      | (s, .wait) => (s, .wait)
      | (s, .bad e v) => (s, .bad e v)

/-- The address that one destination byte is filled from, through the parts of the index list; none for a byte that is not read:
`inl` gives its value. -/
def CopyCmd.byteAt (c : CopyCmd) (buf : NMap (List Byte)) (a : Nat) : Option (Byte ⊕ Nat) :=
  match c.byteSrc a with
  | .skip => none
  | .const b => some (.inl b)
  | .addr a => some (.inr a)
  | .index j i =>
    let n := leNat (sliceOf (ngetD buf ((c.list + 4 * j) / 16) []) ((c.list + 4 * j) % 16) 4)
    some (if n = 0xFFFFFFFF then .inl 0 else .inr ((c.src + n * c.size + i) % 2 ^ 64))

/-- The bytes of the destination block at `base`: what each receives, and whether a marked sector was read (R156). -/
def readBlock (s : State) (cu ctx w : Nat) (c : CopyCmd) (buf : NMap (List Byte)) (base : Nat) :
    State × Eng (List (Option Byte) × Bool) :=
  engineFold s (List.range 64) fun s i =>
    match c.byteAt buf ((base + i) % 2 ^ 64) with
    | none => (s, .ok (none, false))
    | some (.inl b) => (s, .ok (some b, false))
    | some (.inr a) =>
      match engineByte s cu ctx w (engineOf cu 0) c.sas a with
      | (s, .ok (b, k)) => (s, .ok (some b, k))
      | (s, .wait) => (s, .wait)
      | (s, .bad e v) => (s, .bad e v)

/-! ### Running (R257, R268, R272-R274) -/

def State.modCopy (s : State) (w id : Nat) (g : CopyCmd → CopyCmd) : State :=
  s.modWg w fun x => { x with ring := x.ring.map fun c => if c.id = id then g c else c }

/-- The base of destination block `k` of a command, if there is one. -/
def CopyCmd.block (c : CopyCmd) (k : Nat) : Option Nat :=
  let (lo, n) := c.range
  if n = 0 || (lo % 64 + n + 63) / 64 ≤ k then none else some ((lo - lo % 64 + 64 * k) % 2 ^ 64)

/-- What a command's next step comes to: done, waiting, or a fault with cause, FSYN and address. -/
inductive CopyStep where
  | done (s : State)
  | wait (s : State)
  | fault (cause syn addr : Nat)

/-- FSYN of an engine fault: destination or source (R276). -/
def copySyn (dst : Bool) : Nat := if dst then 0x60001 else 0x60000

/-- Fetch the shape record of a tensor command. -/
def fetchShape (s : State) (g : Wg) (w : Nat) (c : CopyCmd) : CopyStep :=
  match engineBytes s g.cu g.ctx w (engineOf g.cu 0) 0 c.record 64 with
  | (_, .bad e v) => .fault e (copySyn false) v
  | (s, .wait) => .wait s
  | (s, .ok (l, k)) =>
    if Shape.rejected l c.span c.size then .fault cTRAP 0x80000023 c.record
    else .done (s.modCopy w c.id fun c => { c with shape := l, wo := c.wo || k })

/-- Write destination block `base` with the bytes read for it. -/
def writeBlock (s : State) (g : Wg) (w : Nat) (c : CopyCmd) (buf : NMap (List Byte)) (base : Nat) (l : List (Option Byte)) (wo : Bool) :
    CopyStep :=
  let mask : BitVec 64 := BitVec.ofNat 64 ((List.range 64).foldl (fun acc i => if ((l[i]?).getD none).isSome then acc + 2 ^ i else acc) 0)
  let d := l.map fun b => b.getD 0
  let n := (l.filter Option.isSome).length
  let next := fun (s : State) => s.modCopy w c.id fun c => { c with pos := c.pos + 1, written := c.written + n, wo := c.wo || wo, buf := buf }
  if n = 0 then .done (next s)
  else if c.das = 1 then
    let s := s.modWg w fun g => { g with scratch := Memory.setEnabled g.scratch base (fun i => mask.getLsbD i) d }
    .done (next (regWritten (fireScratch s w base 64) c.id 1 (base / 64) mask true))
  else
    match engineXl s g.cu g.ctx base true with
    | (_, .bad e v) => .fault e (copySyn true) v
    | (s, .wait) => .wait s
    | (s, .ok x) =>
      match engineWrite s (dieOf g.cu) (engineOf g.cu 0) x mask d with
      | (s, true) => .done (next (regWritten s c.id 0 (base / 64) mask true))
      | (s, false) => .wait s

/-- Every block of a command is written, and a shape record fetched where it has one. -/
def CopyCmd.dataDone (c : CopyCmd) : Bool :=
  !(c.kind = 3 && c.range.2 ≠ 0 && c.shape.isEmpty) && (c.block c.pos).isNone

/-- The next data step of a running command; none when every block is written. -/
def copyData (s : State) (g : Wg) (w : Nat) (c : CopyCmd) : Option CopyStep :=
  if c.kind = 3 && c.range.2 ≠ 0 && c.shape.isEmpty then some (fetchShape s g w c)
  else
    match c.block c.pos with
    | none => none
    | some base =>
      some (match readList s g.cu g.ctx w c base with
        | (_, .bad e v) => .fault e (copySyn false) v
        | (s, .wait) => .wait s
        | (s, .ok (buf, k)) =>
          match readBlock s g.cu g.ctx w c buf base with
          | (_, .bad e v) => .fault e (copySyn false) v
          | (s, .wait) => .wait s
          | (s, .ok (l, wo)) => writeBlock s g w c buf base l (k || wo))

/-- Write a stamp (R277). -/
def writeStamp (s : State) (g : Wg) (c : CopyCmd) (status : Nat) : State × Eng Unit :=
  let va := bits c.stb 56 11 * 2048 + 8 * c.stix
  let v := BitVec.ofNat 64 (((s.globalTime (dieOf g.cu)).toNat % 2 ^ 32) <<< 32 + (c.seq % 2 ^ 24) <<< 8 + status)
  engineWord s g.cu g.ctx (engineOf g.cu 0) va v

/-- The end of a command: its registrations, CPYDONE and C (R258, R274), and the marks of R156. -/
def endCopy (s : State) (w : Nat) (c : CopyCmd) : State :=
  let s := regEnd s c.id
  let s := s.modWg w fun g => { g with ring := g.ring.filter fun x => x.id ≠ c.id, cpyDone := c.seq }
  s.modThread c.tid fun t =>
    let t := t.countDown 2
    if c.wo then { t with fpstat := raiseFlags t.fpctl t.fpstat (flagWO + flagOF) } else t

/-- The completion steps of the command at the head of the ring, one at a time (R274, R278, R279). A stamp or notify word that
cannot be written is a fault after which the command goes on. An abandoned command has its stamp alone, in ring order with the others
(R276, R277). -/
def copyFinish (s : State) (g : Wg) (w : Nat) (c : CopyCmd) : CopyStep :=
  let stage := fun (s : State) (n : Nat) => s.modCopy w c.id fun c => { c with stage := n }
  match c.stage with
  | 0 | 1 =>
    if !c.ste then .done (stage s 2)
    else
      match writeStamp s g c 1 with
      | (_, .bad e v) => .fault e 0x60002 v
      | (s, .wait) => .wait s
      | (s, .ok _) => .done (stage s 2)
  | 2 => .done (stage (if c.phe then arrive s w c.phoff (if c.arr1 then 1 else c.written) else s) 3)
  | 4 =>
    let drop := fun (s : State) => s.modWg w fun g =>
      { g with ring := g.ring.filter fun x => x.id ≠ c.id, cpyDone := if c.running then c.seq else g.cpyDone }
    if !c.ste then .done (drop s)
    else
      (match writeStamp s g c (0x80 + ((c.held.map (·.cause)).getD 0)) with
        | (s, .wait) => .wait s
        | (s, _) => .done (drop s))
  | _ =>
    if !c.ntf.getLsbD 0 then .done (endCopy s w c)
    else
      match engineWord s g.cu g.ctx (engineOf g.cu 0) (bits c.ntf 56 3 * 8) (BitVec.ofNat 64 c.seq) with
      | (_, .bad e v) => .fault e 0x60002 v
      | (s, .wait) => .wait s
      | (s, .ok _) => .done (endCopy s w c)

/-- The next step of a command of a ring: none while it may not take one. -/
def copyNext (s : State) (g : Wg) (w : Nat) (c : CopyCmd) : Option CopyStep :=
  let first := (g.ring.head?).any fun x => x.id = c.id
  if c.stage = 4 then (if first then some (copyFinish s g w c) else none)
  else if !c.running || c.held.isSome || c.stepped || s.halting g.ctx then none
  else
    match if c.stage = 0 then copyData s g w c else none with
    | some r => some r
    | none => if first then some (copyFinish s g w c) else none

/-- A command of a ring, which runs on while its workgroup is parked (R275). -/
def copyAt (s : State) (w id : Nat) : Option (Wg × CopyCmd) :=
  (s.wg w).bind fun g => (g.ring.find? fun c => c.id = id).map fun c => (g, c)

/-- COPY_DISPATCH (R257, R268): commands start in ring order, at most 4 in progress, one with ORD after every earlier one. A
tensor command fetches its shape record. -/
def execCopyDispatch (wg entry : Nat) (s : State) : Outcome State Fault Refusal :=
  match copyAt s wg entry with
  | none => .next s
  | some (g, c) =>
    let before := g.ring.takeWhile fun x => x.id ≠ entry
    if c.running || c.stage = 4 || c.stepped || s.halting g.ctx || 4 ≤ before.length || !(before.all fun x => x.running) || (c.ord && !before.isEmpty) then
      .next s
    else
      let s := s.modCopy wg entry fun c => { c with running := true }
      if c.kind = 3 && c.range.2 ≠ 0 then
        .next (match fetchShape s g wg c with
          | .done s => s
          | .wait s => s
          | .fault _ _ _ => s)
      else .next s

/-- COPY_COMPLETE (R272-R274): a command goes on by one destination sector, or by one of its completion steps. -/
def execCopyComplete (wg entry : Nat) (s : State) : Outcome State Fault Refusal :=
  match copyAt s wg entry with
  | none => .next s
  | some (g, c) =>
    .next (match copyNext s g wg c with
      | some (.done s) => s
      | some (.wait s) => s
      | _ => s)

/-- What an error in the data of an engine's access leaves at the sector's home, or in the counts of corrected errors (R36, R309). -/
def engineError (s : State) (ctx va : Nat) (d : DataError) : State :=
  let s := match d with | .corrected p => countError s p | _ => s
  match walk s ctx va with
  | some x => if x.host then s else dramError s x.sector d
  | none => s

/-- The address at which a command's next step would meet an error in its data, the `i`-th byte of the block counted: the shape
record, a source byte or the index entry of it, or a destination byte. -/
def CopyCmd.errorAt (c : CopyCmd) (dst : Bool) (i : Nat) : Option Nat :=
  if c.kind = 3 && c.range.2 ≠ 0 && c.shape.isEmpty then (if dst then none else some c.record)
  else
    (c.block c.pos).bind fun base =>
      if dst then some ((base + i % 64) % 2 ^ 64)
      else
        match c.byteSrc ((base + i % 64) % 2 ^ 64) with
        | .addr a => some a
        | .index j _ => some ((c.list + 4 * j) % 2 ^ 64)
        | _ => none

/-- The address of the stamp or notify word that a command's next completion step writes. -/
def CopyCmd.wordAt (c : CopyCmd) : Option Nat :=
  match c.stage with
  | 0 | 1 => if c.ste && c.dataDone then some (bits c.stb 56 11 * 2048 + 8 * c.stix) else none
  | 3 => if c.ntf.getLsbD 0 then some (bits c.ntf 56 3 * 8) else none
  | _ => none

/-- COPY_ENGINE_FAULT (R276, R278): the next step of a command meets a fault, or an error in its data where `bad` names one: of which
kind, whether at the destination, and at which byte of the block, or in the stamp or notify word where that is the next step (R423). It
is held and the group freezes; a stamp or notify word that cannot be written is passed over. -/
def execCopyEngineFault (wg entry : Nat) (bad : Option (DataError × Bool × Nat)) (s : State) : Outcome State Fault Refusal :=
  match copyAt s wg entry with
  | none => .next s
  | some (g, c) =>
    let word := c.wordAt
    let err := bad.bind fun b =>
      match word with
      | some a => some (b.1, 0x60002, a, true)
      | none => (if c.stage = 0 then c.errorAt b.2.1 b.2.2 else none).map fun a =>
          (b.1, copySyn b.2.1, a, (if b.2.1 then c.das else c.sas) = 0 || (c.shape.isEmpty && c.kind = 3))
    let found := match bad, copyNext s g wg c with
      | some _, some _ => (match err with | some (d, n, a, _) => if isCorrected d then none else some (cUCE, n, a) | none => none)
      | none, some (.fault e n a) => some (e, n, a)
      | _, _ => none
    let s := match err, copyNext s g wg c with
      | some (d, _, a, glob), some _ => if glob then engineError s g.ctx a d else s
      | _, _ => s
    match found with
    | none => .next s
    | some (e, n, a) =>
      let num := fun (x : Nat) => BitVec.ofNat 64 x
      let trap : Trap := { cause := e, syn := num n, opd0 := num c.seq, opd1 := num a, opd2 := num c.written, unit := some (funit 9 0) }
      let s := if n = 0x60002 then
          (if c.stage = 3 then endCopy s wg c else s.modCopy wg entry fun c => { c with stage := 2 })
        else s.modCopy wg entry fun c => { c with shape := [], held := some { cause := e, taker := faultTaker s wg c.tid } }
      .next (raiseEngine s wg c.tid trap).1

/-! ### Forms on phase counters (R282-R286) -/

/-- The check of a record's offset (R285). -/
def phFault (s : State) (t : Thread) (off : Nat) : Option Trap :=
  let at' : Word64 := BitVec.ofNat 64 off
  if off % 16 ≠ 0 then some { cause := cMISAL, opd0 := at', unit := some (funit 9 0) }
  else if !inScratch (scratchBytes s t) off 16 then some { cause := cPERM, opd0 := at', unit := some (funit 9 0) } else none

/-- The scratch offset, and operand B or IMM32 zero-extended. -/
def phOff (s : State) (tid : Nat) (t : Thread) (f : Fields) : Nat := (uniVal s tid t f.a.toNat).toNat
def phB (s : State) (tid : Nat) (t : Thread) (f : Fields) : Word64 := if f.xk then f.x.setWidth 64 else uniVal s tid t f.b.toNat

/-- PHINIT and PHARR: check, release, then act at the scratchpad after the group's own earlier accesses to it. -/
def phWrite (opc : Nat) (f : Fields) (s : State) (act : State → Nat → Thread → Nat → State × List Write) :
    Outcome State Fault Refusal :=
  issue opc f s fun s tid t =>
    if t.eff f = 0 then retire opc f s tid t {}
    else
      let off := phOff s tid t f
      match phFault s t off with
      | some x => takeFault s tid x t.pc
      | none =>
        let (s, ok) := if accOrder f = 2 then releaseAtPc s tid t (accScope f) else (s, !scratchOpen t)
        if !ok || scratchHeld s t.wg off 16 then s.modThread tid fun u => { u with waits := true }
        else
          let (s, ws) := act s tid t off
          retire opc f s tid t { writes := ws }

/-- PHINIT (R283). -/
def execPhinit (f : Fields) (s : State) : Outcome State Fault Refusal :=
  phWrite 0x1C1 f s fun s tid t off => (phStore s t.wg off (((phB s tid t f).toNat % 2 ^ 40) <<< 64), [])

/-- PHARR (R283). -/
def execPharr (f : Fields) (s : State) : Outcome State Fault Refusal :=
  phWrite 0x1C2 f s fun s tid t off =>
    let s := arrive s t.wg off (phB s tid t f).toNat
    (s, [.uni f.d.toNat (BitVec.ofNat 64 (phPhase (phRecord s t.wg off)))])

/-- A phase has passed: (PHASE − p) mod 2^16 in 1 .. 32,767 (R284). -/
def phPassed (phase p : Nat) : Bool := let d := (phase + 65536 - p % 65536) % 65536; 1 ≤ d && d ≤ 32767

/-- PHWAIT and PHTEST: check, then read the record: PHWAIT after the group's own earlier accesses to scratch and after what an engine has
still to write there, PHTEST at once (R226, R284). -/
def phRead (opc : Nat) (f : Fields) (s : State) (act : State → Nat → Thread → Nat → Option Word64) : Outcome State Fault Refusal :=
  issue opc f s fun s tid t =>
    if t.live f = 0 then retire opc f s tid t {}
    else
      let off := phOff s tid t f
      match phFault s t off with
      | some x => takeFault s tid x t.pc
      | none =>
        match if opc = 0x1C3 && (scratchOpen t || scratchHeld s t.wg off 16) then none else act s tid t (phRecord s t.wg off) with
        | none => s.modThread tid fun u => { u with waits := true }
        | some v =>
          let s := if accOrder f = 1 && accScope f ≠ 0 then acquireL1 s t.cu else s
          retire opc f s tid t { writes := [.uni f.d.toNat v] }

/-- PHWAIT (R284): not ready until the phase has passed. -/
def execPhwait (f : Fields) (s : State) : Outcome State Fault Refusal :=
  phRead 0x1C3 f s fun s tid t r =>
    if phPassed (phPhase r) (phB s tid t f).toNat then some (BitVec.ofNat 64 (phPhase r)) else none

/-- PHTEST (R284). -/
def execPhtest (f : Fields) (s : State) : Outcome State Fault Refusal :=
  phRead 0x1C4 f s fun _ _ _ r => some (BitVec.ofNat 64 (phPhase r + (min (phCnt r) (2 ^ 48 - 1)) <<< 16))

end Sys2Proof.Machine
end

