-- ==== Sys2Proof/Machine/Fabric.lean ====
section
/-! DEFINITION. The sending side of the fabric engine (R319-R334, R341-R345): mailboxes, the BX forms, the injection of packets,
completion and the failure record. -/

namespace Sys2Proof.Machine

open Host (Outcome)

def State.modCmd (s : State) (id : Nat) (g : FabCmd → FabCmd) : State := s.modFab fun x => { x with cmds := nmod x.cmds id g }

/-! ### Mailboxes (R319-R322, R325) -/

/-- The handle of a mailbox (R320). -/
def boxHandle (s : State) (i gen : Nat) : Word64 := BitVec.ofNat 64 (s.mdl.number <<< 52 + gen <<< 16 + i)

/-- The lowest free entry of the mailbox table. -/
def freeBox (s : State) : Option Nat :=
  (List.range (min 16384 (s.fab.boxes.length + 1))).find? fun i => !((nget s.fab.boxes i).any fun b => b.used)

/-- The mailboxes that a workgroup holds. -/
def boxesOf (s : State) (ctx w : Nat) : NMap Mailbox := s.fab.boxes.filter fun p => p.2.used && p.2.ctx = ctx && p.2.wg = w

/-- MBOXREG (R321). -/
def execMboxreg (f : Fields) (s : State) : Outcome State Fault Refusal :=
  issue 0x205 f s fun s tid t =>
    if t.eff f = 0 then retire 0x205 f s tid t {}
    else
      let off := phOff s tid t f
      match phFault s t off with
      | some x => takeFault s tid { x with unit := some (funit 10 0) } t.pc
      | none =>
        let mine := boxesOf s t.ctx t.wg
        let fail := retire 0x205 f s tid t { writes := [.uni f.d.toNat 0] }
        if 16 ≤ mine.length || mine.any (fun p => p.2.off = off) then fail
        else
          match freeBox s with
          | none => fail
          | some i =>
            let gen := (((nget s.fab.boxes i).map (·.gen)).getD 0) % 65535 + 1
            let b : Mailbox :=
              { used := true, key := (s.ctx t.ctx).key, gen := gen, ctx := t.ctx, wg := t.wg, off := off, die := dieOf t.cu,
                cu := t.cu % 64, wgs := ((s.wg t.wg).map (·.place)).getD 0, infl := 0, closing := false }
            let s := s.modFab fun x => { x with boxes := nset x.boxes i b }
            retire 0x205 f s tid t { writes := [.uni f.d.toNat (boxHandle s i gen)] }

/-- MBOXREL (R322): closes the mailbox, and waits until nothing is in flight for it. -/
def execMboxrel (f : Fields) (s : State) : Outcome State Fault Refusal :=
  issue 0x206 f s fun s tid t =>
    if t.eff f = 0 then retire 0x206 f s tid t {}
    else
      let h := uniVal s tid t f.a.toNat
      match (boxesOf s t.ctx t.wg).find? fun p => boxHandle s p.1 p.2.gen = h with
      | none => takeFault s tid (trapSyn 0x80000034 (t.live f)) t.pc
      | some (i, b) =>
        let set := fun (s : State) (b : Mailbox) => s.modFab fun x => { x with boxes := nset x.boxes i b }
        if b.infl = 0 then retire 0x206 f (set s { b with used := false, closing := false }) tid t {}
        else (set s { b with closing := true }).modThread tid fun u => { u with waits := true }

/-- The image of an entry of the table, 128 bits (R319). -/
def Mailbox.image (b : Mailbox) : Nat :=
  fieldAt b.key 16 112 + fieldAt b.gen 16 96 + fieldAt b.off 32 64 + fieldAt b.ctx 10 54 + fieldAt b.die 7 47 + fieldAt b.cu 6 41
    + fieldAt b.wgs 6 35 + fieldAt b.infl 19 16 + (if b.closing then 2 else 0) + (if b.used then 1 else 0)

/-- The mailbox that a packet was accepted for, while it stands under the same generation. -/
def boxAt (s : State) (i gen : Nat) : Option Mailbox := (nget s.fab.boxes i).filter fun b => b.used && b.gen = gen

/-- A packet accepted for a mailbox has been counted, or its counting has ended; a closing mailbox whose workgroup has ended is
freed with the last one (R325). -/
def boxCounted (s : State) (i gen : Nat) : State :=
  match boxAt s i gen with
  | none => s
  | some b =>
    let b := { b with infl := b.infl - 1 }
    let gone := match s.wg b.wg with | some g => allExited s g | none => true
    let b := if b.closing && gone && b.infl = 0 then { b with used := false, closing := false } else b
    s.modFab fun x => { x with boxes := nset x.boxes i b }

/-! ### Commands (R328-R330) -/

namespace FabCmd

/-- The destination, or for BXGET the source, system address; VA at every member for BXMC and BXRED. -/
def va (c : FabCmd) : Nat := bits c.w0 51 0
/-- The peer module of the command. -/
def peer (c : FabCmd) : Nat := bits c.w0 63 52
/-- The global address on this module. -/
def local' (c : FabCmd) : Nat := c.w1.toNat
def len (c : FabCmd) : Nat := bits c.w2 39 0
def group (c : FabCmd) : Nat := bits c.w2 47 40
def rop (c : FabCmd) : Nat := bits c.w2 51 48
def epoch (c : FabCmd) : Nat := bits c.w3 15 0
/-- Commands that name one peer. -/
def direct (c : FabCmd) : Bool := c.kind = 0 || c.kind = 1 || c.kind = 4

/-- The number of packets: the range cut at the 2,048-byte boundaries of its address (R331, R332, R338, R339). -/
def packets (c : FabCmd) : Nat :=
  if c.kind = 4 then 1
  else if c.len = 0 then (if c.kind = 0 || c.kind = 2 then 1 else 0)
  else (c.va % 2048 + c.len + 2047) / 2048

/-- Start, as an offset from the command's address, and length of packet `k`. -/
def part (c : FabCmd) (k : Nat) : Nat × Nat :=
  let lo := max c.va ((c.va / 2048 + k) * 2048)
  let hi := min (c.va + c.len) ((c.va / 2048 + k + 1) * 2048)
  (lo - c.va, hi - lo)

/-- The replies that a command waits for. -/
def replies (c : FabCmd) : List Nat := List.range (if c.kind = 3 then 2 * c.packets else c.packets)

end FabCmd

/-- The width of an element of a reduction (R340). -/
def ropBytes (rop : Nat) : Nat := if rop = 1 || rop = 4 || rop = 5 then 8 else 4

def Part.mcast (p : Part) (g : Nat) : McGroup := ngetD p.groups g McGroup.reset
/-- EN and NMEM of a group as it is in force (R336). -/
def McGroup.en (g : McGroup) : Bool := g.ctl.getLsbD 7
def McGroup.nmem (g : McGroup) : Nat := bits g.ctl 6 0
/-- The member modules in force, and their handles. -/
def McGroup.members (g : McGroup) : List Nat := (List.range g.nmem).map fun i => bits (ngetD g.live i 0) 11 0
def McGroup.handles (g : McGroup) : List Word64 := (List.range g.nmem).map fun i => ngetD g.liveH i 0

/-- The precise fault of a command at its issue: cause, FSYN and address (R330). -/
def FabCmd.fault (c : FabCmd) (s : State) : Option (Nat × Nat × Nat) :=
  let g := (s.part (s.ctx c.ctx).key).mcast c.group
  let rsv : Bool := match c.kind with
    | 0 | 1 => bits c.w2 63 40 ≠ 0
    | 2 => bits c.w0 63 52 ≠ 0 || bits c.w2 63 48 ≠ 0 || c.w3 ≠ 0
    | 3 => bits c.w0 63 52 ≠ 0 || bits c.w2 63 52 ≠ 0 || bits c.w3 63 16 ≠ 0 || 6 ≤ c.rop || c.len % ropBytes c.rop ≠ 0
        || 1048576 < c.len
    | _ => false
  if rsv then some (cTRAP, 0x80000030, 0)
  else if (c.kind = 0 && c.w3 ≠ 0 && bits c.w3 63 52 ≠ c.peer) || (c.kind = 1 && c.w3 ≠ 0 && bits c.w3 63 52 ≠ s.mdl.number) then
    some (cTRAP, 0x80000031, 0)
  else if (c.kind = 2 && !g.en) || (c.kind = 3 && (!g.en || !g.members.contains s.mdl.number)) then some (cTRAP, 0x80000032, 0)
  else if c.kind = 4 && c.w0.toNat % 8 ≠ 0 then some (cTRAP, 0x80000033, 0)
  else if c.kind ≠ 4 && 2 ^ 57 ≤ c.local' then some (cXLAT, 0, c.local')
  else none

/-- Commands that hold a place in a CU's fabric issue queue: packets still to inject (R328). -/
def fabQueue (s : State) (cu : Nat) : Nat := (s.fab.cmds.filter fun p => p.2.cu = cu && p.2.sent < p.2.total && p.2.fail = 0).length

/-- Commands that read a source on this module, as a copy does (R331, R338, R339): they wait for the group's own accesses that the
read would see (R272). -/
def FabCmd.reads (c : FabCmd) : Bool := (c.kind = 0 || c.kind = 2 || c.kind = 3) && c.len ≠ 0

/-- A BX form (R328): its operands are read and checked once, at its issue. The destination of a BXGET is registered at the die's L2
(R32, R103). -/
def bxForm (opc kind : Nat) (f : Fields) (s : State) : Outcome State Fault Refusal :=
  issue opc f s fun s tid t =>
    if t.eff f = 0 then retire opc f s tid t {}
    else
      let ws := t.words fun k =>
        uniVal s tid t (if kind = 4 then (if k = 0 then f.a.toNat else if k = 1 then f.b.toNat else f.c.toNat) else f.a.toNat + k)
      let w := fun (k : Nat) => (ws[k]?).getD 0
      let seq := (t.fseq + 1) % 2 ^ 32
      let c0 : FabCmd :=
        { id := 0, tid := tid, ctx := t.ctx, cu := t.cu, seq := seq, kind := kind, w0 := w 0, w1 := w 1, w2 := w 2,
          w3 := if kind = 4 then 0 else w 3, xid := 0, total := 0, sent := 0, left := [], fail := 0, failAddr := 0, counted := 0,
          bitmap := 0, held := none, stepped := t.stepping = 1, wo := false, wrote := 0 }
      match if t.ops.isEmpty then c0.fault s else none with
      | some (cause, syn, a) =>
        takeFault s tid { cause := cause, syn := BitVec.ofNat 64 syn, opd0 := BitVec.ofNat 64 a,
                          lanes := if cause = cTRAP then (t.live f).setWidth 64 else 0, unit := some (funit 10 0) } t.pc
      | none =>
        let (s, ok) := if accOrder f = 2 then releaseAtPc s tid t (accScope f) else (s, true)
        if !ok || 64 ≤ fabQueue s t.cu || (c0.reads && sourceOpen t 0) then waitWith s tid ws
        else
          let (id, s) := s.fresh
          let c := { c0 with id := id, xid := id % 2 ^ 24, total := c0.packets, left := c0.replies }
          let s := s.modFab fun x => { x with cmds := nset x.cmds id c }
          let s := if kind = 1 then
              register s { cmd := id, eng := engineOf t.cu 2, die := dieOf t.cu, wg := t.wg, ctx := t.ctx, space := 0,
                           pend := rangeBlocks c.local' c.len }
            else s
          retire opc f s tid t { writes := [.uni f.d.toNat (BitVec.ofNat 64 seq)] } fun u =>
            { (u.countUp 2) with fseq := seq, fOpen := u.fOpen ++ [seq] }

/-- BXSEND (R331). -/
def execBxsend (f : Fields) (s : State) : Outcome State Fault Refusal := bxForm 0x200 0 f s
/-- BXGET (R332). -/
def execBxget (f : Fields) (s : State) : Outcome State Fault Refusal := bxForm 0x201 1 f s
/-- BXMC (R338). -/
def execBxmc (f : Fields) (s : State) : Outcome State Fault Refusal := bxForm 0x202 2 f s
/-- BXRED (R339). -/
def execBxred (f : Fields) (s : State) : Outcome State Fault Refusal := bxForm 0x203 3 f s
/-- BXFLAG (R333). -/
def execBxflag (f : Fields) (s : State) : Outcome State Fault Refusal := bxForm 0x204 4 f s

/-! ### Completion and failure (R334, R341) -/

/-- A command leaves, completed: C falls, its registration ends, and a marked sector that it read raises WO and OF (R156). -/
def endCmd (s : State) (c : FabCmd) : State :=
  let s := regEnd (s.modFab fun x => { x with cmds := nerase x.cmds c.id }) c.id
  let s := if c.kind = 1 && c.len = 0 && c.fail = 0 && c.w3 ≠ 0 then
      (match boxOf s (s.ctx c.ctx).key c.w3 with | some (_, b) => arrive s b.wg b.off 0 | none => s)
    else s
  s.modThread c.tid fun t =>
    { (t.countDown 2) with
      fOpen := t.fOpen.filter (· ≠ c.seq),
      fpstat := if c.wo then raiseFlags t.fpctl t.fpstat (flagWO + flagOF) else t.fpstat }

/-- Whether a command's last reply has come. -/
def FabCmd.isOver (c : FabCmd) : Bool := c.left.isEmpty && c.total ≤ c.sent

/-- A command that has every reply and no failure completes. -/
def checkCmd (s : State) (id : Nat) : State :=
  match nget s.fab.cmds id with
  | some c => if c.isOver && c.fail = 0 then endCmd s c else s
  | none => s

/-- A command that has failed injects no more packets: it waits for the replies to those it has injected (R328, R341). -/
def FabCmd.cut (c : FabCmd) : FabCmd :=
  if c.fail = 0 || c.total ≤ c.sent then c
  else { c with total := c.sent, left := c.left.filter fun k => (if c.kind = 3 then k / 2 else k) < c.sent }

/-- A reply for a command: it is no longer waited for; the first failure's kind and address are kept. -/
def replyCmd (s : State) (id : Nat) (gone : List Nat) (fail : Nat) (addr : Word64) (counted : Nat) : State :=
  let s := s.modCmd id fun c =>
    FabCmd.cut { c with
      left := c.left.filter fun k => !gone.contains k, fail := if c.fail = 0 then fail else c.fail,
      failAddr := if c.fail = 0 && fail ≠ 0 then addr else c.failAddr, counted := max c.counted counted }
  checkCmd s id

/-- A command fails as a whole. -/
def failCmd (s : State) (id kind : Nat) : State :=
  s.modCmd id fun c =>
    { c with fail := if c.fail = 0 then kind else c.fail, failAddr := if c.fail = 0 then BitVec.ofNat 64 c.va else c.failAddr,
             sent := c.total, left := [] }

/-- The failure record after a command's failure (R341). -/
def addFailure (t : Thread) (c : FabCmd) : FabFail :=
  match t.ffail with
  | some x => { x with more := min 255 (x.more + 1) }
  | none =>
    let multi := c.kind = 2 || c.kind = 3
    { kind := c.fail, more := 0, opd0 := if multi then c.bitmap else 0, opd1 := BitVec.ofNat 64 c.seq,
      opd2 := if multi then BitVec.ofNat 64 c.group else c.failAddr, opd3 := BitVec.ofNat 64 c.counted }

/-- FABRIC_FAILURE_RECORDED (R341): a failed command's last reply has come; an exited group's failure goes to a system
tadpole. -/
def execFabricFailureRecorded (thread seq : Nat) (s : State) : Outcome State Fault Refusal :=
  match s.fab.cmds.find? fun p => p.2.tid = thread && p.2.seq = seq, s.thread thread with
  | some (_, c), some t =>
    if c.fail = 0 || !c.isOver then .next s
    else
      let x := addFailure t c
      let s := endCmd s c
      if t.place = .exited then .next (orphanFault s t (fabTrap x))
      else .next (s.modThread thread fun u => { u with ffail := some x })
  | _, _ => .next s

/-- When the peers in recovery entered it toward which a thread has commands, system accesses or persistent requests of its log (R343,
R345). -/
def recovSince (s : State) (tid : Nat) : List Nat :=
  let at' := fun (md : Nat) => match nget s.fab.peers md with | some (.recov t) => some t | _ => none
  let cmds := (s.fab.cmds.filter fun p => p.2.tid = tid).map fun p =>
    if p.2.direct then [p.2.peer] else ((s.part (s.ctx p.2.ctx).key).mcast p.2.group).members
  let sys := s.fab.unacked.filterMap fun u =>
    match nget s.fab.sysReq u.pkt.xid with | some q => if q.1 = tid then some u.pkt.dmod else none | none => none
  let coh := match s.thread tid with
    | none => []
    | some t => (t.log.filter fun (e : LogEntry) => accAs e.f = 2).map fun (e : LogEntry) => e.todo.filterMap fun l =>
        let md := (e.addr l).toNat / 2 ^ 52
        if md = s.mdl.number then none else some md
  (cmds.flatten ++ sys ++ coh.flatten).filterMap at'

/-- A peer's recovery is over: the watchdogs of the threads that waited for it count from now on (R345, R424). -/
def endRecov (s : State) : State :=
  { s with thr := nmap s.thr fun tid t => if t.waits && !(recovSince s tid).isEmpty then { t with wdSince := s.cyc } else t }

/-- The status word of FABST (R343). -/
def fabStatus (s : State) (tid : Nat) (t : Thread) : Word64 :=
  let rcv := !(recovSince s tid).isEmpty
  let done := t.fOpen.foldl (fun acc n => min acc (n - 1)) t.fseq
  BitVec.ofNat 64 ((if rcv then 1 else 0) <<< 41 + (t.fOpen.length % 256) <<< 32 + done)

/-- FABST (R343): with W it waits for every earlier command; a recorded failure is raised (R341). -/
def execFabst (f : Fields) (s : State) : Outcome State Fault Refusal :=
  issue 0x207 f s fun s tid t =>
    if t.live f = 0 then retire 0x207 f s tid t {}
    else if Forms.mo f 7 7 = 1 && !t.fOpen.isEmpty then s.modThread tid fun u => { u with waits := true }
    else
      match t.ffail with
      | some x => takeFault (s.modThread tid fun u => { u with ffail := none }) tid (fabTrap x) t.pc
      | none => retire 0x207 f s tid t { writes := [.uni f.d.toNat (fabStatus s tid t)] }

/-! ### Injection (R331-R333, R338, R339, R344) -/

/-- What injecting a command's next packet comes to. -/
inductive FabStep where
  | done (s : State)
  | wait (s : State)
  | fault (cause addr : Nat) (dst : Bool)

/-- The fields that every packet of a command shares. -/
def cmdPacket (s : State) (c : FabCmd) (k n : Nat) : Packet :=
  { Packet.blank with
    pkey := (s.ctx c.ctx).key, dmod := if c.direct then c.peer else s.mdl.number, len := n, xid := c.xid, pseq := k,
    last := k + 1 = c.total }

/-- Check that the destination bytes of a BXGET part may be written. -/
def getDest (s : State) (c : FabCmd) (a n : Nat) : State × Eng Unit :=
  (List.range ((a % 64 + n + 63) / 64)).foldl (fun (acc : State × Eng Unit) i =>
    match acc with
    | (s, .ok _) =>
      (match engineXl s c.cu c.ctx (max a (a - a % 64 + 64 * i)) true with
        | (s, .ok _) => (s, .ok ())
        | (s, .wait) => (s, .wait)
        | (s, .bad e v) => (s, .bad e v))
    | x => x) (s, .ok ())

/-- Inject the next packet of a command. -/
def injectNext (s : State) (w : Nat) (c : FabCmd) : FabStep :=
  let k := c.sent
  let (o, n) := c.part k
  let base := cmdPacket s c k n
  let next := fun (s : State) (p : Packet) (sw wo : Bool) =>
    FabStep.done ((sendPacket s p sw).modCmd c.id fun c => { c with sent := c.sent + 1, wo := c.wo || wo })
  let at' : Word64 := BitVec.ofNat 64 (c.va + o)
  match c.kind with
  | 4 => next s { base with pkind := 3, daddr := BitVec.ofNat 64 c.va, len := 8, mbox := c.w2, payload := leBytes 8 c.w1.toNat } false false
  | 1 =>
    (match getDest s c (c.local' + o) n with
      | (_, .bad e v) => .fault e v true
      | (s, .wait) => .wait s
      | (s, .ok _) => next s { base with pkind := 1, daddr := at', mbox := c.w3 } false false)
  | _ =>
    match engineBytes s c.cu c.ctx w (engineOf c.cu 2) 0 ((c.local' + o) % 2 ^ 64) n with
    | (_, .bad e v) => .fault e v false
    | (s, .wait) => .wait s
    | (s, .ok (d, wo)) =>
      if c.kind = 0 then next s { base with pkind := 0, daddr := at', mbox := c.w3, payload := d } false wo
      else if c.kind = 2 then next s { base with pkind := 0, daddr := at', group := c.group, payload := d } true wo
      else next s { base with pkind := 4, daddr := at', group := c.group, rop := c.rop, epoch := c.epoch, payload := d } true wo

/-- The failure with which a command to one module starts (R318, R346). -/
def startFail (s : State) (c : FabCmd) : Nat :=
  if !c.direct || c.peer = s.mdl.number then 0
  else match nget s.fab.peers c.peer with | none => 2 | some .lost => 5 | some _ => 0

/-- A command may inject: not held, not stopped by brumation, and begun in issue order (R328, R344, R347). -/
def mayInject (s : State) (c : FabCmd) : Bool :=
  c.sent < c.total && c.fail = 0 && c.held.isNone && (!s.halting c.ctx || c.stepped)
    && s.fab.cmds.all fun p => p.2.tid ≠ c.tid || c.id ≤ p.1 || 0 < p.2.sent || p.2.total = 0 || p.2.fail ≠ 0

/-- The next step of a command, when it may take one. -/
def fabNext (s : State) (c : FabCmd) : Option FabStep :=
  if !mayInject s c then none
  else some (injectNext s (((s.thread c.tid).map (·.wg)).getD 0) c)

/-- Advance one command: its start, its next packet, or its completion. -/
def advanceCmd (s : State) (id : Nat) : State :=
  match nget s.fab.cmds id with
  | none => s
  | some c =>
    let n := startFail s c
    if c.fail = 0 && c.sent = 0 && n ≠ 0 then failCmd s id n
    else
      match fabNext s c with
      | some (.done s) => s
      | some (.wait s) => s
      | _ => checkCmd s id

/-- Brumation holds a packet of this module at the sender: its command or its access belongs to a halting partition, and FZSTEP has not
entered it (R347). -/
def packetHalted (s : State) (p : Packet) : Bool :=
  match nget s.fab.sysReq p.xid with
  | some q => (s.thread q.1).any fun t => s.halting t.ctx && t.stepping = 0
  | none =>
    match s.fab.cmds.find? fun c => c.2.xid = p.xid with
    | some (_, c) => s.halting c.ctx && !c.stepped
    | none => false

/-- A held packet is injected, once its peer is back and the partition runs. -/
def releaseHeld (s : State) (u : Unacked) : State :=
  if u.inj || !mayLeave s u.pkt u.sw || packetHalted s u.pkt then s
  else
    let (s, p) := inject s u.pkt u.sw
    s.modFab fun x => { x with unacked := x.unacked.map fun y =>
      if y = u then { y with pkt := p, since := s.env.clk, inj := true } else y }

/-- Packets held at the sender that may go (R345, R347), and coherence messages. -/
def releaseAll (s : State) : State :=
  let s := s.fab.unacked.foldl releaseHeld s
  let free := s.fab.held.filter fun p => peerUp s p.dmod
  free.foldl (fun s p =>
    let p := sealed { p with plane := choosePlane s, itime := s.ns % 2 ^ 32 }
    (queueFlits s p).modFab fun x => { x with held := x.held.filter fun y => peerUp s y.dmod = false, out := x.out ++ [p] }) s

/-- Advance every command by one packet, and send what was held. -/
def advanceCmds (s : State) : State := (nkeys s.fab.cmds).foldl advanceCmd (releaseAll s)

/-- FABRIC_ENGINE_FAULT (R344): the next packet of a command meets a fault on this module, or an error in the data it reads or
translates where `bad` names one and the byte of the packet; so does get data that has come. The command is held there and its group
freezes. -/
def execFabricEngineFault (thread seq : Nat) (bad : Option (DataError × Nat)) (s : State) : Outcome State Fault Refusal :=
  match s.fab.cmds.find? fun p => p.2.tid = thread && p.2.seq = seq with
  | none => .next s
  | some (id, c) =>
    let data := if c.kind = 1 && c.held.isNone then s.fab.net.find? fun p => p.pkind = 2 && p.xid = c.xid && p.dmod = s.mdl.number else none
    let late := data.bind fun p =>
      match getDest s c (c.local' + (c.part p.pseq).1) (c.part p.pseq).2 with
      | (_, .bad e v) => some (e, v, true)
      | _ => none
    let part := if (fabNext s c).isSome then some c.sent else data.map (·.pseq)
    let at' := fun (k i : Nat) => (c.local' + (c.part k).1 + i % 2048) % 2 ^ 64
    let found := match bad, fabNext s c with
      | some (d, i), _ => if c.kind = 4 || isCorrected d then none else part.map fun k => (cUCE, at' k i, decide (c.kind = 1))
      | none, some (.fault e v d) => some (e, v, d)
      | none, _ => late
    let s := match bad, part with
      | some (d, i), some k => if c.kind = 4 then s else engineError s c.ctx (at' k i) d
      | _, _ => s
    match found with
    | none => .next s
    | some (e, v, d) =>
      let num := fun (x : Nat) => BitVec.ofNat 64 x
      let trap : Trap :=
        { cause := e, syn := num (copySyn d), opd0 := num c.seq, opd1 := num v,
          opd2 := num (if c.kind = 1 then c.wrote else (c.part c.sent).1), unit := some (funit 10 0) }
      let w := ((s.thread c.tid).map (·.wg)).getD 0
      let s := s.modCmd id fun c => { c with held := some { cause := e, taker := faultTaker s w c.tid } }
      .next (raiseEngine s w c.tid trap).1

end Sys2Proof.Machine
end

