-- ==== Sys2Proof/Machine/Coher.lean ====
section
/-! DEFINITION. Coherent system ranges across modules (R77, R83, R290, R301, R316; log 39): the header of a protocol message, the
coherence channel, and what a fabric port does for the L2s of other modules. -/

namespace Sys2Proof.Machine

/-! ### Replies (R314, R316) -/

def xferKey (smod xid : Nat) : Nat := smod * 2 ^ 24 + xid
/-- The transfer of a packet at a port; get data comes under the number of the module that asked, and is kept apart from the transfers of
the module that sends it. -/
def pktXfer (p : Packet) : Nat := xferKey p.smod p.xid + (if p.pkind = 2 then 2 ^ 48 else 0)
def pktKey (p : Packet) : Nat := pktXfer p * 2 ^ 32 + p.pseq

/-- The identity under which a performed packet is remembered (R314): get data and results, which no reply answers, apart from
requests. -/
def seenKey (p : Packet) : Nat := pktKey p + (if p.pkind = 2 || p.pkind = 4 then 2 ^ 80 else 0)

/-- Take a packet out of the network. -/
def takeNet (s : State) (p : Packet) : State := s.modFab fun x => { x with net := x.net.filter (· ≠ p) }

/-- A packet that needs no acknowledgement leaves; get data that this module asked of itself goes to its own ports. -/
def leave (s : State) (r : Packet) : State :=
  s.modFab fun x =>
    if r.pkind = 2 && r.dmod = s.mdl.number then { x with net := x.net ++ [r] } else { x with out := x.out ++ [r] }

/-- Send a packet that needs no acknowledgement, on a plane of its own; while its module is in recovery it is held (R345). -/
def reply (s : State) (r : Packet) : State :=
  match if r.dmod = s.mdl.number then none else nget s.fab.peers r.dmod with
  | some (.recov _) => s.modFab fun x => { x with held := x.held ++ [r] }
  | _ =>
    let r := sealed { r with plane := choosePlane s, itime := s.ns % 2 ^ 32 }
    leave (queueFlits s r) r

/-- A reply of the switch itself, on the plane of what it answers: no port of this module injects it (R313). -/
def switchReply (s : State) (r : Packet) : State := leave s (sealed { r with itime := s.ns % 2 ^ 32 })

/-- The reply to a packet that has been performed; it is kept for 4 ms. -/
def finishPacket (s : State) (p r : Packet) : State :=
  let r := { r with dmod := p.smod, smod := s.mdl.number, xid := p.xid, pseq := p.pseq, att := p.att, pkey := p.pkey, group := p.group,
                    ver := p.ver }
  let s := s.modFab fun x => { x with seen := nset x.seen (seenKey p) (s.env.clk, r), rxq := nerase x.rxq (pktKey p) }
  reply (takeNet s p) r

/-- The reply to a system access: a cause code, or its data. -/
def sysReply (cause : Nat) (d : List Byte) : Packet := { Packet.blank with pkind := 8, status := cause, payload := d, len := d.length }

/-! ### Messages as packets (R290, R315) -/

def MsgKind.code (k : MsgKind) : Nat :=
  match k with
  | .rdt => 0 | .wrt => 1 | .tok => 2 | .wb => 3 | .preq => 4 | .pact => 5 | .pdone => 6 | .pdeact => 7 | .pnak => 8
  | .rgstart => 9 | .rgack => 10 | .rgdata => 11 | .rgend => 12

/-- The kind of a code; 13 to 15 are reserved. -/
def MsgKind.ofCode (n : Nat) : Option MsgKind :=
  [.rdt, .wrt, .tok, .wb, .preq, .pact, .pdone, .pdeact, .pnak, .rgstart, .rgack, .rgdata, MsgKind.rgend][n]?

/-- The header of a message; the requester's number is 0xFF for the sector's home. -/
def Msg.header (m : Msg) : Nat :=
  let b := fun (x : Bool) (i : Nat) => if x then 2 ^ i else 0
  let hints := (m.hint[0]?).getD 255 + ((m.hint[1]?).getD 255) <<< 8
  let (sh, src) := match m.src with | .home h => (true, h % 256) | .agent a => (false, a)
  hints <<< 112 + (m.ser % 16) <<< 108 + b m.t64 107 + b m.dty 106 + b m.dat 105 + b m.own 104 + (m.cnt % 128) <<< 97
    + (if 255 ≤ m.req then 255 else m.req) <<< 89 + b sh 88 + src <<< 80 + m.kind.code <<< 76 + (m.att % 4) <<< 74 + b m.wr 73
    + (m.aseq % 65536) <<< 57 + b m.poi 48 + (m.sector % 2 ^ 42) <<< 6

/-- The message of a header and its data; none for a reserved kind. Party and sector are set by who receives it. -/
def Msg.ofHeader (n : Nat) (d : List Byte) : Option Msg :=
  let f := fun (hi lo : Nat) => (n >>> lo) % 2 ^ (hi + 1 - lo)
  (MsgKind.ofCode (f 79 76)).map fun k =>
    { acq := 0, kind := k, src := if n.testBit 88 then .home (f 87 80) else .agent (f 87 80), dst := .agent 0, req := f 96 89,
      sector := f 47 6, cnt := f 103 97, own := n.testBit 104, dat := n.testBit 105, dty := n.testBit 106, poi := n.testBit 48,
      t64 := n.testBit 107, ser := f 111 108, att := f 75 74, wr := n.testBit 73, aseq := f 72 57,
      hint := [f 119 112, f 127 120].filter (· < 152), data := if n.testBit 105 then d else [] }

/-- Send a message on the coherence channel to a module; it waits while the module is in recovery (R345). -/
def sendCoherent (s : State) (key md addr : Nat) (m : Msg) : State :=
  let (id, s) := s.fresh
  let d := leBytes 16 m.header ++ (if m.dat then m.data else [])
  let p := { Packet.blank with
    pkind := 10, pkey := key, smod := s.mdl.number, dmod := md, daddr := BitVec.ofNat 64 addr,
    len := d.length, xid := id % 2 ^ 24, last := true, payload := d }
  match nget s.fab.peers md with
  | some .up | some (.recov _) => reply s p
  | _ => s

/-! ### This module's L2s as holders of another module's sectors -/

/-- A message for the home of another module's sector leaves; the acknowledgements of a regrowth leave as one. -/
def toRemoteHome (s : State) (m : Msg) : State :=
  let sec := m.sector
  let go := fun (s : State) (m : Msg) => sendCoherent s (remoteKey sec) (remoteMod sec) (remoteMod sec * 2 ^ 52 + remoteVa sec) m
  if m.kind ≠ .rgack then go s m
  else
    match nget s.mem.rgOut sec with
    | none => s
    | some (l, dirty) =>
      let l := l.filter (· ≠ m.req)
      let dirty := dirty || m.dty
      if l.isEmpty then go (s.modMem fun x => { x with rgOut := nerase x.rgOut sec }) { m with dty := dirty }
      else s.modMem fun x => { x with rgOut := nset x.rgOut sec (l, dirty) }

/-- Send a message to every compute die of the module. -/
def toDies (s : State) (m : Msg) : State :=
  ((List.range 84).filter s.agentLive).foldl (fun s a => send s { m with dst := .agent a }) s

/-- A message about another module's sector arrives: tokens and refusals go to the L2 named, a home's broadcasts to every L2. -/
def fromRemoteHome (s : State) (sec : Nat) (m : Msg) : State :=
  let m := { m with src := .home (homeOf sec), sector := sec, req := if m.req = 255 then 256 else m.req }
  match m.kind with
  | .tok =>
    let acq := ((nget s.mem.trans (l2key m.req sec)).map (·.acq)).getD 0
    if m.req < 84 then send s { m with dst := .agent m.req, acq := acq } else s
  | .pnak => if m.req < 84 then send s { m with dst := .agent m.req } else s
  | .pact | .pdeact | .rgend => toDies s m
  | .rgstart => toDies (s.modMem fun x => { x with rgOut := nset x.rgOut sec ((List.range 84).filter s.agentLive, false) }) m
  | _ => s

/-- Another module has refused a sector: the requests of this module's L2s for it end, with the cause. -/
def remoteRefused (s : State) (sec cause : Nat) : State :=
  s.modMem fun m =>
    let keys := (m.trans.filter fun p => p.1 % 2 ^ 80 = sec).map (·.1)
    { m with trans := m.trans.filter fun p => !keys.contains p.1, refused := keys.foldl (fun r k => nset r k cause) m.refused }

/-! ### A fabric port for the L2s of other modules -/

/-- The modules behind a port that may hold tokens of a sector. -/
def sharersAt (s : State) (p sec : Nat) : List Sharer := (ngetD s.mem.shared sec []).filter fun x => x.port = p

/-- Send a message about a sector of this module to a sharer. -/
def toSharer (s : State) (x : Sharer) (m : Msg) : State := sendCoherent s x.key x.md (s.mdl.number * 2 ^ 52 + x.va) m

/-- The request that a port serves next for a sector: under the port's own activation a persistent one, else the oldest. -/
def nextBehind (s : State) (p sec : Nat) : Option Behind :=
  let l := s.mem.behind.filter fun b => b.port = p && b.sector = sec
  let own : Bool := match placeAt s p sec with | some q => q.req = p | none => false
  if own then (l.find? (·.pers)) <|> l.head? else l.head?

/-- A port passes the tokens that it holds on to the request behind it: to a reader one token with data, to a writer all, with
the home's answer. Its own access comes first. -/
def portPass (s : State) (p sec : Nat) : State :=
  let busy := match nget s.mem.trans (l2key p sec) with | some t => t.eng.isSome | none => false
  match nextBehind s p sec with
  | none => s
  | some b =>
    let l := s.line p sec
    match (ngetD s.mem.shared sec []).find? fun x => x.md = b.md with
    | none => s
    | some x =>
      let all := b.wr || l.n = 1
      if busy || (if b.wr then l.n = 0 && !l.wok else !l.canRead) then s
      else
        let k := if all then l.n else 1
        let own := all && l.o
        let dat := l.v && (!b.wr || l.o)
        let m := { Msg.of .tok (.home (homeOf sec)) (.agent p) b.agent sec l.ser with
          t64 := l.t64, cnt := k, own := own, dat := dat, dty := own && l.d, poi := dat && l.poi, wr := b.wr && l.wok,
          data := if dat then l.data else [] }
        let s := s.putLine p sec
          { l with n := l.n - k, o := l.o && !own, d := l.d && !own, wok := false, v := l.v && l.n ≠ k }
        let s := if b.pers then s else s.modMem fun y => { y with behind := y.behind.filter (· ≠ b) }
        toSharer s x m

/-- A persistent request behind a port becomes the port's own when that has none outstanding for the sector. -/
def portRaise (s : State) (p sec : Nat) : State :=
  match (s.mem.behind.find? fun b => b.port = p && b.sector = sec && b.pers), nget s.mem.trans (l2key p sec) with
  | some b, none =>
    persist s p sec { acq := 0, eng := none, got := none, wr := b.wr, t64 := b.t64, att := 3, since := s.env.clk,
                      deadline := s.env.clk }
  | _, _ => s

/-- The modules to which a port passes a home's broadcasts: those that may hold tokens, and of the others every module in contact, since
it may map the range as coherent; each of these stands behind one port (R301, log 39). -/
def mappersAt (s : State) (p sec : Nat) : List Sharer :=
  let known := (ngetD s.mem.shared sec []).map (·.md)
  let names := if s.fab.peers.isEmpty then [] else s.coherentNames sec
  let more := s.fab.peers.filter fun q => q.2 ≠ .lost && 88 + q.1 % 64 = p && !known.contains q.1
  sharersAt s p sec ++ (names.map fun n => more.map fun q => ({ port := p, md := q.1, key := n.1, va := n.2 } : Sharer)).flatten

/-- A port passes a home's broadcast to the modules behind it; the requester's module learns which of its L2s was activated. -/
def portForward (s : State) (p : Nat) (m : Msg) : State :=
  let mine := if m.req = p then nextBehind s p m.sector else none
  (mappersAt s p m.sector).foldl (fun s x =>
    let req := match mine with | some b => if b.md = x.md then b.agent else 255 | none => 255
    toSharer s x { m with req := req }) s

/-- RGSTART at a port: its own tokens go, and its acknowledgement waits for those of the modules behind it. -/
def portRgstart (s : State) (p h : Nat) (m : Msg) : State :=
  let l := sharersAt s p m.sector
  let line := s.lineFor p m
  if line.ser ≠ m.ser then s
  else if l.isEmpty then portForward (agentRgstart s p h m) p m
  else
    let dirty := line.o && line.d
    let s := s.putLine p m.sector { s.noTokens p m.sector m.ser with rg := true }
    let s := if dirty then
        send s { Msg.of .rgdata (.agent p) (.home h) p m.sector m.ser with dat := true, data := line.data, poi := line.poi, t64 := m.t64 }
      else s
    let s := s.modMem fun x => { x with rgPort := nset x.rgPort (l2key p m.sector) (l.map (·.md), dirty) }
    portForward s p m

/-- A module behind a port has acknowledged a regrowth, or is lost; with the last of them the port does. -/
def portAck (s : State) (p sec md ser : Nat) (dirty : Bool) : State :=
  match nget s.mem.rgPort (l2key p sec) with
  | none => s
  | some (l, d) =>
    let l := l.filter (· ≠ md)
    let d := d || dirty
    if l.isEmpty then
      send (s.modMem fun x => { x with rgPort := nerase x.rgPort (l2key p sec) })
        { Msg.of .rgack (.agent p) (.home (homeOf sec)) p sec ser with dty := d, t64 := (s.smeta sec).t64 }
    else s.modMem fun x => { x with rgPort := nset x.rgPort (l2key p sec) (l, d) }

/-- A request of another module's L2 takes its place behind a port: a persistent one is raised, a transient one sent on. -/
def askBehind (s : State) (b : Behind) (att : Nat) : State :=
  let old := fun (x : Behind) => x.port = b.port && x.md = b.md && x.agent = b.agent && x.sector = b.sector
  let s := s.modMem fun m => { m with behind := (m.behind.filter fun x => !old x) ++ [b] }
  let s := portPass s b.port b.sector
  if b.pers then portRaise s b.port b.sector
  else
    let m := { requestMsg s b.port b.sector b.wr b.t64 att with acq := 0 }
    let l := if att = 2 then s.agents.filter fun a => (a < 84 || 88 ≤ a) && a ≠ b.port else []
    l.foldl (fun s a => send s { m with dst := .agent a }) (send s m)

/-- A message of another module's L2 about a sector of this module arrives at a port. One of another serial number than the port's is
ignored; tokens and write-backs are judged where they go on to (R291). -/
def atPort (s : State) (pkt : Packet) (x : Xl) (m : Msg) : State :=
  let sec := x.sector
  let l := ngetD s.mem.shared sec []
  let p := match l.find? fun y => y.md = pkt.smod with | some y => y.port | none => 88 + pkt.plane % 64
  let va := pkt.daddr.toNat % 2 ^ 52 / 64 * 64
  let s := if l.any fun y => y.md = pkt.smod then s
    else s.modMem fun y => { y with shared := nset y.shared sec (l ++ [{ port := p, md := pkt.smod, key := pkt.pkey, va := va }]) }
  let b := fun (wr pers : Bool) => ({ port := p, md := pkt.smod, agent := m.req, sector := sec, wr := wr, t64 := m.t64, pers := pers } : Behind)
  let m := { m with src := .agent p, sector := sec }
  let stale := (s.line p sec).ser ≠ m.ser
  if stale && !(m.kind = .tok || m.kind = .wb || m.kind = .rgdata) then s
  else
  match m.kind with
  | .rdt => askBehind s (b false false) m.att
  | .wrt => askBehind s (b true false) m.att
  | .preq => askBehind s (b m.wr true) 0
  | .tok => send s { m with dst := .agent p, wr := false }
  | .wb => send s { m with dst := .home (homeOf sec), req := p }
  | .rgdata => send s { m with dst := .home (homeOf sec), req := p }
  | .rgack => portAck s p sec pkt.smod m.ser m.dty
  | .pdone =>
    let mine := fun (y : Behind) => y.port = p && y.md = pkt.smod && y.agent = m.req && y.sector = sec
    let had := s.mem.behind.any fun y => mine y && y.pers
    let s := s.modMem fun y => { y with behind := y.behind.filter fun z => !mine z }
    if had then portRaise (finishRequest s p sec) p sec else s
  | _ => s

/-- A request behind a port is gone with its module: the port's own request for the sector ends when no other one needs it (R298). -/
def portCancel (s : State) (b : Behind) : State :=
  let p := b.port
  if s.mem.behind.any fun x => x.port = p && x.sector = b.sector then s
  else match nget s.mem.trans (l2key p b.sector) with
    | some t => if t.eng.isNone then finishRequest s p b.sector else s
    | none => s

/-- A packet of the coherence channel arrives: about a sector of this module, where the range is coherent and allows what is
asked, or about one of another module. A reserved kind is dropped and counted as a router error (R290). -/
def coherentPacket (s : State) (p : Packet) : State :=
  match Msg.ofHeader (leNat (p.payload.take 16)) (p.payload.drop 16) with
  | none => s.modMem fun m => { m with routerErr := m.routerErr + 1 }
  | some m =>
    let owner := p.daddr.toNat / 2 ^ 52
    let va := p.daddr.toNat % 2 ^ 52
    if owner ≠ s.mdl.number then fromRemoteHome s (remoteSec p.pkey owner va) m
    else
      let asks : Bool := m.kind = .rdt || m.kind = .wrt || m.kind = .preq
      let wr : Bool := m.kind = .wrt || (m.kind = .preq && m.wr)
      let refuse := fun (cause : Nat) =>
        if !asks then s
        else
          reply s { Packet.blank with pkind := 8, pkey := p.pkey, smod := s.mdl.number, dmod := p.smod, daddr := p.daddr, xid := p.xid,
                                      status := cause }
      match keyXl s p.pkey va with
      | none => refuse cXLAT
      | some x =>
        if x.host || reImm x.e || !reCoh x.e || (s.winOf x.sector).isSome then refuse cPERM
        else if asks && (if wr then !reW x.e else !reRd x.e) then refuse cPERM
        else atPort s p x m

/-- A module is lost: what its L2s asked for or held behind the ports is forgotten (R301, R302, R346). -/
def dropSharer (s : State) (md : Nat) : State :=
  let keys := s.mem.rgPort.filter fun p => p.2.1.contains md
  let s := s.modMem fun m =>
    { m with behind := m.behind.filter fun b => b.md ≠ md,
             shared := (nmap m.shared fun _ l => l.filter fun x => x.md ≠ md).filter fun p => !p.2.isEmpty,
             rgOut := m.rgOut.filter fun p => remoteMod p.1 ≠ md }
  keys.foldl (fun s k => portAck s (k.1 / 2 ^ 80) (k.1 % 2 ^ 80) md (s.smeta (k.1 % 2 ^ 80)).ser false) s

end Sys2Proof.Machine
end

