-- ==== Sys2Proof/Machine/Window.lean ====
section
/-! DEFINITION. Format windows (R152-R156, R305-R308): the element formats, the expansion of a sector, and the writes of a window's
registers. -/

namespace Sys2Proof.Machine

/-- A small float of `eb` exponent and `fb` fraction bits without infinity (R152). -/
def smallVal (eb fb : Nat) (bias : Int) (x : Nat) : FVal :=
  let neg := (x >>> (eb + fb)) % 2 = 1
  let ex := (x >>> fb) % 2 ^ eb
  let fr := x % 2 ^ fb
  if ex = 0 then .fin neg fr (1 - bias - fb) else .fin neg (fr + 2 ^ fb) ((ex : Int) - bias - fb)

/-- The value of an element of an MX format (R152). -/
def elementVal (fmt x : Nat) : FVal :=
  match fmt with
  | 0 => if x % 128 = 127 then .nan false else smallVal 4 3 7 x
  | 1 => (⟨5, 2⟩ : Fmt).val x
  | 2 => smallVal 3 2 3 x
  | 3 => smallVal 2 3 1 x
  | 4 => smallVal 2 1 1 x
  | _ => let i := signedOf 8 x; .fin (i < 0) i.natAbs (-6)

/-- The width of an MX element. -/
def elementBits (fmt : Nat) : Nat :=
  match fmt with
  | 2 | 3 => 6
  | 4 => 4
  | _ => 8

/-- An element of a block as BF16, and whether it overflowed (R154). -/
def mxDecode (fmt e x : Nat) : Nat × Bool :=
  if e = 255 then (0x7FC0, false)
  else
    match elementVal fmt x with
    | .nan _ => (0x7FC0, false)
    | .inf n => (bf16.inf n, false)
    | .fin n m q =>
      let r := (bf16.ofVal 0 (.fin n m (q + e - 127))).1
      (r, m ≠ 0 && r % 32768 = 0x7F80)

/-- Weight `k` of an LQ2 code under a table entry and a scale, and whether it overflowed (R155). -/
def lq2Decode (code entry k s : Nat) : Nat × Bool :=
  let m := 2 * ((entry >>> (4 * k)) % 16) + code % 2
  let par := ((List.range 7).filter fun i => code.testBit (i + 1)).length % 2 = 1
  let neg := if k < 7 then code.testBit (k + 1) else par
  let sv := bf16.val s
  if sv.isNan then (0x7FC0, false)
  else
    let r := (bf16.mul 0 (.fin neg m (-2)) sv).1
    (r, r % 32768 = 0x7F80 && s % 32768 ≠ 0x7F80)

/-- Element `i` of a window from DRAM (R153). -/
def windowElement (s : State) (w : Window) (i : Nat) : Nat × Bool :=
  let rd := fun a n => leNat (Memory.bytes s.mem.dram a n)
  let fmt := bits w.ctl 7 4
  let el := bits w.elb 47 0
  let sc := bits w.scb 47 0
  if fmt = 6 then
    let j := i / 8
    let code := rd (el + 2 * j) 2
    lq2Decode code (rd (bits w.mtb 47 0 + 4 * (code / 256)) 4) (i % 8) (rd (sc + 2 * (j / 32)) 2)
  else
    let wd := elementBits fmt
    let b := i * wd
    mxDecode fmt (rd (sc + i / 32) 1) ((rd (el + b / 8) 2 >>> (b % 8)) % 2 ^ wd)

/-- An expanded sector and its mark (R308). -/
def expandSector (s : State) (w : Window) (sec : Nat) : List Byte × Bool :=
  let i0 := 32 * (sec - bits w.exb 47 0 / 64)
  let l := (List.range 32).map fun k => windowElement s w (i0 + k)
  ((l.map fun p => leBytes 2 p.1).flatten, l.any fun p => p.2)

/-- Whether an enabling write of FWCTL is refused (R306). -/
def fwRefused (s : State) (n fmt : Nat) : Bool :=
  let w := s.win n
  let nsec := bits w.exl 33 0
  let lo := bits w.exb 47 0
  let lq2 := fmt = 6
  7 ≤ fmt || nsec = 0 || (lq2 && nsec % 8 ≠ 0) || lo % 64 ≠ 0 || (lq2 && (bits w.elb 47 0 % 2 ≠ 0 || bits w.scb 47 0 % 2 ≠ 0))
    || (lq2 && bits w.mtb 47 0 % 1024 ≠ 0)
    || (List.range 16).any fun k =>
        k ≠ n && (s.win k).enabled && lo / 64 < bits (s.win k).exb 47 0 / 64 + bits (s.win k).exl 33 0
          && bits (s.win k).exb 47 0 / 64 < lo / 64 + nsec

def State.setWin (s : State) (n : Nat) (w : Window) : State := s.modMem fun m => { m with wins := nset m.wins n w }

/-- Every L2 drops its read copies of a window's sectors (R307). -/
def dropCopies (s : State) (w : Window) : State :=
  s.modMem fun m => { m with copies := m.copies.filter fun p => !(w.covers (p.1 % 2 ^ 80)) }

/-- A write of FWCTL (R306, R307). -/
def writeFwctl (s : State) (n : Nat) (v : Word64) : State :=
  let w := s.win n
  let fmt := bits v 7 4
  if !v.getLsbD 0 then
    let s := if w.enabled then dropCopies s w else s
    s.setWin n { w with ctl := BitVec.ofNat 64 (16 * fmt) }
  else if fwRefused s n fmt then s.setWin n { w with ctl := w.ctl ||| 256 }
  else
    let s := if w.enabled && bits w.ctl 7 4 ≠ fmt then dropCopies s w else s
    s.setWin n { w with ctl := BitVec.ofNat 64 (16 * fmt + 1) }

/-- A write of another register of a window, ignored while it is enabled (R306). -/
def writeFw (s : State) (n r : Nat) (v : Word64) : State :=
  let w := s.win n
  if r = 0 then writeFwctl s n v
  else if w.enabled then s
  else
    let pa := v &&& 0x0000FFFFFFFFFFFF
    match r with
    | 1 => s.setWin n { w with exl := v &&& 0x3FFFFFFFF }
    | 2 => s.setWin n { w with exb := pa }
    | 3 => s.setWin n { w with elb := pa }
    | 4 => s.setWin n { w with scb := pa }
    | 5 => s.setWin n { w with mtb := pa }
    | _ => s

/-- A register of a window as it is read (R305). -/
def readFw (s : State) (n r : Nat) : Word64 :=
  let w := s.win n
  match r with
  | 0 => w.ctl | 1 => w.exl | 2 => w.exb | 3 => w.elb | 4 => w.scb | 5 => w.mtb | _ => 0

end Sys2Proof.Machine
end

