-- ==== Sys2Proof/Machine/Home.lean ====
section
/-! DEFINITION. The events of the token protocol (R289-R309, R457): messages arriving at agents and homes, retries, arbitration,
atomics at the home, regrowth, windows and scrubbing. An event that the state does not enable changes nothing. -/

namespace Sys2Proof.Machine

open Host (Outcome)

/-! ### Serving the threads of a die -/

/-- The threads whose CU lies on a die. -/
def dieThreads (s : State) (a : Nat) : List Nat := (s.thr.filter fun p => dieOf p.2.cu = a).map (·.1)

/-- Advance every access in a thread's log. -/
def advanceAll (s : State) (tid : Nat) : State :=
  match s.thread tid with
  | none => s
  | some t => (t.log.map (·.id)).foldl (fun s eid => advance s tid eid) s

/-- A die's L2 has what it asked for: the L1s write back what a release or an eviction waits to write, and the waiting accesses are
performed, before the tokens may leave again (R93, R300). -/
def serveDie (s : State) (a sec : Nat) : State :=
  let s := match (nget s.mem.trans (l2key a sec)).bind (·.eng) with
    | some n => if lineEng 0 ≤ n then (flushLine s (n - lineEng 0) sec).1 else s
    | none => s
  (dieThreads s a).foldl advanceAll s

/-- What tokens that have come let an agent do. A die serves its waiting accesses, and a request that is satisfied then ends; one
of an engine or a port stays, with the tokens, until that one has made its access (R292, R300). A fabric port passes tokens on to
the requests behind it (R301). -/
def serve (s : State) (a sec : Nat) : State :=
  if 88 ≤ a && (nextBehind s a sec).isSome then portPass s a sec
  else if !satisfied s a sec then s
  else
    let s := if a < 84 then serveDie s a sec else s
    match nget s.mem.trans (l2key a sec) with
    | none => s
    | some t =>
      if t.eng.all fun n => lineEng 0 ≤ n then finishRequest s a sec
      else if t.got.isSome then s
      else s.modMem fun m => { m with trans := nset m.trans (l2key a sec) { t with got := some s.cyc } }

/-- The engine or port of a number has still a command, a packet or a host access to go on with, brumation not stopping it. What writes
images asks again by itself: its requests last 4,096 clk. -/
def engineRuns (s : State) (n since : Nat) : Bool :=
  if portEng 0 ≤ n then !s.fab.net.isEmpty || !s.host.ops.isEmpty
  else
    match n % 4 with
    | 0 => s.wgs.any fun p => p.2.cu = n / 4 && p.2.ring.any fun c =>
        (c.running && c.held.isNone && !s.halting p.2.ctx) || c.stage = 4
    | 1 => (s.cu (n / 4)).mq.any fun o => (s.wg o.wg).any fun g => !s.halting g.ctx
    | 2 => s.fab.cmds.any fun p => p.2.cu = n / 4 && p.2.held.isNone && !s.halting p.2.ctx
    | _ => decide (s.cyc < since + 4096)

/-- An engine that has stopped keeps no tokens for an access that it will not make (R275, R300). -/
def stopOwing (s : State) : State :=
  let stopped := s.mem.trans.filter fun p => match p.2.got, p.2.eng with
    | some t, some n => !engineRuns s n t
    | _, _ => false
  stopped.foldl (fun s p => finishRequest s (p.1 / 2 ^ 80) (p.1 % 2 ^ 80)) s

/-! ### Delivery -/

/-- Whether a tile or an agent is lost (R22). -/
def partyLost (s : State) (p : Party) : Bool :=
  match p with
  | .home h => h < 84 && s.mdl.lostTiles.contains (memoryTile h)
  | .agent a => a < 88 && !s.agentLive a

/-- Messages that a lock or an engine makes wait: every one but TOK (R250, R293). -/
def MsgKind.waits (k : MsgKind) : Bool := k ≠ .tok

/-- A home receives a message. -/
def atHomeMsg (s : State) (h : Nat) (m : Msg) : State :=
  match m.kind with
  | .rdt => homeRdt s h m
  | .wrt => homeWrt s h m
  | .tok | .wb => homeTokens s h m
  | .preq => homePreq s h m
  | .pdone => homePdone s h m.req m.sector m.ser
  | .rgack => homeRgack s h m
  | .rgdata => homeRgdata s h m
  | _ => s

/-- An agent receives a message; a fabric port passes a home's broadcasts on to the modules behind it (R301). -/
def atAgentMsg (s : State) (a : Nat) (m : Msg) : State :=
  let h := homeOf m.sector
  let s := noteSer s a m
  let on := fun (s : State) => if 88 ≤ a then portForward s a m else s
  match m.kind with
  | .rdt => agentRdt s a m
  | .wrt => agentWrt s a m
  | .tok => serve (evictOne (agentTok s a m) a m.sector) a m.sector
  | .pact => on (serve (agentPact s a h m) a m.sector)
  | .pdeact => on (agentPdeact s a h m)
  | .pnak => agentPnak s a m
  | .rgstart => if 88 ≤ a then portRgstart s a h m else agentRgstart s a h m
  | .rgend => on (agentRgend s a m)
  | _ => s

/-- Note since when a message for an agent waits (R300). -/
def press (s : State) (a sec : Nat) : State :=
  s.modMem fun m => if (nget m.pressed (l2key a sec)).isSome then m else { m with pressed := nset m.pressed (l2key a sec) s.cyc }

/-- Deliver message `id`, of kind `k`: it leaves the network, unless its party makes it wait (R290-R294). -/
def deliver (k : MsgKind) (id : Nat) (s : State) : State :=
  match nget s.mem.net id with
  | none => s
  | some m =>
    if m.kind ≠ k then s
    else
      let gone := s.modMem fun x => { x with net := nerase x.net id }
      if partyLost s m.dst then gone
      else
        match m.dst with
        | .home h => if 84 ≤ h then toRemoteHome gone m else atHomeMsg gone h m
        | .agent a =>
          if k.waits && heldAt s a m.sector then press (markWaiter s a m.sector) a m.sector
          else atAgentMsg (gone.modMem fun x => { x with pressed := nerase x.pressed (l2key a m.sector) }) a m

/-- RDT (R293, R294). -/
def execRdt (msg : Nat) (s : State) : Outcome State Fault Refusal := .next (deliver .rdt msg s)
/-- WRT (R289, R293, R294). -/
def execWrt (msg : Nat) (s : State) : Outcome State Fault Refusal := .next (deliver .wrt msg s)
/-- TOK (R287, R291, R293, R294). -/
def execTok (msg : Nat) (s : State) : Outcome State Fault Refusal := .next (deliver .tok msg s)
/-- WB (R294, R296). -/
def execWb (msg : Nat) (s : State) : Outcome State Fault Refusal := .next (deliver .wb msg s)
/-- PREQ (R297, R298). -/
def execPreq (msg : Nat) (s : State) : Outcome State Fault Refusal := .next (deliver .preq msg s)
/-- PACT (R293, R299). -/
def execPact (msg : Nat) (s : State) : Outcome State Fault Refusal := .next (deliver .pact msg s)
/-- PDONE (R298). -/
def execPdone (msg : Nat) (s : State) : Outcome State Fault Refusal := .next (deliver .pdone msg s)
/-- PDEACT (R299). -/
def execPdeact (msg : Nat) (s : State) : Outcome State Fault Refusal := .next (deliver .pdeact msg s)
/-- RGSTART (R302, step 2). -/
def execRgstart (msg : Nat) (s : State) : Outcome State Fault Refusal := .next (deliver .rgstart msg s)
/-- RGACK (R302, step 3). -/
def execRgack (msg : Nat) (s : State) : Outcome State Fault Refusal := .next (deliver .rgack msg s)
/-- RGDATA (R302, step 3). -/
def execRgdata (msg : Nat) (s : State) : Outcome State Fault Refusal := .next (deliver .rgdata msg s)
/-- RGEND (R302, step 5). -/
def execRgend (msg : Nat) (s : State) : Outcome State Fault Refusal := .next (deliver .rgend msg s)

/-! ### Retries and arbitration -/

/-- TRANSIENT_RETRY_EXPIRY (R292). -/
def execTransientRetryExpiry (agent sector : Nat) (s : State) : Outcome State Fault Refusal :=
  .next (retryExpired s agent sector)

/-- PERSISTENT_ARBITRATION (R298). -/
def execPersistentArbitration (home : Nat) (s : State) : Outcome State Fault Refusal := .next (arbitrate s home)

/-- PNAK_RETRY (R298): PNAKs on their way reach the agent, which raises its request again 1 µs after. -/
def execPnakRetry (agent : Nat) (s : State) : Outcome State Fault Refusal :=
  let l := (s.mem.net.filter fun p => p.2.kind = .pnak && p.2.dst = .agent agent).map (·.1)
  .next (pnakAgain (l.foldl (fun s id => deliver .pnak id s) s) agent)

/-! ### Atomics at the home (R457) -/

/-- An atomic waits for no agent's entry: none for its sector is pending or active. -/
def noEntryFor (s : State) (h sec : Nat) : Bool :=
  !((s.home h).ptab.any fun p => p.2.sector = sec && (p.2.st = .pending || p.2.st = .active))

/-- Bytes that a home has written go stale in the issuing CU's L1, less those that a group of the CU has dirtied meanwhile: they
stay, and replace the home's when they are written back (R82, R84). -/
def staleL1 (s : State) (cu sec off n : Nat) : State :=
  match s.l1 cu sec with
  | none => s
  | some l => s.setL1 cu sec { l with valid := l.valid &&& (~~~byteMask off n ||| l.dirty) }

/-- The DRAM bytes of an atomic take its new value, if it writes one (R244); the old value. -/
def homeRmw (s : State) (a : HomeAtom) : State × Nat :=
  let n := if tyWide a.ty then 8 else 4
  let old := leNat (Memory.bytes s.mem.dram a.addr n)
  match atomWrite a.op a.ty old a.b.toNat a.c.toNat with
  | none => (s, old)
  | some new => (fireSector (s.modMem fun m => { m with dram := Memory.setBytes m.dram a.addr (leBytes n new) }) a.sector, old)

/-- Execute one queued atomic: the DRAM value changes and the lane, or the module that sent it, gets the old one; on a poisoned
sector it raises POISON (R244, R304, R457). -/
def runAtom (s : State) (a : HomeAtom) : State :=
  let n := if tyWide a.ty then 8 else 4
  let poi := (s.smeta a.sector).poi
  match a.pkt with
  | some p =>
    if poi then finishPacket s p (sysReply cPOISON [])
    else
      let (s, old) := homeRmw s a
      finishPacket s p (sysReply 0 (leBytes n old))
  | none =>
    if poi then
      match s.entry a.tid a.eid with
      | some e =>
        markFault (s.modEntry a.tid a.eid fun e => { e with sent := e.sent &&& ~~~BitVec.ofNat 32 (2 ^ a.lane) }) a.tid a.eid
          (BitVec.ofNat 32 (2 ^ a.lane)) ⟨7, cPOISON, accSyn e.opc e.f false⟩
      | none => s
    else
      let (s, old) := homeRmw s a
      match s.thread a.tid with
      | none => s
      | some t => laneDone (staleL1 s t.cu a.sector (a.addr % 64) n) a.tid a.eid a.lane (some old) false

/-- Execute every atomic queued for a sector, in order of arrival. -/
def runAtoms (s : State) (h sec : Nat) : State :=
  let l := (s.home h).atoms.filter fun a => a.sector = sec
  let s := s.modHome h fun x => { x with atoms := x.atoms.filter fun a => a.sector ≠ sec }
  l.foldl runAtom s

/-- Atomics that need no home request are executed at once. -/
def directAtoms (s : State) (h : Nat) : State :=
  (((s.home h).atoms.map (·.sector)).eraseDups).foldl (fun s sec =>
    if (s.smeta sec).full && noEntryFor s h sec && !regrowing s h sec && !homeAsks s h sec then runAtoms s h sec else s) s

/-- Activate a home request: every agent is told to forward its tokens to the home. -/
def activateHome (s : State) (h : Nat) (q : HomeReq) : State :=
  let aseq := ((s.home h).aseq + 1) % 65536
  let s := s.modHome h fun x =>
    { x with aseq := aseq, hreq := some { q with active := true, since := s.env.clk, aseq := aseq } }
  broadcast s { Msg.of .pact (.home h) (.home h) 256 q.sector (s.smeta q.sector).ser with wr := true, aseq := aseq }

/-- Raise a home request for the first atomic whose sector has no entry still to be served before it. -/
def raiseHome (s : State) (h : Nat) : State :=
  let x := s.home h
  let ahead := fun (sec : Nat) => x.ptab.any fun p =>
    p.2.sector = sec && (p.2.st = .pending || p.2.st = .active) && x.after.contains p.1
  match x.atoms.find? fun a => !ahead a.sector with
  | none => s
  | some a => s.modHome h fun x => { x with hreq := some { sector := a.sector, active := false, since := s.env.clk, aseq := 0 } }

/-- HOME_REQUEST (R457). -/
def execHomeRequest (home : Nat) (s : State) : Outcome State Fault Refusal :=
  let s := directAtoms s home
  match (s.home home).hreq with
  | none => .next (raiseHome s home)
  | some q =>
    if regrowing s home q.sector then .next s
    else if !q.active then (if (activeFor s home q.sector).isSome then .next s else .next (activateHome s home q))
    else if (s.smeta q.sector).full then
      let s := runAtoms s home q.sector
      let due := ((s.home home).ptab.filter fun p => p.2.sector = q.sector && p.2.st = .pending).map (·.1)
      let s := s.modHome home fun x => { x with hreq := none, after := (x.after ++ due).eraseDups }
      .next (activateOrEnd s home q.sector)
    else .next s

/-! ### Regrowth (R302, R303) -/

/-- REGROWTH_TRIGGER (R302): an active request has been unsatisfied too long. -/
def execRegrowthTrigger (home sector : Nat) (s : State) : Outcome State Fault Refusal :=
  .next (if regrowDue s home sector then triggerRegrow s home sector else s)

/-- REGROWTH_WAIT_TIMEOUT (R302, step 3): an announced RGDATA 1 ms late is counted lost; of an agent behind a lost link, the
acknowledgement is. -/
def execRegrowthWaitTimeout (home sector agent : Nat) (s : State) : Outcome State Fault Refusal :=
  match (s.home home).regrow.find? fun r => r.sector = sector with
  | none => .next s
  | some r =>
    let lateData := (nget r.waitData agent).any fun t => t + nsToClk 1000000 ≤ s.env.clk
    let lateAck := r.waitAck.contains agent && 88 ≤ agent && r.since + nsToClk 2000000000 ≤ s.env.clk
    if lateData then
      .next (checkRegrow (modRegrow s home sector fun r =>
        { r with waitData := nerase r.waitData agent, lostData := true }) home sector)
    else if lateAck then
      .next (checkRegrow (modRegrow s home sector fun r =>
        { r with waitAck := r.waitAck.filter (· ≠ agent) }) home sector)
    else .next s

/-- REGROWTH_DEFERRAL_EXPIRY (R303). -/
def execRegrowthDeferralExpiry (home sector : Nat) (s : State) : Outcome State Fault Refusal :=
  .next (if (s.home home).deferred.contains sector && mayRegrow s home sector && !regrowing s home sector
    then startRegrow s home sector else s)

/-! ### Scrubbing, windows, locks, accesses -/

/-- SCRUB_ACTIVATION (R309): a single-symbol error is corrected and counted; a double one poisons the sector, and with unreadable
metadata the home also takes every token back under the next serial number. -/
def execScrubActivation (home sector : Nat) (error : SymbolError) (s : State) : Outcome State Fault Refusal :=
  if homeOf sector ≠ home then .next s
  else
    let m := s.smeta sector
    let s := s.modHome home fun x => { x with scrub := x.scrub + 1 }
    match error with
    | .none => .next s
    | .single => .next ((countError s .dram).modHome home fun x => { x with corrected := x.corrected + 1 })
    | .double => .next (s.setMeta sector { m with poi := true })
    | .doubleMeta => .next (unreadable s sector)

/-- FWCTL_WRITE (R305-R307). -/
def execFwctlWrite (window : Nat) (value : Word64) (s : State) : Outcome State Fault Refusal :=
  .next (writeFwctl s window value)

/-- WINDOW_SECTOR_READ (R308): the home's expansion reaches the L2 that asked for it. -/
def execWindowSectorRead (agent sector : Nat) (s : State) : Outcome State Fault Refusal :=
  let key := l2key agent sector
  if !s.mem.winReq.contains key then .next s
  else
    let s := s.modMem fun m => { m with winReq := m.winReq.filter (· ≠ key) }
    match s.winOf sector with
    | none => .next s
    | some w =>
      let s := s.modMem fun m => { m with copies := nset m.copies key (expandSector s (s.win w) sector) }
      .next ((dieThreads s agent).foldl advanceAll (evictOne s agent sector))

/-- ACCESS_COMPLETION (R100, R238): an access of the log is performed as far as it can be, and completes. -/
def execAccessCompletion (thread entry : Nat) (s : State) : Outcome State Fault Refusal := .next (advance s thread entry)

/-- ACCESS_FAULT (R101, R102, R238): the lanes that fail a check are marked, with an error met in the data where `bad` names
one. -/
def execAccessFault (thread entry : Nat) (bad : Option DataError) (s : State) : Outcome State Fault Refusal :=
  match s.thread thread with
  | none => .next s
  | some t =>
    match t.entry entry with
    | none => .next s
    | some e =>
      if e.state = 2 then .next s
      else
        let (s, l) := failingLanes s t e thread bad
        .next (faultLanes s thread entry l)

/-- MSLP_TIMEOUT (R255): an MSLP whose time has passed ends, with the timed-out bit, at its group's next turn. -/
def execMslpTimeout (thread : Nat) (s : State) : Outcome State Fault Refusal :=
  match s.thread thread with
  | none => .next s
  | some t =>
    match t.blk with
    | some b =>
      if b.stage = mslpStage && b.aux ≠ 2 ^ 32 - 1 && b.val + b.aux ≤ s.ns then .next (s.modThread thread fun u => { u with waits := false, stall := 0 })
      else .next s
    | none => .next s

/-- LOCK_BREAK (R251): at age 4,096 with a waiter, or when its holder's workgroup or its die is gone. -/
def execLockBreak (thread entry : Nat) (s : State) : Outcome State Fault Refusal :=
  match s.thread thread with
  | none => .next s
  | some t =>
    match nget t.locks entry with
    | none => .next s
    | some k =>
      let aged := k.since + 4096 ≤ s.cyc && k.waiter
      let ended := match s.wg t.wg with | some g => g.killed || allExited s g | none => true
      if k.held && (aged || ended || partyLost s (.agent k.die)) then
        .next (s.modThread thread fun u => { u with locks := nmod u.locks entry fun k => { k with held := false } })
      else .next s

/-- BARRIER_PHASE_COMPLETE (R170-R172). -/
def execBarrierPhaseComplete (cluster : Bool) (owner id : Nat) (s : State) : Outcome State Fault Refusal :=
  .next (phaseEnd s cluster owner id)

end Sys2Proof.Machine
end

