-- ==== Sys2Proof/Machine/FabEv.lean ====
section
/-! DEFINITION. The receiving side of the fabric engine and its events (R313-R318, R323, R324, R332, R334, R337-R340, R345, R346). -/

namespace Sys2Proof.Machine

open Host (Outcome)

/-! ### A port as a token holder (R32, R316, R323) -/

/-- The agent of a fabric port (R12). -/
def portAgent (plane : Nat) : Nat := 88 + plane % 64

/-- Some context of this module has the key. -/
def keyKnown (s : State) (key : Nat) : Bool := s.ctxs.any fun p => p.2.key = key

/-- Return a port's tokens of a sector to the home and end its request. -/
def portReturn (s : State) (a sec : Nat) : State := finishRequest (writeBack s a sec) a sec

/-- The overflow mark as a reply carries it (R156, log 43). -/
def markBit (wo : Bool) : Word64 := if wo then 1 else 0

/-- Read 64 bytes of a sector with one token; nothing while it must wait. Poison and the overflow mark are told. -/
def portRead (s : State) (plane : Nat) (x : Xl) : State × Option Got :=
  if x.host then
    let s := hostGiveUp s (hostKey x)
    (s, some ⟨Memory.bytes s.mem.hostMem (x.pa / 64 * 64) 64, false, false⟩)
  else
    let a := portAgent plane
    match l2Fetch s a x.sector (reImm x.e) (reT64 x.e) (some (portEng a)) with
    | (s, none) => (s, none)
    | (s, some g) => (if reImm x.e then s else portReturn s a x.sector, some g)

/-- Write the bytes of a mask of a sector with every token; tells whether it is done. -/
def portWrite (s : State) (plane : Nat) (x : Xl) (mask : BitVec 64) (d : List Byte) : State × Bool :=
  if x.host then
    let s := hostGiveUp s (hostKey x)
    (s.modMem fun m => { m with hostMem := Memory.setEnabled m.hostMem (x.pa / 64 * 64) (fun i => mask.getLsbD i) d }, true)
  else
    let a := portAgent plane
    if s.canWrite a x.sector then (portReturn (l2Merge s a x.sector mask d) a x.sector, true)
    else (need s a x.sector true (reT64 x.e) (some (portEng a)), false)

/-- The check of a destination byte range's part for writing: a failure kind (R323, R342). -/
def destKind (s : State) (key va : Nat) : Except Nat Xl :=
  match keyXl s key va with
  | none => .error 2
  | some x => if !reW x.e || reImm x.e || (!x.host && (s.winOf x.sector).isSome) then .error 3 else .ok x

/-- A range cut at 64-byte boundaries. -/
def sectorParts (a n : Nat) : List (Nat × Nat) :=
  if n = 0 then []
  else (List.range ((a % 64 + n + 63) / 64)).map fun i =>
    let lo := max a (a - a % 64 + 64 * i)
    (lo, min (a + n) (a - a % 64 + 64 * (i + 1)) - lo)

/-- A packet is acknowledged: it is not kept for retransmission any more. -/
def acked (s : State) (xid pseq : Nat) : State :=
  s.modFab fun x => { x with unacked := x.unacked.filter fun u => !(u.pkt.xid = xid && u.pkt.pseq = pseq) }

/-- The bytes that a packet names, under the partition's tables: their tiles count as touched (R21, R22). -/
def touchKey (s : State) (key va n : Nat) : State :=
  (sectorParts va n).foldl (fun s q =>
    match keyWalk s key q.1 with | some (c, x) => requestCtx s c x false | none => s) s

/-! ### Replies and duplicates (R314) -/

/-- The BXGET to which a get-data packet belongs, while it still waits for that packet. -/
def getCmd (s : State) (p : Packet) : Option FabCmd :=
  (s.fab.cmds.find? fun q => q.2.xid = p.xid && q.2.kind = 1 && q.2.left.contains p.pseq).map (·.2)

/-- An acknowledgement with a failure kind, 0 for success, and the bytes counted so far. -/
def ackOf (p : Packet) (kind counted : Nat) : Packet :=
  { Packet.blank with pkind := 8, status := kind, daddr := p.daddr, opB := BitVec.ofNat 64 counted }

/-- The kept reply to a duplicate. -/
def dupReply (s : State) (p : Packet) : Option Packet :=
  (nget s.fab.seen (seenKey p)).bind fun q => if s.env.clk < q.1 + nsToClk 4000000 then some q.2 else none

/-- Take a packet in: one whose PCRC fails is dropped (R312), and one 1 ms old (R314), a duplicate answered again, less get data and
results, which no reply answers; any other packet is kept while the port performs it. -/
def onPacket (s : State) (p : Packet) (go : State → State) : State :=
  if p.dmod ≠ s.mdl.number || (p.smod = s.mdl.number && !s.fab.net.contains p) then s
  else if p.pcrc ≠ packetCrc p || (expired s p && (nget s.fab.rxq (pktKey p)).isNone) then takeNet s p
  else
    match dupReply s p with
    | some r => if p.pkind = 2 || p.pkind = 4 then takeNet s p else reply (takeNet s p) r
    | none => go (if s.fab.net.contains p then s else s.modFab fun x => { x with net := x.net ++ [p] })

/-! ### Counting (R323) -/

def State.rx (s : State) (k : Nat) : RxCount := ngetD s.fab.rx k RxCount.zero
def State.setRx (s : State) (k : Nat) (r : RxCount) : State := s.modFab fun x => { x with rx := nset x.rx k r }

/-- Counting of a transfer has ended for a packet. -/
def RxCount.ended (r : RxCount) (pseq : Nat) : Bool := match r.endAt with | some e => e ≤ pseq | none => false

/-- Counting ends at a packet. -/
def RxCount.stop (r : RxCount) (pseq : Nat) (late : Bool) : RxCount :=
  { r with endAt := some (match r.endAt with | some e => min e pseq | none => pseq), late := r.late || late }

/-- The value that a packet adds (R323, step 5). -/
def arrivalValue (p : Packet) : Nat := if p.pkind = 3 then 1 else p.len

/-- A packet that no reply answers has been performed: its identity is kept (R314). -/
def keepSeen (s : State) (p : Packet) : State :=
  (takeNet s p).modFab fun x => { x with rxq := nerase x.rxq (pktKey p), seen := nset x.seen (seenKey p) (s.env.clk, p) }

/-- The end of a get-data packet: its part of the command is done. -/
def finishGet (s : State) (p : Packet) (fail counted : Nat) : State :=
  let s := keepSeen s p
  match getCmd s p with
  | some c =>
    let s := s.modCmd c.id fun c =>
      { c with wrote := c.wrote + (if fail = 0 then p.len else 0), wo := c.wo || (fail = 0 && p.bitmap = markBit true) }
    replyCmd s c.id [p.pseq] fail p.daddr counted
  | none => s

/-- The end of a reduction's result here: no reply is sent for it. -/
def finishResult (s : State) (p : Packet) (fail counted : Nat) : State :=
  let s := keepSeen s p
  match s.fab.cmds.find? fun q => q.2.xid = p.xid && q.2.kind = 3 with
  | some (id, _) => replyCmd s id [2 * p.pseq] fail p.daddr counted
  | none => s

/-- The packet that ends a transfer has been answered: with it the port's count goes (R323). -/
def noteLast (s : State) (p : Packet) : State :=
  if p.last then s.setRx (pktXfer p) { s.rx (pktXfer p) with last := true, since := s.env.clk } else s

/-- A received packet is finished with a kind. -/
def finishRx (s : State) (p : Packet) (kind counted : Nat) : State :=
  let s := noteLast s p
  if p.pkind = 2 then finishGet s p kind counted
  else if p.pkind = 4 then finishResult s p kind counted
  else finishPacket s p (ackOf p kind counted)

/-- A packet is counted no more in its mailbox. -/
def unbox (s : State) (box : Option (Nat × Nat)) : State := match box with | some (i, gen) => boxCounted s i gen | none => s

/-- Refuse a packet: it keeps its place in the order and ends the counting of its transfer (R323). -/
def refuse (s : State) (p : Packet) (kind : Nat) (box : Option (Nat × Nat)) : State :=
  let k := pktXfer p
  let r := s.rx k
  let s := s.setRx k { (r.stop p.pseq false) with since := s.env.clk }
  finishRx (unbox s box) p kind r.bytes

/-- Count the packets of a transfer that are next in order, as many as have been written: each makes its arrival, unless its mailbox
has gone since (R325). -/
def countNext (fuel : Nat) (s : State) (k : Nat) : State :=
  match fuel with
  | 0 => s
  | n + 1 =>
    let r := s.rx k
    match nget s.fab.rxq (k * 2 ^ 32 + r.next) with
    | none => s
    | some q =>
      if !q.written || r.ended r.next then s
      else
        let b := q.box.bind fun i => boxAt s i.1 i.2
        let s := match b with | some b => arrive s b.wg b.off (arrivalValue q.pkt) | none => s
        let s := unbox s q.box
        let counts := q.box.isNone || b.isSome
        let r := { r with next := r.next + 1, bytes := r.bytes + (if counts then q.pkt.len else 0), since := s.env.clk }
        countNext n (finishRx (s.setRx k r) q.pkt 0 r.bytes) k

/-- A packet whose data is performed: it is counted in order, or answered at once when its counting has ended. -/
def countPacket (s : State) (p : Packet) : State :=
  let k := pktXfer p
  match nget s.fab.rxq (pktKey p) with
  | none => s
  | some q =>
    let r := s.rx k
    if r.ended p.pseq then finishRx (unbox s q.box) p 0 r.bytes
    else countNext (s.fab.rxq.length + 1) (s.setRx k { r with since := s.env.clk }) k

/-! ### Receiving data, flags, get data and results (R323) -/

/-- Where a packet's bytes go, its length and its mailbox: get data takes them from the command that asked. -/
def rxTarget (s : State) (p : Packet) : Option (Nat × Nat × Word64) :=
  if p.pkind = 2 then
    (getCmd s p).map fun c => (c.local' + (c.part p.pseq).1, p.len, c.w3)
  else some (p.daddr.toNat % 2 ^ 52, p.len, p.mbox)

/-- The check of one destination part: get data is checked in the command's own context (R344). -/
def rxCheck (s : State) (p : Packet) (va : Nat) : Except Nat Xl :=
  if p.pkind = 2 then
    match getCmd s p with
    | some c =>
      (match walk s c.ctx va with
        | some x => if !reW x.e || reImm x.e || (!x.host && (s.winOf x.sector).isSome) then .error 0 else .ok x
        | none => .error 0)
    | none => .error 0
  else destKind s p.pkey va

/-- Get data for a command that a fault holds waits for its resume (R344). -/
def getHeld (s : State) (p : Packet) : Bool := p.pkind = 2 && (getCmd s p).any fun c => c.held.isSome

/-- Write the parts that are left of a packet, one after another, while tokens are there. -/
def rxWrite (fuel : Nat) (s : State) (p : Packet) (base : Nat) : State :=
  match fuel with
  | 0 => s
  | n + 1 =>
    match nget s.fab.rxq (pktKey p) with
    | none => s
    | some q =>
      let set := fun (s : State) (q : RxPkt) => s.modFab fun x => { x with rxq := nset x.rxq (pktKey p) q }
      match q.parts with
      | [] => countPacket (set s { q with written := true }) p
      | (va, len) :: rest =>
        match if getHeld s p then .error 0 else rxCheck s p va with
        | .error _ => s
        | .ok x =>
          let off := x.pa % 64
          match portWrite s p.plane x (byteMask off len) (spread off (sliceOf p.payload (va - base) len)) with
          | (s, false) => s
          | (s, true) =>
            let s := match if p.pkind = 2 then getCmd s p else none with
              | some c => regWritten s c.id 0 (va / 64) (byteMask off len) false
              | none => s
            rxWrite n (set s { q with parts := rest }) p base

/-- Steps 1 to 3 for a packet that has just come. -/
def rxBegin (s : State) (p : Packet) (base len : Nat) (mbox : Word64) : State :=
  let k := pktXfer p
  let old := s.rx k
  -- a transfer number comes back after 4 ms at the earliest (R315): its first packet then begins a new transfer
  let r := if ((p.pseq = 0 && old.next ≠ 0) || old.endAt.isSome) && old.since + nsToClk 4000000 ≤ s.env.clk then RxCount.zero else old
  let s := s.setRx k { r with since := s.env.clk }
  if !keyKnown s p.pkey then refuse s p 2 none
  else if r.late && r.ended p.pseq = false && p.pseq < (r.endAt.getD 0) then refuse s p 5 none
  else
    let key := if p.pkind = 2 then
        (match getCmd s p with | some c => (s.ctx c.ctx).key | none => p.pkey)
      else p.pkey
    match if mbox = 0 then some none else (boxOf s key mbox).map some with
    | none => refuse s p 4 none
    | some b =>
      let box := b.map fun b => (b.1, b.2.gen)
      let s := match b with
        | some (i, m) => s.modFab fun x => { x with boxes := nset x.boxes i { m with infl := m.infl + 1 } }
        | none => s
      let parts := sectorParts base len
      let bad := if p.pkind = 2 then none else parts.findSome? fun a => match destKind s p.pkey a.1 with | .error k => some k | .ok _ => none
      match bad with
      | some k => refuse s p k box
      | none =>
        let q : RxPkt := { pkt := p, box := box, parts := parts, buf := [], written := false, since := s.env.clk }
        rxWrite (parts.length + 1) (s.modFab fun x => { x with rxq := nset x.rxq (pktKey p) q }) p base

/-- DATA_PACKET_RECEIVE (R323): a port checks a packet, writes it, counts it and acknowledges it, as far as it can now. A kind
that is reserved is dropped and counted as a port error (R315), and a packet of the coherence channel carries a message (R301). -/
def execDataPacketReceive (p : Packet) (s : State) : Outcome State Fault Refusal :=
  if 12 ≤ p.pkind then .next ((takeNet s p).modFab fun x => { x with errs := x.errs + 1 })
  else if p.pkind = 10 then
    let near := fun (s : State) =>
      if p.daddr.toNat / 2 ^ 52 = s.mdl.number then touchKey s p.pkey (p.daddr.toNat % 2 ^ 52) 1 else s
    .next (if p.dmod ≠ s.mdl.number || p.pcrc ≠ packetCrc p || expired s p then takeNet s p else coherentPacket (near (takeNet s p)) p)
  else if !([0, 2, 3, 4].contains p.pkind) then .next s
  else
    .next (onPacket s p fun s =>
      match rxTarget s p with
      | none => takeNet s p
      | some (base, len, mbox) =>
        match nget s.fab.rxq (pktKey p) with
        | some q => if q.written then countPacket s p else rxWrite (q.parts.length + 1) s p base
        | none => rxBegin (touchKey (if p.pkind = 2 then acked s p.xid p.pseq else s) p.pkey base len) p base len mbox)

/-- The packets of a transfer that the port performs. -/
def rxOf (s : State) (k : Nat) : List RxPkt := (s.fab.rxq.filter fun q => q.1 / 2 ^ 32 = k).map (·.2)

/-- A packet has waited 4 ms for an earlier one of its transfer that has not come. -/
def waitsTooLong (s : State) (k : Nat) (q : RxPkt) : Bool :=
  let n := (s.rx k).next
  q.since + nsToClk 4000000 ≤ s.env.clk && !(s.rx k).ended q.pkt.pseq
    && ((rxOf s k).filter fun x => n ≤ x.pkt.pseq && x.pkt.pseq < q.pkt.pseq).length < q.pkt.pseq - n

/-- COUNTING_END_TIMEOUT (R323): a packet has waited 4 ms for an earlier one; it and every later packet of its transfer make no
arrival. -/
def execCountingEndTimeout (smod xid : Nat) (s : State) : Outcome State Fault Refusal :=
  let k := xferKey smod xid
  let late := ((rxOf s k).filter (waitsTooLong s k)).map fun q => q.pkt.pseq
  match late with
  | [] => .next s
  | n :: l =>
    let s := s.setRx k { ((s.rx k).stop (l.foldl min n) true) with since := s.env.clk }
    .next (((rxOf s k).filter (·.written)).foldl (fun s q => countPacket s q.pkt) s)

/-! ### Get requests (R332) and system accesses (R316) -/

/-- GET_REQUEST (R332): the source port reads a part and returns it as get data; a source that cannot be read fails with
SRCR, and a key without mapping with DXLAT (R323, step 1). -/
def execGetRequest (p : Packet) (s : State) : Outcome State Fault Refusal :=
  if p.pkind ≠ 1 then .next s
  else
    .next (onPacket s p fun s =>
      if !keyKnown s p.pkey then finishPacket s p (ackOf p 2 0) else
      let va := p.daddr.toNat % 2 ^ 52
      let s := touchKey s p.pkey va p.len
      let q := (nget s.fab.rxq (pktKey p)).getD
        { pkt := p, box := none, parts := sectorParts va p.len, buf := [], written := false, since := s.env.clk }
      readParts (q.parts.length + 1) s q)
where
  readParts (fuel : Nat) (s : State) (q : RxPkt) : State :=
    match fuel with
    | 0 => s
    | n + 1 =>
      match q.parts with
      | [] => finishPacket s p { Packet.blank with pkind := 2, len := p.len, mbox := p.mbox, daddr := p.daddr, last := p.last, payload := q.buf,
                                                   bitmap := markBit q.wo }
      | (a, len) :: rest =>
        let fail := finishPacket s p (ackOf p 7 0)
        match keyXl s p.pkey a with
        | none => fail
        | some x =>
          if !reRd x.e then fail
          else
            match portRead s p.plane x with
            | (s, none) => s.modFab fun y => { y with rxq := nset y.rxq (pktKey p) q }
            | (s, some g) =>
              if g.poi then finishPacket s p (ackOf p 7 0)
              else readParts n s { q with parts := rest, buf := q.buf ++ sliceOf g.data (x.pa % 64) len, wo := q.wo || g.wo }

/-- What a system-space packet asks of its sector's bytes: enables and data from the old value; a CAS that fails writes nothing
(R244). -/
def sysNew (p : Packet) (old : List Byte) : BitVec 64 × List Byte :=
  let off := p.daddr.toNat % 64
  if p.pkind = 6 then
    (BitVec.ofNat 64 (((p.ben.toNat % 2 ^ p.len) <<< off)), spread off p.payload)
  else
    let n := if tyWide p.ty then 8 else 4
    match atomWrite p.op p.ty (leNat (sliceOf old off n)) p.opB.toNat p.opC.toNat with
    | some v => (byteMask off n, spread off (leBytes n v))
    | none => (0, [])

/-- An atomic of another module in a coherent range waits its turn at the sector's home (R457). -/
def atomPacket (s : State) (p : Packet) (x : Xl) : State :=
  let here := fun (a : HomeAtom) => a.pkt.any fun q => pktKey q = pktKey p
  if (s.home (homeOf x.sector)).atoms.any here then takeNet s p
  else
    let a : HomeAtom := { pkt := some p, tid := 0, eid := 0, lane := 0, sector := x.sector, addr := x.pa, op := p.op, ty := p.ty,
                          b := p.opB, c := p.opC }
    (takeNet s p).modHome (homeOf x.sector) fun h => { h with atoms := h.atoms ++ [a] }

/-- SYSTEM_ACCESS_PACKET (R316-R318): a load, store or atomic is checked, and performed at the home of its sector by the receiving port,
which returns the tokens at once. In a coherent range a load or store is the requester's to perform, which is what the answer tells
(R83); LNLK, LNUL and MARM ask for the checks alone. -/
def execSystemAccessPacket (p : Packet) (s : State) : Outcome State Fault Refusal :=
  if p.pkind < 5 || 7 < p.pkind then .next s
  else
    .next (onPacket s p fun s =>
      let va := p.daddr.toNat % 2 ^ 52
      let s := touchKey s p.pkey va (max 1 p.len)
      match keyXl s p.pkey va with
      | none => finishPacket s p (sysReply cXLAT [])
      | some x =>
        let check := p.pkind = 5 && p.op ≠ 0
        let wr := 6 ≤ p.pkind || (check && (p.op = 10 || (p.op = 11 && p.ty = 1)))
        let rd := p.pkind = 7 || (p.pkind = 5 && !(check && p.op = 11 && p.ty = 1))
        let win := !x.host && (s.winOf x.sector).isSome
        let coherent := reCoh x.e && !x.host && !reImm x.e && !win
        if check && p.op = 10 && lockBad s true x then finishPacket s p (sysReply cLOCKB [])
        else if (rd && !reRd x.e) || (wr && (!reW x.e || reImm x.e)) then finishPacket s p (sysReply cPERM [])
        else if wr && win then finishPacket s p (sysReply cFMTW [])
        else if p.pkind = 6 && p.ben.toNat % 2 ^ p.len = 0 then finishPacket s p (sysReply 0 [])
        else if coherent && p.pkind ≠ 7 then finishPacket s p (sysReply (coherentAnswer (reT64 x.e)) [])
        else if check then finishPacket s p (sysReply 0 [])
        else if p.pkind = 7 && reCoh x.e && !x.host then atomPacket s p x
        else
          let n := if p.pkind = 7 then (if tyWide p.ty then 8 else 4) else p.len
          if !wr then
            match portRead s p.plane x with
            | (s, none) => s
            | (s, some g) =>
              finishPacket s p (if g.poi then sysReply cPOISON []
                else { sysReply 0 (sliceOf g.data (x.pa % 64) n) with bitmap := markBit g.wo })
          else
            let old := if x.host then Memory.bytes (hostGiveUp s (hostKey x)).mem.hostMem (x.pa / 64 * 64) 64
              else (s.line (portAgent p.plane) x.sector).data
            let poi := rd && !x.host && s.canWrite (portAgent p.plane) x.sector && (s.line (portAgent p.plane) x.sector).poi
            if poi then finishPacket (portReturn s (portAgent p.plane) x.sector) p (sysReply cPOISON [])
            else
              let (mask, d) := sysNew p old
              match portWrite s p.plane x mask d with
              | (s, false) => s
              | (s, true) => finishPacket s p (sysReply 0 (if rd then sliceOf old (x.pa % 64) n else [])))

/-! ### Acknowledgements (R316, R334, R338, R341) -/

/-- The check that another module's refusal names, in the order of R238. -/
def remoteFailed (e : LogEntry) (cause : Nat) : Failed :=
  let rank := if cause = cPERM then 4 else if cause = cFMTW then 5 else if cause = cPOISON || cause = cUCE then 7 else 3
  ⟨rank, cause, if cause = cFABF then 5 else if cause = cLOCKB then 3 else accSyn e.opc e.f false⟩

/-- The reply to one part of a system access of a thread of this module: a failed check, the part's data, or leave for this module's L2 to
perform it (R83, R316, R318). -/
def sysAcked (s : State) (xid : Nat) (q : Nat × Nat × Nat × Nat) (cause : Nat) (d : List Byte) (wo : Bool := false) : State :=
  let (tid, eid, l, part) := q
  let coherent := coherentAnswer false ≤ cause
  let s := (acked s xid 0).modFab fun x => { x with sysReq := nerase x.sysReq xid }
  match s.entry tid eid with
  | none => s
  | some e =>
    if cause ≠ 0 && !coherent then
      let s := s.modFab fun x => { x with sysReq := x.sysReq.filter fun r => !(r.2.1 = tid && r.2.2.1 = eid && r.2.2.2.1 = l) }
      let s := s.modEntry tid eid fun e =>
        { e with sent := e.sent &&& ~~~laneBit l, coh := e.coh.filter fun p => p.1 / 4 ≠ l }
      if e.quiet l || e.opc = 0x189 then laneDone s tid eid l none false
      else markFault s tid eid (laneBit (if e.once then lowestLane e.effm else l)) (remoteFailed e cause)
    else
      let dead := s.deadOf tid
      let s := s.modEntry tid eid fun e =>
        if coherent then { e with coh := nset e.coh (cohKey l part) cause }
        else { e with res := nset e.res l (ngetD e.res l 0 ||| BitVec.ofNat 512 (leNat d <<< (128 * part))),
                      wo := e.wo || (wo && e.raises l dead) }
      match s.entry tid eid with
      | none => s
      | some e =>
        if (s.fab.sysReq.any fun r => r.2.1 = tid && r.2.2.1 = eid && r.2.2.2.1 = l) || e.coh.any fun p => p.1 / 4 = l then s
        else
          let s := if e.opc = 0x18E then
              (match s.thread tid with | some t => (marm s t tid e (.remote 0)).1 | none => s)
            else s
          laneDone s tid eid l (e.sysResult l) false

/-- A member's reply to a replicated packet reaches the switch that merges them, on a plane. -/
def mergeReply (s : State) (m : MergeAck) (i kind plane : Nat) : State :=
  let m := { m with waiting := m.waiting.filter (· ≠ i), bitmap := if kind = 0 then m.bitmap else m.bitmap ||| BitVec.ofNat 64 (2 ^ i) }
  let rest := s.fab.merges.filter fun y => !(y.xid = m.xid && y.pseq = m.pseq)
  if m.waiting.isEmpty then
    switchReply (s.modFab fun x => { x with merges := rest })
      { Packet.blank with plane := plane, pkind := 9, dmod := s.mdl.number, smod := s.mdl.number, pkey := m.key, group := m.group, ver := m.ver,
                          xid := m.xid, pseq := m.pseq, bitmap := m.bitmap }
  else s.modFab fun x => { x with merges := rest ++ [m] }

/-- ACKNOWLEDGEMENT (R316, R323, R334, R338): a reply arrives at the sender, or at the switch that gathers a multicast's. -/
def execAcknowledgement (p : Packet) (s : State) : Outcome State Fault Refusal :=
  if p.pkind ≠ 8 || p.dmod ≠ s.mdl.number then .next s
  else if p.pcrc ≠ packetCrc p || expired s p then .next (s.modFab fun x => { x with out := x.out.filter (· ≠ p) })
  else
    let s := s.modFab fun x => { x with out := x.out.filter (· ≠ p) }
    match s.fab.merges.find? fun m => m.xid = p.xid && m.pseq = p.pseq with
    | some m =>
      let i := m.members.findIdx (· = p.smod)
      .next (if m.waiting.contains i then mergeReply s m i p.status p.plane else s)
    | none =>
      match nget s.fab.sysReq p.xid with
      | some q => .next (sysAcked s p.xid q p.status p.payload (p.bitmap = markBit true))
      | none =>
        let s := acked s p.xid p.pseq
        match s.fab.cmds.find? fun c => c.2.xid = p.xid && c.2.direct with
        | some (id, _) => .next (replyCmd s id [p.pseq] p.status p.daddr p.opB.toNat)
        | none =>
          .next (if p.status = 0 then s else remoteRefused s (remoteSec p.pkey (p.daddr.toNat / 2 ^ 52) (p.daddr.toNat % 2 ^ 52)) p.status)

/-- MERGED_ACKNOWLEDGEMENT (R338, R339): one reply for a packet of BXMC, or the root's reply for a reduction packet; a nonzero
bitmap fails the command with MEMBER, a reduction that timed out with RTMO. -/
def execMergedAcknowledgement (p : Packet) (s : State) : Outcome State Fault Refusal :=
  if p.pkind ≠ 9 || p.dmod ≠ s.mdl.number then .next s
  else if p.pcrc ≠ packetCrc p || expired s p then .next (s.modFab fun x => { x with out := x.out.filter (· ≠ p) })
  else
    let s := acked (s.modFab fun x => { x with out := x.out.filter (· ≠ p) }) p.xid p.pseq
    match s.fab.cmds.find? fun c => c.2.xid = p.xid && !c.2.direct with
    | none => .next s
    | some (id, c) =>
      let s := s.modCmd id fun c => { c with bitmap := c.bitmap ||| p.bitmap }
      let gone := if c.kind = 2 then [p.pseq] else if p.status = 6 then [2 * p.pseq, 2 * p.pseq + 1] else [2 * p.pseq + 1]
      .next (replyCmd s id gone (if p.status = 6 then 6 else if p.bitmap ≠ 0 then 1 else 0) 0 0)

/-! ### Multicast and reductions at the switch (R337-R340) -/

/-- The group that a packet names. -/
def groupOf (s : State) (p : Packet) : McGroup := (s.part p.pkey).mcast p.group

/-- The members and handles of a version of a group (R337). -/
def McGroup.version (g : McGroup) (ver : Nat) : List Nat × List Word64 :=
  if ver = g.ver && g.en then (g.members, g.handles) else ngetD g.old ver ([], [])

/-- A packet at this module's first switch, or one that another module's switch has sent here. -/
def atSwitch (s : State) (p : Packet) : Bool := p.smod ≠ s.mdl.number || s.fab.up.contains p

/-- Send a packet on to a member: to a port here, or out. -/
def toMember (s : State) (p : Packet) (md : Nat) (h : Word64) (ver : Nat) : State :=
  let q := sealed { p with dmod := md, mbox := h, ver := ver }
  if md = s.mdl.number then s.modFab fun x => { x with net := x.net ++ [q] } else s.modFab fun x => { x with out := x.out ++ [q] }

/-- MULTICAST_REPLICATION (R337, R338): the first switch latches the version in force and sends a copy to every member, whose
replies it will merge; a packet from elsewhere reaches this module, under the version that it carries, when it is a member. A packet
sent again goes to the members that have not replied. -/
def execMulticastReplication (p : Packet) (s : State) : Outcome State Fault Refusal :=
  if p.pkind ≠ 0 || !atSwitch s p then .next s
  else
    let g := groupOf s p
    if p.smod ≠ s.mdl.number then
      let (ms, hs) := g.version p.ver
      match (List.range ms.length).find? fun i => ms[i]? = some s.mdl.number with
      | some i => .next (toMember s p s.mdl.number ((hs[i]?).getD 0) p.ver)
      | none => .next s
    else
      let s := s.modFab fun x => { x with up := x.up.filter (· ≠ p) }
      let again := s.fab.merges.find? fun m => m.xid = p.xid && m.pseq = p.pseq
      if !g.en && again.isNone then .next s
      else
        let m : MergeAck := again.getD
          { key := p.pkey, group := p.group, ver := g.ver, xid := p.xid, pseq := p.pseq, members := g.members, handles := g.handles,
            waiting := List.range g.members.length, bitmap := 0 }
        let s := if again.isSome then s else s.modFab fun x => { x with merges := x.merges ++ [m] }
        .next (m.waiting.foldl (fun s i => toMember s p ((m.members[i]?).getD 0) ((m.handles[i]?).getD 0) m.ver) s)

/-- One combination of two elements (R340). -/
def ropElement (rop a b : Nat) : Nat :=
  match rop with
  | 0 => (f32.add 0 (f32.val a) (f32.val b)).1
  | 1 => (a + b) % 2 ^ 64
  | 2 => (f32.minmax false a b).1
  | 3 => (f32.minmax true a b).1
  | 4 => Arith.min 4 a b
  | _ => Arith.max 4 a b

/-- Two payloads combined element by element. -/
def ropBytesCombine (rop : Nat) (a b : List Byte) : List Byte :=
  let n := ropBytes rop
  ((List.range (a.length / n)).map fun i =>
    leBytes n (ropElement rop (leNat (sliceOf a (i * n) n)) (leNat (sliceOf b (i * n) n)))).flatten

/-- Contributions combined in an order that the manual does not state. -/
def combineAll (s : State) (rop : Nat) (l : List (List Byte)) : List Byte :=
  let k := if l.isEmpty then 0 else (Config.freeValue s.env.freeCtr).toNat % l.length
  match l.drop k ++ l.take k with
  | [] => []
  | a :: r => r.foldl (ropBytesCombine rop) a

/-- The root's reply to a contributor. -/
def rootReply (s : State) (r : Reduction) (p : Packet) (bitmap : Word64) (status : Nat) : State :=
  switchReply s { Packet.blank with plane := p.plane, pkind := 9, dmod := p.smod, smod := s.mdl.number, pkey := r.key, group := r.group, ver := r.ver,
                                    epoch := r.epoch, xid := p.xid, pseq := r.pseq, bitmap := bitmap, status := status }

def bitmapOf (l : List Nat) : Word64 := BitVec.ofNat 64 (l.eraseDups.foldl (fun acc i => acc + 2 ^ i) 0)

/-- Every member has contributed: the result goes to each member's VA and each gets a reply. -/
def finishReduction (s : State) (r : Reduction) : State :=
  let good := r.got.filter fun q => !r.bad.contains q.1
  let data := combineAll s r.rop (good.map fun q => q.2.payload)
  let s := s.modFab fun x => { x with reds := x.reds.filter (· ≠ r) }
  r.got.foldl (fun s q =>
    let s := toMember s { q.2 with payload := data, len := data.length } ((r.members[q.1]?).getD 0) ((r.handles[q.1]?).getD 0) r.ver
    rootReply s r q.2 (bitmapOf r.bad) 0) s

/-- REDUCTION_CONTRIBUTION (R339): a contribution joins its match; one whose LEN or ROP differs from the first is left out. -/
def execReductionContribution (p : Packet) (s : State) : Outcome State Fault Refusal :=
  if p.pkind ≠ 4 || !atSwitch s p then .next s
  else
    let g := groupOf s p
    let s := s.modFab fun x => { x with up := x.up.filter (· ≠ p) }
    let ver := if p.smod = s.mdl.number then g.ver else p.ver
    let same := fun (r : Reduction) => r.key = p.pkey && r.group = p.group && r.ver = ver && r.epoch = p.epoch && r.pseq = p.pseq
    let r : Option Reduction := match s.fab.reds.find? same with
      | some r => some r
      | none =>
        if !g.en && ver = g.ver then none
        else some { key := p.pkey, group := p.group, ver := ver, epoch := p.epoch, pseq := p.pseq, rop := p.rop, len := p.len,
                    members := (g.version ver).1, handles := (g.version ver).2, got := [], bad := [], since := s.env.clk }
    match r with
    | none => .next s
    | some r =>
      let i := r.members.findIdx (· = p.smod)
      if r.members.length ≤ i then .next s
      else
        let bad := p.len ≠ r.len || p.rop ≠ r.rop
        let r := { r with got := nset r.got i p, bad := if bad && !r.bad.contains i then r.bad ++ [i] else r.bad }
        let s := s.modFab fun x => { x with reds := (x.reds.filter fun y => !same y) ++ [r] }
        .next (if r.members.length ≤ r.got.length then finishReduction s r else s)

/-- REDUCTION_TIMEOUT (R339, R347): 100 ms after the first contribution, every contributor is told who is missing; brumation of
the partition stops the count. -/
def execReductionTimeout (key group ver epoch pseq : Nat) (s : State) : Outcome State Fault Refusal :=
  match s.fab.reds.find? fun r => r.key = key && r.group = group && r.ver = ver && r.epoch = epoch && r.pseq = pseq with
  | none => .next s
  | some r =>
    if s.env.clk < r.since + nsToClk 100000000 || (s.part key).haltAt.isSome then .next s
    else
      let gone := (List.range r.members.length).filter fun i => (nget r.got i).isNone
      let s := s.modFab fun x => { x with reds := x.reds.filter (· ≠ r) }
      .next (r.got.foldl (fun s q => rootReply s r q.2 (bitmapOf (gone ++ r.bad)) 6) s)

/-- A write of GCTL (R336, R337): EN = 1 with members in order commits the staged members as the next version, and EN = 0 disables the
group, which is a commit too and raises VER; a refused one leaves EN 0. The version that was in force stays known for the packets
latched under it. -/
def writeGctl (s : State) (key g : Nat) (v : Word64) : State :=
  let x := (s.part key).mcast g
  let n := bits v 6 0
  let mods := (List.range n).map fun i => bits (ngetD x.mmod i 0) 11 0
  let en := v.getLsbD 7
  let ok := 1 ≤ n && n ≤ 64 && mods.eraseDups.length = n
  let x := if x.en then { x with old := nset x.old x.ver (x.members, x.handles) } else x
  let new := if !en then { x with ctl := BitVec.ofNat 64 n, ver := (x.ver + 1) % 256 }
    else if !ok then { x with ctl := BitVec.ofNat 64 n }
    else { x with ctl := BitVec.ofNat 64 (128 + n), ver := (x.ver + 1) % 256, live := x.mmod, liveH := x.mhnd }
  s.modPart key fun p => { p with groups := nset p.groups g new }

/-- Packets of a group latched under another version remain in the fabric: merges, reductions, copies and results on their way, which
live 1 ms at most (R314, R337). -/
def groupDrains (s : State) (key g : Nat) : Bool :=
  let x := (s.part key).mcast g
  let old := fun (k n v : Nat) => k = key && n = g && (v ≠ x.ver || !x.en)
  let young := fun (p : Packet) => decide ((s.ns + 2 ^ 32 - p.itime) % 2 ^ 32 < 1000000)
  let latched := fun (p : Packet) => p.pkind = 4 || (p.pkind = 0 && (p.group ≠ 0 || p.ver ≠ 0))
  s.fab.merges.any (fun m => old m.key m.group m.ver) || s.fab.reds.any (fun r => old r.key r.group r.ver)
    || (s.fab.net ++ s.fab.out).any fun p => latched p && young p && old p.pkey p.group p.ver

/-- GCTL_COMMIT (R337). -/
def execGctlCommit (key group : Nat) (value : Word64) (s : State) : Outcome State Fault Refusal := .next (writeGctl s key group value)

/-! ### Time and peers (R313, R314, R345, R346) -/

/-- The commands and accesses of a packet fail with kind LOST. -/
def lostPacket (s : State) (p : Packet) : State :=
  match nget s.fab.sysReq p.xid with
  | some q => sysAcked s p.xid q cFABF []
  | none =>
    let s := acked s p.xid p.pseq
    match s.fab.cmds.find? fun c => c.2.xid = p.xid with
    | some (id, c) => replyCmd s id (if c.kind = 3 then [2 * p.pseq, 2 * p.pseq + 1] else [p.pseq]) 5 p.daddr 0
    | none => s

/-- A packet has gone unacknowledged for good: of a multicast, the members that have not replied are marked (R338). -/
def giveUpPacket (s : State) (u : Unacked) : State :=
  match if u.sw then s.fab.merges.find? fun m => m.xid = u.pkt.xid && m.pseq = u.pkt.pseq else none with
  | some m => m.waiting.foldl (fun s i =>
      match s.fab.merges.find? fun m => m.xid = u.pkt.xid && m.pseq = u.pkt.pseq with
      | some m => mergeReply s m i 5 u.pkt.plane
      | none => s) (acked s u.pkt.xid u.pkt.pseq)
  | none => lostPacket s u.pkt

/-- The switch holds a contribution until its match is complete or times out (R339, R347): it has arrived there, and is not sent again. -/
def atRoot (s : State) (p : Packet) : Bool :=
  p.pkind = 4 && s.fab.reds.any fun r => r.got.any fun q => q.2.smod = p.smod && q.2.xid = p.xid && q.2.pseq = p.pseq

/-- RETRANSMISSION_TIMEOUT (R314, R345): 250 µs after injection the packet goes again with ATT raised, on a plane chosen anew; after
ATT = 2 it is lost. Nothing is counted while a peer that it is for is in recovery. -/
def execRetransmissionTimeout (xid pseq : Nat) (s : State) : Outcome State Fault Refusal :=
  match s.fab.unacked.find? fun u => u.pkt.xid = xid && u.pkt.pseq = pseq with
  | none => .next s
  | some u =>
    if !u.inj || s.env.clk < u.since + nsToClk 250000 || !mayLeave s u.pkt u.sw || atRoot s u.pkt then .next s
    else if 2 ≤ u.pkt.att then .next (giveUpPacket s u)
    else
      let (s, p) := inject s { u.pkt with att := u.pkt.att + 1 } u.sw
      .next (s.modFab fun x => { x with unacked := x.unacked.map fun y => if y = u then { y with pkt := p, since := s.env.clk } else y })

/-- PACKET_LIFETIME_EXPIRY (R314): a packet 1 ms old is dropped on its way. -/
def execPacketLifetimeExpiry (xid pseq : Nat) (s : State) : Outcome State Fault Refusal :=
  let old := fun (p : Packet) => p.xid = xid && p.pseq = pseq && expired s p && (nget s.fab.rxq (pktKey p)).isNone
  .next (s.modFab fun x =>
    { x with net := x.net.filter fun p => !old p, up := x.up.filter fun p => !old p, out := x.out.filter fun p => !old p })

/-- RECOVERY_NOTICE (R345): the peer enters RECOV, or returns to UP and the packets held for it are injected. -/
def execRecoveryNotice (peer : Nat) (up : Bool) (s : State) : Outcome State Fault Refusal :=
  match nget s.fab.peers peer with
  | none => .next s
  | some .lost => .next s
  | some (.recov _) => .next (if up then releaseAll ((endRecov s).modFab fun x => { x with peers := nset x.peers peer .up }) else s)
  | some .up => .next (if up then s else s.modFab fun x => { x with peers := nset x.peers peer (.recov s.env.clk) })

/-- A lost path: the tokens of this module's sectors that were behind it come back by regrowth, which every home starts sooner for
100 ms, and what this module's L2s held of the other's sectors is gone with their home, which fires monitors (R254, R301, R302, R346). The
requests of a port that nothing behind it wants any more are over (R298). -/
def loseShared (s : State) (md : Nat) : State :=
  let asked := s.mem.behind.filter fun b => b.md = md
  let s := dropSharer s md
  let s := asked.foldl portCancel s
  let theirs := fun (k : Nat) => isRemote (k % 2 ^ 80) && remoteMod (k % 2 ^ 80) = md
  let gone := s.mem.l2.filter fun p => theirs p.1 && p.2.n ≠ 0
  let s := gone.foldl (fun s p => fireLoss s (p.1 / 2 ^ 80) (p.1 % 2 ^ 80)) s
  let s := s.modMem fun m => { m with l2 := m.l2.filter fun p => !theirs p.1, trans := m.trans.filter fun p => !theirs p.1 }
  (List.range 84).foldl (fun s h => s.modHome h fun x => { x with fast := s.env.clk + nsToClk 100000000 }) s

/-- A command toward a lost module fails, one to a group of which it is a member with that member's bit in the bitmap (R341, R346). -/
def lostCmd (s : State) (id peer : Nat) : State :=
  match nget s.fab.cmds id with
  | none => s
  | some c =>
    if c.direct then (if c.peer = peer then failCmd s id 5 else s)
    else
      let ms := ((s.part (s.ctx c.ctx).key).mcast c.group).members
      if !ms.contains peer || c.isOver then s
      else
        let s := s.modCmd id fun c => { c with bitmap := c.bitmap ||| BitVec.ofNat 64 (2 ^ ms.findIdx (· = peer)) }
        (failCmd s id 5).modFab fun x => { x with unacked := x.unacked.filter fun u => u.pkt.xid ≠ c.xid }

/-- A member of the job is lost: a resume that waits for its module fails (R435). -/
def memberLost (s : State) : State :=
  { s with parts := nmap s.parts fun _ p => if p.asked.isSome && p.haltAt.isSome then { p with lost := true } else p }

/-- PEER_LOST (R346): after 2 s in RECOV every command and system access toward the peer fails with kind LOST. -/
def execPeerLost (peer : Nat) (s : State) : Outcome State Fault Refusal :=
  match nget s.fab.peers peer with
  | some (.recov since) =>
    if s.env.clk < since + nsToClk 2000000000 then .next s
    else
      let s := (endRecov s).modFab fun x => { x with peers := nset x.peers peer .lost, held := x.held.filter fun p => p.dmod ≠ peer }
      let gone := s.fab.unacked.filter fun u => u.pkt.dmod = peer && !u.sw
      let s := gone.foldl (fun s u => lostPacket s u.pkt) s
      .next (memberLost (loseShared ((nkeys s.fab.cmds).foldl (fun s id => lostCmd s id peer) s) peer))
  | _ => .next s

/-- FABRIC_PORT_DOWN (R313): the port no longer counts as up. -/
def execFabricPortDown (port : Nat) (s : State) : Outcome State Fault Refusal :=
  .next (s.modFab fun x => { x with fpm := x.fpm &&& ~~~BitVec.ofNat 64 (2 ^ port) })

/-- Records of the ports that are older than 4 ms go: identities, and the counts of transfers whose last packet has been answered, or
whose counting has ended, and that hold none (R314, R315, R323). -/
def fabPurge (s : State) : State :=
  let now := s.env.clk
  s.modFab fun x =>
    { x with seen := x.seen.filter fun q => now < q.2.1 + nsToClk 4000000,
             rx := x.rx.filter fun q => !(q.2.last || q.2.endAt.isSome) || now < q.2.since + nsToClk 4000000 || x.rxq.any fun r => r.1 / 2 ^ 32 = q.1 }

end Sys2Proof.Machine
end

