-- ==== Sys2Proof/Machine/Mat.lean ====
section
/-! DEFINITION. The matrix engine (R206-R231): tiles and handles, the checks at issue, the queue and its batches, and the operations
on a tile. -/

namespace Sys2Proof.Machine

open Host (Outcome)

/-! ### Handles and tiles (R206-R209) -/

/-- Rows of a tile, by MC. -/
def rowsOf (mc : Nat) : Nat := 16 * 2 ^ mc
/-- Columns of a tile, by NF. -/
def colsOf (nf : Nat) : Nat := 16 * (nf + 1)
/-- Units of a tile. -/
def unitsOf (mc nf : Nat) : Nat := rowsOf mc * colsOf nf / 256

/-- The handle of a live tile (R208). -/
def Tile.handle (x : Tile) : Word64 := BitVec.ofNat 64 (x.gen <<< 24 + x.nf <<< 12 + x.mc <<< 10 + x.base)
def Tile.units (x : Tile) : Nat := unitsOf x.mc x.nf

/-- The tile that a handle names for a workgroup. -/
def tileOf (g : Wg) (h : Word64) : Option Tile := g.tiles.find? fun x => x.handle = h && !x.dying

/-- Whether units `b .. b + n − 1` are free. -/
def unitsFree (g : Wg) (b n : Nat) : Bool := g.tiles.all fun x => b + n ≤ x.base || x.base + x.units ≤ b

/-- Lane bits of a 32-bit word of a tile: the byte where word (i, n) begins (R207). -/
def Tile.at (x : Tile) (i n : Nat) : Nat := 1024 * x.base + 4 * (i * colsOf x.nf + n)
def Tile.word (x : Tile) (m : Memory) (i n : Nat) : Nat := leNat (Memory.bytes m (x.at i n) 4)
/-- The whole tile, row by row. -/
def Tile.rows (x : Tile) (m : Memory) : List (List Nat) :=
  (List.range (rowsOf x.mc)).map fun i => (List.range (colsOf x.nf)).map fun n => x.word m i n
/-- Store every word of a tile. -/
def Tile.store (x : Tile) (m : Memory) (rows : List (List Nat)) : Memory :=
  Memory.setBytes m (1024 * x.base) ((rows.map fun r => (r.map (leBytes 4)).flatten).flatten)
/-- Set the 16 × 16 blocks of a tile to NaN (R229). -/
def Tile.poison (x : Tile) (m : Memory) (blocks : List (Nat × Nat)) : Memory :=
  if blocks.isEmpty then m
  else
    let rows := x.rows m
    x.store m ((List.range rows.length).map fun i =>
      let r := (rows[i]?).getD []
      (List.range r.length).map fun n => if blocks.contains (i / 16, n / 16) then 0x7FC00000 else (r[n]?).getD 0)

/-- MTALLOC (R209). -/
def execMtalloc (f : Fields) (s : State) : Outcome State Fault Refusal :=
  issue 0x140 f s fun s tid t =>
    if t.live f = 0 then retire 0x140 f s tid t {}
    else
      match s.wg t.wg with
      | none => retire 0x140 f s tid t {}
      | some g =>
        let mc := Forms.mo f 1 0
        let nf := Forms.ex f 5 0
        let n := unitsOf mc nf
        match (List.range (4 * g.tsUnits)).find? fun b => b + n ≤ 4 * g.tsUnits && unitsFree g b n with
        | none => retire 0x140 f s tid t { writes := [.uni f.d.toNat 0] }
        | some b =>
          let x : Tile := { gen := g.tileGen, nf := nf, mc := mc, base := b, dying := false }
          let s := s.modWg t.wg fun g =>
            { g with tiles := g.tiles ++ [x], tileGen := if g.tileGen = 255 then 1 else g.tileGen + 1 }
          retire 0x140 f s tid t { writes := [.uni f.d.toNat x.handle] }

/-! ### Checks at issue (R212) -/

/-- The largest end of `k` runs of `n` bytes, `st` apart, from `b`. -/
def runsEnd (b st k n : Nat) : Nat := if k = 0 then 0 else b + (k - 1) * st + n

/-- The destination blocks of rows of `n` bytes at base `b` with stride `st`, in order of first appearance. -/
def rowBlocks (b st k n : Nat) : List Nat :=
  (((List.range k).map fun i =>
    let a := (b + i * st) % 2 ^ 64
    (List.range ((a % 64 + n + 63) / 64)).map fun j => (a - a % 64 + 64 * j) % 2 ^ 64).flatten).eraseDups

/-- Translate and check a drain's global blocks: a fault names the block, and no lane (log 42). -/
def drainXl (s : State) (cu c : Nat) (l : List Nat) : State × Eng (List DrainPart) :=
  l.foldl (fun (acc : State × Eng (List DrainPart)) va =>
    match acc with
    | (s, .ok out) =>
      match engineXl s cu c va true with
      | (s, .ok x) => (s, .ok (out ++ [{ space := 0, addr := va, e := x.e, pa := x.pa }]))
      | (s, .wait) => (s, .wait)
      | (s, .bad e a) => (s, .bad e a)
    | x => x) (s, .ok [])

/-- A global or scratch destination of rows; scratch rows must lie in the allocation. -/
def drainParts (s : State) (t : Thread) (space b st k n : Nat) : State × Eng (List DrainPart) :=
  if space = 1 then
    let sp := ((s.wg t.wg).map (·.spBytes)).getD 0
    (s, match (List.range k).find? fun i => sp < (b + i * st) % 2 ^ 64 + n with
      | some i => .bad cPERM ((b + i * st) % 2 ^ 64)
      | none => .ok ((rowBlocks b st k n).map fun a => { space := 1, addr := a, e := 0, pa := a }))
  else drainXl s t.cu t.ctx (rowBlocks b st k n)

/-- The bytes of an element or word that a drain writes. -/
def drainSize (ty : Nat) : Nat := if ty = 6 || ty = 0 then 4 else 2

/-- The kind of a queued form. -/
def matKind (opc : Nat) : MatKind :=
  match opc with
  | 0x141 => .free | 0x142 => .zero | 0x143 | 0x144 => .mma | 0x145 => .wracc | 0x146 => .drain | _ => .drainq

/-- The TRAP checks of a form on a tile: the syndrome. -/
def matTrap (opc : Nat) (f : Fields) (x : Tile) (va vb vc : Nat) (names : List Nat) : Option Nat :=
  let n := colsOf x.nf
  let sb := Forms.mo f 7 7 = 1
  match matKind opc with
  | .mma =>
    if names.any (fun v => 320 ≤ v) || (!sb && 64 < n) || 128 < names.length then some 0x80000011
    else if sb && (vb % 2 ^ 32 % 64 ≠ 0 || (vb >>> 32) % 2 ^ 16 % 64 ≠ 0) then some 0x80000012 else none
  | .wracc | .drain => if va % 16 ≠ 0 || vb % 16 ≠ 0 then some 0x80000012 else none
  | .drainq =>
    if va % 8 ≠ 0 || vc % 2 ^ 32 % 8 ≠ 0 then some 0x80000012 else if n % 32 ≠ 0 then some 0x80000013 else none
  | _ => none

/-- The remaining checks: the scratch bytes that an operation reads, and its destination. -/
def matRange (s : State) (t : Thread) (opc : Nat) (f : Fields) (x : Tile) (va vb vc : Nat) : State × Eng (List DrainPart) :=
  let m := rowsOf x.mc
  let n := colsOf x.nf
  let sp := ((s.wg t.wg).map (·.spBytes)).getD 0
  match matKind opc with
  | .mma =>
    let base := vb % 2 ^ 32
    let last := runsEnd (base + (mloopKc opc f - 1) * ((vb >>> 48) * 64)) ((vb >>> 32) % 2 ^ 16) n 64
    (s, if Forms.mo f 7 7 = 1 && sp < last then .bad cPERM base else .ok [])
  | .wracc =>
    (s, match (List.range m).find? fun i => sp < (va + i * vb) % 2 ^ 64 + 4 * n with
      | some i => .bad cPERM ((va + i * vb) % 2 ^ 64)
      | none => .ok [])
  | .drain => drainParts s t (Forms.mo f 8 7) va vb m (n * drainSize (Forms.ty f))
  | .drainq =>
    let w := elementBits (Forms.ex f 3 0)
    match drainParts s t (Forms.mo f 8 7) va (vc % 2 ^ 32) m (n * w / 8) with
    | (s, .ok l) =>
      match drainParts s t (Forms.mo f 8 7) vb (vc >>> 32) m (n / 32) with
      | (s, .ok k) => (s, .ok (l ++ k.filter fun p => !l.any fun q => q.addr = p.addr))
      | r => r
    | r => r
  | _ => (s, .ok [])

/-- The bytes of a block at `base` that rows of `n` bytes cover. -/
def rowsMask (b st k n base : Nat) : BitVec 64 :=
  (List.range k).foldl (fun (acc : BitVec 64) i =>
    let a := (b + i * st) % 2 ^ 64
    let lo := max a base
    let hi := min (a + n) (base + 64)
    if lo < hi then acc ||| byteMask (lo - base) (hi - lo) else acc) 0

/-- The bytes of a block that a drain writes (R224, R225). -/
def drainMask (opc : Nat) (f : Fields) (x : Tile) (va vb vc base : Nat) : BitVec 64 :=
  let m := rowsOf x.mc
  let n := colsOf x.nf
  match matKind opc with
  | .drain => rowsMask va vb m (n * drainSize (Forms.ty f)) base
  | _ => rowsMask va (vc % 2 ^ 32) m (n * elementBits (Forms.ex f 3 0) / 8) base ||| rowsMask vb (vc >>> 32) m (n / 32) base

/-! ### Issue (R213, R217) -/

/-- A captured register; dead lanes supply zero. -/
def captureReg (t : Thread) (n : Nat) : Lanes := mkLanes fun l => if t.deadm.getLsbD l then 0 else t.vlane n l

/-- Registers held in a barrel's operand buffer. -/
def bufferUsed (c : Cu) (barrel : Nat) : Nat := (c.mq.filter fun o => o.barrel = barrel).foldl (fun a o => a + o.bufRegs) 0

/-- An access to the scratchpad that a group of a workgroup has made is still to be performed: a drain to scratch, which bars the
workgroup's later ones, is entered after it (R226, R231). -/
def wgScratchOpen (s : State) (w : Nat) : Bool := s.thr.any fun p => p.2.hasWg && p.2.wg = w && scratchOpen p.2

/-- A form that enters the matrix queue. -/
def enterMat (opc : Nat) (f : Fields) (s : State) (tid : Nat) (t : Thread) : State :=
  if t.live f = 0 then retire opc f s tid t {}
  else
    let wait := s.modThread tid fun u => { u with waits := true }
    let h := uniVal s tid t f.d.toNat
    match (s.wg t.wg).bind fun g => tileOf g h with
    | none => takeFault s tid (trapSyn 0x80000010 (t.live f)) t.pc
    | some x =>
      let mma := matKind opc = .mma
      let sb := Forms.mo f 7 7 = 1
      let va := uniVal s tid t f.a.toNat
      let vb := uniVal s tid t f.b.toNat
      let vc := uniVal s tid t f.c.toNat
      let fa := if mma then fragA opc f x.mc else []
      let fb := if mma && !sb then fragB opc f x.nf else []
      let names := (fa.flatten ++ fb.flatten).eraseDups
      match matTrap opc f x va.toNat vb.toNat vc.toNat names with
      | some n => takeFault s tid (trapSyn n (t.live f)) t.pc
      | none =>
        match matRange s t opc f x va.toNat vb.toNat vc.toNat with
        | (s, .bad e a) =>
          let syn := if e = cDIEL then 0 else 16 * (opc % 16)
          takeFault s tid { cause := e, syn := BitVec.ofNat 64 syn, opd0 := BitVec.ofNat 64 a, unit := some (funit 5 0) } t.pc
        | (_, .wait) => wait
        | (s, .ok dst) =>
          let c := s.cu t.cu
          let toScratch := dst.any fun p => p.space = 1
          if 128 ≤ c.mq.length || 256 < bufferUsed c t.barrel + names.length || (toScratch && wgScratchOpen s t.wg) then wait
          else
            let (id, s) := s.fresh
            let o : MatOp :=
              { id := id, tid := tid, wg := t.wg, barrel := t.barrel, pc := t.pc, kind := matKind opc, handle := h, f := f,
                frA := fa.map fun l => l.map (captureReg t), frB := fb.map fun l => l.map (captureReg t), va := va, vb := vb,
                vc := vc, mxovf := t.fpctl.getLsbD 8, bufRegs := names.length, mark := t.nextEntry, dst := dst, nan := [],
                stepped := t.stepping = 1, caps := names.filterMap fun n => (nget t.vmap n).map (·.id), since := s.cyc }
            let s := s.modCu t.cu fun c => { c with mq := c.mq ++ [o] }
            let reg := fun (space : Nat) (s : State) =>
              register s { cmd := id, eng := engineOf t.cu 1, die := dieOf t.cu, wg := t.wg, ctx := t.ctx, space := space,
                           pend := (dst.filter fun p => p.space = space).map fun p =>
                             (p.addr / 64, { written := false, bytes := drainMask opc f x va.toNat vb.toNat vc.toNat p.addr }) }
            let s := reg 1 (reg 0 s)
            let s := if matKind opc = .free then
                s.modWg t.wg fun g => { g with tiles := g.tiles.map fun y => if y = x then { y with dying := true } else y }
              else s
            retire opc f s tid t {} fun u => { u with openOps := u.openOps ++ [id] }

/-- MTFREE (R209). -/
def execMtfree (f : Fields) (s : State) : Outcome State Fault Refusal := issue 0x141 f s (enterMat 0x141 f)
/-- MZERO (R223). -/
def execMzero (f : Fields) (s : State) : Outcome State Fault Refusal := issue 0x142 f s (enterMat 0x142 f)
/-- MMA (R218). -/
def execMma (f : Fields) (s : State) : Outcome State Fault Refusal := issue 0x143 f s (enterMat 0x143 f)
/-- MLOOP (R218). -/
def execMloop (f : Fields) (s : State) : Outcome State Fault Refusal := issue 0x144 f s (enterMat 0x144 f)
/-- MWRACC (R223). -/
def execMwracc (f : Fields) (s : State) : Outcome State Fault Refusal := issue 0x145 f s (enterMat 0x145 f)
/-- MDRAIN (R224). -/
def execMdrain (f : Fields) (s : State) : Outcome State Fault Refusal := issue 0x146 f s (enterMat 0x146 f)
/-- MDRAINQ (R225). -/
def execMdrainq (f : Fields) (s : State) : Outcome State Fault Refusal := issue 0x147 f s (enterMat 0x147 f)

/-! ### Batches (R214) -/

/-- Batches whose operations are complete leave in order, each lowering M. -/
def drainBatches (fuel : Nat) (t : Thread) : Thread :=
  match fuel, t.batches with
  | k + 1, b :: r => if b.ops.isEmpty then drainBatches k { (t.countDown 3) with batches := r } else t
  | _, _ => t
def Thread.endBatches (t : Thread) : Thread := drainBatches t.batches.length t

/-- MBATCH (R214): the number counts from 0 modulo 256. -/
def execMbatch (f : Fields) (s : State) : Outcome State Fault Refusal :=
  issue 0x148 f s fun s tid t =>
    if t.live f = 0 then retire 0x148 f s tid t {}
    else
      retire 0x148 f s tid t { writes := [.uni f.d.toNat (BitVec.ofNat 64 (t.batchNo % 256))] } fun u =>
        Thread.endBatches
          { (u.countUp 3) with batchNo := u.batchNo + 1, openOps := [],
                               batches := u.batches ++ [{ num := u.batchNo + 1, ops := u.openOps }] }

/-! ### One step of a multiply-accumulate (R218-R220) -/

/-- ⌊log2⌋ of a non-zero value `m × 2^e`. -/
def topOf (m : Nat) (e : Int) : Int := (Nat.log2 m : Int) + e
/-- A value truncated toward zero to a multiple of `2^lo`, in units of `2^lo`. -/
def truncAt (neg : Bool) (m : Nat) (e lo : Int) : Int :=
  let q : Nat := if lo ≤ e then m <<< (e - lo).toNat else m >>> (lo - e).toNat
  if neg then -(q : Int) else q

/-- One element of one step for float inputs, with its MSTAT flags (R219). -/
def macFloat (c : Nat) (ab : List (FVal × FVal)) : Nat × Nat :=
  let cv := f32.val c
  let prods := ab.map fun p => if p.1.isNan || p.2.isNan then none else p.1.mul p.2
  let terms := (if cv.isNan then none else some cv) :: prods
  let vals := terms.filterMap id
  let inf := fun (n : Bool) => vals.any fun v => match v with | .inf k => k = n | _ => false
  if terms.any Option.isNone || (inf false && inf true) then (0x7FC00000, mflagNV)
  else if inf false then (f32.inf false, 0)
  else if inf true then (f32.inf true, 0)
  else
    let fins := vals.filterMap fun v => match v with | .fin n m e => some (n, m, e) | _ => none
    let live := fins.filter fun v => v.2.1 ≠ 0
    match live with
    | [] => (f32.zero (fins.all fun v => v.1), 0)
    | v :: r =>
      let top := r.foldl (fun acc x => max acc (topOf x.2.1 x.2.2)) (topOf v.2.1 v.2.2)
      let lo := top - 121
      let lost := match cv with | .fin _ m e => decide (m ≠ 0 ∧ topOf m e < lo) | _ => false
      let sum := live.foldl (fun acc x => acc + truncAt x.1 x.2.1 x.2.2 lo) 0
      let fl := if lost then mflagCLOST else 0
      if sum = 0 then (f32.zero false, fl)
      else
        let p := (f32.round 0 (sum < 0) sum.natAbs lo).1
        (p, fl + if p % 2 ^ 31 = f32.infMag then mflagOF else 0)

/-- One element of one step for S16 inputs (R220). -/
def macInt (sat : Bool) (c : Nat) (ab : List (Int × Int)) : Nat × Nat :=
  let x := ab.foldl (fun acc p => acc + p.1 * p.2) (signedOf 32 c)
  (storeInt 32 true sat x, if x < -(2 ^ 31) || 2 ^ 31 ≤ x then mflagIOVF else 0)

/-- The K elements of a type in a row or column given as its words, low half first (R215, R216). -/
def elementsOf (ty : Nat) (words : List Nat) : List Nat :=
  if ty = 6 then words else (words.map fun w => [w % 65536, w / 65536 % 65536]).flatten
/-- Row or column `i` of a fragment in registers: half of a register's lanes. -/
def fragWords (regs : List Lanes) (i : Nat) : List Nat :=
  (((regs[i / 2]?).getD []).drop (16 * (i % 2))).take 16 |>.map (·.toNat)
/-- Column `n` of step `j` in scratch. -/
def scratchWords (m : Memory) (d j n : Nat) : List Nat :=
  let a := d % 2 ^ 32 + j * ((d >>> 48) * 64) + n * ((d >>> 32) % 2 ^ 16)
  (List.range 16).map fun k => leNat (Memory.bytes m (a + 4 * k) 4)

/-- An element of a step from the K elements of its row and column. -/
def macElement (ty : Nat) (sat : Bool) (c : Nat) (a b : List Nat) : Nat × Nat :=
  if ty = 2 then macInt sat c ((a.zip b).map fun p => (signedOf 16 p.1, signedOf 16 p.2))
  else
    let k : Fmt := if ty = 6 then f32 else if ty = 7 then f16 else bf16
    macFloat c ((a.zip b).map fun p => (k.val p.1, k.val p.2))

/-- One step over the whole tile, with the flags raised. -/
def macStep (ty : Nat) (sat : Bool) (rows : List (List Nat)) (a b : List (List Nat)) : List (List Nat) × Nat :=
  let out := (rows.zip a).map fun ra => (ra.1.zip b).map fun cb => macElement ty sat cb.1 ra.2 cb.2
  (out.map fun r => r.map (·.1), (out.flatten).foldl (fun acc p => acc ||| p.2) 0)

/-- Every step of an MMA or MLOOP (R218). -/
def runMma (o : MatOp) (x : Tile) (scratch : Memory) (rows : List (List Nat)) : List (List Nat) × Nat :=
  let ty := Forms.ty o.f
  let zero := rows.map fun r => r.map fun _ => 0
  (List.range o.frA.length).foldl (fun (acc : List (List Nat) × Nat) j =>
    let a := (List.range (rowsOf x.mc)).map fun i => elementsOf ty (fragWords ((o.frA[j]?).getD []) i)
    let b := (List.range (colsOf x.nf)).map fun n =>
      elementsOf ty (if Forms.mo o.f 7 7 = 1 then scratchWords scratch o.vb.toNat j n else fragWords ((o.frB[j]?).getD []) n)
    let c := if j = 0 && Forms.mo o.f 8 8 = 1 then zero else acc.1
    let (r, fl) := macStep ty (Forms.mo o.f 6 6 = 1) c a b
    (r, acc.2 ||| fl)) (rows, 0)

/-! ### Drains (R224, R225) -/

/-- conv of MDRAIN, with its MSTAT flags. -/
def drainConv (ty rm : Nat) (sat : Bool) (x : Nat) : Nat × Nat :=
  match ty with
  | 8 | 7 =>
    let r := (if ty = 8 then bf16 else f16).ofVal rm (f32.val x)
    (r.1, if r.2 &&& flagOF ≠ 0 then mflagOF else 0)
  | 2 =>
    let i := signedOf 32 x
    (storeInt 16 true sat i, if i < -32768 || 32767 < i then mflagIOVF else 0)
  | _ => (x, 0)

/-- An OCP element format: exponent bits, fraction bits, bias, emax and the pattern of the largest finite magnitude. -/
def mxFormat (fmt : Nat) : Nat × Nat × Nat × Nat × Nat :=
  match fmt with
  | 0 => (4, 3, 7, 8, 0x7E) | 1 => (5, 2, 15, 15, 0x7B) | 2 => (3, 2, 3, 4, 0x1F) | 3 => (2, 3, 1, 2, 0x1F) | _ => (2, 1, 1, 2, 0x7)

/-- The rounding to nearest even of `± m × 2^e` to an element format, as a magnitude pattern. -/
def mxRound (eb fb bias m : Nat) (e : Int) : Nat :=
  if m = 0 then 0
  else
    let q := max (topOf m e - fb) (1 - (bias : Int) - fb)
    let n := (roundAt 0 false m e q).1
    if n < 2 ^ fb then n else min (2 ^ (eb + fb) - 1) ((q + fb + bias).toNat <<< fb + (n - 2 ^ fb))

/-- One element of a block scaled by `2^x`, with DSAT (R225). -/
def mxElement (fmt : Nat) (ovf : Bool) (x : Int) (v : FVal) : Nat × Bool :=
  if fmt = 5 then
    match v with
    | .fin n m e =>
      let r := (roundAt 0 n m (e - x + 6) 0).1
      let i : Int := if n then -(r : Int) else r
      let c := if i < -128 then -128 else if 127 < i then 127 else i
      ((c % 256).toNat, c ≠ i)
    | .inf n => (if n then 0x80 else 0x7F, true)
    | .nan _ => (0, false)
  else
    let (eb, fb, bias, _, big) := mxFormat fmt
    let sgn := fun (n : Bool) => if n then 2 ^ (eb + fb) else 0
    let huge := fun (n : Bool) => sgn n + (if ovf && fmt = 0 then 0x7F else if ovf && fmt = 1 then 0x7C else big)
    match v with
    | .fin n m e =>
      let (bm, be) := match smallVal eb fb bias big with | .fin _ a b => (a, b) | _ => (0, 0)
      let lo := min (e - x) be
      if bm <<< (be - lo).toNat < m <<< (e - x - lo).toNat then (huge n, true) else (sgn n + mxRound eb fb bias m (e - x), false)
    | .inf n => (huge n, true)
    | .nan _ => (0, false)

/-- One block of 32: its scale, its elements and its MSTAT flags (R225). Of a block without a finite value, all 32 infinite, the listing
gives no amax: X is 0, the scale byte 0x7F (log 54). -/
def mxBlock (fmt : Nat) (ovf : Bool) (v : List Nat) : Nat × List Nat × Nat :=
  let vs := v.map f32.val
  if vs.any FVal.isNan then (255, v.map fun _ => 0, mflagDNV)
  else
    let emax : Int := if fmt = 5 then 0 else ((mxFormat fmt).2.2.2.1 : Nat)
    let tops := vs.filterMap fun x => match x with | .fin _ m e => if m = 0 then none else some (topOf m e) | _ => none
    let x0 : Int := match tops with | [] => 0 | a :: r => r.foldl max a - emax
    let e := min (max (x0 + 127) 0) 254
    let els := vs.map (mxElement fmt ovf (e - 127))
    (e.toNat, els.map (·.1), if els.any (·.2) then mflagDSAT else 0)

/-- A row of MDRAINQ, block by block: its element bytes and its scale byte, and the row's flags. -/
def mxRow (fmt : Nat) (ovf : Bool) (row : List Nat) : List (List Byte × Byte) × Nat :=
  let blocks := (List.range (row.length / 32)).map fun q => mxBlock fmt ovf ((row.drop (32 * q)).take 32)
  let w := elementBits fmt
  let bytes := fun (els : List Nat) => leBytes (4 * w) ((List.range els.length).foldl (fun acc t => acc + (els[t]?).getD 0 <<< (t * w)) 0)
  (blocks.map fun b => (bytes b.2.1, BitVec.ofNat 8 b.1), blocks.foldl (fun acc b => acc ||| b.2.2) 0)

/-- A row of MDRAIN: its bytes and its flags. -/
def drainRow (f : Fields) (row : List Nat) : List Byte × Nat :=
  let l := row.map (drainConv (Forms.ty f) (Forms.mo f 5 4) (Forms.mo f 6 6 = 1))
  ((l.map fun p => leBytes (drainSize (Forms.ty f)) p.1).flatten, l.foldl (fun acc p => acc ||| p.2) 0)

/-- The runs of bytes that a drain writes, later ones final, and its flags. MDRAINQ stores each block's scale byte before its elements
(R225). -/
def drainRuns (o : MatOp) (rows : List (List Nat)) : List (Nat × List Byte) × Nat :=
  let n := rows.length
  match o.kind with
  | .drainq =>
    let l := rows.map (mxRow (Forms.ex o.f 3 0) o.mxovf)
    let at' := fun (b st i : Nat) => (b + i * st) % 2 ^ 64
    let ers := o.vc.toNat % 2 ^ 32
    let srs := o.vc.toNat >>> 32
    (((List.range n).map fun i =>
        match l[i]? with
        | some r => (r.1.zipIdx.map fun b =>
            let run := 4 * elementBits (Forms.ex o.f 3 0) * b.2
            [((at' o.vb.toNat srs i + b.2) % 2 ^ 64, [b.1.2]), ((at' o.va.toNat ers i + run) % 2 ^ 64, b.1.1)]).flatten
        | none => []).flatten,
     l.foldl (fun acc r => acc ||| r.2) 0)
  | _ =>
    let l := rows.map (drainRow o.f)
    ((List.range n).map fun i => ((o.va.toNat + i * o.vb.toNat) % 2 ^ 64, ((l[i]?).map (·.1)).getD []),
     l.foldl (fun acc r => acc ||| r.2) 0)

/-- The bytes of a 64-byte block that runs write: mask and data. -/
def blockOf (runs : List (Nat × List Byte)) (base : Nat) : BitVec 64 × List Byte :=
  let at' := fun (i : Nat) =>
    runs.foldl (fun (acc : Option Byte) r =>
      match r.2[((base + i) % 2 ^ 64 + 2 ^ 64 - r.1) % 2 ^ 64]? with | some b => some b | none => acc) none
  let l := (List.range 64).map at'
  (BitVec.ofNat 64 ((List.range 64).foldl (fun acc i => if ((l[i]?).getD none).isSome then acc + 2 ^ i else acc) 0),
   l.map fun b => b.getD 0)

/-- Write one block of a drain. A part without its entry was stopped when RLBINV dropped its translation: it translates anew, and may
then fault (R449). -/
def drainBlock (s : State) (cu : Nat) (o : MatOp) (runs : List (Nat × List Byte)) (p : DrainPart) : State × Eng Unit :=
  let (mask, d) := blockOf runs p.addr
  if p.space = 1 then
    let s := s.modWg o.wg fun g => { g with scratch := Memory.setEnabled g.scratch p.addr (fun i => mask.getLsbD i) d }
    (regWritten (fireScratch s o.wg p.addr 64) o.id 1 (p.addr / 64) mask true, .ok ())
  else
    match if p.e ≠ 0 then (s, .ok ⟨p.e, p.pa⟩) else engineXl s cu (((s.wg o.wg).map (·.ctx)).getD 0) p.addr true with
    | (s, .bad e a) => (s, .bad e a)
    | (s, .wait) => (s, .wait)
    | (s, .ok x) =>
      match engineWrite s (dieOf cu) (engineOf cu 1) x mask d with
      | (s, true) => (regWritten s o.id 0 (p.addr / 64) mask true, .ok ())
      | (s, false) => (s, .wait)

/-! ### Performing and completing (R213, R214, R226, R230) -/

/-- An operation leaves the queue: its flags, its batch, its registrations. -/
def finishMat (s : State) (cu : Nat) (o : MatOp) (flags : Nat) : State :=
  let s := regEnd (s.modCu cu fun c => { c with mq := c.mq.filter fun q => q.id ≠ o.id }) o.id
  s.modThread o.tid fun t =>
    Thread.endBatches
      { t with mstat := (t.mstat ||| BitVec.ofNat 64 flags) &&& mstatMask, openOps := t.openOps.filter (· ≠ o.id),
               batches := t.batches.map fun b => { b with ops := b.ops.filter (· ≠ o.id) } }

/-- The tile that an operation names, freed or not since its issue. -/
def opTile (g : Wg) (o : MatOp) : Option Tile := g.tiles.find? fun x => x.handle = o.handle

/-- An operation waits for its group's earlier scratch stores (R223, R226). -/
def matWaits (s : State) (o : MatOp) : Bool :=
  (o.kind = .wracc || (o.kind = .mma && Forms.mo o.f 7 7 = 1)) &&
    (match s.thread o.tid with | some t => scratchStoreOpen t o.mark | none => false)

/-- Store a tile, less the blocks that an error has poisoned. -/
def setTile (s : State) (o : MatOp) (x : Tile) (rows : List (List Nat)) : State :=
  s.modWg o.wg fun g => { g with tileMem := x.poison (x.store g.tileMem rows) o.nan }

/-- Change an operation of a CU's queue. -/
def State.modMat (s : State) (cu id : Nat) (g : MatOp → MatOp) : State :=
  s.modCu cu fun c => { c with mq := c.mq.map fun q => if q.id = id then g q else q }

/-- A drain that cannot translate a block any more raises the fault, imprecisely, and goes on with the group that took it; where every
group has exited it ends (R449, log 58). -/
def drainFault (s : State) (cu : Nat) (o : MatOp) (e a : Nat) : State :=
  let trap : Trap :=
    { cause := e, syn := BitVec.ofNat 64 (if e = cDIEL then 0 else 16 * (if o.kind = .drain then 6 else 7)), opd0 := BitVec.ofNat 64 a,
      fpc := some o.pc, unit := some (funit 5 0) }
  match faultTaker s o.wg o.tid with
  | some i => (raiseEngine (s.modMat cu o.id fun q => { q with stepped := true, tid := i }) o.wg o.tid trap).1
  | none => (raiseEngine (finishMat s cu o 0) o.wg o.tid trap).1

/-- Advance the operation at the head of a CU's queue: a drain by one block, any other to its end. -/
def runMat (s : State) (cu : Nat) (o : MatOp) : State :=
  match s.wg o.wg with
  | none => finishMat s cu o 0
  | some g =>
    match opTile g o with
    | none => finishMat s cu o 0
    | some x =>
      let rows := x.rows g.tileMem
      match o.kind with
      | .free => finishMat (s.modWg o.wg fun g => { g with tiles := g.tiles.filter fun y => y.handle ≠ o.handle }) cu o 0
      | .zero => finishMat (setTile s o x (rows.map fun r => r.map fun _ => 0)) cu o 0
      | .wracc =>
        let new := (List.range rows.length).map fun i => (List.range (colsOf x.nf)).map fun n =>
          leNat (Memory.bytes g.scratch ((o.va.toNat + i * o.vb.toNat) % 2 ^ 64 + 4 * n) 4)
        finishMat (setTile s o x new) cu o 0
      | .mma =>
        let (r, fl) := runMma o x g.scratch rows
        finishMat (setTile s o x r) cu o fl
      | _ =>
        let (runs, fl) := drainRuns o rows
        match o.dst with
        | [] => finishMat s cu o fl
        | p :: rest =>
          match drainBlock s cu o runs p with
          | (s, .wait) => s
          | (s, .bad e a) => drainFault s cu o e a
          | (s, .ok _) => s.modMat cu o.id fun q => { q with dst := rest }

/-- Two drains to global space may write one byte (R213). -/
def drainsMeet (o p : MatOp) : Bool := o.dst.any fun a => p.dst.any fun b => a.space = 0 && b.space = 0 && a.pa / 64 = b.pa / 64

/-- An operation is held back: operations that FZSTEP entered, or that a fault holds, wait for their group to run again, and with them
every later one of their workgroup and every later drain to their destination (R213, R230). -/
def matHeld (l : List MatOp) (o : MatOp) : Bool := l.any fun p => p.stepped && (p.wg = o.wg || drainsMeet o p) && p.id ≤ o.id

/-- The operation that a CU's queue serves: the first that is not held back. -/
def matHead (l : List MatOp) : Option MatOp := l.find? fun o => !matHeld l o

/-- MATRIX_OPERATION_COMPLETE (R214): the operation that the queue serves goes on and completes; none runs in brumation. -/
def execMatrixOperationComplete (cu entry : Nat) (s : State) : Outcome State Fault Refusal :=
  match matHead (s.cu cu).mq with
  | none => .next s
  | some o =>
    let halted := match s.wg o.wg with | some g => s.halting g.ctx | none => false
    if o.id ≠ entry || halted || matWaits s o then .next s else .next (runMat s cu o)

/-! ### Storage errors (R229) -/

/-- Whether an operation reads the storage of a site. -/
def readsSite (o : MatOp) (site : StorageSite) : Bool :=
  match site with
  | .tileStore | .corrected => o.kind = .mma || o.kind = .drain || o.kind = .drainq
  | .fragmentA => o.kind = .mma
  | .fragmentB => o.kind = .mma && Forms.mo o.f 7 7 = 0
  | .scratchB => o.kind = .mma && Forms.mo o.f 7 7 = 1
  | .scratchWord => o.kind = .wracc

/-- The rows, or columns, that a word of a captured register feeds: the register is the one of row or column `i` in step `j`, and it may
stand for others, in other steps and in the fragments of the other operand. -/
def fedBy (frags : List (List Nat)) (name half : Nat) : List Nat :=
  (frags.map fun l => l.zipIdx.filterMap fun p => if p.1 = name then some (2 * p.2 + half) else none).flatten.eraseDups

/-- The columns whose 64 bytes in some step hold a scratch address. -/
def fedColumns (o : MatOp) (x : Tile) (a : Nat) : List Nat :=
  let d := o.vb.toNat
  (List.range (colsOf x.nf)).filter fun n => (List.range o.frA.length).any fun j =>
    let lo := d % 2 ^ 32 + j * ((d >>> 48) * 64) + n * ((d >>> 32) % 2 ^ 16)
    lo ≤ a && a < lo + 64

/-- The blocks fed by a corrupt word, in row-major order (R229): of the tile store, or of what the operation reads for row `row` and
column `col`. A fragment's word is that of the step which the other coordinate names. -/
def badBlocks (o : MatOp) (x : Tile) (site : StorageSite) (row col : Nat) : List (Nat × Nat) :=
  let all := ((List.range (rowsOf x.mc / 16)).map fun i => (List.range (colsOf x.nf / 16)).map fun j => (i, j)).flatten
  let steps := max 1 o.frA.length
  let fa := fragA 0x144 o.f x.mc
  let fb := if Forms.mo o.f 7 7 = 1 then [] else fragB 0x144 o.f x.nf
  let word := fun (name half : Nat) =>
    let rows := fedBy fa name half
    let cols := fedBy fb name half
    all.filter fun b => rows.any (fun i => i / 16 = b.1) || cols.any fun n => n / 16 = b.2
  match site with
  | .fragmentA => word ((((fa[col % steps]?).getD [])[row / 2]?).getD 0) (row % 2)
  | .fragmentB => word ((((fb[row % steps]?).getD [])[col / 2]?).getD 0) (col % 2)
  | .scratchB =>
    let d := o.vb.toNat
    let cols := fedColumns o x (d % 2 ^ 32 + (row % steps) * ((d >>> 48) * 64) + col * ((d >>> 32) % 2 ^ 16) + 4 * (row / steps % 16))
    all.filter fun b => cols.any fun n => n / 16 = b.2
  | .scratchWord =>
    let at' := fun (i : Nat) => (o.va.toNat + i * o.vb.toNat) % 2 ^ 64
    let a := at' row + 4 * col
    all.filter fun b => (List.range 16).any fun i =>
      let lo := at' (16 * b.1 + i) + 64 * b.2
      lo ≤ a && a < lo + 64
  | _ => [(row / 16, col / 16)]

/-- MSTG (R229): the running operation meets an uncorrectable error in the storage that it reads for row and column of its tile; one that
was corrected is counted (R36). -/
def execMstg (cu entry : Nat) (site : StorageSite) (row col : Nat) (s : State) : Outcome State Fault Refusal :=
  match matHead (s.cu cu).mq with
  | none => .next s
  | some o =>
    match (s.wg o.wg).bind fun g => opTile g o with
    | none => .next s
    | some x =>
      if o.id ≠ entry || !readsSite o site || rowsOf x.mc ≤ row || colsOf x.nf ≤ col then .next s
      else if site = .corrected then .next (countError s .sram)
      else
        let bad := badBlocks o x site row col
        let s := s.modWg o.wg fun g => { g with tileMem := x.poison g.tileMem bad }
        let s := s.modMat cu o.id fun q => { q with nan := q.nan ++ bad }
        let s := s.modThread o.tid fun t => { t with mstat := t.mstat ||| BitVec.ofNat 64 mflagMERR }
        let first := (bad.head?).getD (0, 0)
        let num := fun (n : Nat) => BitVec.ofNat 64 n
        let trap : Trap :=
          { cause := cMSTG, syn := num (match site with | .tileStore => 1 | .fragmentA | .fragmentB => 2 | _ => 3), opd0 := o.handle,
            fpc := some o.pc, tilem := num (16 * first.1), tilen := num (16 * first.2), unit := some (funit 5 0) }
        let (s, who) := raiseEngine s o.wg o.tid trap
        .next (match who, who.bind s.thread with
          | some i, some t => holdWith s o.wg i (faultRec s t { trap with imp := true, async := true })
          | _, _ => s)

end Sys2Proof.Machine
end

