-- ==== Sys2Proof/Machine/Queue.lean ====
section
/-! DEFINITION. The work engine's reads and writes of memory, queue tokens (R379-R381), and host queues (R374-R377). -/

namespace Sys2Proof.Machine

open Host (Outcome)

/-! ### Reading and writing -/

/-- 64 aligned bytes of a context's global space as the work engine reads them: readable, not poisoned (R64, R376). -/
def recordBlock (s : State) (c va : Nat) : State × Option (List Byte) :=
  if 2 ^ 57 ≤ va then (s, none)
  else
    match walk s c va with
    | none => (s, none)
    | some x =>
      let s := requestCtx s c x true
      if !reRd x.e || s.tileLost x then (s, none)
      else if x.host then
        let s := hostGiveUp s (hostKey x)
        (s, some (Memory.bytes s.mem.hostMem x.pa 64))
      else
        match s.winOf x.sector with
        | some w => (s, some (expandSector s (s.win w) x.sector).1)
        | none =>
          let poi := match s.ownerCopy x.sector with | some l => l.poi | none => (s.smeta x.sector).poi
          (s, if poi then none else some (s.cohSector x.sector))

/-- `n` bytes from an address on, block by block. -/
def readRange (s : State) (c va n : Nat) : State × Option (List Byte) :=
  let first := va / 64
  let count := (va % 64 + n + 63) / 64
  let (s, r) := (List.range count).foldl (fun (acc : State × Option (List Byte)) i =>
    match acc with
    | (s, none) => (s, none)
    | (s, some l) =>
      match recordBlock s c ((first + i) * 64) with
      | (s, some b) => (s, some (l ++ b))
      | (s, none) => (s, none)) (s, some [])
  (s, r.map fun l => (l.drop (va % 64)).take n)

/-- The thread number that marks a write of the work engine for a queue at a home: no thread has it. -/
def engineMark (c q : Nat) : Nat := 2 ^ 64 + c * 4 + q

/-- How a completion word's write goes. -/
inductive Posted where
  | bad | done | begun
  deriving DecidableEq, Repr

/-- Write an aligned 8-byte word at SY: at the host's coherence point, or at the home, which gathers every token (R377). -/
def postWord (s : State) (c q va : Nat) (v : Word64) : State × Posted :=
  match walk s c va with
  | none => (s, .bad)
  | some x =>
    let s := requestCtx s c x true
    if !reW x.e || reImm x.e || s.tileLost x then (s, .bad)
    else if x.host then
      let s := hostGiveUp s (hostKey x)
      (s.modMem fun m => { m with hostMem := Memory.setBytes m.hostMem x.pa (leBytes 8 v.toNat) }, .done)
    else if (s.winOf x.sector).isSome then (s, .bad)
    else
      let a : HomeAtom :=
        { pkt := none, tid := engineMark c q, eid := 0, lane := 0, sector := x.sector, addr := x.pa, op := 6, ty := 5, b := v, c := 0 }
      (s.modHome (homeOf x.sector) fun h => { h with atoms := h.atoms ++ [a] }, .begun)

/-- A write that was begun has been performed. -/
def postedAll (s : State) (c q : Nat) : Bool := !(s.mem.homes.any fun p => p.2.atoms.any fun a => a.tid = engineMark c q)

/-! ### Queue tokens (R379, R381) -/

def tokCnt (t : Word64) : Nat := bits t 31 0
def tokFk (t : Word64) : Nat := bits t 50 48
def tokFid (t : Word64) : Nat := bits t 44 32
def tokOf (fk fid cnt : Nat) : Word64 := BitVec.ofNat 64 (fk <<< 48 + fid <<< 32 + cnt % 2 ^ 32)
/-- The entry that a handle names. -/
def tokIdx (h : Word64) : Nat := bits h 11 0
def State.token (s : State) (key i : Nat) : Word64 := ngetD (s.part key).toks i 0
def State.setToken (s : State) (key i : Nat) (t : Word64) : State := s.modPart key fun p => { p with toks := nset p.toks i t }

/-- A token is satisfied for a handle. -/
def tokSatisfied (t h : Word64) : Bool := (tokCnt t + 2 ^ 32 - bits h 63 32) % 2 ^ 32 ≤ 2 ^ 31 - 1

/-- The footprint after one more producer: a CU, or the host (`none`). -/
def mergeFoot (fk fid : Nat) (prod : Option Nat) : Nat × Nat :=
  match prod with
  | none => (4, 0)
  | some x =>
    match fk with
    | 0 => (1, x)
    | 1 => if fid = x then (1, x) else if dieOf fid = dieOf x then (2, dieOf x) else (3, 0)
    | 2 => if fid = dieOf x then (2, fid) else (3, 0)
    | _ => (fk, 0)

/-- A footprint after several producers. -/
def mergeFeet (fk fid : Nat) (prods : List (Option Nat)) : Nat × Nat := prods.foldl (fun p x => mergeFoot p.1 p.2 x) (fk, fid)

/-- Signal a token: the count and the footprint change together. -/
def signalToken (s : State) (key i : Nat) (prods : List (Option Nat)) : State :=
  let t := s.token key i
  let (fk, fid) := mergeFeet (tokFk t) (tokFid t) prods
  s.setToken key i (tokOf fk fid (tokCnt t + 1))

/-- Reset a token. -/
def resetToken (s : State) (key i : Nat) : State := s.setToken key i 0

/-! ### Queues (R374-R377) -/

def Ctx.queue (k : Ctx) (q : Nat) : Queue := ngetD k.queues q Queue.reset
def State.modQueue (s : State) (c q : Nat) (g : Queue → Queue) : State :=
  s.modCtx c fun k => { k with queues := nset k.queues q (g (k.queue q)) }

def Queue.log2n (x : Queue) : Nat := bits x.ctl 4 0
def Queue.sized (x : Queue) : Bool := 4 ≤ x.log2n && x.log2n ≤ 16
/-- The queue is served. -/
def Queue.served (x : Queue) : Bool := x.ctl.getLsbD 6 && x.sized

/-- MREADY (R452). -/
def State.mready (s : State) : Bool := s.mdl.mstatus.getLsbD 0

/-- A doorbell write (R375, R451). -/
def doorbell (s : State) (c q : Nat) (t : Word64) : State :=
  let x := (s.ctx c).queue q
  let d := (t.toNat % 2 ^ 32 + 2 ^ 32 - x.head % 2 ^ 32) % 2 ^ 32
  if !s.mready || !x.sized || 2 ^ x.log2n < d || x.head + d < x.tail then s
  else s.modQueue c q fun x => { x with tail := x.head + d }

/-- QTAIL_DOORBELL (R375). -/
def execQtailDoorbell (ctx queue : Nat) (value : Word64) (s : State) : Outcome State Fault Refusal :=
  .next (doorbell s (ctx % 1024) (queue % 4) value)

/-- QCPL_WRITE (R374): CERR is cleared by every write. -/
def execQcplWrite (ctx queue : Nat) (value : Word64) (s : State) : Outcome State Fault Refusal :=
  .next (s.modQueue (ctx % 1024) (queue % 4) fun x => { x with cpl := value &&& 0x01FFFFFFFFFFFFF9 })

/-- QCTL_WRITE (R374, R437): the port is the one for MSI-X. -/
def execQctlWrite (port ctx queue : Nat) (value : Word64) (s : State) : Outcome State Fault Refusal :=
  .next (s.modQueue (ctx % 1024) (queue % 4) fun x => { x with ctl := value &&& 0xFFFF005F, port := port % 4 })

/-- An entry as it is read from the ring: its kind, argument, record address and IRQ, or malformed (R376). -/
inductive RingEntry where
  | bad (irq : Bool)
  | ok (kind : Nat) (arg : Word64) (rec_ : Nat) (irq : Bool)
  deriving DecidableEq, Repr

/-- The fields of an entry. -/
def parseEntry (n : Nat) : RingEntry :=
  let kind := n % 16
  let irq := n.testBit 4
  let arg := BitVec.ofNat 64 (n >>> 64)
  let badTok := kind ≠ 0 && bits arg 31 12 ≠ 0
  if n >>> 128 ≠ 0 || (n >>> 57) % 128 ≠ 0 || n.testBit 5 || 4 ≤ kind || badTok then .bad irq
  else .ok kind arg ((n >>> 6) % 2 ^ 51 * 64) irq

/-- The launches of one host queue that still have clusters to dispatch. -/
def queueLaunching (s : State) (c q : Nat) : Bool :=
  s.lch.any fun p => p.2.ctx = c && p.2.next < p.2.clusters && (match p.2.src with | .queue k _ => k = q | .device _ => false)

/-- The next entry of a queue may be handled. -/
def queueReady (s : State) (c q : Nat) : Bool :=
  let x := (s.ctx c).queue q
  x.served && x.head < x.tail && x.pend.isNone && !queueLaunching s c q

/-- Read the entry at a queue's head; one that cannot be read is malformed, without IRQ (R376). -/
def headEntry (s : State) (c q : Nat) : State × RingEntry :=
  let x := (s.ctx c).queue q
  let va := bits x.base 56 12 * 4096 + 64 * (x.head % 2 ^ x.log2n)
  match recordBlock s c va with
  | (s, some b) => (s, parseEntry (leNat b))
  | (s, none) => (s, .bad false)

/-- Take the entry at the head. -/
def takeEntry (s : State) (c q : Nat) (irq : Bool) (status : Option Nat) (pend : Option Nat) : State :=
  s.modQueue c q fun x =>
    { x with head := x.head + 1, pend := pend, entries := x.entries ++ [{ seq := x.head, irq := irq, status := status }] }

/-- Every earlier entry of a queue has finished. -/
def queueDrained (s : State) (c q : Nat) : Bool := ((s.ctx c).queue q).entries.isEmpty

/-- Handle the entry at a queue's head when it is of kind `want`, or malformed. -/
def onEntry (s : State) (c q want : Nat) (g : State → Word64 → Nat → Bool → State) : State :=
  if !queueReady s c q then s
  else
    match headEntry s c q with
    | (t, .bad irq) => takeEntry t c q irq (some 5) none
    | (t, .ok kind arg r irq) => if kind = want then g t arg r irq else s

/-- ENTRY_LAUNCH (R376): the launch waits at its queue's head to be accepted. -/
def execEntryLaunch (ctx queue : Nat) (s : State) : Outcome State Fault Refusal :=
  .next (onEntry s ctx queue 0 fun s _ r irq => takeEntry s ctx queue irq none (some r))

/-- ENTRY_SIGNAL_TOKEN (R376, R381): the producer is the host. -/
def execEntrySignalToken (ctx queue : Nat) (s : State) : Outcome State Fault Refusal :=
  .next (onEntry s ctx queue 1 fun s arg _ irq =>
    if !queueDrained s ctx queue then s
    else takeEntry (signalToken s (s.ctx ctx).key (tokIdx arg) [none]) ctx queue irq (some 1) none)

/-- ENTRY_WAIT_TOKEN (R376). -/
def execEntryWaitToken (ctx queue : Nat) (s : State) : Outcome State Fault Refusal :=
  .next (onEntry s ctx queue 2 fun s arg _ irq =>
    if !tokSatisfied (s.token (s.ctx ctx).key (tokIdx arg)) arg then s else takeEntry s ctx queue irq (some 1) none)

/-- ENTRY_RESET_TOKEN (R376). -/
def execEntryResetToken (ctx queue : Nat) (s : State) : Outcome State Fault Refusal :=
  .next (onEntry s ctx queue 3 fun s arg _ irq =>
    if !queueDrained s ctx queue then s
    else takeEntry (resetToken s (s.ctx ctx).key (tokIdx arg)) ctx queue irq (some 1) none)

/-! ### Finishing (R377) -/

/-- The status that a queue reports next, and whether with IRQ: its first entry's, else that of a device launch. -/
def Queue.due (x : Queue) : Option (Nat × Bool × Bool) :=
  match x.entries with
  | e :: _ =>
    match e.status with
    | some st => some (st, e.irq, true)
    | none => x.rep.head?.map fun st => (st, false, false)
  | [] => x.rep.head?.map fun st => (st, false, false)

/-- The vectors of a port (R436). -/
def msixVectors : Nat := 2048
/-- An MSI-X message leaves through a port, unless its vector is masked and then pends; a port has no other vectors than its 2,048
(R436, log 61). -/
def sendMsix (s : State) (port v : Nat) : State :=
  if msixVectors ≤ v then s
  else
    let k := port * msixVectors + v
    { s with host := if (ngetD s.host.table k MsixEntry.reset).masked then
          { s.host with pba := if s.host.pba.contains k then s.host.pba else s.host.pba ++ [k] }
      else { s.host with msix := s.host.msix ++ [(port, v)], pba := s.host.pba.filter (· ≠ k) } }

/-- A write of 8 bytes of BAR2: the MSI-X table, whose entries have 16 bytes; a pending message goes out when its vector is unmasked. The
pending-bit array, from 32 KiB on, is only read. -/
def writeMsix (s : State) (port o : Nat) (v : Word64) : State :=
  if 16 * msixVectors ≤ o then s
  else
    let k := port * msixVectors + o / 16
    let x := ngetD s.host.table k MsixEntry.reset
    let x := if o % 16 = 0 then { x with addr := v } else { x with data := v.setWidth 32, ctl := (v >>> 32).setWidth 32 }
    let s := { s with host := { s.host with table := nset s.host.table k x } }
    if s.host.pba.contains k && !x.masked then sendMsix s port (o / 16) else s

/-- The 8 bytes of BAR2 that a host reads. -/
def readMsix (s : State) (port o : Nat) : Word64 :=
  let x := ngetD s.host.table (port * msixVectors + o / 16) MsixEntry.reset
  if o < 16 * msixVectors then (if o % 16 = 0 then x.addr else x.ctl ++ x.data)
  else if o < 16 * msixVectors + 256 then
    BitVec.ofNat 64 (((List.range 64).filter fun i => s.host.pba.contains (port * msixVectors + 8 * (o - 16 * msixVectors) + i)).foldl (fun n i => n + 2 ^ i) 0)
  else 0

/-- The report is made: it is counted, and the entry's MSI-X message goes out (R377, R437). -/
def reported (s : State) (c q : Nat) (irq ring err : Bool) : State :=
  let x := (s.ctx c).queue q
  let s := s.modQueue c q fun x =>
    { x with done := x.done + 1, entries := if ring then x.entries.drop 1 else x.entries, rep := if ring then x.rep else x.rep.drop 1,
             wr := none, cpl := if err then x.cpl ||| 2 else x.cpl }
  if irq then sendMsix s x.port (bits x.ctl 31 16) else s

/-- One step of finishing a queue's entries: the completion word is written, then the message sent. -/
def finishQueue (s : State) (c q : Nat) : State :=
  let x := (s.ctx c).queue q
  match x.wr, x.due with
  | some ring, _ => if postedAll s c q then reported s c q (ring && ((x.entries.head?).map (·.irq)).getD false) ring false else s
  | none, none => s
  | none, some (st, irq, ring) =>
    if !x.cpl.getLsbD 0 then reported s c q irq ring false
    else
      let word := BitVec.ofNat 64 (((x.done + 1) % 2 ^ 32) <<< 32 + st)
      match postWord s c q (bits x.cpl 56 3 * 8) word with
      | (s, .bad) => reported s c q irq ring true
      | (s, .done) => reported s c q irq ring false
      | (s, .begun) => s.modQueue c q fun x => { x with wr := some ring }

/-- Finish what can be finished in every queue. -/
def finishQueues (s : State) : State :=
  (s.ctxs.map fun p => p.2.queues.map fun q => (p.1, q.1)).flatten.foldl (fun s p => finishQueue s p.1 p.2) s

/-- An entry of a queue has its status. -/
def setStatus (s : State) (c q seq st : Nat) : State :=
  s.modQueue c q fun x => { x with entries := x.entries.map fun e => if e.seq = seq then { e with status := some st } else e }

end Sys2Proof.Machine
end

