-- ==== Sys2Proof/Machine/Slots.lean ====
section
/-! DEFINITION. Active slots (R68-R72, R165, R399): whose turn comes next, who takes a slot and who leaves one. -/

namespace Sys2Proof.Machine

open Host (Outcome)

/-! ### Places of a barrel -/

/-- The threads of a barrel. -/
def onBarrel (s : State) (cu barrel : Nat) : NMap Thread :=
  s.thr.filter fun p => p.2.cu = cu && p.2.barrel = barrel && !(p.2.isGroup && ((s.wg p.2.wg).map (·.evicted)).getD true)

/-- The turns are numbered by slot, then by barrel: each barrel visits its slots in rotation, and all of them in step (R69). -/
def slotKey (cu barrel slot : Nat) : Nat := slot * 2 ^ 32 + cu * 4 + barrel
/-- A tadpole shares the slot of its frozen group; a thread that a tadpole steps and that has no slot issues beside the slots. -/
def Thread.slotKey (t : Thread) : Nat := Machine.slotKey t.cu t.barrel (if t.place = .active then t.aslot else 8)

/-- Active slots of a barrel that nobody holds, rising. -/
def freeSlots (s : State) (cu barrel : Nat) : List Nat :=
  let used := ((onBarrel s cu barrel).filter fun p => p.2.place = .active).map fun p => p.2.aslot
  (List.range 8).filter fun k => !used.contains k

/-- The pending groups of a barrel, at most 24 (R68, R395). -/
def pendingCount (s : State) (cu barrel : Nat) : Nat := ((onBarrel s cu barrel).filter fun p => p.2.isGroup && p.2.place = .pending).length
/-- A pending place is free. -/
def pendingRoom (s : State) (cu barrel : Nat) : Bool := pendingCount s cu barrel < 24

/-- A thread that may take an issue turn: active and not frozen, or stepped by a tadpole (R412). -/
def Thread.mayIssue (t : Thread) : Bool := (t.place = .active && t.fz.isNone) || t.stepping = 1

/-- A pending thread that could issue. -/
def Thread.readyPending (t : Thread) : Bool := t.place = .pending && t.fz.isNone && !t.waits

/-! ### Who comes first -/

/-- The better of two waiting threads: the first is kept on a tie. -/
def firstBy (key : Thread → Nat × Nat × Nat) (l : NMap Thread) : Option (Nat × Thread) :=
  l.foldl (fun (acc : Option (Nat × Thread)) p =>
    match acc with
    | none => some p
    | some q =>
      let (a, b, c) := key p.2
      let (x, y, z) := key q.2
      if a < x || (a = x && (b < y || (b = y && c < z))) then some p else acc) none

/-- The ready pending thread that has waited longest (R70); of those equally long, the one that gave up its slot last comes last
(R165). -/
def longestReady (s : State) (cu barrel : Nat) : Option (Nat × Thread) :=
  firstBy (fun t => (t.readySince, t.behind, t.slot)) ((onBarrel s cu barrel).filter fun p => p.2.readyPending)

/-- The ready pending thread that became overdue first (R71). -/
def firstOverdue (s : State) (cu barrel : Nat) : Option (Nat × Thread) :=
  firstBy (fun t => (t.overdue.getD 0, t.readySince, t.slot))
    ((onBarrel s cu barrel).filter fun p => p.2.readyPending && p.2.overdue.isSome)

/-! ### Taking and leaving -/

/-- A swap event: a thread takes active slot `k` of its barrel (R71). -/
def takeSlot (s : State) (tid : Nat) (t : Thread) (k : Nat) : State :=
  let s := { s with thr := nmap s.thr fun _ u =>
    if u.cu = t.cu && u.barrel = t.barrel && u.readyPending then { u with swaps := u.swaps + 1 } else u }
  s.modThread tid fun u => { u with place := .active, aslot := k, slotSince := s.cyc, offer := 0, overdue := none, swaps := 0, behind := 0 }

/-- A group leaves its active slot for a pending place, behind the others that became ready at this time (R165). -/
def leaveSlot (s : State) (tid : Nat) (t : Thread) : State :=
  let same := ((onBarrel s t.cu t.barrel).filter fun p => p.2.readyPending && p.2.readySince = s.cyc).map fun p => p.2.behind
  s.modThread tid fun u => { u with place := .pending, readySince := s.cyc, swaps := 0, overdue := none, offer := 0,
                                    behind := same.foldl max 0 + 1 }

/-- A group gives its slot to a pending thread. -/
def giveSlot (s : State) (out : Nat) (t : Thread) (inn : Nat) (u : Thread) : State := leaveSlot (takeSlot s inn u t.aslot) out t

/-! ### Waits at blocking points (R33, R72, R385) -/

/-- Blocking points. -/
def isBlocking (opc : Nat) (f : Fields) : Bool :=
  match opc with
  | 0x00C | 0x241 | 0x1C3 | 0x18F | 0x283 => true
  | 0x180 | 0x182 | 0x184 => accAs f = 2
  | _ => false

/-- A group that stands waiting at a blocking point other than a load, with its form. -/
def standsAt (s : State) (tid : Nat) (t : Thread) : Option (Nat × Fields) :=
  if !t.isGroup || !t.waits then none
  else
    match front s tid t with
    | .form _ opc f =>
      let inWait := match opc with
        | 0x00C => (match t.blk with | some b => decide (b.stage = 2) | none => false)
        | 0x241 | 0x18F | 0x283 => t.blk.isSome
        | 0x1C3 => ready s tid t opc f
        | _ => false
      if inWait then some (opc, f) else none
    | .trap _ => none

/-- The system-space load on which a group waits, when its log holds nothing else and no other counter is open (R33, R386). -/
def loadStands (s : State) (tid : Nat) (t : Thread) : Option LogEntry :=
  match t.log with
  | [e] =>
    let loads := isBlocking e.opc e.f && e.state = 0
    let waits := match front s tid t with
      | .form _ opc f => !ready s tid t opc f || (opc = 0x00A && t.cS = 0 && t.cC = 0 && t.cM = 0)
      | .trap _ => false
    if t.isGroup && t.waits && t.blk.isNone && loads && waits then some e else none
  | _ => none

/-! ### Turns -/

/-- The least of some numbers. -/
def leastOf (l : List Nat) : Option Nat :=
  l.foldl (fun (a : Option Nat) x => match a with | some y => some (min y x) | none => some x) none

/-- A group that holds an active slot which no tadpole shares, frozen or not: its turns serve an overdue thread (R71, R399). -/
def Thread.holdsSlot (t : Thread) (s : State) : Bool :=
  t.isGroup && t.place = .active && t.stepping = 0
    && !((onBarrel s t.cu t.barrel).any fun p => !p.2.isGroup && p.2.place = .active && p.2.aslot = t.aslot)

/-- A frozen group's slot serves an overdue thread of its barrel (R399). -/
def Thread.slotDue (t : Thread) (s : State) : Bool :=
  t.fz.isSome && t.holdsSlot s && t.slotSince + 8 ≤ s.cyc && (firstOverdue s t.cu t.barrel).isSome

/-- The slot whose turn comes next, of those where something may happen: a thread may issue there, the slot is empty and a pending
thread of its barrel is ready, or a frozen group holds it and a thread is overdue (R69, R71, R399). -/
def nextTurn (s : State) : Option Nat :=
  let fill := (s.thr.filter fun p => p.2.readyPending).map fun p =>
    (freeSlots s p.2.cu p.2.barrel).map (slotKey p.2.cu p.2.barrel)
  let keys := ((s.thr.filter fun p => p.2.mayIssue || p.2.slotDue s).map fun p => p.2.slotKey) ++ fill.flatten
  leastOf (keys.filter (s.env.turn ≤ ·)) <|> leastOf keys

/-- The thread that issues at a slot's turn: one that a tadpole steps there, else the tadpole before the group whose slot it
shares (R399). -/
def inSlot (s : State) (k : Nat) : Option (Nat × Thread) :=
  let l := s.thr.filter fun p => p.2.mayIssue && p.2.slotKey = k
  (l.find? fun p => p.2.stepping = 1) <|> (l.find? fun p => !p.2.isGroup) <|> l.head?

/-- An unfrozen group that holds an active slot. -/
def Thread.inPlace (t : Thread) : Bool := t.isGroup && t.place = .active && t.fz.isNone

/-- At the turn of a slot that a group has held for 8 clk, the thread of its barrel that became overdue first takes it (R71). -/
def moveOverdue (s : State) (k : Nat) : State :=
  match s.thr.find? fun p => p.2.slotKey = k && p.2.holdsSlot s with
  | none => s
  | some (out, t) =>
    if s.cyc < t.slotSince + 8 then s
    else
      match firstOverdue s t.cu t.barrel with
      | some (inn, u) => giveSlot s out t inn u
      | none => s

/-- At the turn of an empty slot, the ready pending thread that has waited longest takes it (R69). -/
def fillSlot (s : State) (k : Nat) : State :=
  let cu := k % 2 ^ 32 / 4
  let barrel := k % 4
  if !(freeSlots s cu barrel).contains (k / 2 ^ 32) then s
  else
    match longestReady s cu barrel with
    | some (inn, u) => takeSlot s inn u (k / 2 ^ 32)
    | none => s

/-- The end of a group's turn: one that waits, or has offered itself, gives its slot to the ready pending thread that has waited
longest; without one, the offer lapses, and a group at a blocking point leaves for a pending place (R70-R72). -/
def endTurn (s : State) (tid : Nat) : State :=
  match s.thread tid with
  | none => s
  | some t =>
    if !t.inPlace || !(t.waits || t.offer ≠ 0) then s
    else
      match longestReady s t.cu t.barrel with
      | some (inn, u) => giveSlot s tid t inn u
      | none =>
        let s := s.modThread tid fun u => { u with offer := 0 }
        if pendingRoom s t.cu t.barrel && ((standsAt s tid t).isSome || (loadStands s tid t).isSome) then leaveSlot s tid t else s

/-- The die of a group that has issued at this turn is touched by its context (R21). -/
def touchIssue (s : State) (tid : Nat) : State :=
  match s.thread tid with
  | some t =>
    if t.isGroup && (!t.waits || t.blk.isSome) then
      s.modCtx t.ctx fun k => { k with tdm := k.tdm ||| BitVec.ofNat 168 (2 ^ computeTile (dieOf t.cu)) }
    else s
  | none => s

/-- What follows the instruction of a turn: the end of the turn of the thread that had it. -/
def turnOver (cur : Option Nat) (o : Outcome State Fault Refusal) : Outcome State Fault Refusal :=
  match o with
  | .next s => .next (match cur with | some tid => endTurn (touchIssue s tid) tid | none => s)
  | .fault x => .fault x
  | .refused x => .refused x

/-- GROUP_SWAP (R69, R70): at the turn of slot `slot` of a barrel, an empty slot is filled, and a group that waits or has offered itself
is swapped. -/
def execGroupSwap (cu barrel slot : Nat) (s : State) : Outcome State Fault Refusal :=
  let k := slotKey cu barrel slot
  if nextTurn s ≠ some k then .next s
  else
    match inSlot s k with
    | some (tid, _) => .next (endTurn s tid)
    | none => .next (fillSlot s k)

/-- OVERDUE_SWAP (R71): at the turn of slot `slot` of a barrel, the group that has held it for 8 clk gives it to the first overdue one. -/
def execOverdueSwap (cu barrel slot : Nat) (s : State) : Outcome State Fault Refusal :=
  let k := slotKey cu barrel slot
  .next (if nextTurn s = some k then moveOverdue s k else s)

/-- Ready pending threads become overdue (R71); a resumed group whose tadpole still holds the slot is pending (R399). -/
def markOverdue (s : State) : State :=
  { s with thr := nmap s.thr fun tid t =>
    if t.readyPending && t.overdue.isNone && (64 ≤ t.swaps || t.readySince + 4096 ≤ s.cyc) then
      { t with overdue := some (if 64 ≤ t.swaps then s.cyc else t.readySince + 4096) }
    else if t.inPlace && pendingRoom s t.cu t.barrel && (s.thr.any fun p => p.2.target = some tid && p.2.place = .active) then
      { t with place := .pending, readySince := s.cyc, swaps := 0, overdue := none, offer := 0 }
    else t }

end Sys2Proof.Machine
end

