-- ==== Sys2Proof/Machine/Sched.lean ====
section
/-! DEFINITION. Issue turns (R69, R109, R117, R421): what a turn serves, what stands before the instruction at its PC, and the
passing of time (logs 1, 2). -/

namespace Sys2Proof.Machine

/-- The clock passes one step: by the time given for it, or one main clock (log 2); a throttled die falls behind by sixteenths (R456). -/
def passTime (s : State) : State :=
  let n := s.env.pace.headD 1
  { s with env := { s.env with clk := s.env.clk + n, slow := s.env.slow + n * bits s.mdl.thr 3 0, pace := s.env.pace.tail, tick := s.env.tick + 1,
                               freeCtr := s.env.freeCtr + 1 } }

/-- The values of a fault record raised again. -/
def trapOfRec (fr : FaultRec) (imp : Bool) : Trap :=
  { cause := bits fr.cause 7 0, syn := fr.syn, lanes := fr.lanes, opd0 := fr.opd0, opd1 := fr.opd1, opd2 := fr.opd2,
    opd3 := fr.opd3, unit := some fr.unit, tilem := fr.tilem, tilen := fr.tilen, fpc := some fr.fpc, imp := imp, async := true }

/-- DIEL and the faults of the matrix, copy and fabric engines are imprecise (R403). -/
def isImprecise (fr : FaultRec) : Bool := bits fr.cause 7 0 = cDIEL || [5, 9, 10].contains (bits fr.unit 7 4)

/-- A group whose access faulted while brumation held it freezes again before its first instruction (R429). The access is named by its
entry's offset in the log ring as it is now (R238). -/
def refreeze (s : State) (tid : Nat) (fr : FaultRec) : State :=
  match s.thread tid with
  | none => s
  | some t =>
    let s := s.modThread tid fun u => { u with postCause := u.postMore.head?, postMore := u.postMore.tail }
    let entry := if bits fr.unit 7 4 = 8 then t.log.find? fun (e : LogEntry) => e.state = 1 else none
    let x := match entry with | some e => entryTrap t e | none => trapOfRec fr (isImprecise fr)
    let s := takeFault s tid x t.pc
    if bits fr.cause 7 0 = cMSTG then holdWith s t.wg tid fr else s

/-- MASKF: the shadow mask unit disagrees with the front end (R421). -/
def maskTrap (t : Thread) : Trap :=
  { cause := cMASKF, syn := t.shExm.setWidth 64, opd0 := t.exm.setWidth 64, opd1 := t.shC.setWidth 64,
    unit := some (funit 4 t.barrel) }

/-- Whether the shadow copies agree; EXM is compared less the dead lanes (R74, R421). -/
def Thread.shadowOk (t : Thread) : Bool :=
  !t.isGroup || ((t.exm &&& ~~~t.deadm) = (t.shExm &&& ~~~t.deadm) && (t.curC &&& ~~~t.deadm) = (t.shC &&& ~~~t.deadm))

/-- What a turn leads to: nothing to execute, or an instruction for the thread named by `cur`. -/
inductive Turn where
  | idle (s : State)
  | run (i : Instr) (s : State)

/-- The fetch translates the code line's address, which touches the tile that it is homed on (R21, R447). -/
def touchLine (s : State) (t : Thread) : State :=
  if pcHighOk t.pc && slotOk t.pc then (xlate s t.cu t.ctx (t.pc.toNat / 64 * 64)).1 else s

/-- The turn of slot `k` begins: the next one is looked for behind it, a ready pending thread fills the slot if it is empty, and an
overdue one takes it (R69, R71). Who has taken the slot issues at this turn (R71, R158). -/
def startTurn (s : State) (k : Nat) : State := moveOverdue (fillSlot { s with env := { s.env with turn := k + 1 } } k) k

/-- One issue turn. -/
def turn (s : State) : Turn :=
  match nextTurn s with
  | none => .idle s
  | some k =>
    let s := startTurn s k
    match inSlot s k with
    | none => .idle s
    | some (tid, t) =>
      let s := { s with env := { s.env with cur := some tid } }
      if t.stall ≠ 0 && t.stepping = 0 then .idle (s.modThread tid fun u => { u with stall := u.stall - 1 })
      else
        match t.postCause with
        | some fr => if t.fz.isNone then .idle (refreeze s tid fr) else go s tid t
        | none => go s tid t
where
  go (s : State) (tid : Nat) (t : Thread) : Turn :=
    let s := if t.moved then (acquireL1 s t.cu).modThread tid fun u => { u with moved := false } else s
    let s := (touchLine s t).modThread tid fun u => { u with waits := false }
    if !t.shadowOk then .idle (takeFault s tid (maskTrap t) t.pc)
    else
      match front s tid t with
      | .trap x => .idle (takeFault s tid x t.pc)
      | .form i _ _ => .run i s

end Sys2Proof.Machine
end

