-- ==== Sys2Proof/Machine/Spawn.lean ====
section
/-! DEFINITION. The first state of threads, workgroups and launches (R42-R45, R56, R59, R64, R399). -/

namespace Sys2Proof.Machine

/-- A thread at its start, with no lane yet: every register zero or unmapped, SIGACC all ones, every counter zero (R39, R56,
R177, R399). -/
def Thread.start (kind : Mode) (ctx launch cu barrel slot : Nat) (pc : Word64) (now : Nat) : Thread :=
  { kind := kind, agent := false, noticeTad := false, hasWg := false, wg := 0, gnum := 0, ctx := ctx, launch := launch, cu := cu,
    barrel := barrel, slot := slot, place := .waiting, budget := 0, pc := pc, exm := 0, deadm := 0, hlpm := 0, lmask := 0,
    exited := 0, c0 := 0, stack := [], shExm := 0, shC := 0, vmap := [], sreg := [], preg := [], kreg := [], sig := 0xFFFFFFFF,
    nchk := 0, fpctl := 0, fpstat := 0, mstat := 0, cL := 0, cS := 0, cC := 0, cM := 0, timeL := 0, timeG := 0, log := [], logSeq := 0,
    locks := [], mons := [], batchNo := 0, openOps := [], batches := [], fseq := 0, fOpen := [], ffail := none, joins := [],
    early := [], blk := none, wb := none, fz := none, postCause := none, postMore := [], gen := 0, frec := FaultRec.zero, tkind := 0, target := none,
    pselCtx := 0, pselKey := 0, notice := 0, stall := 0, waits := false, offer := 0, readySince := now, aslot := 0, behind := 0, woke := none, slotSince := now,
    swaps := 0, overdue := none, wdSince := now, stepping := 0, stepRes := 0, stepSince := 0, moved := false,
    corrupt := [] }

/-- Launch masks of a group: every lane but in the last group of a workgroup, and helper lanes under HLPEN (R45). -/
def launchMasks (lr : LaunchRec) (gnum : Nat) : Mask × Mask :=
  let all : Mask := 0xFFFFFFFF
  let own := if gnum = lr.ng then laneMask fun l => l ≤ lr.lastln else all
  let help := if lr.hlpen then quadFill own &&& ~~~own else 0
  (own ||| help, help)

/-- A group at its start (R43-R45, R50, R56, R68). -/
def Thread.group (t : Thread) (wg gnum budget : Nat) (k : NMap Word) (lr : LaunchRec) : Thread :=
  let (m, h) := launchMasks lr gnum
  { t with hasWg := true, wg := wg, gnum := gnum, budget := budget, kreg := k, lmask := m, hlpm := h, exm := m, c0 := m,
           shExm := m, shC := m }

/-- A workgroup at its admission: cleared storage, no tile, barriers at phase 0 (R39, R43, R63, R170, R207). -/
def Wg.start (launch ctx lin x y z clid cu ng : Nat) (groups : List Nat) (lr : LaunchRec) : Wg :=
  { launch := launch, ctx := ctx, lin := lin, x := x, y := y, z := z, clid := clid, cu := cu, ng := ng, groups := groups,
    spBytes := lr.spsz * 256, tsUnits := lr.tssz, scratch := [], tileMem := [], tiles := [], tileGen := 1, w := [], bars := [],
    ring := [], cpySeq := 0, cpyDone := 0, cpyNtf := 0, cpyStb := 0, cpyWr := [], place := 0, boxes := [],
    killed := false, excused := false, evicted := false, mqSave := [], corrupt := [] }

/-- A record with every field zero. -/
def LaunchRec.zero : LaunchRec :=
  { code := 0, hpc := 0, nwgx := 0, nwgy := 0, nwgz := 0, hlpen := false, clsz := 0, ng := 0, lastln := 0, spsz := 0, spsplit := 0,
    tssz := 0, regs := 0, que := 0, prio := 0, kptr := 0, kcnt := 0, mispol := 0, haltm := 0, place := 0, pen := false,
    waittk := 0, sigtk := 0, ltab := 0 }

/-- A launch just accepted. -/
def Launch.start (lr : LaunchRec) (ctx gridid : Nat) (src : Source) (irq : Bool) (clusters : Nat) : Launch :=
  { lr := lr, ctx := ctx, gridid := gridid, src := src, irq := irq, k := [], placeTab := [], next := 0, clusters := clusters,
    live := 0, onDie := [], ranOn := [], scope := 0, acted := [], relDone := false, foot := 0, confine := [], onCu := none,
    since := 0, cbar := [], excused := [], killed := false }

end Sys2Proof.Machine
end

