-- ==== Sys2Proof/Machine/Trp.lean ====
section
/-! DEFINITION. The forms by which a tadpole reads, patches, steps, resumes and kills a frozen group (R404-R414). -/

namespace Sys2Proof.Machine

open Host (Outcome)

/-! ### Capabilities (R404, R405) -/

/-- The group that a capability's place and generation name in a context: the one resident there before one that was evicted from it
(R405, R414). -/
def groupAt (s : State) (ctx cu barrel slot gen : Nat) : Option (Nat × Thread) :=
  let l := s.thr.filter fun p => p.2.isGroup && p.2.ctx = ctx && p.2.cu = cu && p.2.barrel = barrel && p.2.slot = slot
    && p.2.place ≠ .exited && p.2.gen = gen
  let away := fun (p : Nat × Thread) => ((s.wg p.2.wg).map (·.evicted)).getD false
  (l.find? fun p => !away p) <|> l.head?

/-- The FSYN of CAPF for what a capability fails of itself (R405): a reserved bit, or another context. -/
def capBad (t : Thread) (cap : Word64) : Option Nat :=
  if bits cap 15 0 ≠ 0 then some 1 else if bits cap 63 54 ≠ t.ctx && t.ctx ≠ 0 then some 2 else none

/-- The frozen group that a capability names for a tadpole, or the FSYN of CAPF (R405). -/
def findCap (s : State) (t : Thread) (cap : Word64) : Except Nat (Nat × Thread) :=
  let ctx := bits cap 63 54
  match capBad t cap with
  | some n => .error n
  | none =>
    if cap.getLsbD 32 then .error 5
    else
      match (s.ctx ctx).cuh[bits cap 53 40]? with
      | none => .error 1
      | some cu =>
        match groupAt s ctx cu (bits cap 39 38) (bits cap 37 33) (bits cap 31 16) with
        | none => .error 3
        | some (gid, g) => if g.fz.isNone then .error 4 else .ok (gid, g)

/-- The capability operand. -/
def capArg (s : State) (tid : Nat) (t : Thread) (f : Fields) : Word64 := uniVal s tid t f.a.toNat
/-- Operand B, or IMM32 zero-extended in its place (R408). -/
def trpB (s : State) (tid : Nat) (t : Thread) (f : Fields) : Word64 :=
  if f.xk then f.x.setWidth 64 else uniVal s tid t f.b.toNat

/-- CAPF (R405). -/
def capTrap (n : Nat) (cap : Word64) : Trap := { cause := cCAPF, syn := BitVec.ofNat 64 n, opd0 := cap }

/-- The form waits. -/
def trpWait (s : State) (tid : Nat) : State := s.modThread tid fun u => { u with waits := true }

/-- A form that acts on the group its capability names. While an FZSTEP of the group is performed it waits: the forms that act on one group
are performed one at a time (R406). -/
def trpForm (opc : Nat) (f : Fields) (s : State) (body : State → Nat → Thread → Nat → Thread → State) :
    Outcome State Fault Refusal :=
  issue opc f s fun s tid t =>
    if t.live f = 0 then retire opc f s tid t {}
    else
      let cap := capArg s tid t f
      match findCap s t cap with
      | .error n => takeFault s tid (capTrap n cap) t.pc
      | .ok (gid, g) => if g.stepping ≠ 0 then trpWait s tid else body s tid t gid g

/-- A result for D: a vector destination takes its bits 31:0. -/
def trpOut (f : Fields) (t : Thread) (v : Word64) : List Write := anyWrites f.d.toNat false (t.live f) (v.toNat % 2 ^ 32) v

/-! ### Items of the frozen state (R407) -/

/-- Whether a selector word names an item: the selector and the lane. -/
def selOk (w : Nat) : Bool :=
  let sel := w % 65536
  let lane := (w >>> 16) % 32
  w < 2 ^ 21 && (lane = 0 || sel < 0x140)
    && (sel < 0x190 || (0x1C0 ≤ sel && sel < 0x1D0) || (0x200 ≤ sel && sel ≤ 0x20C) || (0x210 ≤ sel && sel ≤ 0x213)
      || (0x218 ≤ sel && sel ≤ 0x21B) || (0x300 ≤ sel && sel ≤ 0x30D))

/-- A register of a fault record, in the order of R128. -/
def FaultRec.item (r : FaultRec) (n : Nat) : Word64 :=
  match n with
  | 0 => r.cause | 1 => r.fpc | 2 => r.fmask | 3 => r.lanes | 4 => r.opd0 | 5 => r.opd1 | 6 => r.opd2 | 7 => r.opd3
  | 8 => r.syn | 9 => r.unit | 10 => r.tilem | 11 => r.tilen | 12 => r.cap | _ => r.time

/-- A lock entry as FZRD shows it. -/
def lockItem (k : Option Lock) : Word64 :=
  match k with
  | none => 0
  | some k => BitVec.ofNat 64 (k.sector % 2 ^ 42 * 64 + (if k.held then 1 else 3))
/-- A monitor as FZRD shows it. -/
def monItem (m : Option Monitor) : Word64 :=
  match m with
  | none => 0
  | some m => BitVec.ofNat 64 (m.addr % 2 ^ 51 * 64 + (if m.fired then 2 else 0) + (if m.armed then 1 else 0))

/-- An item of a frozen group. -/
def fzItem (s : State) (gid : Nat) (g : Thread) (sel lane : Nat) : Word64 :=
  if sel < 0x140 then (g.vlane sel lane).setWidth 64
  else if sel < 0x180 then ngetD g.sreg (sel - 0x140) 0
  else if sel < 0x190 then (g.pred (sel - 0x180)).setWidth 64
  else if sel < 0x1D0 then s.wreg gid g (sel - 0x1C0)
  else if 0x300 ≤ sel then ((g.fz.map (·.fr)).getD FaultRec.zero).item (sel - 0x300)
  else if 0x218 ≤ sel then monItem (nget g.mons (sel - 0x218))
  else if 0x210 ≤ sel then lockItem (nget g.locks (sel - 0x210))
  else
    match sel with
    | 0x200 => g.pc
    | 0x201 => g.exm.setWidth 64
    | 0x202 => g.deadm.setWidth 64
    | 0x203 => g.hlpm.setWidth 64
    | 0x204 => BitVec.ofNat 64 (g.cL + g.cS <<< 8 + g.cC <<< 16 + g.cM <<< 24)
    | 0x205 => g.sig.setWidth 64
    | 0x206 => g.nchk.setWidth 64
    | 0x207 => g.fpctl
    | 0x208 => g.fpstat
    | 0x209 => g.mstat
    | 0x20A => BitVec.ofNat 64 g.stack.length
    | 0x20B => BitVec.ofNat 64 g.log.length
    | _ => BitVec.ofNat 64 g.fseq

/-- The items that FZWR may write. -/
def selWritable (sel : Nat) : Bool :=
  sel < 0x18F || (0x1C0 ≤ sel && sel < 0x1D0) || sel = 0x205 || sel = 0x207 || sel = 0x208 || sel = 0x209

/-- Write an item, which ends its corruption (R423); tells the status: 1 when an unmapped name passes the budget (R407). -/
def fzWrite (s : State) (gid : Nat) (g : Thread) (sel lane : Nat) (v : Word64) : State × Nat :=
  let one : Mask := BitVec.ofNat 32 (2 ^ lane)
  let mend := fun (l : List Nat) => l.filter fun x => x ≠ sel
  if sel < 0x140 then
    let w := Write.vec sel (mkLanes fun _ => v.setWidth 32) one
    if g.fits [w] then (applyWrite 0 gid s w, 0) else (s, 1)
  else if sel < 0x180 then (s.modThread gid fun u => { u with sreg := nset u.sreg (sel - 0x140) v, corrupt := mend u.corrupt }, 0)
  else if sel < 0x18F then (s.modThread gid fun u => { u with preg := nset u.preg (sel - 0x180) (v.setWidth 32), corrupt := mend u.corrupt }, 0)
  else if sel < 0x1D0 then
    ((applyWrite 0 gid s (.uni (448 + (sel - 0x1C0)) v)).modWg g.wg fun x => { x with corrupt := mend x.corrupt }, 0)
  else
    (s.modThread gid fun u =>
      match sel with
      | 0x205 => { u with sig := v.setWidth 32 }
      | 0x207 => { u with fpctl := v &&& fpctlMask }
      | 0x208 => { u with fpstat := v &&& fpstatMask }
      | _ => { u with mstat := v &&& mstatMask }, 0)

/-- FZRD (R409). -/
def execFzrd (f : Fields) (s : State) : Outcome State Fault Refusal :=
  trpForm 0x2C0 f s fun s tid t gid g =>
    let w := (trpB s tid t f).toNat % 2 ^ 32
    if !selOk w then takeFault s tid (trapSyn 0x80000060 (t.live f)) t.pc
    else retire 0x2C0 f s tid t { writes := trpOut f t (fzItem s gid g (w % 65536) ((w >>> 16) % 32)) }

/-- FZWR (R409). -/
def execFzwr (f : Fields) (s : State) : Outcome State Fault Refusal :=
  trpForm 0x2C1 f s fun s tid t gid g =>
    let w := (trpB s tid t f).toNat % 2 ^ 32
    if !selOk w then takeFault s tid (trapSyn 0x80000060 (t.live f)) t.pc
    else if !selWritable (w % 65536) then takeFault s tid (trapSyn 0x80000061 (t.live f)) t.pc
    else
      let (s, st) := fzWrite s gid g (w % 65536) ((w >>> 16) % 32) (uniVal s tid t f.c.toNat)
      retire 0x2C1 f s tid t { writes := [.uni f.d.toNat (BitVec.ofNat 64 st)] }

/-- FZPC (R410): the value is checked under R111. -/
def execFzpc (f : Fields) (s : State) : Outcome State Fault Refusal :=
  trpForm 0x2C2 f s fun s tid t gid _ =>
    let v := uniVal s tid t f.b.toNat
    if !slotOk v then takeFault s tid (targetTrap cMISAL v) t.pc
    else if !pcHighOk v then takeFault s tid (targetTrap cXLAT v) t.pc
    else retire 0x2C2 f (s.modThread gid fun u => { u with pc := v, blk := none, wb := none, ops := [] }) tid t {}

/-- FZMASK (R410). -/
def execFzmask (f : Fields) (s : State) : Outcome State Fault Refusal :=
  trpForm 0x2C3 f s fun s tid t gid g =>
    let x : Mask := (trpB s tid t f).setWidth 32
    let s := s.modThread gid fun u => { u.setExm x with corrupt := u.corrupt.filter fun i => i ≠ 0x201 }
    retire 0x2C3 f s tid t { writes := [.uni f.d.toNat ((g.setExm x).exm.setWidth 64)] }

/-- Launched lanes die (R54): they leave EXM and every mask. -/
def Thread.killLanes (t : Thread) (m : Mask) : Thread :=
  let m := m &&& t.lmask &&& ~~~t.exited
  let t := { t with deadm := t.deadm ||| m }
  let h := t.idleHelpers
  { (t.dropLanes (m ||| h)) with exited := t.exited ||| h }

/-- FZLANE (R410). -/
def execFzlane (f : Fields) (s : State) : Outcome State Fault Refusal :=
  trpForm 0x2C5 f s fun s tid t gid g =>
    let x : Mask := (trpB s tid t f).setWidth 32
    let s := s.modThread gid fun u => u.killLanes x
    retire 0x2C5 f s tid t { writes := [.uni f.d.toNat ((g.killLanes x).deadm.setWidth 64)] }

/-! ### The operand log (R411) -/

/-- KIND of an operand (R237). -/
def OpVal.kind (v : OpVal) : Nat :=
  match v with
  | .unused => 0
  | .uniform _ => 1
  | .vector _ => 2
/-- The value field of an operand: a uniform value, or the first physical register (R239). -/
def OpVal.field (v : OpVal) : Nat :=
  match v with
  | .unused => 0
  | .uniform x => x.toNat
  | .vector rs => ((rs.head?).map fun r => (Config.physNum r.id).toNat).getD 0
/-- The registers of an operand: two halves of a uniform value. -/
def OpVal.regs (v : OpVal) : Nat :=
  match v with
  | .unused => 0
  | .uniform _ => 2
  | .vector rs => rs.length

/-- The 512 bits of a log entry (R237). -/
def LogEntry.image (e : LogEntry) : Nat :=
  let kind := e.opD.kind <<< 6 + e.opA.kind <<< 4 + e.opB.kind <<< 2 + e.opC.kind
  bits e.pc 56 2 + e.opc <<< 55 + e.f.mod.toNat <<< 65 + (if e.f.xk then 1 else 0) <<< 75 + e.f.x.toNat <<< 76
    + kind <<< 108 + e.opD.field <<< 116 + e.opA.field <<< 180 + e.opB.field <<< 244 + e.opC.field <<< 308
    + e.effm.toNat <<< 372 + e.flt.toNat <<< 404 + e.done.toNat <<< 436 + e.state <<< 468 + e.cause <<< 470

/-- The entry at an offset from the ring's head. -/
def Thread.entryAt (t : Thread) (off : Nat) : Option LogEntry := t.log.find? fun e => t.ringOffset e.id = off

/-- The operand that EXT names. -/
def LogEntry.operand (e : LogEntry) (o : Nat) : OpVal :=
  match o with
  | 0 => e.opD | 1 => e.opA | 2 => e.opB | _ => e.opC

/-- A form on a live log entry: its offset is B. -/
def logForm (f : Fields) (s : State) (needFault : Bool) (body : State → Nat → Thread → Nat → LogEntry → State) :
    Outcome State Fault Refusal :=
  trpForm 0x2C4 f s fun s tid t gid g =>
    let bad := takeFault s tid (trapSyn 0x80000062 (t.live f)) t.pc
    match g.entryAt (uniVal s tid t f.b.toNat).toNat with
    | none => bad
    | some e => if needFault && e.state ≠ 1 then bad else body s tid t gid e

/-- FZLOG.RD (R411). -/
def execFzlogRd (f : Fields) (s : State) : Outcome State Fault Refusal :=
  logForm f s false fun s tid t _ e =>
    retire 0x2C4 f s tid t { writes := trpOut f t (BitVec.ofNat 64 (e.image >>> (64 * Forms.ex f 2 0))) }

/-- FZLOG.REG (R411). -/
def execFzlogReg (f : Fields) (s : State) : Outcome State Fault Refusal :=
  logForm f s false fun s tid t _ e =>
    let v := e.operand (Forms.ex f 9 8)
    let j := Forms.ex f 13 10
    if v.regs ≤ j then takeFault s tid (trapSyn 0x80000062 (t.live f)) t.pc
    else retire 0x2C4 f s tid t { writes := trpOut f t ((v.lane j (Forms.ex f 7 3)).setWidth 64) }

/-- FZLOG.PUT (R411). -/
def execFzlogPut (f : Fields) (s : State) : Outcome State Fault Refusal :=
  logForm f s true fun s tid t gid e =>
    let v := e.operand (Forms.ex f 9 8)
    let j := Forms.ex f 13 10
    if v.regs ≤ j then takeFault s tid (trapSyn 0x80000062 (t.live f)) t.pc
    else
      let l := match e.dest with | .uniform _ => lowestLane e.effm | _ => Forms.ex f 7 3
      let x : Word := (uniVal s tid t f.c.toNat).setWidth 32
      retire 0x2C4 f (s.modEntry gid e.id fun e => { e with put := nset e.put (putKey l j) x }) tid t {}

/-- A faulted entry completes for its failed lanes; lanes still in flight run on, and the entry with them (R238). -/
def settleEntry (s : State) (gid : Nat) (e : LogEntry) : State :=
  if e.todo.isEmpty then completeEntry s gid e.id
  else s.modEntry gid e.id fun e => { e with state := 0, done := e.done ||| e.flt, cause := 0, syn := 0 }

/-- FZLOG.DONE (R411). -/
def execFzlogDone (f : Fields) (s : State) : Outcome State Fault Refusal :=
  logForm f s true fun s tid t gid e => retire 0x2C4 f (settleEntry s gid e) tid t {}

/-! ### Stepping (R412) -/

/-- Every access of a thread has completed, with its counters at zero (R399). -/
def Thread.quiet (t : Thread) : Bool := t.log.isEmpty && t.cL = 0 && t.cS = 0 && t.cC = 0 && t.cM = 0

/-- The end of FZSTEP with its status. -/
def stepEnd (f : Fields) (s : State) (tid : Nat) (t : Thread) (gid status : Nat) : State :=
  let s := s.modThread gid fun u =>
    { u with stepping := 0, fz := if status = 0x11 then u.fz.map fun z => { z with fr := { z.fr with cause := BitVec.ofNat 64 cSTEP } } else u.fz }
  retire 0x2C6 f s tid t { writes := [.uni f.d.toNat (BitVec.ofNat 64 status)] }

/-- A fabric command that the step entered and must see complete; of BXRED, that every packet has been injected (R347). -/
def stepOpen (s : State) (gid : Nat) : Bool :=
  s.fab.cmds.any fun p => p.2.tid = gid && p.2.stepped &&
    (p.2.kind ≠ 3 || p.2.sent < p.2.total || s.fab.unacked.any fun u => u.pkt.xid = p.2.xid && !u.inj)

/-- FZSTEP (R412). It waits for the reissued entries, then for the instruction, whatever form it stands in, and its access. -/
def execFzstep (f : Fields) (s : State) : Outcome State Fault Refusal :=
  issue 0x2C6 f s fun s tid t =>
    let cap := capArg s tid t f
    match t.blk with
    | none =>
      if t.live f = 0 then retire 0x2C6 f s tid t {}
      else if !t.quiet then trpWait s tid
      else
        match findCap s t cap with
        | .error n => takeFault s tid (capTrap n cap) t.pc
        | .ok (gid, g) =>
          if g.stepping ≠ 0 then trpWait s tid
          else
          let base := ((g.log.head?).map (·.id)).getD 0
          let mask := g.log.foldl (fun acc e => if e.state = 1 then acc + 2 ^ (e.id - base) else acc) 0
          let s := s.modThread gid fun u =>
            { u with stepping := 4,
                     log := u.log.map fun e => if e.state = 1 then e.reissued else e }
          standIn 0x2C6 s tid { stage := stepWait, val := gid, aux := mask * 2 ^ 64 + base }
    | some b =>
      match s.thread b.val with
      | none => stepEnd f s tid t b.val 0xFD
      | some g =>
        let wait := trpWait s tid
        if g.place = .exited then stepEnd f s tid t b.val 0xFD
        else if g.stepping = 3 then stepEnd f s tid t b.val g.stepRes
        else if b.stage = stepWait then
          let base := b.aux % 2 ^ 64
          let mask := b.aux / 2 ^ 64
          if g.log.any fun e => base ≤ e.id && mask.testBit (e.id - base) then wait
          else
            let next := g.logSeq
            let s := s.modThread b.val fun u => { u with stepping := 1, stepSince := s.cyc, stall := 0 }
            standIn 0x2C6 s tid { stage := stepRun, val := b.val, aux := next }
        else if g.stepping = 1 then
          (if g.stepSince + 2 ^ 20 ≤ s.cyc then stepEnd f s tid t b.val 0xFE else wait)
        else if g.log.any (fun e => b.aux ≤ e.id) || stepOpen s b.val then wait
        else stepEnd f s tid t b.val 0x11

/-! ### Ending the frozen state or the tadpole (R413) -/

/-- A resumed group without a launched lane has exited (R410). -/
def endIfResumed (s : State) (gid : Nat) : State :=
  if ((s.thread gid).map (·.fz.isNone)).getD false then endIfEmpty s gid else s

/-- FZRES (R413). -/
def execFzres (f : Fields) (s : State) : Outcome State Fault Refusal :=
  trpForm 0x2C7 f s fun s tid t gid _ =>
    if !t.quiet then trpWait s tid
    else endIfResumed (retire 0x2C7 f (resumeGroup s gid) tid t {}) gid

/-- FZKILL (R413). With CTX it needs no group, so that a job capability will do (R405). -/
def execFzkill (f : Fields) (s : State) : Outcome State Fault Refusal :=
  issue 0x2C8 f s fun s tid t =>
    if t.live f = 0 then retire 0x2C8 f s tid t {}
    else
      let cap := capArg s tid t f
      let all := Forms.mo f 0 0 = 1
      let trap := fun (n : Nat) => takeFault s tid (capTrap n cap) t.pc
      if all && cap.getLsbD 32 then
        match capBad t cap with
        | some n => trap n
        | none => retire 0x2C8 f (killCtx s (bits cap 63 54)) tid t {}
      else
        match findCap s t cap with
        | .error n => trap n
        | .ok (_, g) =>
          if g.stepping ≠ 0 then trpWait s tid
          else retire 0x2C8 f (if all then killCtx s g.ctx else killWg s g.wg) tid t {}

/-- Whether a tadpole's own group is still the frozen group that its capability names. -/
def ownGroup (s : State) (t : Thread) : Option Nat :=
  if t.agent || t.noticeTad then none
  else
    match t.target with
    | none => none
    | some gid =>
      match s.thread gid with
      | some g => if g.fz.isSome && g.gen = bits t.frec.cap 31 16 && g.place ≠ .exited then some gid else none
      | none => none

/-- What a resume PC that is no PC raises at the HRET that sets it (R111). -/
def resumeTrap (pc : Word64) : Option Trap :=
  if !slotOk pc then some (targetTrap cMISAL pc) else if !pcHighOk pc then some (targetTrap cXLAT pc) else none

/-- HRET (R111, R413). -/
def execHret (f : Fields) (s : State) : Outcome State Fault Refusal :=
  issue 0x2CA f s fun s tid t =>
    if t.live f = 0 then retire 0x2CA f s tid t {}
    else if !t.quiet || ((ownGroup s t).bind s.thread).any fun g => g.stepping ≠ 0 then trpWait s tid
    else
      match ownGroup s t with
      | none => endTadpole s tid
      | some gid =>
        if Forms.mo f 0 0 = 1 then
          endTadpole (s.modThread gid fun u =>
            { u with fz := u.fz.map (fun z => { z with hold := true }),
                     place := if u.place = .active && pendingRoom s u.cu u.barrel then .pending else u.place }) tid
        else
          match (s.thread gid).bind fun g => resumeTrap g.pc with
          | some x => takeFault s tid x t.pc
          | none => endIfResumed (endTadpole (resumeGroup s gid) tid) gid

/-! ### CAPQ (R414) -/

/-- The context that a tadpole's CAPQ and RLBINV act on (R418). -/
def reachCtx (t : Thread) : Nat := if t.ctx = 0 then t.pselCtx else t.ctx

/-- The order of CUH, barrel and slot. -/
def capOrder (s : State) (c : Nat) (t : Thread) : Nat := ((s.ctx c).handle t.cu * 4 + t.barrel) * 32 + t.slot

/-- Insert a group in the order of `capOrder`. -/
def insertCap (s : State) (c : Nat) (l : List Thread) (t : Thread) : List Thread :=
  match l with
  | [] => [t]
  | u :: r => if capOrder s c t < capOrder s c u then t :: u :: r else u :: insertCap s c r t

/-- The frozen groups of a context, in order. -/
def frozenGroups (s : State) (c : Nat) : List Thread :=
  ((nvals s.thr).filter fun g => g.isGroup && g.ctx = c && g.fz.isSome && g.place ≠ .exited).foldl (insertCap s c) []

/-- CAPQ.ENUM (R414). -/
def execCapqEnum (f : Fields) (s : State) : Outcome State Fault Refusal :=
  issueAct 0x2C9 f s fun s tid t =>
    if t.live f = 0 then .null
    else
      let i := if f.xk then f.x.toNat else (uniVal s tid t f.a.toNat).toNat
      let cap := match (frozenGroups s (reachCtx t))[i]? with | some g => s.capOf g | none => 0
      .done { writes := [.uni f.d.toNat cap] }

/-- CAPQ.STAT (R414). -/
def execCapqStat (f : Fields) (s : State) : Outcome State Fault Refusal :=
  issueAct 0x2C9 f s fun s tid t =>
    if t.live f = 0 then .null
    else
      let st := match findCap s t (capArg s tid t f) with
        | .ok _ => 0
        | .error 4 => 1
        | .error 3 => 2
        | .error _ => 3
      .done { writes := [.uni f.d.toNat (BitVec.ofNat 64 st)] }

end Sys2Proof.Machine
end

