-- ==== Sys2Proof/Machine/TrapEv.lean ====
section
/-! DEFINITION. Events of the fault sequencer (R109, R399-R401, R421-R424): spawning, the watchdog, lane death, a code line that
fails its check. -/

namespace Sys2Proof.Machine

open Host (Outcome)

/-! ### Spawning (R399, R400) -/

/-- The tadpole that an entry of the spawn queue asks for, not yet placed; TKIND.BRUM tells of the job as it is spawned (R401). -/
def spawnThread (s : State) (cu : Nat) (q : Spawn) : Thread :=
  let g := if q.hasTid then s.thread q.tid else none
  let c := s.ctx q.ctx
  let hpc := ((g.bind s.launchOf).map (·.lr.hpc)).getD 0
  let pc : Word64 := if q.sys then c.sysent else BitVec.ofNat 64 hpc
  let t := Thread.start (if q.sys then .systemTadpole else .userTadpole) q.ctx ((g.map (·.launch)).getD 0) cu q.barrel q.slot pc
    s.cyc
  let k := if q.agent then (((frozenGroups s q.ctx).head?).map (·.kreg)).getD [] else (g.map (·.kreg)).getD []
  let inSlot := !q.notice && !q.agent && (g.map fun u => decide (u.place = .active)).getD false
  let brum : Word64 := if s.halting q.ctx then 32 else 0
  { t with agent := q.agent, noticeTad := q.notice, hasWg := (g.map (·.hasWg)).getD false, wg := (g.map (·.wg)).getD 0, kreg := k,
           frec := q.fr, tkind := (q.tkind &&& ~~~32) ||| brum, target := if q.hasTid then some q.tid else none, pselCtx := q.ctx, pselKey := c.key,
           place := if inSlot then .active else .pending, aslot := (g.map (·.aslot)).getD 0, overdue := some s.cyc }

/-- TADPOLE_SPAWN (R400): the first entry of the queue whose place is free, an agent's own place apart. -/
def execTadpoleSpawn (cu : Nat) (s : State) : Outcome State Fault Refusal :=
  let c := s.cu cu
  let free := fun (q : Spawn) => if q.agent then c.agent.isNone else decide (c.pool.length < 8)
  match c.spawnq.find? free with
  | none => .next s
  | some q =>
    let t := spawnThread s cu q
    let (id, s) := s.fresh
    let rest := fun (l : List Spawn) => (l.takeWhile fun x => !free x) ++ (l.dropWhile fun x => !free x).drop 1
    let s := s.modCu cu fun c =>
      { c with spawnq := rest c.spawnq, pool := if q.agent then c.pool else c.pool ++ [id],
               agent := if q.agent then some id else c.agent }
    let s := if q.notice then s.modThread q.tid fun u => { u with notice := 0 } else s
    .next (s.setThread id t)

/-! ### Watchdog (R424) -/

/-- The stage of TBJOIN's wait for the phase before (R359). -/
def tbjoinStage : Nat := 240

/-- Forms whose wait at the PC the watchdog recognises. -/
def waitForm (t : Thread) (opc : Nat) (f : Fields) : Bool :=
  match opc with
  | 0x00A | 0x00B | 0x00C | 0x18F | 0x1C3 | 0x241 | 0x283 => true
  | 0x240 => t.blk.any fun b => b.stage = tbjoinStage
  | 0x207 => Forms.mo f 7 7 = 1
  | _ => false

/-- An access in system space that the group may be waiting on. -/
def systemLoadOpen (t : Thread) : Bool := t.log.any fun e => isLoad e.opc && accAs e.f = 2

/-- The group stands in a recognised wait: it cannot issue, and its form or the system load it waits on is one, or a peer toward
which it has something open has been in recovery for less than 2 s (R345). -/
def recognisedWait (s : State) (tid : Nat) (t : Thread) : Bool :=
  t.waits && (systemLoadOpen t || ((recovSince s tid).any fun c => s.env.clk < c + nsToClk 2000000000)
    || (match front s tid t with | .form _ opc f => waitForm t opc f | .trap _ => false))

/-- The watchdog counts for a thread that is resident and not frozen. -/
def watched (t : Thread) : Bool := t.fz.isNone && (t.place = .active || t.place = .pending)

/-- WATCHDOG_EXPIRY (R424); a recognised wait restarts the count, and brumation of the job stops it, a tadpole's too (R426). -/
def execWatchdogExpiry (thread : Nat) (s : State) : Outcome State Fault Refusal :=
  match s.thread thread with
  | none => .next s
  | some t =>
    if !watched t then .next s
    else if recognisedWait s thread t || s.halting t.ctx then
      .next (s.modThread thread fun u => { u with wdSince := s.cyc })
    else if t.wdSince + 2 ^ 24 ≤ s.cyc then
      .next (takeFault s thread { cause := cWDOG, syn := if t.isGroup then 1 else 2 } t.pc)
    else .next s

/-! ### Lane death (R54, R186, R423) -/

/-- A notice for a group: merged into the one that waits, or queued (R423). -/
def queueNotice (s : State) (tid : Nat) (t : Thread) (m : Mask) : State :=
  let waiting := (s.cu t.cu).spawnq.any fun q => q.notice && q.tid = tid
  if waiting then
    s.modCu t.cu fun c => { c with spawnq := c.spawnq.map fun q =>
      if q.notice && q.tid = tid then { q with fr := { q.fr with lanes := q.fr.lanes ||| m.setWidth 64 } } else q }
  else
    let fr := faultRec s t { cause := cUCE, syn := 0x00020001, lanes := m.setWidth 64, unit := some (funit 3 t.barrel) }
    queueSpawn s tid t fr false false true false 0

/-- Registers, masks and the stack that an uncorrectable error may mark, by the selectors of R407 (R423). -/
def mayCorrupt (sel : Nat) : Bool :=
  (0x140 ≤ sel && sel < 0x18F) || (0x1C0 ≤ sel && sel < 0x1D0) || (0x201 ≤ sel && sel ≤ 0x203) || sel = 0x20A

/-- Errors mark registers of a thread and of its workgroup. -/
def markCorrupt (s : State) (tid : Nat) (t : Thread) (regs : List Nat) : State :=
  let isW := fun (x : Nat) => decide (0x1C0 ≤ x ∧ x < 0x1D0)
  let l := regs.filter mayCorrupt
  let s := s.modThread tid fun u => { u with corrupt := (u.corrupt ++ l.filter fun x => !isW x).eraseDups }
  if t.hasWg then s.modWg t.wg fun g => { g with corrupt := (g.corrupt ++ l.filter isW).eraseDups } else s

/-- LANE_DEATH (R54, R423): lanes of a group die, and a notice is sent; a group left without lanes has exited (R49). Errors in other
registers mark them, and those that were corrected are counted (R36). -/
def execLaneDeath (thread : Nat) (errs : RegErrors) (s : State) : Outcome State Fault Refusal :=
  match s.thread thread with
  | none => .next s
  | some t =>
    let s := countErrors s .registerFile errs.corrected
    let m := errs.lanes &&& t.lmask &&& ~~~t.exited &&& ~~~t.deadm
    let s := if t.place = .exited then s else markCorrupt s thread t errs.regs
    if !t.isGroup || t.place = .exited || m = 0 then .next s
    else
      let s := s.modThread thread fun u => { (u.killLanes m) with notice := u.notice ||| m }
      let s := queueNotice s thread t m
      .next (if t.fz.isNone then endIfEmpty s thread else s)

/-- CODE_LINE_CRC_MISMATCH (R36, R109): the line of the next instruction to issue fails its check; the refetch corrects it, which is
counted, and on a second failure that instruction raises UCE. -/
def execCodeLineCrcMismatch (again : Bool) (s : State) : Outcome State Fault Refusal :=
  match (nextTurn s).bind (inSlot s) with
  | none => .next s
  | some (tid, t) =>
      .next (if again then takeFault s tid { cause := cUCE, syn := 0x00010000, opd0 := t.pc, unit := some (funit 1 t.barrel) } t.pc
        else countAt s codeLinePlace)

end Sys2Proof.Machine
end

