-- ==== Sys2Proof/Machine/Syn.lean ====
section
/-! DEFINITION. Tree barriers (R352-R365): objects, phases, and the forms that join, wait for, test and excuse; HALTJ (R364). -/

namespace Sys2Proof.Machine

open Host (Outcome)

def Part.obj (p : Part) (b : Nat) : TreeObj := ngetD p.objs b TreeObj.reset
def State.modObj (s : State) (key b : Nat) (g : TreeObj → TreeObj) : State :=
  s.modPart key fun p => { p with objs := nset p.objs b (g (p.obj b)) }

/-- TBCTL as it is read (R352). -/
def TreeObj.ctl (o : TreeObj) : Word64 :=
  BitVec.ofNat 64 ((o.phase % 65536) <<< 48 + (if o.exc1 then 2 ^ 34 else 0) + (if o.exc0 then 2 ^ 33 else 0)
    + (if o.launch.isSome then 2 ^ 32 else 0) + (if o.en then 1 else 0))

/-- Bit of CU number `n` in an object's mask. -/
def TreeObj.maskBit (o : TreeObj) (n : Nat) : Bool := (ngetD o.msk (n / 64) 0).getLsbD (n % 64)

/-! ### Readiness (R354, R356) -/

/-- The joins of a group that count: one that FZSTEP made in a frozen group counts once that group goes on (R356, R369). -/
def Thread.joined (t : Thread) (b : Nat) : Nat := ngetD t.joins b 0 - (if t.fz.isSome then ngetD t.early b 0 else 0)

/-- Whether a workgroup is arrived for phase `p` of object `b`, exited or killed (R355). One of a saved context awaits admission
(R431). -/
def arrivedWg (s : State) (b p : Nat) (g : Wg) : Bool :=
  g.killed || (g.groups.all fun tid =>
    match s.thread tid with
    | some t => t.place = .exited || (p + 1 ≤ t.joined b && !(s.ctx g.ctx).brst.getLsbD 2)
    | none => true)

/-- A CU that can report: enabled and not retired. -/
def cuLive (s : State) (n : Nat) : Bool := (s.cu n).en && !(s.cu n).ret

/-- The CUs whose mask bit is set. -/
def TreeObj.maskCus (o : TreeObj) : List Nat :=
  (o.msk.map fun p => ((List.range 64).filter fun c => p.2.getLsbD c).map fun c => p.1 * 64 + c).flatten

/-- The tile of a row's segment (R348). -/
def segmentTile (r : Nat) : Nat := r * 14 + 6 + (r + 1) % 2
/-- A row's segment is lost, by itself or with its tile (R351). -/
def rowLost (s : State) (r : Nat) : Bool := s.mdl.rows.contains r || s.mdl.lostTiles.contains (segmentTile r)
/-- The row whose segment serves the die nodes of a row: its own, else the nearest of the rows whose compute dies stand in the same
columns (R351). -/
def servingRow (s : State) (r : Nat) : Option Nat :=
  let up := (List.range 12).filter fun q => q % 2 = r % 2 && !rowLost s q
  let gap := fun (q : Nat) => max q r - min q r
  up.foldl (fun (acc : Option Nat) q => match acc with
    | none => some q
    | some x => if gap q < gap x then some q else acc) none

/-- The memory tile of the module root, the source of the time counter (R15). -/
def rootTile : Nat := 91
/-- The root's tile is lost: no markers of time come from it. Barriers and halt waves go on (R351, log 18). -/
def rootLost (s : State) : Bool := s.mdl.lostTiles.contains rootTile
/-- The module root hears the die node of a compute die (R351). -/
def dieHeard (s : State) (d : Nat) : Bool := (servingRow s (d / 7)).isSome

/-- The module reports ready for the pending phase of an object (R356). -/
def moduleReady (s : State) (o : TreeObj) (b : Nat) : Bool :=
  match o.launch with
  | none => false
  | some l =>
    let assigned := match nget s.lch l with | some x => x.next = x.clusters | none => true
    o.en && assigned && (o.maskCus.all fun n => cuLive s n && dieHeard s (dieOf n))
      && s.wgs.all fun p => p.2.launch ≠ l || arrivedWg s b o.phase p.2

/-- The member modules besides this one. -/
def TreeObj.others (o : TreeObj) (me : Nat) : Bool :=
  o.mem.any fun p => p.2 &&& ~~~(if p.1 = me / 64 then BitVec.ofNat 64 (2 ^ (me % 64)) else 0) ≠ 0

/-- TREE_BARRIER_RELEASE (R358): the release of a phase completes it while it is pending; a second copy changes
nothing (R350). With one member module the pod root is this module's root, and the excused flag its own; a phase that has not been
released there stays open during brumation (R35). Else the release carries what happened elsewhere. -/
def execTreeBarrierRelease (key object : Nat) (rel : TreeRelease) (s : State) : Outcome State Fault Refusal :=
  let o := (s.part key).obj object
  let shut := (s.part key).haltAt.isSome && !o.others s.mdl.number
  if o.phase % 65536 ≠ rel.phase || shut || !moduleReady s o object then .next s
  else
    let exc := o.excused || (rel.excused && o.others s.mdl.number)
    .next (s.modObj key object fun o => { o with phase := o.phase + 1, exc1 := o.exc0, exc0 := exc, excused := false })

/-! ### Opening and closing (R353) -/

/-- The groups of a partition's contexts. -/
def inPart (s : State) (key : Nat) (t : Thread) : Bool := (s.ctx t.ctx).key = key

/-- A waiter of TBWAIT woken by closing stands in this stage. -/
def tbClosed : Nat := 242

/-- A write of TBCTL (R353). -/
def writeTbctl (s : State) (key b : Nat) (v : Word64) : State :=
  let o := (s.part key).obj b
  if v.getLsbD 0 && !o.en then
    let s := s.modObj key b fun o =>
      { o with en := true, phase := 0, exc0 := false, exc1 := false, launch := none, excused := false }
    { s with thr := nmap s.thr fun _ t => if inPart s key t then { t with joins := nerase t.joins b } else t }
  else if !v.getLsbD 0 && o.en then
    let s := s.modObj key b fun o => { o with en := false }
    { s with thr := nmap s.thr fun _ t =>
      match t.blk with
      | some k => if inPart s key t && k.stage = 241 && k.val = b then { t with blk := some { k with stage := tbClosed } } else t
      | none => t }
  else s

/-- TBCTL_WRITE (R353). -/
def execTbctlWrite (key object : Nat) (value : Word64) (s : State) : Outcome State Fault Refusal :=
  .next (writeTbctl s key object value)

/-- A write of a register of an object by its offset (R352, R353). -/
def writeTb (s : State) (key b off : Nat) (v : Word64) : State :=
  if off = 0 then writeTbctl s key b v
  else if ((s.part key).obj b).en then s
  else if 0x040 ≤ off && off < 0x040 + 8 * 84 then s.modObj key b fun o => { o with msk := nset o.msk ((off - 0x040) / 8) v }
  else if 0x400 ≤ off && off < 0x400 + 8 * 64 then s.modObj key b fun o => { o with mem := nset o.mem ((off - 0x400) / 8) v }
  else s

/-- A register of an object as it is read. -/
def readTb (s : State) (key b off : Nat) : Word64 :=
  let o := (s.part key).obj b
  if off = 0 then o.ctl
  else if off = 8 then BitVec.ofNat 64 o.grid
  else if 0x040 ≤ off && off < 0x040 + 8 * 84 then ngetD o.msk ((off - 0x040) / 8) 0
  else if 0x400 ≤ off && off < 0x400 + 8 * 64 then ngetD o.mem ((off - 0x400) / 8) 0
  else 0

/-! ### The forms (R360-R363) -/

/-- The object that EXT names. -/
def tbObj (f : Fields) : Nat := Forms.ex f 5 0

/-- (PHASE − p) mod 2^16 lies in 1 .. 32,767: phase `p` has completed (R362). -/
def phasePast (o : TreeObj) (p : Nat) : Bool :=
  let d := (o.phase % 65536 + 65536 - p) % 65536
  1 ≤ d && d ≤ 32767

/-- J ≤ p, with p modulo 2^16. -/
def notJoined (j p : Nat) : Bool := (p + 65536 - j % 65536) % 65536 ≤ 32767

/-- The check of R362: a TRAP syndrome, or the state with the object bound (R354). -/
def tbCheck (s : State) (t : Thread) (b : Nat) : Except Nat State :=
  let key := (s.ctx t.ctx).key
  let o := (s.part key).obj b
  if !o.en then .error 0x80000040
  else
    match o.launch with
    | some l => if l = t.launch then .ok s else .error 0x80000041
    | none =>
      let grid := ((s.launchOf t).map (·.gridid)).getD 0
      .ok (s.modObj key b fun o => { o with launch := some t.launch, grid := grid })

def State.tbObject (s : State) (t : Thread) (b : Nat) : TreeObj := (s.part (s.ctx t.ctx).key).obj b

/-- TBJOIN (R362): the release action, the wait of R359, then the join. -/
def execTbjoin (f : Fields) (s : State) : Outcome State Fault Refusal :=
  issue 0x240 f s fun s tid t =>
    if t.live f = 0 then retire 0x240 f s tid t {}
    else
      let b := tbObj f
      match tbCheck s t b with
      | .error n => takeFault s tid (trapSyn n (t.live f)) t.pc
      | .ok s =>
        let (s, done) := if accOrder f = 2 then releaseAtPc s tid t (accScope f) else (s, true)
        let j := ngetD t.joins b 0
        if !done || (s.tbObject t b).phase + 2 ≤ j then
          (if t.stepping = 1 then s.modThread tid fun u => { u with waits := true }
           else standIn 0x240 s tid { stage := if done then tbjoinStage else 1, val := b, aux := 0 })
        else
          let early := if t.fz.isSome then nset t.early b (ngetD t.early b 0 + 1) else t.early
          retire 0x240 f s tid t { writes := [.uni f.d.toNat (BitVec.ofNat 64 j)] } fun u =>
            { u with joins := nset u.joins b (j + 1), early := early }

/-- The status word (R361). -/
def tbStatus (o : TreeObj) (closed done exc : Bool) : Word64 :=
  BitVec.ofNat 64 ((if closed then 2 ^ 18 else 0) + (if done then 2 ^ 17 else 0) + (if exc then 2 ^ 16 else 0) + o.phase % 65536)

/-- The end of TBWAIT: the acquire action and the status (R362, R363). -/
def tbwaitEnd (f : Fields) (s : State) (tid : Nat) (t : Thread) (o : TreeObj) (p : Nat) (closed : Bool) : State :=
  let s := if accOrder f = 1 then acquireL1 s t.cu else s
  let past := phasePast o p
  let exc := past && (o.exc0 || (o.exc1 && 2 ≤ (o.phase % 65536 + 65536 - p) % 65536))
  retire 0x241 f s tid t { writes := [.uni f.d.toNat (tbStatus o closed true exc)] }

/-- TBWAIT (R362). Stage 241 waits for the phase that B named when the wait began. -/
def execTbwait (f : Fields) (s : State) : Outcome State Fault Refusal :=
  issue 0x241 f s fun s tid t =>
    if t.live f = 0 then retire 0x241 f s tid t {}
    else
      let b := tbObj f
      let p := match t.blk with | some k => k.aux | none => (uniVal s tid t f.b.toNat).toNat % 65536
      let o := s.tbObject t b
      match t.blk with
      | some k =>
        if k.stage = tbClosed then tbwaitEnd f s tid t o p true
        else if phasePast o p then tbwaitEnd f s tid t o p false
        else s.modThread tid fun u => { u with waits := true }
      | none =>
        match tbCheck s t b with
        | .error n => takeFault s tid (trapSyn n (t.live f)) t.pc
        | .ok s' =>
          let o := s'.tbObject t b
          if phasePast o p then tbwaitEnd f s' tid t o p false
          else if notJoined (ngetD t.joins b 0) p then takeFault s tid (trapSyn 0x80000042 (t.live f)) t.pc
          else if t.stepping = 1 then s'.modThread tid fun u => { u with waits := true }
          else standIn 0x241 s' tid { stage := 241, val := b, aux := p }

/-- TBTEST (R361-R363). -/
def execTbtest (f : Fields) (s : State) : Outcome State Fault Refusal :=
  issue 0x242 f s fun s tid t =>
    if t.live f = 0 then retire 0x242 f s tid t {}
    else
      let b := tbObj f
      match tbCheck s t b with
      | .error n => takeFault s tid (trapSyn n (t.live f)) t.pc
      | .ok s =>
        let o := s.tbObject t b
        let s := if accOrder f = 1 then acquireL1 s t.cu else s
        let done := ngetD t.joins b 0 ≤ o.phase
        retire 0x242 f s tid t { writes := [.uni f.d.toNat (tbStatus o false done o.exc0)] }

/-- A CU holds a participant neither exited nor killed. -/
def holdsParticipant (s : State) (o : TreeObj) (n : Nat) : Bool :=
  s.wgs.any fun p => p.2.cu = n && o.launch = some p.2.launch && !p.2.killed && !p.2.evicted && !allExited s p.2

/-- TBEXC's result and effect (R362). -/
def excuse (s : State) (key b n : Nat) : State × Nat :=
  let o := (s.part key).obj b
  if 5375 < n then (s, 3)
  else if !o.maskBit n then (s, 2)
  else if holdsParticipant s o n then (s, 1)
  else
    (s.modObj key b fun o =>
      { o with msk := nset o.msk (n / 64) (ngetD o.msk (n / 64) 0 &&& ~~~BitVec.ofNat 64 (2 ^ (n % 64))) }, 0)

/-- TBEXC (R362). -/
def execTbexc (f : Fields) (s : State) : Outcome State Fault Refusal :=
  issue 0x243 f s fun s tid t =>
    if t.live f = 0 then retire 0x243 f s tid t {}
    else
      let n := (uniVal s tid t f.a.toNat).toNat
      let k := (uniVal s tid t f.b.toNat).toNat % 65536
      let (s, r) := if k = (s.ctx t.ctx).key || t.ctx = 0 then excuse s k (tbObj f) n else (s, 3)
      retire 0x243 f s tid t { writes := [.uni f.d.toNat (BitVec.ofNat 64 r)] }

/-- The contexts of a partition that have groups here. -/
def partCtxs (s : State) (key : Nat) : List Nat :=
  ((s.thr.filter fun p => p.2.isGroup && p.2.place ≠ .exited && inPart s key p.2).map fun p => p.2.ctx).eraseDups

/-- HALTJ (R364). -/
def execHaltj (f : Fields) (s : State) : Outcome State Fault Refusal :=
  issue 0x244 f s fun s tid t =>
    if t.live f = 0 then retire 0x244 f s tid t {}
    else
      let k := (uniVal s tid t f.a.toNat).toNat % 65536
      let code := (uniVal s tid t f.b.toNat).toNat % 65536
      let out := fun (s : State) (r : Nat) => retire 0x244 f s tid t { writes := [.uni f.d.toNat (BitVec.ofNat 64 r)] }
      if k ≠ (s.ctx t.ctx).key && t.ctx ≠ 0 then out s 3
      else
        let cs := partCtxs s k
        if cs.isEmpty then out s 2
        else
          let was := cs.any s.halting
          let x : Trigger :=
            { time := (s.globalTime (dieOf t.cu)).toNat, modn := s.mdl.number, tile := computeTile (dieOf t.cu), cause := cHALT,
              syn := BitVec.ofNat 32 code, grp := false, cuh := 0, brl := 0, slot := 0 }
          out (cs.foldl (fun s c => raiseTrigger s c x) s) (if was then 1 else 0)

/-! ### The tree's own failures (R350, R351) -/

/-- A partition's tree traffic moves to plane 1, and a halt wave that the failed path may have lost goes out again. The ready states are
functions of the state, so that there is nothing to report anew (R350). -/
def Part.failOver (p : Part) (me : Nat) : Part :=
  let again := match p.haltAt, p.first with
    | some _, some x => if x.modn = me && !p.waves.contains x then [x] else []
    | _, _ => []
  { p with plane := 1, waves := p.waves ++ again }

/-- TREE_FAILOVER (R350). -/
def execTreeFailover (key : Nat) (s : State) : Outcome State Fault Refusal := .next (s.modPart key (·.failOver s.mdl.number))

/-- ROW_SEGMENT_LOSS (R351): the row's die nodes attach to another row. -/
def execRowSegmentLoss (row : Nat) (s : State) : Outcome State Fault Refusal :=
  .next { s with mdl := { s.mdl with rows := if s.mdl.rows.contains row then s.mdl.rows else s.mdl.rows ++ [row] } }

end Sys2Proof.Machine
end

