-- ==== Sys2Proof/Machine/Launch.lean ====
section
/-! DEFINITION. Launches (R64, R65, R67, R377-R384): records, acceptance, token scope, placement, admission, completion. -/

namespace Sys2Proof.Machine

open Host (Outcome)

/-! ### Records (R64, R65) -/

/-- A field of a record held as a number. -/
def field (n hi lo : Nat) : Nat := (n >>> lo) % 2 ^ (hi + 1 - lo)

/-- The reserved fields of a record (R64). -/
def recReserved : List (Nat × Nat) :=
  [(1023, 826), (774, 768), (638, 633), (578, 512 + 21), (512, 482), (479, 455), (447, 441), (389, 358), (355, 354), (351, 329),
   (319, 296), (287, 270), (255, 245), (239, 237), (227, 225), (127, 121), (63, 57), (5, 0)]

def parseRecord (n : Nat) : LaunchRec :=
  { code := field n 56 6 * 64, hpc := field n 120 64, nwgx := field n 159 128, nwgy := field n 191 160, nwgz := field n 223 192,
    hlpen := n.testBit 224, clsz := field n 231 228, ng := field n 236 232, lastln := field n 244 240, spsz := field n 267 256,
    spsplit := field n 269 268, tssz := field n 295 288, regs := field n 328 320, que := field n 353 352, prio := field n 357 356,
    kptr := field n 440 390 * 64, kcnt := field n 454 448, mispol := field n 481 480, haltm := field n 532 512,
    place := field n 632 579 * 8, pen := n.testBit 639, waittk := BitVec.ofNat 64 (field n 703 640),
    sigtk := BitVec.ofNat 64 (field n 767 704), ltab := field n 825 775 * 64 }

/-- Bytes of a scratchpad split (R17, R64). -/
def splitBytes (n : Nat) : Nat := (256 + 128 * n) * 1024
/-- Workgroups of a grid. -/
def LaunchRec.wgs (r : LaunchRec) : Nat := r.nwgx * r.nwgy * r.nwgz
/-- Workgroups of a cluster. -/
def LaunchRec.clWgs (r : LaunchRec) : Nat := r.clsz + 1
/-- The groups of a workgroup on barrel 0 (R43, R67). -/
def LaunchRec.onBarrel0 (r : LaunchRec) : Nat := (r.ng + 4) / 4

/-- Whether R65 rejects a record, the reading of its constants and placement table apart. -/
def recBad (n : Nat) (r : LaunchRec) (privq : Bool) : Bool :=
  recReserved.any (fun p => field n p.1 p.2 ≠ 0) || 2 ≤ r.mispol
    || (r.hpc ≠ 0 && !slotOk (BitVec.ofNat 64 r.hpc))
    || r.nwgx = 0 || r.nwgy = 0 || r.nwgz = 0 || 2 ^ 40 < r.wgs || r.wgs % r.clWgs ≠ 0
    || splitBytes r.spsplit < r.spsz * 256 || 128 < r.tssz || r.regs < 8 || 320 < r.regs || r.regs % 8 ≠ 0
    || 1792 < r.onBarrel0 * r.regs || 64 < r.kcnt || (r.pen && !privq)

/-! ### Dies and CUs -/

/-- CTXCTL's fields (R372). -/
def Ctx.canDispatch (k : Ctx) : Bool := k.ctl.getLsbD 0
def Ctx.privq (k : Ctx) : Bool := k.ctl.getLsbD 1
def Ctx.excl (k : Ctx) : Bool := k.ctl.getLsbD 2
def Ctx.maxPrio (k : Ctx) : Nat := bits k.ctl 4 3
/-- SLICE in clk. -/
def Ctx.slice (k : Ctx) : Nat := nsToClk (if bits k.ctl 47 32 = 0 then 2000000 else bits k.ctl 47 32 * 64000)
/-- DIESET. -/
def Ctx.inDieset (k : Ctx) (d : Nat) : Bool := if d < 64 then k.dieset0.getLsbD d else d < 84 && k.dieset1.getLsbD (d - 64)

/-- The priority of a launch (R372). -/
def State.prioOf (s : State) (l : Launch) : Nat := min l.lr.prio (s.ctx l.ctx).maxPrio

/-- A CU that may run workgroups. -/
def Cu.usable (u : Cu) : Bool := u.en && !u.ret
/-- A lost die (R22). -/
def dieGone (s : State) (d : Nat) : Bool := s.mdl.lostTiles.contains (computeTile d)
/-- The CUs of a die that may run workgroups. -/
def dieCus (s : State) (d : Nat) : List Nat :=
  if dieGone s d then [] else (s.cus.filter fun p => dieOf p.1 = d && p.2.usable).map (·.1)
/-- The dies that have such a CU, rising. -/
def liveDies (s : State) : List Nat := (List.range 84).filter fun d => !(dieCus s d).isEmpty

/-- Another context has a CU's die to itself (R372, R383); a CU that the context already holds stays with it. -/
def exclOther (s : State) (c cu : Nat) : Bool :=
  (s.cu cu).ctx ≠ some c && s.ctxs.any fun p => p.1 ≠ c && p.2.excl && p.2.inDieset (dieOf cu)

/-- The workgroups that hold room on a CU. -/
def wgsOn (s : State) (cu : Nat) : List Wg := nvals (s.wgs.filter fun p => p.2.cu = cu && !p.2.evicted)
/-- A CU holds nothing of its context that a hand-over must wait for (R387). -/
def cuIdle (s : State) (cu : Nat) : Bool :=
  let u := s.cu cu
  (wgsOn s cu).isEmpty && u.pool.isEmpty && u.spawnq.isEmpty && u.agent.isNone

/-- The CU has room for `extra + 1` more workgroups of a record (R17, R67). -/
def cuRoom (s : State) (c : Nat) (r : LaunchRec) (cu extra : Nat) : Bool :=
  let u := s.cu cu
  let l := wgsOn s cu
  let n := extra + 1
  u.usable && !exclOther s c cu && (match u.ctx with | some x => if x = c then !u.reclaim else cuIdle s cu | none => true)
    && (l.isEmpty || u.split = r.spsplit)
    && (l.foldl (fun a g => a + g.spBytes) 0) + n * (r.spsz * 256) ≤ splitBytes r.spsplit
    && (l.foldl (fun a g => a + g.tsUnits) 0) + n * r.tssz ≤ 128
    && (l.foldl (fun a g => a + (g.ng + 3) / 4) 0) + n * r.onBarrel0 ≤ 32

/-- The tree-barrier objects bound to a launch have the CU's mask bit set (R354). -/
def maskAllows (s : State) (l : Launch) (lid cu : Nat) : Bool :=
  (nvals (s.part (s.ctx l.ctx).key).objs).all fun o => !(o.en && o.launch = some lid) || o.maskBit cu

/-- The CU of a list that holds the fewest admitted workgroups and has room (R383), `chosen` being placed already. -/
def pickCu (s : State) (lid : Nat) (l : Launch) (cus chosen : List Nat) : Option Nat :=
  let load := fun n => (wgsOn s n).length + chosen.count n
  cus.foldl (fun acc n =>
    if cuRoom s l.ctx l.lr n (chosen.count n) && maskAllows s l lid n then
      match acc with
      | none => some n
      | some m => if load n < load m then some n else acc
    else acc) none

/-- The CUs for a cluster's workgroups on a die, or none without room. -/
def placeCluster (s : State) (lid : Nat) (l : Launch) (die : Nat) : Option (List Nat) :=
  let cus := match l.onCu with | some x => (dieCus s die).filter (· = x) | none => dieCus s die
  (List.range l.lr.clWgs).foldl (fun (acc : Option (List Nat)) _ =>
    acc.bind fun chosen => (pickCu s lid l cus chosen).map fun n => chosen ++ [n]) (some [])

/-- The candidate dies of a launch (R382, R383). -/
def candDies (s : State) (l : Launch) : List Nat :=
  let k := s.ctx l.ctx
  (liveDies s).filter fun d => (!k.excl || k.inDieset d) && (l.confine.isEmpty || l.confine.contains d)

/-- The die index that a placement byte names, if it is a compute tile. -/
def placeDie (b : Nat) : Option Nat := if b < 168 && isCompute b then some (tileIndex b) else none

/-- The die for the next cluster and the CUs for its workgroups (R383). -/
def nextPlace (s : State) (lid : Nat) (l : Launch) : Option (Nat × List Nat) :=
  if l.lr.pen then
    match (l.placeTab[l.next]?).bind placeDie with
    | none => none
    | some d => (placeCluster s lid l d).map fun cus => (d, cus)
  else
    (candDies s l).foldl (fun (acc : Option (Nat × List Nat)) d =>
      match placeCluster s lid l d with
      | none => acc
      | some cus =>
        match acc with
        | none => some (d, cus)
        | some (e, _) =>
          if (ngetD l.onDie d 0 + 1) * (dieCus s e).length < (ngetD l.onDie e 0 + 1) * (dieCus s d).length then some (d, cus) else acc)
      none

/-! ### Acceptance (R65, R380, R382, R389) -/

/-- The numbers of token scopes: 0 WG, 1 CL, 2 DV, 3 SY, 4 no action. -/
def scopeNone : Nat := 4

/-- How many workgroups of a record a CU has room for now. -/
def cuCapacity (s : State) (c : Nat) (r : LaunchRec) (cu : Nat) : Nat := ((List.range 32).filter fun n => cuRoom s c r cu n).length
def dieCapacity (s : State) (c : Nat) (r : LaunchRec) (d : Nat) : Nat :=
  (dieCus s d).foldl (fun a cu => a + cuCapacity s c r cu) 0

/-- The token scope of a launch and the placement it reserves (R382): the footprint's CU, or its die, when the whole launch has
room there, else no confinement. -/
def tokenScope (s : State) (l : Launch) (foot : Word64) : Launch :=
  let fid := tokFid foot
  let n := l.lr.wgs
  let dies := if l.lr.pen then (l.placeTab.filterMap placeDie).eraseDups else candDies s l
  let wholly := fun d => if l.lr.pen then dies.all (· = d) else dies.contains d && n ≤ dieCapacity s l.ctx l.lr d
  let l := { l with foot := foot }
  match tokFk foot with
  | 0 => { l with scope := scopeNone }
  | 1 =>
    if wholly (dieOf fid) then
      if n ≤ cuCapacity s l.ctx l.lr fid then { l with scope := 0, confine := [dieOf fid], onCu := some fid }
      else { l with scope := 1, confine := [dieOf fid] }
    else { l with scope := 2 }
  | 2 => if wholly fid then { l with scope := 1, confine := [fid] } else { l with scope := 2 }
  | 3 => { l with scope := 2 }
  | _ => { l with scope := 3 }

/-- A launch of a context is refused or over: its stream's queue learns the status (R377, R389). -/
def reportLaunch (s : State) (c : Nat) (src : Source) (que st : Nat) : State :=
  match src with
  | .queue q seq => setStatus s c q seq st
  | .device _ => s.modQueue c que fun x => { x with rep := x.rep ++ [st] }

/-- The next number for a launch of a context: one that no live launch of the context has (R44). -/
def freeGrid (s : State) (c : Nat) : Nat :=
  let live := (s.lch.filter fun p => p.2.ctx = c).map fun p => p.2.gridid
  let n := (s.ctx c).nextGrid
  (((List.range (live.length + 1)).map fun i => (n + i) % 2 ^ 32).find? fun x => !live.contains x).getD n

/-- Accept or refuse a record whose wait is over. -/
def acceptRecord (s : State) (c : Nat) (src : Source) (irq : Bool) (va : Nat) (tk : Word64) : State :=
  match readRange s c va 128 with
  | (s, none) => reportLaunch s c src 0 2
  | (s, some b) =>
    let n := leNat b
    let r := parseRecord n
    let k := s.ctx c
    if recBad n r k.privq then reportLaunch s c src r.que 2
    else
      let clusters := r.wgs / r.clWgs
      match readRange s c r.kptr (4 * r.kcnt) with
      | (s, none) => reportLaunch s c src r.que 2
      | (s, some kb) =>
        match if r.pen then readRange s c r.place clusters else (s, some []) with
        | (s, none) => reportLaunch s c src r.que 2
        | (s, some pb) =>
          let tab := pb.map (·.toNat)
          let badByte := fun (x : Nat) =>
            match placeDie x with
            | none => true
            | some d => (dieCus s d).isEmpty || (k.excl && !k.inDieset d)
          if r.pen && tab.any badByte then reportLaunch s c src r.que 3
          else
            let ks := (List.range r.kcnt).map fun i => (i, BitVec.ofNat 32 (leNat ((kb.drop (4 * i)).take 4)))
            let l := { Launch.start r c (freeGrid s c) src irq clusters with k := ks, placeTab := tab, since := s.env.clk }
            let l := if tk = 0 then { l with scope := 2 } else tokenScope s l (s.token k.key (tokIdx tk))
            let (id, s) := s.fresh
            let s := s.modCtx c fun k => { k with nextGrid := (l.gridid + 1) % 2 ^ 32 }
            { s with lch := nset s.lch id l }

/-- The launch at the head of a stream: its source, IRQ and record address. Streams 0 to 3 are the host queues, 4 the device launch
buffer (R389). -/
def streamHead (s : State) (c stream : Nat) : Option (Source × Bool × Nat) :=
  let k := s.ctx c
  if stream < 4 then
    let x := k.queue stream
    match x.pend, x.entries.getLast? with
    | some va, some e => some (.queue stream e.seq, e.irq, va)
    | _, _ => none
  else if s.lch.any fun p => p.2.ctx = c && p.2.next < p.2.clusters && (match p.2.src with | .device _ => true | _ => false) then none
  else k.devBuf.head?.map fun p => (.device p.2, false, p.1)

/-- The head of a stream leaves it. -/
def dropHead (s : State) (c stream : Nat) : State :=
  if stream < 4 then s.modQueue c stream fun x => { x with pend := none } else s.modCtx c fun k => { k with devBuf := k.devBuf.drop 1 }

/-- LAUNCH_ACCEPT (R380): WAITTK is read first, and the record once its token is satisfied. -/
def execLaunchAccept (ctx stream : Nat) (s : State) : Outcome State Fault Refusal :=
  match streamHead s ctx stream with
  | none => .next s
  | some (src, irq, va) =>
    match readRange s ctx (va + 80) 16 with
    | (s, none) => .next (reportLaunch (dropHead s ctx stream) ctx src 0 2)
    | (s, some b) =>
      let tk := BitVec.ofNat 64 (leNat (b.take 8))
      if tk ≠ 0 && !tokSatisfied (s.token (s.ctx ctx).key (tokIdx tk)) tk then .next s
      else .next (acceptRecord (dropHead s ctx stream) ctx src irq va tk)

/-! ### Dispatch order (R378) -/

/-- The stream that a launch belongs to. -/
def Launch.stream (l : Launch) : Nat := match l.src with | .queue q _ => q | .device _ => 4

/-- A launch that has clusters to dispatch and may dispatch them. -/
def Launch.waiting (s : State) (l : Launch) : Bool :=
  l.next < l.clusters && (s.ctx l.ctx).canDispatch && !s.halting l.ctx

/-- The launches whose next cluster goes to a die, with its CUs. -/
def admissible (s : State) (die : Nat) : List (Nat × Launch × List Nat) :=
  s.lch.filterMap fun p =>
    if !p.2.waiting s then none
    else match nextPlace s p.1 p.2 with
      | some (d, cus) => if d = die then some (p.1, p.2, cus) else none
      | none => none

/-- The next in rotation after `last` among some numbers. -/
def rotate (l : List Nat) (last : Option Nat) : Option Nat :=
  let up := match last with | some x => l.filter (x < ·) | none => l
  let least := fun (m : List Nat) => m.foldl (fun (a : Option Nat) x => match a with | some y => some (min y x) | none => some x) none
  least up <|> least l

/-- The level served at a die's opportunity. -/
def pickLevel (s : State) (die : Nat) (levels : List Nat) : Nat :=
  let top := levels.foldl max 0
  match (List.range 4).find? fun v => v < top && levels.contains v && 15 ≤ ngetD s.mdl.dispLow (die * 4 + v) 0 with
  | some v => v
  | none => top

/-- The launch chosen at an opportunity. -/
def choose (s : State) (die : Nat) (l : List (Nat × Launch × List Nat)) : Option (Nat × Nat × Launch × List Nat) :=
  if l.isEmpty then none
  else
    let lv := pickLevel s die (l.map fun p => s.prioOf p.2.1)
    let l := l.filter fun p => s.prioOf p.2.1 = lv
    match rotate (l.map fun p => p.2.1.ctx) (nget s.mdl.dispCtx (die * 4 + lv)) with
    | none => none
    | some c =>
      let l := l.filter fun p => p.2.1.ctx = c
      match rotate (l.map fun p => p.2.1.stream) (nget s.mdl.dispQue ((die * 4 + lv) * 1024 + c)) with
      | none => none
      | some q => (l.find? fun p => p.2.1.stream = q).map fun p => (lv, p)

/-- The counters of an opportunity: the chosen level's starts again, those of the other candidates rise. -/
def countLevels (s : State) (die lv c q : Nat) (levels : List Nat) : State :=
  let low := (List.range 4).foldl (fun m v =>
    nset m (die * 4 + v) (if v = lv || !levels.contains v then 0 else min 15 (ngetD m (die * 4 + v) 0 + 1))) s.mdl.dispLow
  { s with mdl := { s.mdl with dispLow := low, dispCtx := nset s.mdl.dispCtx (die * 4 + lv) c,
                               dispQue := nset s.mdl.dispQue ((die * 4 + lv) * 1024 + c) q } }

/-! ### Admission (R17, R39, R43, R80, R382, R384) -/

/-- The CUs of a footprint whose L1 holds dirty bytes: they run contexts of the consumer's partition, within which tokens pass (R94,
R379). -/
def producerCus (s : State) (c : Nat) (foot : Word64) : List Nat :=
  let inFoot := fun (n : Nat) =>
    match tokFk foot with
    | 1 => n = tokFid foot
    | 2 => dieOf n = tokFid foot
    | 3 => true
    | _ => false
  (s.cus.filter fun p => inFoot p.1 && (p.2.ctx.any fun x => (s.ctx x).key = (s.ctx c).key) && p.2.l1.any fun q => q.2.dirty ≠ 0).map (·.1)

/-- Write back all dirty bytes of CUs; tells whether none is left. -/
def flushCus (s : State) (cus : List Nat) : State × Bool :=
  cus.foldl (fun (acc : State × Bool) cu =>
    let (s, left) := flushAll acc.1 cu (dirtySectors acc.1 cu)
    (s, acc.2 && left.isEmpty)) (s, true)

/-- The producers' release before the first group of a consumer starts (R382). -/
def producerRelease (s : State) (lid : Nat) (l : Launch) : State × Bool :=
  if l.relDone || l.scope = 0 || l.scope = scopeNone then (s, true)
  else
    let (s, ok) := flushCus s (producerCus s l.ctx l.foot)
    (if ok then s.modLaunch lid fun l => { l with relDone := true } else s, ok)

/-- A CU changes its context or its split: both need its L1 written back. -/
def needsTurn (s : State) (c : Nat) (r : LaunchRec) (cu : Nat) : Bool :=
  (s.cu cu).ctx ≠ some c || (s.cu cu).split ≠ r.spsplit

/-- A CU passes to a context with a split: no line and no translation stays (R17, R39, R80). -/
def takeCu (s : State) (c : Nat) (r : LaunchRec) (cu : Nat) : State :=
  let s := if needsTurn s c r cu then
      s.modCu cu fun u =>
        { u with ctx := some c, since := if u.ctx = some c then u.since else s.env.clk, split := r.spsplit, reclaim := false, l1 := [],
                 rlb := if u.ctx = some c then u.rlb else [] }
    else s
  s.modCtx c fun k => if k.cuh.contains cu then k else { k with cuh := k.cuh ++ [cu] }

/-- A launch from a host queue: the work of a doorbell (R442). -/
def Launch.fromHost (l : Launch) : Bool := match l.src with | .queue _ _ => true | .device _ => false

/-- The consumer's acquire before the launch's first workgroup starts on a CU (R382); of work that a doorbell starts at SY, whatever
its token says (R442). -/
def consumerAcquire (s : State) (lid : Nat) (l : Launch) (cu : Nat) : State :=
  if l.acted.contains cu then s
  else
    let s := if (1 ≤ l.scope && l.scope ≤ 3) || l.fromHost then acquireL1 s cu else s
    s.modLaunch lid fun l => { l with acted := l.acted ++ [cu], ranOn := l.ranOn ++ [cu] }

/-- The groups of a barrel that have not exited, resident or evicted from it. -/
def slotGroups (s : State) (cu barrel : Nat) (away : Bool) : List Thread :=
  (nvals s.thr).filter fun t => t.isGroup && t.cu = cu && t.barrel = barrel && t.place ≠ .exited
    && ((s.wg t.wg).map (·.evicted)).getD true = away

/-- The lowest resident place of a barrel that is free (R404), one that no evicted group's capability names if there is one (log 21). -/
def freeSlot (s : State) (cu barrel : Nat) : Nat :=
  let used := (slotGroups s cu barrel false).map (·.slot)
  let named := (slotGroups s cu barrel true).map (·.slot)
  let free := (List.range 32).filter fun n => !used.contains n
  ((free.find? fun n => !named.contains n).orElse fun _ => free.head?).getD 0

/-- The generation with which a group begins in a place: past those of the groups that were evicted from it (R405, log 21). -/
def freeGen (s : State) (cu barrel slot : Nat) : Nat :=
  (((slotGroups s cu barrel true).filter fun t => t.slot = slot).map fun t => t.gen + 1).foldl max 0 % 65536

/-- The lowest resident workgroup slot of a CU that is free (R319). -/
def freePlace (s : State) (cu : Nat) : Nat :=
  let used := (wgsOn s cu).map (·.place)
  ((List.range (used.length + 1)).find? fun n => !used.contains n).getD 0

/-- Admit one workgroup to a CU: its groups begin in the waiting state (R43, R44, R384). -/
def admitWg (s : State) (lid : Nat) (l : Launch) (cu lin : Nat) : State :=
  let r := l.lr
  let n := r.ng + 1
  let (wid, s) := s.fresh
  let ids := (List.range n).map fun g => s.env.nextId + g
  let w := Wg.start lid l.ctx lin (lin % r.nwgx) (lin / r.nwgx % r.nwgy) (lin / r.nwgx / r.nwgy) (lin / r.clWgs) cu n ids r
  let s := { s with wgs := nset s.wgs wid { w with place := freePlace s cu }, env := { s.env with nextId := s.env.nextId + n } }
  (List.range n).foldl (fun s g =>
    let b := g % 4
    let k := freeSlot s cu b
    let t := { Thread.start .group l.ctx lid cu b k (BitVec.ofNat 64 r.code) s.cyc with gen := freeGen s cu b k }
    s.setThread ((ids[g]?).getD 0) (t.group wid g r.regs l.k r)) s

/-- Admit the next cluster of a launch. -/
def admitCluster (s : State) (lid : Nat) (l : Launch) (die : Nat) (cus : List Nat) : State :=
  let s := cus.eraseDups.foldl (fun s cu => consumerAcquire (takeCu s l.ctx l.lr cu) lid l cu) s
  let lins := (List.range l.lr.clWgs).map fun i => l.next * l.lr.clWgs + i
  let s := (cus.zip lins).foldl (fun s p => admitWg s lid l p.1 p.2) s
  s.modLaunch lid fun l =>
    { l with next := l.next + 1, live := l.live + l.lr.clWgs, onDie := nset l.onDie die (ngetD l.onDie die 0 + 1), since := s.env.clk }

/-! ### Opportunities -/

/-- A die that an evicted workgroup may use: the one that it left, where EXCL still lets its context run there, or, when its cluster
is itself alone and its launch names no place, any die of its context and its launch (R43, R387). -/
def mayUse (s : State) (g : Wg) (l : Launch) (die : Nat) : Bool :=
  (dieOf g.cu = die && (!(s.ctx g.ctx).excl || (s.ctx g.ctx).inDieset die)) || (l.lr.clsz = 0 && !l.lr.pen && (candDies s l).contains die)

/-- A workgroup of another context that waits for its slice comes before an evicted one (R387). -/
def sliceDue (s : State) (die c : Nat) : Bool :=
  (admissible s die).any fun p => p.2.1.ctx ≠ c && p.2.1.since + (s.ctx p.2.1.ctx).slice ≤ s.env.clk

/-- An evicted workgroup that may return to a die: a group's condition holds, as `woken` says, or its engines have work left, and a CU has
room (R387). -/
def returnable (s : State) (die : Nat) (woken : Nat → Bool) : Option (Nat × Wg × Nat) :=
  s.wgs.findSome? fun p =>
    let g := p.2
    if !g.evicted || g.killed || s.halting g.ctx || (s.ctx g.ctx).brst.getLsbD 2 || !(s.ctx g.ctx).canDispatch
      || !(g.groups.any woken || !g.ring.isEmpty || !g.mqSave.isEmpty) then none
    else
      match nget s.lch g.launch with
      | none => none
      | some l => if !mayUse s g l die || sliceDue s die g.ctx then none else (pickCu s g.launch l (dieCus s die) []).map fun cu => (p.1, g, cu)

/-- Restore an evicted workgroup on a CU: its engines' work goes with it, its mailboxes learn where it
stands, and on another CU its monitors fire (R80, R254, R325, R387). -/
def restoreWg (s : State) (w : Nat) (g : Wg) (cu : Nat) : State :=
  match nget s.lch g.launch with
  | none => s
  | some l =>
    let s := takeCu s g.ctx l.lr cu
    let alive := g.groups.filter fun tid => match s.thread tid with | some t => t.place ≠ .exited | none => false
    let s := alive.foldl (fun s tid => s.modThread tid fun t => { t with slot := 32 }) s
    let away := cu ≠ g.cu
    let slot := freePlace s cu
    let s := s.modWg w fun g => { g with evicted := false, cu := cu, place := slot, mqSave := [] }
    let s := { s with fab := { s.fab with boxes := nmap s.fab.boxes fun _ b =>
      if b.used && b.ctx = g.ctx && b.wg = w then { b with die := dieOf cu, cu := cu % 64, wgs := slot } else b } }
    let s := s.modMem fun m => { m with regs := m.regs.map fun r =>
      if r.wg = w then { r with die := dieOf cu, eng := cu * 4 + r.eng % 4 } else r }
    let s := { s with fab := { s.fab with cmds := nmap s.fab.cmds fun _ c => if g.groups.contains c.tid then { c with cu := cu } else c } }
    let s := alive.foldl (fun s tid =>
      match s.thread tid with
      | some t => s.setThread tid { t with cu := cu, slot := freeSlot s cu t.barrel, moved := true,
                                             mons := if away then nmap t.mons fun _ m => { m with fired := m.fired || m.armed } else t.mons }
      | none => s) s
    let s := s.modCu cu fun u => { u with mq := u.mq ++ g.mqSave }
    s.modLaunch g.launch fun l => { l with ranOn := if l.ranOn.contains cu then l.ranOn else l.ranOn ++ [cu] }

/-- The L1s of CUs that change hands are written back first; tells whether that is done. -/
def prepareCus (s : State) (c : Nat) (r : LaunchRec) (cus : List Nat) : State × Bool :=
  flushCus s (cus.eraseDups.filter fun cu => needsTurn s c r cu)

/-- One opportunity of a die: an evicted workgroup returns, or a cluster is admitted. -/
def opportunity (s : State) (die : Nat) (woken : Nat → Bool) : State :=
  match returnable s die woken with
  | some (w, g, cu) =>
    match nget s.lch g.launch with
    | none => s
    | some l =>
      let (s, ok) := prepareCus s g.ctx l.lr [cu]
      if ok then restoreWg s w g cu else s
  | none =>
    let cands := admissible s die
    match choose s die cands with
    | none => s
    | some (lv, lid, l, cus) =>
      let (s, ok) := producerRelease s lid l
      if !ok then s
      else
        let (s, ok) := prepareCus s l.ctx l.lr cus
        if !ok then s
        else
          let l := (nget s.lch lid).getD l
          countLevels (admitCluster s lid l die cus) die lv l.ctx l.stream (cands.map fun p => s.prioOf p.2.1)

/-! ### Ends of workgroups and launches (R166, R377) -/

/-- Nothing that a workgroup left running is still open. -/
def wgQuiet (s : State) (w : Nat) (g : Wg) : Bool :=
  (g.killed || allExited s g) && g.ring.isEmpty && g.mqSave.isEmpty
    && (g.groups.all fun tid => match s.thread tid with | some t => t.log.isEmpty && t.fOpen.isEmpty | none => true)
    && !((s.cu g.cu).mq.any fun m => m.wg = w)
    && !(s.mem.regs.any fun r => r.wg = w)
    && !(s.fab.cmds.any fun p => g.groups.contains p.2.tid)
    && !(s.fab.boxes.any fun p => p.2.used && p.2.ctx = g.ctx && p.2.wg = w)
    && !((s.cu g.cu).spawnq.any fun q => q.hasTid && g.groups.contains q.tid)
    && !(s.thr.any fun p => !p.2.isGroup && p.2.hasWg && p.2.wg = w)

/-- A workgroup that has ended, with all it left running, goes. -/
def reapWg (s : State) (w : Nat) (g : Wg) : State :=
  let s := { s with wgs := nerase s.wgs w, thr := s.thr.filter fun p => !(g.groups.contains p.1) }
  s.modLaunch g.launch fun l => { l with live := l.live - 1 }

/-- Reap every workgroup that is over. -/
def reap (s : State) : State := s.wgs.foldl (fun s p => if wgQuiet s p.1 p.2 then reapWg s p.1 p.2 else s) s

/-- The clusters not yet dispatched that are pinned to a die lose their place with it: a byte that names no tile stands for it (R383). -/
def unpin (s : State) (d : Nat) : State :=
  { s with lch := nmap s.lch fun _ l =>
      if l.lr.pen then
        { l with placeTab := l.placeTab.zipIdx.map fun p => if l.next ≤ p.2 && placeDie p.1 = some d then 255 else p.1 }
      else l }

/-- Clusters that a lost die keeps from ever being dispatched (R383). -/
def skipLost (s : State) : State :=
  s.lch.foldl (fun s p =>
    let l := p.2
    let gone := l.lr.pen && l.next < l.clusters && match (l.placeTab[l.next]?).bind placeDie with | some _ => false | none => true
    if gone then s.modLaunch p.1 fun l => { l with next := l.next + 1, killed := true } else s) s

/-- LAUNCH_COMPLETE (R95, R377, R380, R391): the release at SY for every CU on which the launch ran, SIGTK, the entry's status. -/
def execLaunchComplete (launch : Nat) (s : State) : Outcome State Fault Refusal :=
  match nget s.lch launch with
  | none => .next s
  | some l =>
    if l.next < l.clusters || l.live ≠ 0 then .next s
    else
      let (s, ok) := flushCus s (l.ranOn.filter fun cu => (s.cu cu).ctx = some l.ctx)
      if !ok then .next s
      else
        let key := (s.ctx l.ctx).key
        let s := if l.lr.sigtk ≠ 0 then signalToken s key (tokIdx l.lr.sigtk) (l.ranOn.map some) else s
        let s := s.modCtx l.ctx fun k => { k with objs := k.objs.filter fun p => p.2.launch ≠ launch }
        let s := { s with lch := nerase s.lch launch }
        .next (reportLaunch s l.ctx l.src l.lr.que (if l.killed then 4 else 1))

end Sys2Proof.Machine
end

