-- ==== Sys2Proof/Machine/Park.lean ====
section
/-! DEFINITION. Residence of groups (R67-R72), parking at blocking points (R110, R385, R386), and the passing of a CU to another
context (R387). -/

namespace Sys2Proof.Machine

open Host (Outcome)

/-- The stage of a group that is parked at a system-space load. -/
def loadPark : Nat := 100

/-! ### Budgets (R67, R68) -/

/-- A group holds registers. -/
def Thread.holds (t : Thread) : Bool := t.isGroup && (t.place = .active || t.place = .pending)
/-- The registers of a captured operand. -/
def OpVal.ids : OpVal → List Nat
  | .vector l => l.map (·.id)
  | _ => []
/-- The registers that a log entry holds: captured operands, and those of its destination. -/
def LogEntry.held (e : LogEntry) : List Nat :=
  e.opD.ids ++ e.opA.ids ++ e.opB.ids ++ e.opC.ids ++ (match e.dest with | .vector l => l.map (·.2) | _ => [])
/-- How many registers of a group that has ended its log entries and the matrix engine still hold (R166). -/
def heldAfter (s : State) (tid : Nat) (t : Thread) : Nat :=
  let mat := ((s.cu t.cu).mq.filter fun o => o.tid = tid && s.cyc < o.since + 64).map (·.caps)
  ((t.log.map LogEntry.held).flatten ++ mat.flatten).eraseDups.length
/-- The registers held on a barrel: budgets, and what groups that have ended left to their accesses and the matrix engine (R67, R166). -/
def budgetHeld (s : State) (cu barrel : Nat) : Nat :=
  (onBarrel s cu barrel).foldl (fun a p =>
    if p.2.holds then a + p.2.budget else if p.2.isGroup && p.2.place = .exited then a + heldAfter s p.1 p.2 else a) 0
/-- The budget of a group is free. -/
def budgetFits (s : State) (t : Thread) : Bool := budgetHeld s t.cu t.barrel + t.budget ≤ 1792

/-! ### Wake conditions (R72, R386) -/

/-- The condition of the blocking point at which a group stands holds; of a load, that its reply has come, a refusal too (R388). -/
def wakeHolds (s : State) (tid : Nat) (t : Thread) : Bool :=
  if t.blk.map (·.stage) = some loadPark then t.log.all fun e => e.state = 1
  else
  match front s tid t with
  | .trap _ => true
  | .form _ opc f =>
    match opc with
    | 0x00C => (match t.blk with | some b => decide (b.val < (barOf s t f).phase) | none => true)
    | 0x241 =>
      (match t.blk with
        | some k => k.stage = tbClosed || phasePast (s.tbObject t (tbObj f)) k.aux
        | none => true)
    | 0x1C3 => phPassed (phPhase (phRecord s t.wg (phOff s tid t f))) (phB s tid t f).toNat
    | 0x18F =>
      (match t.blk with
        | some b => (mselMons f t).any (fun p => p.2.fired) || (b.aux ≠ 2 ^ 32 - 1 && b.val + b.aux ≤ s.ns)
        | none => true)
    | 0x283 =>
      (match nget (s.ctx t.ctx).objs (Forms.ex f 3 0), s.wg t.wg with
        | some o, some g => o.done || !(ngetD o.lists g.clid []).isEmpty
        | _, _ => true)
    | _ => true

/-- A parked group whose condition has fired. -/
def woken (s : State) (tid : Nat) : Bool :=
  match s.thread tid with
  | some t => t.place = .parked && t.fz.isNone && wakeHolds s tid t
  | none => false

/-- WAKE_CONDITION_FIRES (R72, R386, R388): the group is restored to pending once its budget is free. -/
def execWakeConditionFires (thread : Nat) (s : State) : Outcome State Fault Refusal :=
  match s.thread thread with
  | none => .next s
  | some t =>
    let here := match s.wg t.wg with | some g => !g.evicted && !g.killed | none => false
    if here && woken s thread && !s.halting t.ctx && budgetFits s t && pendingRoom s t.cu t.barrel then
      .next (s.setThread thread 
        { t with place := .pending, waits := false, readySince := s.cyc, swaps := 0, overdue := none, behind := 0, woke := none
                 blk := if t.blk.map (·.stage) = some loadPark then none else t.blk })
    else .next s

/-- A woken parked group of a launch goes before its waiting groups (R72). -/
def parkedFirst (s : State) (t : Thread) : Bool :=
  (onBarrel s t.cu t.barrel).any fun p => p.2.launch = t.launch && woken s p.1

/-- Waiting groups take budget in order of admission, which is the order of their names, while the registers and the pending places of
their barrel allow it (R67, R68, R384, R395). -/
def grantBudgets (s : State) : State :=
  (s.thr.foldl (fun (acc : State × List Nat) p =>
    let (s, shut) := acc
    let t := p.2
    let k := t.cu * 4 + t.barrel
    if !(t.isGroup && t.place = .waiting && t.fz.isNone && !s.halting t.ctx) then acc
    else if shut.contains k || !budgetFits s t || !pendingRoom s t.cu t.barrel || parkedFirst s t then (s, k :: shut)
    else (s.modThread p.1 fun u => { u with place := .pending, readySince := s.cyc, behind := 0 }, shut)) (s, [])).1

/-- A parked group's condition holds from now on, or does not (R386). -/
def markWoken (s : State) : State :=
  { s with thr := nmap s.thr fun tid t =>
      if t.place = .parked then { t with woke := if woken s tid then (t.woke <|> some s.cyc) else none } else t }

/-! ### The park area (R373) -/

/-- What the area holds for a parked group, and for an evicted workgroup. -/
def groupPark : Nat := 48 * 1024
def wgPark : Nat := 1408 * 1024

/-- The owner that stands for a workgroup. -/
def wgOwner (w : Nat) : Nat := 2 ^ 64 + w

/-- The lowest offset at which a number of bytes is free. -/
def parkFit (l : List ParkBlock) (size : Nat) : Nat :=
  ((leastOf ((0 :: l.map fun b => b.off + b.size).filter fun o => l.all fun b => b.off + b.size ≤ o || o + size ≤ b.off))).getD 0

/-- The offset of an owner's block, held already or free. The area ends where the context's tables let nothing be written on from its
base (log 31). -/
def parkPlace (s : State) (c owner size : Nat) : Option Nat :=
  let k := s.ctx c
  let base := bits k.parkb 56 12 * 4096
  let off := match k.park.find? fun b => b.owner = owner with | some b => b.off | none => parkFit k.park size
  let may := fun (i : Nat) => match walk s c (base + off + 4096 * i) with
    | some x => reW x.e && !reImm x.e && !s.tileLost x
    | none => false
  if base + off + size ≤ 2 ^ 57 && (List.range (size / 4096)).all may then some off else none

/-- Save into the park area through the die's L2, at CL; tells whether it is done. The bytes that stand for the state are open. -/
def parkWrite (s : State) (cu c owner size : Nat) : State × Bool :=
  match parkPlace s c owner size with
  | none => (s, false)
  | some off =>
    let n := s.env.freeCtr
    let blocks := (List.range (size / 64)).map fun i => (List.range 64).map fun j => Config.parkByte n (64 * i + j)
    let s := s.modCtx c fun k =>
      { k with park := if k.park.any fun b => b.owner = owner then k.park else k.park ++ [{ owner := owner, off := off, size := size }] }
    match writeImage s cu c (bits (s.ctx c).parkb 56 12 * 4096 + off) blocks with
    | (s, .ok _) => ({ s with env := { s.env with freeCtr := n + 1 } }, true)
    | (s, _) => (s, false)

/-- Blocks whose group is parked no more, or whose workgroup is not evicted, are free. -/
def trimPark (s : State) : State :=
  let keeps := fun (b : ParkBlock) =>
    if b.owner < 2 ^ 64 then (match s.thread b.owner with | some t => decide (t.place = .parked) | none => false)
    else match s.wg (b.owner - 2 ^ 64) with | some g => g.evicted | none => false
  { s with ctxs := nmap s.ctxs fun _ k => { k with park := k.park.filter keeps } }

/-! ### Parking (R110, R385, R386) -/

/-- The code line of a PC of a thread. -/
def pcLine (s : State) (t : Thread) (pc : Word64) : Option (List Byte) := (translate s t.cu t.ctx (pc.toNat / 64 * 64)).map (lineBytes s)

/-- The blocking-point instructions in the slots of a line before an offset. -/
def blockingBefore (t : Thread) (l : List Byte) (off : Nat) : Nat :=
  ((List.range (off / 12)).filter fun k =>
    let w := bytesWord ((l.drop (12 * k)).take 12)
    match decode t.kind w with
    | .instr _ => isBlocking (opcOf w) (fieldsOf w)
    | .illegal _ _ => false).length

/-- The place of the liveness record for a thread's blocking-point instruction at a PC (R385). -/
def livenessAt (s : State) (t : Thread) (pc : Word64) : Option Xl :=
  match s.launchOf t, pcLine s t pc with
  | some l, some line =>
    let ltix := leNat ((line.drop 60).take 2)
    if l.lr.ltab = 0 || ltix = 0xFFFF then none
    else
      let va := l.lr.ltab + 64 * (ltix + blockingBefore t line (pc.toNat % 64))
      if va < 2 ^ 57 then walk s t.ctx va else none
  | _, _ => none

/-- The live mask of such a record, when it is accepted (R385). -/
def livenessMask (s : State) (x : Xl) (pc : Word64) : Option Nat :=
  if !reRd x.e || !reImm x.e || (!x.host && (s.smeta x.sector).poi) || s.tileLost x then none
  else
    let r := leNat (lineBytes s x)
    if r >>> 448 ≠ 0 || (r >>> 320) % 2 ^ 64 ≠ 0 || (r >>> 384) % 2 ^ 64 ≠ pc.toNat then none else some (r % 2 ^ 320)

/-- A group of the barrel has waited without budget for 2,048 clk: one that has not begun, or a parked one whose condition holds
(R386). -/
def budgetWanted (s : State) (t : Thread) : Bool :=
  (onBarrel s t.cu t.barrel).any fun p => p.2.isGroup &&
    ((p.2.place = .waiting && p.2.readySince + 2048 ≤ s.cyc) || p.2.woke.any fun w => w + 2048 ≤ s.cyc)

/-- A pending group that may be parked (R386). -/
def mayPark (s : State) (tid : Nat) (t : Thread) : Bool :=
  t.place = .pending && t.fz.isNone && !s.halting t.ctx
    && (((standsAt s tid t).isSome && !wakeHolds s tid t && t.log.isEmpty) || (loadStands s tid t).isSome)
    && t.postCause.isNone
    && !((s.cu t.cu).mq.any fun m => m.tid = tid && m.bufRegs ≠ 0)
    && !(s.fab.boxes.any fun p => p.2.used && p.2.ctx = t.ctx && p.2.wg = t.wg)
    && (parkPlace s t.ctx tid groupPark).isSome
    && (budgetWanted s t || (s.cu t.cu).reclaim)

/-- The names that a park keeps beside the live ones: the destination of the load on which the group waits (R386). -/
def loadNames (t : Thread) : List Nat :=
  match t.log with
  | [e] => (match e.dest with | .vector l => l.map (·.1) | _ => [])
  | _ => []

/-- The blocking-point instruction at which a group would park. -/
def parkPc (s : State) (tid : Nat) (t : Thread) : Word64 := ((loadStands s tid t).map (·.pc)).getD t.pc

/-- A group is parked: the live names and those that its load writes stay, every other name is released (R62, R386). -/
def parkThread (s : State) (tid : Nat) (t : Thread) (lv : Nat) : Thread :=
  let names := loadNames t
  { t with place := .parked, vmap := t.vmap.filter (fun p => lv.testBit p.1 || names.contains p.1), swaps := 0, overdue := none,
           blk := if (loadStands s tid t).isSome then some { stage := loadPark, val := 0, aux := 0 } else t.blk }

/-- GROUP_PARK (R373, R386): the liveness record is read, the state is written into the park area, and the group parks once that is
done. -/
def execGroupPark (thread : Nat) (s : State) : Outcome State Fault Refusal :=
  match s.thread thread with
  | none => .next s
  | some t =>
    if !mayPark s thread t then .next s
    else
      match livenessAt s t (parkPc s thread t) with
      | none => .next s
      | some x =>
        match livenessMask s x (parkPc s thread t) with
        | none => .next (requestCtx s t.ctx x true)
        | some lv =>
          let (u, done) := parkWrite (requestCtx s t.ctx x true) t.cu t.ctx thread groupPark
          .next (if done then u.modThread thread fun y => parkThread s thread y lv else u)

/-! ### Passing a CU on (R387) -/

/-- A launch of another context has waited its slice for a CU of this die, and the resident context has had its own. -/
def reclaimDue (s : State) (cu : Nat) : Bool :=
  match (s.cu cu).ctx with
  | none => false
  | some c =>
    let held := (s.cu cu).since + (s.ctx c).slice ≤ s.env.clk
    let prio := (wgsOn s cu).foldl (fun a g => match nget s.lch g.launch with | some l => max a (s.prioOf l) | none => a) 0
    held && s.lch.any fun p =>
      let l := p.2
      l.ctx ≠ c && l.waiting s && prio ≤ s.prioOf l && l.since + (s.ctx l.ctx).slice ≤ s.env.clk
        && (nextPlace s p.1 l).isNone
        && (if l.lr.pen then (l.placeTab[l.next]?).bind placeDie = some (dieOf cu) else (candDies s l).contains (dieOf cu))

/-- A workgroup can leave its CU: its groups are parked, or have exited with no access open (R387), and it has registered no mailbox,
which would name the die and the CU that it leaves (R325). -/
def canLeave (s : State) (w : Nat) (g : Wg) : Bool :=
  !g.killed && !(s.fab.boxes.any fun p => p.2.used && p.2.ctx = g.ctx && p.2.wg = w)
    && (g.groups.any fun tid => match s.thread tid with | some t => decide (t.place = .parked) | none => false)
    && g.groups.all fun tid =>
        match s.thread tid with
        | some t => t.place = .parked || (t.place = .exited && t.log.isEmpty)
        | none => true

/-- Every workgroup of a CU can leave, and no tadpole is there. -/
def cuLeaves (s : State) (cu : Nat) : Bool :=
  let u := s.cu cu
  u.pool.isEmpty && u.spawnq.isEmpty && u.agent.isNone
    && (s.wgs.filter fun p => p.2.cu = cu && !p.2.evicted).all fun p => canLeave s p.1 p.2

/-- The workgroups that leave a CU are saved into their context's park area; tells whether that is done. -/
def saveWgs (s : State) (cu : Nat) : State × Bool :=
  (s.wgs.filter fun p => p.2.cu = cu && !p.2.evicted).foldl (fun (acc : State × Bool) p =>
    let (s, done) := parkWrite acc.1 cu p.2.ctx (wgOwner p.1) wgPark
    (s, acc.2 && done)) (s, true)

/-- CU_RECLAIM (R387): reclaiming begins, and once every group is parked or has exited the workgroups are saved and evicted. -/
def execCuReclaim (cu : Nat) (s : State) : Outcome State Fault Refusal :=
  let u := s.cu cu
  if !u.reclaim then .next (if reclaimDue s cu then s.modCu cu fun u => { u with reclaim := true } else s)
  else if !cuLeaves s cu || (match u.ctx with | some c => s.halting c | none => false) then .next s
  else
    let (s, ok) := flushCus s [cu]
    let (s, kept) := if ok then saveWgs s cu else (s, false)
    if !kept then .next s
    else
      let pack : Nat → Wg → Wg := fun w g =>
        if g.cu = cu && !g.evicted then { g with evicted := true, mqSave := g.mqSave ++ u.mq.filter fun m => m.wg = w } else g
      let s := { s with wgs := nmap s.wgs pack }
      .next (s.modCu cu fun u => { u with ctx := none, reclaim := false, l1 := [], rlb := [], mq := [] })

/-- DISPATCH_OPPORTUNITY (R378-R384, R387). -/
def execDispatchOpportunity (die : Nat) (s : State) : Outcome State Fault Refusal :=
  .next (opportunity s die (woken s))

end Sys2Proof.Machine
end

