-- ==== Sys2Proof/Machine/Wrk.lean ====
section
/-! DEFINITION. The forms of the work engine: LAUNCH, QTOK, work lists (R389-R394), and the termination detector. -/

namespace Sys2Proof.Machine

open Host (Outcome)

/-! ### LAUNCH (R389) -/

/-- The device launch buffer's size (R395). -/
def devBufSize : Nat := 256

/-- LAUNCH (R389): the checks, the release action, room in the buffer, then the entry. -/
def execLaunch (f : Fields) (s : State) : Outcome State Fault Refusal :=
  issue 0x280 f s fun s tid t =>
    if t.eff f = 0 then retire 0x280 f s tid t {}
    else
      let a := uniVal s tid t f.a.toNat
      if bits a 5 0 ≠ 0 then takeFault s tid (trapSyn 0x80000050 (t.live f)) t.pc
      else if bits a 63 57 ≠ 0 then takeFault s tid { cause := cXLAT } t.pc
      else
        let (s, ok) := if accOrder f = 2 then releaseAtPc s tid t (accScope f) else (s, true)
        let k := s.ctx t.ctx
        if !ok || devBufSize ≤ k.devBuf.length then
          (if t.stepping = 1 then s.modThread tid fun u => { u with waits := true }
           else standIn 0x280 s tid { stage := 1, val := 0, aux := 0 })
        else
          let n := (k.devCount + 1) % 2 ^ 32
          let s := s.modCtx t.ctx fun k => { k with devCount := n, devBuf := k.devBuf ++ [(a.toNat, n)] }
          retire 0x280 f s tid t { writes := [.uni f.d.toNat (BitVec.ofNat 64 n)] }

/-! ### QTOK (R390) -/

/-- The syndrome of a handle with a reserved bit. -/
def badHandle : Nat := 0x80000053

/-- QTOK.SIG: the group's earlier stores, atomics and REDs are performed at WG first; the producer is this CU. -/
def execQtokSig (f : Fields) (s : State) : Outcome State Fault Refusal :=
  issue 0x281 f s fun s tid t =>
    if t.eff f = 0 then retire 0x281 f s tid t {}
    else
      let h := uniVal s tid t f.a.toNat
      if bits h 31 12 ≠ 0 then takeFault s tid (trapSyn badHandle (t.live f)) t.pc
      else if t.log.any fun e => isStore e.opc || isAtomic e.opc then s.modThread tid fun u => { u with waits := true }
      else
        let key := (s.ctx t.ctx).key
        let s := signalToken s key (tokIdx h) [some t.cu]
        retire 0x281 f s tid t { writes := [.uni f.d.toNat (BitVec.ofNat 64 (tokCnt (s.token key (tokIdx h))))] }

/-- QTOK.GET. -/
def execQtokGet (f : Fields) (s : State) : Outcome State Fault Refusal :=
  issueAct 0x281 f s fun s tid t =>
    if t.live f = 0 then .null
    else
      let h := uniVal s tid t f.a.toNat
      if bits h 31 12 ≠ 0 then .trap (trapSyn badHandle (t.live f))
      else .done { writes := [.uni f.d.toNat (BitVec.ofNat 64 (tokCnt (s.token (s.ctx t.ctx).key (tokIdx h))))] }

/-- QTOK.RESET. -/
def execQtokReset (f : Fields) (s : State) : Outcome State Fault Refusal :=
  issue 0x281 f s fun s tid t =>
    if t.live f = 0 then retire 0x281 f s tid t {}
    else
      let h := uniVal s tid t f.a.toNat
      if bits h 31 12 ≠ 0 then takeFault s tid (trapSyn badHandle (t.live f)) t.pc
      else
        let key := (s.ctx t.ctx).key
        let v := tokCnt (s.token key (tokIdx h))
        retire 0x281 f (resetToken s key (tokIdx h)) tid t { writes := [.uni f.d.toNat (BitVec.ofNat 64 v)] }

/-! ### Work lists (R391-R394) -/

/-- The object that EXT names. -/
def wlObj (f : Fields) : Nat := Forms.ex f 3 0
/-- Items that a list holds at most. -/
def wlMax : Nat := 65536

/-- The object bound to the group's launch, binding it when it is free; none when another live launch has it (R391). -/
def wlBind (s : State) (t : Thread) (n : Nat) : Option (State × WorkObj) :=
  let fresh : WorkObj := { launch := t.launch, lists := [], ops := 0, waves := 0, snap := 0, done := false }
  let bind := fun (s : State) => (s.modCtx t.ctx fun k => { k with objs := nset k.objs n fresh }, fresh)
  match nget (s.ctx t.ctx).objs n with
  | none => some (bind s)
  | some o =>
    if o.launch = t.launch then some (s, o)
    else if (nget s.lch o.launch).isSome then none
    else some (bind s)

def State.setObj (s : State) (c n : Nat) (o : WorkObj) : State := s.modCtx c fun k => { k with objs := nset k.objs n o }

/-- The fault for an object of another launch. -/
def wlOther (t : Thread) (f : Fields) : Trap := trapSyn 0x80000051 (t.live f)

/-- The cluster of a group. -/
def State.clidOf (s : State) (t : Thread) : Nat := ((s.wg t.wg).map (·.clid)).getD 0

/-- WLAPP's effect on an object: the status and the object after it (R393). -/
def WorkObj.append (o : WorkObj) (k : Nat) (x : Word64) : Nat × WorkObj :=
  let l := ngetD o.lists k []
  if o.done then (2, o)
  else if wlMax ≤ l.length then (1, o)
  else (0, { o with lists := nset o.lists k (l ++ [x]), ops := o.ops + 1 })

/-- WLAPP (R393): stage 1 performs the release action. -/
def execWlapp (f : Fields) (s : State) : Outcome State Fault Refusal :=
  issue 0x282 f s fun s tid t =>
    if t.eff f = 0 then retire 0x282 f s tid t {}
    else
      match wlBind s t (wlObj f) with
      | none => takeFault s tid (wlOther t f) t.pc
      | some (s, _) =>
        let k := (uniVal s tid t f.a.toNat).toNat % 2 ^ 32
        let clusters := ((s.launchOf t).map (·.clusters)).getD 0
        if clusters ≤ k then takeFault s tid (trapSyn 0x80000052 (t.live f)) t.pc
        else
          let (s, ok) := if accOrder f = 2 then releaseAtPc s tid t (accScope f) else (s, true)
          if !ok then
            (if t.stepping = 1 then s.modThread tid fun u => { u with waits := true }
             else standIn 0x282 s tid { stage := 1, val := 0, aux := 0 })
          else
            match nget (s.ctx t.ctx).objs (wlObj f) with
            | none => s
            | some o =>
              let (st, o) := o.append k (uniVal s tid t f.b.toNat)
              retire 0x282 f (s.setObj t.ctx (wlObj f) o) tid t { writes := [.uni f.d.toNat (BitVec.ofNat 64 st)] }

/-- The predicate V of WLTAKE. -/
def wlPred (f : Fields) : Nat := Forms.ex f 7 4

/-- The end of WLTAKE with an item, or with none (R393). -/
def wltakeEnd (f : Fields) (s : State) (tid : Nat) (t : Thread) (x : Option Word64) : State :=
  let s := if accOrder f = 1 then acquireL1 s t.cu else s
  retire 0x283 f s tid t
    { writes := [.uni f.d.toNat (x.getD 0), .prd (wlPred f) (if x.isSome then 0xFFFFFFFF else 0) (t.live f)] }

/-- WLTAKE (R393): stage 283 waits on an empty list. -/
def execWltake (f : Fields) (s : State) : Outcome State Fault Refusal :=
  issue 0x283 f s fun s tid t =>
    if t.live f = 0 then retire 0x283 f s tid t {}
    else
      match wlBind s t (wlObj f) with
      | none => takeFault s tid (wlOther t f) t.pc
      | some (s, o) =>
        let k := s.clidOf t
        match ngetD o.lists k [] with
        | x :: rest =>
          wltakeEnd f (s.setObj t.ctx (wlObj f) { o with lists := nset o.lists k rest, ops := o.ops + 1 }) tid t (some x)
        | [] =>
          if o.done then wltakeEnd f s tid t none
          else if t.stepping = 1 then s.modThread tid fun u => { u with waits := true }
          else standIn 0x283 s tid { stage := 283, val := wlObj f, aux := 0 }

/-- WLSTAT (R393). -/
def execWlstat (f : Fields) (s : State) : Outcome State Fault Refusal :=
  issue 0x284 f s fun s tid t =>
    if t.live f = 0 then retire 0x284 f s tid t {}
    else
      match wlBind s t (wlObj f) with
      | none => takeFault s tid (wlOther t f) t.pc
      | some (s, o) =>
        let n := (ngetD o.lists (s.clidOf t) []).length
        let v := n + 2 ^ 32 + (if o.done then 2 ^ 33 else 0)
        retire 0x284 f s tid t { writes := [.uni f.d.toNat (BitVec.ofNat 64 v)] }

/-! ### Termination (R394) -/

/-- The object is quiescent: lists empty, every workgroup started, every group left waiting to take from it. -/
def quiescent (s : State) (c n : Nat) (o : WorkObj) : Bool :=
  (match nget s.lch o.launch with | some l => decide (l.next = l.clusters) | none => false)
    && o.lists.all (fun p => p.2.isEmpty)
    && s.thr.all fun p =>
      let t := p.2
      !(t.isGroup && t.ctx = c && t.launch = o.launch) || t.place = .exited
        || (t.fz.isNone && t.place ≠ .waiting && (match t.blk with | some b => b.stage = 283 && b.val = n | none => false))

/-- TERMINATION_WAVES (R394): a wave finds the object quiescent; the next one finds it so still, with no append or take between.
Detection pauses in brumation. -/
def execTerminationWaves (ctx object : Nat) (s : State) : Outcome State Fault Refusal :=
  match nget (s.ctx ctx).objs object with
  | none => .next s
  | some o =>
    if o.done || s.halting ctx then .next s
    else if !quiescent s ctx object o then .next (s.setObj ctx object { o with waves := 0 })
    else if o.waves = 1 && o.snap = o.ops then .next (s.setObj ctx object { o with done := true })
    else .next (s.setObj ctx object { o with waves := 1, snap := o.ops })

end Sys2Proof.Machine
end

