-- ==== Sys2Proof/Machine/Sys.lean ====
section
/-! DEFINITION. The module registers (R417-R419) and the forms of system tadpoles: PRD, PWR, RLBINV, CTXSV, CTXLD, RESUMEJ, CURET
(R415-R420, R431-R433, R448). -/

namespace Sys2Proof.Machine

open Host (Outcome)

/-! ### The context block (R372, R402, R443) -/

def Ctx.reg (k : Ctx) (o : Nat) : Word64 :=
  match o with
  | 0x00 => k.ctl | 0x08 => k.dieset0 | 0x10 => k.dieset1 | 0x18 => k.parkb | 0x20 => k.sysent | 0x28 => k.brst
  | 0x30 => k.rtbase | 0x38 => k.rtcnt | _ => 0

/-- A context that begins to run with nothing alive is a new one: its touched-dies mask and its CU handles start anew (R21, R404). -/
def newContext (s : State) (c : Nat) (v : Word64) : Bool :=
  v.getLsbD 0 && !(s.ctx c).canDispatch && !(s.ctx c).brst.getLsbD 2 && !(s.lch.any fun p => p.2.ctx = c)
    && !(s.thr.any fun p => p.2.ctx = c)

/-- The digest of the code at the context-0 SYSENT, taken when it is written (R454): of its code line (log 15). -/
def sysentDigest (s : State) (v : Word64) : List Byte :=
  match walk s 0 (v.toNat / 64 * 64) with
  | some x => Config.sha384 (lineBytes s x)
  | none => Config.sha384 []

def writeCtx (s : State) (c o : Nat) (v : Word64) : State :=
  match o with
  | 0x00 =>
    let fresh := newContext s c v
    s.modCtx c fun k =>
      { k with ctl := v &&& 0xFFFFFFFF0000001F, tdm := if fresh then 0 else k.tdm, cuh := if fresh then [] else k.cuh }
  | 0x08 => s.modCtx c fun k => { k with dieset0 := v }
  | 0x10 => s.modCtx c fun k => { k with dieset1 := v &&& 0xFFFFF }
  | 0x18 => s.modCtx c fun k => { k with parkb := v &&& 0x01FFFFFFFFFFF000 }
  | 0x20 =>
    if slotOk v then
      let d := sysentDigest s (v &&& 0x01FFFFFFFFFFFFFF)
      s.modCtx c fun k => { k with sysent := v &&& 0x01FFFFFFFFFFFFFF, sysMeas := d }
    else s
  | 0x30 => s.modCtx c fun k => { k with rtbase := v &&& 0x000FFFFFFFFFF001 }
  | 0x38 => s.modCtx c fun k => { k with rtcnt := v &&& 0x1FFFF }
  | _ => s

/-! ### Other registers -/

/-- A word of an entry of the trigger buffer (R419). -/
def trigWord (k : Ctx) (i w : Nat) : Word64 :=
  match k.trig[i]? with
  | none => 0
  | some x =>
    if w = 0 then BitVec.ofNat 64 (x.modn <<< 52 + x.tile <<< 44 + x.syn.toNat <<< 12 + x.cause) else BitVec.ofNat 64 x.time

/-- CUST (R419). -/
def custReg (s : State) (n : Nat) : Word64 :=
  let u := s.cu n
  BitVec.ofNat 64 ((u.pool.length + (if u.agent.isSome then 1 else 0)) <<< 12 + (u.ctx.getD 0) <<< 2 + (if u.ret then 2 else 0)
    + (if u.en then 1 else 0))

/-- A word of a home-set mask (R445). -/
def homeSetReg (s : State) (n w : Nat) : Word64 :=
  let m := ngetD s.mem.homeSets n 0
  if w = 0 then m.extractLsb' 0 64 else (m.extractLsb' 64 20).setWidth 64
def writeHomeSet (s : State) (n w : Nat) (v : Word64) : State :=
  let m := ngetD s.mem.homeSets n 0
  let m : BitVec 84 := if w = 0 then m.extractLsb' 64 20 ++ v else v.extractLsb' 0 20 ++ m.extractLsb' 0 64
  s.modMem fun x => { x with homeSets := nset x.homeSets n m }

/-- A register of a multicast group (R336). -/
def groupReg (g : McGroup) (o : Nat) : Word64 :=
  if o = 0 then g.ctl ||| BitVec.ofNat 64 (g.ver <<< 56)
  else if 16 ≤ o && o < 1040 then (if o % 16 = 0 then ngetD g.mmod (o / 16 - 1) 0 else ngetD g.mhnd (o / 16 - 1) 0)
  else 0
def writeGroup (s : State) (key g o : Nat) (v : Word64) : State :=
  let x := (s.part key).mcast g
  let put := fun (y : McGroup) => s.modPart key fun p => { p with groups := nset p.groups g y }
  if o = 0 then writeGctl s key g v
  else if 16 ≤ o && o < 1040 then
    (if o % 16 = 0 then put { x with mmod := nset x.mmod (o / 16 - 1) (v &&& 0xFFF) } else put { x with mhnd := nset x.mhnd (o / 16 - 1) v })
  else s

/-- TMCTL's bits (R371). -/
def tmctlMask : Word64 := 0x8000000000000FFF

/-! ### The map (R417, R418) -/

/-- Whose registers a read or write reaches: a context, and the partition that it sees. Context 0 reaches every one. -/
structure Reach where
  ctx : Nat
  key : Nat
  deriving DecidableEq, Repr

def Reach.all (r : Reach) : Bool := r.ctx = 0
def Reach.sees (r : Reach) (c : Nat) : Bool := r.all || r.ctx = c

/-- The reach of a tadpole: context 0 sees the partition of its PSEL. -/
def reachOf (s : State) (t : Thread) : Reach := ⟨t.ctx, if t.ctx = 0 then t.pselKey else (s.ctx t.ctx).key⟩

/-! ### Tables that only PRD shows, and the readmission of a peer (R297, R315, R319, R346, R418; log 32) -/

/-- A 64-bit word of a number. -/
def wordAt (n w : Nat) : Word64 := BitVec.ofNat 64 (n >>> (64 * w))
/-- The code of an entry's state (R297). -/
def PState.code : PState → Nat
  | .free => 0 | .pending => 1 | .active => 2 | .marked => 3
/-- The 256 bits of an entry of a persistent-request table (R297). -/
def persistImage (e : PEntry) : Nat :=
  fieldAt ((e.blk.eraseDups.filter (· < 152)).foldl (fun n a => n + 2 ^ a) 0) 152 104 + fieldAt e.rtime 32 72 + fieldAt e.st.code 2 70
    + fieldAt (if e.wr then 1 else 0) 1 69 + fieldAt e.ser 4 65 + fieldAt e.sector 42 6
/-- A partition's contexts map a sector of the pool: an entry about it is one of the partition's own. -/
def keyMaps (s : State) (key sec : Nat) : Bool :=
  s.ctxs.any fun p => p.2.key = key && (List.range (bits p.2.rtcnt 16 0)).any fun i =>
    let e := rangeEntry s p.2 i
    reValid s e && reKind e ≠ 2 && (List.range (reNpg e)).any fun j => rangePage s e j = some (sec / 64)
/-- The packets held at the sender (R345). -/
def heldPackets (s : State) : List Packet := (s.fab.unacked.filter fun u => !u.inj).map (·.pkt) ++ s.fab.held

/-- Such a register as it is read: the entries of the reader's own partition, and for context 0 every one. -/
def readHidden (s : State) (all : Bool) (key : Nat) (h : HiddenReg) : Word64 :=
  match h with
  | .mailbox i w =>
    (match nget s.fab.boxes i with | some b => if w < 2 && (all || b.key = key) then wordAt b.image w else 0 | none => 0)
  | .persistent hm a w =>
    (match nget (s.home hm).ptab a with
      | some e => if w < 4 && (all || keyMaps s key e.sector) then wordAt (persistImage e) w else 0
      | none => 0)
  | .heldPacket i w =>
    (match (heldPackets s)[i]? with | some p => if w < 8 && (all || p.pkey = key) then wordAt (packetImage (sealed p)) w else 0 | none => 0)
  | .readmit => 0

/-- A write of the register that readmits a peer, by context 0: a lost one is up again (R346). -/
def writeHidden (s : State) (all : Bool) (h : HiddenReg) (v : Word64) : State :=
  match h with
  | .readmit =>
    let md := v.toNat % 4096
    if all && nget s.fab.peers md = some .lost then { s with fab := { s.fab with peers := nset s.fab.peers md .up } } else s
  | _ => s

/-- A module register as it is read; one that no chapter assigns reads 0, but where the module keeps what has no address. -/
def readReg (s : State) (r : Reach) (a : Nat) : Word64 :=
  if 0x10000 ≤ a && a < 0x10400 then (if r.all then readFw s ((a - 0x10000) / 64) (a % 64 / 8) else 0)
  else if 0x40000 ≤ a && a < 0x50000 then
    let c := (a - 0x40000) / 64
    if r.sees c then (s.ctx c).reg (a % 64) else 0
  else if 0x60000 ≤ a && a < 0x68000 then s.token r.key ((a - 0x60000) / 8)
  else if 0x70000 ≤ a && a < 0x78000 then
    let c := (a - 0x70000) / 32
    if r.sees c then ((s.ctx c).tdm >>> (8 * (a % 32))).setWidth 64 else 0
  else if 0x80000 ≤ a && a < 0xA0000 then readTb s r.key ((a - 0x80000) / 0x800) (a % 0x800)
  else if 0xA0000 ≤ a && a < 0xC0000 then
    let c := (a - 0xA0000) / 128
    if r.sees c then trigWord (s.ctx c) (a % 128 / 16) (a % 16 / 8) else 0
  else if 0xD0000 ≤ a && a < 0xD0000 + 8 * 5376 then
    let n := (a - 0xD0000) / 8
    let mine := match (s.cu n).ctx with | some c => decide ((s.ctx c).key = r.key) | none => false
    if r.all || mine then custReg s n else 0
  else if 0xE0010 ≤ a && a < 0xE0400 then (if r.all then homeSetReg s ((a - 0xE0000) / 16) (a % 16 / 8) else 0)
  else if a = 0xF0000 then (if r.all then s.mdl.pcap else 0)
  else if a = 0xF0008 then (if r.all then s.mdl.thr else 0)
  else if a = 0xF0010 then (if r.all then s.mdl.tmctl else 0)
  else if 0x200000 ≤ a && a < 0x280000 then groupReg ((s.part r.key).mcast ((a - 0x200000) / 2048)) (a % 2048)
  else match Config.moduleMap a with | some h => readHidden s r.all r.key h | none => 0

/-- The registers that a chapter gives an address and that a program only reads: a write of one is ignored (R3, R21, R417). -/
def readOnlyReg (a : Nat) : Bool :=
  (0x60000 ≤ a && a < 0x68000) || (0x70000 ≤ a && a < 0x78000) || (0xA0000 ≤ a && a < 0xC0000)
    || (0xD0000 ≤ a && a < 0xD0000 + 8 * 5376) || a = 0xF0008

/-- The effect of a write of a module register. -/
def writeReg (s : State) (r : Reach) (a : Nat) (v : Word64) : State :=
  if 0x10000 ≤ a && a < 0x10400 then (if r.all then writeFw s ((a - 0x10000) / 64) (a % 64 / 8) v else s)
  else if 0x40000 ≤ a && a < 0x50000 then (if r.all then writeCtx s ((a - 0x40000) / 64) (a % 64) v else s)
  else if 0x80000 ≤ a && a < 0xA0000 then writeTb s r.key ((a - 0x80000) / 0x800) (a % 0x800) v
  else if 0xE0010 ≤ a && a < 0xE0400 then (if r.all then writeHomeSet s ((a - 0xE0000) / 16) (a % 16 / 8) v else s)
  else if a = 0xF0000 then (if r.all then { s with mdl := { s.mdl with pcap := v &&& 0xFFFF } } else s)
  else if a = 0xF0010 then (if r.all then { s with mdl := { s.mdl with tmctl := v &&& tmctlMask } } else s)
  else if 0x200000 ≤ a && a < 0x280000 then writeGroup s r.key ((a - 0x200000) / 2048) (a % 2048) v
  else if readOnlyReg a then s
  else match Config.moduleMap a with | some h => writeHidden s r.all h v | none => s

/-- TMCTL_WRITE (R371). -/
def execTmctlWrite (value : Word64) (s : State) : Outcome State Fault Refusal :=
  .next { s with mdl := { s.mdl with tmctl := value &&& tmctlMask } }

/-- The size of BAR0 (R436); the addresses that follow it name the ports' BAR2 windows of 64 KiB (log 61). -/
def bar0Bytes : Nat := 2 ^ 25

/-- A BAR0 write through port 0 (R374, R437): a queue's registers, directly or by the doorbell page; any other is ignored. -/
def writeBar0 (s : State) (a : Nat) (v : Word64) : State :=
  let blk := fun (c o : Nat) =>
    let q := o / 64 % 4
    match o % 64 with
    | 0x00 => s.modQueue c q fun x => { x with base := v &&& 0x01FFFFFFFFFFF000 }
    | 0x08 => s.modQueue c q fun x => { x with ctl := v &&& 0xFFFF005F, port := 0 }
    | 0x10 => doorbell s c q v
    | 0x20 => s.modQueue c q fun x => { x with cpl := v &&& 0x01FFFFFFFFFFFFF9 }
    | _ => s
  if 0x100000 ≤ a && a < 0x140000 then blk ((a - 0x100000) / 256) (a % 256)
  else if 0x1000000 ≤ a && a < 0x1400000 && a % 4096 < 256 then blk ((a - 0x1000000) / 4096) (a % 256)
  else if bar0Bytes ≤ a && a < bar0Bytes + 4 * 65536 && a % 8 = 0 then writeMsix s ((a - bar0Bytes) / 65536) (a % 65536) v
  else s

/-- The 64 bits that a host reads at an aligned BAR0 offset (R374, R437): MSTATUS, the configuration record, a queue's registers, directly
or by the doorbell page, of which QTAIL can only be written; any other offset reads zero. -/
def readBar0 (s : State) (a : Nat) : Word64 :=
  let blk := fun (c o : Nat) =>
    let x := (s.ctx c).queue (o / 64 % 4)
    match o % 64 with
    | 0x00 => x.base
    | 0x08 => x.ctl
    | 0x18 => BitVec.ofNat 64 (x.head % 2 ^ 32)
    | 0x20 => x.cpl
    | _ => 0
  if a = 0 then s.mdl.mstatus
  else if 0x1000 ≤ a && a < 0x1400 then BitVec.ofNat 64 (leNat ((s.mdl.config.drop (a - 0x1000)).take 8))
  else if 0x100000 ≤ a && a < 0x140000 then blk ((a - 0x100000) / 256) (a % 256)
  else if 0x1000000 ≤ a && a < 0x1400000 && a % 4096 < 256 then blk ((a - 0x1000000) / 4096) (a % 256)
  else if bar0Bytes ≤ a && a < bar0Bytes + 4 * 65536 then readMsix s ((a - bar0Bytes) / 65536) (a % 65536)
  else 0

/-- REGISTER_WRITE (R417, R437): a module register is written with the reach of context 0. -/
def execRegisterWrite (bar0 : Bool) (address : Nat) (value : Word64) (s : State) : Outcome State Fault Refusal :=
  .next (if bar0 then writeBar0 s address value
    else if address % 8 ≠ 0 then s
    else writeReg s ⟨0, 0⟩ address value)

/-! ### PRD and PWR -/

/-- PSEL (R418). -/
def pselAddr : Nat := 0xC0000
/-- The fault for an address that is not a multiple of 8. -/
def regTrap (t : Thread) (f : Fields) : Trap := trapSyn 0x80000070 (t.live f)

/-- The address operand: A, or IMM32. -/
def sysA (s : State) (tid : Nat) (t : Thread) (f : Fields) : Nat := if f.xk then f.x.toNat else (uniVal s tid t f.a.toNat).toNat

/-- PRD (R417). -/
def execPrd (f : Fields) (s : State) : Outcome State Fault Refusal :=
  issueAct 0x300 f s fun s tid t =>
    if t.live f = 0 then .null
    else
      let a := sysA s tid t f
      if a % 8 ≠ 0 then .trap (regTrap t f)
      else
        let v := if a = pselAddr then BitVec.ofNat 64 (t.pselCtx <<< 16 + t.pselKey) else readReg s (reachOf s t) a
        .done { writes := [.uni f.d.toNat v] }

/-- The GCTL that an address names, if it names one. -/
def gctlOf (a : Nat) : Option Nat := if 0x200000 ≤ a && a < 0x280000 && a % 2048 = 0 then some ((a - 0x200000) / 2048) else none

/-- PWR (R417, R418). A write of GCTL completes once every packet latched under an older version has left the fabric (R337):
stage 1 waits for that. -/
def execPwr (f : Fields) (s : State) : Outcome State Fault Refusal :=
  issue 0x301 f s fun s tid t =>
    if t.live f = 0 then retire 0x301 f s tid t {}
    else
      let a := (uniVal s tid t f.a.toNat).toNat
      let v := uniVal s tid t f.b.toNat
      let r := reachOf s t
      if a % 8 ≠ 0 then takeFault s tid (regTrap t f) t.pc
      else if a = pselAddr then
        retire 0x301 f s tid t {} fun u => if t.ctx = 0 then { u with pselCtx := bits v 25 16, pselKey := bits v 15 0 } else u
      else
        let s := if t.blk.isSome then s else writeReg s r a v
        match gctlOf a with
        | some g => if groupDrains s r.key g then standIn 0x301 s tid { stage := 1, val := g, aux := 0 } else retire 0x301 f s tid t {}
        | none => retire 0x301 f s tid t {}

/-! ### RLBINV (R448, R449) -/

/-- A range of addresses meets `k` bytes from `a`. -/
def meets (lo n a k : Nat) : Bool := a < lo + n && lo < a + k

/-- A request at an agent's L2 or port has gathered a token of its sector and waits for more (R448). A host line is taken and used in one
step, so that no request waits with one. -/
def gathered (s : State) (a : Nat) (x : Xl) : Bool :=
  !x.host && (nget s.mem.trans (l2key a x.sector)).isSome && (s.line a x.sector).n ≠ 0

/-- An access of a context to a range is at a home, or has gathered a token (R448). -/
def accessWaits (s : State) (c lo n : Nat) : Bool :=
  s.thr.any fun p => p.2.ctx = c && p.2.log.any fun e => e.state = 0 && e.todo.any fun l =>
    let a := (e.addr l).toNat
    let sys := accAs e.f = 2
    let va := if sys then a % 2 ^ 52 else a
    (accAs e.f = 0 || (sys && a / 2 ^ 52 = s.mdl.number)) && meets lo n va e.bytes
      && (e.sent.getLsbD l
        || (if sys then keyXl s (s.ctx c).key va else translate s p.2.cu c va).any (gathered s (dieOf p.2.cu)))

/-- A packet that a port performs under a context's tables has gathered a token (R448). -/
def packetWaits (s : State) (c lo n : Nat) : Bool :=
  let at' := fun (p : Packet) (va len : Nat) => meets lo n va len &&
    (keyWalk s p.pkey va).any fun x => x.1 = c && gathered s (portAgent p.plane) x.2
  (s.fab.rxq.any fun q => q.2.parts.any fun a => at' q.2.pkt a.1 a.2)
    || s.fab.net.any fun p => p.dmod = s.mdl.number && 5 ≤ p.pkind && p.pkind ≤ 7 && at' p (p.daddr.toNat % 2 ^ 52) (max 1 p.len)

/-- A copy or fabric command of a context that runs has gathered a token for its next bytes (R448, R449). -/
def engineWaits (s : State) (c lo n : Nat) : Bool :=
  let at' := fun (cu a : Nat) => meets lo n a 1 && (translate s cu c a).any (gathered s (dieOf cu))
  !s.halting c &&
    ((s.wgs.any fun p => p.2.ctx = c && !p.2.evicted && p.2.ring.any fun m => m.running && m.held.isNone && !m.stepped &&
        (List.range 64).any fun i => (m.das = 0 && (m.errorAt true i).any (at' p.2.cu)) || (m.sas = 0 && (m.errorAt false i).any (at' p.2.cu)))
      || s.fab.cmds.any fun p => p.2.ctx = c && p.2.sent < p.2.total && p.2.held.isNone && !p.2.stepped &&
        (List.range (p.2.part p.2.sent).2).any fun i => at' p.2.cu (p.2.local' + (p.2.part p.2.sent).1 + i))

/-- A matrix operation of a CU is stopped: by brumation, or held back by FZSTEP or a fault (R449). -/
def matStopped (s : State) (l : List MatOp) (o : MatOp) : Bool :=
  matHeld l o || match s.wg o.wg with | some g => s.halting g.ctx | none => true

/-- The operation is one of a context. -/
def matOf (s : State) (c : Nat) (o : MatOp) : Bool := match s.wg o.wg with | some g => decide (g.ctx = c) | none => false

/-- Drains of a context that run and have been translated to pages of a range (R449). -/
def drainsRun (s : State) (c lo n : Nat) : Bool :=
  s.cus.any fun p => p.2.mq.any fun o =>
    matOf s c o && !matStopped s p.2.mq o && o.dst.any fun d => d.space = 0 && meets lo n (d.addr / 4096 * 4096) 4096

/-- A drain forgets its translations to pages of a range. -/
def MatOp.forget (o : MatOp) (lo n : Nat) : MatOp :=
  { o with dst := o.dst.map fun d => if d.space = 0 && meets lo n (d.addr / 4096 * 4096) 4096 then { d with e := 0 } else d }

/-- Every cached range entry or page of a context that meets a range goes (R448); a stopped drain keeps no translation, nor an evicted
one (R449). -/
def dropXl (s : State) (c lo n : Nat) : State :=
  let s := { s with
    cus := nmap s.cus fun _ u =>
      { u with rlb := u.rlb.filter fun x => !(x.ctx = c && meets lo n (x.span.1 * 4096) (x.span.2 * 4096)),
               mq := u.mq.map fun o => if matOf s c o && matStopped s u.mq o then o.forget lo n else o },
    wgs := nmap s.wgs fun _ g => if g.ctx = c then { g with mqSave := g.mqSave.map (MatOp.forget · lo n) } else g }
  let keep := fun (l : List (Nat × Nat)) => l.filter fun p => !(p.1 = c && meets lo n (reVbase p.2 * 4096) (reNpg p.2 * 4096))
  s.modMem fun m => { m with walkers := nmap m.walkers fun _ l => keep l }

/-- RLBINV (R448). A request that has gathered something goes on under the entry that it was translated under, which stands until then,
as it may (R447); any other is translated anew when it goes on. -/
def execRlbinv (f : Fields) (s : State) : Outcome State Fault Refusal :=
  issue 0x302 f s fun s tid t =>
    if t.live f = 0 then retire 0x302 f s tid t {}
    else
      let all := Forms.mo f 0 0 = 1
      let a := if all then 0 else (uniVal s tid t f.a.toNat).toNat
      let n := if all then 2 ^ 57 else (uniVal s tid t f.b.toNat).toNat
      let c := reachCtx t
      let out := fun (s : State) => retire 0x302 f s tid t { writes := [.uni f.d.toNat 0] }
      if a % 4096 ≠ 0 || n % 4096 ≠ 0 then takeFault s tid (trapSyn 0x80000072 (t.live f)) t.pc
      else if 2 ^ 57 < a + n then takeFault s tid (trapSyn 0x80000073 (t.live f)) t.pc
      else if n = 0 then out s
      else
        if accessWaits s c a n || packetWaits s c a n || engineWaits s c a n || drainsRun s c a n then
          standIn 0x302 s tid { stage := 1, val := 0, aux := 0 }
        else out (dropXl s c a n)

/-! ### Forms of context 0 (R416) -/

/-- A form that only tadpoles of context 0 perform: elsewhere PRIV. -/
def ctx0Form (opc : Nat) (f : Fields) (s : State) (body : State → Nat → Thread → State) : Outcome State Fault Refusal :=
  issue opc f s fun s tid t =>
    if t.ctx ≠ 0 then takeFault s tid (wordTrap cPRIV 4 (wordOf opc f)) t.pc
    else if t.live f = 0 then retire opc f s tid t {}
    else body s tid t

/-! ### CURET (R357, R420) -/

/-- A retired CU: the workgroups on it are killed, its bit leaves every open object's mask, and its tadpoles end with it. -/
def retireCu (s : State) (n : Nat) : State :=
  let ws := (s.wgs.filter fun p => p.2.cu = n && !p.2.evicted).map (·.1)
  let s := ws.foldl killWg s
  let ts := (s.thr.filter fun p => !p.2.isGroup && p.2.cu = n).map (·.1)
  let s := ts.foldl endTadpole s
  let clear := fun (o : TreeObj) =>
    if o.en then { o with msk := nset o.msk (n / 64) (ngetD o.msk (n / 64) 0 &&& ~~~BitVec.ofNat 64 (2 ^ (n % 64))) } else o
  let s := { s with parts := nmap s.parts fun _ p => { p with objs := nmap p.objs fun _ o => clear o } }
  s.modCu n fun u => { u with ret := true, spawnq := [] }

/-- CURET (R420). -/
def execCuret (f : Fields) (s : State) : Outcome State Fault Refusal :=
  ctx0Form 0x306 f s fun s tid t =>
    let n := sysA s tid t f
    let out := fun (s : State) (r : Nat) => retire 0x306 f s tid t { writes := [.uni f.d.toNat (BitVec.ofNat 64 r)] }
    if 5376 ≤ n then out s 2
    else if !(s.cu n).usable then out s 1
    else if n = t.cu then out s 3
    else out (retireCu s n) 0

/-! ### CTXSV and CTXLD (R431, R432) -/

/-- SAVED and STATE of BRST. -/
def Ctx.saved (k : Ctx) : Bool := k.brst.getLsbD 2
def Ctx.state (k : Ctx) : Nat := bits k.brst 1 0

/-- Tadpoles of a context, those that wait for a place included; agents apart or not. -/
def tadpolesOf (s : State) (c : Nat) (agents : Bool) : Bool :=
  (s.thr.any fun p => !p.2.isGroup && p.2.ctx = c && (agents || !p.2.agent))
    || s.cus.any fun p => p.2.spawnq.any fun q => q.ctx = c && (agents || !q.agent)

/-- The body of a save image: a function of the state that it holds, whose layout is not the spec's, and no longer than a range of addresses
(log 15). -/
def imageBody (m : SaveImage) : List Byte := (Config.imageBody m).take (2 ^ 44)

/-- The tag of a save image. -/
def imageTag : Nat := 0x5A56383453560001

/-- The header of an image. -/
def imageHeader (key c : Nat) (body : List Byte) : List Byte :=
  leBytes 64 (imageTag + (64 + body.length) <<< 64 + c <<< 134 + key <<< 144 + (crc32c body).toNat <<< 160)

/-- The CUs that a context holds. -/
def ctxCus (s : State) (c : Nat) : List Nat := (s.cus.filter fun p => p.2.ctx = some c).map (·.1)

/-- The context's state leaves its CUs: workgroups wait for admission with their queued matrix operations, registrations are lifted, CUs
are free (R39, R431). Locks are broken and an agent ends. -/
def saveCtx (s : State) (c : Nat) : State :=
  let ags := (s.thr.filter fun p => p.2.ctx = c && p.2.agent).map (·.1)
  let s := ags.foldl endTadpole s
  let leave : Thread → Thread := fun t =>
    if t.isGroup && t.ctx = c then { t.breakLocks with place := if t.place = .active then .pending else t.place } else t
  let pack : Nat → Wg → Wg := fun w g =>
    if g.ctx = c then { g with evicted := true, mqSave := g.mqSave ++ (s.cu g.cu).mq.filter fun m => m.wg = w } else g
  let s := { s with thr := nmap s.thr fun _ t => leave t, wgs := nmap s.wgs pack }
  let mine := (s.wgs.filter fun p => p.2.ctx = c).map (·.1)
  let s := s.modMem fun m => { m with regs := m.regs.map fun r => if mine.contains r.wg then { r with die := 999 } else r }
  let s := { s with cus := nmap s.cus fun _ u =>
    { u with spawnq := u.spawnq.filter fun q => q.ctx ≠ c, ctx := if u.ctx = some c then none else u.ctx,
             mq := u.mq.filter fun m => !mine.contains m.wg, l1 := if u.ctx = some c then [] else u.l1,
             reclaim := if u.ctx = some c then false else u.reclaim, rlb := if u.ctx = some c then [] else u.rlb } }
  s.modCtx c fun k => { k with brst := k.brst ||| 4 }

/-- The state that an image of a context holds, taken when the save is done (R34, R431). -/
def takeImage (s : State) (c : Nat) : SaveImage :=
  let wgs := s.wgs.filter fun p => p.2.ctx = c
  let cmds := s.fab.cmds.filter fun p => p.2.ctx = c
  { ctx := c, tdm := (s.ctx c).tdm, thr := s.thr.filter fun p => p.2.isGroup && p.2.ctx = c, wgs := wgs, cmds := cmds,
    unacked := s.fab.unacked.filter fun u => cmds.any fun p => p.2.xid = u.pkt.xid,
    boxes := s.fab.boxes.filter fun p => p.2.used && p.2.ctx = c,
    cbars := (s.lch.filter fun p => p.2.ctx = c).map fun p => (p.1, p.2.cbar), objs := (s.ctx c).objs }

/-- Data by key with other data laid over it. -/
def laidOver {α : Type} (old new : NMap α) : NMap α := new.foldl (fun l p => nset l p.1 p.2) old

/-- Bring back what an image holds of the workgroups that still stand (R34, R432). -/
def putImage (s : State) (m : SaveImage) : State :=
  let stands := fun (w : Nat) => (s.wg w).any fun g => !g.killed
  let runs := fun (tid : Nat) => (s.thread tid).any fun t => stands t.wg
  let cmds := m.cmds.filter fun p => runs p.2.tid
  let gone := s.fab.cmds.filter fun p => p.2.ctx = m.ctx
  let s := { s with wgs := laidOver s.wgs (m.wgs.filter fun p => stands p.1), thr := laidOver s.thr (m.thr.filter fun p => runs p.1) }
  let s := { s with fab := { s.fab with
    cmds := laidOver (s.fab.cmds.filter fun p => p.2.ctx ≠ m.ctx) cmds,
    unacked := (s.fab.unacked.filter fun (u : Unacked) => !(gone.any fun p => p.2.xid = u.pkt.xid))
      ++ m.unacked.filter fun (u : Unacked) => cmds.any fun p => p.2.xid = u.pkt.xid,
    boxes := laidOver s.fab.boxes (m.boxes.filter fun p => stands p.2.wg) } }
  let s := m.cbars.foldl (fun s p => s.modLaunch p.1 fun l => { l with cbar := p.2 }) s
  s.modCtx m.ctx fun k => { k with objs := m.objs, tdm := k.tdm ||| m.tdm }

/-- The newest image of a context with a body, and whether it is its newest of all: the state as it stands is then that image's
(log 33). -/
def imageOf (s : State) (c : Nat) (body : List Byte) : Option (SaveImage × Bool) :=
  let mine := (s.images.filter fun p => p.2.ctx = c).reverse
  (mine.find? fun p => imageBody p.2 = body).map fun p => (p.2, (mine.head?).any fun q => q.1 = p.1)

/-- CTXSV (R431). Stage 1 writes the image; the L1s of the CUs are written back first (R80). -/
def execCtxsv (f : Fields) (s : State) : Outcome State Fault Refusal :=
  ctx0Form 0x303 f s fun s tid t =>
    let c := (uniVal s tid t f.a.toNat).toNat % 1024
    let va := (uniVal s tid t f.b.toNat).toNat
    let out := fun (s : State) (n : Nat) => retire 0x303 f s tid t { writes := [.uni f.d.toNat (BitVec.ofNat 64 n)] }
    if (s.ctx c).state ≠ 2 || (s.ctx c).saved || tadpolesOf s c false then out s 0
    else if va % 4096 ≠ 0 then takeFault s tid (trapSyn 0x80000071 (t.live f)) t.pc
    else
      let (s, ok) := flushCus s (ctxCus s c)
      let held := takeImage (saveCtx s c) c
      let body := imageBody held
      let image := imageHeader (s.ctx c).key c body ++ body
      let wait := fun (s : State) => standIn 0x303 s tid { stage := 1, val := 0, aux := 0 }
      if !ok then wait s
      else
        match writeImage s t.cu t.ctx va (blocks64 image) with
        | (s, .bad e a) => takeFault s tid { cause := e, opd0 := BitVec.ofNat 64 a } t.pc
        | (s, .wait) => wait s
        | (s, .ok _) =>
          let (n, s) := s.fresh
          out { saveCtx s c with images := nset s.images n held } image.length

/-- The body of the image at an address, when it is one of this context (R431, R432). -/
def readImage (s : State) (rc va c : Nat) : State × Option (List Byte) :=
  match readRange s rc va 64 with
  | (s, none) => (s, none)
  | (s, some h) =>
    let n := leNat h
    let len := field n 127 64
    if field n 63 0 ≠ imageTag || field n 143 134 ≠ c || field n 159 144 ≠ (s.ctx c).key || len < 64 || n >>> 192 ≠ 0
      || field n 133 128 ≠ 0 then (s, none)
    else
      match readRange s rc (va + 64) (len - 64) with
      | (s, none) => (s, none)
      | (s, some b) => (s, if (crc32c b).toNat = field n 191 160 then some b else none)

/-- Restored groups beyond the pending places of a barrel take active slots, as many of them did when they were saved (R68, R395). -/
def seatGroups (s : State) (cu barrel : Nat) : State :=
  ((onBarrel s cu barrel).filter fun p => p.2.isGroup && p.2.place = .pending).foldl (fun s p =>
    if pendingCount s cu barrel ≤ 24 then s
    else match freeSlots s cu barrel with
      | k :: _ => s.modThread p.1 fun u => { u with place := .active, aslot := k, slotSince := s.cyc, offer := 0, overdue := none }
      | [] => s) s

/-- Restore the workgroups of one cluster on a die, or none without room. -/
def loadCluster (s : State) (die : Nat) (l : List (Nat × Wg)) : Option State :=
  l.foldl (fun (acc : Option State) p =>
    acc.bind fun s =>
      match nget s.lch p.2.launch with
      | none => some s
      | some x =>
        (pickCu s p.2.launch x (dieCus s die) []).bind fun cu =>
          let s := (List.range 4).foldl (fun s b => seatGroups s cu b) (restoreWg s p.1 p.2 cu)
          if (List.range 4).all fun b => budgetHeld s cu b ≤ 1792 && pendingCount s cu b ≤ 24 then some s else none) (some s)

/-- The clusters of a context's saved workgroups. -/
def savedClusters (s : State) (c : Nat) : List (List (Nat × Wg)) :=
  let l := s.wgs.filter fun p => p.2.ctx = c && p.2.evicted && !p.2.killed
  ((l.map fun p => (p.2.launch, p.2.clid)).eraseDups).map fun k => l.filter fun p => (p.2.launch, p.2.clid) = k

/-- Restore every saved workgroup on dies that DIESET and EXCL allow, or none without room. -/
def loadAll (s : State) (c : Nat) : Option State :=
  let k := s.ctx c
  let dies := (liveDies s).filter fun d => !k.excl || k.inDieset d
  (savedClusters s c).foldl (fun (acc : Option State) l => acc.bind fun s => dies.findSome? fun d => loadCluster s d l) (some s)

/-- CUs that stand idle with dirty lines of another context. -/
def staleCus (s : State) : List Nat := (s.cus.filter fun p => cuIdle s p.1 && p.2.l1.any fun q => q.2.dirty ≠ 0).map (·.1)

/-- CTXLD (R432). -/
def execCtxld (f : Fields) (s : State) : Outcome State Fault Refusal :=
  ctx0Form 0x304 f s fun s tid t =>
    let c := (uniVal s tid t f.a.toNat).toNat % 1024
    let va := (uniVal s tid t f.b.toNat).toNat
    let out := fun (s : State) (n : Nat) => retire 0x304 f s tid t { writes := [.uni f.d.toNat (BitVec.ofNat 64 n)] }
    if (s.ctx c).state ≠ 2 || !(s.ctx c).saved then out s 3
    else
      let (s, body) := readImage s t.ctx va c
      match body.bind (imageOf s c) with
      | none => out s 2
      | some (m, newest) =>
        let (s, ok) := flushCus s (staleCus s)
        if !ok then standIn 0x304 s tid { stage := 1, val := 0, aux := 0 }
        else
          match loadAll (if newest then s else putImage s m) c with
          | none => out s 1
          | some s => out (s.modCtx c fun k => { k with brst := k.brst &&& ~~~4 }) 0

/-! ### RESUMEJ (R433) -/

/-- RESUMEJ: the request is kept until the partition is halted; the tadpole ends. -/
def execResumej (f : Fields) (s : State) : Outcome State Fault Refusal :=
  issue 0x305 f s fun s tid t =>
    if t.live f = 0 then retire 0x305 f s tid t {}
    else if !t.quiet then s.modThread tid fun u => { u with waits := true }
    else
      let own := (s.ctx t.ctx).key
      let k := if Forms.mo f 0 0 = 1 then own else sysA s tid t f % 65536
      let s := if k = own || t.ctx = 0 then s.modPart k fun p => { p with asked := some s.env.clk, lost := false } else s
      endTadpole s tid

end Sys2Proof.Machine
end

