-- ==== Sys2Proof/Machine/BrumEv.lean ====
section
/-! DEFINITION. Brumation of a partition on this module (R367, R368, R425-R435): the halt wave, settling, the halted state and its
agent, ordered resume and its failure. -/

namespace Sys2Proof.Machine

open Host (Outcome)

/-- The contexts of a partition that run on this module: those that may dispatch or have threads or launches. -/
def jobCtxs (s : State) (key : Nat) : List Nat :=
  (nkeys s.ctxs).filter fun c =>
    (s.ctx c).key = key
      && ((s.ctx c).canDispatch || s.halting c || (s.lch.any fun p => p.2.ctx = c) || s.thr.any fun p => p.2.ctx = c)

/-- The contexts of a partition that are not running. -/
def haltingCtxs (s : State) (key : Nat) : List Nat := (nkeys s.ctxs).filter fun c => (s.ctx c).key = key && s.halting c

/-- A group stops where it stands, with disposition RUN unless it was held (R426). -/
def stopGroup (t : Thread) : Thread :=
  { t with fz := some (match t.fz with
      | some z => { z with byBrum := true }
      | none => { fr := FaultRec.zero, byFault := false, byBrum := true, hold := false, imp := false, tied := none }) }

/-- HALT_WAVE (R367, R426): a wave of this module's own trigger, or one from another module. Every group of the partition
stops. -/
def execHaltWave (key : Nat) (trigger : Trigger) (s : State) : Outcome State Fault Refusal :=
  let own := (s.part key).waves.contains trigger
  if !own && trigger.modn = s.mdl.number then .next s
  else
    let s := s.modPart key fun p =>
      { p with waves := p.waves.filter (· ≠ trigger), haltAt := match p.haltAt with | some c => some c | none => some s.env.clk }
    let s := (jobCtxs s key).foldl (fun s c => noteTrigger s c trigger) s
    .next { s with thr := nmap s.thr fun _ t => if t.isGroup && t.place ≠ .exited && inPart s key t then stopGroup t else t }

/-- FIRST_TRIGGER_SETTLED (R368, R427): 4 µs after the first wave, the earliest trigger is settled; another module of the pod may
have an earlier one. -/
def execFirstTriggerSettled (key : Nat) (trigger : Trigger) (s : State) : Outcome State Fault Refusal :=
  match (s.part key).haltAt, (s.part key).first with
  | some h, some x =>
    let is := trigger = x || (!s.fab.peers.isEmpty && trigBefore trigger x)
    if s.env.clk < h + nsToClk 4000 || !is then .next s
    else
      .next ((haltingCtxs s key).foldl (fun s c => s.modCtx c fun k => if k.settled then k else { k.show trigger with settled := true }) s)
  | _, _ => .next s

/-- Get data of a context's command that has come is not all written and counted yet (R347). -/
def getOpen (s : State) (c : Nat) : Bool :=
  let at' := fun (p : Packet) => p.pkind = 2 && p.dmod = s.mdl.number && s.fab.cmds.any fun q => q.2.ctx = c && q.2.xid = p.xid
  (s.fab.rxq.any fun q => at' q.2.pkt) || s.fab.net.any at'

/-- A context has drained (R426): its groups' accesses are complete, faulted or held back, its injected packets are
acknowledged, the contributions that a switch holds apart, and the data that it asked for is written (R347). -/
def drained (s : State) (c : Nat) : Bool :=
  let open' := s.thr.any fun p => p.2.isGroup && p.2.ctx = c && p.2.log.any fun e => e.state = 0
  let sent := s.fab.unacked.any fun u =>
    u.inj && u.pkt.pkind ≠ 4 && s.fab.cmds.any fun p => p.2.ctx = c && p.2.xid = u.pkt.xid
  !open' && !sent && !getOpen s c

/-- An agent of a partition runs, or waits for its place (R428). -/
def agentThere (s : State) (key : Nat) : Bool :=
  (s.thr.any fun p => p.2.agent && (s.ctx p.2.ctx).key = key)
    || s.cus.any fun p => p.2.spawnq.any fun q => q.agent && (s.ctx q.ctx).key = key

/-- Spawn the agent of a context's partition on the CU of lowest handle that the context holds (R399, R426, R428). -/
def spawnAgent (s : State) (c fsyn : Nat) : State :=
  let k := s.ctx c
  if k.sysent = 0 || agentThere s k.key then s
  else
    match k.cuh.find? fun cu => decide ((s.cu cu).ctx = some c) with
    | none => s
    | some cu =>
      let now := s.globalTime (dieOf cu)
      let fr := { FaultRec.zero with cause := BitVec.ofNat 64 cHALT, syn := BitVec.ofNat 64 fsyn, cap := jobCap c, time := now }
      let q : Spawn :=
        { time := now.toNat, barrel := 0, slot := 0, tid := 0, hasTid := false, ctx := c, sys := true, notice := false, agent := true,
          fr := fr, tkind := tkindOf true false false true false true 0 }
      s.modCu cu fun u => { u with spawnq := insertSpawn u.spawnq q }

/-- BRST.STATE of a context becomes `n`. -/
def Ctx.setState (k : Ctx) (n : Nat) : Ctx := { k with brst := (k.brst &&& ~~~3) ||| BitVec.ofNat 64 n }

/-- BRUMATION_DRAINED (R426): once the module is drained, every context of the partition that runs on it, and has the settled trigger, the
partition is halted and its agent spawned, in the first context that holds a CU; a kept resume request counts from here (R433). -/
def execBrumationDrained (ctx : Nat) (s : State) : Outcome State Fault Refusal :=
  let k := s.ctx ctx
  let cs := haltingCtxs s k.key
  let ready := fun (c : Nat) => (s.ctx c).settled && ((s.ctx c).state = 2 || drained s c)
  if k.state ≠ 1 || (s.part k.key).haltAt.isNone || !cs.all ready then .next s
  else
    let s := cs.foldl (fun s c => s.modCtx c fun k => k.setState 2) s
    let s := s.modPart k.key fun p => { p with asked := p.asked.map fun _ => s.env.clk, lost := false }
    .next (cs.foldl (fun s c => spawnAgent s c 0) s)

/-- A save or a load of a context is in progress (R434). -/
def imageBusy (s : State) (c : Nat) : Bool :=
  s.thr.any fun p =>
    p.2.kind = .systemTadpole && p.2.blk.isSome &&
      match front s p.1 p.2 with
      | .form _ opc f => (opc = 0x303 || opc = 0x304) && (uniVal s p.1 p.2 f.a.toNat).toNat % 1024 = c
      | .trap _ => false

/-- This module acknowledges a resume of a partition (R434, step 1). -/
def mayAck (s : State) (key : Nat) : Bool :=
  !(haltingCtxs s key).isEmpty && (haltingCtxs s key).all fun c =>
    (s.ctx c).state = 2 && !(s.ctx c).saved && !tadpolesOf s c true && !imageBusy s c
      && !(s.thr.any fun p => p.2.ctx = c && p.2.stepping ≠ 0)

/-- A group stopped by brumation goes on (R434, step 3). -/
def resumeAfter (s : State) (tid : Nat) : State :=
  match s.thread tid with
  | none => s
  | some t =>
    match t.fz with
    | some z => if z.hold then s else endIfResumed (runOn s tid t) tid
    | none => s

/-- The resume time is reached. -/
def resumeNow (s : State) (key : Nat) : State :=
  let p := s.part key
  let away := match p.haltAt with | some h => s.env.clk - h | none => 0
  let s := (haltingCtxs s key).foldl (fun s c => s.modCtx c fun k => k.setState 0) s
  let s := s.modPart key fun p => { p with waves := [], first := none, haltAt := none, asked := none, lost := false, resumeT := none }
  -- the watchdogs of tadpoles restart with the groups' (R434)
  let s := { s with thr := nmap s.thr fun _ t => if !t.isGroup && inPart s key t then { t with wdSince := s.cyc } else t }
  let s := s.modFab fun x => { x with reds := x.reds.map fun r => if r.key = key then { r with since := r.since + away } else r }
  ((s.thr.filter fun q => q.2.isGroup && inPart s key q.2 && q.2.place ≠ .exited).map (·.1)).foldl resumeAfter s

/-- RESUME_AT_T (R433, R434): once every context of the partition may resume, the resume time is fixed 4 µs ahead; at that time
every group whose disposition is RUN goes on. -/
def execResumeAtT (key : Nat) (s : State) : Outcome State Fault Refusal :=
  let p := s.part key
  match p.resumeT with
  | some t => .next (if t ≤ s.ns then resumeNow s key else s)
  | none =>
    if p.asked.isNone || !mayAck s key then .next s
    else
      let s := s.modPart key fun p => { p with resumeT := some (s.ns + 4000) }
      .next ((haltingCtxs s key).foldl (fun s c => s.modCtx c fun k => { (k.setState 3) with brst := (k.setState 3).brst &&& ~~~8 }) s)

/-- RESUME_FAILURE (R435): a member has not acknowledged within 100 ms of the request, or has become lost since; a module that had
acknowledged spawns new agents. A request for a partition that is not halted is kept (R433). -/
def execResumeFailure (key : Nat) (s : State) : Outcome State Fault Refusal :=
  let p := s.part key
  let cs := haltingCtxs s key
  match p.asked with
  | none => .next s
  | some t =>
    let late := t + nsToClk 100000000 ≤ s.env.clk && !(s.fab.peers.isEmpty && mayAck s key)
    if p.resumeT.isSome || !(late || p.lost) || cs.isEmpty || !(cs.all fun c => decide ((s.ctx c).state = 2)) then .next s
    else
      let acked := mayAck s key
      let s := s.modPart key fun p => { p with asked := none, lost := false }
      let s := cs.foldl (fun s c => s.modCtx c fun k => { k with brst := k.brst ||| 8 }) s
      .next (if acked then cs.foldl (fun s c => spawnAgent s c 1) s else s)

end Sys2Proof.Machine
end

