-- ==== Sys2Proof/Machine/HostEv.lean ====
section
/-! DEFINITION. The host link, start-up, tiles that are lost and return, time calibration, throttling and the management
interface (R18-R23, R298, R302, R370, R436-R440, R450-R456). -/

namespace Sys2Proof.Machine

open Host (Outcome)

def State.modHost (s : State) (g : HostSide → HostSide) : State := { s with host := g s.host }

/-! ### CXL.mem and snoops (R437, R438, R440, R451) -/

/-- The agent of a host port (R12). -/
def hostAgent (port : Nat) : Nat := 84 + port % 4

/-- The tile that homes a pool address is lost. -/
def homeLost (s : State) (addr : Nat) : Bool := s.mdl.lostTiles.contains (memoryTile (homeOf (sectorOf addr)))

/-- One read of the host, as far as it can go: the sector and the poison indication. -/
def hostRead (s : State) (o : HostOp) : State × Option (List Byte × Bool) :=
  let sec := sectorOf o.addr
  let a := hostAgent o.port
  if !s.mready || homeLost s o.addr then (s, some ([], true))
  else
    match s.winOf sec with
    | some w => (s, some ((expandSector s (s.win w) sec).1, false))
    | none =>
      if s.canRead a sec then
        let l := s.line a sec
        (portReturn s a sec, some (l.data, l.poi))
      else (need s a sec false (s.smeta sec).t64 (some (portEng a)), none)

/-- One write of the host, as far as it can go. -/
def hostWrite (s : State) (o : HostOp) : State × Bool :=
  let sec := sectorOf o.addr
  let a := hostAgent o.port
  if !s.mready || homeLost s o.addr then (s, true)
  else if (s.winOf sec).isSome then
    (s.modMem fun m => { m with portErr := nset m.portErr o.port (ngetD m.portErr o.port 0 + 1) }, true)
  else if s.canWrite a sec then (portReturn (l2Merge s a sec o.en o.data) a sec, true)
  else (need s a sec true (s.smeta sec).t64 (some (portEng a)), false)

/-- A host access goes as far as it can; it then leaves the list. -/
def hostStep (s : State) (o : HostOp) : State :=
  let gone := fun (s : State) => s.modHost fun h => { h with ops := h.ops.erase o }
  if o.write then
    match hostWrite s o with
    | (s, true) => gone s
    | (s, false) => s
  else
    match hostRead s o with
    | (s, some r) => (gone s).modHost fun h => { h with reads := h.reads ++ [r] }
    | (s, none) => s

/-- Every host access in progress goes as far as it can. -/
def hostSteps (s : State) : State := s.host.ops.foldl hostStep s

/-- CXL_MEM_READ (R438): `address` is an offset from the HDM base. -/
def execCxlMemRead (port address : Nat) (s : State) : Outcome State Fault Refusal :=
  if 4 ≤ port || Config.poolBytes ≤ address then .next s
  else
    let o : HostOp := { port := port, addr := address / 64 * 64, write := false, en := 0, data := [] }
    .next (hostStep (s.modHost fun h => { h with ops := h.ops ++ [o] }) o)

/-- CXL_MEM_WRITE (R438). -/
def execCxlMemWrite (port address : Nat) (enables : BitVec 64) (data : List Byte) (s : State) : Outcome State Fault Refusal :=
  if 4 ≤ port || Config.poolBytes ≤ address then .next s
  else
    let o : HostOp := { port := port, addr := address / 64 * 64, write := true, en := enables, data := data }
    .next (hostStep (s.modHost fun h => { h with ops := h.ops ++ [o] }) o)

/-- HOST_SNOOP (R440): the L2 that holds the line gives it up. -/
def execHostSnoop (port line : Nat) (s : State) : Outcome State Fault Refusal := .next (hostGiveUp s (port * 2 ^ 46 + line))

/-! ### The configuration record (R453) -/

/-- The bits set in a word. -/
def onesOf (x : Word64) : Nat := ((List.range 64).filter fun i => x.getLsbD i).length

/-- Exactly `n` bytes of a string, zero after its end. -/
def exactly (n : Nat) (l : List Byte) : List Byte := (List.range n).map fun i => (l[i]?).getD 0

/-- SIG over the bytes before it; `n` counts signatures. -/
def signRecord (n : Nat) (body : List Byte) : List Byte := body ++ exactly 96 (Config.signature n (Config.sha384 body))

/-- Bytes 0 to 927. -/
def recordBody (stime : Nat) (r : StartResult) : List Byte :=
  let n := r.cum.map onesOf
  leBytes 8 0x5A56383443460001 ++ leBytes 8 stime ++ leBytes 4 1024 ++ leBytes 2 (n.foldl (· + ·) 0)
    ++ leBytes 1 (n.foldl min 64) ++ leBytes 1 r.hpm.toNat ++ leBytes 39 r.lnk.toNat ++ [0]
    ++ ((List.range 84).map fun i => leBytes 8 ((r.cum[i]?).getD 0).toNat).flatten
    ++ leBytes 8 r.fpm.toNat ++ leBytes 16 r.serial.toNat
    ++ ((List.range 84).map fun i => leBytes 2 (BitVec.ofInt 16 ((r.ofs[i]?).getD 0)).toNat).flatten

/-- A byte string with others in place from an offset on. -/
def patch (l : List Byte) (off : Nat) (new : List Byte) : List Byte := l.take off ++ new ++ l.drop (off + new.length)

/-! ### Start-up (R18, R450-R453) -/

/-- The die boundaries of a tile (R11, R453): boundary number and the tile beyond. -/
def tileLinks (t : Nat) : List (Nat × Nat) :=
  let r := tileRow t
  let c := tileCol t
  (if c < 13 then [(r * 13 + c, t + 1)] else []) ++ (if 0 < c then [(r * 13 + c - 1, t - 1)] else [])
    ++ (if r < 11 then [(156 + r * 14 + c, t + 14)] else []) ++ (if 0 < r then [(156 + (r - 1) * 14 + c, t - 14)] else [])

/-- The tiles next to a tile over boundaries that are up. -/
def linksUp (lnk : BitVec 310) (t : Nat) : List Nat := ((tileLinks t).filter fun p => lnk.getLsbD p.1).map (·.2)

/-- The tiles connected to a set of tiles, one more boundary away each time; bit `t` stands for tile `t`. -/
def spreadTiles (lnk : BitVec 310) (n : Nat) (m : Nat) : Nat :=
  match n with
  | 0 => m
  | k + 1 =>
    let new := (List.range 168).foldl (fun a t => if m.testBit t || (linksUp lnk t).any fun u => m.testBit u then a ||| 2 ^ t else a) 0
    if new = m then m else spreadTiles lnk k new

/-- Where start-up stops: the stage and the tile named, 255 for the module as a whole (R18, R450). -/
def startFailure (r : StartResult) : Option (Nat × Nat) :=
  let few := (List.range 168).find? fun t => (linksUp r.lnk t).length < 2
  let n := r.cum.map onesOf
  if r.hpm = 0 || r.failStage = 1 then some (1, 255)
  else if few.isSome then few.map fun t => (2, t)
  else if spreadTiles r.lnk 168 1 ≠ 2 ^ 168 - 1 then some (2, 255)
  else if r.failStage = 2 || r.failStage = 3 || r.failStage = 6 then some (r.failStage, r.etile % 256)
  else if r.cum.length ≠ 84 then some (6, 255)
  else
    match (List.range 84).find? fun i => (n[i]?).getD 0 < 56 with
    | some i => some (6, computeTile i)
    | none => if n.foldl (· + ·) 0 < 5208 then some (6, 255) else none

/-- The module as a reset leaves it: what lies outside it stays, and the stored firmware takes effect (R450, R455, R456). -/
def resetModule (s : State) : State :=
  { State.reset with
    env := { s.env with cur := none },
    mdl := { Module.reset with number := s.mdl.number, fwCur := s.mdl.fwNew, fwNew := s.mdl.fwNew, epoch := s.mdl.epoch,
                               signs := s.mdl.signs },
    mem := { MemSys.reset with hostMem := s.mem.hostMem },
    fab := { Fabric.reset with peers := s.fab.peers },
    host := { s.host with ops := [], table := [], pba := [] } }

/-- The CUs that self-test enabled. -/
def enabledCus (cum : List Word64) : NMap Cu :=
  ((List.range 84).map fun d =>
    ((List.range 64).filter fun c => ((cum[d]?).getD 0).getLsbD c).map fun c => (d * 64 + c, { Cu.reset with en := true })).flatten

/-- What calibration leaves over in a region, within 4 ticks (R29, R370): a value that the manual does not state. -/
def residualOf (n : Nat) : Int := ((Config.freeValue n).toNat % 9 : Nat) - 4

/-- The metadata of the sectors that memory initialisation has poisoned (R289, R450). -/
def poisonedMeta (l : List Nat) : NMap Meta := l.foldl (fun m sec => nset m sec { Meta.init with poi := true }) []

/-- A module of the pod that is UP (R345); this one is. -/
def moduleUp (s : State) (md : Nat) : Bool := md = s.mdl.number || nget s.fab.peers md = some .up

/-- The time master (R371): the module that TMCTL designates while it is UP, else the UP module with the lowest
number. -/
def timeMaster (s : State) : Nat :=
  let named := bits s.mdl.tmctl 11 0
  if s.mdl.tmctl.getLsbD 63 && moduleUp s named then named
  else (nkeys s.fab.peers).foldl (fun a md => if moduleUp s md then min a md else a) s.mdl.number

/-- The module root joins the tree at the end of stage 7: it takes the master's count in one step (R371). -/
def joinTime (s : State) (count : Nat) : State :=
  if timeMaster s ≠ s.mdl.number then s.modModule fun m => { m with offset := nset m.offset 84 ((count : Int) - s.raw) } else s

/-- MODULE_START (R450-R453): the stages run to MREADY or to FAIL. -/
def execModuleStart (result : StartResult) (s : State) : Outcome State Fault Refusal :=
  let s := resetModule s
  match startFailure result with
  | some (stage, tile) => .next (s.modModule fun m => { m with mstatus := BitVec.ofNat 64 (tile <<< 8 + stage <<< 4 + 2) })
  | none =>
    let num := fun (g : Nat → Int) => (List.range 84).map fun d => (d, g d)
    let ofs := fun (d : Nat) => (result.ofs[d]?).getD 0
    let f := s.env.freeCtr
    let s := { s with env := { s.env with freeCtr := f + 84 }, cus := enabledCus result.cum }
    let s := s.modMem fun m => { m with smeta := poisonedMeta result.poisoned }
    let s := joinTime (s.modFab fun x => { x with fpm := result.fpm }) result.count
    .next (s.modModule fun m =>
      { m with mstatus := BitVec.ofNat 64 (8 <<< 4 + 1), links := result.lnk, offset := num ofs ++ m.offset,
               skew := num fun d => residualOf (f + d) - ofs d, config := signRecord m.signs (recordBody s.ns result),
               signs := m.signs + 1 })

/-- THERMAL_RESET (R455): at 110 °C the module resets itself; start-up follows. -/
def execThermalReset (s : State) : Outcome State Fault Refusal := .next (resetModule s)

/-! ### Tiles and agents that are lost and return (R21-R23, R298, R302) -/

/-- Every home treats a lost agent's entry as served, does not wait for it, and regrows sooner for 100 ms (R298, R302). -/
def forgetAgent (s : State) (a : Nat) : State :=
  (List.range 84).foldl (fun s h =>
    let s := regrowWithout (freeAgent s h a) h a
    s.modHome h fun x => { x with fast := s.env.clk + nsToClk 100000000 }) s

/-- What an agent held of the token protocol is gone; a regrowth of another module's sector waits for it no longer. -/
def dropAgent (s : State) (a : Nat) : State :=
  let owed := (s.mem.rgOut.filter fun p => p.2.1.contains a).map (·.1)
  let s := owed.foldl (fun s sec => toRemoteHome s (Msg.of .rgack (.agent a) (.home (homeOf sec)) a sec (s.line a sec).ser)) s
  let mine := fun (k : Nat) => decide (k / 2 ^ 80 = a)
  s.modMem fun m =>
    { m with l2 := m.l2.filter fun p => !mine p.1, trans := m.trans.filter fun p => !mine p.1,
             copies := m.copies.filter fun p => !mine p.1, winReq := m.winReq.filter fun k => !mine k,
             places := nerase m.places a, pred := m.pred.filter fun p => p.1 / 65536 ≠ a, pnak := nerase m.pnak a,
             hostLines := m.hostLines.filter fun p => p.2.die ≠ a,
             regs := m.regs.filter fun r => !(r.space = 0 && r.die = a) }

/-- Break the locks that a die holds (R251). -/
def breakDie (s : State) (d : Nat) : State :=
  { s with thr := nmap s.thr fun _ t =>
      { t with locks := nmap t.locks fun _ k => if k.die = d then { k with held := false } else k } }

/-- Everything on a lost compute die ends (log 18): its workgroups are killed with what their engines still held. -/
def clearDie (s : State) (d : Nat) : State :=
  let ws := (s.wgs.filter fun p => dieOf p.2.cu = d && !p.2.evicted).map (·.1)
  let s := ws.foldl (fun s w => (killWg s w).modWg w fun g => { g with ring := [] }) s
  let ts := (s.thr.filter fun p => !p.2.isGroup && dieOf p.2.cu = d).map (·.1)
  let s := ts.foldl endTadpole s
  let s := { s with thr := nmap s.thr fun _ t => if ws.contains t.wg && t.isGroup then { t with log := [], locks := [] } else t }
  { s with cus := nmap s.cus fun n u => if dieOf n = d then { Cu.reset with ret := u.ret } else u }

/-- The CU on which a context without a group takes DIEL: the one of lowest handle that it still holds, else the lowest CU that stands idle
(log 18). -/
def dielCu (s : State) (c : Nat) : Option Nat :=
  ((s.ctx c).cuh.find? fun n => (s.cu n).usable && (s.cu n).ctx = some c).orElse fun _ =>
    (nkeys s.cus).find? fun n => (s.cu n).usable && cuIdle s n

/-- A context that touched a lost tile traps (R22): each of its groups that has not exited, or with none left a system tadpole (R403). -/
def dielCtx (s : State) (c : Nat) : State :=
  if s.thr.any fun p => p.2.isGroup && p.2.ctx = c && p.2.place ≠ .exited then dielWhere s fun t => t.ctx = c
  else
    match dielCu s c with
    | some n => orphanFault s (Thread.start .systemTadpole c 0 n 0 0 0 s.cyc) dielTrap
    | none => s

/-- The live contexts that touched a tile: those with a group or a launch. -/
def touchedBy (s : State) (tile : Nat) : List Nat :=
  (nkeys s.ctxs).filter fun c => (s.ctx c).tdm.getLsbD tile
    && ((s.thr.any fun p => p.2.ctx = c && p.2.isGroup && p.2.place ≠ .exited) || s.lch.any fun p => p.2.ctx = c)

/-- A tile is lost: what stood on it is gone, the contexts that touched it trap, and the locks that a compute die held are broken (R251).
With the module root's tile its attachment to plane 0 is lost, and tree traffic goes to plane 1 (R15, R350). -/
def loseTile (s : State) (tile : Nat) : State :=
  if s.mdl.lostTiles.contains tile then s
  else
    let cs := touchedBy s tile
    let s := s.modModule fun m => { m with lostTiles := m.lostTiles ++ [tile] }
    let i := tileIndex tile
    let s := if isCompute tile then unpin (forgetAgent (dropAgent (clearDie (breakDie s i) i) i) i) i else s.setHome i Home.reset
    let s := if tile = rootTile then { s with parts := nmap s.parts fun _ p => p.failOver s.mdl.number } else s
    cs.foldl dielCtx s

/-- DIE_LOSS (R22). -/
def execDieLoss (tile : Nat) (s : State) : Outcome State Fault Refusal := .next (if 168 ≤ tile then s else loseTile s tile)

/-- A memory tile's sectors as its initialisation leaves them: zero, every token at the home (log 18); the L2s that held tokens of them have
lost these (R254). -/
def clearHome (s : State) (h : Nat) : State :=
  let mine := fun (sec : Nat) => decide (homeOf sec = h)
  let key := fun (k : Nat) => mine (k % 2 ^ 80)
  let held := s.mem.l2.filter fun p => key p.1 && p.2.n ≠ 0
  let s := held.foldl (fun s p => fireLoss s (p.1 / 2 ^ 80) (p.1 % 2 ^ 80)) s
  let s := s.modMem fun m =>
    { m with dram := m.dram.filter fun c => !mine (sectorOf c.1), smeta := m.smeta.filter fun p => !mine p.1,
             l2 := m.l2.filter fun p => !key p.1, trans := m.trans.filter fun p => !key p.1,
             copies := m.copies.filter fun p => !key p.1, winReq := m.winReq.filter fun k => !key k,
             places := nmap m.places fun _ l => l.filter fun p => !mine p.sector,
             net := m.net.filter fun p => !mine p.2.sector, homes := nerase m.homes h }
  { s with cus := nmap s.cus fun _ u => { u with l1 := u.l1.filter fun p => !mine p.1 } }

/-- A compute die returns with its CUs counted anew: its words of the record are rewritten, and the record signed again. -/
def returnDie (s : State) (d : Nat) (cus : Word64) (offset : Int) : State :=
  let f := s.env.freeCtr
  let s := (List.range 64).foldl (fun s c => s.modCu (d * 64 + c) fun u => { u with en := cus.getLsbD c && !u.ret }) s
  let s := { s with env := { s.env with freeCtr := f + 1 } }
  s.modModule fun m =>
    let body := patch (patch (m.config.take 928) (64 + 8 * d) (leBytes 8 cus.toNat)) (760 + 2 * d)
      (leBytes 2 (BitVec.ofInt 16 offset).toNat)
    { m with lostTiles := m.lostTiles.filter (· ≠ computeTile d), offset := nset m.offset d offset, due := nerase m.due d,
             skew := nset m.skew d (residualOf f - offset), config := signRecord m.signs body, signs := m.signs + 1 }

/-- DIE_RESET (R23): the tile is lost, and returns once its self-test has passed. -/
def execDieReset (tile : Nat) (cus : Word64) (offset : Int) (s : State) : Outcome State Fault Refusal :=
  if 168 ≤ tile then .next s
  else
    let s := loseTile s tile
    let i := tileIndex tile
    if isCompute tile then .next (if onesOf cus < 56 then s else returnDie s i cus offset)
    else .next ((clearHome s i).modModule fun m => { m with lostTiles := m.lostTiles.filter (· ≠ tile) })

/-- HOST_PORT_LOSS (R298): a host port's agent is reported lost, or returns. -/
def execHostPortLoss (port : Nat) (back : Bool) (s : State) : Outcome State Fault Refusal :=
  let a := hostAgent port
  if 4 ≤ port then .next s
  else if back then .next (s.modModule fun m => { m with lostTiles := m.lostTiles.filter (· ≠ 1000 + a) })
  else if s.mdl.lostTiles.contains (1000 + a) then .next s
  else
    let s := s.modModule fun m => { m with lostTiles := m.lostTiles ++ [1000 + a] }
    .next (forgetAgent ((dropAgent s a).modHost fun h => { h with ops := h.ops.filter fun o => o.port ≠ port }) a)

/-! ### Time, throttling (R29, R370, R456) -/

/-- An offset may slew by one tick: 256 ns have passed since it last did. -/
def maySlew (s : State) (d : Nat) : Bool :=
  match nget s.mdl.slew d with | some t => decide (t + nsToClk 256 ≤ s.env.clk) | none => true

/-- An offset moves one tick toward `want`. A smaller one counts once the count has gone on, so that no reading falls. -/
def slewTo (s : State) (d : Nat) (want : Int) : State :=
  let now := offsetOf s d
  if now = want then s
  else
    s.modModule fun m =>
      { m with slew := nset m.slew d s.env.clk,
               offset := nset m.offset d (if now < want then now + 1 else now),
               due := if now < want then nerase m.due d else nset m.due d (s.raw, now - 1) }

/-- TIME_CALIBRATION (R370, R371): a marker has measured a region's offset again with a residual, or, for 84, how far the module root is
from the time master's count; the offset slews toward it by at most one tick in 256 ns. A region and the root do not slew within the
same 256 ns, since a region's readings follow both. The markers are the root's: there are none while its tile is lost. -/
def execTimeCalibration (die : Nat) (residual : Int) (s : State) : Outcome State Fault Refusal :=
  if rootLost s || !maySlew s die then .next s
  else if die < 84 then
    .next (if maySlew s 84 then slewTo s die (max (-4) (min 4 residual) - ngetD s.mdl.skew die 0) else s)
  else
    .next (if die = 84 && timeMaster s ≠ s.mdl.number && (List.range 84).all (maySlew s) then
        slewTo s 84 (offsetOf s 84 + residual)
      else s)

/-- THROTTLE_TRIGGER (R456): the step, at most 8, and the causes; with no cause the clock is full. -/
def execThrottleTrigger (step causes : BitVec 4) (s : State) : Outcome State Fault Refusal :=
  let c := causes.toNat % 8
  .next (s.modModule fun m => { m with thr := if c = 0 then 0 else BitVec.ofNat 64 (min 8 step.toNat + c <<< 4) })

/-! ### The responder and the management interface (R454, R456) -/

/-- Answer a request of the host: from stage 1 of start-up on (R454). -/
def respond (s : State) (l : List Byte) : State :=
  if bits s.mdl.mstatus 7 4 = 0 then s else s.modHost fun h => { h with spdm := h.spdm ++ [l] }

/-- An answer that ends in a signature. -/
def respondSigned (s : State) (l : List Byte) : State :=
  (respond s (l ++ exactly 96 (Config.signature s.mdl.signs (Config.sha384 l)))).modModule fun m => { m with signs := m.signs + 1 }

/-- GET_VERSION (R454). -/
def execGetVersion (s : State) : Outcome State Fault Refusal := .next (respond s (Config.spdmBody 0x04 []))
/-- GET_CAPABILITIES (R454). -/
def execGetCapabilities (s : State) : Outcome State Fault Refusal := .next (respond s (Config.spdmBody 0x61 []))
/-- NEGOTIATE_ALGORITHMS (R454). -/
def execNegotiateAlgorithms (algorithms : List Byte) (s : State) : Outcome State Fault Refusal :=
  .next (respond s (Config.spdmBody 0x63 algorithms))
/-- GET_DIGESTS (R454). -/
def execGetDigests (s : State) : Outcome State Fault Refusal := .next (respond s (Config.spdmBody 0x01 []))
/-- GET_CERTIFICATE (R454). -/
def execGetCertificate (slot offset length : Nat) (s : State) : Outcome State Fault Refusal :=
  .next (respond s (Config.spdmBody 0x02 (leBytes 1 slot ++ leBytes 2 offset ++ leBytes 2 length)))
/-- CHALLENGE (R454). -/
def execChallenge (slot : Nat) (nonce : List Byte) (s : State) : Outcome State Fault Refusal :=
  .next (respondSigned s (Config.spdmBody 0x03 (leBytes 1 slot ++ nonce)))

/-- A measurement block (R454): a digest of 48 bytes, zeros where nothing has been measured yet. -/
def measurement (s : State) (n : Nat) : List Byte :=
  exactly 48
    (match n with
      | 1 => Config.sha384 (leBytes 8 s.mdl.fwCur.toNat)
      | 2 => Config.sha384 Config.microcode
      | 3 => if s.mready then Config.sha384 s.mdl.config else []
      | 4 => (s.ctx 0).sysMeas
      | _ => [])

/-- GET_MEASUREMENTS (R454): one block, or with 0xFF all four. -/
def execGetMeasurements (index : Nat) (nonce : List Byte) (s : State) : Outcome State Fault Refusal :=
  let l := if index = 0xFF then [1, 2, 3, 4] else if 1 ≤ index && index ≤ 4 then [index] else []
  .next (respondSigned s (Config.spdmBody 0x60 (leBytes 1 index ++ nonce)
    ++ (l.map fun n => leBytes 1 n ++ measurement s n).flatten))

/-- PLDM_FIRMWARE_UPDATE (R456): it takes effect at the next module reset. -/
def execPldmFirmwareUpdate (firmware : Word64) (s : State) : Outcome State Fault Refusal :=
  .next (s.modModule fun m => { m with fwNew := firmware })

end Sys2Proof.Machine
end

