-- ==== Sys2Proof/Machine/Load.lean ====
section
/-! DEFINITION. How an instruction is placed for the next issue turn (log 17). -/

namespace Sys2Proof.Machine

/-- The range-table entry that maps virtual page 1 to pool page 1 for reading and execution (R443, R444). -/
def loadEntry : Nat := 1 <<< 12 + 1 <<< 64 + 1 <<< 140 + 1 <<< 229 + 1 <<< 230 + 1 <<< 232 + 1 <<< 233

/-- A code line that holds one word in slot 0, with its check (R107, R108). -/
def loadLine (w : BitVec 96) : List Byte :=
  let body := wordBytes w ++ List.replicate 48 0
  body ++ [0, 0] ++ leBytes 2 (crc16 body)

/-- The code that runs a form: a system tadpole for the forms that only tadpoles run (R125). -/
def loadMode (w : BitVec 96) : Mode :=
  if (privSyn .group (opcOf w) (fieldsOf w)).isSome then .systemTadpole else .group

/-- A group of one workgroup, or a system tadpole, with the word at its PC and the next issue turn; the word stands in pool
page 1 and a range table of one entry in page 0 (log 17). -/
def loadWord (s : State) (w : BitVec 96) : State :=
  let id := s.env.nextId + 1
  let kind := loadMode w
  let lr := { LaunchRec.zero with code := 0x1000, lastln := 31, spsz := 64, tssz := 16, regs := 63 }
  let lch := { Launch.start lr 0 1 (.device 0) false 1 with next := 1, live := 1 }
  let t0 := Thread.start kind 0 id 0 0 0 0x1000 s.cyc
  let t1 := if kind = .group then t0.group id 0 512 [] lr else t0
  let dram := Memory.setBytes (Memory.setBytes s.mem.dram 0 (leBytes 32 loadEntry)) 0x1000 (loadLine w)
  let env := { s.env with agenda := [], tick := s.env.tick - s.env.tick % 2, cur := some s.env.nextId, nextId := id + 1 }
  let mem := { s.mem with dram := dram, l2 := s.mem.l2.filter fun p => p.1 % 2 ^ 80 ≠ 0,
                          net := s.mem.net.filter fun p => p.2.sector ≠ 0 }
  let s := { s with env := env, mem := mem, thr := nset s.thr id { t1 with place := .active },
                    wgs := nset s.wgs id (Wg.start id 0 0 0 0 0 0 0 1 [id] lr), lch := nset s.lch id lch }
  let s := s.modCtx 0 fun c => { c with rtbase := 0, rtcnt := 1, cuh := if c.cuh.contains 0 then c.cuh else c.cuh ++ [0] }
  s.modCu 0 fun c => { c with en := true, ctx := some 0, rlb := [] }

end Sys2Proof.Machine
end

