-- ==== Sys2Proof/Machine/Auto.lean ====
section
/-! DEFINITION. House-keeping, and the events that the module raises by itself (log 1). An event that is listed too early changes
nothing. -/

namespace Sys2Proof.Machine

/-- Work done between instructions that is no step of its own: tokens that nothing holds any more are passed on, packets are
injected, queues report, workgroups that are over go, budgets are granted. -/
def houseKeep (s : State) : State :=
  trimPark (grantBudgets (markWoken (markOverdue (skipLost (reap (finishQueues (hostSteps (fabPurge (advanceCmds (stopOwing (passAll s)))))))))))

/-- Events of one thread. -/
def threadEvents (s : State) (tid : Nat) (t : Thread) : List Instr :=
  (t.log.map fun e => if e.state = 0 then [Instr.accessCompletion tid e.id, .accessFault tid e.id none] else []).flatten
    ++ (if watched t && t.wdSince + 2 ^ 24 ≤ s.cyc then [.watchdogExpiry tid] else [])
    ++ (if mayPark s tid t then [.groupPark tid] else [])
    ++ (if woken s tid then [.wakeConditionFires tid] else [])
    ++ (match t.blk with | some b => if b.stage = mslpStage && b.aux ≠ 2 ^ 32 - 1 && b.val + b.aux ≤ s.ns then [.mslpTimeout tid] else [] | none => [])
    ++ (t.locks.filter fun k => k.2.held).map fun k => .lockBreak tid k.1

/-- Events of one barrel, at the turn of a slot of it: the turn that follows does the same. -/
def barrelEvents (s : State) : List Instr :=
  match nextTurn s with
  | some k => [.groupSwap (k % 2 ^ 32 / 4) (k % 4) (k / 2 ^ 32), .overdueSwap (k % 2 ^ 32 / 4) (k % 4) (k / 2 ^ 32)]
  | none => []

/-- Events of one CU. -/
def cuEvents (s : State) (cu : Nat) (u : Cu) : List Instr :=
  (if u.spawnq.isEmpty then [] else [Instr.tadpoleSpawn cu]) ++ (if u.reclaim || reclaimDue s cu then [.cuReclaim cu] else [])
    ++ (match matHead u.mq with | some o => [.matrixOperationComplete cu o.id] | none => [])

/-- Events of one workgroup. -/
def wgEvents (w : Nat) (g : Wg) : List Instr :=
  (g.bars.filter fun b => !b.2.arrived.isEmpty).map (fun b => .barrierPhaseComplete false w b.1)
    ++ (g.ring.map fun c => [Instr.copyDispatch w c.id, .copyComplete w c.id, .copyEngineFault w c.id none]).flatten

/-- Events of launches: cluster barriers, and the end. -/
def launchEvents (l : Nat) (x : Launch) : List Instr :=
  (x.cbar.filter fun b => !b.2.arrived.isEmpty).map (fun b => .barrierPhaseComplete true (l * 2 ^ 32 + b.1 / 4) (b.1 % 4))
    ++ (if x.clusters ≤ x.next && x.live = 0 then [.launchComplete l] else [])

/-- The event that delivers a message. -/
def msgEvent (id : Nat) (m : Msg) : List Instr :=
  match m.kind with
  | .rdt => [.rdt id] | .wrt => [.wrt id] | .tok => [.tok id] | .wb => [.wb id] | .preq => [.preq id] | .pact => [.pact id]
  | .pdone => [.pdone id] | .pdeact => [.pdeact id] | .rgstart => [.rgstart id] | .rgack => [.rgack id] | .rgdata => [.rgdata id]
  | .rgend => [.rgend id] | .pnak => (match m.dst with | .agent a => [.pnakRetry a] | .home _ => [])

/-- Events of one home. -/
def homeEvents (s : State) (h : Nat) (x : Home) : List Instr :=
  let due := (x.ptab.filterMap fun p => if p.2.st = .active then some p.2.sector else none)
    ++ (match x.hreq with | some q => if q.active then [q.sector] else [] | none => [])
  (if x.ptab.any fun p => p.2.st = .pending then [Instr.persistentArbitration h] else [])
    ++ (if x.atoms.isEmpty && x.hreq.isNone then [] else [.homeRequest h])
    ++ (due.filter fun sec => regrowDue s h sec).map (fun sec => .regrowthTrigger h sec)
    ++ (x.regrow.map fun r => (r.waitAck ++ nkeys r.waitData).map fun a => Instr.regrowthWaitTimeout h r.sector a).flatten
    ++ x.deferred.map fun sec => .regrowthDeferralExpiry h sec

/-- Events of the token protocol. -/
def memEvents (s : State) : List Instr :=
  (s.mem.net.map fun p => msgEvent p.1 p.2).flatten
    ++ (s.mem.trans.filter fun p => p.2.att < 3 && (p.2.deadline ≤ s.env.clk || p.2.since + nsToClk 2000 ≤ s.env.clk)).map
        (fun p => .transientRetryExpiry (p.1 / 2 ^ 80) (p.1 % 2 ^ 80))
    ++ (s.mem.pnak.filter fun p => p.2 ≤ s.env.clk).map (fun p => .pnakRetry p.1)
    ++ s.mem.winReq.map (fun k => .windowSectorRead (k / 2 ^ 80) (k % 2 ^ 80))
    ++ (s.mem.homes.map fun p => homeEvents s p.1 p.2).flatten

/-- Events of the contexts' queues and work-list objects. -/
def ctxEvents (s : State) (c : Nat) (k : Ctx) : List Instr :=
  ((k.queues.filter fun q => queueReady s c q.1).map fun q =>
      [Instr.entryLaunch c q.1, .entrySignalToken c q.1, .entryWaitToken c q.1, .entryResetToken c q.1]).flatten
    ++ ((List.range 5).filter fun i => (streamHead s c i).isSome).map (fun i => .launchAccept c i)
    ++ (k.objs.filter fun o => !o.2.done).map (fun o => .terminationWaves c o.1)
    ++ (if k.state = 1 && k.settled then [.brumationDrained c] else [])

/-- The event that receives a packet at a port of this module. -/
def portEvent (p : Packet) : Instr :=
  if p.pkind = 1 then .getRequest p else if 5 ≤ p.pkind && p.pkind ≤ 7 then .systemAccessPacket p else .dataPacketReceive p

/-- Get data of a command that is not held has come (R344). -/
def getWaits (s : State) (c : FabCmd) : Bool :=
  c.kind = 1 && c.held.isNone && s.fab.net.any fun p => p.pkind = 2 && p.xid = c.xid && p.dmod = s.mdl.number

/-- Events of the fabric. -/
def fabEvents (s : State) : List Instr :=
  let me := s.mdl.number
  let now := s.env.clk
  s.fab.net.map portEvent
    ++ s.fab.up.map (fun p => if p.pkind = 4 then .reductionContribution p else .multicastReplication p)
    ++ ((s.fab.out.filter fun p => p.dmod = me).map fun p =>
        if p.pkind = 8 then [Instr.acknowledgement p] else if p.pkind = 9 then [.mergedAcknowledgement p] else []).flatten
    ++ (s.fab.unacked.filter fun u => u.inj && u.since + nsToClk 250000 ≤ now).map (fun u => .retransmissionTimeout u.pkt.xid u.pkt.pseq)
    ++ ((s.fab.net ++ s.fab.up ++ s.fab.out).filter (expired s)).map (fun p => .packetLifetimeExpiry p.xid p.pseq)
    ++ (s.fab.rx.filter fun r => r.2.since + nsToClk 4000000 ≤ now).map (fun r => .countingEndTimeout (r.1 / 2 ^ 24) (r.1 % 2 ^ 24))
    ++ s.fab.reds.map (fun r => .reductionTimeout r.key r.group r.ver r.epoch r.pseq)
    ++ (s.fab.cmds.filter fun c => c.2.fail ≠ 0 && c.2.isOver).map (fun c => .fabricFailureRecorded c.2.tid c.2.seq)
    ++ (s.fab.cmds.filter fun c => mayInject s c.2 || getWaits s c.2).map (fun c => .fabricEngineFault c.2.tid c.2.seq none)
    ++ s.fab.peers.filterMap fun p => match p.2 with | .recov _ => some (.peerLost p.1) | _ => none

/-- Events of the partitions: tree barriers with this module alone, and brumation. -/
def partEvents (s : State) (key : Nat) (p : Part) : List Instr :=
  let alone := s.fab.peers.isEmpty
  (p.objs.filter fun o => moduleReady s o.2 o.1 && !o.2.others s.mdl.number).map (fun o => .treeBarrierRelease key o.1 { phase := o.2.phase % 65536 })
    ++ p.waves.map (fun x => .haltWave key x)
    ++ (match p.haltAt, p.first with
        | some _, some x => if alone then [Instr.firstTriggerSettled key x] else []
        | _, _ => [])
    ++ (if p.resumeT.isSome || (p.asked.isSome && alone) then [.resumeAtT key] else [])
    ++ (if p.asked.isSome && p.resumeT.isNone then [.resumeFailure key] else [])

/-- The dies that have something to dispatch or to restore. -/
def dispatchEvents (s : State) : List Instr :=
  if (s.lch.any fun p => p.2.waiting s) || s.wgs.any fun p => p.2.evicted then (liveDies s).map fun d => .dispatchOpportunity d else []

/-- The events that may now take place without anything from outside. -/
def autoEvents (s : State) : List Instr :=
  barrelEvents s ++ (s.thr.map fun p => threadEvents s p.1 p.2).flatten ++ (s.cus.map fun p => cuEvents s p.1 p.2).flatten
    ++ (s.wgs.map fun p => wgEvents p.1 p.2).flatten ++ (s.lch.map fun p => launchEvents p.1 p.2).flatten ++ memEvents s
    ++ (s.ctxs.map fun p => ctxEvents s p.1 p.2).flatten ++ fabEvents s ++ (s.parts.map fun p => partEvents s p.1 p.2).flatten
    ++ dispatchEvents s

end Sys2Proof.Machine
end

