-- ==== Sys2Proof/Machine/Sal.lean ====
section
/-! DEFINITION. The scalar ALU (R181-R183): each form acts once when LIVE is not empty. -/

namespace Sys2Proof.Machine

open Host (Outcome)

/-- The patterns of operands A, B and C of a scalar form with `n` sources; IMM32 stands for the last (R121). -/
def salSrc (s : State) (tid : Nat) (t : Thread) (f : Fields) (n : Nat) : Nat × Nat × Nat :=
  let ty := Forms.ty f
  let imm := immTy ty f.x
  (uniTy s tid t ty f.a.toNat,
   if n = 2 && f.xk then imm else uniTy s tid t ty f.b.toNat,
   if n = 3 && f.xk then imm else uniTy s tid t ty f.c.toNat)

/-- SAT of the arithmetic layout (R119). -/
def satBit (f : Fields) : Bool := Forms.mo f 6 6 = 1

/-- What a scalar form with one result does: D takes it once when LIVE is not empty (R116, R181). -/
def salAct (f : Fields) (n : Nat) (res : Nat → Nat → Nat → Nat) (s : State) (tid : Nat) (t : Thread) : Act :=
  if t.live f = 0 then .null
  else
    let (a, b, c) := salSrc s tid t f n
    .done { writes := [.uni f.d.toNat (uniStore (Forms.ty f) (res a b c))] }

/-- SADD: *a* + *b* (R182). -/
def execSadd (f : Fields) (s : State) : Outcome State Fault Refusal :=
  issueAct 0x040 f s (salAct f 2 fun a b _ => Arith.add (Forms.ty f) (satBit f) a b)

/-- SSUB: *a* − *b* (R182). -/
def execSsub (f : Fields) (s : State) : Outcome State Fault Refusal :=
  issueAct 0x041 f s (salAct f 2 fun a b _ => Arith.sub (Forms.ty f) (satBit f) a b)

/-- SMUL: *a* × *b* (R182). -/
def execSmul (f : Fields) (s : State) : Outcome State Fault Refusal :=
  issueAct 0x042 f s (salAct f 2 fun a b _ => Arith.mul (Forms.ty f) (satBit f) a b)

/-- SMULH: the high half of the exact product (R182). -/
def execSmulh (f : Fields) (s : State) : Outcome State Fault Refusal :=
  issueAct 0x043 f s (salAct f 2 fun a b _ => Arith.mulh (Forms.ty f) a b)

/-- SMAD: *a* × *b* + *c* with one wrap or saturation (R182). -/
def execSmad (f : Fields) (s : State) : Outcome State Fault Refusal :=
  issueAct 0x044 f s (salAct f 3 fun a b c => Arith.mad (Forms.ty f) (satBit f) a b c)

/-- SAND (R182). -/
def execSand (f : Fields) (s : State) : Outcome State Fault Refusal :=
  issueAct 0x045 f s (salAct f 2 fun a b _ => a &&& b)

/-- SOR (R182). -/
def execSor (f : Fields) (s : State) : Outcome State Fault Refusal :=
  issueAct 0x046 f s (salAct f 2 fun a b _ => a ||| b)

/-- SXOR (R182). -/
def execSxor (f : Fields) (s : State) : Outcome State Fault Refusal :=
  issueAct 0x047 f s (salAct f 2 fun a b _ => a ^^^ b)

/-- SSHL: the count is taken modulo the width (R182). -/
def execSshl (f : Fields) (s : State) : Outcome State Fault Refusal :=
  issueAct 0x048 f s (salAct f 2 fun a b _ => Arith.shl (Forms.ty f) a b)

/-- SSHR (R182). -/
def execSshr (f : Fields) (s : State) : Outcome State Fault Refusal :=
  issueAct 0x049 f s (salAct f 2 fun a b _ => Arith.shr (Forms.ty f) a b)

/-- SSAR (R182). -/
def execSsar (f : Fields) (s : State) : Outcome State Fault Refusal :=
  issueAct 0x04A f s (salAct f 2 fun a b _ => Arith.sar (Forms.ty f) a b)

/-- SMIN (R182). -/
def execSmin (f : Fields) (s : State) : Outcome State Fault Refusal :=
  issueAct 0x04B f s (salAct f 2 fun a b _ => Arith.min (Forms.ty f) a b)

/-- SMAX (R182). -/
def execSmax (f : Fields) (s : State) : Outcome State Fault Refusal :=
  issueAct 0x04C f s (salAct f 2 fun a b _ => Arith.max (Forms.ty f) a b)

/-- SSEL (R182). -/
def execSsel (f : Fields) (s : State) : Outcome State Fault Refusal :=
  issueAct 0x04E f s (salAct f 3 fun a b c => if c ≠ 0 then a else b)

/-- SMOV: extended under R138 (R182). -/
def execSmov (f : Fields) (s : State) : Outcome State Fault Refusal :=
  issueAct 0x04F f s (salAct f 1 fun a _ _ => a)

/-- SCLZ (R182). -/
def execSclz (f : Fields) (s : State) : Outcome State Fault Refusal :=
  issueAct 0x052 f s (salAct f 1 fun a _ _ => Arith.clz (Forms.ty f) a)

/-- SPOP (R182). -/
def execSpop (f : Fields) (s : State) : Outcome State Fault Refusal :=
  issueAct 0x053 f s (salAct f 1 fun a _ _ => Arith.pop (Forms.ty f) a)

/-- SBFE (R183). -/
def execSbfe (f : Fields) (s : State) : Outcome State Fault Refusal :=
  issueAct 0x054 f s (salAct f 2 fun a b _ => Arith.bfe (Forms.ty f) a b)

/-- SBFI (R183). -/
def execSbfi (f : Fields) (s : State) : Outcome State Fault Refusal :=
  issueAct 0x055 f s (salAct f 3 fun a b c => Arith.bfi (Forms.ty f) a b c)

/-- SCMP: the relation in MOD 9:7, written into every lane of LIVE (R182). -/
def execScmp (f : Fields) (s : State) : Outcome State Fault Refusal :=
  issueAct 0x04D f s fun s tid t =>
    let (a, b, _) := salSrc s tid t f 2
    let r := Arith.rel (Forms.mo f 9 7) (Forms.ty f) a b
    .done { writes := predWrites f.d.toNat (if r then 0xFFFFFFFF else 0) (t.live f) }

/-- SMOVI: IMM32, or with HI its place in the high half of D (R183). -/
def execSmovi (f : Fields) (s : State) : Outcome State Fault Refusal :=
  issueAct 0x050 f s fun s tid t =>
    if t.live f = 0 then .null
    else
      let v := if Forms.mo f 7 7 = 1 then
          (uniVal s tid t f.d.toNat &&& 0xFFFFFFFF) ||| (f.x.setWidth 64 <<< 32)
        else uniStore (Forms.ty f) (immTy (Forms.ty f) f.x)
      .done { writes := [.uni f.d.toNat v] }

/-- The index of SLEA (R183): operand B, or IMM32, at the type. -/
def sleaIndex (s : State) (tid : Nat) (t : Thread) (f : Fields) : Word64 :=
  let b : Word64 := if f.xk then f.x.setWidth 64 else uniVal s tid t f.b.toNat
  match Forms.ty f with
  | 0 => (b.setWidth 32).signExtend 64
  | 1 => (b.setWidth 32).setWidth 64
  | _ => b

/-- SLEA: base plus shifted index, modulo 2^64 (R183). -/
def execSlea (f : Fields) (s : State) : Outcome State Fault Refusal :=
  issueAct 0x051 f s fun s tid t =>
    if t.live f = 0 then .null
    else .done { writes := [.uni f.d.toNat (uniVal s tid t f.a.toNat + (sleaIndex s tid t f <<< Forms.mo f 9 7))] }

end Sys2Proof.Machine
end

