-- ==== Sys2Proof/Machine/Vin.lean ====
section
/-! DEFINITION. The vector integer forms (R187-R189): each lane of LIVE. -/

namespace Sys2Proof.Machine

open Host (Outcome)

/-- The patterns of operands A, B and C in a lane of a vector form with `n` sources; IMM32 stands for the last (R121). -/
def vecSrc (s : State) (tid : Nat) (t : Thread) (f : Fields) (n l : Nat) : Nat × Nat × Nat :=
  let ty := Forms.ty f
  let imm := immTy ty f.x
  (laneTy s tid t ty f.a.toNat l,
   if n = 2 && f.xk then imm else laneTy s tid t ty f.b.toNat l,
   if n = 3 && f.xk then imm else laneTy s tid t ty f.c.toNat l)

/-- What a per-lane form does: D takes the result in the lanes of LIVE (R184). -/
def vecAct (f : Fields) (n : Nat) (res : Nat → Nat → Nat → Nat) (s : State) (tid : Nat) (t : Thread) : Act :=
  .done { writes := vecWrites f.d.toNat (tyWide (Forms.ty f)) (t.live f) fun l =>
            let (a, b, c) := vecSrc s tid t f n l
            res a b c }

/-- An integer operation at a type, per element for S16x2 (R187). -/
def perElem (f : Fields) (g : Nat → Nat → Nat → Nat) (a b : Nat) : Nat :=
  if Forms.ty f = 12 then Arith.packed (g 2) a b else g (Forms.ty f) a b

/-- VADD: *a* + *b* (R187). -/
def execVadd (f : Fields) (s : State) : Outcome State Fault Refusal :=
  issueAct 0x080 f s (vecAct f 2 fun a b _ => perElem f (fun ty => Arith.add ty (satBit f)) a b)

/-- VSUB: *a* − *b* (R187). -/
def execVsub (f : Fields) (s : State) : Outcome State Fault Refusal :=
  issueAct 0x081 f s (vecAct f 2 fun a b _ => perElem f (fun ty => Arith.sub ty (satBit f)) a b)

/-- VMUL (R187). -/
def execVmul (f : Fields) (s : State) : Outcome State Fault Refusal :=
  issueAct 0x082 f s (vecAct f 2 fun a b _ => Arith.mul (Forms.ty f) (satBit f) a b)

/-- VMULH (R187). -/
def execVmulh (f : Fields) (s : State) : Outcome State Fault Refusal :=
  issueAct 0x083 f s (vecAct f 2 fun a b _ => Arith.mulh (Forms.ty f) a b)

/-- VMAD: one wrap or saturation at the end (R187). -/
def execVmad (f : Fields) (s : State) : Outcome State Fault Refusal :=
  issueAct 0x084 f s (vecAct f 3 fun a b c => Arith.mad (Forms.ty f) (satBit f) a b c)

/-- VAND (R187). -/
def execVand (f : Fields) (s : State) : Outcome State Fault Refusal :=
  issueAct 0x087 f s (vecAct f 2 fun a b _ => a &&& b)

/-- VOR (R187). -/
def execVor (f : Fields) (s : State) : Outcome State Fault Refusal :=
  issueAct 0x088 f s (vecAct f 2 fun a b _ => a ||| b)

/-- VXOR (R187). -/
def execVxor (f : Fields) (s : State) : Outcome State Fault Refusal :=
  issueAct 0x089 f s (vecAct f 2 fun a b _ => a ^^^ b)

/-- VSHL: the count is taken modulo the width (R189). -/
def execVshl (f : Fields) (s : State) : Outcome State Fault Refusal :=
  issueAct 0x08A f s (vecAct f 2 fun a b _ => Arith.shl (Forms.ty f) a b)

/-- VSHR (R187). -/
def execVshr (f : Fields) (s : State) : Outcome State Fault Refusal :=
  issueAct 0x08B f s (vecAct f 2 fun a b _ => Arith.shr (Forms.ty f) a b)

/-- VSAR (R187). -/
def execVsar (f : Fields) (s : State) : Outcome State Fault Refusal :=
  issueAct 0x08C f s (vecAct f 2 fun a b _ => Arith.sar (Forms.ty f) a b)

/-- VMIN (R187). -/
def execVmin (f : Fields) (s : State) : Outcome State Fault Refusal :=
  issueAct 0x08D f s (vecAct f 2 fun a b _ => perElem f Arith.min a b)

/-- VMAX (R187). -/
def execVmax (f : Fields) (s : State) : Outcome State Fault Refusal :=
  issueAct 0x08E f s (vecAct f 2 fun a b _ => perElem f Arith.max a b)

/-- VABS (R187). -/
def execVabs (f : Fields) (s : State) : Outcome State Fault Refusal :=
  issueAct 0x08F f s (vecAct f 1 fun a _ _ => perElem f (fun ty x _ => Arith.abs ty (satBit f) x) a 0)

/-- VMOV (R187). -/
def execVmov (f : Fields) (s : State) : Outcome State Fault Refusal :=
  issueAct 0x092 f s (vecAct f 1 fun a _ _ => a)

/-- VBFE, as SBFE (R187, R183). -/
def execVbfe (f : Fields) (s : State) : Outcome State Fault Refusal :=
  issueAct 0x094 f s (vecAct f 2 fun a b _ => Arith.bfe (Forms.ty f) a b)

/-- VBFI, as SBFI (R187, R183). -/
def execVbfi (f : Fields) (s : State) : Outcome State Fault Refusal :=
  issueAct 0x095 f s (vecAct f 3 fun a b c => Arith.bfi (Forms.ty f) a b c)

/-- VBREV (R187). -/
def execVbrev (f : Fields) (s : State) : Outcome State Fault Refusal :=
  issueAct 0x098 f s (vecAct f 1 fun a _ _ => Arith.brev (Forms.ty f) a)

/-- The 64-bit result of VMADW in a lane: 32-bit factors and a 64-bit addend, C or IMM32 (R187). -/
def vmadwLane (s : State) (tid : Nat) (t : Thread) (f : Fields) (l : Nat) : Nat :=
  let ty := Forms.ty f
  let wide := if ty = 0 then 4 else 5
  let c := if f.xk then immTy (if ty = 0 then 4 else 5) f.x else laneTy s tid t wide f.c.toNat l
  Arith.st wide (satBit f)
    (numTy ty (lane32 s tid t f.a.toNat 0 l).toNat * numTy ty (lane32 s tid t f.b.toNat 0 l).toNat + numTy wide c)

/-- VMADW: a 32-bit product plus a 64-bit addend, stored as S64 or U64 (R187). -/
def execVmadw (f : Fields) (s : State) : Outcome State Fault Refusal :=
  issueAct 0x085 f s fun s tid t =>
    .done { writes := vecWrites f.d.toNat true (t.live f) (vmadwLane s tid t f) }

/-- The exact sum of VADDC in a lane (R188). -/
def vaddcSum (s : State) (tid : Nat) (t : Thread) (f : Fields) (l : Nat) : Nat :=
  let a := (lane32 s tid t f.a.toNat 0 l).toNat
  let b := (lane32 s tid t f.b.toNat 0 l).toNat
  let sub := Forms.mo f 8 8 = 1
  let bb := if sub then 2 ^ 32 - 1 - b else b
  let ci := if Forms.mo f 7 7 = 1 then (t.pred (Forms.ex f 3 0)).getLsbD l else sub
  a + bb + (if ci then 1 else 0)

/-- VADDC: the sum modulo 2^32 and the carry (R188). -/
def execVaddc (f : Fields) (s : State) : Outcome State Fault Refusal :=
  issueAct 0x086 f s fun s tid t =>
    .done { writes := vecWrites f.d.toNat false (t.live f) (vaddcSum s tid t f) ++
              predWrites (Forms.ex f 7 4) (laneMask fun l => 2 ^ 32 ≤ vaddcSum s tid t f l) (t.live f) }

/-- VCMP: the relation in MOD 9:7, per lane of LIVE (R188). -/
def execVcmp (f : Fields) (s : State) : Outcome State Fault Refusal :=
  issueAct 0x090 f s fun s tid t =>
    let r := laneMask fun l =>
      let (a, b, _) := vecSrc s tid t f 2 l
      Arith.rel (Forms.mo f 9 7) (Forms.ty f) a b
    .done { writes := predWrites f.d.toNat r (t.live f) }

/-- VSEL: *a* where predicate P is set, else *b* (R188). -/
def execVsel (f : Fields) (s : State) : Outcome State Fault Refusal :=
  issueAct 0x091 f s fun s tid t =>
    let p := t.pred (Forms.ex f 3 0)
    .done { writes := vecWrites f.d.toNat (tyWide (Forms.ty f)) (t.live f) fun l =>
              if p.getLsbD l then laneTy s tid t (Forms.ty f) f.a.toNat l else laneTy s tid t (Forms.ty f) f.b.toNat l }

/-- VMOVI: IMM32 at the type, in every lane of LIVE (R187). -/
def execVmovi (f : Fields) (s : State) : Outcome State Fault Refusal :=
  issueAct 0x093 f s fun _ _ t =>
    .done { writes := vecWrites f.d.toNat (tyWide (Forms.ty f)) (t.live f) fun _ => immTy (Forms.ty f) f.x }

/-- VCLZ: leading zero bits of *a*, into the single register D (R187). -/
def execVclz (f : Fields) (s : State) : Outcome State Fault Refusal :=
  issueAct 0x096 f s fun s tid t =>
    .done { writes := vecWrites f.d.toNat false (t.live f) fun l =>
              Arith.clz (Forms.ty f) (laneTy s tid t (Forms.ty f) f.a.toNat l) }

/-- VPOP: one bits of *a*, into the single register D (R187). -/
def execVpop (f : Fields) (s : State) : Outcome State Fault Refusal :=
  issueAct 0x097 f s fun s tid t =>
    .done { writes := vecWrites f.d.toNat false (t.live f) fun l =>
              Arith.pop (Forms.ty f) (laneTy s tid t (Forms.ty f) f.a.toNat l) }

end Sys2Proof.Machine
end

