-- ==== Sys2Proof/Machine/Vfp.lean ====
section
/-! DEFINITION. The vector floating-point forms (R190-R194): each lane of LIVE, flags from the lanes of EFF. -/

namespace Sys2Proof.Machine

open Host (Outcome)

/-- The flags that the lanes of a mask raise (R147, R149). -/
def laneFlags (m : Mask) (fl : Nat → Nat) : Nat := (lanesOf m).foldl (fun acc l => acc ||| fl l) 0

/-- RM of the arithmetic layout (R119). -/
def rmBits (f : Fields) : Nat := Forms.mo f 5 4

/-- The packed format of TY (R143). -/
def fmt2 (f : Fields) : Fmt := if Forms.ty f = 10 then f16 else bf16

/-- What a floating-point form with a 32-bit result does: D takes the patterns in the lanes of LIVE, and the lanes of EFF
raise the flags (R149, R184). -/
def fpAct (f : Fields) (n : Nat) (res : Nat → Nat → Nat → Nat × Nat) (s : State) (tid : Nat) (t : Thread) : Act :=
  let r := fun l =>
    let (a, b, c) := vecSrc s tid t f n l
    res a b c
  .done { writes := vecWrites f.d.toNat false (t.live f) fun l => (r l).1
          flags := laneFlags (t.eff f) fun l => (r l).2 }

/-- An operation per element of a packed pair (R143, R190). -/
def packed2 (g : Nat → Nat → Nat → Nat × Nat) (a b c : Nat) : Nat × Nat :=
  let lo := g (a % 65536) (b % 65536) (c % 65536)
  let hi := g (a / 65536) (b / 65536) (c / 65536)
  (lo.1 + hi.1 * 65536, lo.2 ||| hi.2)

/-- NB or NC: the sign bit of both elements flipped (R190). -/
def negPair (on : Bool) (x : Nat) : Nat := if on then x ^^^ 0x80008000 else x

/-- FADD: *a* + *b* (R190). -/
def execFadd (f : Fields) (s : State) : Outcome State Fault Refusal :=
  issueAct 0x0C0 f s (fpAct f 2 fun a b _ =>
    f32.add (rmBits f) (f32.val a) (f32.val b))

/-- FSUB: *a* − *b* (R190). -/
def execFsub (f : Fields) (s : State) : Outcome State Fault Refusal :=
  issueAct 0x0C1 f s (fpAct f 2 fun a b _ =>
    f32.add (rmBits f) (f32.val a) (f32.val b).negate)

/-- FMUL: *a* × *b* (R190). -/
def execFmul (f : Fields) (s : State) : Outcome State Fault Refusal :=
  issueAct 0x0C2 f s (fpAct f 2 fun a b _ =>
    f32.mul (rmBits f) (f32.val a) (f32.val b))

/-- FFMA: *a* × *b* + *c*, rounded once (R190). -/
def execFfma (f : Fields) (s : State) : Outcome State Fault Refusal :=
  issueAct 0x0C3 f s (fpAct f 3 fun a b c =>
    f32.fma (rmBits f) (f32.val a) (f32.val b) (f32.val c))

/-- FMIN: minimumNumber (R191). -/
def execFmin (f : Fields) (s : State) : Outcome State Fault Refusal :=
  issueAct 0x0C4 f s (fpAct f 2 fun a b _ =>
    f32.minmax false a b)

/-- FMAX: maximumNumber (R191). -/
def execFmax (f : Fields) (s : State) : Outcome State Fault Refusal :=
  issueAct 0x0C5 f s (fpAct f 2 fun a b _ =>
    f32.minmax true a b)

/-- FDIV, correctly rounded (R190). -/
def execFdiv (f : Fields) (s : State) : Outcome State Fault Refusal :=
  issueAct 0x0C8 f s (fpAct f 2 fun a b _ =>
    f32.div (rmBits f) (f32.val a) (f32.val b))

/-- FSQRT, correctly rounded (R190). -/
def execFsqrt (f : Fields) (s : State) : Outcome State Fault Refusal :=
  issueAct 0x0C9 f s (fpAct f 1 fun a _ _ =>
    f32.sqrt (rmBits f) (f32.val a))

/-- FRCP: 1/*a* (R193). -/
def execFrcp (f : Fields) (s : State) : Outcome State Fault Refusal :=
  issueAct 0x0CA f s (fpAct f 1 fun a _ _ =>
    f32.div 0 (.fin false 1 0) (f32.val a))

/-- FRSQ: 1/√*a* (R193). -/
def execFrsq (f : Fields) (s : State) : Outcome State Fault Refusal :=
  issueAct 0x0CB f s (fpAct f 1 fun a _ _ =>
    f32.rsqrt (f32.val a))

/-- FEXP2: 2^*a* (R193). -/
def execFexp2 (f : Fields) (s : State) : Outcome State Fault Refusal :=
  issueAct 0x0CC f s (fpAct f 1 fun a _ _ =>
    f32.exp2 (f32.val a))

/-- FLOG2: log₂ *a* (R193). -/
def execFlog2 (f : Fields) (s : State) : Outcome State Fault Refusal :=
  issueAct 0x0CD f s (fpAct f 1 fun a _ _ =>
    f32.log2 (f32.val a))

/-- FTANH: tanh *a* (R193). -/
def execFtanh (f : Fields) (s : State) : Outcome State Fault Refusal :=
  issueAct 0x0CE f s (fpAct f 1 fun a _ _ =>
    f32.tanh (f32.val a))

/-- HADD2, per element (R190). -/
def execHadd2 (f : Fields) (s : State) : Outcome State Fault Refusal :=
  issueAct 0x0CF f s (fpAct f 2 fun a b _ =>
    packed2 (fun x y _ => (fmt2 f).add (rmBits f) ((fmt2 f).val x) ((fmt2 f).val y)) a
      (negPair (Forms.mo f 7 7 = 1) b) 0)

/-- HMUL2, per element (R190). -/
def execHmul2 (f : Fields) (s : State) : Outcome State Fault Refusal :=
  issueAct 0x0D0 f s (fpAct f 2 fun a b _ =>
    packed2 (fun x y _ => (fmt2 f).mul (rmBits f) ((fmt2 f).val x) ((fmt2 f).val y)) a
      (negPair (Forms.mo f 7 7 = 1) b) 0)

/-- HFMA2, per element, rounded once (R190). -/
def execHfma2 (f : Fields) (s : State) : Outcome State Fault Refusal :=
  issueAct 0x0D1 f s (fpAct f 3 fun a b c =>
    packed2 (fun x y z => (fmt2 f).fma (rmBits f) ((fmt2 f).val x) ((fmt2 f).val y) ((fmt2 f).val z)) a
      (negPair (Forms.mo f 7 7 = 1) b) (negPair (Forms.mo f 8 8 = 1) c))

/-- HMAX2, per element (R191). -/
def execHmax2 (f : Fields) (s : State) : Outcome State Fault Refusal :=
  issueAct 0x0D2 f s (fpAct f 2 fun a b _ =>
    packed2 (fun x y _ => (fmt2 f).minmax true x y) a b 0)

/-- HMIN2, per element (R191). -/
def execHmin2 (f : Fields) (s : State) : Outcome State Fault Refusal :=
  issueAct 0x0D3 f s (fpAct f 2 fun a b _ =>
    packed2 (fun x y _ => (fmt2 f).minmax false x y) a b 0)

/-- FCMP: the relation in MOD 9:7, per lane of LIVE; NV from the lanes of EFF (R192). -/
def execFcmp (f : Fields) (s : State) : Outcome State Fault Refusal :=
  issueAct 0x0C6 f s fun s tid t =>
    let r := fun l =>
      let (a, b, _) := vecSrc s tid t f 2 l
      fcmpRel (Forms.mo f 9 7) (f32.val a) (f32.val b)
    .done { writes := predWrites f.d.toNat (laneMask fun l => (r l).1) (t.live f)
            flags := laneFlags (t.eff f) fun l => (r l).2 }

/-- FCLASS: a mask with one bit set; F16 and BF16 read bits 15:0 (R192). -/
def execFclass (f : Fields) (s : State) : Outcome State Fault Refusal :=
  issueAct 0x0C7 f s (fpAct f 1 fun a _ _ =>
    (match Forms.ty f with
     | 6 => f32.fclass a
     | 7 => f16.fclass (a % 65536)
     | _ => bf16.fclass (a % 65536), 0))

end Sys2Proof.Machine
end

