-- ==== Sys2Proof/Machine/Vxf.lean ====
section
/-! DEFINITION. Conversions, exchanges between lanes, votes, reductions, scans and predicate forms (R195-R205). -/

namespace Sys2Proof.Machine

open Host (Outcome)

/-! ### Conversions (R151, R195, R196) -/

/-- The float format of a type code: F32, F16 or BF16. -/
def fmtOf (ty : Nat) : Fmt := if ty = 7 then f16 else if ty = 8 then bf16 else f32
/-- Whether a type code is F32, F16 or BF16. -/
def tyFloat (ty : Nat) : Bool := ty = 6 || ty = 7 || ty = 8
/-- The least and greatest value of an integer type (R137). -/
def tyRange (ty : Nat) : Int × Int :=
  let w := tyWidth ty
  if tySigned ty then (-(2 ^ (w - 1) : Nat), (2 ^ (w - 1) : Nat) - 1) else (0, (2 ^ w : Nat) - 1)

/-- CVT of one value from type `st` to type `dt` (R151): the register pattern of the result and the flags. Any integer beyond
F16's range raises OF as R147 says, though R151 names the 64-bit types alone (log 63). -/
def cvtVal (st dt rm : Nat) (sat : Bool) (x : Nat) : Nat × Nat :=
  if tyFloat st then
    let v := (fmtOf st).val (x % 2 ^ tyWidth st)
    if tyFloat dt then (fmtOf dt).ofVal rm v
    else
      let (lo, hi) := tyRange dt
      let (i, fl) := floatToInt rm lo hi v
      let p := storeTy dt false i
      (if tyWidth dt = 16 then lane16 (tySigned dt) p else p, fl)
  else
    let i := numTy st x
    if tyFloat dt then (fmtOf dt).ofInt rm i
    else
      let p := storeTy dt sat i
      (if tyWidth dt = 16 then lane16 (tySigned dt) p else p, 0)

/-- CVT in lane `l`: a value, a packed pair, or one element of a pair (R195). -/
def cvtLane (s : State) (tid : Nat) (t : Thread) (f : Fields) (l : Nat) : Nat × Nat :=
  let dt := Forms.ty f
  let st := Forms.ex f 3 0
  let rm := rmBits f
  if dt = 10 || dt = 11 then
    let k := fmt2 f
    let lo := k.ofVal rm (f32.val (lane32 s tid t f.a.toNat 0 l).toNat)
    let hi := k.ofVal rm (f32.val (lane32 s tid t f.b.toNat 0 l).toNat)
    (lo.1 + hi.1 * 65536, lo.2 ||| hi.2)
  else if st = 10 || st = 11 then
    let k := if st = 10 then f16 else bf16
    let x := (lane32 s tid t f.a.toNat 0 l).toNat
    f32.ofVal rm (k.val (if Forms.ex f 4 4 = 1 then x / 65536 else x % 65536))
  else cvtVal st dt rm (satBit f) (laneTy s tid t st f.a.toNat l)

/-- CVT (R195). -/
def execCvt (f : Fields) (s : State) : Outcome State Fault Refusal :=
  issueAct 0x100 f s fun s tid t =>
    .done { writes := vecWrites f.d.toNat (tyWide (Forms.ty f)) (t.live f) fun l => (cvtLane s tid t f l).1
            flags := laneFlags (t.eff f) fun l => (cvtLane s tid t f l).2 }

/-- F32 to fixed point at a scale: rounded to nearest-even and saturated (R141). -/
def fxcvt (x scale : Nat) : Nat × Nat :=
  let (i, fl) := floatToInt 0 (-(2 ^ 63 : Nat)) ((2 ^ 63 : Nat) - 1) (f32.val x) scale
  (storeInt 64 true false i, fl)

/-- FXCVT (R196). -/
def execFxcvt (f : Fields) (s : State) : Outcome State Fault Refusal :=
  issueAct 0x101 f s fun s tid t =>
    let r := fun l => fxcvt (lane32 s tid t f.a.toNat 0 l).toNat (Forms.ex f 5 0)
    .done { writes := vecWrites f.d.toNat true (t.live f) fun l => (r l).1
            flags := laneFlags (t.eff f) fun l => (r l).2 }

/-- FXTOF: fixed point to F32, one rounding per RM (R141, R196). -/
def execFxtof (f : Fields) (s : State) : Outcome State Fault Refusal :=
  issueAct 0x102 f s fun s tid t =>
    let r := fun l =>
      f32.ofInt (rmBits f) (signedOf 64 (lane64 s tid t f.a.toNat l).toNat) (-(Forms.ex f 5 0 : Nat) : Int)
    .done { writes := vecWrites f.d.toNat false (t.live f) fun l => (r l).1
            flags := laneFlags (t.eff f) fun l => (r l).2 }

/-! ### Exchanges between lanes (R197-R199) -/

/-- What an exchange gives lane `l` that reads lane `j`, none when out of range: the value and its validity (R197). -/
def exchange (s : State) (tid : Nat) (t : Thread) (f : Fields) (j : Nat → Option Nat) (l : Nat) : Nat × Bool :=
  let val := laneTy s tid t (Forms.ty f) f.a.toNat
  match j l with
  | none => (val l, false)
  | some k => if t.deadLanes.getLsbD k then (0, false) else (val k, true)

/-- What an exchange form does (R197). -/
def exchangeAct (f : Fields) (j : State → Nat → Thread → Nat → Option Nat) (s : State) (tid : Nat) (t : Thread) : Act :=
  let r := exchange s tid t f (j s tid t)
  .done { writes := vecWrites f.d.toNat (tyWide (Forms.ty f)) (t.live f) (fun l => (r l).1) ++
            predWrites (Forms.ex f 3 0) (laneMask fun l => (r l).2) (t.live f) }

/-- QSWP: lane *l* reads lane *l* xor *m* (R198). -/
def execQswp (f : Fields) (s : State) : Outcome State Fault Refusal :=
  issueAct 0x103 f s (exchangeAct f fun _ _ _ l => some (l ^^^ Forms.mo f 8 7))

/-- QBC: every lane of a quad reads its lane *m* (R198). -/
def execQbc (f : Fields) (s : State) : Outcome State Fault Refusal :=
  issueAct 0x104 f s (exchangeAct f fun _ _ _ l => some (4 * (l / 4) + Forms.mo f 8 7))

/-- The lane operand of SHFL in lane `l` (R199). -/
def shflB (s : State) (tid : Nat) (t : Thread) (f : Fields) (l : Nat) : Nat :=
  if Forms.ex f 4 4 = 1 then Forms.ex f 9 5 else (lane32 s tid t f.b.toNat 0 l).toNat

/-- The lane that SHFL reads, none when out of range (R199). -/
def shflSrc (mode b l : Nat) : Option Nat :=
  match mode with
  | 0 => some (b % 32)
  | 1 => if b % 64 ≤ l then some (l - b % 64) else none
  | 2 => if l + b % 64 ≤ 31 then some (l + b % 64) else none
  | _ => some (l ^^^ (b % 32))

/-- SHFL (R199). -/
def execShfl (f : Fields) (s : State) : Outcome State Fault Refusal :=
  issueAct 0x105 f s (exchangeAct f fun s tid t l => shflSrc (Forms.mo f 8 7) (shflB s tid t f l) l)

/-! ### Votes, reductions, scans (R200-R202) -/

/-- The participants Q (R200). In a tadpole the group is its one lane (R399). -/
def participants (t : Thread) (f : Fields) : Mask := t.eff f

/-- VOTE (R201); the upper half of an s or w register that takes the mask is zero (log 45). -/
def execVote (f : Fields) (s : State) : Outcome State Fault Refusal :=
  issueAct 0x106 f s fun _ _ t =>
    let live := t.live f
    let q := participants t f
    let p := t.pred (Forms.ex f 3 0) &&& q
    match Forms.mo f 8 7 with
    | 0 => .done { writes := predWrites f.d.toNat (if p ≠ 0 then 0xFFFFFFFF else 0) live }
    | 1 => .done { writes := predWrites f.d.toNat (if p = q then 0xFFFFFFFF else 0) live }
    | 2 => .done { writes := predWrites f.d.toNat (if p = q || p = 0 then 0xFFFFFFFF else 0) live }
    | _ => if live = 0 then .null else .done { writes := anyWrites f.d.toNat false live p.toNat (p.setWidth 64) }

/-- A partial result of a reduction: exact for integers, a pattern with flags for F32; none is absent (R202). -/
abbrev Part3 := Option (Int × Nat)

/-- One combination of GRED and GSCAN (R202): integer ADD stays exact. -/
def combine (o ty rm : Nat) (x y : Int × Nat) : Int × Nat :=
  if ty = 6 then
    let r := match o with
      | 0 => f32.add rm (f32.val x.1.toNat) (f32.val y.1.toNat)
      | 1 => f32.minmax false x.1.toNat y.1.toNat
      | _ => f32.minmax true x.1.toNat y.1.toNat
    ((r.1 : Int), x.2 ||| y.2 ||| r.2)
  else
    (match o with
     | 0 => x.1 + y.1
     | 1 => if x.1 ≤ y.1 then x.1 else y.1
     | 2 => if y.1 ≤ x.1 then x.1 else y.1
     | 3 => ((x.1.toNat &&& y.1.toNat : Nat) : Int)
     | 4 => ((x.1.toNat ||| y.1.toNat : Nat) : Int)
     | _ => ((x.1.toNat ^^^ y.1.toNat : Nat) : Int), 0)

/-- `op(absent, x) = op(x, absent) = x` (R202). -/
def combineOpt (o ty rm : Nat) (x y : Part3) : Part3 :=
  match x, y with
  | none, y => y
  | x, none => x
  | some x, some y => some (combine o ty rm x y)

/-- The identity of an operation at a type, as a pattern (R202). -/
def redIdentity (o ty : Nat) : Nat :=
  let w := if tyWide ty then 64 else 32
  match o with
  | 1 => if ty = 6 then 0x7F800000 else if tySigned ty then 2 ^ (w - 1) - 1 else 2 ^ w - 1
  | 2 => if ty = 6 then 0xFF800000 else if tySigned ty then 2 ^ (w - 1) else 0
  | 3 => 2 ^ w - 1
  | _ => 0

/-- Lane `l` as a term of a reduction. -/
def redTerm (s : State) (tid : Nat) (t : Thread) (f : Fields) (l : Nat) : Int × Nat :=
  let ty := Forms.ty f
  let x := laneTy s tid t ty f.a.toNat l
  (if ty = 6 || ty = 9 || 3 ≤ Forms.mo f 9 7 then (x : Int) else numTy ty x, 0)

/-- A result as a pattern at the type's width (R139, R202); a NaN is the canonical one, also where the only term is one (R145). -/
def redStore (f : Fields) (x : Part3) : Nat :=
  let ty := Forms.ty f
  match x with
  | none => redIdentity (Forms.mo f 9 7) ty
  | some (i, _) =>
    if ty = 6 && (f32.val i.toNat).isNan then f32.nan else if ty = 6 || 3 ≤ Forms.mo f 9 7 then i.toNat else storeInt (tyWidth ty) (tySigned ty) (satBit f) i

/-- One level of the tree of GRED: each even term takes in the next. -/
def redLevel (g : Part3 → Part3 → Part3) : List Part3 → List Part3
  | x :: y :: r => g x y :: redLevel g r
  | l => l

/-- GRED's fixed tree (R202). -/
def gredTree (g : Part3 → Part3 → Part3) (l : List Part3) : Part3 :=
  ((redLevel g (redLevel g (redLevel g (redLevel g (redLevel g l))))).head?).getD none

/-- The reduction over Q. -/
def gredVal (s : State) (tid : Nat) (t : Thread) (f : Fields) : Part3 :=
  let q := participants t f
  gredTree (combineOpt (Forms.mo f 9 7) (Forms.ty f) (rmBits f))
    ((List.range 32).map fun l => if q.getLsbD l then some (redTerm s tid t f l) else none)

/-- The flags of a reduction, recorded once when Q is not empty (R202); a signalling NaN that is the only term raises NV (R145). -/
def redFlags (f : Fields) (x : Part3) : Nat :=
  match x with
  | none => 0
  | some (i, fl) => fl ||| (if Forms.ty f = 6 && f32.val i.toNat = .nan true then flagNV else 0)

/-- GRED (R202). -/
def execGred (f : Fields) (s : State) : Outcome State Fault Refusal :=
  issueAct 0x107 f s fun s tid t =>
    if t.live f = 0 then .null
    else
      let r := gredVal s tid t f
      let p := redStore f r
      .done { writes := anyWrites f.d.toNat (tyWide (Forms.ty f)) (t.live f) p (uniStore (Forms.ty f) p)
              flags := redFlags f r, lat := 16 }

/-- The scan's running value before and after each lane, ascending (R202). -/
def scanRuns (s : State) (tid : Nat) (t : Thread) (f : Fields) : List (Part3 × Part3) :=
  let q := participants t f
  ((List.range 32).foldl (fun (acc : Part3 × List (Part3 × Part3)) l =>
    let run := acc.1
    let nxt := if q.getLsbD l then
        combineOpt (Forms.mo f 9 7) (Forms.ty f) (rmBits f) run (some (redTerm s tid t f l)) else run
    (nxt, acc.2 ++ [(run, nxt)])) (none, [])).2

/-- GSCAN (R202): the running value before a lane of Q under EXCL, after it otherwise; a helper lane takes it as it passes. -/
def execGscan (f : Fields) (s : State) : Outcome State Fault Refusal :=
  issueAct 0x108 f s fun s tid t =>
    let runs := scanRuns s tid t f
    let q := participants t f
    let out := fun l =>
      let (b, a) := (runs[l]?).getD (none, none)
      redStore f (if q.getLsbD l && Forms.ex f 0 0 = 1 then b else a)
    .done { writes := vecWrites f.d.toNat (tyWide (Forms.ty f)) (t.live f) out
            flags := redFlags f (((runs.getLast?).map (·.2)).getD none), lat := 16 }

/-! ### Predicates (R203, R204) -/

/-- PLOP: any function of three predicates by an 8-bit table (R203). -/
def execPlop (f : Fields) (s : State) : Outcome State Fault Refusal :=
  issueAct 0x109 f s fun _ _ t =>
    let p := fun n l => if (t.pred n).getLsbD l then 1 else 0
    let r := laneMask fun l =>
      (Forms.ex f 19 12).testBit (p (Forms.ex f 3 0) l + 2 * p (Forms.ex f 7 4) l + 4 * p (Forms.ex f 11 8) l)
    .done { writes := predWrites f.d.toNat r (t.live f) }

/-- PMOV: a mask to a predicate, or a predicate to the mask of the lanes that live on (R204); the upper half of an s or w register is
zero (log 45). -/
def execPmov (f : Fields) (s : State) : Outcome State Fault Refusal :=
  issueAct 0x10A f s fun s tid t =>
    if Forms.mo f 7 7 = 0 then
      .done { writes := predWrites f.d.toNat ((uniVal s tid t f.a.toNat).setWidth 32) (t.live f) }
    else if t.live f = 0 then .null
    else
      let m := t.pred (Forms.ex f 3 0) &&& ~~~t.deadLanes
      .done { writes := anyWrites f.d.toNat false (t.live f) m.toNat (m.setWidth 64) }

end Sys2Proof.Machine
end

