-- ==== Sys2Proof/Machine/Dispatch.lean ====
section
/-! DEFINITION. One arm for each constructor of `Instr`: its meaning. -/

namespace Sys2Proof.Machine

open Host (Outcome)

def exec (i : Instr) (s : State) : Host.Outcome State Fault Refusal :=
  match i with
  | .nop f => Sys2Proof.Machine.execNop f s
  | .bra f => Sys2Proof.Machine.execBra f s
  | .brc f => Sys2Proof.Machine.execBrc f s
  | .brd f => Sys2Proof.Machine.execBrd f s
  | .join f => Sys2Proof.Machine.execJoin f s
  | .call f => Sys2Proof.Machine.execCall f s
  | .ret f => Sys2Proof.Machine.execRet f s
  | .bri f => Sys2Proof.Machine.execBri f s
  | .exit f => Sys2Proof.Machine.execExit f s
  | .yield f => Sys2Proof.Machine.execYield f s
  | .wait f => Sys2Proof.Machine.execWait f s
  | .waitb f => Sys2Proof.Machine.execWaitb f s
  | .bar f => Sys2Proof.Machine.execBar f s
  | .exmrd f => Sys2Proof.Machine.execExmrd f s
  | .exmwr f => Sys2Proof.Machine.execExmwr f s
  | .rdsr f => Sys2Proof.Machine.execRdsr f s
  | .wrsr f => Sys2Proof.Machine.execWrsr f s
  | .sigchk f => Sys2Proof.Machine.execSigchk f s
  | .bkpt f => Sys2Proof.Machine.execBkpt f s
  | .trap f => Sys2Proof.Machine.execTrap f s
  | .rdtimeL f => Sys2Proof.Machine.execRdtimeL f s
  | .rdtimeG f => Sys2Proof.Machine.execRdtimeG f s
  | .rdband f => Sys2Proof.Machine.execRdband f s
  | .sadd f => Sys2Proof.Machine.execSadd f s
  | .ssub f => Sys2Proof.Machine.execSsub f s
  | .smul f => Sys2Proof.Machine.execSmul f s
  | .smulh f => Sys2Proof.Machine.execSmulh f s
  | .smad f => Sys2Proof.Machine.execSmad f s
  | .sand f => Sys2Proof.Machine.execSand f s
  | .sor f => Sys2Proof.Machine.execSor f s
  | .sxor f => Sys2Proof.Machine.execSxor f s
  | .sshl f => Sys2Proof.Machine.execSshl f s
  | .sshr f => Sys2Proof.Machine.execSshr f s
  | .ssar f => Sys2Proof.Machine.execSsar f s
  | .smin f => Sys2Proof.Machine.execSmin f s
  | .smax f => Sys2Proof.Machine.execSmax f s
  | .scmp f => Sys2Proof.Machine.execScmp f s
  | .ssel f => Sys2Proof.Machine.execSsel f s
  | .smov f => Sys2Proof.Machine.execSmov f s
  | .smovi f => Sys2Proof.Machine.execSmovi f s
  | .slea f => Sys2Proof.Machine.execSlea f s
  | .sclz f => Sys2Proof.Machine.execSclz f s
  | .spop f => Sys2Proof.Machine.execSpop f s
  | .sbfe f => Sys2Proof.Machine.execSbfe f s
  | .sbfi f => Sys2Proof.Machine.execSbfi f s
  | .vadd f => Sys2Proof.Machine.execVadd f s
  | .vsub f => Sys2Proof.Machine.execVsub f s
  | .vmul f => Sys2Proof.Machine.execVmul f s
  | .vmulh f => Sys2Proof.Machine.execVmulh f s
  | .vmad f => Sys2Proof.Machine.execVmad f s
  | .vmadw f => Sys2Proof.Machine.execVmadw f s
  | .vaddc f => Sys2Proof.Machine.execVaddc f s
  | .vand f => Sys2Proof.Machine.execVand f s
  | .vor f => Sys2Proof.Machine.execVor f s
  | .vxor f => Sys2Proof.Machine.execVxor f s
  | .vshl f => Sys2Proof.Machine.execVshl f s
  | .vshr f => Sys2Proof.Machine.execVshr f s
  | .vsar f => Sys2Proof.Machine.execVsar f s
  | .vmin f => Sys2Proof.Machine.execVmin f s
  | .vmax f => Sys2Proof.Machine.execVmax f s
  | .vabs f => Sys2Proof.Machine.execVabs f s
  | .vcmp f => Sys2Proof.Machine.execVcmp f s
  | .vsel f => Sys2Proof.Machine.execVsel f s
  | .vmov f => Sys2Proof.Machine.execVmov f s
  | .vmovi f => Sys2Proof.Machine.execVmovi f s
  | .vbfe f => Sys2Proof.Machine.execVbfe f s
  | .vbfi f => Sys2Proof.Machine.execVbfi f s
  | .vclz f => Sys2Proof.Machine.execVclz f s
  | .vpop f => Sys2Proof.Machine.execVpop f s
  | .vbrev f => Sys2Proof.Machine.execVbrev f s
  | .fadd f => Sys2Proof.Machine.execFadd f s
  | .fsub f => Sys2Proof.Machine.execFsub f s
  | .fmul f => Sys2Proof.Machine.execFmul f s
  | .ffma f => Sys2Proof.Machine.execFfma f s
  | .fmin f => Sys2Proof.Machine.execFmin f s
  | .fmax f => Sys2Proof.Machine.execFmax f s
  | .fcmp f => Sys2Proof.Machine.execFcmp f s
  | .fclass f => Sys2Proof.Machine.execFclass f s
  | .fdiv f => Sys2Proof.Machine.execFdiv f s
  | .fsqrt f => Sys2Proof.Machine.execFsqrt f s
  | .frcp f => Sys2Proof.Machine.execFrcp f s
  | .frsq f => Sys2Proof.Machine.execFrsq f s
  | .fexp2 f => Sys2Proof.Machine.execFexp2 f s
  | .flog2 f => Sys2Proof.Machine.execFlog2 f s
  | .ftanh f => Sys2Proof.Machine.execFtanh f s
  | .hadd2 f => Sys2Proof.Machine.execHadd2 f s
  | .hmul2 f => Sys2Proof.Machine.execHmul2 f s
  | .hfma2 f => Sys2Proof.Machine.execHfma2 f s
  | .hmax2 f => Sys2Proof.Machine.execHmax2 f s
  | .hmin2 f => Sys2Proof.Machine.execHmin2 f s
  | .cvt f => Sys2Proof.Machine.execCvt f s
  | .fxcvt f => Sys2Proof.Machine.execFxcvt f s
  | .fxtof f => Sys2Proof.Machine.execFxtof f s
  | .qswp f => Sys2Proof.Machine.execQswp f s
  | .qbc f => Sys2Proof.Machine.execQbc f s
  | .shfl f => Sys2Proof.Machine.execShfl f s
  | .vote f => Sys2Proof.Machine.execVote f s
  | .gred f => Sys2Proof.Machine.execGred f s
  | .gscan f => Sys2Proof.Machine.execGscan f s
  | .plop f => Sys2Proof.Machine.execPlop f s
  | .pmov f => Sys2Proof.Machine.execPmov f s
  | .mtalloc f => Sys2Proof.Machine.execMtalloc f s
  | .mtfree f => Sys2Proof.Machine.execMtfree f s
  | .mzero f => Sys2Proof.Machine.execMzero f s
  | .mma f => Sys2Proof.Machine.execMma f s
  | .mloop f => Sys2Proof.Machine.execMloop f s
  | .mwracc f => Sys2Proof.Machine.execMwracc f s
  | .mdrain f => Sys2Proof.Machine.execMdrain f s
  | .mdrainq f => Sys2Proof.Machine.execMdrainq f s
  | .mbatch f => Sys2Proof.Machine.execMbatch f s
  | .ld f => Sys2Proof.Machine.execLd f s
  | .st f => Sys2Proof.Machine.execSt f s
  | .ldu f => Sys2Proof.Machine.execLdu f s
  | .stu f => Sys2Proof.Machine.execStu f s
  | .lda f => Sys2Proof.Machine.execLda f s
  | .stl f => Sys2Proof.Machine.execStl f s
  | .atom f => Sys2Proof.Machine.execAtom f s
  | .red f => Sys2Proof.Machine.execRed f s
  | .fence f => Sys2Proof.Machine.execFence f s
  | .pref f => Sys2Proof.Machine.execPref f s
  | .lnlk f => Sys2Proof.Machine.execLnlk f s
  | .lnul f => Sys2Proof.Machine.execLnul f s
  | .lnwb f => Sys2Proof.Machine.execLnwb f s
  | .lndrop f => Sys2Proof.Machine.execLndrop f s
  | .marm f => Sys2Proof.Machine.execMarm f s
  | .mslp f => Sys2Proof.Machine.execMslp f s
  | .cpyq f => Sys2Proof.Machine.execCpyq f s
  | .phinit f => Sys2Proof.Machine.execPhinit f s
  | .pharr f => Sys2Proof.Machine.execPharr f s
  | .phwait f => Sys2Proof.Machine.execPhwait f s
  | .phtest f => Sys2Proof.Machine.execPhtest f s
  | .bxsend f => Sys2Proof.Machine.execBxsend f s
  | .bxget f => Sys2Proof.Machine.execBxget f s
  | .bxmc f => Sys2Proof.Machine.execBxmc f s
  | .bxred f => Sys2Proof.Machine.execBxred f s
  | .bxflag f => Sys2Proof.Machine.execBxflag f s
  | .mboxreg f => Sys2Proof.Machine.execMboxreg f s
  | .mboxrel f => Sys2Proof.Machine.execMboxrel f s
  | .fabst f => Sys2Proof.Machine.execFabst f s
  | .tbjoin f => Sys2Proof.Machine.execTbjoin f s
  | .tbwait f => Sys2Proof.Machine.execTbwait f s
  | .tbtest f => Sys2Proof.Machine.execTbtest f s
  | .tbexc f => Sys2Proof.Machine.execTbexc f s
  | .haltj f => Sys2Proof.Machine.execHaltj f s
  | .launch f => Sys2Proof.Machine.execLaunch f s
  | .qtokSig f => Sys2Proof.Machine.execQtokSig f s
  | .qtokGet f => Sys2Proof.Machine.execQtokGet f s
  | .qtokReset f => Sys2Proof.Machine.execQtokReset f s
  | .wlapp f => Sys2Proof.Machine.execWlapp f s
  | .wltake f => Sys2Proof.Machine.execWltake f s
  | .wlstat f => Sys2Proof.Machine.execWlstat f s
  | .fzrd f => Sys2Proof.Machine.execFzrd f s
  | .fzwr f => Sys2Proof.Machine.execFzwr f s
  | .fzpc f => Sys2Proof.Machine.execFzpc f s
  | .fzmask f => Sys2Proof.Machine.execFzmask f s
  | .fzlogRd f => Sys2Proof.Machine.execFzlogRd f s
  | .fzlogReg f => Sys2Proof.Machine.execFzlogReg f s
  | .fzlogPut f => Sys2Proof.Machine.execFzlogPut f s
  | .fzlogDone f => Sys2Proof.Machine.execFzlogDone f s
  | .fzlane f => Sys2Proof.Machine.execFzlane f s
  | .fzstep f => Sys2Proof.Machine.execFzstep f s
  | .fzres f => Sys2Proof.Machine.execFzres f s
  | .fzkill f => Sys2Proof.Machine.execFzkill f s
  | .capqEnum f => Sys2Proof.Machine.execCapqEnum f s
  | .capqStat f => Sys2Proof.Machine.execCapqStat f s
  | .hret f => Sys2Proof.Machine.execHret f s
  | .prd f => Sys2Proof.Machine.execPrd f s
  | .pwr f => Sys2Proof.Machine.execPwr f s
  | .rlbinv f => Sys2Proof.Machine.execRlbinv f s
  | .ctxsv f => Sys2Proof.Machine.execCtxsv f s
  | .ctxld f => Sys2Proof.Machine.execCtxld f s
  | .resumej f => Sys2Proof.Machine.execResumej f s
  | .curet f => Sys2Proof.Machine.execCuret f s
  | .accessCompletion thread entry => Sys2Proof.Machine.execAccessCompletion thread entry s
  | .accessFault thread entry bad => Sys2Proof.Machine.execAccessFault thread entry bad s
  | .tadpoleSpawn cu => Sys2Proof.Machine.execTadpoleSpawn cu s
  | .watchdogExpiry thread => Sys2Proof.Machine.execWatchdogExpiry thread s
  | .overdueSwap cu barrel slot => Sys2Proof.Machine.execOverdueSwap cu barrel slot s
  | .groupSwap cu barrel slot => Sys2Proof.Machine.execGroupSwap cu barrel slot s
  | .groupPark thread => Sys2Proof.Machine.execGroupPark thread s
  | .wakeConditionFires thread => Sys2Proof.Machine.execWakeConditionFires thread s
  | .cuReclaim cu => Sys2Proof.Machine.execCuReclaim cu s
  | .barrierPhaseComplete cluster owner id => Sys2Proof.Machine.execBarrierPhaseComplete cluster owner id s
  | .matrixOperationComplete cu entry => Sys2Proof.Machine.execMatrixOperationComplete cu entry s
  | .copyDispatch wg entry => Sys2Proof.Machine.execCopyDispatch wg entry s
  | .copyComplete wg entry => Sys2Proof.Machine.execCopyComplete wg entry s
  | .copyEngineFault wg entry bad => Sys2Proof.Machine.execCopyEngineFault wg entry bad s
  | .mslpTimeout thread => Sys2Proof.Machine.execMslpTimeout thread s
  | .lockBreak thread entry => Sys2Proof.Machine.execLockBreak thread entry s
  | .rdt msg => Sys2Proof.Machine.execRdt msg s
  | .wrt msg => Sys2Proof.Machine.execWrt msg s
  | .tok msg => Sys2Proof.Machine.execTok msg s
  | .wb msg => Sys2Proof.Machine.execWb msg s
  | .preq msg => Sys2Proof.Machine.execPreq msg s
  | .pact msg => Sys2Proof.Machine.execPact msg s
  | .pdone msg => Sys2Proof.Machine.execPdone msg s
  | .pdeact msg => Sys2Proof.Machine.execPdeact msg s
  | .rgstart msg => Sys2Proof.Machine.execRgstart msg s
  | .rgack msg => Sys2Proof.Machine.execRgack msg s
  | .rgdata msg => Sys2Proof.Machine.execRgdata msg s
  | .rgend msg => Sys2Proof.Machine.execRgend msg s
  | .transientRetryExpiry agent sector => Sys2Proof.Machine.execTransientRetryExpiry agent sector s
  | .persistentArbitration home => Sys2Proof.Machine.execPersistentArbitration home s
  | .homeRequest home => Sys2Proof.Machine.execHomeRequest home s
  | .regrowthTrigger home sector => Sys2Proof.Machine.execRegrowthTrigger home sector s
  | .pnakRetry agent => Sys2Proof.Machine.execPnakRetry agent s
  | .windowSectorRead agent sector => Sys2Proof.Machine.execWindowSectorRead agent sector s
  | .entryLaunch ctx queue => Sys2Proof.Machine.execEntryLaunch ctx queue s
  | .entrySignalToken ctx queue => Sys2Proof.Machine.execEntrySignalToken ctx queue s
  | .entryWaitToken ctx queue => Sys2Proof.Machine.execEntryWaitToken ctx queue s
  | .entryResetToken ctx queue => Sys2Proof.Machine.execEntryResetToken ctx queue s
  | .launchAccept ctx stream => Sys2Proof.Machine.execLaunchAccept ctx stream s
  | .dispatchOpportunity die => Sys2Proof.Machine.execDispatchOpportunity die s
  | .launchComplete launch => Sys2Proof.Machine.execLaunchComplete launch s
  | .terminationWaves ctx object => Sys2Proof.Machine.execTerminationWaves ctx object s
  | .systemAccessPacket p => Sys2Proof.Machine.execSystemAccessPacket p s
  | .dataPacketReceive p => Sys2Proof.Machine.execDataPacketReceive p s
  | .getRequest p => Sys2Proof.Machine.execGetRequest p s
  | .acknowledgement p => Sys2Proof.Machine.execAcknowledgement p s
  | .mergedAcknowledgement p => Sys2Proof.Machine.execMergedAcknowledgement p s
  | .multicastReplication p => Sys2Proof.Machine.execMulticastReplication p s
  | .reductionContribution p => Sys2Proof.Machine.execReductionContribution p s
  | .reductionTimeout key group ver epoch pseq => Sys2Proof.Machine.execReductionTimeout key group ver epoch pseq s
  | .retransmissionTimeout xid pseq => Sys2Proof.Machine.execRetransmissionTimeout xid pseq s
  | .packetLifetimeExpiry xid pseq => Sys2Proof.Machine.execPacketLifetimeExpiry xid pseq s
  | .countingEndTimeout smod xid => Sys2Proof.Machine.execCountingEndTimeout smod xid s
  | .fabricFailureRecorded thread seq => Sys2Proof.Machine.execFabricFailureRecorded thread seq s
  | .peerLost peer => Sys2Proof.Machine.execPeerLost peer s
  | .haltWave key trigger => Sys2Proof.Machine.execHaltWave key trigger s
  | .firstTriggerSettled key trigger => Sys2Proof.Machine.execFirstTriggerSettled key trigger s
  | .brumationDrained ctx => Sys2Proof.Machine.execBrumationDrained ctx s
  | .resumeAtT key => Sys2Proof.Machine.execResumeAtT key s
  | .resumeFailure key => Sys2Proof.Machine.execResumeFailure key s
  | .treeBarrierRelease key object rel => Sys2Proof.Machine.execTreeBarrierRelease key object rel s
  | .regrowthWaitTimeout home sector agent => Sys2Proof.Machine.execRegrowthWaitTimeout home sector agent s
  | .regrowthDeferralExpiry home sector => Sys2Proof.Machine.execRegrowthDeferralExpiry home sector s
  | .fabricEngineFault thread seq bad => Sys2Proof.Machine.execFabricEngineFault thread seq bad s
  | .codeLineCrcMismatch again => Sys2Proof.Machine.execCodeLineCrcMismatch again s
  | .laneDeath thread errs => Sys2Proof.Machine.execLaneDeath thread errs s
  | .mstg cu entry site row col => Sys2Proof.Machine.execMstg cu entry site row col s
  | .scrubActivation home sector error => Sys2Proof.Machine.execScrubActivation home sector error s
  | .fwctlWrite window value => Sys2Proof.Machine.execFwctlWrite window value s
  | .gctlCommit key group value => Sys2Proof.Machine.execGctlCommit key group value s
  | .tbctlWrite key object value => Sys2Proof.Machine.execTbctlWrite key object value s
  | .tmctlWrite value => Sys2Proof.Machine.execTmctlWrite value s
  | .registerWrite bar0 address value => Sys2Proof.Machine.execRegisterWrite bar0 address value s
  | .qtailDoorbell ctx queue value => Sys2Proof.Machine.execQtailDoorbell ctx queue value s
  | .qcplWrite ctx queue value => Sys2Proof.Machine.execQcplWrite ctx queue value s
  | .recoveryNotice peer up => Sys2Proof.Machine.execRecoveryNotice peer up s
  | .treeFailover key => Sys2Proof.Machine.execTreeFailover key s
  | .rowSegmentLoss row => Sys2Proof.Machine.execRowSegmentLoss row s
  | .timeCalibration die residual => Sys2Proof.Machine.execTimeCalibration die residual s
  | .dieLoss tile => Sys2Proof.Machine.execDieLoss tile s
  | .dieReset tile cus offset => Sys2Proof.Machine.execDieReset tile cus offset s
  | .hostSnoop port line => Sys2Proof.Machine.execHostSnoop port line s
  | .cxlMemRead port address => Sys2Proof.Machine.execCxlMemRead port address s
  | .cxlMemWrite port address enables data => Sys2Proof.Machine.execCxlMemWrite port address enables data s
  | .moduleStart result => Sys2Proof.Machine.execModuleStart result s
  | .throttleTrigger step causes => Sys2Proof.Machine.execThrottleTrigger step causes s
  | .thermalReset => Sys2Proof.Machine.execThermalReset s
  | .getVersion => Sys2Proof.Machine.execGetVersion s
  | .getCapabilities => Sys2Proof.Machine.execGetCapabilities s
  | .negotiateAlgorithms algorithms => Sys2Proof.Machine.execNegotiateAlgorithms algorithms s
  | .getDigests => Sys2Proof.Machine.execGetDigests s
  | .getCertificate slot offset length => Sys2Proof.Machine.execGetCertificate slot offset length s
  | .challenge slot nonce => Sys2Proof.Machine.execChallenge slot nonce s
  | .getMeasurements index nonce => Sys2Proof.Machine.execGetMeasurements index nonce s
  | .hostPortLoss port back => Sys2Proof.Machine.execHostPortLoss port back s
  | .qctlWrite port ctx queue value => Sys2Proof.Machine.execQctlWrite port ctx queue value s
  | .fabricPortDown port => Sys2Proof.Machine.execFabricPortDown port s
  | .pldmFirmwareUpdate firmware => Sys2Proof.Machine.execPldmFirmwareUpdate firmware s

end Sys2Proof.Machine
end

