-- ==== Sys2Proof/Machine/Probe.lean ====
section
/-! DEFINITION. When a waiting thread's instruction has become ready (R68, R70): its turn is tried on a copy of the state. -/

namespace Sys2Proof.Machine

/-- The instruction at a thread's PC would not wait now: a turn of the thread would use it. -/
def wouldRun (s : State) (tid : Nat) (t : Thread) : Bool :=
  match front s tid t with
  | .trap _ => true
  | .form i _ _ =>
    match exec i { s.setThread tid { t with waits := false } with env := { s.env with cur := some tid } } with
    | .next u => (match u.thread tid with | some x => !x.waits | none => true)
    | _ => true

/-- A thread whose instruction has become ready waits no more: a pending one is ready from now on, an active one has nothing to be
swapped for (R70). -/
def probeThread (s : State) (tid : Nat) (t : Thread) : State :=
  if (t.place = .pending || t.place = .active) && t.fz.isNone && t.waits && wouldRun s tid t then
    if t.place = .active then s.setThread tid { t with waits := false }
    else s.setThread tid { t with waits := false, readySince := s.cyc, swaps := 0, overdue := none, behind := 0 }
  else s

/-- Look again at every thread that waits. -/
def probeAll (s : State) : State := s.thr.foldl (fun a p => probeThread a p.1 p.2) s

end Sys2Proof.Machine
end

