-- ==== Sys2Proof/Machine/Step.lean ====
section
/-! DEFINITION. One step of the machine: an event of the agenda when there is one; else, turn about, an issue turn and an event
that the module raises by itself (log 1). -/

namespace Sys2Proof.Machine

open Host (Outcome)

/-- Run one step that an event names. An instruction form in the agenda is dropped: forms issue only from a thread. -/
def runEvent (i : Instr) (s : State) : Outcome State Fault Refusal :=
  if i.form.isSome then .next s else exec i s

/-- One step. -/
def step (s : State) : Outcome State Fault Refusal :=
  match s.env.agenda with
  | i :: rest => runEvent i (probeAll (passTime { s with env := { s.env with agenda := rest, tick := s.env.tick + 1 } }))
  | [] =>
    let now := passTime s
    if s.env.tick % 2 = 0 then
      match turn now with
      | .idle t => .next t
      | .run i t => turnOver t.env.cur (exec i t)
    else
      let now := probeAll (houseKeep now)
      let l := autoEvents now
      match l[(s.env.tick / 2) % l.length]? with
      | some i => runEvent i now
      | none => .next now

/-- A state whose next step fetches and runs an instruction with these bits (log 17). -/
def State.withFetchWord (s : State) (nbits w : Nat) : State := loadWord s (BitVec.ofNat 96 (w % 2 ^ nbits))

end Sys2Proof.Machine
end

