-- ==== Sys2Proof/Safety.lean ====
section
/-! DEFINITION. What holds of a safe state, and the terms that claims use: when a form issues, and what a form that only
writes registers leaves. -/

namespace Sys2Proof.Machine

/-- Every byte memory is in its canonical form: pool, host, and each workgroup's scratchpad and tile store. -/
def State.memOk (s : State) : Prop :=
  Memory.wf s.mem.dram = true ∧ Memory.wf s.mem.hostMem = true ∧
    ∀ p ∈ s.wgs, Memory.wf p.2.scratch = true ∧ Memory.wf p.2.tileMem = true

/-- Thread `tid`, standing at `t`, has the turn; a form at its PC may issue (R69, R157), and has not issued already (log 5). -/
structure Issues (s : State) (tid : Nat) (t : Thread) (opc : Nat) (f : Fields) : Prop where
  turn : s.env.cur = some tid
  thread : s.thread tid = some t
  ready : ready s tid t opc f = true
  new : t.blk = none

/-- What a form that only writes registers leaves of its own thread: all but the PC, the signature, the v, s and p registers,
FPSTAT, and the state of the issue itself (hints, the watchdog's start, the progress of a step). -/
def Thread.frame (t : Thread) : Thread :=
  { t with pc := 0, sig := 0, vmap := [], sreg := [], preg := [], fpstat := 0, blk := none, wb := none, ops := [], stall := 0,
           waits := false, offer := 0, wdSince := 0, stepping := 0 }

/-- A lane of a vector name after writes in order, `old` before them. -/
def laneAfter (ws : List Write) (n l : Nat) (old : Word) : Word :=
  ws.foldl (fun x w =>
    match w with
    | .vec m val mask => if m = n ∧ mask.getLsbD l = true then (val[l]?).getD 0 else x
    | _ => x) old

/-- A predicate register after writes in order; p15 stays true in every lane (R114). -/
def predAfter (ws : List Write) (n : Nat) (old : Mask) : Mask :=
  ws.foldl (fun x w =>
    match w with
    | .prd m val mask => if m = n ∧ n ≠ 15 then (val &&& mask) ||| (x &&& ~~~mask) else x
    | _ => x) old

/-- An s register after writes in order. -/
def scalarAfter (ws : List Write) (n : Nat) (old : Word64) : Word64 :=
  ws.foldl (fun x w =>
    match w with
    | .uni code v => if regOf code = .s n then v else x
    | _ => x) old

/-- The w registers of a workgroup after writes in order by a group: each counts `lat` clk after `now` (R63). -/
def wAfter (now lat barrel tid : Nat) (ws : List Write) (old : NMap WReg) : NMap WReg :=
  ws.foldl (fun x w =>
    match w with
    | .uni code v =>
      match regOf code with
      | .w n => nset x n ((ngetD x n WReg.zero).write now (now + lat) barrel tid v)
      | _ => x
    | _ => x) old

/-- What a form that retires with `d` leaves, from `s` with its thread at `t` to `u` with its thread at `t'`: its register
writes, the release of last-read names (R60), the PC, the signature (R175), the flags (R149), and nothing else. -/
structure Retires (s u : State) (tid : Nat) (t t' : Thread) (opc : Nat) (f : Fields) (d : Done) : Prop where
  thread : u.thread tid = some t'
  pc : t'.pc = d.pc.getD (nextPc t.pc)
  sig : t'.sig = if t.isGroup then d.sig.getD (fold16 t.sig (BitVec.ofNat 16 opc)) else t.sig
  vector : ∀ n l, l < 32 → n ∉ lrNames s tid t opc f ∨ n ∈ wroteNames d.writes →
    t'.vlane n l = laneAfter d.writes n l (t.vlane n l)
  released : ∀ n, n ∈ lrNames s tid t opc f → n ∉ wroteNames d.writes → nget t'.vmap n = none
  scalar : ∀ n, ngetD t'.sreg n 0 = scalarAfter d.writes n (ngetD t.sreg n 0)
  pred : ∀ n, t'.pred n = predAfter d.writes n (t.pred n)
  flags : t'.fpstat = raiseFlags t.fpctl t.fpstat d.flags
  frame : t'.frame = t.frame
  wregs : ∀ w, u.wg w = (s.wg w).map fun g =>
    if w = t.wg then { g with w := wAfter s.cyc d.lat t.barrel tid d.writes g.w } else g
  others : ∀ j, j ≠ tid → u.thread j = s.thread j
  state : u = { s with env := { s.env with nextId := u.env.nextId }, thr := u.thr, wgs := u.wgs }

/-- An instruction answers a next state in which its form has retired with `d`. -/
def RetiresWith (i : Instr) (opc : Nat) (f : Fields) (s : State) (tid : Nat) (t : Thread) (d : Done) : Prop :=
  ∃ u t', exec i s = .next u ∧ Retires s u tid t t' opc f d

/-- As `RetiresWith`, from the state `s1` to which the form has brought the machine, and with a further change `g` of its own
thread as it retires. -/
def RetiresFrom (i : Instr) (opc : Nat) (f : Fields) (s s1 : State) (tid : Nat) (t : Thread) (d : Done)
    (g : Thread → Thread := id) : Prop :=
  ∃ u t', exec i s = .next (u.modThread tid g) ∧ Retires s1 u tid t t' opc f d

/-- What every form that goes on to the next instruction with register writes `ws` leaves of its own thread, of the w registers of its
workgroup, and of the bytes of the pool and of host memory; for forms that also change other parts of the machine. -/
structure Advances (s u : State) (tid : Nat) (t t' : Thread) (opc : Nat) (f : Fields) (ws : List Write) : Prop where
  thread : u.thread tid = some t'
  pc : t'.pc = nextPc t.pc
  sig : t'.sig = if t.isGroup then fold16 t.sig (BitVec.ofNat 16 opc) else t.sig
  vector : ∀ n l, l < 32 → n ∉ lrNames s tid t opc f ∨ n ∈ wroteNames ws → t'.vlane n l = laneAfter ws n l (t.vlane n l)
  scalar : ∀ n, ngetD t'.sreg n 0 = scalarAfter ws n (ngetD t.sreg n 0)
  pred : ∀ n, t'.pred n = predAfter ws n (t.pred n)
  wregs : (u.wg t.wg).map (·.w) = (s.wg t.wg).map fun g => wAfter s.cyc 8 t.barrel tid ws g.w
  masks : t'.exm = t.exm ∧ t'.stack = t.stack ∧ t'.exited = t.exited ∧ t'.deadm = t.deadm
  special : t'.fpctl = t.fpctl ∧ t'.fpstat = t.fpstat ∧ t'.mstat = t.mstat ∧ t'.nchk = t.nchk
  stands : t'.fz = t.fz ∧ t'.place = t.place ∧ t'.blk = none
  bytes : u.mem.dram = s.mem.dram ∧ u.mem.hostMem = s.mem.hostMem

/-- Nothing is left to do for the release action of a form with that order (R88): its group's accesses are performed, its CU holds
no dirty line, and its commands on the fabric are complete. -/
def ReleaseDone (f : Fields) (s : State) (t : Thread) : Prop :=
  accOrder f = 2 → t.log = [] ∧ t.wb = none ∧ dirtySectors s t.cu = [] ∧ t.fOpen = []

/-- What an instruction that may not go on does: nothing but mark its thread as waiting. -/
def Waits (i : Instr) (s : State) (tid : Nat) : Prop := exec i s = .next (s.modThread tid fun u => { u with waits := true })

/-- The address of a lane of an access (R233): base, index scaled or with an immediate; for an atomic, base and offset. -/
def accAddr (opc : Nat) (f : Fields) (s : State) (tid : Nat) (t : Thread) (l : Nat) : Word64 :=
  let base := lane64 s tid t f.a.toNat l
  let idx := match regOf f.b.toNat with
    | .v n => (t.vlane n l).setWidth 64
    | _ => uniVal s tid t f.b.toNat
  if isAtomic opc then base + sext64 15 (Forms.ex f 22 8)
  else if f.xk then base + idx + sext64 32 f.x.toNat
  else base + (idx <<< Forms.ex f 2 0)

/-! ### Tables of forms: each row names a form, its OPC, how many sources it reads, and its result -/

/-- A row for a form whose result is one pattern at its type, from the patterns of its sources (R137, R181, R184). -/
structure ValueRow where
  form : Fields → Instr
  opc : Nat
  srcs : Nat
  res : Fields → Nat → Nat → Nat → Nat

/-- A row for a form whose result is a 32-bit pattern with exception flags, from the patterns of its sources (R147, R190). -/
structure FloatRow where
  form : Fields → Instr
  opc : Nat
  srcs : Nat
  res : Fields → Nat → Nat → Nat → Nat × Nat

/-- The result of a row in lane `l` (R121, R184). -/
def ValueRow.lane (r : ValueRow) (s : State) (tid : Nat) (t : Thread) (f : Fields) (l : Nat) : Nat :=
  let (a, b, c) := vecSrc s tid t f r.srcs l
  r.res f a b c
/-- The result and the flags of a row in lane `l`. -/
def FloatRow.lane (r : FloatRow) (s : State) (tid : Nat) (t : Thread) (f : Fields) (l : Nat) : Nat × Nat :=
  let (a, b, c) := vecSrc s tid t f r.srcs l
  r.res f a b c

/-- The result of an exact integer at the form's type, under SAT (R139). -/
def exact (f : Fields) (i : Int) : Nat := storeTy (Forms.ty f) (satBit f) i
/-- The number that a pattern is at the form's type (R137). -/
def valueOf (f : Fields) (x : Nat) : Int := numTy (Forms.ty f) x
/-- The width of the form's type. -/
def widthOf (f : Fields) : Nat := tyWidth (Forms.ty f)

/-- The lanes of a mask where a Boolean holds, as a predicate result. -/
def allLanes (b : Bool) : Mask := if b then 0xFFFFFFFF else 0

/-- A form that may issue, and whose writes keep its group within its budget, retires with these writes and flags. -/
def Completes (form : Fields → Instr) (opc : Nat) (f : Fields) (s : State) (tid : Nat) (t : Thread) (ws : List Write)
    (flags : Nat := 0) (lat : Nat := 8) : Prop :=
  Issues s tid t opc f → t.fits ws = true → RetiresWith (form f) opc f s tid t { writes := ws, flags := flags, lat := lat }

end Sys2Proof.Machine
end

