-- ==== Sys2Proof/Certificates/Slice0/Obligations.lean ====
section
/-! DEFINITION. What the provers are to prove of the model. Each statement names the rules of the specification it rests on.
"The group's budget has room" is `Thread.fits` of the writes. -/

section
open Sys2Proof Sys2Proof.Machine Host

/-! ### Encoding -/

/-- Every word that the encoder writes for a well-formed form decodes to that form, for each class of code (R112, R123). -/
def Obligations.DecodeOfEncodedForm : Prop :=
  ∀ (m : Mode) (i : Instr) (w : BitVec 96), i.wf m = true → encode i = some w → decode m w = .instr i

/-- A word that decodes is the word that its instruction encodes to: no bit of it is dropped (R112, R123). -/
def Obligations.EncodeOfDecodedWord : Prop :=
  ∀ (m : Mode) (w : BitVec 96) (i : Instr), decode m w = .instr i → encode i = some w ∧ i.wf m = true

/-- Words laid out from the manual's examples decode to their forms. -/
def Obligations.ExampleWordsDecode : Prop :=
  decode .group ((0x000F0A00 : Word) ++ (0x00014000 : Word) ++ (0x00059640 : Word)) =
      .instr (.tbjoin { Fields.nop with d := 357, x := 0xA00, mod := 0x28 }) ∧
    decode .group ((0x000F0600 : Word) ++ (0x00014016 : Word) ++ (0x50059A41 : Word)) =
      .instr (.tbwait { Fields.nop with d := 358, b := 357, x := 0xA00, mod := 0x18 }) ∧
    decode .group ((0x000F0000 : Word) ++ (0 : Word) ++ (0 : Word)) = .instr (.nop Fields.nop) ∧
    (∀ w : BitVec 96, w.extractLsb' 93 3 ≠ 0 → decode .group w = .illegal 1 9)

/-! ### The step -/

/-- The next step is an issue turn, that of slot `k`, in which thread `tid`, as `t`, may issue: no delay of the fault sequencer or
of a group's own holds it back, and no fault of an earlier instruction waits to be taken (R69, R71). -/
structure HasTurn (s : State) (k tid : Nat) (t : Thread) : Prop where
  agenda : s.env.agenda = []
  even : s.env.tick % 2 = 0
  slot : nextTurn (passTime s) = some k
  issuer : inSlot (startTurn (passTime s) k) k = some (tid, t)
  free : t.stall = 0 ∨ t.stepping ≠ 0
  clear : t.postCause = none ∨ t.fz ≠ none

/-- The state in which the instruction of that turn is fetched and runs: the tile of its code line is touched, and a restored
group's first turn acquires (R21, R80). -/
def atTurn (s : State) (k tid : Nat) (t : Thread) : State :=
  let s := startTurn (passTime s) k
  let s := { s with env := { s.env with cur := some tid } }
  let s := if t.moved then (acquireL1 s t.cu).modThread tid fun u => { u with moved := false } else s
  (touchLine s t).modThread tid fun u => { u with waits := false }

/-- With nothing in the agenda, an even step gives the turn to the thread in the slot that comes next, after a ready thread has
filled that slot or an overdue one taken it; when nothing stands before the instruction at its PC, the word there decodes, the code
may run it, and no register that it reads is corrupt, the step is that instruction's meaning, at the end of which a group that waits
or has offered its slot gives it up (R69 to R71, R109, R123, R125, R423). -/
def Claims.StepRunsDecodedForm : Prop :=
  ∀ (s : State) (k tid : Nat) (t : Thread) (w : BitVec 96) (i : Instr),
    HasTurn s k tid t → t.shadowOk = true →
    fetchAt (atTurn s k tid t) t.cu t.ctx t.pc = .word w → decode t.kind w = .instr i → privSyn t.kind (opcOf w) (fieldsOf w) = none →
    (t.blk = none → readsCorrupt (atTurn s k tid t) tid t (opcOf w) (fieldsOf w) = false) →
    step s = turnOver (some tid) (exec i (atTurn s k tid t))

/-- A step that finds an event in the agenda is that event's meaning, one step later; a form there is dropped (log 1). -/
def Claims.StepRunsAgendaEvent : Prop :=
  ∀ (s : State) (i : Instr) (rest : List Instr), s.env.agenda = i :: rest → i.form = none →
    step s = exec i (probeAll (passTime { s with env := { s.env with agenda := rest, tick := s.env.tick + 1 } }))

/-- Every step answers a next state: no instruction, in no state, is refused or stops the machine. -/
def Obligations.EveryStepGoesOn : Prop := ∀ s : State, ∃ u, step s = .next u

/-! ### The scalar ALU -/

/-- SAL results by exact integer arithmetic at the type (R182). -/
def scalarArithmetic : List ValueRow :=
  [⟨.sadd, 0x040, 2, fun f a b _ => exact f (valueOf f a + valueOf f b)⟩,
   ⟨.ssub, 0x041, 2, fun f a b _ => exact f (valueOf f a - valueOf f b)⟩,
   ⟨.smul, 0x042, 2, fun f a b _ => exact f (valueOf f a * valueOf f b)⟩,
   ⟨.smulh, 0x043, 2, fun f a b _ => storeTy (Forms.ty f) false ((valueOf f a * valueOf f b) / (2 ^ widthOf f : Nat))⟩,
   ⟨.smad, 0x044, 3, fun f a b c => exact f (valueOf f a * valueOf f b + valueOf f c)⟩,
   ⟨.smin, 0x04B, 2, fun f a b _ => if valueOf f a ≤ valueOf f b then a else b⟩,
   ⟨.smax, 0x04C, 2, fun f a b _ => if valueOf f b ≤ valueOf f a then a else b⟩]

/-- SAL results on bits (R182, R183). -/
def scalarBits : List ValueRow :=
  [⟨.sand, 0x045, 2, fun _ a b _ => a &&& b⟩, ⟨.sor, 0x046, 2, fun _ a b _ => a ||| b⟩, ⟨.sxor, 0x047, 2, fun _ a b _ => a ^^^ b⟩,
   ⟨.sshl, 0x048, 2, fun f a b _ => (a * 2 ^ (b % widthOf f)) % 2 ^ widthOf f⟩,
   ⟨.sshr, 0x049, 2, fun f a b _ => a / 2 ^ (b % widthOf f)⟩,
   ⟨.ssar, 0x04A, 2, fun f a b _ => storeTy (Forms.ty f) false (valueOf f a / (2 ^ (b % widthOf f) : Nat))⟩,
   ⟨.ssel, 0x04E, 3, fun _ a b c => if c ≠ 0 then a else b⟩,
   ⟨.smov, 0x04F, 1, fun _ a _ _ => a⟩,
   ⟨.sclz, 0x052, 1, fun f a _ _ => if a = 0 then widthOf f else widthOf f - 1 - Nat.log2 a⟩,
   ⟨.spop, 0x053, 1, fun f a _ _ => (List.range (widthOf f)).countP fun i => a.testBit i⟩,
   ⟨.sbfe, 0x054, 2, fun f a b _ => Arith.bfe (Forms.ty f) a b⟩,
   ⟨.sbfi, 0x055, 3, fun f a b c => Arith.bfi (Forms.ty f) a b c⟩]

/-- With LIVE not empty, each arithmetic SAL form retires with its result in D, once (R116, R138, R181, R182). -/
def Claims.ScalarArithmeticResults : Prop :=
  ∀ r ∈ scalarArithmetic, ∀ (f : Fields) (s : State) (tid : Nat) (t : Thread), Issues s tid t r.opc f → t.live f ≠ 0 →
    let (a, b, c) := salSrc s tid t f r.srcs
    RetiresWith (r.form f) r.opc f s tid t { writes := [.uni f.d.toNat (uniStore (Forms.ty f) (r.res f a b c))] }

/-- With LIVE not empty, each SAL form on bits retires with its result in D, once (R116, R138, R181, R182, R183). -/
def Claims.ScalarBitResults : Prop :=
  ∀ r ∈ scalarBits, ∀ (f : Fields) (s : State) (tid : Nat) (t : Thread), Issues s tid t r.opc f → t.live f ≠ 0 →
    let (a, b, c) := salSrc s tid t f r.srcs
    RetiresWith (r.form f) r.opc f s tid t { writes := [.uni f.d.toNat (uniStore (Forms.ty f) (r.res f a b c))] }

/-- SCMP writes its relation into every lane of LIVE of its predicate; SMOVI writes IMM32, or with HI its high half alone; SLEA
adds base and shifted index modulo 2^64 (R121, R182, R183). -/
def Claims.ScalarCompareMoveAddress : Prop :=
  ∀ (f : Fields) (s : State) (tid : Nat) (t : Thread),
    (Issues s tid t 0x04D f →
      let (a, b, _) := salSrc s tid t f 2
      let holds : Bool := match Forms.mo f 9 7 with
        | 0 => valueOf f a = valueOf f b | 1 => valueOf f a ≠ valueOf f b | 2 => valueOf f a < valueOf f b
        | 3 => valueOf f a ≤ valueOf f b | 4 => valueOf f b < valueOf f a | _ => valueOf f b ≤ valueOf f a
      RetiresWith (.scmp f) 0x04D f s tid t { writes := [.prd (f.d.toNat % 16) (allLanes holds) (t.live f)] }) ∧
    (Issues s tid t 0x050 f → t.live f ≠ 0 →
      RetiresWith (.smovi f) 0x050 f s tid t
        { writes := [.uni f.d.toNat
            (if Forms.mo f 7 7 = 1 then f.x ++ (uniVal s tid t f.d.toNat).setWidth 32
             else uniStore (Forms.ty f) (immTy (Forms.ty f) f.x))] }) ∧
    (Issues s tid t 0x051 f → t.live f ≠ 0 →
      RetiresWith (.slea f) 0x051 f s tid t
        { writes := [.uni f.d.toNat (uniVal s tid t f.a.toNat + (sleaIndex s tid t f <<< Forms.mo f 9 7))] })

/-! ### The vector integer unit -/

/-- VIN results by exact integer arithmetic at the type, two elements for S16x2 (R187). -/
def vectorArithmetic : List ValueRow :=
  let two (f : Fields) (g : Nat → Nat → Nat → Nat) (a b : Nat) : Nat :=
    if Forms.ty f = 12 then g 2 (a % 65536) (b % 65536) + g 2 (a / 65536) (b / 65536) * 65536 else g (Forms.ty f) a b
  [⟨.vadd, 0x080, 2, fun f a b _ => two f (fun ty x y => storeTy ty (satBit f) (numTy ty x + numTy ty y)) a b⟩,
   ⟨.vsub, 0x081, 2, fun f a b _ => two f (fun ty x y => storeTy ty (satBit f) (numTy ty x - numTy ty y)) a b⟩,
   ⟨.vmul, 0x082, 2, fun f a b _ => exact f (valueOf f a * valueOf f b)⟩,
   ⟨.vmulh, 0x083, 2, fun f a b _ => storeTy (Forms.ty f) false ((valueOf f a * valueOf f b) / (2 ^ widthOf f : Nat))⟩,
   ⟨.vmad, 0x084, 3, fun f a b c => exact f (valueOf f a * valueOf f b + valueOf f c)⟩,
   ⟨.vmin, 0x08D, 2, fun f a b _ => two f (fun ty x y => if numTy ty x ≤ numTy ty y then x else y) a b⟩,
   ⟨.vmax, 0x08E, 2, fun f a b _ => two f (fun ty x y => if numTy ty y ≤ numTy ty x then x else y) a b⟩,
   ⟨.vabs, 0x08F, 1, fun f a _ _ => two f (fun ty x _ => storeTy ty (satBit f) (numTy ty x).natAbs) a 0⟩]

/-- VIN results on bits (R187, R189). -/
def vectorBits : List ValueRow :=
  [⟨.vand, 0x087, 2, fun _ a b _ => a &&& b⟩, ⟨.vor, 0x088, 2, fun _ a b _ => a ||| b⟩, ⟨.vxor, 0x089, 2, fun _ a b _ => a ^^^ b⟩,
   ⟨.vshl, 0x08A, 2, fun f a b _ => (a * 2 ^ (b % widthOf f)) % 2 ^ widthOf f⟩,
   ⟨.vshr, 0x08B, 2, fun f a b _ => a / 2 ^ (b % widthOf f)⟩,
   ⟨.vsar, 0x08C, 2, fun f a b _ => storeTy (Forms.ty f) false (valueOf f a / (2 ^ (b % widthOf f) : Nat))⟩,
   ⟨.vmov, 0x092, 1, fun _ a _ _ => a⟩,
   ⟨.vbfe, 0x094, 2, fun f a b _ => Arith.bfe (Forms.ty f) a b⟩,
   ⟨.vbfi, 0x095, 3, fun f a b c => Arith.bfi (Forms.ty f) a b c⟩,
   ⟨.vbrev, 0x098, 1, fun f a _ _ => Arith.brev (Forms.ty f) a⟩]

/-- Each arithmetic VIN form retires with its result in the lanes of LIVE of D, when the group's budget has room (R59, R184,
R187). -/
def Claims.VectorArithmeticResults : Prop :=
  ∀ r ∈ vectorArithmetic, ∀ (f : Fields) (s : State) (tid : Nat) (t : Thread),
    Completes r.form r.opc f s tid t (vecWrites f.d.toNat (tyWide (Forms.ty f)) (t.live f) (r.lane s tid t f))

/-- Each VIN form on bits retires with its result in the lanes of LIVE of D, when the group's budget has room (R59, R184,
R187, R189). -/
def Claims.VectorBitResults : Prop :=
  ∀ r ∈ vectorBits, ∀ (f : Fields) (s : State) (tid : Nat) (t : Thread),
    Completes r.form r.opc f s tid t (vecWrites f.d.toNat (tyWide (Forms.ty f)) (t.live f) (r.lane s tid t f))

/-- VMADW, VADDC, VCMP, VSEL, VMOVI, VCLZ and VPOP retire with their results (R187, R188). -/
def Claims.VectorOtherResults : Prop :=
  ∀ (f : Fields) (s : State) (tid : Nat) (t : Thread),
    let ty := Forms.ty f
    let a := fun l => laneTy s tid t ty f.a.toNat l
    let b := fun l => if f.xk then immTy ty f.x else laneTy s tid t ty f.b.toNat l
    let a32 := fun l => (lane32 s tid t f.a.toNat 0 l).toNat
    let b32 := fun l => (lane32 s tid t f.b.toNat 0 l).toNat
    let live := t.live f
    let long := if ty = 0 then 4 else 5
    let addend := fun l => if f.xk then immTy long f.x else laneTy s tid t long f.c.toNat l
    let less := Forms.mo f 8 8 = 1
    let carry := fun l => if Forms.mo f 7 7 = 1 then (t.pred (Forms.ex f 3 0)).getLsbD l else decide less
    let sum := fun l => a32 l + (if less then 2 ^ 32 - 1 - b32 l else b32 l) + (if carry l then 1 else 0)
    let related := fun l => match Forms.mo f 9 7 with
      | 0 => valueOf f (a l) = valueOf f (b l)
      | 1 => valueOf f (a l) ≠ valueOf f (b l)
      | 2 => valueOf f (a l) < valueOf f (b l)
      | 3 => valueOf f (a l) ≤ valueOf f (b l)
      | 4 => valueOf f (b l) < valueOf f (a l)
      | _ => decide (valueOf f (b l) ≤ valueOf f (a l))
    Completes .vmadw 0x085 f s tid t (vecWrites f.d.toNat true live fun l =>
      storeTy long (satBit f) (numTy ty (a32 l) * numTy ty (b32 l) + numTy long (addend l))) ∧
    Completes .vaddc 0x086 f s tid t (vecWrites f.d.toNat false live sum ++
      [.prd (Forms.ex f 7 4 % 16) (laneMask fun l => 2 ^ 32 ≤ sum l) live]) ∧
    Completes .vcmp 0x090 f s tid t [.prd (f.d.toNat % 16) (laneMask related) live] ∧
    Completes .vsel 0x091 f s tid t (vecWrites f.d.toNat (tyWide ty) live fun l =>
      if (t.pred (Forms.ex f 3 0)).getLsbD l then a l else laneTy s tid t ty f.b.toNat l) ∧
    Completes .vmovi 0x093 f s tid t (vecWrites f.d.toNat (tyWide ty) live fun _ => immTy ty f.x) ∧
    Completes .vclz 0x096 f s tid t (vecWrites f.d.toNat false live fun l =>
      if a l = 0 then widthOf f else widthOf f - 1 - Nat.log2 (a l)) ∧
    Completes .vpop 0x097 f s tid t (vecWrites f.d.toNat false live fun l =>
      (List.range (widthOf f)).countP fun i => (a l).testBit i)

/-! ### Floating point -/

/-- VFP results in F32: exact values rounded once (R143, R190, R191, R193). -/
def singleFloat : List FloatRow :=
  [⟨.fadd, 0x0C0, 2, fun f a b _ => f32.add (rmBits f) (f32.val a) (f32.val b)⟩,
   ⟨.fsub, 0x0C1, 2, fun f a b _ => f32.add (rmBits f) (f32.val a) (f32.val b).negate⟩,
   ⟨.fmul, 0x0C2, 2, fun f a b _ => f32.mul (rmBits f) (f32.val a) (f32.val b)⟩,
   ⟨.ffma, 0x0C3, 3, fun f a b c => f32.fma (rmBits f) (f32.val a) (f32.val b) (f32.val c)⟩,
   ⟨.fmin, 0x0C4, 2, fun _ a b _ => f32.minmax false a b⟩, ⟨.fmax, 0x0C5, 2, fun _ a b _ => f32.minmax true a b⟩,
   ⟨.fclass, 0x0C7, 1, fun f a _ _ => (if Forms.ty f = 6 then f32.fclass a else (fmtOf (if Forms.ty f = 7 then 7 else 8)).fclass (a % 65536), 0)⟩,
   ⟨.fdiv, 0x0C8, 2, fun f a b _ => f32.div (rmBits f) (f32.val a) (f32.val b)⟩,
   ⟨.fsqrt, 0x0C9, 1, fun f a _ _ => f32.sqrt (rmBits f) (f32.val a)⟩,
   ⟨.frcp, 0x0CA, 1, fun _ a _ _ => f32.div 0 (.fin false 1 0) (f32.val a)⟩,
   ⟨.frsq, 0x0CB, 1, fun _ a _ _ => f32.rsqrt (f32.val a)⟩, ⟨.fexp2, 0x0CC, 1, fun _ a _ _ => f32.exp2 (f32.val a)⟩,
   ⟨.flog2, 0x0CD, 1, fun _ a _ _ => f32.log2 (f32.val a)⟩, ⟨.ftanh, 0x0CE, 1, fun _ a _ _ => f32.tanh (f32.val a)⟩]

/-- VFP results in two packed elements, low and high alike (R143, R190, R191). -/
def packedFloat : List FloatRow :=
  let two (g : Nat → Nat → Nat → Nat × Nat) (a b c : Nat) : Nat × Nat :=
    let lo := g (a % 65536) (b % 65536) (c % 65536)
    let hi := g (a / 65536) (b / 65536) (c / 65536)
    (lo.1 + hi.1 * 65536, lo.2 ||| hi.2)
  let neg (f : Fields) (bit x : Nat) : Nat := if Forms.mo f bit bit = 1 then x ^^^ 0x80008000 else x
  let v (f : Fields) := (fmt2 f).val
  [⟨.hadd2, 0x0CF, 2, fun f a b _ => two (fun x y _ => (fmt2 f).add (rmBits f) (v f x) (v f y)) a (neg f 7 b) 0⟩,
   ⟨.hmul2, 0x0D0, 2, fun f a b _ => two (fun x y _ => (fmt2 f).mul (rmBits f) (v f x) (v f y)) a (neg f 7 b) 0⟩,
   ⟨.hfma2, 0x0D1, 3, fun f a b c => two (fun x y z => (fmt2 f).fma (rmBits f) (v f x) (v f y) (v f z)) a (neg f 7 b) (neg f 8 c)⟩,
   ⟨.hmax2, 0x0D2, 2, fun f a b _ => two (fun x y _ => (fmt2 f).minmax true x y) a b 0⟩,
   ⟨.hmin2, 0x0D3, 2, fun f a b _ => two (fun x y _ => (fmt2 f).minmax false x y) a b 0⟩]

/-- Each F32 form retires with its result and its flags, when the group's budget has room (R147, R149, R190 to R193). -/
def Claims.SingleFloatResults : Prop :=
  ∀ r ∈ singleFloat, ∀ (f : Fields) (s : State) (tid : Nat) (t : Thread),
    Completes r.form r.opc f s tid t (vecWrites f.d.toNat false (t.live f) fun l => (r.lane s tid t f l).1)
      (flags := (lanesOf (t.eff f)).foldl (fun acc l => acc ||| (r.lane s tid t f l).2) 0)

/-- Each packed form retires with its two results and their flags, when the group's budget has room (R143, R149, R190, R191). -/
def Claims.PackedFloatResults : Prop :=
  ∀ r ∈ packedFloat, ∀ (f : Fields) (s : State) (tid : Nat) (t : Thread),
    Completes r.form r.opc f s tid t (vecWrites f.d.toNat false (t.live f) fun l => (r.lane s tid t f l).1)
      (flags := (lanesOf (t.eff f)).foldl (fun acc l => acc ||| (r.lane s tid t f l).2) 0)

/-- FCMP, CVT, FXCVT and FXTOF retire with their results and the flags of the lanes of EFF (R141, R151, R192, R195, R196). -/
def Claims.FloatCompareAndConvert : Prop :=
  ∀ (f : Fields) (s : State) (tid : Nat) (t : Thread),
    let live := t.live f
    let flags := fun (g : Nat → Nat) => (lanesOf (t.eff f)).foldl (fun acc l => acc ||| g l) 0
    let a := fun l => f32.val (lane32 s tid t f.a.toNat 0 l).toNat
    let b := fun l => f32.val (if f.xk then f.x.toNat else (lane32 s tid t f.b.toNat 0 l).toNat)
    let related := fun l => fcmpRel (Forms.mo f 9 7) (a l) (b l)
    let fixed := fun l => floatToInt 0 (-(2 ^ 63 : Nat)) ((2 ^ 63 : Nat) - 1) (a l) (Forms.ex f 5 0)
    let float := fun l =>
      f32.ofInt (rmBits f) (signedOf 64 (lane64 s tid t f.a.toNat l).toNat) (-(Forms.ex f 5 0 : Nat) : Int)
    (Forms.ty f = 6 → Completes .fcmp 0x0C6 f s tid t [.prd (f.d.toNat % 16) (laneMask fun l => (related l).1) live]
      (flags := flags fun l => (related l).2)) ∧
    Completes .cvt 0x100 f s tid t (vecWrites f.d.toNat (tyWide (Forms.ty f)) live fun l => (cvtLane s tid t f l).1)
      (flags := flags fun l => (cvtLane s tid t f l).2) ∧
    Completes .fxcvt 0x101 f s tid t (vecWrites f.d.toNat true live fun l => storeInt 64 true false (fixed l).1)
      (flags := flags fun l => (fixed l).2) ∧
    Completes .fxtof 0x102 f s tid t (vecWrites f.d.toNat false live fun l => (float l).1) (flags := flags fun l => (float l).2)

/-! ### Lanes and predicates -/

/-- What an exchange gives lane `l` that reads lane `j l` of operand A: the value and its valid bit. A dead lane gives 0, and a
lane out of range the reader's own value, both with the bit clear (R197). -/
def exchanged (f : Fields) (s : State) (tid : Nat) (t : Thread) (j : Nat → Option Nat) (l : Nat) : Nat × Bool :=
  match j l with
  | none => (laneTy s tid t (Forms.ty f) f.a.toNat l, false)
  | some k => if t.deadLanes.getLsbD k then (0, false) else (laneTy s tid t (Forms.ty f) f.a.toNat k, true)

/-- QSWP, QBC and SHFL retire with the values and the valid bits that the lanes of LIVE take (R197 to R199). -/
def Claims.ExchangeResults : Prop :=
  ∀ (f : Fields) (s : State) (tid : Nat) (t : Thread),
    let m := Forms.mo f 8 7
    let b := fun l => if Forms.ex f 4 4 = 1 then Forms.ex f 9 5 else (lane32 s tid t f.b.toNat 0 l).toNat
    let reads := fun (form : Fields → Instr) (opc : Nat) (j : Nat → Option Nat) =>
      Completes form opc f s tid t
        (vecWrites f.d.toNat (tyWide (Forms.ty f)) (t.live f) (fun l => (exchanged f s tid t j l).1) ++
          [.prd (Forms.ex f 3 0 % 16) (laneMask fun l => (exchanged f s tid t j l).2) (t.live f)])
    reads .qswp 0x103 (fun l => some (l ^^^ m)) ∧
    reads .qbc 0x104 (fun l => some (4 * (l / 4) + m)) ∧
    reads .shfl 0x105 (fun l => match m with
      | 0 => some (b l % 32)
      | 1 => if b l % 64 ≤ l then some (l - b l % 64) else none
      | 2 => if l + b l % 64 ≤ 31 then some (l + b l % 64) else none
      | _ => some (l ^^^ (b l % 32)))

/-- VOTE, GRED, GSCAN, PLOP and PMOV retire with their results over the lanes of EFF; that bits 63:32 of an s or w register are zero after a
32-bit result of GRED in F32, of VOTE.BALLOT and of PMOV is the model's choice (log 45) (R200 to R204). -/
def Claims.VoteReduceScanPredicates : Prop :=
  ∀ (f : Fields) (s : State) (tid : Nat) (t : Thread),
    let live := t.live f
    let q := t.eff f
    let wide := tyWide (Forms.ty f)
    let p := t.pred (Forms.ex f 3 0) &&& q
    let voted : Bool := match Forms.mo f 8 7 with
      | 0 => p ≠ 0
      | 1 => p = q
      | _ => p = q || p = 0
    let total := gredTree (combineOpt (Forms.mo f 9 7) (Forms.ty f) (rmBits f))
      ((List.range 32).map fun l => if q.getLsbD l then some (redTerm s tid t f l) else none)
    let runs := scanRuns s tid t f
    let run := fun l => (runs[l]?).getD (none, none)
    let bit := fun n l => if (t.pred n).getLsbD l then 1 else 0
    let standing := t.pred (Forms.ex f 3 0) &&& ~~~t.deadLanes
    (Forms.mo f 8 7 ≠ 3 → Completes .vote 0x106 f s tid t [.prd (f.d.toNat % 16) (allLanes voted) live]) ∧
    (Forms.mo f 8 7 = 3 → live ≠ 0 → Completes .vote 0x106 f s tid t (anyWrites f.d.toNat false live p.toNat (p.setWidth 64))) ∧
    (live ≠ 0 → Completes .gred 0x107 f s tid t
      (anyWrites f.d.toNat wide live (redStore f total) (uniStore (Forms.ty f) (redStore f total)))
      (flags := redFlags f total) (lat := 16)) ∧
    Completes .gscan 0x108 f s tid t
      (vecWrites f.d.toNat wide live fun l => redStore f (if q.getLsbD l && Forms.ex f 0 0 = 1 then (run l).1 else (run l).2))
      (flags := redFlags f (((runs.getLast?).map (·.2)).getD none)) (lat := 16) ∧
    Completes .plop 0x109 f s tid t [.prd (f.d.toNat % 16) (laneMask fun l =>
      (Forms.ex f 19 12).testBit (bit (Forms.ex f 3 0) l + 2 * bit (Forms.ex f 7 4) l + 4 * bit (Forms.ex f 11 8) l)) live] ∧
    (Forms.mo f 7 7 = 0 → Completes .pmov 0x10A f s tid t
      [.prd (f.d.toNat % 16) ((uniVal s tid t f.a.toNat).setWidth 32) live]) ∧
    (Forms.mo f 7 7 = 1 → live ≠ 0 → Completes .pmov 0x10A f s tid t
      (anyWrites f.d.toNat false live standing.toNat (standing.setWidth 64)))

/-- The forms whose destination is always a vector register. -/
def vectorForms : List (Nat × (Fields → Instr)) :=
  vectorArithmetic.map (fun r => (r.opc, r.form)) ++ vectorBits.map (fun r => (r.opc, r.form)) ++
    singleFloat.map (fun r => (r.opc, r.form)) ++ packedFloat.map (fun r => (r.opc, r.form)) ++
    [(0x085, .vmadw), (0x086, .vaddc), (0x091, .vsel), (0x093, .vmovi), (0x096, .vclz), (0x097, .vpop), (0x100, .cvt), (0x101, .fxcvt),
     (0x102, .fxtof), (0x103, .qswp), (0x104, .qbc), (0x105, .shfl), (0x108, .gscan)]

/-- The forms whose destination may be a vector register or another. -/
def anyForms : List (Nat × (Fields → Instr)) :=
  [(0x00D, .exmrd), (0x00F, .rdsr), (0x015, .rdband), (0x106, .vote), (0x107, .gred), (0x10A, .pmov)]

/-- A form of the vector units, or of CTL, whose destination needs a register beyond the group's budget takes TRAP with FSYN 0x8000_0003 in
place of its effect, precise, with itself as resume point (R53, R59). -/
def Claims.BudgetTrap : Prop :=
  ∀ r ∈ vectorForms ++ anyForms, ∀ (f : Fields) (s : State) (tid : Nat) (t : Thread) (n : Nat), Issues s tid t r.1 f →
    (r.1 = 0x106 → Forms.mo f 8 7 = 3) → (r.1 = 0x10A → Forms.mo f 7 7 = 1) →
    regOf f.d.toNat = .v n → nget t.vmap n = none → t.live f ≠ 0 → t.isGroup = true → t.budget ≤ t.vmap.length →
    exec (r.2 f) s = .next (takeFault s tid { cause := cTRAP, syn := 0x80000003, lanes := (t.live f).setWidth 64 } t.pc)


/-- The forms with no effect but to retire when LIVE is empty. -/
def liveForms : List (Nat × (Fields → Instr)) :=
  (scalarArithmetic ++ scalarBits).map (fun r => (r.opc, r.form)) ++
    [(0x050, .smovi), (0x051, .slea), (0x107, .gred), (0x00A, .wait), (0x00B, .waitb), (0x00C, .bar), (0x012, .bkpt), (0x013, .trap),
     (0x014, .rdtimeL), (0x014, .rdtimeG), (0x015, .rdband), (0x140, .mtalloc), (0x141, .mtfree), (0x142, .mzero), (0x143, .mma),
     (0x144, .mloop), (0x145, .mwracc), (0x146, .mdrain), (0x147, .mdrainq), (0x148, .mbatch), (0x180, .ld), (0x182, .ldu), (0x184, .lda),
     (0x188, .fence), (0x18F, .mslp), (0x1C3, .phwait), (0x1C4, .phtest), (0x207, .fabst), (0x240, .tbjoin), (0x241, .tbwait),
     (0x242, .tbtest), (0x243, .tbexc), (0x244, .haltj), (0x281, .qtokGet), (0x281, .qtokReset), (0x283, .wltake), (0x284, .wlstat),
     (0x2C0, .fzrd), (0x2C1, .fzwr), (0x2C2, .fzpc), (0x2C3, .fzmask), (0x2C4, .fzlogRd), (0x2C4, .fzlogReg), (0x2C4, .fzlogPut),
     (0x2C4, .fzlogDone), (0x2C5, .fzlane), (0x2C6, .fzstep), (0x2C7, .fzres), (0x2C8, .fzkill), (0x2C9, .capqEnum), (0x2C9, .capqStat),
     (0x2CA, .hret), (0x300, .prd), (0x301, .pwr), (0x302, .rlbinv), (0x305, .resumej)]

/-- The forms with no effect but to retire when EFF is empty: those that store, or act beside the group. -/
def effForms : List (Nat × (Fields → Instr)) :=
  [(0x181, .st), (0x183, .stu), (0x185, .stl), (0x186, .atom), (0x187, .red), (0x189, .pref), (0x18A, .lnlk), (0x18B, .lnul),
   (0x18C, .lnwb), (0x18D, .lndrop), (0x18E, .marm), (0x1C0, .cpyq), (0x1C1, .phinit), (0x1C2, .pharr), (0x200, .bxsend), (0x201, .bxget),
   (0x202, .bxmc), (0x203, .bxred), (0x204, .bxflag), (0x205, .mboxreg), (0x206, .mboxrel), (0x280, .launch), (0x281, .qtokSig),
   (0x282, .wlapp)]

/-- With LIVE empty, or EFF for a form that stores or acts beside its group, a form has no effect but to retire: among them
VOTE.BALLOT, PMOV to a mask, RDSR and WRSR of any register but EXM, and the forms of context 0 in its tadpoles (R46, R105, R116,
R160). -/
def Claims.EmptyLiveRetires : Prop :=
  ∀ (f : Fields) (s : State) (tid : Nat) (t : Thread),
    let ends := fun (opc : Nat) (form : Fields → Instr) => Issues s tid t opc f → RetiresWith (form f) opc f s tid t {}
    (t.live f = 0 → (∀ r ∈ liveForms, ends r.1 r.2) ∧
      (Forms.mo f 8 7 = 3 → ends 0x106 .vote) ∧ (Forms.mo f 7 7 ≠ 0 → ends 0x10A .pmov) ∧
      (Forms.ex f 7 0 ≠ 0x10 → ends 0x00F .rdsr ∧ ends 0x010 .wrsr) ∧
      (t.ctx = 0 → ends 0x303 .ctxsv ∧ ends 0x304 .ctxld ∧ ends 0x306 .curet)) ∧
    (t.eff f = 0 → ∀ r ∈ effForms, ends r.1 r.2)

/-! ### Control flow -/

/-- A form that may issue retires with these effects. -/
def RetiresWhen (form : Fields → Instr) (opc : Nat) (f : Fields) (s : State) (tid : Nat) (t : Thread) (d : Done) : Prop :=
  Issues s tid t opc f → RetiresWith (form f) opc f s tid t d

/-- NOP retires and does nothing else (R159). -/
def Claims.NopRetires : Prop :=
  ∀ (f : Fields) (s : State) (tid : Nat) (t : Thread), RetiresWhen .nop 0x000 f s tid t {}

/-- Whether BRC is taken: in its mode any, all or none of the lanes of LIVE have its predicate, and LIVE is not empty (R162). -/
def Taken (f : Fields) (t : Thread) : Prop :=
  match Forms.mo f 5 4 with
  | 0 => t.pred (Forms.mo f 3 0) &&& t.live f ≠ 0
  | 1 => t.live f ≠ 0 ∧ t.pred (Forms.mo f 3 0) &&& t.live f = t.live f
  | _ => t.live f ≠ 0 ∧ t.pred (Forms.mo f 3 0) &&& t.live f = 0

/-- A transfer that is taken moves the PC to its target and resets the signature; CALL also writes the next PC to D, and YIELD offers the
group for a swap; one that is not taken, as with LIVE empty, falls through, and resets the signature too (R111, R162, R164, R165,
R175). -/
def Claims.TransfersMoveThePc : Prop :=
  ∀ (f : Fields) (s : State) (tid : Nat) (t : Thread) (pc : Word64),
    let live := t.live f
    let reset : Option Word := some 0xFFFFFFFF
    let ret := uniVal s tid t f.a.toNat
    let ind := ret + (if f.xk then f.x.signExtend 64 else uniVal s tid t f.b.toNat)
    let good := fun (x : Word64) => slotOk x = true ∧ pcHighOk x = true
    (dispTarget t.pc f.x.toInt = some pc → live ≠ 0 → RetiresWhen .bra 0x001 f s tid t { pc := some pc, sig := reset }) ∧
    (dispTarget t.pc f.x.toInt = some pc → Taken f t → RetiresWhen .brc 0x002 f s tid t { pc := some pc, sig := reset }) ∧
    (¬Taken f t → RetiresWhen .brc 0x002 f s tid t { sig := reset }) ∧
    (dispTarget t.pc f.x.toInt = some pc → live ≠ 0 →
      RetiresWhen .call 0x005 f s tid t { pc := some pc, sig := reset, writes := [.uni f.d.toNat (nextPc t.pc)] }) ∧
    (good ret → live ≠ 0 → RetiresWhen .ret 0x006 f s tid t { pc := some ret, sig := reset }) ∧
    (good ind → live ≠ 0 → RetiresWhen .bri 0x007 f s tid t { pc := some ind, sig := reset }) ∧
    (dispTarget t.pc f.x.toInt = some pc → live ≠ 0 → Issues s tid t 0x009 f →
      RetiresFrom (.yield f) 0x009 f s s tid t { pc := some pc, sig := reset } fun u => { u with offer := 2 }) ∧
    (live = 0 → RetiresWhen .bra 0x001 f s tid t { sig := reset } ∧ RetiresWhen .call 0x005 f s tid t { sig := reset } ∧
      RetiresWhen .ret 0x006 f s tid t { sig := reset } ∧ RetiresWhen .bri 0x007 f s tid t { sig := reset } ∧
      RetiresWhen .yield 0x009 f s tid t { sig := reset })



/-- A transfer to a bad target takes XLAT or MISAL, precise, with the target in FOPD0, itself as resume point and no other effect: a
computed target whose low bits are no slot is MISAL, one with a bit of 63:57 set is XLAT, and one with both is MISAL by the model's
choice (log 62); a displacement that leaves the address space is XLAT, and so is a move of BRD or JOIN to a bad PC (R51, R111, R162
to R164). -/
def Claims.BadTargetFaults : Prop :=
  ∀ (f : Fields) (s : State) (tid : Nat) (t : Thread),
    let away := fun (i : Instr) (cause : Nat) (dest : Word64) =>
      exec i s = .next (takeFault s tid { cause := cause, opd0 := dest } t.pc)
    let ret := uniVal s tid t f.a.toNat
    let ind := ret + (if f.xk then f.x.signExtend 64 else uniVal s tid t f.b.toNat)
    let computed := fun (i : Instr) (opc : Nat) (x : Word64) => t.live f ≠ 0 → Issues s tid t opc f →
      (slotOk x = false → away i cMISAL x) ∧ (slotOk x = true → pcHighOk x = false → away i cXLAT x)
    let displaced := fun (i : Instr) (opc : Nat) (taken : Prop) => taken → Issues s tid t opc f → dispTarget t.pc f.x.toInt = none →
      away i cXLAT (rawTarget t.pc f.x.toInt)
    let tk := t.live f &&& t.pred (Forms.mo f 3 0)
    let brd := if tk ≠ 0 then rawTarget t.pc f.x.toInt else nextPc t.pc
    let bad := fun (x : Word64) => slotOk x = false ∨ pcHighOk x = false
    computed (.ret f) 0x006 ret ∧ computed (.bri f) 0x007 ind ∧
    displaced (.bra f) 0x001 (t.live f ≠ 0) ∧ displaced (.brc f) 0x002 (Taken f t) ∧ displaced (.call f) 0x005 (t.live f ≠ 0) ∧
    displaced (.yield f) 0x009 (t.live f ≠ 0) ∧
    (Issues s tid t 0x003 f → t.stack.length < 64 → bad brd → away (.brd f) cXLAT brd) ∧
    (∀ top rest, Issues s tid t 0x004 f → t.stack = top :: rest →
      (top.p ≠ 0 → bad top.ppc → away (.join f) cXLAT top.ppc) ∧ (top.p = 0 → bad top.rpc → away (.join f) cXLAT top.rpc))


/-- BRD splits EXM by its predicate over LIVE: with lanes taken they run first, at the target, and the rest wait in the new
frame at the next instruction; with none taken the rest run on. The signature is a reset point folded with the path
(R51, R163, R175). -/
def Claims.BranchDivergeSplits : Prop :=
  ∀ (f : Fields) (s : State) (tid : Nat) (t : Thread), Issues s tid t 0x003 f → t.stack.length < 64 →
    let tk := t.live f &&& t.pred (Forms.mo f 3 0)
    let rest := t.exm &&& ~~~tk
    let target := rawTarget t.pc f.x.toInt
    let rpc := rawTarget t.pc (brdRpc f)
    let pc := if tk ≠ 0 then target else nextPc t.pc
    let top : Frame := { d := t.exm, c := if tk ≠ 0 then tk else rest, p := if tk ≠ 0 then rest else 0, ppc := nextPc t.pc, rpc := rpc }
    slotOk pc = true → pcHighOk pc = true →
    ∃ u t', exec (.brd f) s = .next u ∧ u.thread tid = some t' ∧ t'.pc = pc ∧ t'.stack = top :: t.stack ∧ t'.exm = top.c ∧
      (t.isGroup = true → t'.sig = fold16 0xFFFFFFFF (if tk ≠ 0 then 0xE001 else 0xE002)) ∧
      t'.sreg = t.sreg ∧ t'.preg = t.preg ∧ u.mem = s.mem ∧ ∀ j, j ≠ tid → u.thread j = s.thread j

/-- JOIN runs the waiting path of the top frame if it has lanes; else it pops the frame, restores EXM and goes to its
reconvergence PC (R51, R175). With an empty stack it takes TRAP with FSYN 0x8000_0002, and BRD with a full one TRAP with
FSYN 0x8000_0001. -/
def Claims.JoinSwitchesOrPops : Prop :=
  ∀ (f : Fields) (s : State) (tid : Nat) (t : Thread) (top : Frame) (rest : List Frame),
    (Issues s tid t 0x004 f → t.stack = top :: rest → top.p ≠ 0 → slotOk top.ppc = true → pcHighOk top.ppc = true →
      ∃ u t', exec (.join f) s = .next u ∧ u.thread tid = some t' ∧ t'.pc = top.ppc ∧ t'.exm = top.p ∧
        t'.stack = { top with c := top.p, p := 0 } :: rest ∧ (t.isGroup = true → t'.sig = fold16 0xFFFFFFFF 0xE002) ∧ u.mem = s.mem) ∧
    (Issues s tid t 0x004 f → t.stack = top :: rest → top.p = 0 → slotOk top.rpc = true → pcHighOk top.rpc = true →
      ∃ u t', exec (.join f) s = .next u ∧ u.thread tid = some t' ∧ t'.pc = top.rpc ∧ t'.exm = top.d ∧ t'.stack = rest ∧
        (t.isGroup = true → t'.sig = fold16 0xFFFFFFFF 0xE003) ∧ u.mem = s.mem) ∧
    (Issues s tid t 0x004 f → t.stack = [] →
      exec (.join f) s = .next (takeFault s tid { cause := cTRAP, syn := 0x80000002, lanes := (t.live f).setWidth 64 } t.pc)) ∧
    (Issues s tid t 0x003 f → 64 ≤ t.stack.length →
      exec (.brd f) s = .next (takeFault s tid { cause := cTRAP, syn := 0x80000001, lanes := (t.live f).setWidth 64 } t.pc))

/-- EXIT ends the lanes of EFF: while a launched lane remains the group goes on at the next instruction with those lanes gone
from EXM; when none remains the group has exited (R48, R49, R166). -/
def Claims.ExitEndsLanes : Prop :=
  ∀ (f : Fields) (s : State) (tid : Nat) (t : Thread), Issues s tid t 0x008 f → t.isGroup = true → t.place = .active →
    t.ffail = none →
    let gone := t.exited ||| t.eff f
    let left := t.lmask &&& ~~~t.hlpm &&& ~~~gone &&& ~~~t.deadm
    ∃ u t', exec (.exit f) s = .next u ∧ u.thread tid = some t' ∧ u.mem.dram = s.mem.dram ∧
      (left ≠ 0 → t'.place = .active ∧ t'.pc = nextPc t.pc ∧ t'.exm &&& t.eff f = 0 ∧ t'.exited &&& gone = gone ∧
        u.mem = s.mem ∧ ∀ j, j ≠ tid → u.thread j = s.thread j) ∧
      (left = 0 → t'.place = .exited ∧ t'.vmap = [] ∧ t'.gen = (t.gen + 1) % 65536)

/-! ### Waits and barriers -/

/-- WAIT retires when LIVE is empty or each of the four counters is at most its field, and WAITB when LIVE is empty or no
operation of a batch up to its own is open; else the form waits, with nothing changed but the mark that it waits
(R168, R169). -/
def Claims.WaitsUntilCountersFall : Prop :=
  ∀ (f : Fields) (s : State) (tid : Nat) (t : Thread),
    let x := f.x.toNat
    let low := t.cL ≤ x % 64 ∧ t.cS ≤ x / 64 % 64 ∧ t.cC ≤ x / 4096 % 64 ∧ t.cM ≤ x / 262144 % 64
    let waits := Host.Outcome.next (s.modThread tid fun u => { u with waits := true })
    (t.live f = 0 ∨ low → RetiresWhen .wait 0x00A f s tid t {}) ∧
    (t.live f ≠ 0 → ¬low → Issues s tid t 0x00A f → exec (.wait f) s = waits) ∧
    (t.live f = 0 ∨ batchWaits t (Forms.ex f 7 0) = false → RetiresWhen .waitb 0x00B f s tid t {}) ∧
    (t.live f ≠ 0 → batchWaits t (Forms.ex f 7 0) = true → Issues s tid t 0x00B f → exec (.waitb f) s = waits)

/-- BAR of a workgroup or of its cluster: a group that arrives joins the phase and waits at the BAR, with acquire-release once its release
action has nothing left to do; until the phase is over it waits; then it goes on, with its predicate true in the lanes of LIVE unless a
member was excused (R88, R170, R171). With LIVE empty it only retires. -/
def Claims.BarArrivesThenRetires : Prop :=
  ∀ (f : Fields) (s : State) (tid : Nat) (t : Thread) (g : Wg), s.wg t.wg = some g →
    (Forms.mo f 1 0 ≠ 0 → (nget s.lch g.launch).isSome = true) → t.stepping = 0 → s.env.cur = some tid → s.thread tid = some t →
    ready s tid t 0x00C f = true →
    let b := barOf s t f
    let quiet := t.log = [] ∧ t.wb = none ∧ dirtySectors s t.cu = [] ∧ t.fOpen = []
    (t.blk = none → t.live f = 0 → RetiresWith (.bar f) 0x00C f s tid t {}) ∧
    (t.blk = none → t.live f ≠ 0 → (Forms.mo f 3 2 = 3 → quiet) → ∃ u t', exec (.bar f) s = .next u ∧ u.thread tid = some t' ∧
      t'.blk = some { stage := 2, val := b.phase, aux := 0 } ∧ t'.pc = t.pc ∧ t'.exm = t.exm ∧
      barOf u t f = { b with arrived := b.arrived ++ [tid] } ∧ (∀ j, j ≠ tid → u.thread j = s.thread j) ∧ u.mem = s.mem) ∧
    (∀ p, t.live f ≠ 0 → t.blk = some { stage := 2, val := p, aux := 0 } → b.phase ≤ p → Waits (.bar f) s tid) ∧
    (∀ p, t.live f ≠ 0 → t.blk = some { stage := 2, val := p, aux := 0 } → p < b.phase →
      ∃ u t', exec (.bar f) s = .next u ∧ u.thread tid = some t' ∧ t'.blk = none ∧ t'.pc = nextPc t.pc ∧ t'.exm = t.exm ∧
        (∀ n, t'.pred n = if n = f.d.toNat % 16 ∧ n ≠ 15
          then (allLanes (!b.lastExcused) &&& t.live f) ||| (t.pred n &&& ~~~t.live f) else t.pred n) ∧ t'.sreg = t.sreg ∧
        (∀ j, j ≠ tid → u.thread j = s.thread j) ∧ u.mem = s.mem)


/-- BARRIER_PHASE_COMPLETE: when every member of a barrier has arrived or exited, the phase ends: its number rises and the arrivals are
cleared. Of a workgroup's barrier no member is excused, and the w registers are settled; of a cluster's the groups of the killed workgroups
are, and those that waited are told (R63, R170, R171). -/
def Claims.BarrierPhaseEnds : Prop :=
  (∀ (s : State) (w id : Nat) (g : Wg) (b : Bar), s.wg w = some g → nget g.bars id = some b → b.arrived ≠ [] →
    missing s b g.groups = [] →
    ∃ u, exec (.barrierPhaseComplete false w id) s = .next u ∧
      u.wg w = some { g with bars := nset g.bars id { phase := b.phase + 1, arrived := [], lastExcused := false },
                             w := nmap g.w fun _ r => r.settle } ∧
      u.mem = s.mem ∧ u.thr = s.thr ∧ ∀ v, v ≠ w → u.wg v = s.wg v) ∧
  (∀ (s : State) (launch clid id : Nat) (l : Launch) (b : Bar), nget s.lch launch = some l → clid < 2 ^ 32 →
    nget l.cbar (clusterBar clid id) = some b → b.arrived ≠ [] →
    missing s b ((clusterWgs s launch clid).map fun p => p.2.groups).flatten = [] →
    ∃ u, exec (.barrierPhaseComplete true (launch * 2 ^ 32 + clid) id) s = .next u ∧
      nget u.lch launch = some { l with cbar := nset l.cbar (clusterBar clid id) ⟨b.phase + 1, [], l.excused.contains clid⟩ } ∧
      u.mem = s.mem ∧ u.thr = s.thr ∧ u.wgs = s.wgs ∧ ∀ k, k ≠ launch → nget u.lch k = nget s.lch k)


/-! ### Masks, special registers, signatures, time -/

/-- Special registers by number, with what each is of the thread that is read (R44, R128). -/
def specialRegisters : List (Nat × (Thread → Nat → Word64)) :=
  [(0x00, fun _ l => BitVec.ofNat 64 l), (0x01, fun _ l => BitVec.ofNat 64 (l / 4)), (0x02, fun g _ => BitVec.ofNat 64 g.gnum),
   (0x11, fun g _ => g.deadm.setWidth 64), (0x12, fun g _ => g.hlpm.setWidth 64), (0x19, fun g _ => g.nchk.setWidth 64),
   (0x22, fun g _ => g.mstat)]

/-- Special registers by number that code reads of itself: FPCTL and FPSTAT, and a tadpole's fault record (R128, R129). -/
def ownRegisters : List (Nat × (Thread → Word64)) :=
  [(0x20, Thread.fpctl), (0x21, Thread.fpstat), (0x40, fun t => t.frec.cause), (0x41, fun t => t.frec.fpc), (0x42, fun t => t.frec.fmask),
   (0x43, fun t => t.frec.lanes), (0x44, fun t => t.frec.opd0), (0x45, fun t => t.frec.opd1), (0x46, fun t => t.frec.opd2),
   (0x47, fun t => t.frec.opd3), (0x48, fun t => t.frec.syn), (0x49, fun t => t.frec.unit), (0x4A, fun t => t.frec.tilem),
   (0x4B, fun t => t.frec.tilen), (0x4C, fun t => t.frec.cap), (0x4D, fun t => t.frec.time), (0x70, fun t => t.tkind)]

/-- EXMRD, and RDSR of EXM, read EXM to D whatever LIVE is, in a tadpole the frozen group's; RDSR reads a special register, SIGACC
with its own fold, by the model's reading (log 20); RDTIME.L and RDTIME.G read the local and the global time, never less than
before; RDBAND gives each address its band. With LIVE empty the last three, and RDSR of another register, only retire, and so does
any of them under the guard "never" (R44, R128, R129, R160, R173 to R175, R179, R180). -/
def Claims.ReadsOfMachineRegisters : Prop :=
  ∀ (f : Fields) (s : State) (tid : Nat) (t : Thread),
    let live := t.live f
    let n := Forms.ex f 7 0
    let die := dieOf t.cu
    let wide := fun (v : Nat → Word64) => match regOf f.d.toNat with
      | .v _ => vecWrites f.d.toNat false live fun l => (v l).toNat
      | _ => [Write.uni f.d.toNat (v 0)]
    let time := fun (i : Instr) (v : Word64) (g : Thread → Thread) => Issues s tid t 0x014 f →
      RetiresFrom i 0x014 f s s tid t { writes := [.uni f.d.toNat v] } g
    let later := fun (a b : Word64) => if a.toNat < b.toNat then b else a
    let local' := later t.timeL (s.localTime die)
    let global := later t.timeG (s.globalTime die)
    let band := bandVal s t f (uniVal s tid t f.a.toNat)
    let exm := fun (x : Mask) => Completes .exmrd 0x00D f s tid t (wide fun _ => x.setWidth 64) ∧
      (n = 0x10 → Completes .rdsr 0x00F f s tid t (wide fun _ => x.setWidth 64))
    (neverGuard f = false → t.isGroup = true → exm t.exm) ∧
    (neverGuard f = false → t.isGroup = false → ∀ g, t.target.bind s.thread = some g → exm g.exm) ∧
    (neverGuard f = true → Completes .exmrd 0x00D f s tid t [] ∧ (n = 0x10 → Completes .rdsr 0x00F f s tid t [])) ∧
    (live ≠ 0 → n ≠ 0x10 → n ≠ 0x18 ∨ t.isGroup = false → Completes .rdsr 0x00F f s tid t (wide (srVal s t n))) ∧
    (live ≠ 0 → t.isGroup = true → n = 0x18 →
      Completes .rdsr 0x00F f s tid t (wide fun _ => (fold16 t.sig 0x00F).setWidth 64)) ∧
    (∀ r ∈ specialRegisters, ∀ l, (t.isGroup = true → srVal s t r.1 l = r.2 t l) ∧
      ∀ g, t.isGroup = false → t.target.bind s.thread = some g → g.isGroup = true →
        srVal s t r.1 l = r.2 g (if r.1 ≤ 1 then 0 else l)) ∧
    (∀ r ∈ ownRegisters, ∀ l, srVal s t r.1 l = r.2 t) ∧
    (live ≠ 0 → time (.rdtimeL f) local' fun u => { u with timeL := local' }) ∧
    (live ≠ 0 → time (.rdtimeG f) global fun u => { u with timeG := global }) ∧
    (live ≠ 0 → (∀ m, regOf f.a.toNat ≠ .v m) →
      Completes .rdband 0x015 f s tid t (anyWrites f.d.toNat false live band (BitVec.ofNat 64 band))) ∧
    (∀ m, live ≠ 0 → regOf f.a.toNat = .v m → Completes .rdband 0x015 f s tid t
      (vecWrites f.d.toNat false live fun l => bandVal s t f (lane64 s tid t f.a.toNat l))) ∧
    (live = 0 → Completes .rdtimeL 0x014 f s tid t [] ∧ Completes .rdtimeG 0x014 f s tid t [] ∧ Completes .rdband 0x015 f s tid t [] ∧
      (n ≠ 0x10 → Completes .rdsr 0x00F f s tid t []))


/-- EXMWR and WRSR of EXM set EXM to the operand within the level's entry mask, and everything else of the thread but the PC and the
signature stays; WRSR of another register sets it within its writable bits: of two writes of a copy register in one clk that of the
higher barrel stays, and what stood before them is kept beside it for that clk's reads. Under the guard "never", and WRSR of another
register with LIVE empty, they only retire (R52, R63, R127, R148, R149, R160, R173, R174, R228, R259). -/
def Claims.WritesOfMachineRegisters : Prop :=
  ∀ (f : Fields) (s : State) (tid : Nat) (t : Thread),
    let n := Forms.ex f 7 0
    let v := uniVal s tid t f.a.toNat
    let sets := fun (x : Mask) (u : Thread) => { u with exm := x &&& t.curC, shExm := x &&& t.curC }
    let beats := fun (g : Wg) => match nget g.cpyWr n with | some p => p.clk = s.cyc ∧ t.barrel < p.barrel | none => False
    let stood := fun (g : Wg) =>
      let now := if n = 0x30 then g.cpyNtf else g.cpyStb
      match nget g.cpyWr n with | some p => if p.clk = s.cyc then p.before else now | none => now
    let copies := fun (h : Wg → Wg) => RetiresFrom (.wrsr f) 0x010 f s
      (s.modWg t.wg fun g => { (h g) with cpyWr := nset g.cpyWr n { clk := s.cyc, barrel := t.barrel, before := stood g } }) tid t {}
    (Issues s tid t 0x00E f → neverGuard f = false →
      RetiresFrom (.exmwr f) 0x00E f s s tid t {} (sets (if f.xk then f.x else v.setWidth 32))) ∧
    (Issues s tid t 0x00E f → neverGuard f = true → RetiresWith (.exmwr f) 0x00E f s tid t {}) ∧
    (Issues s tid t 0x010 f → n = 0x10 → neverGuard f = false → RetiresFrom (.wrsr f) 0x010 f s s tid t {} (sets (v.setWidth 32))) ∧
    (Issues s tid t 0x010 f → n = 0x10 → neverGuard f = true → RetiresWith (.wrsr f) 0x010 f s tid t {}) ∧
    (Issues s tid t 0x010 f → n ≠ 0x10 → t.live f = 0 → RetiresWith (.wrsr f) 0x010 f s tid t {}) ∧
    (Issues s tid t 0x010 f → t.live f ≠ 0 →
      (n = 0x18 → RetiresFrom (.wrsr f) 0x010 f s s tid t {} fun u => { u with sig := v.setWidth 32 }) ∧
      (n = 0x20 → RetiresFrom (.wrsr f) 0x010 f s s tid t {} fun u => { u with fpctl := v &&& 0x13F }) ∧
      (n = 0x21 → RetiresFrom (.wrsr f) 0x010 f s s tid t {} fun u => { u with fpstat := v &&& 0x3F }) ∧
      (n = 0x22 → RetiresFrom (.wrsr f) 0x010 f s s tid t {} fun u => { u with mstat := v &&& 0x7F }) ∧
      (∀ g, s.wg t.wg = some g → ¬beats g → n = 0x30 → copies fun g => { g with cpyNtf := v &&& 0x01FFFFFFFFFFFFF9 }) ∧
      (∀ g, s.wg t.wg = some g → ¬beats g → n = 0x31 → copies fun g => { g with cpyStb := v &&& 0x01FFFFFFFFFFF801 }) ∧
      (∀ g, s.wg t.wg = some g → beats g → n = 0x30 ∨ n = 0x31 → RetiresWith (.wrsr f) 0x010 f s tid t {}))


/-- SIGCHK with a matching signature counts it and resets the signature; with another it takes SIGF with the running signature
in FSYN, the expected one in FOPD0, its own PC in FPC, and resumes at the next instruction; the job begins to halt exactly where HALTM
selects SIGF. Under the guard "never" it only retires (R160, R175, R176, R177). -/
def Claims.SignatureCheck : Prop :=
  ∀ (f : Fields) (s : State) (tid : Nat) (t : Thread), Issues s tid t 0x011 f → t.isGroup = true →
    (neverGuard f = true → ∃ u t', exec (.sigchk f) s = .next u ∧ u.thread tid = some t' ∧ t'.pc = nextPc t.pc ∧ t'.nchk = t.nchk ∧
      t'.fz = t.fz ∧ t'.exm = t.exm ∧ u.mem = s.mem) ∧
    (neverGuard f = false → t.sig = f.x → ∃ u t', exec (.sigchk f) s = .next u ∧ u.thread tid = some t' ∧ t'.pc = nextPc t.pc ∧
      t'.nchk = t.nchk + 1 ∧ t'.sig = 0xFFFFFFFF ∧ t'.fz = t.fz ∧ t'.exm = t.exm ∧ u.mem = s.mem) ∧
    (neverGuard f = false → t.sig ≠ f.x → t.stepping = 0 → (s.ctx t.ctx).sysent ≠ 0 → ∃ u t' z, exec (.sigchk f) s = .next u ∧
      u.thread tid = some t' ∧ t'.pc = nextPc t.pc ∧ t'.sig = 0xFFFFFFFF ∧ t'.fz = some z ∧ z.byFault = true ∧ z.imp = false ∧
      z.fr.cause = BitVec.ofNat 64 cSIGF ∧ z.fr.syn = t.sig.setWidth 64 ∧ z.fr.opd0 = f.x.setWidth 64 ∧ z.fr.fpc = t.pc ∧
      ∀ l, s.launchOf t = some l → s.halting t.ctx = false → u.halting t.ctx = l.lr.haltm.testBit cSIGF)

/-- BKPT and TRAP with LIVE not empty freeze the group at the next instruction, with their cause, EXT 15:0 in FSYN, LIVE in
FLANES and their own PC in FPC; a tadpole is queued on the group's CU (R178, R396, R398, R403). -/
def Claims.BreakpointAndTrapFreeze : Prop :=
  ∀ (f : Fields) (s : State) (tid : Nat) (t : Thread), t.isGroup = true → t.live f ≠ 0 → t.stepping = 0 →
    (s.ctx t.ctx).sysent ≠ 0 →
    let freezes := fun (i : Instr) (cause : Nat) =>
      ∃ u t' z q, exec i s = .next u ∧ u.thread tid = some t' ∧ t'.pc = nextPc t.pc ∧ t'.fz = some z ∧ z.byFault = true ∧
        z.fr.cause = BitVec.ofNat 64 cause ∧ z.fr.syn = BitVec.ofNat 64 (Forms.ex f 15 0) ∧
        z.fr.lanes = (t.live f).setWidth 64 ∧ z.fr.fpc = t.pc ∧ t'.exm = t.exm ∧ u.mem = s.mem ∧
        q ∈ (u.cu t.cu).spawnq ∧ q.tid = tid ∧ q.fr = z.fr ∧ q.ctx = t.ctx
    (Issues s tid t 0x012 f → freezes (.bkpt f) cBKPT) ∧ (Issues s tid t 0x013 f → freezes (.trap f) cTRAP)

/-! ### The matrix engine -/

/-- MTALLOC takes the lowest run of free units that holds a tile of its size, and D is the tile's handle: generation, NF, MC and base;
D is zero when no run is free (R206 to R209). -/
def Claims.TileAllocation : Prop :=
  ∀ (f : Fields) (s : State) (tid : Nat) (t : Thread) (g : Wg), Issues s tid t 0x140 f → t.live f ≠ 0 → s.wg t.wg = some g →
    let mc := Forms.mo f 1 0
    let nf := Forms.ex f 5 0
    let n := 2 ^ mc * (nf + 1)
    let free := fun (b : Nat) => b + n ≤ 4 * g.tsUnits ∧ ∀ x ∈ g.tiles, b + n ≤ x.base ∨ x.base + 2 ^ x.mc * (x.nf + 1) ≤ b
    (∀ b, free b → (∀ c, c < b → ¬free c) →
      RetiresFrom (.mtalloc f) 0x140 f s
        (s.modWg t.wg fun g => { g with tiles := g.tiles ++ [{ gen := g.tileGen, nf := nf, mc := mc, base := b, dying := false }],
                                        tileGen := if g.tileGen = 255 then 1 else g.tileGen + 1 })
        tid t { writes := [.uni f.d.toNat (BitVec.ofNat 64 (g.tileGen * 2 ^ 24 + nf * 2 ^ 12 + mc * 2 ^ 10 + b))] }) ∧
    ((∀ b, ¬free b) → RetiresWith (.mtalloc f) 0x140 f s tid t { writes := [.uni f.d.toNat 0] })

/-- The forms that enter the matrix queue. -/
def matrixForms : List (Nat × (Fields → Instr)) :=
  [(0x141, .mtfree), (0x142, .mzero), (0x143, .mma), (0x144, .mloop), (0x145, .mwracc), (0x146, .mdrain), (0x147, .mdrainq)]

/-- The vector registers that a matrix form captures. -/
def matrixNames (opc : Nat) (f : Fields) (x : Tile) : List Nat :=
  if opc = 0x143 ∨ opc = 0x144 then
    ((fragA opc f x.mc).flatten ++ (if Forms.mo f 7 7 = 1 then [] else (fragB opc f x.nf).flatten)).eraseDups
  else []

/-- A matrix form on a live tile whose checks pass, with room in the queue and the operand buffer, captures its operands in a new
operation at the end of its CU's queue and goes on; nothing of the tile or the scratchpad changes yet; without room, or with a drain to
scratch behind accesses of its workgroup there, it waits (R212, R213, R217). A form on no live tile takes TRAP with FSYN 0x8000_0010, one
whose checks fail TRAP with theirs, and one whose range or translation fails the fault of that, with its operation number in FSYN and the
address in FOPD0; the fault registers of such a fault are the model's choice (log 42). -/
def Claims.MatrixFormsEnterTheQueue : Prop :=
  ∀ r ∈ matrixForms, ∀ (f : Fields) (s : State) (tid : Nat) (t : Thread) (g : Wg), Issues s tid t r.1 f → t.live f ≠ 0 →
    s.wg t.wg = some g →
    let h := uniVal s tid t f.d.toNat
    let va := uniVal s tid t f.a.toNat
    let vb := uniVal s tid t f.b.toNat
    let vc := uniVal s tid t f.c.toNat
    let trap := fun (n : Nat) => Host.Outcome.next (takeFault s tid (trapSyn n (t.live f)) t.pc)
    (tileOf g h = none → exec (r.2 f) s = trap 0x80000010) ∧
    (∀ x, tileOf g h = some x →
      let names := matrixNames r.1 f x
      (∀ n, matTrap r.1 f x va.toNat vb.toNat vc.toNat names = some n → exec (r.2 f) s = trap n) ∧
      let range := matRange s t r.1 f x va.toNat vb.toNat vc.toNat
      (∀ c a, matTrap r.1 f x va.toNat vb.toNat vc.toNat names = none → range.2 = .bad c a → exec (r.2 f) s = .next (takeFault range.1 tid
          { cause := c, syn := if c = cDIEL then 0 else BitVec.ofNat 64 (16 * (r.1 % 16)), opd0 := BitVec.ofNat 64 a, unit := some 0x50 }
          t.pc)) ∧
      (∀ dst, matTrap r.1 f x va.toNat vb.toNat vc.toNat names = none → range.2 = .ok dst →
        let room := (s.cu t.cu).mq.length < 128 ∧ bufferUsed (s.cu t.cu) t.barrel + names.length ≤ 256 ∧
          ((∀ p ∈ dst, p.space ≠ 1) ∨ wgScratchOpen s t.wg = false)
        (¬room → Waits (r.2 f) s tid) ∧
        (room → ∃ u t' g' o, exec (r.2 f) s = .next u ∧ Advances s u tid t t' r.1 f [] ∧ (u.cu t.cu).mq = (s.cu t.cu).mq ++ [o] ∧
          t'.openOps = t.openOps ++ [o.id] ∧ o.tid = tid ∧ o.wg = t.wg ∧ o.pc = t.pc ∧ o.kind = matKind r.1 ∧ o.handle = h ∧ o.f = f ∧
          o.va = va ∧ o.vb = vb ∧ o.vc = vc ∧ o.dst = dst ∧ o.bufRegs = names.length ∧ u.wg t.wg = some g' ∧
          g'.tileMem = g.tileMem ∧ g'.scratch = g.scratch ∧ (∀ j, j ≠ tid → u.thread j = s.thread j))))

/-- MBATCH gives D the number of the batch that it ends, and the operations open since the last one; it is open in counter M while one
of them, or an earlier batch, has not completed (R167, R214). -/
def Claims.BatchEndsOpenOperations : Prop :=
  ∀ (f : Fields) (s : State) (tid : Nat) (t : Thread), Issues s tid t 0x148 f → t.live f ≠ 0 →
    ∃ u t', exec (.mbatch f) s = .next u ∧
      Advances s u tid t t' 0x148 f [.uni f.d.toNat (BitVec.ofNat 64 (t.batchNo % 256))] ∧
      t'.batchNo = t.batchNo + 1 ∧ t'.openOps = [] ∧ u.cus = s.cus ∧ (∀ j, j ≠ tid → u.thread j = s.thread j) ∧
      ((∀ b ∈ t.batches.head?, b.ops ≠ []) → (t.batches = [] → t.openOps ≠ []) →
        t'.cM = t.cM + 1 ∧ t'.batches = t.batches ++ [{ num := t.batchNo + 1, ops := t.openOps }]) ∧
      (t.batches = [] → t.openOps = [] → t'.cM = t.cM ∧ t'.batches = [])

/-- The operation that a CU's matrix queue serves goes on: MTFREE ends its tile, MZERO clears it, MWRACC loads it from the
scratchpad, MMA and MLOOP replace it by the sums of their steps with their MSTAT flags; a drain writes its next block, here to
scratch, and with no block left it leaves the tile as it is. A complete operation leaves the queue and its group's batches (R213,
R214, R218, R223, R224). -/
def Claims.MatrixOperationCompletes : Prop :=
  ∀ (s : State) (cu : Nat) (o : MatOp) (rest : List MatOp) (g : Wg) (x : Tile) (t : Thread), (s.cu cu).mq = o :: rest →
    (∀ q ∈ rest, q.id ≠ o.id) → (∀ q ∈ o :: rest, q.stepped = false) → s.wg o.wg = some g → opTile g o = some x →
    s.halting g.ctx = false → s.thread o.tid = some t → t.batches = [] → scratchStoreOpen t o.mark = false → o.nan = [] →
    let step := runMma o x g.scratch (x.rows g.tileMem)
    let runs := drainRuns o (x.rows g.tileMem)
    let at' := fun (i : Nat) => (o.va.toNat + i * o.vb.toNat) % 2 ^ 64
    let drains := o.kind = .drain ∨ o.kind = .drainq
    (o.dst = [] → ∃ u t' g', exec (.matrixOperationComplete cu o.id) s = .next u ∧ (u.cu cu).mq = rest ∧ u.thread o.tid = some t' ∧
      t'.openOps = t.openOps.filter (· ≠ o.id) ∧ t'.pc = t.pc ∧ u.wg o.wg = some g' ∧ g'.scratch = g.scratch ∧
      t'.mstat = (if o.kind = .mma then t.mstat ||| BitVec.ofNat 64 step.2 else if drains then t.mstat ||| BitVec.ofNat 64 runs.2
        else t.mstat) &&& 0x7F ∧
      (o.kind = .free → g'.tiles = (g.tiles.filter fun y => y.handle ≠ o.handle) ∧ g'.tileMem = g.tileMem) ∧
      (o.kind = .zero → g'.tileMem = x.store g.tileMem ((x.rows g.tileMem).map fun r => r.map fun _ => 0)) ∧
      (o.kind = .wracc → g'.tileMem = x.store g.tileMem ((List.range (rowsOf x.mc)).map fun i => (List.range (colsOf x.nf)).map fun n =>
        leNat (Memory.bytes g.scratch (at' i + 4 * n) 4))) ∧
      (o.kind = .mma → g'.tileMem = x.store g.tileMem step.1) ∧
      (drains → g'.tileMem = g.tileMem) ∧
      (o.kind ≠ .free → g'.tiles = g.tiles) ∧ u.mem.dram = s.mem.dram ∧ ∀ j, j ≠ o.tid → u.thread j = s.thread j) ∧
    (∀ p ps, drains → o.dst = p :: ps → p.space = 1 → Memory.wf g.scratch = true →
      let block := blockOf runs.1 p.addr
      ∃ u g', exec (.matrixOperationComplete cu o.id) s = .next u ∧ (u.cu cu).mq = { o with dst := ps } :: rest ∧ u.wg o.wg = some g' ∧
        (∀ b, Memory.byte g'.scratch b = if p.addr ≤ b ∧ b < p.addr + 64 ∧ block.1.getLsbD (b - p.addr) = true
          then (block.2[b - p.addr]?).getD 0 else Memory.byte g.scratch b) ∧
        g'.tileMem = g.tileMem ∧ g'.tiles = g.tiles ∧ u.mem.dram = s.mem.dram)

/-- A tile written row by row reads back as its rows, and no byte outside it changes (R206, R207). -/
def Claims.TileStoreThenRows : Prop :=
  ∀ (x : Tile) (m : Memory) (rows : List (List Nat)), Memory.wf m = true → rows.length = rowsOf x.mc →
    (∀ r ∈ rows, r.length = colsOf x.nf ∧ ∀ v ∈ r, v < 2 ^ 32) →
    x.rows (x.store m rows) = rows ∧
    ∀ a, a < 1024 * x.base ∨ 1024 * (x.base + 2 ^ x.mc * (x.nf + 1)) ≤ a → Memory.byte (x.store m rows) a = Memory.byte m a

/-- MSTG: an uncorrectable error in storage that the running operation reads, in the tile store, the operand buffer or the scratchpad, sets
the blocks that the word feeds to NaN and MSTAT.MERR, and freezes the group, imprecise, with the tile's handle in FOPD0, the storage in FSYN
and the first block's row and column in FTILEM and FTILEN. A word of the tile store feeds its own block, one of a fragment of A at least the
blocks of its row, and one of a fragment of B those of its column; an error that was corrected is counted, and that is all (R36, R229). -/
def Claims.TileStoreErrorFaults : Prop :=
  ∀ (s : State) (cu row col : Nat) (site : StorageSite) (o : MatOp) (rest : List MatOp) (g : Wg) (x : Tile) (t : Thread),
    (s.cu cu).mq = o :: rest → (∀ q ∈ o :: rest, q.stepped = false) → s.wg o.wg = some g → opTile g o = some x →
    readsSite o site = true → row < rowsOf x.mc → col < colsOf x.nf →
    let bad := badBlocks o x site row col
    let first := (bad.head?).getD (0, 0)
    (site = .corrected → exec (.mstg cu o.id site row col) s = .next (countError s .sram)) ∧
    (site = .tileStore → bad = [(row / 16, col / 16)]) ∧
    (site = .fragmentA → o.frA.length ≤ Forms.ex o.f 5 0 + 1 → ∀ j, j < colsOf x.nf / 16 → (row / 16, j) ∈ bad) ∧
    (site = .fragmentB → o.frA.length ≤ Forms.ex o.f 5 0 + 1 → ∀ i, i < rowsOf x.mc / 16 → (i, col / 16) ∈ bad) ∧
    (site ≠ .corrected → s.thread o.tid = some t → t.isGroup = true → t.place = .active → t.fz = none → t.stepping = 0 →
      (s.ctx t.ctx).sysent ≠ 0 → g.groups = [o.tid] →
      ∃ u t' z g', exec (.mstg cu o.id site row col) s = .next u ∧ u.thread o.tid = some t' ∧ t'.pc = t.pc ∧
        t'.mstat.getLsbD 6 = true ∧ t'.fz = some z ∧ z.byFault = true ∧ z.imp = true ∧ z.fr.cause = BitVec.ofNat 64 cMSTG ∧
        z.fr.syn = (match site with | .tileStore => 1 | .fragmentA => 2 | .fragmentB => 2 | _ => 3) ∧
        z.fr.opd0 = o.handle ∧ z.fr.fpc = o.pc ∧ z.fr.tilem = BitVec.ofNat 64 (16 * first.1) ∧
        z.fr.tilen = BitVec.ofNat 64 (16 * first.2) ∧ u.wg o.wg = some g' ∧
        g'.tileMem = x.poison g.tileMem bad ∧ u.mem.dram = s.mem.dram)

/-! ### The access engine -/

/-- The forms that enter the operand log. -/
def accessForms : List (Nat × (Fields → Instr)) :=
  [(0x180, .ld), (0x181, .st), (0x182, .ldu), (0x183, .stu), (0x184, .lda), (0x185, .stl), (0x186, .atom), (0x187, .red),
   (0x188, .fence), (0x189, .pref), (0x18A, .lnlk), (0x18B, .lnul), (0x18C, .lnwb), (0x18D, .lndrop), (0x18E, .marm)]

/-- The lanes that an access acts for: LIVE for loads and FENCE, EFF for every other form (R105). -/
def actingLanes (opc : Nat) (t : Thread) (f : Fields) : Mask := if isLoad opc ∨ opc = 0x188 then t.live f else t.eff f

/-- The lanes whose accesses a form makes: each lane that acts, or the lowest of them for the group (R232, R240). -/
def issueLanes (opc : Nat) (t : Thread) (f : Fields) : List Nat :=
  if isOnce opc f then [lowestLane (actingLanes opc t f)] else lanesOf (actingLanes opc t f)

/-- Faults of the lane's access are dropped: those of PREF, and those of a load made for helper lanes alone (R47, R240, R248). -/
def faultsDropped (opc : Nat) (t : Thread) (f : Fields) (l : Nat) : Bool :=
  opc = 0x189 || (isLoad opc && t.isGroup &&
    if isOnce opc f then actingLanes opc t f &&& ~~~t.hlpm = 0 else t.hlpm.getLsbD l)

/-- The checks that an access makes as it issues fail in a lane (R238). -/
def issueFails (opc : Nat) (f : Fields) (s : State) (tid : Nat) (t : Thread) (l : Nat) : Bool :=
  opc ≠ 0x188 && (check12 s t opc f (accAddr opc f s tid t l)).isSome

/-- An access whose lanes pass the checks made at issue enters the log: a new entry at the tail holds its operands and lanes, its
counter rises by one, and the group goes on with every register as it was (R100, R167, R233, R236 to R239); a lane whose faults are
dropped and whose checks fail is done with that (R47, R240, R248). A FENCE does so while no fabric failure is recorded. With no lane
to act it only retires (R105), and with no room for its destination in the group's budget it is TRAP (R53). -/
def Claims.AccessEntersTheLog : Prop :=
  ∀ r ∈ accessForms, ∀ (f : Fields) (s : State) (tid : Nat) (t : Thread), Issues s tid t r.1 f →
    let acts := actingLanes r.1 t f
    let names := accDest r.1 f
    let writes := names.map fun n => Write.vec n (mkLanes fun l => t.vlane n l) acts
    (acts = 0 → RetiresWith (r.2 f) r.1 f s tid t {}) ∧
    (acts ≠ 0 → t.fits writes = false → (r.1 = 0x188 → t.ffail = none) →
      exec (r.2 f) s = .next (takeFault s tid (budgetTrap acts) t.pc)) ∧
    (acts ≠ 0 → t.fits writes = true → (r.1 = 0x188 → t.ffail = none) → (∀ x ∈ t.log, x.id < t.nextEntry) →
      (∀ l ∈ issueLanes r.1 t f, faultsDropped r.1 t f l = true ∨ issueFails r.1 f s tid t l = false) →
      ∃ u t' e, exec (r.2 f) s = .next u ∧ Advances s u tid t t' r.1 f writes ∧ t'.log = t.log ++ [e] ∧ e.id = t.nextEntry ∧
        t'.nextEntry = t.nextEntry + 1 ∧ e.opc = r.1 ∧ e.f = f ∧ e.pc = t.pc ∧ e.effm = acts ∧ e.once = isOnce r.1 f ∧ e.state = 0 ∧ e.flt = 0 ∧
        (∀ l, l < 32 → e.done.getLsbD l =
          (acts.getLsbD l && issueFails r.1 f s tid t (if isOnce r.1 f then lowestLane acts else l))) ∧
        (r.1 ≠ 0x188 → ∀ l, l < 32 → e.addr l = accAddr r.1 f s tid t l) ∧
        (isStore r.1 = true → ∀ l, l < 32 → ∀ k, k < 16 → 4 * k < accBytes r.1 f →
          e.opD.lane k l = (match regOf f.d.toNat with
            | .v n => t.vlane (n + k) l
            | _ => if k = 0 then (uniVal s tid t f.d.toNat).setWidth 32
              else if k = 1 then (uniVal s tid t f.d.toNat).extractLsb' 32 32 else 0)) ∧
        (∀ n, n < 4 → t'.counter n = t.counter n + if counterOf r.1 f = some n then 1 else 0) ∧ u.mem = s.mem ∧
        ∀ j, j ≠ tid → u.thread j = s.thread j)

/-- An access of a group with lanes that fail the checks made at issue takes the fault as it issues: the entry stays in the log with
these lanes in FLT, the group freezes at the next instruction, and FOPD0 is the address of the lowest of them; MISAL for a
misaligned lane, else XLAT beyond global space and PERM beyond the scratchpad; that FSYN has W = 0 for a form without a W is the
model's reading (log 19) (R97, R238, R256, R403). Under MISPOL 01 a misaligned lane kills the context instead, and with it every
workgroup (R99). -/
def Claims.MisalignedAccessFaults : Prop :=
  ∀ r ∈ accessForms, r.1 ≠ 0x188 → ∀ (f : Fields) (s : State) (tid : Nat) (t : Thread), Issues s tid t r.1 f → t.isGroup = true →
    t.place = .active → t.fz = none → t.stepping = 0 → (s.ctx t.ctx).sysent ≠ 0 → (∀ x ∈ t.log, x.id < t.nextEntry) →
    let acts := actingLanes r.1 t f
    let n := accBytes r.1 f
    let addr := fun l => accAddr r.1 f s tid t l
    let checked := (issueLanes r.1 t f).filter fun l => !faultsDropped r.1 t f l
    let off := fun l => decide ((addr l).toNat % min n 16 ≠ 0)
    let far := fun l => (accAs f = 0 && decide (2 ^ 57 ≤ (addr l).toNat)) || (accAs f = 1 && decide (scratchBytes s t < (addr l).toNat + n))
    let flt := laneMask fun l => checked.contains l && (off l || far l)
    let stops := fun (cause syn : Nat) => ∃ u t' e z, exec (r.2 f) s = .next u ∧ u.thread tid = some t' ∧ t'.pc = nextPc t.pc ∧
      t'.log = t.log ++ [e] ∧ e.state = 1 ∧ e.flt = flt ∧ e.cause = cause ∧ t'.fz = some z ∧ z.byFault = true ∧
      z.fr.cause = BitVec.ofNat 64 cause ∧ z.fr.fpc = t.pc ∧ z.fr.lanes = flt.setWidth 64 ∧ z.fr.opd0 = addr (lowestLane flt) ∧
      z.fr.syn = BitVec.ofNat 64 syn ∧ u.mem.dram = s.mem.dram ∧ u.mem.hostMem = s.mem.hostMem
    acts ≠ 0 → t.fits ((accDest r.1 f).map fun n => Write.vec n (mkLanes fun l => t.vlane n l) acts) = true →
    ((∃ l ∈ checked, off l = true) → ((s.launchOf t).map (·.lr.mispol)).getD 0 ≠ 1 → stops cMISAL (accSyn r.1 f (decide (16 < n)))) ∧
    ((∃ l ∈ checked, off l = true) → ((s.launchOf t).map (·.lr.mispol)).getD 0 = 1 → ∃ u, exec (r.2 f) s = .next u ∧
      ∀ w g, s.wg w = some g → g.ctx = t.ctx → ∃ g', u.wg w = some g' ∧ g'.killed = true) ∧
    ((∀ l ∈ checked, off l = false) → (∃ l ∈ checked, far l = true) →
      stops (if accAs f = 0 then cXLAT else cPERM) (accSyn r.1 f false))

/-- FENCE and FABST report a recorded fabric failure first: FABF, precise, with the record in the fault registers;
with W, FABST first waits for the commands that are open (R341, R343). -/
def Claims.FabricFailureIsReported : Prop :=
  ∀ (f : Fields) (s : State) (tid : Nat) (t : Thread) (x : FabFail), t.ffail = some x → t.live f ≠ 0 →
    let reports := Host.Outcome.next (takeFault (s.modThread tid fun u => { u with ffail := none }) tid
      { cause := cFABF, syn := BitVec.ofNat 64 (x.kind + 256 * x.more), opd0 := x.opd0, opd1 := x.opd1, opd2 := x.opd2, opd3 := x.opd3,
        unit := some 0xA0 } t.pc)
    (Issues s tid t 0x188 f → exec (.fence f) s = reports) ∧ (Issues s tid t 0x207 f → Forms.mo f 7 7 = 0 ∨ t.fOpen = [] → exec (.fabst f) s = reports)

/-- ACCESS_COMPLETION of a store of one lane to the scratchpad: the bytes at the lane's address become the entry's data, every other
byte stays, the entry leaves the log and its counter falls (R75, R85, R100, R240). -/
def Claims.ScratchStoreCompletes : Prop :=
  ∀ (s : State) (tid : Nat) (t : Thread) (g : Wg) (e : LogEntry) (l : Nat), s.thread tid = some t → t.log = [e] → e.opc = 0x181 →
    accAs e.f = 1 → e.lanes = [l] → l < 32 → e.effm = BitVec.ofNat 32 (2 ^ l) → hasBe e.opc e.f = false → e.once = false →
    e.state = 0 → e.flt = 0 → e.done = 0 → e.dest = .none → e.bytes ≤ 16 → s.wg t.wg = some g → Memory.wf g.scratch = true →
    check12 s t e.opc e.f (e.addr l) = none →
    scratchHeld s t.wg (e.addr l).toNat e.bytes = false →
    let a := (e.addr l).toNat
    ∃ u t' g', exec (.accessCompletion tid e.id) s = .next u ∧ u.thread tid = some t' ∧ t'.log = [] ∧ t'.cS = t.cS - 1 ∧
      t'.cL = t.cL ∧ t'.pc = t.pc ∧ t'.vmap = t.vmap ∧ t'.sreg = t.sreg ∧ u.wg t.wg = some g' ∧
      (∀ i, i < e.bytes → Memory.byte g'.scratch (a + i) = BitVec.ofNat 8 ((e.opD.lane (i / 4) l).toNat >>> (8 * (i % 4)))) ∧
      (∀ b, b < a ∨ a + e.bytes ≤ b → Memory.byte g'.scratch b = Memory.byte g.scratch b) ∧ u.mem = s.mem

/-- ACCESS_COMPLETION of a load of one lane from the scratchpad into a vector register: the lane takes the bytes at its address as an
unsigned number, other lanes and names stay, no byte changes, and the entry and its count go (R100, R101, R234, R240). -/
def Claims.ScratchLoadCompletes : Prop :=
  ∀ (s : State) (tid : Nat) (t : Thread) (g : Wg) (e : LogEntry) (l n : Nat) (p : PReg), s.thread tid = some t → t.log = [e] →
    e.opc = 0x180 → accAs e.f = 1 → e.lanes = [l] → l < 32 → e.effm = BitVec.ofNat 32 (2 ^ l) → e.once = false → e.state = 0 →
    e.flt = 0 → e.done = 0 → e.res = [] → e.bytes ≤ 4 → Forms.mo e.f 6 6 = 0 → e.dest = .vector [(n, p.id)] →
    nget t.vmap n = some p → t.deadm = 0 → e.wo = false → s.wg t.wg = some g →
    check12 s t e.opc e.f (e.addr l) = none →
    scratchHeld s t.wg (e.addr l).toNat e.bytes = false →
    ∃ u t', exec (.accessCompletion tid e.id) s = .next u ∧ u.thread tid = some t' ∧ t'.log = [] ∧ t'.cL = t.cL - 1 ∧
      t'.cS = t.cS ∧ t'.pc = t.pc ∧
      t'.vlane n l = BitVec.ofNat 32 (leNat (Memory.bytes g.scratch (e.addr l).toNat e.bytes)) ∧
      (∀ m k, k < 32 → m ≠ n ∨ k ≠ l → t'.vlane m k = t.vlane m k) ∧ u.wg t.wg = some g ∧ u.mem = s.mem

/-- ACCESS_FAULT of an entry with one lane whose address does not translate: the entry fails with XLAT and its group freezes, with the
entry's PC in FPC (R238, R256, R403). -/
def Claims.AccessFaultFreezes : Prop :=
  ∀ (s : State) (tid : Nat) (t : Thread) (e : LogEntry) (l : Nat), s.thread tid = some t → t.log = [e] → e.opc = 0x181 →
    accAs e.f = 0 → e.lanes = [l] → l < 32 → e.effm = BitVec.ofNat 32 (2 ^ l) → e.once = false → e.state = 0 → e.flt = 0 →
    e.done = 0 → e.helper = 0 → e.bytes ≤ 16 → check12 s t e.opc e.f (e.addr l) = none →
    (walk s t.ctx (e.addr l).toNat) = none → (s.cu t.cu).rlb = [] → ngetD s.mem.walkers (t.cu / 64) [] = [] → t.isGroup = true → t.place = .active → t.fz = none →
    t.stepping = 0 → (s.ctx t.ctx).sysent ≠ 0 →
    ∃ u t' z, exec (.accessFault tid e.id none) s = .next u ∧ u.thread tid = some t' ∧ t'.pc = t.pc ∧
      t'.log = [{ e with flt := e.effm, state := 1, cause := cXLAT, syn := accSyn e.opc e.f false, rank := 3 }] ∧ t'.fz = some z ∧
      z.byFault = true ∧ z.imp = false ∧ z.fr.cause = BitVec.ofNat 64 cXLAT ∧ z.fr.opd0 = e.addr l ∧ z.fr.fpc = e.pc ∧
      z.fr.lanes = e.effm.setWidth 64 ∧ u.mem.dram = s.mem.dram

/-- MSLP retires with the numbers of the selected monitors that have fired, and disarms these; with none fired, with bit 8 once its time
has passed; with none armed and no time limit, with bit 9; else the group waits (R255). -/
def Claims.MonitorSleepEnds : Prop :=
  ∀ (f : Fields) (s : State) (tid : Nat) (t : Thread), Issues s tid t 0x18F f → t.live f ≠ 0 → t.stepping = 0 →
    let sel := t.mons.filter fun p => (Forms.mo f 9 6).testBit p.1
    let limit := if f.xk then f.x.toNat else ((uniVal s tid t f.a.toNat).setWidth 32).toNat
    let fired := sel.foldl (fun acc p => if p.2.fired then acc + 2 ^ p.1 else acc) 0
    let armed := sel.any fun p => p.2.armed
    let ends := fun (d : Nat) => ∃ u t', exec (.mslp f) s = .next u ∧
      Advances s u tid t t' 0x18F f [.uni f.d.toNat (BitVec.ofNat 64 d)] ∧ u.mem = s.mem ∧ (∀ j, j ≠ tid → u.thread j = s.thread j) ∧
      t'.mons = nmap t.mons fun k m => if m.fired && (Forms.mo f 9 6).testBit k then { m with armed := false, fired := false } else m
    (armed = false → limit = 2 ^ 32 - 1 → ends 512) ∧
    (armed = true ∨ limit ≠ 2 ^ 32 - 1 → fired ≠ 0 → ends fired) ∧
    (fired = 0 → limit = 0 → ends 256) ∧
    (armed = true ∨ limit ≠ 2 ^ 32 - 1 → fired = 0 → limit ≠ 0 → ∃ u t', exec (.mslp f) s = .next u ∧ u.thread tid = some t' ∧ t'.pc = t.pc ∧
      t'.blk = some { stage := mslpStage, val := s.ns, aux := limit } ∧ t'.sreg = t.sreg ∧ t'.mons = t.mons ∧ u.mem = s.mem)

/-- MSLP_TIMEOUT ends the wait of a group that has slept past its time, and the group's MSLP then retires with bit 8 in D, its
operation number folded before; LOCK_BREAK breaks a lock of age 4,096 with a waiter, whose entry stays, not held (R251, R255). -/
def Claims.SleepAndLockTimesPass : Prop :=
  ∀ (s : State) (tid : Nat) (t : Thread), s.thread tid = some t →
    (∀ since time, t.blk = some { stage := mslpStage, val := since, aux := time } → time ≠ 2 ^ 32 - 1 → since + time ≤ s.ns →
      exec (.mslpTimeout tid) s = .next (s.modThread tid fun u => { u with waits := false, stall := 0 }) ∧
      ∀ f, s.env.cur = some tid → ready s tid t 0x18F f = true → t.live f ≠ 0 → f.xk = true → f.x.toNat = time →
        (∀ p ∈ t.mons, p.2.fired = false) →
        ∃ u t', exec (.mslp f) s = .next u ∧ u.thread tid = some t' ∧ t'.pc = nextPc t.pc ∧ t'.sig = t.sig ∧ t'.blk = none ∧
          (∀ n, ngetD t'.sreg n 0 = scalarAfter [.uni f.d.toNat 256] n (ngetD t.sreg n 0)) ∧ u.mem = s.mem) ∧
    (∀ n k, nget t.locks n = some k → k.held = true → k.waiter = true → k.since + 4096 ≤ s.cyc →
      exec (.lockBreak tid n) s =
        .next (s.modThread tid fun u => { u with locks := nmod u.locks n fun k => { k with held := false } }))

/-! ### The copy engine and phase counters -/

/-- CPYQ with a good command enters it at the end of its workgroup's ring with the four scalar registers as they stood at its issue
and the registers CPYNTF and CPYSTB as its barrel reads them, its sequence number in D, and counter C one higher; a command whose
fields are bad is a precise fault at issue, and which of several faults it is is the model's choice (log 49); a full ring makes the
form wait with the words that it has read, and so do accesses of the group to the scratchpad that come before the command's, and
stores whose bytes the command would read, which wait at the form itself by the model's choice (log 27) (R257 to R259, R261 to R263,
R167, R226, R272). -/
def Claims.CopyCommandEntersTheRing : Prop :=
  ∀ (f : Fields) (s : State) (tid : Nat) (t : Thread) (g : Wg), Issues s tid t 0x1C0 f → t.eff f ≠ 0 → s.wg t.wg = some g →
    let ws := t.words fun k => uniVal s tid t (f.a.toNat + k)
    let w := fun (k : Nat) => (ws[k]?).getD 0
    let n := (g.cpySeq + 1) % 2 ^ 32
    let c : CopyCmd :=
      { id := 0, w0 := w 0, w1 := w 1, w2 := w 2, w3 := w 3, ntf := g.copyReg 0x30 s.cyc t.barrel, stb := g.copyReg 0x31 s.cyc t.barrel,
        seq := n, tid := tid, running := false, shape := [], pos := 0, written := 0, wo := false, stage := 0, held := none,
        stepped := t.stepping = 1, buf := [] }
    (∀ cause syn a, t.ops = [] → c.fault g.spBytes = some (cause, syn, a) → exec (.cpyq f) s = .next (takeFault s tid
      { cause := cause, syn := BitVec.ofNat 64 syn, opd0 := BitVec.ofNat 64 a,
        lanes := if cause = cTRAP then (t.live f).setWidth 64 else 0, unit := some 0x90 } t.pc)) ∧
    (t.ops ≠ [] ∨ c.fault g.spBytes = none → accOrder f ≠ 2 →
      32 ≤ g.ring.length ∨ (c.das = 1 ∧ scratchOpen t = true) ∨ c.readsOpen t = true →
      exec (.cpyq f) s = .next (s.modThread tid fun u => { u with waits := true, ops := ws })) ∧
    (t.ops ≠ [] ∨ c.fault g.spBytes = none → ReleaseDone f s t → g.ring.length < 32 → (c.das = 1 → scratchOpen t = false) → c.readsOpen t = false →
      ∃ u t' g' id, exec (.cpyq f) s = .next u ∧ Advances s u tid t t' 0x1C0 f [.uni f.d.toNat (BitVec.ofNat 64 n)] ∧
        u.wg t.wg = some g' ∧ g'.ring = g.ring ++ [{ c with id := id }] ∧ g'.cpySeq = n ∧ g'.cpyDone = g.cpyDone ∧
        g'.scratch = g.scratch ∧ t'.cC = t.cC + 1 ∧ t'.cL = t.cL ∧ t'.cS = t.cS ∧ ∀ j, j ≠ tid → u.thread j = s.thread j)

/-- PHINIT writes a record with its expected value, count and phase zero; PHARR adds its value to the count, and for each expected
value reached the phase rises by one and the count falls by it; D is the phase after it (R280 to R283). Nothing else of the
scratchpad changes. Both wait while an engine has still to write the record, and without a release for the group's own accesses to
the scratchpad (R226); a record that is misaligned or outside the allocation is a precise fault (R285). -/
def Claims.PhaseCountersArrive : Prop :=
  ∀ (f : Fields) (s : State) (tid : Nat) (t : Thread) (g : Wg), t.eff f ≠ 0 → s.wg t.wg = some g →
    let off := (uniVal s tid t f.a.toNat).toNat
    let v := (if f.xk then f.x.setWidth 64 else uniVal s tid t f.b.toNat).toNat
    let r := phRecord s t.wg off
    let cnt := (phCnt r + v) % 2 ^ 64
    let free := phFault s t off = none ∧ ReleaseDone f s t ∧ scratchOpen t = false ∧ scratchHeld s t.wg off 16 = false
    (∀ x, phFault s t off = some x →
      (Issues s tid t 0x1C1 f → exec (.phinit f) s = .next (takeFault s tid x t.pc)) ∧
      (Issues s tid t 0x1C2 f → exec (.pharr f) s = .next (takeFault s tid x t.pc))) ∧
    (phFault s t off = none → accOrder f ≠ 2 → scratchOpen t = true ∨ scratchHeld s t.wg off 16 = true →
      (Issues s tid t 0x1C1 f → Waits (.phinit f) s tid) ∧ (Issues s tid t 0x1C2 f → Waits (.pharr f) s tid)) ∧
    (free → Issues s tid t 0x1C1 f → ∃ u t' g', exec (.phinit f) s = .next u ∧ Advances s u tid t t' 0x1C1 f [] ∧ u.wg t.wg = some g' ∧
      phPhase (phRecord u t.wg off) = 0 ∧ phExp (phRecord u t.wg off) = v % 2 ^ 40 ∧ phCnt (phRecord u t.wg off) = 0 ∧
      ∀ b, b < off ∨ off + 16 ≤ b → Memory.byte g'.scratch b = Memory.byte g.scratch b) ∧
    (free → Issues s tid t 0x1C2 f → ∃ u t' g',
      let q := phRecord u t.wg off
      exec (.pharr f) s = .next u ∧ Advances s u tid t t' 0x1C2 f [.uni f.d.toNat (BitVec.ofNat 64 (phPhase q))] ∧
      u.wg t.wg = some g' ∧ phExp q = phExp r ∧
      (phExp r = 0 → phPhase q = phPhase r ∧ phCnt q = cnt) ∧
      (phExp r ≠ 0 → phPhase q = (phPhase r + cnt / phExp r) % 2 ^ 16 ∧ phCnt q = cnt % phExp r) ∧
      ∀ b, b < off ∨ off + 16 ≤ b → Memory.byte g'.scratch b = Memory.byte g.scratch b)

/-- PHWAIT goes on, with the phase in D, once 1 to 32,767 phases have passed since its operand, and waits before, as for what the
group and the engines have still to do there; PHTEST gives the phase and the count at once and never waits. A record that is
misaligned or outside the allocation is a precise fault (R226, R284, R285). -/
def Claims.PhaseCountersAreAwaited : Prop :=
  ∀ (f : Fields) (s : State) (tid : Nat) (t : Thread), t.live f ≠ 0 →
    let off := (uniVal s tid t f.a.toNat).toNat
    let p := (if f.xk then f.x.setWidth 64 else uniVal s tid t f.b.toNat).toNat % 2 ^ 16
    let r := phRecord s t.wg off
    let past := (phPhase r + 2 ^ 16 - p) % 2 ^ 16
    let open' := scratchOpen t || scratchHeld s t.wg off 16
    (∀ x, phFault s t off = some x →
      (Issues s tid t 0x1C3 f → exec (.phwait f) s = .next (takeFault s tid x t.pc)) ∧
      (Issues s tid t 0x1C4 f → exec (.phtest f) s = .next (takeFault s tid x t.pc))) ∧
    (phFault s t off = none → Issues s tid t 0x1C3 f → open' = false → 1 ≤ past ∧ past ≤ 32767 → ∃ u t', exec (.phwait f) s = .next u ∧
      Advances s u tid t t' 0x1C3 f [.uni f.d.toNat (BitVec.ofNat 64 (phPhase r))] ∧ u.mem = s.mem) ∧
    (phFault s t off = none → Issues s tid t 0x1C3 f → open' = true ∨ past = 0 ∨ 32767 < past → Waits (.phwait f) s tid) ∧
    (phFault s t off = none → Issues s tid t 0x1C4 f → ∃ u t', exec (.phtest f) s = .next u ∧
      Advances s u tid t t' 0x1C4 f
        [.uni f.d.toNat (BitVec.ofNat 64 (phPhase r + min (phCnt r) (2 ^ 48 - 1) * 2 ^ 16))] ∧
      u.mem = s.mem)

/-- COPY_DISPATCH starts the command at the head of a ring; COPY_COMPLETE fills one block of a running fill command's scratch
destination with its pattern, and, when no block is left and it asks for no stamp, takes its completion steps: the arrival on its
phase counter, by 1 or by the bytes written, and without a notify word the end, which frees its place, sets CPYDONE to its number
and lowers its group's counter C (R257, R258, R265, R273, R274). -/
def Claims.CopyCommandsRunAndEnd : Prop :=
  ∀ (s : State) (w : Nat) (g : Wg) (c : CopyCmd) (rest : List CopyCmd) (t : Thread), s.wg w = some g → g.ring = c :: rest →
    (∀ d ∈ rest, d.id ≠ c.id) → s.halting g.ctx = false → s.thread c.tid = some t → c.held = none →
    c.stepped = false →
    (c.running = false → c.stage = 0 → c.kind ≠ 3 →
      exec (.copyDispatch w c.id) s = .next (s.modWg w fun g => { g with ring := { c with running := true } :: rest })) ∧
    (∀ base, c.running = true → c.stage = 0 → c.kind = 4 → c.das = 1 → c.block c.pos = some base → base + 64 ≤ 2 ^ 32 →
      c.dst < 2 ^ 32 → Memory.wf g.scratch = true →
      ∃ u g' c', exec (.copyComplete w c.id) s = .next u ∧ u.wg w = some g' ∧ g'.ring = c' :: rest ∧ c'.pos = c.pos + 1 ∧
        (∀ i, i < 64 → Memory.byte g'.scratch (base + i) =
          if c.dst ≤ base + i ∧ base + i < c.dst + c.len then c.w1.extractLsb' (8 * ((base + i) % 8)) 8
          else Memory.byte g.scratch (base + i)) ∧
        (∀ b, b < base ∨ base + 64 ≤ b → Memory.byte g'.scratch b = Memory.byte g.scratch b) ∧ u.mem.dram = s.mem.dram) ∧
    (c.running = true → c.stage = 0 → c.kind ≠ 3 → c.block c.pos = none → c.ste = false →
      exec (.copyComplete w c.id) s = .next (s.modWg w fun g => { g with ring := { c with stage := 2 } :: rest })) ∧
    (c.running = true → c.stage = 2 → c.phe = true → Memory.wf g.scratch = true → ∃ u g', exec (.copyComplete w c.id) s = .next u ∧
      u.wg w = some g' ∧ g'.ring = { c with stage := 3 } :: rest ∧
      phRecord u w c.phoff = phArrive (phRecord s w c.phoff) (if c.arr1 then 1 else c.written) ∧
      (∀ b, b < c.phoff ∨ c.phoff + 16 ≤ b → Memory.byte g'.scratch b = Memory.byte g.scratch b) ∧ u.mem = s.mem) ∧
    (c.running = true → c.stage = 2 → c.phe = false →
      exec (.copyComplete w c.id) s = .next (s.modWg w fun g => { g with ring := { c with stage := 3 } :: rest })) ∧
    (c.running = true → c.stage = 3 → c.ntf.getLsbD 0 = false → ∃ u g' t', exec (.copyComplete w c.id) s = .next u ∧
      u.wg w = some g' ∧ g'.ring = rest ∧ g'.cpyDone = c.seq ∧ g'.scratch = g.scratch ∧ u.thread c.tid = some t' ∧
      t'.cC = t.cC - 1 ∧ t'.pc = t.pc ∧ u.mem.dram = s.mem.dram)

/-- COPY_ENGINE_FAULT: a running linear copy whose source block does not translate is held, and its group freezes, imprecise, with the
command's number in FOPD0, the address in FOPD1 and the bytes already written in FOPD2 (R276). -/
def Claims.CopyEngineFaultHolds : Prop :=
  ∀ (s : State) (w : Nat) (g : Wg) (c : CopyCmd) (rest : List CopyCmd) (t : Thread), s.wg w = some g → g.ring = c :: rest →
    (∀ d ∈ rest, d.id ≠ c.id) → s.halting g.ctx = false → s.thread c.tid = some t → c.held = none → c.stepped = false → c.running = true →
    c.stage = 0 → c.kind = 0 → c.sas = 0 → c.pos = 0 → c.len ≠ 0 → c.len ≤ 64 → c.dst % 64 = 0 → c.src < 2 ^ 57 → walk s g.ctx c.src = none →
    (s.cu g.cu).rlb = [] → ngetD s.mem.walkers (g.cu / 64) [] = [] → t.isGroup = true → t.place = .active → t.fz = none → t.stepping = 0 → (s.ctx t.ctx).sysent ≠ 0 →
    ∃ u t' z g' c', exec (.copyEngineFault w c.id none) s = .next u ∧ u.thread c.tid = some t' ∧ t'.pc = t.pc ∧ t'.fz = some z ∧
      z.imp = true ∧ z.fr.cause = BitVec.ofNat 64 cXLAT ∧ z.fr.syn = 0x60000 ∧ z.fr.opd0 = BitVec.ofNat 64 c.seq ∧
      z.fr.opd1 = c.w1 ∧ z.fr.opd2 = BitVec.ofNat 64 c.written ∧ u.wg w = some g' ∧ g'.ring = c' :: rest ∧
      c'.held = some { cause := cXLAT, taker := some c.tid } ∧ g'.scratch = g.scratch

/-! ### Mailboxes and fabric commands -/

/-- MBOXREG enters a mailbox of its workgroup at the record's offset in the lowest free place, with the next generation of that
place, and D is its handle; with 16 mailboxes, or one at that offset, or no place free, D is zero; a bad record is a precise fault.
MBOXREL of a mailbox with nothing in flight frees it; with packets in flight it closes and the form waits; one of no mailbox of the
workgroup takes TRAP (R285, R319 to R322). -/
def Claims.MailboxesOpenAndClose : Prop :=
  ∀ (f : Fields) (s : State) (tid : Nat) (t : Thread), t.eff f ≠ 0 →
    let off := (uniVal s tid t f.a.toNat).toNat
    let mine := s.fab.boxes.filter fun p => p.2.used && p.2.ctx = t.ctx && p.2.wg = t.wg
    let h := uniVal s tid t f.a.toNat
    let handle := fun (i gen : Nat) => BitVec.ofNat 64 (s.mdl.number * 2 ^ 52 + gen * 2 ^ 16 + i)
    let used := fun (i : Nat) => (nget s.fab.boxes i).any fun b => b.used
    let put := fun (i : Nat) (b : Mailbox) => { s with fab := { s.fab with boxes := nset s.fab.boxes i b } }
    (∀ x, Issues s tid t 0x205 f → phFault s t off = some x →
      exec (.mboxreg f) s = .next (takeFault s tid { x with unit := some 0xA0 } t.pc)) ∧
    (Issues s tid t 0x205 f → phFault s t off = none → mine.length < 16 → (∀ p ∈ mine, p.2.off ≠ off) → ∀ i, i < 16384 →
      used i = false → (∀ j, j < i → used j = true) →
      let gen := (((nget s.fab.boxes i).map (·.gen)).getD 0) % 65535 + 1
      let b : Mailbox :=
        { used := true, key := (s.ctx t.ctx).key, gen := gen, ctx := t.ctx, wg := t.wg, off := off, die := t.cu / 64, cu := t.cu % 64,
          wgs := ((s.wg t.wg).map (·.place)).getD 0, infl := 0, closing := false }
      RetiresFrom (.mboxreg f) 0x205 f s (put i b) tid t { writes := [.uni f.d.toNat (handle i gen)] }) ∧
    (Issues s tid t 0x205 f → phFault s t off = none → 16 ≤ mine.length ∨ (∃ p ∈ mine, p.2.off = off) ∨ (∀ j, j < 16384 → used j = true) →
      RetiresWith (.mboxreg f) 0x205 f s tid t { writes := [.uni f.d.toNat 0] }) ∧
    (∀ i b, Issues s tid t 0x206 f → mine.find? (fun p => handle p.1 p.2.gen = h) = some (i, b) →
      (b.infl = 0 → RetiresFrom (.mboxrel f) 0x206 f s (put i { b with used := false, closing := false }) tid t {}) ∧
      (b.infl ≠ 0 → exec (.mboxrel f) s =
        .next ((put i { b with closing := true }).modThread tid fun u => { u with waits := true }))) ∧
    (Issues s tid t 0x206 f → mine.find? (fun p => handle p.1 p.2.gen = h) = none →
      exec (.mboxrel f) s = .next (takeFault s tid (trapSyn 0x80000034 (t.live f)) t.pc))

/-- The forms that enter a fabric command, with its kind. -/
def fabricForms : List (Nat × Nat × (Fields → Instr)) :=
  [(0x200, 0, .bxsend), (0x201, 1, .bxget), (0x202, 2, .bxmc), (0x203, 3, .bxred), (0x204, 4, .bxflag)]

/-- A fabric form whose command is good, with room in its CU's issue queue, enters the command with its four operand words as they
stood at its issue, its packets and the replies that it waits for; D is the group's next fabric number, and counter C is one higher.
No packet is injected yet. A command whose fields are bad is a precise fault at issue, and a full issue queue makes the form wait
with the words that it has read, as do the group's own stores whose bytes its packets would carry (R167, R328 to R331). -/
def Claims.FabricCommandEnters : Prop :=
  ∀ r ∈ fabricForms, ∀ (f : Fields) (s : State) (tid : Nat) (t : Thread), Issues s tid t r.1 f → t.eff f ≠ 0 →
    let kind := r.2.1
    let ws := t.words fun k => uniVal s tid t
      (if kind = 4 then (if k = 0 then f.a.toNat else if k = 1 then f.b.toNat else f.c.toNat) else f.a.toNat + k)
    let word := fun (k : Nat) => (ws[k]?).getD 0
    let seq := (t.fseq + 1) % 2 ^ 32
    let c : FabCmd :=
      { id := 0, tid := tid, ctx := t.ctx, cu := t.cu, seq := seq, kind := kind, w0 := word 0, w1 := word 1, w2 := word 2,
        w3 := if kind = 4 then 0 else word 3, xid := 0, total := 0, sent := 0, left := [], fail := 0, failAddr := 0, counted := 0,
        bitmap := 0, held := none, stepped := t.stepping = 1, wo := false, wrote := 0 }
    (∀ cause syn a, t.ops = [] → c.fault s = some (cause, syn, a) → exec (r.2.2 f) s = .next (takeFault s tid
      { cause := cause, syn := BitVec.ofNat 64 syn, opd0 := BitVec.ofNat 64 a,
        lanes := if cause = cTRAP then (t.live f).setWidth 64 else 0, unit := some 0xA0 } t.pc)) ∧
    let open' := decide (kind ≠ 1) && decide (kind ≠ 4) && decide (c.len ≠ 0) && sourceOpen t 0
    (t.ops ≠ [] ∨ c.fault s = none → accOrder f ≠ 2 → 64 ≤ fabQueue s t.cu ∨ open' = true →
      exec (r.2.2 f) s = .next (s.modThread tid fun u => { u with waits := true, ops := ws })) ∧
    (t.ops ≠ [] ∨ c.fault s = none → ReleaseDone f s t → fabQueue s t.cu < 64 → open' = false →
      ∃ u t' id, exec (r.2.2 f) s = .next u ∧ Advances s u tid t t' r.1 f [.uni f.d.toNat (BitVec.ofNat 64 seq)] ∧
        nget u.fab.cmds id = some { c with id := id, xid := id % 2 ^ 24, total := c.packets, left := c.replies } ∧
        t'.fseq = seq ∧ t'.fOpen = t.fOpen ++ [seq] ∧ t'.cC = t.cC + 1 ∧ u.fab.net = s.fab.net ∧ u.fab.up = s.fab.up ∧
        ∀ j, j ≠ tid → u.thread j = s.thread j)

/-- FABST gives the status word: whether a command to a recovering module is open in bit 41, the number of open commands in bits 39:32,
and the number up to which all are complete in bits 31:0; with W it waits while a command is open (R343). -/
def Claims.FabricStatusRead : Prop :=
  ∀ (f : Fields) (s : State) (tid : Nat) (t : Thread), Issues s tid t 0x207 f → t.live f ≠ 0 →
    (Forms.mo f 7 7 = 1 → t.fOpen ≠ [] → Waits (.fabst f) s tid) ∧
    (t.ffail = none → Forms.mo f 7 7 = 0 ∨ t.fOpen = [] → t.fseq < 2 ^ 32 → ∃ v : Word64,
      RetiresWith (.fabst f) 0x207 f s tid t { writes := [.uni f.d.toNat v] } ∧
      v.extractLsb' 32 8 = BitVec.ofNat 8 t.fOpen.length ∧
      v.extractLsb' 0 32 = BitVec.ofNat 32 (t.fOpen.foldl (fun a n => min a (n - 1)) t.fseq) ∧
      ((∀ m n, nget s.fab.peers m ≠ some (.recov n)) → v.getLsbD 41 = false) ∧
      ((∃ p ∈ s.fab.cmds, p.2.tid = tid ∧ p.2.direct = true ∧ ∃ n, nget s.fab.peers p.2.peer = some (.recov n)) →
        v.getLsbD 41 = true) ∧
      v.getLsbD 40 = false ∧ v.extractLsb' 42 22 = 0)

/-! ### Tree barriers, launches, tokens and work lists -/

/-- TBJOIN counts the group in for its next phase, whose number D gets, and waits while the group is two phases ahead; TBWAIT goes
on with the status word once the phase is past, waits while it is not, and TRAPs on a phase that the group has not joined, without
an effect; TBTEST gives the status word at once. A number of a phase is compared with the object's modulo 2^16, by the model's
reading (log 29). The first of them binds an open object to the group's launch; a closed object, or one bound to another launch, is
a TRAP (R353 to R363). -/
def Claims.TreeBarrierForms : Prop :=
  ∀ (f : Fields) (s : State) (tid : Nat) (t : Thread), t.live f ≠ 0 → t.stepping = 0 →
    let key := (s.ctx t.ctx).key
    let b := Forms.ex f 5 0
    let o := (s.part key).obj b
    let bound : TreeObj :=
      if o.launch = none then { o with launch := some t.launch, grid := ((s.launchOf t).map (·.gridid)).getD 0 } else o
    let j := ngetD t.joins b 0
    let p := (uniVal s tid t f.b.toNat).toNat % 2 ^ 16
    let past := (o.phase % 2 ^ 16 + 2 ^ 16 - p) % 2 ^ 16
    let trap := fun (n : Nat) => Host.Outcome.next (takeFault s tid (trapSyn n (t.live f)) t.pc)
    let all := fun (x : Host.Outcome State Fault Refusal) => (Issues s tid t 0x240 f → exec (.tbjoin f) s = x) ∧
      (Issues s tid t 0x241 f → exec (.tbwait f) s = x) ∧ (Issues s tid t 0x242 f → exec (.tbtest f) s = x)
    let binds := fun (u : State) => (u.part key).obj b = bound ∧ ∀ k c, (k, c) ≠ (key, b) → (u.part k).obj c = (s.part k).obj c
    let gives := fun (i : Instr) (opc v : Nat) (joins : NMap Nat) => ∃ u t', exec i s = .next u ∧
      Advances s u tid t t' opc f [.uni f.d.toNat (BitVec.ofNat 64 v)] ∧ t'.joins = joins ∧ binds u
    let stands := fun (i : Instr) (k : Blk) => ∃ u t', exec i s = .next u ∧ u.thread tid = some t' ∧ t'.pc = t.pc ∧ t'.joins = t.joins ∧
      t'.blk = some k ∧ t'.waits = true ∧ binds u
    (o.en = false → all (trap 0x80000040)) ∧
    (∀ l, o.en = true → o.launch = some l → l ≠ t.launch → all (trap 0x80000041)) ∧
    (o.en = true → o.launch = none ∨ o.launch = some t.launch →
      (Issues s tid t 0x240 f → ReleaseDone f s t → j < o.phase + 2 → gives (.tbjoin f) 0x240 j (nset t.joins b (j + 1))) ∧
      (Issues s tid t 0x240 f → ReleaseDone f s t → o.phase + 2 ≤ j →
        stands (.tbjoin f) { stage := tbjoinStage, val := b, aux := 0 }) ∧
      (Issues s tid t 0x241 f → 1 ≤ past → past ≤ 32767 → gives (.tbwait f) 0x241
        (2 ^ 17 + (if o.exc0 ∨ (o.exc1 ∧ 2 ≤ past) then 2 ^ 16 else 0) + o.phase % 2 ^ 16) t.joins) ∧
      (Issues s tid t 0x241 f → past = 0 ∨ 32767 < past → 32767 < (p + 2 ^ 16 - j % 2 ^ 16) % 2 ^ 16 →
        stands (.tbwait f) { stage := 241, val := b, aux := p }) ∧
      (Issues s tid t 0x241 f → past = 0 ∨ 32767 < past → (p + 2 ^ 16 - j % 2 ^ 16) % 2 ^ 16 ≤ 32767 →
        exec (.tbwait f) s = trap 0x80000042) ∧
      (Issues s tid t 0x242 f → gives (.tbtest f) 0x242
        ((if j ≤ o.phase then 2 ^ 17 else 0) + (if o.exc0 then 2 ^ 16 else 0) + o.phase % 2 ^ 16) t.joins))

/-- TBEXC clears a CU's bit in an object's mask when the CU holds no participant, and D is 0; D is 1 when it holds one, 2 when the bit is
clear, 3 for a CU number above 5,375 or a partition out of reach. HALTJ brings every context of a partition that has groups to the
halting state; D is 1 when it was halting already, 2 with no group, 3 out of reach (R362, R364). -/
def Claims.ExcuseAndHalt : Prop :=
  ∀ (f : Fields) (s : State) (tid : Nat) (t : Thread), t.live f ≠ 0 →
    let b := Forms.ex f 5 0
    let n := (uniVal s tid t f.a.toNat).toNat
    let kb := (uniVal s tid t f.b.toNat).toNat % 2 ^ 16
    let o := (s.part kb).obj b
    let mine := fun (k : Nat) => k = (s.ctx t.ctx).key ∨ t.ctx = 0
    let exc := fun (v : Nat) => RetiresWith (.tbexc f) 0x243 f s tid t { writes := [.uni f.d.toNat (BitVec.ofNat 64 v)] }
    let hlt := fun (v : Nat) => RetiresWith (.haltj f) 0x244 f s tid t { writes := [.uni f.d.toNat (BitVec.ofNat 64 v)] }
    let ka := n % 2 ^ 16
    (Issues s tid t 0x243 f →
      (5375 < n ∨ ¬mine kb → exc 3) ∧
      (mine kb → n ≤ 5375 → o.maskBit n = false → exc 2) ∧
      (mine kb → n ≤ 5375 → o.maskBit n = true → holdsParticipant s o n = true → exc 1) ∧
      (mine kb → n ≤ 5375 → o.maskBit n = true → holdsParticipant s o n = false → ∃ u t', exec (.tbexc f) s = .next u ∧
        Advances s u tid t t' 0x243 f [.uni f.d.toNat 0] ∧ ((u.part kb).obj b).maskBit n = false ∧
        (∀ m, m ≠ n → m ≤ 5375 → ((u.part kb).obj b).maskBit m = o.maskBit m) ∧ ∀ j, j ≠ tid → u.thread j = s.thread j)) ∧
    (Issues s tid t 0x244 f →
      (¬mine ka → hlt 3) ∧ (mine ka → partCtxs s ka = [] → hlt 2) ∧
      (mine ka → partCtxs s ka ≠ [] → ∃ u t', exec (.haltj f) s = .next u ∧ (∀ c ∈ partCtxs s ka, u.halting c = true) ∧
        Advances s u tid t t' 0x244 f [.uni f.d.toNat (if (partCtxs s ka).any s.halting then 1 else 0)] ∧
        ∀ j, j ≠ tid → u.thread j = s.thread j))

/-- LAUNCH with an aligned record address puts it at the end of its context's device launch buffer, and D is its number; with the
buffer full it waits; a misaligned address is a TRAP, one beyond the address space XLAT (R389). -/
def Claims.DeviceLaunchIsBuffered : Prop :=
  ∀ (f : Fields) (s : State) (tid : Nat) (t : Thread), Issues s tid t 0x280 f → t.eff f ≠ 0 → t.stepping = 0 →
    let a := uniVal s tid t f.a.toNat
    let k := s.ctx t.ctx
    let n := (k.devCount + 1) % 2 ^ 32
    (a.toNat % 64 ≠ 0 → exec (.launch f) s = .next (takeFault s tid (trapSyn 0x80000050 (t.live f)) t.pc)) ∧
    (a.toNat % 64 = 0 → 2 ^ 57 ≤ a.toNat → exec (.launch f) s = .next (takeFault s tid { cause := cXLAT } t.pc)) ∧
    (a.toNat % 64 = 0 → a.toNat < 2 ^ 57 → ReleaseDone f s t → k.devBuf.length < 256 → ∃ u t', exec (.launch f) s = .next u ∧
      Advances s u tid t t' 0x280 f [.uni f.d.toNat (BitVec.ofNat 64 n)] ∧
      u.ctx t.ctx = { k with devCount := n, devBuf := k.devBuf ++ [(a.toNat, n)] } ∧ (∀ c, c ≠ t.ctx → u.ctx c = s.ctx c) ∧
      ∀ j, j ≠ tid → u.thread j = s.thread j) ∧
    (a.toNat % 64 = 0 → a.toNat < 2 ^ 57 → ReleaseDone f s t → 256 ≤ k.devBuf.length → ∃ u t', exec (.launch f) s = .next u ∧
      u.thread tid = some t' ∧ t'.pc = t.pc ∧ t'.blk = some { stage := 1, val := 0, aux := 0 } ∧ u.ctxs = s.ctxs)

/-- QTOK.SIG counts a token up, modulo 2^32, and D is the new count; QTOK.GET gives the count; QTOK.RESET gives it and clears the token. A
handle with a reserved bit is a TRAP (R379 to R381, R390). -/
def Claims.QueueTokens : Prop :=
  ∀ (f : Fields) (s : State) (tid : Nat) (t : Thread), t.live f ≠ 0 → t.eff f ≠ 0 →
    let h := uniVal s tid t f.a.toNat
    let key := (s.ctx t.ctx).key
    let i := h.toNat % 2 ^ 12
    let cnt := (s.token key i).toNat % 2 ^ 32
    let good : Prop := h.toNat / 2 ^ 12 % 2 ^ 20 = 0
    let trap := Host.Outcome.next (takeFault s tid (trapSyn 0x80000053 (t.live f)) t.pc)
    let gives := fun (x : Instr) (v w : Nat) => ∃ u t', exec x s = .next u ∧
      Advances s u tid t t' 0x281 f [.uni f.d.toNat (BitVec.ofNat 64 v)] ∧ (u.token key i).toNat % 2 ^ 32 = w ∧
      (∀ k l, k ≠ key ∨ l ≠ i → u.token k l = s.token k l) ∧ ∀ j, j ≠ tid → u.thread j = s.thread j
    Issues s tid t 0x281 f →
      (¬good → exec (.qtokSig f) s = trap ∧ exec (.qtokGet f) s = trap ∧ exec (.qtokReset f) s = trap) ∧
      (good → (t.log.any fun e => isStore e.opc || isAtomic e.opc) = false → gives (.qtokSig f) ((cnt + 1) % 2 ^ 32) ((cnt + 1) % 2 ^ 32)) ∧
      (good → (t.log.any fun e => isStore e.opc || isAtomic e.opc) = true → Waits (.qtokSig f) s tid) ∧
      (good → gives (.qtokGet f) cnt cnt) ∧ (good → gives (.qtokReset f) cnt 0)

/-- On a work-list object of its launch, which it binds while the object is free, WLAPP appends an item to a cluster's list, with
status 0, or 1 when the list is full and 2 when the object is done, and TRAPs on a cluster that the launch has not; WLTAKE takes the
first item of its own cluster's list, its predicate true in LIVE, or goes on with none once the object is done, and else waits;
WLSTAT gives the list's length, bit 32, and in bit 33 whether the object is done. An object of another live launch is a TRAP (R391
to R393). -/
def Claims.WorkLists : Prop :=
  ∀ (f : Fields) (s : State) (tid : Nat) (t : Thread) (l : Launch), t.live f ≠ 0 → t.eff f ≠ 0 → t.stepping = 0 →
    let n := Forms.ex f 3 0
    let old := nget (s.ctx t.ctx).objs n
    let o : WorkObj := (old.filter fun o => o.launch = t.launch).getD { launch := t.launch, lists := [], ops := 0, waves := 0, snap := 0, done := false }
    let other := old.any fun o => o.launch ≠ t.launch && (nget s.lch o.launch).isSome
    let k := (uniVal s tid t f.a.toNat).toNat % 2 ^ 32
    let own := ngetD o.lists (s.clidOf t) []
    let item := uniVal s tid t f.b.toNat
    let theirs := ngetD o.lists k []
    let obj := fun (u : State) => nget (u.ctx t.ctx).objs n
    let trap := fun (x : Nat) (s : State) => Host.Outcome.next (takeFault s tid (trapSyn x (t.live f)) t.pc)
    let v := Forms.ex f 7 4
    nget s.lch t.launch = some l →
    (other = true →
      (Issues s tid t 0x282 f → exec (.wlapp f) s = trap 0x80000051 s) ∧ (Issues s tid t 0x283 f → exec (.wltake f) s = trap 0x80000051 s) ∧
      (Issues s tid t 0x284 f → exec (.wlstat f) s = trap 0x80000051 s)) ∧
    (other = false →
      (Issues s tid t 0x282 f → l.clusters ≤ k → ∃ s', exec (.wlapp f) s = trap 0x80000052 s' ∧ obj s' = some o ∧ s'.thr = s.thr ∧ s'.mem = s.mem) ∧
      (Issues s tid t 0x282 f → ReleaseDone f s t → k < l.clusters →
        let status := if o.done then 2 else if 65536 ≤ theirs.length then 1 else 0
        ∃ u t', exec (.wlapp f) s = .next u ∧ Advances s u tid t t' 0x282 f [.uni f.d.toNat (BitVec.ofNat 64 status)] ∧
          obj u = some (if status = 0 then { o with lists := nset o.lists k (theirs ++ [item]), ops := o.ops + 1 } else o)) ∧
      (∀ x rest, Issues s tid t 0x283 f → own = x :: rest → ∃ u t', exec (.wltake f) s = .next u ∧
        Advances s u tid t t' 0x283 f [.uni f.d.toNat x, .prd v 0xFFFFFFFF (t.live f)] ∧
        obj u = some { o with lists := nset o.lists (s.clidOf t) rest, ops := o.ops + 1 }) ∧
      (Issues s tid t 0x283 f → own = [] → o.done = true → ∃ u t', exec (.wltake f) s = .next u ∧
        Advances s u tid t t' 0x283 f [.uni f.d.toNat 0, .prd v 0 (t.live f)] ∧ obj u = some o) ∧
      (Issues s tid t 0x283 f → own = [] → o.done = false → ∃ u t', exec (.wltake f) s = .next u ∧ u.thread tid = some t' ∧
        t'.pc = t.pc ∧ t'.blk = some { stage := 283, val := n, aux := 0 } ∧ t'.waits = true ∧ obj u = some o) ∧
      (Issues s tid t 0x284 f → ∃ u t', exec (.wlstat f) s = .next u ∧ Advances s u tid t t' 0x284 f
        [.uni f.d.toNat (BitVec.ofNat 64 (own.length + 2 ^ 32 + if o.done then 2 ^ 33 else 0))] ∧ obj u = some o))

/-! ### Tadpole forms -/

/-- A capability reaches the frozen group at its place and generation in its context; another raises CAPF with the reason in FSYN and the
capability in FOPD0, a reserved bit before every other reason: that order is the model's reading (log 21) (R404, R405). -/
def Claims.CapabilityChecks : Prop :=
  ∀ (f : Fields) (s : State) (tid : Nat) (t : Thread) (g : Thread) (gid : Nat), t.isGroup = false → t.live f ≠ 0 →
    let cap := uniVal s tid t f.a.toNat
    (∀ n, findCap s t cap = .error n → Issues s tid t 0x2C0 f →
      exec (.fzrd f) s = .next (takeFault s tid { cause := cCAPF, syn := BitVec.ofNat 64 n, opd0 := cap } t.pc)) ∧
    (cap.toNat % 2 ^ 16 ≠ 0 → findCap s t cap = .error 1) ∧
    (findCap s t cap = .ok (gid, g) →
      (gid, g) ∈ s.thr ∧ g.isGroup = true ∧ g.place ≠ .exited ∧ g.fz.isSome = true ∧ g.ctx = cap.toNat / 2 ^ 54 ∧
        (g.ctx = t.ctx ∨ t.ctx = 0) ∧ g.gen = cap.toNat / 2 ^ 16 % 2 ^ 16 ∧ g.barrel = cap.toNat / 2 ^ 38 % 4 ∧
        g.slot = cap.toNat / 2 ^ 33 % 32) ∧
    (Issues s tid t 0x2C9 f → RetiresWith (.capqStat f) 0x2C9 f s tid t { writes := [.uni f.d.toNat
      (match findCap s t cap with | .ok _ => 0 | .error 4 => 1 | .error 3 => 2 | .error _ => 3)] })

/-- FZRD gives an item of the frozen state and FZWR replaces one that may be written; FZPC and FZMASK set the group's resume PC,
which must be a PC, and its EXM within its level's entry mask; FZLANE kills lanes, and D is the dead mask (R406 to R410). -/
def Claims.FrozenStateIsReadAndPatched : Prop :=
  ∀ (f : Fields) (s : State) (tid : Nat) (t : Thread) (g : Thread) (gid : Nat), t.isGroup = false → t.live f ≠ 0 → gid ≠ tid →
    findCap s t (uniVal s tid t f.a.toNat) = .ok (gid, g) → s.thread gid = some g → g.stepping = 0 →
    let v := if f.xk then f.x.setWidth 64 else uniVal s tid t f.b.toNat
    let sel := v.toNat % 2 ^ 16
    let lane := v.toNat / 2 ^ 16 % 32
    let c := uniVal s tid t f.c.toNat
    let valid := selOk (v.toNat % 2 ^ 32) = true
    let reads := fun (x : Word64) =>
      RetiresWith (.fzrd f) 0x2C0 f s tid t { writes := anyWrites f.d.toNat false (t.live f) (x.toNat % 2 ^ 32) x }
    let patches := fun (i : Instr) (opc : Nat) (out : List Write) (holds : Thread → Prop) =>
      ∃ u t' g', exec i s = .next u ∧ Advances s u tid t t' opc f out ∧ u.thread gid = some g' ∧ holds g' ∧ g'.fz = g.fz ∧ g'.log = g.log ∧
        ∀ j, j ≠ tid → j ≠ gid → u.thread j = s.thread j
    let target := uniVal s tid t f.b.toNat
    let mask := v.setWidth 32 &&& g.curC
    (Issues s tid t 0x2C0 f → valid → reads (fzItem s gid g sel lane)) ∧
    (Issues s tid t 0x2C0 f → valid → sel < 320 → reads ((g.vlane sel lane).setWidth 64)) ∧
    (Issues s tid t 0x2C0 f → valid → 320 ≤ sel → sel < 384 → reads (ngetD g.sreg (sel - 320) 0)) ∧
    (Issues s tid t 0x2C0 f → valid → sel = 0x200 → reads g.pc) ∧
    (Issues s tid t 0x2C0 f → ¬valid → exec (.fzrd f) s = .next (takeFault s tid (trapSyn 0x80000060 (t.live f)) t.pc)) ∧
    (Issues s tid t 0x2C1 f → valid → 320 ≤ sel → sel < 384 →
      patches (.fzwr f) 0x2C1 [.uni f.d.toNat 0] fun g' => g'.sreg = nset g.sreg (sel - 320) c ∧
        g'.corrupt = (g.corrupt.filter fun i => i ≠ sel) ∧ g'.vmap = g.vmap ∧ g'.pc = g.pc) ∧
    (Issues s tid t 0x2C1 f → valid → sel < 320 → g.isGroup = true → nget g.vmap sel = none → g.budget ≤ g.vmap.length →
      RetiresWith (.fzwr f) 0x2C1 f s tid t { writes := [.uni f.d.toNat 1] }) ∧
    (Issues s tid t 0x2C1 f → valid → sel < 320 → (nget g.vmap sel).isSome = true →
      patches (.fzwr f) 0x2C1 [.uni f.d.toNat 0] fun g' => g'.sreg = g.sreg ∧
        ∀ m l, l < 32 → g'.vlane m l = if m = sel ∧ l = lane then c.setWidth 32 else g.vlane m l) ∧
    (Issues s tid t 0x2C2 f → slotOk target = true → pcHighOk target = true →
      patches (.fzpc f) 0x2C2 [] fun g' => g'.pc = target ∧ g'.exm = g.exm) ∧
    (Issues s tid t 0x2C2 f → slotOk target = false →
      exec (.fzpc f) s = .next (takeFault s tid { cause := cMISAL, opd0 := target } t.pc)) ∧
    (Issues s tid t 0x2C2 f → slotOk target = true → pcHighOk target = false →
      exec (.fzpc f) s = .next (takeFault s tid { cause := cXLAT, opd0 := target } t.pc)) ∧
    (Issues s tid t 0x2C1 f → ¬valid → exec (.fzwr f) s = .next (takeFault s tid (trapSyn 0x80000060 (t.live f)) t.pc)) ∧
    (Issues s tid t 0x2C1 f → valid → selWritable sel = false →
      exec (.fzwr f) s = .next (takeFault s tid (trapSyn 0x80000061 (t.live f)) t.pc)) ∧
    (Issues s tid t 0x2C3 f →
      patches (.fzmask f) 0x2C3 [.uni f.d.toNat (mask.setWidth 64)] fun g' => g'.exm = mask ∧ g'.pc = g.pc) ∧
    (Issues s tid t 0x2C5 f →
      let dead := g.deadm ||| (v.setWidth 32 &&& g.lmask &&& ~~~g.exited)
      patches (.fzlane f) 0x2C5 [.uni f.d.toNat (dead.setWidth 64)] fun g' => g'.deadm = dead ∧ g'.exm &&& dead &&& ~~~g.deadm = 0 ∧
        g'.pc = g.pc)

/-- FZLOG.RD gives a word of the 512 bits of a log entry, FZLOG.REG a register of one of its operands; FZLOG.PUT keeps a value for a
faulted lane's register, and FZLOG.DONE completes a faulted entry all of whose lanes have ended, so that it leaves the log and its
counter falls. An entry that is not there, or not faulted for the last two, is a TRAP (R237, R411). -/
def Claims.FrozenLogIsReadAndCompleted : Prop :=
  ∀ (f : Fields) (s : State) (tid : Nat) (t : Thread) (g : Thread) (gid : Nat), t.isGroup = false → t.live f ≠ 0 → gid ≠ tid →
    Issues s tid t 0x2C4 f → findCap s t (uniVal s tid t f.a.toNat) = .ok (gid, g) → s.thread gid = some g → g.stepping = 0 →
    let off := (uniVal s tid t f.b.toNat).toNat
    let reg := Forms.ex f 13 10
    let trap := Host.Outcome.next (takeFault s tid (trapSyn 0x80000062 (t.live f)) t.pc)
    let out := fun (i : Instr) (x : Word64) =>
      RetiresWith i 0x2C4 f s tid t { writes := anyWrites f.d.toNat false (t.live f) (x.toNat % 2 ^ 32) x }
    (g.entryAt off = none → exec (.fzlogRd f) s = trap ∧ exec (.fzlogReg f) s = trap ∧ exec (.fzlogPut f) s = trap ∧
      exec (.fzlogDone f) s = trap) ∧
    (∀ e, g.entryAt off = some e →
      out (.fzlogRd f) (BitVec.ofNat 64 (e.image / 2 ^ (64 * Forms.ex f 2 0))) ∧
      (reg < (e.operand (Forms.ex f 9 8)).regs →
        out (.fzlogReg f) (((e.operand (Forms.ex f 9 8)).lane reg (Forms.ex f 7 3)).setWidth 64)) ∧
      ((e.operand (Forms.ex f 9 8)).regs ≤ reg → exec (.fzlogReg f) s = trap) ∧
      (e.state ≠ 1 → exec (.fzlogPut f) s = trap ∧ exec (.fzlogDone f) s = trap) ∧
      (∀ m, e.state = 1 → g.log = [e] → reg < (e.operand (Forms.ex f 9 8)).regs → (∀ c, e.dest ≠ .uniform c) →
        m = 16 * Forms.ex f 7 3 + reg → ∃ u t' g', exec (.fzlogPut f) s = .next u ∧ Advances s u tid t t' 0x2C4 f [] ∧
          u.thread gid = some g' ∧ g'.log = [{ e with put := nset e.put m ((uniVal s tid t f.c.toNat).setWidth 32) }] ∧
          g'.vmap = g.vmap) ∧
      (e.state = 1 → g.log = [e] → e.opc = 0x180 → e.todo = [] → e.dest = .none → ∃ u t' g', exec (.fzlogDone f) s = .next u ∧
        Advances s u tid t t' 0x2C4 f [] ∧ u.thread gid = some g' ∧ g'.log = [] ∧ g'.cL = g.cL - 1 ∧ g'.vmap = g.vmap ∧
        g'.fz = g.fz ∧ g'.pc = g.pc))

/-- FZRES lets a group go on: outside brumation it is no longer frozen, its generation has advanced and it stands at its resume PC;
HRET does the same for the tadpole's own group and ends the tadpole, with HOLD it leaves the group frozen, and with no such group it
only ends the tadpole; a resume PC that is no PC is its fault (R111), of MISAL and XLAT the former by the model's choice (log 62).
FZKILL kills a workgroup, or with CTX a whole context, for which a job capability will do (R397, R405, R413). -/
def Claims.FrozenGroupsGoOnOrEnd : Prop :=
  ∀ (f : Fields) (s : State) (tid : Nat) (t : Thread) (g : Thread) (gid : Nat) (z : Freeze), t.isGroup = false → t.live f ≠ 0 →
    gid ≠ tid → t.quiet = true → s.thread gid = some g → g.isGroup = true → g.fz = some z → z.tied = none → g.log = [] → g.aliveLanes ≠ 0 →
    g.stepping = 0 →
    (∀ p ∈ s.thr, (p.2.fz.bind (·.tied)) ≠ some gid) → s.halting g.ctx = false →
    let resumed := fun (u : State) => ∃ g', u.thread gid = some g' ∧ g'.fz = none ∧ g'.gen = (g.gen + 1) % 65536 ∧ g'.pc = g.pc ∧
      g'.exm = g.exm ∧ g'.vmap = g.vmap ∧ g'.sreg = g.sreg ∧ g'.place = g.place
    let job := uniVal s tid t f.a.toNat
    let cap := findCap s t job
    let kills := fun (c : Nat) => (∀ p ∈ s.thr, p.1 = tid → p.2 = t) → ∃ u, exec (.fzkill f) s = .next u ∧
      (∀ w h, s.wg w = some h → h.ctx = c → ∃ h', u.wg w = some h' ∧ h'.killed = true) ∧
      (t.ctx ≠ c → ∃ t', u.thread tid = some t' ∧ t'.pc = nextPc t.pc)
    (cap = .ok (gid, g) → Issues s tid t 0x2C7 f → ∃ u t', exec (.fzres f) s = .next u ∧ Advances s u tid t t' 0x2C7 f [] ∧ resumed u) ∧
    (cap = .ok (gid, g) → Issues s tid t 0x2C8 f → Forms.mo f 0 0 = 1 → job.getLsbD 32 = false → kills g.ctx) ∧
    (Issues s tid t 0x2C8 f → Forms.mo f 0 0 = 1 → job.getLsbD 32 = true → job.toNat % 2 ^ 16 = 0 →
      job.toNat / 2 ^ 54 = t.ctx ∨ t.ctx = 0 → kills (job.toNat / 2 ^ 54)) ∧
    (∀ w, cap = .ok (gid, g) → Issues s tid t 0x2C8 f → Forms.mo f 0 0 = 0 → s.wg g.wg = some w → w.killed = false →
      tid ∉ w.groups → gid ∈ w.groups → ∃ u t' w' g', exec (.fzkill f) s = .next u ∧ u.thread tid = some t' ∧ t'.pc = nextPc t.pc ∧
        u.wg g.wg = some w' ∧ w'.killed = true ∧ u.thread gid = some g' ∧ g'.place = .exited ∧ g'.fz = none) ∧
    (ownGroup s t = some gid → Issues s tid t 0x2CA f → Forms.mo f 0 0 = 0 → slotOk g.pc = true → pcHighOk g.pc = true →
      ∃ u, exec (.hret f) s = .next u ∧ u.thread tid = none ∧ resumed u) ∧
    (ownGroup s t = some gid → Issues s tid t 0x2CA f → Forms.mo f 0 0 = 0 → slotOk g.pc = false →
      exec (.hret f) s = .next (takeFault s tid { cause := cMISAL, opd0 := g.pc } t.pc)) ∧
    (ownGroup s t = some gid → Issues s tid t 0x2CA f → Forms.mo f 0 0 = 0 → slotOk g.pc = true → pcHighOk g.pc = false →
      exec (.hret f) s = .next (takeFault s tid { cause := cXLAT, opd0 := g.pc } t.pc)) ∧
    (ownGroup s t = some gid → Issues s tid t 0x2CA f → Forms.mo f 0 0 = 1 → ∃ u, exec (.hret f) s = .next u ∧ u.thread tid = none ∧
      u.thread gid = some { g with fz := some { z with hold := true },
                                   place := if g.place = .active && pendingRoom s g.cu g.barrel then .pending else g.place }) ∧
    (ownGroup s t = none → Issues s tid t 0x2CA f → exec (.hret f) s = .next (endTadpole s tid))

/-- FZSTEP first has the group's faulted accesses done again, then lets it issue one instruction, and ends with 0x11 in D and STEP
as the frozen group's cause once that instruction and its access are complete, or with 0xFE after 2^20 clk without it; of two steps
of one group the second waits (R406, R412). -/
def Claims.SingleStep : Prop :=
  ∀ (f : Fields) (s : State) (tid : Nat) (t : Thread) (g : Thread) (gid : Nat) (z : Freeze), t.isGroup = false → gid ≠ tid →
    s.thread gid = some g → g.fz = some z → g.place = .active → g.log = [] → stepOpen s gid = false →
    (t.live f ≠ 0 → t.quiet = true → g.stepping = 0 → Issues s tid t 0x2C6 f → findCap s t (uniVal s tid t f.a.toNat) = .ok (gid, g) →
      ∃ u t' g', exec (.fzstep f) s = .next u ∧ u.thread tid = some t' ∧ t'.pc = t.pc ∧
        t'.blk = some { stage := stepWait, val := gid, aux := 0 } ∧ u.thread gid = some g' ∧ g'.stepping = 4 ∧ g'.pc = g.pc) ∧
    (t.live f ≠ 0 → t.quiet = true → g.stepping ≠ 0 → Issues s tid t 0x2C6 f → findCap s t (uniVal s tid t f.a.toNat) = .ok (gid, g) →
      Waits (.fzstep f) s tid) ∧
    (∀ b, s.env.cur = some tid → s.thread tid = some t → ready s tid t 0x2C6 f = true → t.blk = some b → b.val = gid →
      (b.stage = stepWait → g.stepping = 4 → ∃ u t' g', exec (.fzstep f) s = .next u ∧ u.thread tid = some t' ∧ t'.pc = t.pc ∧
        t'.blk = some { stage := stepRun, val := gid, aux := g.logSeq } ∧ u.thread gid = some g' ∧ g'.stepping = 1) ∧
      (b.stage = stepRun → g.stepping = 1 → g.stepSince + 2 ^ 20 ≤ s.cyc → ∃ u t' g', exec (.fzstep f) s = .next u ∧ u.thread tid = some t' ∧
        t'.pc = nextPc t.pc ∧ (∀ n, ngetD t'.sreg n 0 = scalarAfter [.uni f.d.toNat 0xFE] n (ngetD t.sreg n 0)) ∧
        u.thread gid = some g' ∧ g'.stepping = 0 ∧ g'.pc = g.pc ∧ g'.fz = some z) ∧
      (b.stage = stepRun → g.stepping = 2 → ∃ u t' g', exec (.fzstep f) s = .next u ∧ u.thread tid = some t' ∧ t'.pc = nextPc t.pc ∧
        t'.blk = none ∧ (∀ n, ngetD t'.sreg n 0 = scalarAfter [.uni f.d.toNat 0x11] n (ngetD t.sreg n 0)) ∧
        u.thread gid = some g' ∧ g'.stepping = 0 ∧ g'.pc = g.pc ∧ g'.fz = some { z with fr := { z.fr with cause := 0x11 } }))

/-- CAPQ.ENUM gives the capability of the i-th frozen group in the order of CU handle, barrel and slot, or zero past the last (R414). -/
def Claims.FrozenGroupsAreListed : Prop :=
  ∀ (f : Fields) (s : State) (tid : Nat) (t : Thread), Issues s tid t 0x2C9 f → t.live f ≠ 0 →
    let i := if f.xk then f.x.toNat else (uniVal s tid t f.a.toNat).toNat
    let c := if t.ctx = 0 then t.pselCtx else t.ctx
    let l := frozenGroups s c
    (∀ g, l[i]? = some g → RetiresWith (.capqEnum f) 0x2C9 f s tid t { writes := [.uni f.d.toNat (s.capOf g)] }) ∧
    (l.length ≤ i → RetiresWith (.capqEnum f) 0x2C9 f s tid t { writes := [.uni f.d.toNat 0] }) ∧
    (∀ g, g ∈ l ↔ ∃ k, (k, g) ∈ s.thr ∧ g.isGroup = true ∧ g.ctx = c ∧ g.fz.isSome = true ∧ g.place ≠ .exited) ∧
    l.Pairwise fun a b => capOrder s c a ≤ capOrder s c b

/-! ### Forms of system tadpoles -/

/-- The registers of a context's block that PWR writes, with the bits that they keep. -/
def contextRegisters : List (Nat × Word64 × (Ctx → Word64)) :=
  [(0x08, 0xFFFFFFFFFFFFFFFF, Ctx.dieset0), (0x10, 0xFFFFF, Ctx.dieset1), (0x18, 0x01FFFFFFFFFFF000, Ctx.parkb),
   (0x30, 0x000FFFFFFFFFF001, Ctx.rtbase), (0x38, 0x1FFFF, Ctx.rtcnt)]

/-- PRD gives a module register, and PWR by a tadpole of context 0 sets one within its writable bits; a tadpole of another context reads its
own context's block and the others' as zero, and its PWR of any context's block changes nothing. An address that is no multiple of 8 is
a TRAP (R402, R415 to R418, R443). -/
def Claims.ModuleRegistersByTadpoles : Prop :=
  ∀ r ∈ contextRegisters, ∀ (f : Fields) (s : State) (tid : Nat) (t : Thread) (c : Nat), t.live f ≠ 0 → c < 1024 →
    let a := (uniVal s tid t f.a.toNat).toNat
    let ap := if f.xk then f.x.toNat else a
    let v := uniVal s tid t f.b.toNat
    let trap := Host.Outcome.next (takeFault s tid (trapSyn 0x80000070 (t.live f)) t.pc)
    (Issues s tid t 0x300 f → ap % 8 ≠ 0 → exec (.prd f) s = trap) ∧ (Issues s tid t 0x301 f → a % 8 ≠ 0 → exec (.pwr f) s = trap) ∧
    (Issues s tid t 0x300 f → ap = 0x40000 + 64 * c + r.1 → RetiresWith (.prd f) 0x300 f s tid t
      { writes := [.uni f.d.toNat (if t.ctx = 0 ∨ t.ctx = c then r.2.2 (s.ctx c) else 0)] }) ∧
    (Issues s tid t 0x301 f → a = 0x40000 + 64 * c + r.1 → t.ctx ≠ 0 → RetiresWith (.pwr f) 0x301 f s tid t {}) ∧
    (Issues s tid t 0x301 f → a = 0x40000 + 64 * c + r.1 → t.ctx = 0 → ∃ u t', exec (.pwr f) s = .next u ∧
      Advances s u tid t t' 0x301 f [] ∧ r.2.2 (u.ctx c) = v &&& r.2.1 ∧ (∀ d, d ≠ c → u.ctx d = s.ctx d) ∧
      (∀ q ∈ contextRegisters, q.1 ≠ r.1 → q.2.2 (u.ctx c) = q.2.2 (s.ctx c)) ∧ ∀ j, j ≠ tid → u.thread j = s.thread j)

/-- RLBINV of a range of whole pages, or of everything, drops every translation of the context that meets the range, at the CUs and
at the dies' walkers, and keeps every other, and D is zero, once no request under such a translation holds anything and no drain
runs under one; till then it waits. A range not of whole pages, or beyond the address space, is a TRAP (R447, R448). -/
def Claims.LookasideInvalidation : Prop :=
  ∀ (f : Fields) (s : State) (tid : Nat) (t : Thread), Issues s tid t 0x302 f → t.live f ≠ 0 →
    let all := Forms.mo f 0 0 = 1
    let a := if all then 0 else (uniVal s tid t f.a.toNat).toNat
    let n := if all then 2 ^ 57 else (uniVal s tid t f.b.toNat).toNat
    let c := if t.ctx = 0 then t.pselCtx else t.ctx
    let trap := fun (x : Nat) => exec (.rlbinv f) s = .next (takeFault s tid (trapSyn x (t.live f)) t.pc)
    let drops := fun (u : State) =>
      let hit := fun (ctx first pages : Nat) => ctx = c ∧ first * 4096 < a + n ∧ a < first * 4096 + pages * 4096
      (∀ cu x, x ∈ (u.cu cu).rlb ↔ x ∈ (s.cu cu).rlb ∧ ¬hit x.ctx x.span.1 x.span.2) ∧
        (∀ die p, p ∈ ngetD u.mem.walkers die [] ↔ p ∈ ngetD s.mem.walkers die [] ∧ ¬hit p.1 (reVbase p.2) (reNpg p.2)) ∧
        ∀ j, j ≠ tid → u.thread j = s.thread j
    let ends := fun (holds : State → Prop) => ∃ u t', exec (.rlbinv f) s = .next u ∧ Advances s u tid t t' 0x302 f [.uni f.d.toNat 0] ∧ holds u
    let runs := accessWaits s c a n = true ∨ packetWaits s c a n = true ∨ engineWaits s c a n = true ∨ drainsRun s c a n = true
    (a % 4096 ≠ 0 ∨ n % 4096 ≠ 0 → trap 0x80000072) ∧
    (a % 4096 = 0 → n % 4096 = 0 → 2 ^ 57 < a + n → trap 0x80000073) ∧
    (a % 4096 = 0 → n = 0 → a ≤ 2 ^ 57 → ends fun u => u.cus = s.cus) ∧
    (a % 4096 = 0 → n % 4096 = 0 → a + n ≤ 2 ^ 57 → n ≠ 0 → ¬runs → ends drops) ∧
    (a % 4096 = 0 → n % 4096 = 0 → a + n ≤ 2 ^ 57 → n ≠ 0 → runs → ∃ u t', exec (.rlbinv f) s = .next u ∧ u.cus = s.cus ∧ u.mem = s.mem ∧
      u.thread tid = some t' ∧ t'.pc = t.pc ∧ t'.waits = true ∧ t'.blk = some { stage := 1, val := 0, aux := 0 })

/-- CTXSV of a halted context that is not saved writes its image and takes it off its CUs: BRST.SAVED is set, its workgroups wait
for admission, no CU is its own, and D is the image's length; of another, or with tadpoles of it left, it gives zero, and only then
is an address that is no page's a TRAP. The image's body is an unknown function of the state saved, by the model's choice (log 33).
CTXLD puts a saved context back where there is room: SAVED is cleared and D is 0; D is 3 when it is not saved, 2 when the image is
not its own, 1 without room. An older image brings back only what still stands, by the model's choice (log 33). Both are PRIV
outside context 0 (R416, R431, R432). -/
def Claims.ContextsAreSavedAndRestored : Prop :=
  ∀ (f : Fields) (s : State) (tid : Nat) (t : Thread), t.isGroup = false → t.agent = false → t.live f ≠ 0 →
    let c := (uniVal s tid t f.a.toNat).toNat % 1024
    let va := (uniVal s tid t f.b.toNat).toNat
    let k := s.ctx c
    let drained := bits k.brst 1 0 = 2
    let clean := (flushCus s (ctxCus s c)).1
    let body := imageBody (takeImage (saveCtx clean c) c)
    let fails := ¬drained ∨ k.brst.getLsbD 2 = true ∨ tadpolesOf s c false = true
    let image := imageHeader k.key c body ++ body
    let gives := fun (i : Instr) (opc v : Nat) => RetiresWith i opc f s tid t { writes := [.uni f.d.toNat (BitVec.ofNat 64 v)] }
    let leaves := fun (i : Instr) (v : Nat) (holds : State → Prop) => ∃ u t', exec i s = .next u ∧ u.thread tid = some t' ∧
      t'.pc = nextPc t.pc ∧ (∀ n, ngetD t'.sreg n 0 = scalarAfter [.uni f.d.toNat (BitVec.ofNat 64 v)] n (ngetD t.sreg n 0)) ∧ holds u
    (t.ctx ≠ 0 → (Issues s tid t 0x303 f → exec (.ctxsv f) s = .next (takeFault s tid (wordTrap cPRIV 4 (wordOf 0x303 f)) t.pc)) ∧
      (Issues s tid t 0x304 f → exec (.ctxld f) s = .next (takeFault s tid (wordTrap cPRIV 4 (wordOf 0x304 f)) t.pc))) ∧
    (t.ctx = 0 → Issues s tid t 0x303 f → ¬fails → va % 4096 ≠ 0 →
      exec (.ctxsv f) s = .next (takeFault s tid (trapSyn 0x80000071 (t.live f)) t.pc)) ∧
    (t.ctx = 0 → Issues s tid t 0x303 f → fails → gives (.ctxsv f) 0x303 0) ∧
    (t.ctx = 0 → Issues s tid t 0x303 f → (nkeys s.thr).Nodup → ¬fails → va % 4096 = 0 →
      (flushCus s (ctxCus s c)).2 = true → (writeImage clean t.cu 0 va (blocks64 image)).2 = .ok () →
      leaves (.ctxsv f) image.length fun u => (u.ctx c).brst = k.brst ||| 4 ∧ (∀ n, (u.cu n).ctx ≠ some c) ∧
        ∀ w g, u.wg w = some g → g.ctx = c → g.evicted = true) ∧
    (t.ctx = 0 → Issues s tid t 0x304 f → ¬drained ∨ k.brst.getLsbD 2 = false → gives (.ctxld f) 0x304 3) ∧
    (t.ctx = 0 → Issues s tid t 0x304 f → drained → k.brst.getLsbD 2 = true → (readImage s 0 va c).1 = s →
      (readImage s 0 va c).2.bind (imageOf s c) = none →
      gives (.ctxld f) 0x304 2) ∧
    (∀ b m newest, t.ctx = 0 → Issues s tid t 0x304 f → drained → k.brst.getLsbD 2 = true → (readImage s 0 va c).1 = s →
      (readImage s 0 va c).2 = some b → imageOf s c b = some (m, newest) → (flushCus s (staleCus s)).2 = true →
      let clean := (flushCus s (staleCus s)).1
      let s1 := if newest then clean else putImage clean m
      (∀ s2, loadAll s1 c = some s2 → s2.thread tid = some t →
        leaves (.ctxld f) 0 fun u => (u.ctx c).brst = (s2.ctx c).brst &&& ~~~4) ∧
      (loadAll s1 c = none → leaves (.ctxld f) 1 fun u => u.ctx c = k))

/-- CTXSV, CTXLD and CURET by a tadpole of a context other than 0 raise PRIV with FSYN 4, whatever the guard and LIVE; in code that is no
system tadpole the check of their class comes before, with FSYN 2 (R125, R416). -/
def Claims.ContextZeroPrivilege : Prop :=
  (∀ (f : Fields) (s : State) (tid : Nat) (t : Thread), t.ctx ≠ 0 →
    let priv := fun (i : Instr) (opc : Nat) => Issues s tid t opc f → exec i s = .next (takeFault s tid (wordTrap cPRIV 4 (wordOf opc f)) t.pc)
    priv (.ctxsv f) 0x303 ∧ priv (.ctxld f) 0x304 ∧ priv (.curet f) 0x306) ∧
  ∀ (m : Mode) (f : Fields), ∀ opc ∈ [0x303, 0x304, 0x306], privSyn m opc f = if m = .systemTadpole then none else some 2

/-- A TRAP in a group of a launch of context 0 whose HPC is 0 queues a system tadpole of context 0 (R178, R399, R416). -/
def Claims.SystemCodeTraps : Prop :=
  ∀ (f : Fields) (s : State) (tid : Nat) (t : Thread) (l : Launch), Issues s tid t 0x013 f → t.isGroup = true → t.live f ≠ 0 →
    t.stepping = 0 → t.ctx = 0 → (s.ctx 0).sysent ≠ 0 → s.launchOf t = some l → l.lr.hpc = 0 →
    ∃ u t' q, exec (.trap f) s = .next u ∧ u.thread tid = some t' ∧ t'.fz.isSome = true ∧ q ∈ (u.cu t.cu).spawnq ∧ q.tid = tid ∧
      q.sys = true ∧ q.ctx = 0 ∧ q.fr.cause = BitVec.ofNat 64 cTRAP

/-- RESUMEJ keeps the request for its partition and ends its tadpole; out of reach it only ends the tadpole (R433). CURET of a
usable CU retires it: its workgroups are killed, and D is 0; D is 2 for a number of no CU, 1 for a CU that is not usable, 3 for its
own, found after those two by the model's choice (log 32) (R420). -/
def Claims.ResumeRequestAndCuRetirement : Prop :=
  ∀ (f : Fields) (s : State) (tid : Nat) (t : Thread), t.isGroup = false → t.live f ≠ 0 →
    let a := if f.xk then f.x.toNat else (uniVal s tid t f.a.toNat).toNat
    let own := (s.ctx t.ctx).key
    let k := if Forms.mo f 0 0 = 1 then own else a % 2 ^ 16
    let gives := fun (v : Nat) => RetiresWith (.curet f) 0x306 f s tid t { writes := [.uni f.d.toNat (BitVec.ofNat 64 v)] }
    (Issues s tid t 0x305 f → t.quiet = true → k = own ∨ t.ctx = 0 →
      exec (.resumej f) s = .next (endTadpole (s.modPart k fun p => { p with asked := some s.env.clk, lost := false }) tid)) ∧
    (Issues s tid t 0x305 f → t.quiet = true → k ≠ own → t.ctx ≠ 0 → exec (.resumej f) s = .next (endTadpole s tid)) ∧
    (Issues s tid t 0x306 f → t.ctx ≠ 0 → exec (.curet f) s = .next (takeFault s tid (wordTrap cPRIV 4 (wordOf 0x306 f)) t.pc)) ∧
    (Issues s tid t 0x306 f → t.ctx = 0 →
      (5376 ≤ a → gives 2) ∧ (a < 5376 → (s.cu a).usable = false → gives 1) ∧ (a < 5376 → (s.cu a).usable = true → a = t.cu → gives 3) ∧
      (a < 5376 → (s.cu a).usable = true → a ≠ t.cu → (nkeys s.thr).Nodup → (∀ p ∈ s.wgs, tid ∉ p.2.groups) → ∃ u t', exec (.curet f) s = .next u ∧
        u.thread tid = some t' ∧ t'.pc = nextPc t.pc ∧ (u.cu a).ret = true ∧
        (∀ w g, s.wg w = some g → g.cu = a → g.evicted = false → ∃ g', u.wg w = some g' ∧ g'.killed = true) ∧
        ∀ n, ngetD t'.sreg n 0 = scalarAfter [.uni f.d.toNat 0] n (ngetD t.sreg n 0)))

/-! ### The token protocol -/

/-- A message is in flight to a party that is there to receive it, and nothing makes it wait. -/
def Arrives (s : State) (id : Nat) (m : Msg) : Prop :=
  nget s.mem.net id = some m ∧ id < s.env.nextId ∧ partyLost s m.dst = false ∧
    match m.dst with
    | .home h => h = homeOf m.sector
    | .agent a => heldAt s a m.sector = false

/-- A message like `m` is in flight. -/
def InFlight (u : State) (m : Msg) : Prop := ∃ id, nget u.mem.net id = some m

/-- What a message leaves behind that changes nothing but its own way out of the network. -/
def Drops (s : State) (id : Nat) (i : Instr) : Prop := exec i s = .next { s with mem := { s.mem with net := nerase s.mem.net id } }

/-- The same at an agent, which no longer notes that a message about the sector waits. -/
def DropsAt (s : State) (id a sec : Nat) (i : Instr) : Prop :=
  exec i s = .next { s with mem := { s.mem with net := nerase s.mem.net id, pressed := nerase s.mem.pressed (l2key a sec) } }

/-- Messages at a home. RDT takes one token with the DRAM data, the owner token with it only as the last; WRT takes every token and
marks the sector; the home answers neither during regrowth or its own request. TOK and WB give tokens back, dirty data going to DRAM
first, during regrowth as well; PREQ enters a pending request, or is refused with PNAK while the agent's entry is marked. A message
of another serial number changes nothing. The message leaves the network. The first request for a sector whose metadata an error
left unreadable starts its regrowth before (R309) and is not among these; the number acq that a WRT's answer repeats is the model's
(log 40) (R289 to R298). -/
def Claims.HomeServesMessages : Prop :=
  ∀ (s : State) (id : Nat) (m : Msg) (h : Nat), Arrives s id m → m.dst = .home h → h < 84 → (s.home h).unread.contains m.sector = false →
    let x := s.smeta m.sector
    let at' := m.sector * 64
    let tok : Msg := { Msg.of .tok (.home h) (.agent m.req) m.req m.sector x.ser with
      t64 := x.t64, hint := ngetD (s.home h).hint m.sector [] }
    let data := Memory.bytes s.mem.dram at' 64
    let quiet := regrowing s h m.sector = false ∧ homeAsks s h m.sector = false
    (m.kind = .rdt → quiet → m.ser = x.ser → m.t64 = x.t64 → x.ho = true → ∃ u, exec (.rdt id) s = .next u ∧ nget u.mem.net id = none ∧
      u.smeta m.sector = { x with hn := x.hn - 1, ho := decide (x.hn ≠ 1) } ∧
      InFlight u { tok with cnt := 1, own := decide (x.hn = 1), dat := true, poi := x.poi, data := data } ∧
      u.mem.dram = s.mem.dram ∧ u.thr = s.thr) ∧
    (m.kind = .wrt → quiet → m.ser = x.ser → m.t64 = x.t64 → ∃ u, exec (.wrt id) s = .next u ∧ nget u.mem.net id = none ∧
      u.smeta m.sector = { x with hn := 0, ho := false, md := true } ∧
      InFlight u { tok with cnt := x.hn, own := x.ho, dat := x.ho, poi := x.ho && x.poi, wr := true, acq := m.acq,
                            data := if x.ho then data else [] } ∧
      u.mem.dram = s.mem.dram ∧ u.thr = s.thr) ∧
    (¬quiet → (m.kind = .rdt → Drops s id (.rdt id)) ∧ (m.kind = .wrt → Drops s id (.wrt id))) ∧
    (m.kind = .wb ∨ m.kind = .tok → regrowing s h m.sector = true ∨ activeFor s h m.sector = none → m.ser = x.ser →
      ∃ u, exec (if m.kind = .wb then .wb id else .tok id) s = .next u ∧ nget u.mem.net id = none ∧
        u.smeta m.sector = { x with hn := x.hn + m.cnt, ho := x.ho || m.own, md := x.md && !m.own,
                                    poi := if (m.own && m.dty) = true then m.poi else x.poi } ∧
        (m.own = true → m.dty = true → m.data.length = 64 → Memory.bytes u.mem.dram at' 64 = m.data ∧
          ∀ a, a < at' ∨ at' + 64 ≤ a → Memory.byte u.mem.dram a = Memory.byte s.mem.dram a) ∧
        ((m.own && m.dty) = false → u.mem.dram = s.mem.dram) ∧ u.mem.homes = s.mem.homes ∧ u.thr = s.thr) ∧
    (m.kind = .preq → (∀ e, nget (s.home h).ptab m.req = some e → e.st ≠ .marked) → m.ser = x.ser → m.t64 = x.t64 →
      ∃ u, exec (.preq id) s = .next u ∧ nget u.mem.net id = none ∧
        nget (u.home h).ptab m.req = some { blk := [], rtime := 0, st := .pending, wr := m.wr, ser := m.ser, sector := m.sector } ∧
        u.mem.smeta = s.mem.smeta ∧ u.mem.dram = s.mem.dram ∧ u.thr = s.thr) ∧
    (∀ e, m.kind = .preq → nget (s.home h).ptab m.req = some e → e.st = .marked → m.ser = x.ser →
      ∃ u, exec (.preq id) s = .next u ∧ InFlight u { Msg.of .pnak (.home h) (.agent m.req) m.req m.sector x.ser with t64 := x.t64 } ∧
        u.mem.homes = s.mem.homes ∧ u.mem.smeta = s.mem.smeta ∧ u.thr = s.thr) ∧
    (m.ser ≠ x.ser → ∀ f ∈ [(MsgKind.rdt, Instr.rdt id), (.wrt, .wrt id), (.tok, .tok id), (.wb, .wb id), (.preq, .preq id),
      (.pdone, .pdone id)], m.kind = f.1 → Drops s id f.2) ∧
    (m.ser ≠ homeSer s h m.sector → ∀ f ∈ [(MsgKind.rgack, Instr.rgack id), (.rgdata, .rgdata id)], m.kind = f.1 → Drops s id f.2)

/-- PDONE of an agent whose entry is active. With no other entry at the home the entry is freed, and every agent is sent PDEACT;
with another pending one for the sector, which the entry blocked, the entry stays marked and the other is activated, with PACT to
every agent. That the agents are every compute die and host port that is not lost and every fabric port is the model's choice (log
38) (R298, R299). -/
def Claims.ServedEntryEnds : Prop :=
  ∀ (s : State) (id : Nat) (m : Msg) (h : Nat) (e : PEntry), Arrives s id m → m.kind = .pdone → m.dst = .home h → h < 84 →
    nget (s.home h).ptab m.req = some e → e.st = .active → e.sector = m.sector → m.ser = (s.smeta m.sector).ser →
    let x := s.smeta m.sector
    let told := fun (u : State) (q : Msg) => ∀ a ∈ s.agents, InFlight u { q with dst := .agent a, t64 := x.t64 }
    ((s.home h).ptab = [(m.req, e)] → e.blk = [] →
      ∃ u, exec (.pdone id) s = .next u ∧ (u.home h).ptab = [] ∧ u.mem.smeta = s.mem.smeta ∧ u.mem.dram = s.mem.dram ∧
        told u { Msg.of .pdeact (.home h) (.home h) 999 m.sector x.ser with aseq := (s.home h).aseq }) ∧
    (∀ r q, (s.home h).ptab = [(r, q), (m.req, e)] ∧ r < m.req ∨ (s.home h).ptab = [(m.req, e), (r, q)] ∧ m.req < r → e.blk = [r] → q.st = .pending →
      q.sector = m.sector → homeAsks s h m.sector = false → regrowing s h m.sector = false →
      ∃ u, exec (.pdone id) s = .next u ∧ nget (u.home h).ptab m.req = some { e with st := .marked } ∧
        nget (u.home h).ptab r = some { q with st := .active, rtime := s.ns % 2 ^ 32, blk := [] } ∧
        (u.home h).aseq = ((s.home h).aseq + 1) % 65536 ∧ u.mem.dram = s.mem.dram ∧
        told u { Msg.of .pact (.home h) (.home h) r m.sector x.ser with wr := q.wr, aseq := ((s.home h).aseq + 1) % 65536 })

/-- Messages at a die's L2 with tokens of the sector. RDT takes one token with the data from the owner, the owner token only as its
last; WRT takes all; an L2 whose own transient request is under way, or whose persistent one is active, gives nothing to either. TOK
adds its tokens and data, and the home's answer to the write request under way its leave. PACT for another requester enters its
place and forwards every token to a writer, the owner token with the data to a reader; PDEACT ends the place; an older one of either
changes nothing. RGSTART discards every token, with RGACK to the home and RGDATA where there is dirty data; RGEND brings in the new
serial number, and a persistent request that is not yet active is raised again under it (log 24); the leave of an active one to
write stays over both. A message of another serial number moves no token (R291 to R293, R299, R302). -/
def Obligations.AgentServesMessages : Prop :=
  ∀ (s : State) (id : Nat) (m : Msg) (a : Nat) (l : TokLine), Arrives s id m → m.dst = .agent a → a < 84 →
    nget s.mem.l2 (l2key a m.sector) = some l → l.rg = false → l.n ≠ 0 → (s.thr.all fun p => p.2.mons.isEmpty) = true →
    let idle := nget s.mem.trans (l2key a m.sector) = none
    let toks := fun (d : Party) => ({ Msg.of .tok (.agent a) d m.req m.sector l.ser with t64 := l.t64 } : Msg)
    let all := fun (d : Party) => ({ toks d with
      cnt := l.n, own := l.o, dat := l.o && l.v, dty := l.o && l.d, poi := (l.o && l.v) && l.poi,
      data := if (l.o && l.v) = true then l.data else [] } : Msg)
    let asker : Party := .agent m.req
    let fwd : Party := partyOf m.req m.sector
    let none' := fun (u : State) => u.line a m.sector = TokLine.empty l.ser
    let place : ActPlace := { home := homeOf m.sector, req := m.req, sector := m.sector, wr := m.wr, aseq := m.aseq }
    let stale := fun (p : ActPlace) => placeAt s a m.sector = some p ∧ aseqOlder m.aseq p.aseq = true
    let leave := leaveToWrite s a m.sector
    (m.kind = .rdt → idle → m.ser = l.ser → l.o = true → 2 ≤ l.n → ∃ u, exec (.rdt id) s = .next u ∧ nget u.mem.net id = none ∧
      u.line a m.sector = { l with n := l.n - 1, wok := false } ∧
      InFlight u { toks asker with cnt := 1, dat := true, poi := l.poi, data := l.data } ∧ u.thr = s.thr) ∧
    (m.kind = .rdt → idle → m.ser = l.ser → l.o = true → l.n = 1 → ∃ u, exec (.rdt id) s = .next u ∧ none' u ∧
      InFlight u { toks asker with cnt := 1, own := true, dat := true, dty := l.d, poi := l.poi, data := l.data } ∧ u.thr = s.thr) ∧
    (m.kind = .wrt → idle → m.ser = l.ser → ∃ u, exec (.wrt id) s = .next u ∧ none' u ∧ InFlight u (all asker) ∧ u.thr = s.thr) ∧
    (∀ t, nget s.mem.trans (l2key a m.sector) = some t →
      t.att < 3 ∨ t.att = 3 ∧ (∃ p, placeAt s a m.sector = some p ∧ p.req = a) →
      ∀ f ∈ [(MsgKind.rdt, Instr.rdt id), (.wrt, .wrt id)], m.kind = f.1 →
        ∃ u, exec f.2 s = .next u ∧ u.mem.l2 = s.mem.l2 ∧ u.mem.net = nerase s.mem.net id ∧ u.thr = s.thr) ∧
    (m.kind = .tok → (∀ t, nget s.mem.trans (l2key a m.sector) = some t → t.wr = true ∧ l.n + m.cnt < (if m.t64 then 64 else 8)) →
      m.ser = l.ser → placeAt s a m.sector = none → ∃ u, exec (.tok id) s = .next u ∧ nget u.mem.net id = none ∧
      u.line a m.sector = { l with t64 := m.t64, n := l.n + m.cnt, o := l.o || m.own, d := if m.own then m.dty else l.d, v := l.v || m.dat,
                                   data := if m.dat then m.data else l.data, poi := if m.dat then m.poi else l.poi,
                                   wok := l.wok || (m.wr && (nget s.mem.trans (l2key a m.sector)).any fun t => t.acq = m.acq) } ∧
      u.mem.dram = s.mem.dram ∧ u.thr = s.thr) ∧
    (m.kind = .pact → idle → m.ser = l.ser → (∀ p, ¬stale p) → m.req ≠ a → m.wr = true →
      ∃ u, exec (.pact id) s = .next u ∧ placeAt u a m.sector = some place ∧ none' u ∧ InFlight u (all fwd) ∧ u.thr = s.thr) ∧
    (m.kind = .pact → idle → m.ser = l.ser → (∀ p, ¬stale p) → m.req ≠ a → m.wr = false → l.o = true → 2 ≤ l.n →
      ∃ u, exec (.pact id) s = .next u ∧ placeAt u a m.sector = some place ∧
        u.line a m.sector = { l with n := l.n - 1, o := false, d := false, wok := false } ∧
        InFlight u { toks fwd with cnt := 1, own := true, dat := l.v, dty := l.d, poi := l.v && l.poi, data := if l.v then l.data else [] } ∧
        u.thr = s.thr) ∧
    (m.kind = .pdeact → m.ser = l.ser → (∀ p, ¬stale p) →
      ∃ u, exec (.pdeact id) s = .next u ∧ placeAt u a m.sector = some { place with req := 999, wr := false } ∧
        u.line a m.sector = l ∧ u.thr = s.thr) ∧
    (∀ p, stale p → (m.kind = .pact → idle → DropsAt s id a m.sector (.pact id)) ∧
      (m.kind = .pdeact → DropsAt s id a m.sector (.pdeact id))) ∧
    (m.kind = .rgstart → m.ser = l.ser → ∃ u, exec (.rgstart id) s = .next u ∧
      u.line a m.sector = { TokLine.empty m.ser with rg := true, wok := leave } ∧
      InFlight u { Msg.of .rgack (.agent a) (.home (homeOf m.sector)) a m.sector m.ser with dty := l.o && l.d, t64 := m.t64 } ∧
      (l.o = true → l.d = true → InFlight u { Msg.of .rgdata (.agent a) (.home (homeOf m.sector)) a m.sector m.ser with
        dat := true, data := l.data, poi := l.poi, t64 := m.t64 }) ∧ u.thr = s.thr) ∧
    (m.kind = .rgend → m.ser ≠ l.ser → ∃ u, exec (.rgend id) s = .next u ∧ nget u.mem.net id = none ∧
      u.line a m.sector = { TokLine.empty m.ser with wok := leave } ∧
      (∀ t, nget s.mem.trans (l2key a m.sector) = some t → t.att = 3 → placeAt s a m.sector = none →
        InFlight u { Msg.of .preq (.agent a) (.home (homeOf m.sector)) a m.sector m.ser with t64 := t.t64, wr := t.wr }) ∧
      u.thr = s.thr) ∧
    (m.ser ≠ l.ser → idle → ∀ f ∈ [(MsgKind.rdt, Instr.rdt id), (.wrt, .wrt id), (.pact, .pact id), (.pdeact, .pdeact id),
      (.rgstart, .rgstart id)], m.kind = f.1 → ∃ u, exec f.2 s = .next u ∧ u.mem.l2 = s.mem.l2 ∧ u.mem.net = nerase s.mem.net id ∧
        u.mem.places = s.mem.places ∧ u.thr = s.thr)

/-- TRANSIENT_RETRY_EXPIRY sends the second attempt to the home, every other die and, in a coherent system range, every other fabric
port; from an attempt that is over, or after 2 µs, it raises the persistent request, or lets it wait while the agent has one.
PERSISTENT_ARBITRATION activates the one pending entry, with PACT to every agent, and gives a writer the home's own tokens.
PNAK_RETRY delivers PNAK, and raises the refused request again when its time has come. Two clauses are the model's choice: the
agents are those that log 38 names, and a request carries the number acq of log 40 (R292, R297, R298). -/
def Obligations.RequestsAreRetried : Prop :=
  (∀ (s : State) (a sec : Nat) (t : Transient), nget s.mem.trans (l2key a sec) = some t → t.att = 1 →
    t.deadline ≤ s.env.clk → s.env.clk < t.since + nsToClk 2000 →
    let wide := s.isCoherent sec
    let again : Msg := { Msg.of (if t.wr then .wrt else .rdt) (.agent a) (.home (homeOf sec)) a sec (s.line a sec).ser with
      t64 := t.t64, att := 2, wr := t.wr, acq := t.acq }
    ∃ u, exec (.transientRetryExpiry a sec) s = .next u ∧
      nget u.mem.trans (l2key a sec) = some { t with att := 2, deadline := s.env.clk + nsToClk (if wide then 6000 else 1200) } ∧
      InFlight u again ∧
      (∀ b ∈ s.agents, b ≠ a → b < 84 ∨ (wide = true ∧ isRemote sec = false ∧ 88 ≤ b) → InFlight u { again with dst := .agent b }) ∧
      u.mem.l2 = s.mem.l2 ∧ u.thr = s.thr) ∧
  (∀ (s : State) (a sec : Nat) (t : Transient), nget s.mem.trans (l2key a sec) = some t → t.att < 3 →
    (t.att = 2 ∧ t.deadline ≤ s.env.clk) ∨ t.since + nsToClk 2000 ≤ s.env.clk →
    let busy := s.mem.trans.any fun p => p.1 / 2 ^ 80 = a && p.2.att = 3
    ∃ u, exec (.transientRetryExpiry a sec) s = .next u ∧
      nget u.mem.trans (l2key a sec) = some { t with att := if busy then 4 else 3 } ∧
      (busy = false → InFlight u { Msg.of .preq (.agent a) (.home (homeOf sec)) a sec (s.line a sec).ser with t64 := t.t64, wr := t.wr }) ∧
      u.mem.l2 = s.mem.l2 ∧ u.thr = s.thr) ∧
  (∀ (s : State) (h r : Nat) (e : PEntry), (s.home h).ptab = [(r, e)] → e.st = .pending → homeAsks s h e.sector = false →
    regrowing s h e.sector = false → h = homeOf e.sector →
    let x := s.smeta e.sector
    ∃ u, exec (.persistentArbitration h) s = .next u ∧
      (u.home h).ptab = [(r, { e with st := .active, rtime := s.ns % 2 ^ 32, blk := [] })] ∧
      (u.home h).aseq = ((s.home h).aseq + 1) % 65536 ∧
      (∀ a ∈ s.agents, InFlight u { Msg.of .pact (.home h) (.agent a) r e.sector x.ser with
        t64 := x.t64, wr := e.wr, aseq := ((s.home h).aseq + 1) % 65536 }) ∧
      (e.wr = true → x.hn ≠ 0 → u.smeta e.sector = { x with hn := 0, ho := false, md := true } ∧
        InFlight u { Msg.of .tok (.home h) (.agent r) r e.sector x.ser with
          cnt := x.hn, own := x.ho, dat := x.ho, poi := x.ho && x.poi, t64 := x.t64, hint := ngetD (s.home h).hint e.sector [],
          data := if x.ho then Memory.bytes s.mem.dram (e.sector * 64) 64 else [] }) ∧
      u.mem.dram = s.mem.dram ∧ u.thr = s.thr) ∧
  (∀ (s : State) (a sec due : Nat) (t : Transient), nget s.mem.pnak a = some due → due ≤ s.env.clk → sec < 2 ^ 80 →
    s.mem.trans = [(l2key a sec, t)] → t.att = 4 → (∀ p ∈ s.mem.net, p.2.kind = .pnak → p.2.dst ≠ .agent a) →
    ∃ u, exec (.pnakRetry a) s = .next u ∧ nget u.mem.pnak a = none ∧ nget u.mem.trans (l2key a sec) = some { t with att := 3 } ∧
      InFlight u { Msg.of .preq (.agent a) (.home (homeOf sec)) a sec (s.line a sec).ser with t64 := t.t64, wr := t.wr } ∧ u.thr = s.thr) ∧
  (∀ (s : State) (a id : Nat) (m : Msg) (t : Transient), Arrives s id m → s.mem.net = [(id, m)] → m.kind = .pnak → m.dst = .agent a →
    m.ser = (s.lineFor a m).ser → nget s.mem.trans (l2key a m.sector) = some t → t.att = 3 →
    ∃ u, exec (.pnakRetry a) s = .next u ∧ nget u.mem.net id = none ∧ nget u.mem.pnak a = some (s.env.clk + nsToClk 1000) ∧
      nget u.mem.trans (l2key a m.sector) = some { t with att := 4 } ∧ u.thr = s.thr)

/-- HOME_REQUEST performs an atomic queued for a sector of which the home holds every token: the DRAM word becomes the operation's
new value, or stays where a compare fails, and the access's lane, or the module that sent it, gets the old one. Of a sector whose
tokens are away it raises the home's request, activates it with PACT to every agent, and, with every token there, performs the
atomic and ends the request with PDEACT. Which agents a broadcast reaches is the model's choice (log 38) (R243, R244, R457). -/
def Obligations.HomePerformsAtomics : Prop :=
  ∀ (s : State) (h : Nat) (a : HomeAtom), (s.home h).atoms = [a] → (s.home h).ptab = [] → (s.home h).regrow = [] →
    let x := s.smeta a.sector
    let n := if a.ty = 4 ∨ a.ty = 5 then 8 else 4
    let old := leNat (Memory.bytes s.mem.dram a.addr n)
    let wrote := fun (u : State) =>
      (∀ new, atomWrite a.op a.ty old a.b.toNat a.c.toNat = some new → Memory.bytes u.mem.dram a.addr n = leBytes n new ∧
        ∀ b, b < a.addr ∨ a.addr + n ≤ b → Memory.byte u.mem.dram b = Memory.byte s.mem.dram b) ∧
      (atomWrite a.op a.ty old a.b.toNat a.c.toNat = none → u.mem.dram = s.mem.dram)
    let ready := (s.home h).hreq = none ∨ ∃ q, (s.home h).hreq = some q ∧ q.sector = a.sector ∧ q.active = true
    let told := fun (u : State) (m : Msg) => ∀ b ∈ s.agents, InFlight u { m with dst := .agent b, t64 := x.t64 }
    let ended := fun (u : State) => (u.home h).atoms = [] ∧ (u.home h).hreq = none ∧
      ((s.home h).hreq ≠ none → told u { Msg.of .pdeact (.home h) (.home h) 999 a.sector x.ser with aseq := (s.home h).aseq })
    (∀ t e, a.pkt = none → ready → x.full = true → x.poi = false → s.thread a.tid = some t → t.log = [e] → e.id = a.eid →
      e.once = false → t.mons = [] →
      ∃ u t' e', exec (.homeRequest h) s = .next u ∧ ended u ∧ wrote u ∧ u.thread a.tid = some t' ∧
        t'.log = [e'] ∧ e'.done = e.done ||| BitVec.ofNat 32 (2 ^ a.lane) ∧
        nget e'.res a.lane = some (BitVec.ofNat 512 old) ∧ t'.pc = t.pc) ∧
    (∀ p, a.pkt = some p → ready → x.full = true → x.poi = false →
      ∃ u, exec (.homeRequest h) s = .next u ∧ ended u ∧ wrote u ∧
        ∃ r ∈ u.fab.out, r.pkind = 8 ∧ r.status = 0 ∧ r.payload = leBytes n old ∧ r.dmod = p.smod ∧ r.xid = p.xid ∧ r.pseq = p.pseq) ∧
    ((s.home h).hreq = none → x.full = false → ∃ u, exec (.homeRequest h) s = .next u ∧
      (u.home h).hreq = some { sector := a.sector, active := false, since := s.env.clk, aseq := 0 } ∧ (u.home h).atoms = [a] ∧
      u.mem.dram = s.mem.dram ∧ u.thr = s.thr) ∧
    (∀ q, (s.home h).hreq = some q → q.sector = a.sector → q.active = false →
      ∃ u, exec (.homeRequest h) s = .next u ∧
        (u.home h).hreq = some { q with active := true, since := s.env.clk, aseq := ((s.home h).aseq + 1) % 65536 } ∧
        told u { Msg.of .pact (.home h) (.home h) 256 a.sector x.ser with wr := true, aseq := ((s.home h).aseq + 1) % 65536 } ∧
        u.mem.dram = s.mem.dram)

/-- REGROWTH_TRIGGER of a sector whose active request is overdue starts regrowth: the home's tokens are withdrawn and RGSTART goes
to every agent; REGROWTH_DEFERRAL_EXPIRY starts one that was deferred, and a trigger that R303 does not allow yet defers one. The
last RGACK ends it: the home holds every token under the next serial number, with the data that RGDATA brought in DRAM; an RGDATA
that does not come in 1 ms is lost, and the sector poisoned; an acknowledgement from behind a fabric port counts as given after 2 s.
A request for a sector whose metadata an error left unreadable starts its regrowth, under the serial number that the agents know.
Which agents a broadcast reaches is the model's choice (log 38) (R302, R303, R309). -/
def Obligations.RegrowthStartsAndEnds : Prop :=
  ∀ (s : State) (h sec : Nat), h = homeOf sec → h < 84 →
    let x := s.smeta sec
    let ser := if (s.home h).unread.contains sec then (x.ser + 15) % 16 else x.ser
    let told := fun (u : State) (m : Msg) => ∀ a ∈ s.agents, InFlight u { m with dst := .agent a, t64 := x.t64 }
    let starts := fun (u : State) => u.smeta sec = { x with hn := 0, ho := false } ∧
      (u.home h).regrow = [{ sector := sec, ser := ser, hadHo := x.ho, waitAck := s.agents, waitData := [], lostData := false,
                             data := none, since := s.env.clk }] ∧
      (u.home h).unread.contains sec = false ∧ told u (Msg.of .rgstart (.home h) (.home h) 999 sec ser) ∧ u.mem.dram = s.mem.dram ∧ u.thr = s.thr
    let ends := fun (u : State) => (u.home h).regrow = [] ∧ (u.smeta sec).ser = (x.ser + 1) % 16 ∧ (u.smeta sec).hn = x.budget ∧
      (u.smeta sec).ho = true ∧ told u (Msg.of .rgend (.home h) (.home h) 999 sec ((x.ser + 1) % 16))
    ((s.home h).regrow = [] → mayRegrow s h sec = true → (s.home h).deferred = [] → regrowDue s h sec = true →
      ∃ u, exec (.regrowthTrigger h sec) s = .next u ∧ starts u) ∧
    ((s.home h).regrow = [] → mayRegrow s h sec = false → (s.home h).deferred = [] → regrowDue s h sec = true →
      ∃ u, exec (.regrowthTrigger h sec) s = .next u ∧ (u.home h).deferred = [sec] ∧ (u.home h).regrow = [] ∧
        u.mem.smeta = s.mem.smeta ∧ u.mem.dram = s.mem.dram ∧ u.thr = s.thr) ∧
    ((s.home h).regrow = [] → mayRegrow s h sec = true → (s.home h).deferred = [sec] →
      ∃ u, exec (.regrowthDeferralExpiry h sec) s = .next u ∧ starts u ∧ (u.home h).deferred = []) ∧
    (∀ id m, Arrives s id m → m.dst = .home h → m.sector = sec → (s.home h).unread.contains sec = true →
      (s.home h).regrow = [] → mayRegrow s h sec = true →
      ∀ f ∈ [(MsgKind.rdt, Instr.rdt id), (.wrt, .wrt id)], m.kind = f.1 → ∃ u, exec f.2 s = .next u ∧ starts u) ∧
    (∀ id m r, Arrives s id m → m.kind = .rgack → m.dst = .home h → m.sector = sec → m.ser = r.ser → m.dty = false →
      (s.home h).regrow = [r] → r.sector = sec → r.waitAck = [m.req] → r.waitData = [] → activeFor s h sec = none →
      ∃ u, exec (.rgack id) s = .next u ∧ ends u ∧
        (∀ d p, r.data = some (d, p) → d.length = 64 → Memory.bytes u.mem.dram (sec * 64) 64 = d ∧ (u.smeta sec).poi = p) ∧
        (r.data = none → r.lostData = false → r.hadHo = true → u.mem.dram = s.mem.dram ∧ (u.smeta sec).poi = x.poi)) ∧
    (∀ id m r, Arrives s id m → m.kind = .rgack → m.dst = .home h → m.sector = sec → m.ser = r.ser → m.dty = true →
      (s.home h).regrow = [r] → r.sector = sec → r.data = none →
      ∃ u, exec (.rgack id) s = .next u ∧ (u.home h).regrow = [{ r with waitAck := r.waitAck.filter (· ≠ m.req),
                                                                        waitData := nset r.waitData m.req s.env.clk }] ∧
        u.mem.smeta = s.mem.smeta ∧ u.mem.dram = s.mem.dram) ∧
    (∀ id m r, Arrives s id m → m.kind = .rgdata → m.dst = .home h → m.sector = sec → m.ser = r.ser →
      (s.home h).regrow = [r] → r.sector = sec → r.waitAck ≠ [] →
      ∃ u, exec (.rgdata id) s = .next u ∧
        (u.home h).regrow = [{ r with data := some (m.data, m.poi), waitData := nerase r.waitData m.req }] ∧
        u.mem.smeta = s.mem.smeta ∧ u.mem.dram = s.mem.dram) ∧
    (∀ a r at', (s.home h).regrow = [r] → r.sector = sec → r.waitAck = [] → r.waitData = [(a, at')] →
      at' + nsToClk 1000000 ≤ s.env.clk → r.data = none → activeFor s h sec = none →
      ∃ u, exec (.regrowthWaitTimeout h sec a) s = .next u ∧ ends u ∧ (u.smeta sec).poi = true ∧ u.mem.dram = s.mem.dram) ∧
    (∀ a r, (s.home h).regrow = [r] → r.sector = sec → r.waitAck = [a] → 88 ≤ a → r.waitData = [] →
      r.since + nsToClk 2000000000 ≤ s.env.clk → activeFor s h sec = none →
      ∃ u, exec (.regrowthWaitTimeout h sec a) s = .next u ∧ ends u)

/-- SCRUB_ACTIVATION counts a visit; a single-symbol error is corrected and counted, a double one poisons the sector, and with unreadable
metadata the home holds every token under the next serial number, until the sector is regrown (R309). -/
def Claims.ScrubbingRepairsOrPoisons : Prop :=
  ∀ (s : State) (sec : Nat),
    let h := homeOf sec
    let x := s.smeta sec
    ∀ e, ∃ u, exec (.scrubActivation h sec e) s = .next u ∧ (u.home h).scrub = (s.home h).scrub + 1 ∧
      (u.home h).corrected = (s.home h).corrected + (if e = .single then 1 else 0) ∧
      ngetD u.mdl.corrected (placeCode .dram) 0 = ngetD s.mdl.corrected (placeCode .dram) 0 + (if e = .single then 1 else 0) ∧
      u.smeta sec = (match e with
        | .double => { x with poi := true }
        | .doubleMeta => { x with poi := true, hn := x.budget, ho := true, ser := (x.ser + 1) % 16 }
        | _ => x) ∧
      (∀ v, v ≠ sec → u.smeta v = s.smeta v) ∧ (e = .doubleMeta → (u.home h).unread.contains sec = true) ∧ u.mem.dram = s.mem.dram ∧ u.thr = s.thr

/-- FWCTL_WRITE enables a window of a good form, or gives an enabled one another form, and disables it; a disabled or changed window's read
copies go. A refused one sets EERR. WINDOW_SECTOR_READ brings the expansion of a sector to the L2 that asked for it (R305 to R308). -/
def Claims.FormatWindows : Prop :=
  ∀ (s : State) (n : Nat) (v : Word64),
    let w := s.win n
    let fmt := bits v 7 4
    let dropped := fun (u : State) => ∀ k x, (k, x) ∈ u.mem.copies ↔ (k, x) ∈ s.mem.copies ∧ w.covers (k % 2 ^ 80) = false
    (v.getLsbD 0 = true → fwRefused s n fmt = false →
      ∃ u, exec (.fwctlWrite n v) s = .next u ∧ u.win n = { w with ctl := BitVec.ofNat 64 (16 * fmt + 1) } ∧
        (u.win n).enabled = true ∧ (w.enabled = false ∨ bits w.ctl 7 4 = fmt → u.mem.copies = s.mem.copies) ∧
        (w.enabled = true → bits w.ctl 7 4 ≠ fmt → dropped u) ∧ ∀ k, k ≠ n → u.win k = s.win k) ∧
    (v.getLsbD 0 = true → fwRefused s n fmt = true →
      ∃ u, exec (.fwctlWrite n v) s = .next u ∧ u.win n = { w with ctl := w.ctl ||| 0x100 } ∧ ∀ k, k ≠ n → u.win k = s.win k) ∧
    (v.getLsbD 0 = false → w.enabled = true →
      ∃ u, exec (.fwctlWrite n v) s = .next u ∧ (u.win n).enabled = false ∧
        dropped u ∧ u.mem.dram = s.mem.dram) ∧
    (∀ a sec, s.mem.winReq.contains (l2key a sec) = true → s.winOf sec = some n → dieThreads s a = [] →
      ∃ u, exec (.windowSectorRead a sec) s = .next u ∧ nget u.mem.copies (l2key a sec) = some (expandSector s w sec) ∧
        u.mem.winReq.contains (l2key a sec) = false ∧ u.mem.dram = s.mem.dram ∧ u.thr = s.thr)

/-! ### The fabric's receiving side -/

/-- The module of a number is not in recovery. -/
def NotInRecovery (s : State) (md : Nat) : Prop := ∀ since, nget s.fab.peers md ≠ some (.recov since)

/-- A packet for this module, from another one that is not in recovery, less than 1 ms old, that has not come before, with the right PCRC
(R312, R314); no tile is lost. -/
def NewPacket (s : State) (p : Packet) : Prop :=
  p.dmod = s.mdl.number ∧ p.smod ≠ s.mdl.number ∧ nget s.fab.seen (seenKey p) = none ∧ nget s.fab.rxq (pktKey p) = none ∧
    p.pcrc = packetCrc p ∧ expired s p = false ∧ NotInRecovery s p.smod ∧ s.mdl.lostTiles = []

/-- A packet has been performed: its reply, of a kind, with a status and data, has left for the module that sent it. -/
def Answered (s u : State) (p : Packet) (kind status : Nat) (data : List Byte) : Prop :=
  (∃ r, u.fab.out = s.fab.out ++ [r] ∧ r.pkind = kind ∧ r.status = status ∧ r.payload = data ∧ r.dmod = p.smod ∧
    r.smod = s.mdl.number ∧ r.xid = p.xid ∧ r.pseq = p.pseq) ∧
  p ∉ u.fab.net ∧ u.thr = s.thr ∧ u.wgs = s.wgs ∧ u.mem.dram = s.mem.dram

/-- Host memory holds these bytes from an address on where `en` enables them, and is otherwise as it was. -/
def HostBytes (s u : State) (a : Nat) (en : Nat → Bool) (d : List Byte) : Prop :=
  ∀ b, Memory.byte u.mem.hostMem b =
    if a ≤ b ∧ b < a + d.length ∧ en (b - a) = true then (d[b - a]?).getD 0 else Memory.byte s.mem.hostMem b

/-- A data packet without a mailbox that is next in its transfer writes its payload and is acknowledged; a get request returns the
bytes of its range, and fails with SRCR where they do not translate, or with DXLAT where no context has its key; a system load,
store or atomic is performed and replied to, with the cause code XLAT where its address does not translate. Shown where the address
is in host memory, within one sector. Three things are the model's choice: that a reply's status is the cause code and that the
first context with the packet's key translates (log 28), and where a packet carries what the header has no field for (log 43) (R316,
R317, R323, R332). -/
def Obligations.FabricPortsPerformPackets : Prop :=
  ∀ (s : State) (p : Packet) (x : Xl), NewPacket s p →
    let va := p.daddr.toNat % 2 ^ 52
    let n := if p.pkind = 7 then (if tyWide p.ty then 8 else 4) else p.len
    let old := Memory.bytes s.mem.hostMem x.pa n
    let writable := reW x.e = true ∧ reImm x.e = false
    (keyXl s p.pkey va = none → 0 < p.len →
      (p.pkind = 1 → ∃ u, exec (.getRequest p) s = .next u ∧
        Answered s u p 8 (if keyKnown s p.pkey = true then 7 else 2) [] ∧ u.mem = s.mem) ∧
      (5 ≤ p.pkind → p.pkind ≤ 7 → ∃ u, exec (.systemAccessPacket p) s = .next u ∧ Answered s u p 8 cXLAT [] ∧ u.mem = s.mem)) ∧
    (keyXl s p.pkey va = some x → x.host = true → nget s.mem.hostLines (hostKey x) = none → Memory.wf s.mem.hostMem = true →
      0 < n → va % 64 + n ≤ 64 →
      (p.pkind = 0 → p.mbox = 0 → keyKnown s p.pkey = true → (s.rx (xferKey p.smod p.xid)).endAt = none → p.payload.length = n →
        (s.rx (xferKey p.smod p.xid)).next = p.pseq → nget s.fab.rxq (pktKey p + 1) = none →
        writable → ∃ u, exec (.dataPacketReceive p) s = .next u ∧ Answered s u p 8 0 [] ∧
          HostBytes s u x.pa (fun _ => true) p.payload) ∧
      (p.pkind = 1 → reRd x.e = true →
        ∃ u, exec (.getRequest p) s = .next u ∧ Answered s u p 2 0 old ∧ u.mem = s.mem) ∧
      (p.pkind = 5 → p.op = 0 → reRd x.e = true →
        ∃ u, exec (.systemAccessPacket p) s = .next u ∧ Answered s u p 8 0 old ∧ u.mem = s.mem) ∧
      (p.pkind = 6 → writable → p.payload.length = n → n ≤ 16 →
        ∃ u, exec (.systemAccessPacket p) s = .next u ∧ Answered s u p 8 0 [] ∧
          HostBytes s u x.pa (fun i => p.ben.getLsbD i) p.payload) ∧
      (p.pkind = 7 → reRd x.e = true → writable →
        ∃ u, exec (.systemAccessPacket p) s = .next u ∧ Answered s u p 8 0 old ∧
          HostBytes s u x.pa (fun _ => true) (leBytes n (atomNew p.op p.ty (leNat old) p.opB.toNat p.opC.toNat))))

/-- A command on the fabric that a reply names. -/
structure Command (s : State) (id : Nat) (c : FabCmd) (t : Thread) : Prop where
  here : nget s.fab.cmds id = some c
  name : c.id = id
  only : ∀ q ∈ s.fab.cmds, q.2.xid = c.xid ∨ (q.2.tid = c.tid ∧ q.2.seq = c.seq) → q = (id, c)
  thread : s.thread c.tid = some t
  noSys : s.fab.sysReq = []
  noMerge : s.fab.merges = []

/-- A command has left: its group's counter C is one lower and it is no longer open. -/
def CommandEnds (s u : State) (id : Nat) (c : FabCmd) (t : Thread) : Prop :=
  nget u.fab.cmds id = none ∧
    (∃ t', u.thread c.tid = some t' ∧ t'.cC = t.cC - 1 ∧ t'.fOpen = t.fOpen.filter (· ≠ c.seq) ∧ t'.pc = t.pc ∧ t'.vmap = t.vmap) ∧
    (∀ j, j ≠ c.tid → u.thread j = s.thread j) ∧ u.mem.dram = s.mem.dram ∧ u.mem.hostMem = s.mem.hostMem ∧ u.wgs = s.wgs

/-- The last acknowledgement of a command ends it, and so does the merged acknowledgement of a replicated packet with an empty bitmap; a
failure reported by either is kept in the command, and once its last reply has come FABRIC_FAILURE_RECORDED puts it into its group's
failure record and ends it. That an acknowledgement carries the bytes counted so far is the model's choice (log 28) (R334, R338, R341). -/
def Obligations.RepliesEndCommands : Prop :=
  ∀ (s : State) (id : Nat) (c : FabCmd) (t : Thread) (p : Packet), Command s id c t → p.dmod = s.mdl.number → p.pcrc = packetCrc p → expired s p = false → c.total ≤ c.sent →
    (p.pkind = 8 → c.direct = true → c.kind ≠ 1 → p.xid = c.xid → c.left = [p.pseq] → c.fail = 0 → p.status = 0 →
      ∃ u, exec (.acknowledgement p) s = .next u ∧ CommandEnds s u id c t ∧ p ∉ u.fab.out ∧
        ∀ y ∈ u.fab.unacked, y.pkt.xid = p.xid → y.pkt.pseq ≠ p.pseq) ∧
    (p.pkind = 8 → c.direct = true → p.xid = c.xid → c.left = [p.pseq] → c.fail = 0 → p.status ≠ 0 →
      ∃ u, exec (.acknowledgement p) s = .next u ∧ nget u.fab.cmds id =
        some { c with left := [], fail := p.status, failAddr := p.daddr, counted := max c.counted p.opB.toNat } ∧ u.thr = s.thr ∧
        u.mem = s.mem) ∧
    (p.pkind = 9 → c.kind = 2 → p.xid = c.xid → c.left = [p.pseq] → c.fail = 0 → p.status = 0 → p.bitmap = 0 → c.bitmap = 0 →
      ∃ u, exec (.mergedAcknowledgement p) s = .next u ∧ CommandEnds s u id c t) ∧
    (p.pkind = 9 → c.kind = 2 → p.xid = c.xid → c.left = [p.pseq] → c.fail = 0 → p.status = 0 → p.bitmap ≠ 0 →
      ∃ u c', exec (.mergedAcknowledgement p) s = .next u ∧ nget u.fab.cmds id = some c' ∧ c'.fail = 1 ∧
        c'.bitmap = (c.bitmap ||| p.bitmap) ∧ c'.left = [] ∧ u.thr = s.thr ∧ u.mem = s.mem) ∧
    (c.fail ≠ 0 → c.left = [] → t.place ≠ .exited → t.ffail = none →
      ∃ u t' x, exec (.fabricFailureRecorded c.tid c.seq) s = .next u ∧ CommandEnds s u id c t ∧ u.thread c.tid = some t' ∧
        t'.ffail = some x ∧ x.kind = c.fail ∧ x.more = 0 ∧ x.opd1 = BitVec.ofNat 64 c.seq ∧
        x.opd0 = (if c.kind = 2 ∨ c.kind = 3 then c.bitmap else 0) ∧ x.opd3 = BitVec.ofNat 64 c.counted)

/-- The first switch sends a copy of a packet of BXMC to every member of its group under the version in force, and gathers their
acknowledgements; while the group is disabled it sends none. A reduction waits for every member's contribution; when the last has come
each contributor gets a reply of status zero and the reduction is done; when 100 ms have passed each gets the bitmap of the members
that are missing (R337 to R339). -/
def Claims.SwitchReplicatesAndReduces : Prop :=
  ∀ (s : State) (p : Packet), p.smod = s.mdl.number → p ∈ s.fab.up →
    let g := (s.part p.pkey).mcast p.group
    let copy := fun (i md : Nat) => sealed { p with dmod := md, mbox := (g.handles[i]?).getD 0, ver := g.ver }
    let merge : MergeAck :=
      { key := p.pkey, group := p.group, ver := g.ver, xid := p.xid, pseq := p.pseq, members := g.members, handles := g.handles,
        waiting := List.range g.members.length, bitmap := 0 }
    let new := ∀ m ∈ s.fab.merges, m.xid = p.xid → m.pseq ≠ p.pseq
    let same := fun (r : Reduction) =>
      r.key = p.pkey ∧ r.group = p.group ∧ r.ver = g.ver ∧ r.epoch = p.epoch ∧ r.pseq = p.pseq
    let answers := fun (u : State) (r : Reduction) (q : Packet) (status : Nat) (miss : Nat → Bool) =>
      ∃ y ∈ u.fab.out, y.pkind = 9 ∧ y.dmod = q.smod ∧ y.xid = q.xid ∧ y.pseq = r.pseq ∧ y.status = status ∧
        ∀ i, i < 64 → y.bitmap.getLsbD i = miss i
    (p.pkind = 0 → g.en = false → new →
      exec (.multicastReplication p) s = .next { s with fab := { s.fab with up := s.fab.up.filter (· ≠ p) } }) ∧
    (p.pkind = 0 → g.en = true → new →
      ∃ u, exec (.multicastReplication p) s = .next u ∧ u.fab.up = s.fab.up.filter (· ≠ p) ∧
        u.fab.merges = s.fab.merges ++ [merge] ∧
        (∀ i md, g.members[i]? = some md → copy i md ∈ (if md = s.mdl.number then u.fab.net else u.fab.out)) ∧ u.thr = s.thr ∧
        u.mem = s.mem) ∧
    (p.pkind = 4 → g.en = true → (∀ r ∈ s.fab.reds, ¬ same r) → s.mdl.number ∈ g.members → 2 ≤ g.members.length →
      ∃ u r, exec (.reductionContribution p) s = .next u ∧ u.fab.reds = s.fab.reds ++ [r] ∧ same r ∧ r.members = g.members ∧
        r.got = [(g.members.findIdx (· = s.mdl.number), p)] ∧ r.bad = [] ∧ r.since = s.env.clk ∧ r.len = p.len ∧ r.rop = p.rop ∧
        u.fab.out = s.fab.out ∧ u.fab.net = s.fab.net) ∧
    (∀ r q, p.pkind = 4 → s.fab.reds = [r] → same r → r.members = [q.smod, s.mdl.number] → q.smod ≠ s.mdl.number →
      r.got = [(0, q)] → r.bad = [] → p.len = r.len → p.rop = r.rop →
      ∃ u, exec (.reductionContribution p) s = .next u ∧ u.fab.reds = [] ∧ answers u r q 0 (fun _ => false) ∧
        answers u r p 0 (fun _ => false) ∧
        ∃ y ∈ u.fab.net, y.dmod = s.mdl.number ∧ y.daddr = p.daddr ∧
          (y.payload = ropBytesCombine r.rop q.payload p.payload ∨ y.payload = ropBytesCombine r.rop p.payload q.payload)) ∧
    (∀ r, s.fab.reds = [r] → same r → r.bad = [] → r.members.length ≤ 64 → r.since + nsToClk 100000000 ≤ s.env.clk →
      (s.part p.pkey).haltAt = none →
      ∃ u, exec (.reductionTimeout p.pkey p.group g.ver p.epoch p.pseq) s = .next u ∧ u.fab.reds = [] ∧ u.mem = s.mem ∧
        ∀ q ∈ r.got, answers u r q.2 6 fun i => decide (i < r.members.length) && (nget r.got i).isNone)

/-- GCTL_COMMIT with EN and 1 to 64 different members puts the staged members and handles into force under the next version; with EN
and other members it is refused, and EN is 0; without EN it disables the group, and as a commit raises VER. No other group changes,
and the members of a version in force before are kept for the packets that carry it (R336, R337). -/
def Claims.GroupCommit : Prop :=
  ∀ (s : State) (key g : Nat) (v : Word64),
    let x := (s.part key).mcast g
    let n := bits v 6 0
    let mods := (List.range n).map fun i => bits (ngetD x.mmod i 0) 11 0
    let x' := { x with old := if x.en then nset x.old x.ver (x.members, x.handles) else x.old }
    let good := 1 ≤ n ∧ n ≤ 64 ∧ mods.Nodup
    ∃ u, exec (.gctlCommit key g v) s = .next u ∧ (∀ k h, (k, h) ≠ (key, g) → (u.part k).mcast h = (s.part k).mcast h) ∧
      u.thr = s.thr ∧ u.mem = s.mem ∧
      (v.getLsbD 7 = true → good → (u.part key).mcast g =
        { x' with ctl := BitVec.ofNat 64 (128 + n), ver := (x.ver + 1) % 256, live := x.mmod, liveH := x.mhnd }) ∧
      (v.getLsbD 7 = true → ¬good → (u.part key).mcast g = { x' with ctl := BitVec.ofNat 64 n } ∧ ((u.part key).mcast g).en = false) ∧
      (v.getLsbD 7 = false → (u.part key).mcast g = { x' with ctl := BitVec.ofNat 64 n, ver := (x.ver + 1) % 256 } ∧
        ((u.part key).mcast g).en = false)

/-- 250 µs after its injection an unacknowledged packet is injected again with ATT one higher and a new injection time; after ATT =
2 its command fails with LOST; a contribution that the switch holds is not sent again (R339). A packet 1 ms old is dropped on its
way. A peer in recovery has nothing injected until its return, when what was held is, while no partition halts, and the watchdogs of
the threads that waited for it count from then on (R424); after 2 s it is lost, and the commands toward it, and to groups that it is
a member of, fail. A port that is down no longer counts as up (R313, R314, R345, R346). -/
def Claims.FabricTimeAndPeers : Prop :=
  ∀ (s : State),
    (∀ y, s.fab.unacked = [y] → y.inj = true → y.since + nsToClk 250000 ≤ s.env.clk → mayLeave s y.pkt y.sw = true →
      (∀ r ∈ s.fab.reds, ∀ q ∈ r.got, q.2.xid ≠ y.pkt.xid) →
      (y.pkt.att < 2 → ∃ u z, exec (.retransmissionTimeout y.pkt.xid y.pkt.pseq) s = .next u ∧ u.fab.unacked = [z] ∧
        z.pkt.att = y.pkt.att + 1 ∧ z.pkt.xid = y.pkt.xid ∧ z.pkt.pseq = y.pkt.pseq ∧ z.pkt.payload = y.pkt.payload ∧
        z.pkt.itime = s.ns % 2 ^ 32 ∧ z.pkt.pcrc = packetCrc z.pkt ∧ z.since = s.env.clk ∧ z.inj = true ∧
        (y.sw = true → u.fab.up = s.fab.up ++ [z.pkt]) ∧ (y.sw = false → y.pkt.dmod = s.mdl.number → u.fab.net = s.fab.net ++ [z.pkt]) ∧
        u.fab.cmds = s.fab.cmds ∧ u.thr = s.thr ∧ u.mem = s.mem) ∧
      (∀ id c t, 2 ≤ y.pkt.att → Command s id c t → c.xid = y.pkt.xid → c.kind ≠ 3 → c.fail = 0 →
        ∃ u, exec (.retransmissionTimeout y.pkt.xid y.pkt.pseq) s = .next u ∧ u.fab.unacked = [] ∧ nget u.fab.cmds id =
          some (FabCmd.cut { c with left := c.left.filter (· ≠ y.pkt.pseq), fail := 5, failAddr := y.pkt.daddr }) ∧ u.thr = s.thr)) ∧
    (∀ p, p ∈ s.fab.net → 1000000 ≤ (s.ns + 2 ^ 32 - p.itime) % 2 ^ 32 → nget s.fab.rxq (pktKey p) = none →
      ∃ u, exec (.packetLifetimeExpiry p.xid p.pseq) s = .next u ∧ p ∉ u.fab.net ∧ p ∉ u.fab.up ∧ p ∉ u.fab.out ∧
        (∀ q ∈ s.fab.net, q.xid ≠ p.xid ∨ q.pseq ≠ p.pseq → q ∈ u.fab.net) ∧ u.fab.unacked = s.fab.unacked ∧ u.mem = s.mem) ∧
    (∀ peer, nget s.fab.peers peer = some .up → exec (.recoveryNotice peer false) s =
      .next { s with fab := { s.fab with peers := nset s.fab.peers peer (.recov s.env.clk) } }) ∧
    (∀ peer since, nget s.fab.peers peer = some (.recov since) →
      (∃ u, exec (.recoveryNotice peer true) s = .next u ∧ nget u.fab.peers peer = some .up ∧
        ((∀ c, s.halting c = false) → ∀ y ∈ s.fab.unacked, y.pkt.dmod = peer → y.inj = false → y.sw = false →
          ∃ z ∈ u.fab.unacked, z.pkt.xid = y.pkt.xid ∧ z.pkt.pseq = y.pkt.pseq ∧ z.inj = true ∧ z.since = s.env.clk ∧
            z.pkt.itime = s.ns % 2 ^ 32) ∧
        (∀ tid t, s.thread tid = some t → u.thread tid =
          some { t with wdSince := if t.waits = true ∧ recovSince s tid ≠ [] then s.cyc else t.wdSince }) ∧ u.mem = s.mem) ∧
      (since + nsToClk 2000000000 ≤ s.env.clk → s.fab.sysReq = [] →
        ∃ u, exec (.peerLost peer) s = .next u ∧ nget u.fab.peers peer = some .lost ∧
          (∀ id c, nget s.fab.cmds id = some c → c.direct = true → c.peer = peer → c.fail = 0 →
            ∃ c', nget u.fab.cmds id = some c' ∧ c'.fail = 5 ∧ c'.left = [] ∧ c'.sent = c'.total) ∧
          (∀ id c, nget s.fab.cmds id = some c → c.direct = false → c.isOver = false → c.fail = 0 →
            (∀ y ∈ s.fab.unacked, y.pkt.xid = c.xid → y.sw = true) →
            let ms := ((s.part (s.ctx c.ctx).key).mcast c.group).members
            peer ∈ ms → ms.length ≤ 64 →
            ∃ c', nget u.fab.cmds id = some c' ∧ c'.fail = 5 ∧ c'.left = [] ∧ c'.bitmap.getLsbD (ms.findIdx (· = peer)) = true))) ∧
    (∀ port, port < 64 → exec (.fabricPortDown port) s =
      .next { s with fab := { s.fab with fpm := s.fab.fpm &&& ~~~BitVec.ofNat 64 (2 ^ port) } })

/-- COUNTING_END_TIMEOUT: when a written packet has waited 4 ms for an earlier one, counting of its transfer ends there: the packet is
acknowledged, no arrival is made, and the phase record stays as it was (R323). -/
def Claims.CountingEndsAfterWait : Prop :=
  ∀ (s : State) (smod xid : Nat) (q : RxPkt),
    let k := xferKey smod xid
    q.pkt.smod = smod → q.pkt.xid = xid → q.pkt.pseq < 2 ^ 32 → smod ≠ s.mdl.number → NotInRecovery s smod → q.pkt.pkind = 0 → q.written = true →
    s.fab.rxq = [(pktKey q.pkt, q)] → (s.rx k).next < q.pkt.pseq → q.since + nsToClk 4000000 ≤ s.env.clk →
    (∀ e, (s.rx k).endAt = some e → q.pkt.pseq < e) →
    ∃ u, exec (.countingEndTimeout smod xid) s = .next u ∧ Answered s u q.pkt 8 0 [] ∧ (u.rx k).endAt = some q.pkt.pseq ∧
      (u.rx k).late = true ∧ (u.rx k).next = (s.rx k).next ∧ u.fab.rxq = [] ∧ u.mem = s.mem

/-- FABRIC_ENGINE_FAULT: a BXSEND whose next source byte does not translate is held, and its group freezes, imprecise, with the command's
number in FOPD0 and the address in FOPD1; nothing is sent (R344). -/
def Claims.FabricEngineFaultHolds : Prop :=
  ∀ (s : State) (id : Nat) (c : FabCmd) (t : Thread), Command s id c t → (∀ q ∈ s.fab.cmds, q = (id, c)) → c.kind = 0 → c.sent = 0 →
    0 < c.total → c.fail = 0 → c.held = none → s.halting c.ctx = false → 0 < c.len → c.local' < 2 ^ 57 → c.ctx = t.ctx → c.cu = t.cu →
    walk s c.ctx c.local' = none → (s.cu c.cu).rlb = [] → ngetD s.mem.walkers (c.cu / 64) [] = [] → t.isGroup = true → t.place = .active → t.fz = none → t.stepping = 0 →
    (s.ctx t.ctx).sysent ≠ 0 →
    ∃ u t' z, exec (.fabricEngineFault c.tid c.seq none) s = .next u ∧ u.thread c.tid = some t' ∧ t'.pc = t.pc ∧ t'.fz = some z ∧
      z.imp = true ∧ z.fr.cause = BitVec.ofNat 64 cXLAT ∧ z.fr.syn = 0x60000 ∧ z.fr.opd0 = BitVec.ofNat 64 c.seq ∧ z.fr.opd1 = c.w1 ∧
      z.fr.opd2 = 0 ∧ nget u.fab.cmds id = some { c with held := some { cause := cXLAT, taker := some c.tid } } ∧
      u.fab.unacked = s.fab.unacked ∧ u.mem.dram = s.mem.dram

/-! ### Tree-barrier objects and module registers -/

/-- TREE_BARRIER_RELEASE of the pending phase of an object whose module is ready completes it: PHASE rises by one, EXC1 takes EXC0
and EXC0 the flag of the phase, with other modules' part in it; the release of another phase, one that is not ready and one that
brumation holds open change nothing. TBCTL_WRITE opens an object, at phase 0 and bound to no launch, with every group's count of
joined phases for it 0, and closes one, when every group that waits for it is let go. TREE_FAILOVER moves a partition's tree to
plane 1, and sends this module's own first halt wave again; ROW_SEGMENT_LOSS marks a row (R35, R350 to R353, R358). -/
def Obligations.TreeObjects : Prop :=
  ∀ (s : State) (key b : Nat) (v : Word64),
    let o := (s.part key).obj b
    (∀ x ph, let shut := (s.part key).haltAt.isSome = true ∧ o.others s.mdl.number = false
      (moduleReady s o b = true → o.phase % 65536 = ph → ¬shut →
        exec (.treeBarrierRelease key b { phase := ph, excused := x }) s = .next (s.modObj key b fun o =>
          { o with phase := o.phase + 1, exc1 := o.exc0, exc0 := o.excused || (x && o.others s.mdl.number), excused := false })) ∧
      (moduleReady s o b = false ∨ o.phase % 65536 ≠ ph ∨ shut → exec (.treeBarrierRelease key b { phase := ph, excused := x }) s = .next s)) ∧
    (v.getLsbD 0 = true → o.en = false → ∃ u, exec (.tbctlWrite key b v) s = .next u ∧ (u.part key).obj b =
        { o with en := true, phase := 0, exc0 := false, exc1 := false, launch := none, excused := false } ∧
      (∀ tid t, s.thread tid = some t → ∃ t', u.thread tid = some t' ∧ t'.pc = t.pc ∧ t'.blk = t.blk ∧
        (inPart s key t = true → ngetD t'.joins b 0 = 0 ∧ ∀ c, c ≠ b → ngetD t'.joins c 0 = ngetD t.joins c 0) ∧
        (inPart s key t = false → t' = t)) ∧ u.mem = s.mem) ∧
    (v.getLsbD 0 = false → o.en = true → ∃ u, exec (.tbctlWrite key b v) s = .next u ∧ (u.part key).obj b = { o with en := false } ∧
      (∀ tid t k, s.thread tid = some t → t.blk = some k → inPart s key t = true → k.stage = 241 → k.val = b →
        u.thread tid = some { t with blk := some { k with stage := 242 } }) ∧
      (∀ tid t, s.thread tid = some t → (∀ k, t.blk = some k → k.stage ≠ 241 ∨ k.val ≠ b) → u.thread tid = some t) ∧ u.mem = s.mem) ∧
    (∃ u, exec (.treeFailover key) s = .next u ∧ (u.part key).plane = 1 ∧ (∀ x ∈ (s.part key).waves, x ∈ (u.part key).waves) ∧
      (∀ x, (s.part key).haltAt.isSome = true → (s.part key).first = some x → x.modn = s.mdl.number → x ∈ (u.part key).waves) ∧
      ((s.part key).haltAt = none → (u.part key).waves = (s.part key).waves) ∧ u.thr = s.thr ∧ u.mem = s.mem) ∧
    (∀ row, ∃ u, exec (.rowSegmentLoss row) s = .next u ∧ row ∈ u.mdl.rows ∧ (∀ r ∈ s.mdl.rows, r ∈ u.mdl.rows) ∧ u.thr = s.thr ∧
      u.parts = s.parts)

/-- REGISTER_WRITE outside BAR0 stands for a write by context 0's system software, the only party that reaches module registers
(R437): PCAP keeps bits 15:0 and TMCTL bit 63 and bits 11:0; a register that is only read is not changed (R3, R21, R379, R417), and
neither is any by a write of an address that no chapter and no place of the implementation gives (log 32). The event ignores an
address that is no multiple of 8, by the model's choice: at PWR it is a TRAP (R417). A queue's registers are reached through BAR0,
directly or by its doorbell page: QCTL, QBASE and QCPL keep the bits that R374 gives and are read so, QTAIL is the doorbell and
reads zero, and QHEAD is only read (R371, R374, R375, R437, R456). -/
def Obligations.HostWritesRegisters : Prop :=
  ∀ (s : State) (v : Word64) (c q : Nat), c < 1024 → q < 4 →
    let x := (s.ctx c).queue q
    let within := fun (a : Nat) (l : List (Nat × Nat)) => ∃ r ∈ l, r.1 ≤ a ∧ a < r.2
    let readOnly := [(0x60000, 0x68000), (0x70000, 0x78000), (0xA0000, 0xC0000), (0xD0000, 0xDA800), (0xF0008, 0xF0010)]
    let written := [(0x10000, 0x10400), (0x40000, 0x50000), (0x80000, 0xA0000), (0xE0010, 0xE0400), (0xF0000, 0xF0008), (0xF0010, 0xF0018),
      (0x200000, 0x280000)]
    (∀ a, a % 8 ≠ 0 → exec (.registerWrite false a v) s = .next s) ∧
    (∀ a, within a readOnly → exec (.registerWrite false a v) s = .next s) ∧
    (∀ a, ¬within a written → ∃ u, exec (.registerWrite false a v) s = .next u ∧ (u = s ∨
      Config.moduleMap a = some .readmit ∧ nget s.fab.peers (v.toNat % 4096) = some .lost ∧
        u = { s with fab := { s.fab with peers := nset s.fab.peers (v.toNat % 4096) .up } })) ∧
    exec (.registerWrite false 0xF0000 v) s = .next { s with mdl := { s.mdl with pcap := v &&& 0xFFFF } } ∧
    exec (.registerWrite false 0xF0010 v) s = .next { s with mdl := { s.mdl with tmctl := v &&& 0x8000000000000FFF } } ∧
    exec (.tmctlWrite v) s = .next { s with mdl := { s.mdl with tmctl := v &&& 0x8000000000000FFF } } ∧
    (∀ base ∈ [0x100000 + 256 * c + 64 * q, 0x1000000 + 4096 * c + 64 * q],
      exec (.registerWrite true base v) s = .next (s.modQueue c q fun x => { x with base := v &&& 0x01FFFFFFFFFFF000 }) ∧
      exec (.registerWrite true (base + 8) v) s = exec (.qctlWrite 0 c q v) s ∧
      exec (.registerWrite true (base + 16) v) s = exec (.qtailDoorbell c q v) s ∧
      exec (.registerWrite true (base + 24) v) s = .next s ∧
      exec (.registerWrite true (base + 32) v) s = exec (.qcplWrite c q v) s ∧
      readBar0 s base = x.base ∧ readBar0 s (base + 8) = x.ctl ∧ readBar0 s (base + 16) = 0 ∧
      readBar0 s (base + 24) = BitVec.ofNat 64 (x.head % 2 ^ 32) ∧ readBar0 s (base + 32) = x.cpl) ∧
    (∃ u, exec (.qctlWrite 0 c q v) s = .next u ∧ (u.ctx c).queue q = { x with ctl := v &&& 0xFFFF005F, port := 0 } ∧
      ∀ d, d ≠ c → u.ctx d = s.ctx d) ∧
    (∃ u, exec (.qcplWrite c q v) s = .next u ∧ (u.ctx c).queue q = { x with cpl := v &&& 0x01FFFFFFFFFFFFF9 } ∧
      ∀ d, d ≠ c → u.ctx d = s.ctx d)

/-! ### Host queues, launches -/

/-- A doorbell value that is at most the ring's size ahead of HEAD and not behind TAIL moves TAIL; a value more than the ring's size
ahead or one behind TAIL, one for a ring whose LOG2N is outside 4 to 16, and one before MREADY are ignored (R374, R375, R451). The
entry at the head of a served queue, when it can be read and is well formed, is taken: a launch waits to be accepted; a signal adds
one to its token with the host as producer, and a reset clears it, both once every earlier entry has finished; a wait goes once its
token is satisfied; a malformed entry finishes with BADENT (R376, R377, R381). -/
def Obligations.QueueEntriesAreTaken : Prop :=
  ∀ (s : State) (c q : Nat), c < 1024 → q < 4 →
    let x := (s.ctx c).queue q
    let key := (s.ctx c).key
    (∀ v : Word64, let d := (v.toNat % 2 ^ 32 + 2 ^ 32 - x.head % 2 ^ 32) % 2 ^ 32
      s.mready = true → x.sized = true → d ≤ 2 ^ x.log2n → x.tail ≤ x.head + d →
      ∃ u, exec (.qtailDoorbell c q v) s = .next u ∧ (u.ctx c).queue q = { x with tail := x.head + d } ∧ u.thr = s.thr ∧ u.mem = s.mem) ∧
    (∀ v : Word64, let d := (v.toNat % 2 ^ 32 + 2 ^ 32 - x.head % 2 ^ 32) % 2 ^ 32
      2 ^ x.log2n < d ∨ x.head + d < x.tail ∨ x.log2n < 4 ∨ 16 < x.log2n ∨ s.mready = false →
      exec (.qtailDoorbell c q v) s = .next s) ∧
    (∀ kind arg r irq, queueReady s c q = true → (headEntry s c q).2 = .ok kind arg r irq →
      let s1 := (headEntry s c q).1
      let took := fun (i : Instr) (status pend : Option Nat) (tok : Option Word64) => ∃ u, exec i s = .next u ∧
        (u.ctx c).queue q = { x with head := x.head + 1, pend := pend,
                                     entries := x.entries ++ [{ seq := x.head, irq := irq, status := status }] } ∧
        (∀ t, tok = some t → u.token key (tokIdx arg) = t) ∧
        (∀ k i, tok = none ∨ k ≠ key ∨ i ≠ tokIdx arg → u.token k i = s.token k i) ∧ u.thr = s1.thr ∧ u.mem = s1.mem
      let held := s.token key (tokIdx arg)
      (kind = 0 → took (.entryLaunch c q) none (some r) none) ∧
      (kind = 1 → x.entries = [] → took (.entrySignalToken c q) (some 1) none (some (tokOf 4 0 (tokCnt held + 1)))) ∧
      (kind = 1 → x.entries ≠ [] → exec (.entrySignalToken c q) s = .next s1) ∧
      (kind = 2 → tokSatisfied held arg = true → took (.entryWaitToken c q) (some 1) none none) ∧
      (kind = 2 → tokSatisfied held arg = false → exec (.entryWaitToken c q) s = .next s1) ∧
      (kind = 3 → x.entries = [] → took (.entryResetToken c q) (some 1) none (some 0)) ∧
      (kind = 3 → x.entries ≠ [] → exec (.entryResetToken c q) s = .next s1)) ∧
    (∀ irq, queueReady s c q = true → (headEntry s c q).2 = .bad irq →
      let s1 := (headEntry s c q).1
      let y := (s1.ctx c).queue q
      ∀ i ∈ [Instr.entryLaunch c q, .entrySignalToken c q, .entryWaitToken c q, .entryResetToken c q],
        ∃ u, exec i s = .next u ∧ (u.ctx c).queue q =
          { y with head := y.head + 1, pend := none, entries := y.entries ++ [{ seq := y.head, irq := irq, status := some 5 }] })

/-- LAUNCH_ACCEPT of a record that can be read and that R65 does not reject makes a launch of it, under a GRIDID that no live launch
of the context holds; one that it rejects finishes with BADREC; one whose WAITTK is not satisfied waits. That GRIDID is the
context's next number, passing over those that are held, and that the number after it comes next, are the model's choice (logs 6,
30). Shown with no host line in an L2 (R44, R64, R65, R376, R380). -/
def Obligations.LaunchesAreAccepted : Prop :=
  ∀ (s : State) (c q va : Nat) (e : QEntry) (b : List Byte), q < 4 → ((s.ctx c).queue q).pend = some va →
    ((s.ctx c).queue q).entries = [e] → s.mem.hostLines = [] → (readRange s c va 128).2 = some b →
    let tk : Word64 := BitVec.ofNat 64 (leNat (sliceOf b 80 8))
    let open' := tk = 0 ∨ tokSatisfied (s.token (s.ctx c).key (tokIdx tk)) tk = true
    let r := parseRecord (leNat b)
    let live := s.lch.filter fun p => p.2.ctx = c
    (¬open' → ∃ u, exec (.launchAccept c q) s = .next u ∧ u.lch = s.lch ∧ (u.ctx c).queue q = (s.ctx c).queue q ∧ u.thr = s.thr ∧
      u.mem = s.mem) ∧
    (open' →
      (recBad (leNat b) r (s.ctx c).privq = true → ∃ u, exec (.launchAccept c q) s = .next u ∧ u.lch = s.lch ∧
        ((u.ctx c).queue q).pend = none ∧ ((u.ctx c).queue q).entries = [{ e with status := some 2 }]) ∧
      (recBad (leNat b) r (s.ctx c).privq = false → r.kcnt = 0 → r.pen = false → live.length < 2 ^ 32 →
        ∃ u l, exec (.launchAccept c q) s = .next u ∧ nget u.lch s.env.nextId = some l ∧ l.lr = r ∧ l.ctx = c ∧
          (∀ p ∈ live, p.2.gridid ≠ l.gridid) ∧
          ((∀ p ∈ live, p.2.gridid ≠ (s.ctx c).nextGrid % 2 ^ 32) → l.gridid = (s.ctx c).nextGrid % 2 ^ 32) ∧
          (u.ctx c).nextGrid = (l.gridid + 1) % 2 ^ 32 ∧ l.src = .queue q e.seq ∧ l.irq = e.irq ∧
          l.next = 0 ∧ l.clusters = r.nwgx * r.nwgy * r.nwgz / (r.clsz + 1) ∧ l.live = 0 ∧ l.killed = false ∧
          ((u.ctx c).queue q).pend = none ∧ ((u.ctx c).queue q).entries = [e] ∧ u.thr = s.thr ∧ u.mem = s.mem))

/-- DISPATCH_OPPORTUNITY with a cluster of one workgroup chosen for a CU that needs no write-back admits it: its groups wait with
the launch's code address as their PC, their launch masks and constants, every other register zero; the launch has dispatched one
cluster more (R43 to R45, R56, R378, R383, R384). -/
def Obligations.WorkgroupsAreAdmitted : Prop :=
  ∀ (s : State) (die lv lid cu : Nat) (l : Launch), nget s.lch lid = some l → (∀ p ∈ s.wgs, p.2.evicted = false) →
    choose s die (admissible s die) = some (lv, lid, l, [cu]) → l.relDone = true → l.lr.clsz = 0 → needsTurn s l.ctx l.lr cu = false →
    cu ∈ l.acted →
    let n := l.lr.ng + 1
    let w := s.env.nextId
    ∃ u g, exec (.dispatchOpportunity die) s = .next u ∧ u.wg w = some g ∧
      (∃ l', nget u.lch lid = some l' ∧ l'.next = l.next + 1 ∧ l'.live = l.live + 1) ∧ g.launch = lid ∧ g.cu = cu ∧ g.lin = l.next ∧
      g.ng = n ∧ g.groups.length = n ∧ g.scratch = [] ∧ g.tileMem = [] ∧ g.tiles = [] ∧
      (∀ k tid, g.groups[k]? = some tid → ∃ t, u.thread tid = some t ∧ t.kind = .group ∧ t.wg = w ∧ t.gnum = k ∧ t.barrel = k % 4 ∧
        t.cu = cu ∧ t.place = .waiting ∧ t.pc = BitVec.ofNat 64 l.lr.code ∧ t.budget = l.lr.regs ∧ t.kreg = l.k ∧ t.sreg = [] ∧
        t.preg = [] ∧ t.vmap = [] ∧ t.sig = 0xFFFFFFFF ∧ t.exm = (launchMasks l.lr k).1 ∧ t.hlpm = (launchMasks l.lr k).2)

/-- LAUNCH_COMPLETE of a launch with every cluster dispatched and none live, whose CUs hold no dirty line, ends it: its work-list
objects go, its entry has the status 1, and SIGTK adds one to its token (R95, R377, R380). TERMINATION_WAVES: a first wave that
finds a work list quiescent is remembered, a second with no append or take between makes the object done, and one that finds it not
quiescent starts again (R394). -/
def Obligations.LaunchesComplete : Prop :=
  ∀ (s : State) (lid q seq : Nat) (l : Launch), nget s.lch lid = some l → l.src = .queue q seq →
    (l.clusters ≤ l.next → l.live = 0 → l.killed = false → (∀ cu ∈ l.ranOn, dirtySectors s cu = []) →
      ∃ u, exec (.launchComplete lid) s = .next u ∧ nget u.lch lid = none ∧
        ((u.ctx l.ctx).queue q).entries =
          ((s.ctx l.ctx).queue q).entries.map (fun e => if e.seq = seq then { e with status := some 1 } else e) ∧
        (∀ n o, nget (u.ctx l.ctx).objs n = some o → o.launch ≠ lid) ∧
        (l.lr.sigtk ≠ 0 → tokCnt (u.token (s.ctx l.ctx).key (tokIdx l.lr.sigtk)) =
          (tokCnt (s.token (s.ctx l.ctx).key (tokIdx l.lr.sigtk)) + 1) % 2 ^ 32) ∧
        (∀ k, k ≠ lid → nget u.lch k = nget s.lch k) ∧ u.thr = s.thr ∧ u.mem = s.mem) ∧
    (l.next < l.clusters ∨ l.live ≠ 0 → exec (.launchComplete lid) s = .next s) ∧
    (∀ c n o, nget (s.ctx c).objs n = some o → o.done = false → s.halting c = false →
      (quiescent s c n o = false → exec (.terminationWaves c n) s = .next (s.setObj c n { o with waves := 0 })) ∧
      (quiescent s c n o = true → o.waves = 1 → o.snap = o.ops →
        exec (.terminationWaves c n) s = .next (s.setObj c n { o with done := true })) ∧
      (quiescent s c n o = true → o.waves = 0 →
        exec (.terminationWaves c n) s = .next (s.setObj c n { o with waves := 1, snap := o.ops })))

/-! ### Residence -/

/-- At its turn, a group that waits or has offered its slot gives it to the longest-ready pending one, or keeps it, the offer
lapsing, when none is ready and no pending place is free; one that stands at a blocking point leaves for a free place (GROUP_SWAP).
An empty slot takes the longest-ready one. A group that has held its slot for 8 clk, no tadpole sharing it, gives it to the first
overdue one (OVERDUE_SWAP). No other thread changes its place, and no PC changes; at another slot's turn nothing happens (R69 to
R72). -/
def Claims.SlotsAreSwapped : Prop :=
  (∀ (s : State) (out : Nat) (t : Thread), nextTurn s = some t.slotKey → inSlot s t.slotKey = some (out, t) → s.thread out = some t →
    t.inPlace = true →
    let swap : Instr := .groupSwap t.cu t.barrel t.aslot
    let idle := s.modThread out fun u => { u with offer := 0 }
    (∀ inn x, s.thread inn = some x → x.place = .pending →
      let swaps := fun (i : Instr) => ∃ u t' x', exec i s = .next u ∧ u.thread out = some t' ∧ u.thread inn = some x' ∧
        t'.place = .pending ∧ x'.place = .active ∧ x'.aslot = t.aslot ∧ t'.pc = t.pc ∧ x'.pc = x.pc ∧ t'.offer = 0 ∧
        u.mem = s.mem ∧ u.wgs = s.wgs ∧
        ∀ j y, s.thread j = some y → j ≠ out → j ≠ inn → ∃ y', u.thread j = some y' ∧ y' = { y with swaps := y'.swaps }
      (longestReady s t.cu t.barrel = some (inn, x) → t.waits = true ∨ t.offer ≠ 0 → swaps swap) ∧
      (firstOverdue s t.cu t.barrel = some (inn, x) → t.slotSince + 8 ≤ s.cyc → t.holdsSlot s = true →
        (∀ p ∈ s.thr, p.2.slotKey = t.slotKey → p.2.holdsSlot s = true → p.1 = out) →
        swaps (.overdueSwap t.cu t.barrel t.aslot))) ∧
    (longestReady s t.cu t.barrel = none → t.waits = true ∨ t.offer ≠ 0 → pendingRoom idle t.cu t.barrel = false → exec swap s = .next idle) ∧
    (longestReady s t.cu t.barrel = none → t.waits = true ∨ t.offer ≠ 0 → pendingRoom idle t.cu t.barrel = true →
      (standsAt idle out t).isSome = true → ∃ u t', exec swap s = .next u ∧ u.thread out = some t' ∧ t'.place = .pending ∧ t'.pc = t.pc ∧
        u.mem = s.mem ∧ ∀ j, j ≠ out → u.thread j = s.thread j)) ∧
  (∀ (s : State) (cu barrel slot inn : Nat) (x : Thread), barrel < 4 → cu < 2 ^ 30 → nextTurn s = some (slotKey cu barrel slot) →
    inSlot s (slotKey cu barrel slot) = none → slot ∈ freeSlots s cu barrel → longestReady s cu barrel = some (inn, x) →
    s.thread inn = some x →
    ∃ u x', exec (.groupSwap cu barrel slot) s = .next u ∧ u.thread inn = some x' ∧ x'.place = .active ∧ x'.aslot = slot ∧ x'.pc = x.pc ∧
      u.mem = s.mem ∧ ∀ j y, s.thread j = some y → j ≠ inn → ∃ y', u.thread j = some y' ∧ y' = { y with swaps := y'.swaps }) ∧
  (∀ (s : State) (cu barrel slot : Nat), nextTurn s ≠ some (slotKey cu barrel slot) →
    exec (.groupSwap cu barrel slot) s = .next s ∧ exec (.overdueSwap cu barrel slot) s = .next s)

/-- GROUP_PARK of a pending group that stands at a blocking point with an accepted liveness record writes its state into the park
area, and, once that is done, parks it: the vector registers that the record names stay, and the destination of the system-space
load on which it waits, the others are released; with no accepted record it stays. WAKE_CONDITION_FIRES brings a parked group whose
condition holds, and whose budget and pending place are free, back to pending (R62, R72, R373, R385, R386). CU_RECLAIM first marks a
CU for which another context has waited its slice, and, once every workgroup there can leave and its L1 is clean, saves and evicts
them with their matrix queue entries and rings and frees the CU (R387). -/
def Claims.GroupsParkAndWake : Prop :=
  ∀ (s : State) (tid cu : Nat) (t : Thread), s.thread tid = some t →
    (∀ x, mayPark s tid t = true → livenessAt s t (parkPc s tid t) = some x →
      (livenessMask s x (parkPc s tid t) = none → exec (.groupPark tid) s = .next (requestCtx s t.ctx x true)) ∧
      (∀ live, livenessMask s x (parkPc s tid t) = some live →
        let written := parkWrite (s.touch t.ctx x) t.cu t.ctx tid groupPark
        let v := written.1
        (written.2 = false → exec (.groupPark tid) s = .next v) ∧
        (∀ y, written.2 = true → v.thread tid = some y →
          ∃ u t', exec (.groupPark tid) s = .next u ∧ u.thread tid = some t' ∧ t'.place = .parked ∧ t'.pc = y.pc ∧ t'.sreg = y.sreg ∧
            t'.preg = y.preg ∧ t'.exm = y.exm ∧ t'.log = y.log ∧
            (∀ n l, l < 32 → t'.vlane n l = if live.testBit n ∨ n ∈ loadNames y then y.vlane n l else 0) ∧
            (∀ j, j ≠ tid → u.thread j = v.thread j) ∧ u.mem = v.mem))) ∧
    (mayPark s tid t = false ∨ livenessAt s t (parkPc s tid t) = none → exec (.groupPark tid) s = .next s) ∧
    (∀ g, t.place = .parked → t.fz = none → wakeHolds s tid t = true → s.wg t.wg = some g → g.evicted = false → g.killed = false →
      s.halting t.ctx = false → budgetFits s t = true → pendingRoom s t.cu t.barrel = true →
      exec (.wakeConditionFires tid) s = .next (s.setThread tid
        { t with place := .pending, waits := false, readySince := s.cyc, swaps := 0, overdue := none, behind := 0, woke := none
                 blk := if t.blk.map (·.stage) = some loadPark then none else t.blk })) ∧
    (t.place ≠ .parked ∨ wakeHolds s tid t = false ∨ budgetFits s t = false ∨ pendingRoom s t.cu t.barrel = false →
      exec (.wakeConditionFires tid) s = .next s) ∧
    ((s.cu cu).reclaim = false → reclaimDue s cu = true →
      exec (.cuReclaim cu) s = .next (s.modCu cu fun c => { c with reclaim := true })) ∧
    (∀ c, (s.cu cu).reclaim = true → (s.cu cu).ctx = some c → s.halting c = false → cuLeaves s cu = true → dirtySectors s cu = [] →
      let v := (saveWgs s cu).1
      ((saveWgs s cu).2 = false → exec (.cuReclaim cu) s = .next v) ∧
      ((saveWgs s cu).2 = true →
        ∃ u, exec (.cuReclaim cu) s = .next u ∧ (u.cu cu).ctx = none ∧ (u.cu cu).l1 = [] ∧ (u.cu cu).reclaim = false ∧
          (∀ w g, v.wg w = some g → ∃ g', u.wg w = some g' ∧ g' = { g with
            evicted := g.evicted || g.cu = cu
            mqSave := if g.cu = cu && !g.evicted then g.mqSave ++ (s.cu cu).mq.filter fun m => m.wg = w else g.mqSave }) ∧
          (u.cu cu).mq = [] ∧ u.thr = v.thr ∧ u.mem = v.mem))

/-! ### Tadpoles, the watchdog, lane death, code lines -/

/-- TADPOLE_SPAWN places the first entry of a CU's spawn queue whose place is free: a tadpole of its kind, an agent in the agent's
own place, with its record and TKIND, whose bit BRUM tells of the job now, every register zero, at SYSENT or at its launch's
handler; one that handles a group in its active slot shares that slot (R56, R399 to R401, R428). -/
def Claims.TadpoleSpawns : Prop :=
  ∀ (s : State) (cu : Nat) (q : Spawn) (rest : List Spawn), (s.cu cu).spawnq = q :: rest →
    (if q.agent then (s.cu cu).agent = none else (s.cu cu).pool.length < 8) → q.tid ≠ s.env.nextId →
    let id := s.env.nextId
    ∃ u t, exec (.tadpoleSpawn cu) s = .next u ∧ (u.cu cu).spawnq = rest ∧
      (u.cu cu).pool = (if q.agent then (s.cu cu).pool else (s.cu cu).pool ++ [id]) ∧
      (u.cu cu).agent = (if q.agent then some id else (s.cu cu).agent) ∧
      u.thread id = some t ∧ t.kind = (if q.sys then .systemTadpole else .userTadpole) ∧ t.agent = q.agent ∧ t.noticeTad = q.notice ∧
      (q.sys = true → t.pc = (s.ctx q.ctx).sysent) ∧
      (∀ g l, q.sys = false → q.hasTid = true → s.thread q.tid = some g → s.launchOf g = some l → t.pc = BitVec.ofNat 64 l.lr.hpc) ∧
      (∀ g, q.hasTid = true → q.notice = false → q.agent = false → s.thread q.tid = some g → g.place = .active →
        t.place = .active ∧ t.aslot = g.aslot) ∧
      t.frec = q.fr ∧ t.tkind = ((q.tkind &&& ~~~32) ||| (if s.halting q.ctx then 32 else 0)) ∧
      t.target = (if q.hasTid then some q.tid else none) ∧ t.ctx = q.ctx ∧ t.cu = cu ∧
      t.barrel = q.barrel ∧ t.sreg = [] ∧ t.preg = [] ∧ t.vmap = [] ∧ t.fz = none ∧ u.mem = s.mem ∧
      (q.notice = true → ∀ g, s.thread q.tid = some g → u.thread q.tid = some { g with notice := 0 }) ∧
      ∀ j, j ≠ id → q.notice = false ∨ j ≠ q.tid → u.thread j = s.thread j

/-- WATCHDOG_EXPIRY: 2^24 main clocks without an instruction are the fault WDOG with FSYN 1 in a group and 2 in a tadpole; a
recognised wait and brumation start the count again (R424, R426). CODE_LINE_CRC_MISMATCH: the first mismatch fetches the line again
and is counted as corrected, the second is UCE at the instruction whose turn comes next (R36, R109, R423). -/
def Claims.WatchdogAndCodeLines : Prop :=
  ∀ (s : State) (tid : Nat) (t : Thread), s.thread tid = some t →
    let counts := t.fz = none ∧ (t.place = .active ∨ t.place = .pending)
    let rests := recognisedWait s tid t = true ∨ s.halting t.ctx = true
    (counts → rests → exec (.watchdogExpiry tid) s = .next (s.modThread tid fun u => { u with wdSince := s.cyc })) ∧
    (counts → ¬rests → t.wdSince + 16777216 ≤ s.cyc →
      exec (.watchdogExpiry tid) s = .next (takeFault s tid { cause := cWDOG, syn := if t.isGroup then 1 else 2 } t.pc)) ∧
    (¬counts ∨ (¬rests ∧ s.cyc < t.wdSince + 16777216) → exec (.watchdogExpiry tid) s = .next s) ∧
    ((nextTurn s).bind (inSlot s) = some (tid, t) →
      exec (.codeLineCrcMismatch false) s = .next (countAt s codeLinePlace) ∧
      exec (.codeLineCrcMismatch true) s = .next (takeFault s tid
        { cause := cUCE, syn := 0x10000, opd0 := t.pc, unit := some (funit 1 t.barrel) } t.pc))

/-- LANE_DEATH: the lanes leave EXM and every mask of the stack, are dead, and a notice with them is queued on the group's CU; the
group goes on. Errors in the other registers that R423 names mark those, and those that were corrected are counted (R36, R54, R423).
-/
def Claims.LaneDeathDropsLanes : Prop :=
  ∀ (s : State) (tid : Nat) (t : Thread) (lanes : Mask) (regs : List Nat) (n : Nat), s.thread tid = some t → t.isGroup = true → t.place ≠ .exited →
    let m := lanes &&& t.lmask &&& ~~~t.exited &&& ~~~t.deadm
    m ≠ 0 → (t.killLanes m).aliveLanes ≠ 0 → (s.ctx t.ctx).sysent ≠ 0 → (s.cu t.cu).spawnq = [] →
    ∃ u t' q, exec (.laneDeath tid { lanes := lanes, regs := regs, corrected := n }) s = .next u ∧ u.thread tid = some t' ∧ t'.deadm = (t.deadm ||| m) ∧ t'.exm &&& m = 0 ∧
      t'.exm &&& ~~~t.exm = 0 ∧ (∀ e ∈ t'.stack, e.d &&& m = 0 ∧ e.c &&& m = 0 ∧ e.p &&& m = 0) ∧ t'.pc = t.pc ∧ t'.fz = t.fz ∧
      (u.cu t.cu).spawnq = [q] ∧ q.notice = true ∧ q.tid = tid ∧ q.fr.cause = BitVec.ofNat 64 cUCE ∧ q.fr.lanes = m.setWidth 64 ∧
      ngetD u.mdl.corrected (placeCode .registerFile) 0 = ngetD s.mdl.corrected (placeCode .registerFile) 0 + n ∧
      (∀ r ∈ regs, mayCorrupt r = true → ¬(0x1C0 ≤ r ∧ r < 0x1D0) → r ∈ t'.corrupt) ∧
      u.mem = s.mem ∧ ∀ j, j ≠ tid → u.thread j = s.thread j

/-! ### Brumation -/

/-- HALT_WAVE stops every group of a partition where it stands and brings its contexts to the halting state; nothing else moves
(R367, R426). FIRST_TRIGGER_SETTLED, 4 µs after, shows the earliest trigger in each of them (R368, R427). BRUMATION_DRAINED, once
every context of the partition that runs here is drained and its trigger settled, halts them all and queues the partition's agent,
in the first of them with system code and a CU, on the CU of lowest handle that it holds (R398, R404, R426, R428). That a wave
reaches the contexts jobCtxs is the model's choice (log 33). -/
def Obligations.PartitionHalts : Prop :=
  ∀ (s : State) (key : Nat) (x : Trigger),
    (x ∈ (s.part key).waves → ∃ u, exec (.haltWave key x) s = .next u ∧ x ∉ (u.part key).waves ∧ (u.part key).haltAt.isSome = true ∧
      (∀ c ∈ jobCtxs s key, u.halting c = true) ∧
      (∀ tid t, s.thread tid = some t → t.isGroup = true → t.place ≠ .exited → inPart s key t = true →
        ∃ t' z, u.thread tid = some t' ∧ t'.fz = some z ∧ z.byBrum = true ∧ (∀ y, t.fz = some y → z.hold = y.hold ∧ z.fr = y.fr) ∧
          (t.fz = none → z.hold = false) ∧ t'.pc = t.pc ∧ t'.exm = t.exm ∧ t'.vmap = t.vmap ∧ t'.log = t.log) ∧
      (∀ tid t, s.thread tid = some t → t.isGroup = false ∨ inPart s key t = false → u.thread tid = some t) ∧ u.mem = s.mem) ∧
    (∀ h, (s.part key).haltAt = some h → (s.part key).first = some x → h + nsToClk 4000 ≤ s.env.clk →
      ∃ u, exec (.firstTriggerSettled key x) s = .next u ∧ u.thr = s.thr ∧ ∀ c ∈ haltingCtxs s key, (u.ctx c).settled = true ∧
        ((s.ctx c).settled = false →
          (u.ctx c).hcause = hcauseOf x ∧ (u.ctx c).hsrc = hsrcOf x ∧ (u.ctx c).htime = BitVec.ofNat 64 x.time)) ∧
    (∀ m c cu, (s.ctx m).key = key → (s.ctx m).state = 1 → (s.part key).haltAt.isSome = true → agentThere s key = false →
      (∀ d ∈ haltingCtxs s key, (s.ctx d).settled = true ∧ ((s.ctx d).state = 2 ∨ drained s d = true)) →
      (haltingCtxs s key).find? (fun d => decide ((s.ctx d).sysent ≠ 0) && (s.ctx d).cuh.any fun n => decide ((s.cu n).ctx = some d)) = some c →
      (s.ctx c).cuh.find? (fun n => decide ((s.cu n).ctx = some c)) = some cu →
      ∃ u q, exec (.brumationDrained m) s = .next u ∧ (∀ d ∈ haltingCtxs s key, (u.ctx d).state = 2) ∧ u.thr = s.thr ∧ u.mem = s.mem ∧ q ∈ (u.cu cu).spawnq ∧
        q.agent = true ∧ q.ctx = c ∧ q.sys = true ∧ q.fr.cause = BitVec.ofNat 64 cHALT)

/-- RESUME_AT_T: when a resume is asked for and every context of the partition may resume, T is 4 µs ahead and the contexts are
resuming; at T they run, and every group with disposition RUN leaves the frozen state at its own PC (R433, R434). RESUME_FAILURE:
100 ms after the request, without this module's acknowledgement, or once a member has become lost since, the failure is recorded and
the partition stays halted (R435); a request for a partition that is not halted is kept (R433). -/
def Obligations.PartitionResumes : Prop :=
  ∀ (s : State) (key : Nat),
    ((s.part key).resumeT = none → (s.part key).asked.isSome = true → mayAck s key = true →
      ∃ u, exec (.resumeAtT key) s = .next u ∧ (u.part key).resumeT = some (s.ns + 4000) ∧ u.thr = s.thr ∧ u.mem = s.mem ∧
        ∀ c ∈ haltingCtxs s key, (u.ctx c).state = 3) ∧
    (∀ at', (s.part key).resumeT = some at' → at' ≤ s.ns →
      (nkeys s.thr).Nodup →
      (∀ tid t, s.thread tid = some t → t.isGroup = true → t.place ≠ .exited → inPart s key t = true → t.aliveLanes ≠ 0) →
      ∃ u, exec (.resumeAtT key) s = .next u ∧ (∀ c ∈ haltingCtxs s key, (u.ctx c).state = 0) ∧ (u.part key).resumeT = none ∧
        (∀ tid t z, s.thread tid = some t → t.isGroup = true → t.place ≠ .exited → inPart s key t = true → t.fz = some z →
          (z.hold = false → ∃ t', u.thread tid = some t' ∧ t'.fz = none ∧ t'.pc = t.pc ∧ t'.exm = t.exm ∧
            t'.gen = (t.gen + 1) % 65536) ∧
          (z.hold = true → u.thread tid = some t)) ∧ u.mem = s.mem) ∧
    ((haltingCtxs s key = [] ∨ ∃ c ∈ haltingCtxs s key, (s.ctx c).state ≠ 2) → exec (.resumeFailure key) s = .next s) ∧
    (∀ since, (s.part key).asked = some since → (s.part key).resumeT = none →
      (since + nsToClk 100000000 ≤ s.env.clk ∧ mayAck s key = false) ∨ (s.part key).lost = true →
      haltingCtxs s key ≠ [] → (∀ c ∈ haltingCtxs s key, (s.ctx c).state = 2) →
      ∃ u, exec (.resumeFailure key) s = .next u ∧ (u.part key).asked = none ∧ u.thr = s.thr ∧ u.mem = s.mem ∧
        ∀ c ∈ haltingCtxs s key, (u.ctx c).brst = ((s.ctx c).brst ||| 8) ∧ (u.ctx c).state = 2)

/-! ### The host, start-up, lost tiles, time, the management interface -/

/-- A host read of the pool returns the sector that its port's agent may read, and asks for it otherwise; before MREADY it returns poison. A
host write that may be performed merges its enabled bytes and sends the sector home; one inside an enabled format window is discarded and
counted. A host snoop takes a line from the L2 that holds it, with its dirty data (R437 to R440, R451). -/
def Obligations.HostReachesMemory : Prop :=
  ∀ (s : State) (port addr : Nat) (en : BitVec 64) (data : List Byte), port < 4 → addr < 4032 * 2 ^ 30 → s.host.ops = [] →
    let a := 84 + port
    let sec := addr / 64
    let l := s.line a sec
    let there := s.mdl.mstatus.getLsbD 0 = true ∧ homeLost s addr = false
    (s.mdl.mstatus.getLsbD 0 = false → exec (.cxlMemRead port addr) s =
        .next { s with host := { s.host with reads := s.host.reads ++ [([], true)] } } ∧
      exec (.cxlMemWrite port addr en data) s = .next s) ∧
    (there → s.winOf sec = none → s.canRead a sec = true →
      ∃ u, exec (.cxlMemRead port addr) s = .next u ∧ u.host.reads = s.host.reads ++ [(l.data, l.poi)] ∧ u.host.ops = [] ∧
        u.mem.dram = s.mem.dram) ∧
    (there → s.winOf sec = none → s.canRead a sec = false →
      ∃ u, exec (.cxlMemRead port addr) s = .next u ∧ u.host.reads = s.host.reads ∧ u.host.ops.length = 1 ∧
        (nget u.mem.trans (l2key a sec)).isSome = true ∧ u.mem.dram = s.mem.dram) ∧
    (there → s.winOf sec = none → s.canWrite a sec = true → l.o = true → l.n ≠ 0 →
      ∃ u id m, exec (.cxlMemWrite port addr en data) s = .next u ∧ u.host.ops = [] ∧ nget u.mem.net id = some m ∧ m.kind = .wb ∧
        m.sector = sec ∧ m.cnt = l.n ∧ m.own = true ∧ m.dat = true ∧ m.data.length = 64 ∧
        (∀ i, i < 64 → m.data[i]? = some (if en.getLsbD i then (data[i]?).getD 0 else (l.data[i]?).getD 0)) ∧
        (u.line a sec).n = 0 ∧ u.mem.dram = s.mem.dram) ∧
    (there → (s.winOf sec).isSome = true → ∃ u, exec (.cxlMemWrite port addr en data) s = .next u ∧
      u.mem = { s.mem with portErr := nset s.mem.portErr port (ngetD s.mem.portErr port 0 + 1) } ∧ u.host = s.host) ∧
    (∀ line h, line < 2 ^ 46 → nget s.mem.hostLines (port * 2 ^ 46 + line) = some h → h.dirty = true → h.data.length = 64 →
      ∃ u, exec (.hostSnoop port line) s = .next u ∧ nget u.mem.hostLines (port * 2 ^ 46 + line) = none ∧
        Memory.bytes u.mem.hostMem (line * 64) 64 = h.data ∧
        ∀ b, b < line * 64 ∨ line * 64 + 64 ≤ b → Memory.byte u.mem.hostMem b = Memory.byte s.mem.hostMem b)

/-- MODULE_START reaches stage 8 with MREADY when no stage fails: every CU that passed its self-test is enabled and no other, memory
reads zero with every token at home, sectors that failed poisoned, every region has its offset, and nothing runs; a stage that fails
leaves FAIL with the stage and the tile, and no CU enabled (R18, R450 to R453). A thermal reset leaves the module before start-up,
and new firmware takes effect (R450, R455, R456). That memory reads zero after a failed stage and after a thermal reset is log 14,
and what a thermal reset keeps is log 34. -/
def Obligations.StartUpAndReset : Prop :=
  ∀ (s : State) (r : StartResult),
    let blank := fun (u : State) => u.thr = [] ∧ u.wgs = [] ∧ u.lch = [] ∧ u.ctxs = [] ∧ u.parts = [] ∧ u.mem.dram = [] ∧ u.mem.l2 = []
    (startFailure r = none → ∃ u, exec (.moduleStart r) s = .next u ∧ blank u ∧ u.mdl.mstatus = 0x81 ∧
      (∀ sec, u.smeta sec = { Meta.init with poi := decide (sec ∈ r.poisoned) }) ∧
      (∀ d, d < 84 → ngetD u.mdl.offset d 0 = (r.ofs[d]?).getD 0) ∧ (∀ d c, d < 84 → c < 64 →
        (u.cu (64 * d + c)).en = ((r.cum[d]?).getD 0).getLsbD c ∧ (u.cu (64 * d + c)).ret = false)) ∧
    (∀ stage tile, startFailure r = some (stage, tile) → ∃ u, exec (.moduleStart r) s = .next u ∧ blank u ∧
      u.mdl.mstatus = BitVec.ofNat 64 (tile * 256 + stage * 16 + 2) ∧ ∀ n, (u.cu n).en = false) ∧
    (∃ u, exec .thermalReset s = .next u ∧ blank u ∧ u.mdl.mstatus = 0 ∧ u.cus = [] ∧ u.mdl.fwCur = s.mdl.fwNew ∧
      u.mem.hostMem = s.mem.hostMem) ∧
    (∀ firmware, exec (.pldmFirmwareUpdate firmware) s = .next { s with mdl := { s.mdl with fwNew := firmware } })

/-- DIE_LOSS: the tile is lost, and a lost compute die's CUs, workgroups and tokens are gone; then every group that has not exited
of a context that touched the tile takes DIEL, one that is frozen or parked before its first instruction after that, and one that a
tadpole steps as its step's result (R21, R22, R298, R388, R412); that the die is cleared before the groups trap is log 18. DIE_RESET
of a memory tile returns it with its sectors zero and every token at home; of a compute die with at least 56 good CUs, with those
enabled (R23). HOST_PORT_LOSS takes the port's tokens and accesses (R298). -/
def Obligations.TilesAreLostAndReturn : Prop :=
  ∀ (s : State) (i : Nat), i < 84 → (∀ p ∈ s.thr, (s.ctx p.2.ctx).sysent ≠ 0) → (nkeys s.thr).Nodup →
    let diel := BitVec.ofNat 64 cDIEL
    let stays := fun (t : Thread) => ∀ g, s.wg t.wg = some g → dieOf g.cu ≠ i ∨ g.evicted = true
    let traps := fun (u : State) (tile : Nat) => ∀ tid t, s.thread tid = some t → t.isGroup = true → t.place ≠ .exited →
      (s.ctx t.ctx).tdm.getLsbD tile = true → tile = memoryTile i ∨ stays t →
      ∃ t', u.thread tid = some t' ∧ t'.pc = t.pc ∧
        (t.stepping = 0 → t.fz = none → t.place ≠ .parked → ∃ z, t'.fz = some z ∧ z.imp = true ∧ z.fr.cause = diel) ∧
        (t.stepping = 0 → t.fz ≠ none ∨ t.place = .parked → t'.fz = t.fz ∧ ∃ fr ∈ t'.postCause.toList ++ t'.postMore, fr.cause = diel) ∧
        (t.stepping ≠ 0 → t'.stepping = 3 ∧ t'.stepRes = cDIEL)
    (s.mdl.lostTiles.contains (memoryTile i) = false →
      (∃ u, exec (.dieLoss (memoryTile i)) s = .next u ∧ u.mdl.lostTiles = s.mdl.lostTiles ++ [memoryTile i] ∧ traps u (memoryTile i) ∧
        u.mem.dram = s.mem.dram) ∧
      (∀ cus offset, ∃ u, exec (.dieReset (memoryTile i) cus offset) s = .next u ∧ memoryTile i ∉ u.mdl.lostTiles ∧
        traps u (memoryTile i) ∧ ∀ sec, homeOf sec = i → u.smeta sec = Meta.init ∧
          ∀ b, b < 64 → Memory.byte u.mem.dram (64 * sec + b) = 0)) ∧
    (s.mdl.lostTiles.contains (computeTile i) = false → (∀ p ∈ s.thr, p.2.isGroup = true ∨ dieOf p.2.cu ≠ i) →
      (∀ w g tid t, s.wg w = some g → tid ∈ g.groups → s.thread tid = some t → t.wg = w) →
      (∃ u, exec (.dieLoss (computeTile i)) s = .next u ∧ computeTile i ∈ u.mdl.lostTiles ∧ traps u (computeTile i) ∧
        (∀ c, c < 64 → (u.cu (64 * i + c)).en = false) ∧ (∀ sec, sec < 2 ^ 80 → nget u.mem.l2 (l2key i sec) = none) ∧
        ∀ w g, s.wg w = some g → dieOf g.cu = i → g.evicted = false → ∃ g', u.wg w = some g' ∧ g'.killed = true) ∧
      (∀ cus offset, 56 ≤ onesOf cus → ∃ u, exec (.dieReset (computeTile i) cus offset) s = .next u ∧
        computeTile i ∉ u.mdl.lostTiles ∧ ∀ c, c < 64 → (s.cu (64 * i + c)).ret = false →
          (u.cu (64 * i + c)).en = cus.getLsbD c)) ∧
    (∀ port, port < 4 → s.mdl.lostTiles.contains (1084 + port) = false → ∃ u, exec (.hostPortLoss port false) s = .next u ∧
      (1084 + port) ∈ u.mdl.lostTiles ∧ (∀ o ∈ u.host.ops, o.port ≠ port) ∧
      ∀ sec, sec < 2 ^ 80 → nget u.mem.l2 (l2key (84 + port) sec) = none)

/-- TIME_CALIBRATION moves a region's offset by one tick toward what the measured residual asks for, a smaller one counting once the
count has gone on, so that no reading falls; and the module root's toward the time master's count. Neither moves twice in 256 ns,
nor while the root is lost. THROTTLE_TRIGGER sets THR to the step and the causes, and to zero without a cause (R15, R29, R370, R371,
R456). -/
def Claims.CalibrationAndThrottling : Prop :=
  ∀ (s : State),
    (∀ die (r want : Int), rootLost s = false → maySlew s die = true →
      (die < 84 ∧ maySlew s 84 = true ∧ want = max (-4) (min 4 r) - ngetD s.mdl.skew die 0) ∨
        (die = 84 ∧ timeMaster s ≠ s.mdl.number ∧ (List.range 84).all (maySlew s) = true ∧ want = offsetOf s 84 + r) →
      let now := offsetOf s die
      ∃ u, exec (.timeCalibration die r) s = .next u ∧ u.thr = s.thr ∧ u.mem = s.mem ∧
        (∀ d, d ≠ die → offsetOf u d = offsetOf s d) ∧
        offsetOf u die = (if now < want then now + 1 else now) ∧
        (want < now → ∀ n, s.raw < u.raw + n → offsetOf { u with mdl := { u.mdl with epoch := u.mdl.epoch + n } } die = now - 1) ∧
        (now ≠ want → ∀ r', exec (.timeCalibration die r') u = .next u)) ∧
    (∀ die r, rootLost s = true ∨ maySlew s die = false → exec (.timeCalibration die r) s = .next s) ∧
    (∀ step causes, exec (.throttleTrigger step causes) s = .next { s with mdl := { s.mdl with
      thr := if causes.toNat % 8 = 0 then 0 else BitVec.ofNat 64 (min 8 step.toNat + 16 * (causes.toNat % 8)) } })

/-- The responder answers each request once the first stage of start-up has begun, and is silent before; CHALLENGE and
GET_MEASUREMENTS end in a signature. Block 3 of the measurements is the digest of the configuration record once the module is ready
(R454). The answers' layout is another standard's (log 15), and a number that names no block gives none. -/
def Claims.ResponderAnswers : Prop :=
  ∀ (s : State) (slot offset length block : Nat) (algorithms nonce : List Byte),
    let part := fun (n : Nat) => leBytes 1 n ++ measurement s n
    let requests : List (Instr × List Byte × Bool) :=
      [(.getVersion, Config.spdmBody 0x04 [], false), (.getCapabilities, Config.spdmBody 0x61 [], false),
       (.negotiateAlgorithms algorithms, Config.spdmBody 0x63 algorithms, false), (.getDigests, Config.spdmBody 0x01 [], false),
       (.getCertificate slot offset length, Config.spdmBody 0x02 (leBytes 1 slot ++ leBytes 2 offset ++ leBytes 2 length), false),
       (.challenge slot nonce, Config.spdmBody 0x03 (leBytes 1 slot ++ nonce), true),
       (.getMeasurements block nonce, Config.spdmBody 0x60 (leBytes 1 block ++ nonce) ++
         (if 1 ≤ block ∧ block ≤ 4 then part block else if block = 255 then part 1 ++ part 2 ++ part 3 ++ part 4 else []), true)]
    ∀ q ∈ requests, ∃ u, exec q.1 s = .next u ∧ u.thr = s.thr ∧ u.mem = s.mem ∧
      (bits s.mdl.mstatus 7 4 = 0 → u.host.spdm = s.host.spdm) ∧
      (bits s.mdl.mstatus 7 4 ≠ 0 → ∃ sig, u.host.spdm = s.host.spdm ++ [q.2.1 ++ sig] ∧ sig.length = (if q.2.2 then 96 else 0)) ∧
      (s.mdl.mstatus.getLsbD 0 = true → measurement s 3 = exactly 48 (Config.sha384 s.mdl.config))

/-! ### Faults, translation, reset, memory -/

/-- A step whose turn finds no form to execute freezes or ends the thread with the precise fault: a fetch that fails with the fault
that the fetch names, a word that does not decode with IENC, a form that the code may not run with PRIV, and one that reads a
scalar, workgroup or predicate register with an uncorrectable error, or whose group has one in a mask or its stack, with UCE (R109,
R123 to R125, R397, R422, R423). -/
def Claims.StepTakesFrontFaults : Prop :=
  ∀ (s : State) (k tid : Nat) (t : Thread), HasTurn s k tid t → t.shadowOk = true →
    let s' := atTurn s k tid t
    let falls := fun (x : Trap) => step s = .next (takeFault s' tid x t.pc)
    (∀ x, fetchAt s' t.cu t.ctx t.pc = .trap x → falls x) ∧
    (∀ w r c, fetchAt s' t.cu t.ctx t.pc = .word w → decode t.kind w = .illegal r c → falls (wordTrap cIENC (iencFsyn r c) w)) ∧
    (∀ w i n, fetchAt s' t.cu t.ctx t.pc = .word w → decode t.kind w = .instr i → privSyn t.kind (opcOf w) (fieldsOf w) = some n →
      falls (wordTrap cPRIV n w)) ∧
    (∀ w i, fetchAt s' t.cu t.ctx t.pc = .word w → decode t.kind w = .instr i → privSyn t.kind (opcOf w) (fieldsOf w) = none →
      t.blk = none → readsCorrupt s' tid t (opcOf w) (fieldsOf w) = true →
      falls { cause := cUCE, syn := 0x20000, unit := some (funit 3 t.barrel) })

/-- Taking a fault: a group freezes at its resume PC with a record of the cause, its PC, EXM and the operands that the fault names,
every register as it was, and a tadpole is queued on its CU, a system tadpole where its launch has no handler; a fault in a user
tadpole ends it and puts a system tadpole with SYS and NEST set and the old cause in OCAUSE at the head of the queue. That FCAP of
that tadpole is what the user tadpole's was is log 21 (R396 to R401, R403). -/
def Obligations.TakingAFault : Prop :=
  ∀ (s : State) (tid : Nat) (t : Thread) (x : Trap) (resume : Word64), s.thread tid = some t → (s.ctx t.ctx).sysent ≠ 0 →
    let u := takeFault s tid x resume
    (t.kind = .group → t.stepping = 0 → x.cause ≠ cBKPT → x.cause ≠ cMISAL → x.cause ≠ cDIEL → x.cause < 256 →
      (∀ l, s.launchOf t = some l → l.lr.haltm.testBit x.cause = false) →
      ∃ t' z q, u.thread tid = some t' ∧ t'.fz = some z ∧ t'.pc = resume ∧ z.byFault = true ∧ z.hold = false ∧ z.imp = x.imp ∧
        z.fr.cause = BitVec.ofNat 64 x.cause ∧ z.fr.fpc = x.fpc.getD t.pc ∧ z.fr.fmask = t.exm.setWidth 64 ∧ z.fr.lanes = x.lanes ∧
        z.fr.opd0 = x.opd0 ∧ z.fr.opd1 = x.opd1 ∧ z.fr.syn = x.syn ∧ z.fr.time = s.globalTime (dieOf t.cu) ∧
        t'.vmap = t.vmap ∧ t'.sreg = t.sreg ∧ t'.preg = t.preg ∧ t'.exm = t.exm ∧ t'.stack = t.stack ∧ t'.log = t.log ∧
        t'.place = t.place ∧ t'.gen = t.gen ∧ q ∈ (u.cu t.cu).spawnq ∧ q.tid = tid ∧ q.fr = z.fr ∧ q.ctx = t.ctx ∧
        q.tkind.getLsbD 0 = q.sys ∧ q.tkind.getLsbD 1 = false ∧ q.tkind.getLsbD 4 = x.imp ∧
        q.sys = decide (((s.launchOf t).map (·.lr.hpc)).getD 0 = 0) ∧ (∀ j, j ≠ tid → u.thread j = s.thread j) ∧ u.mem = s.mem) ∧
    (t.kind = .userTadpole → (∀ b, t.blk = some b → b.stage ≠ stepWait ∧ b.stage ≠ stepRun) → ∃ q rest, u.thread tid = none ∧ (u.cu t.cu).spawnq = q :: rest ∧ rest = (s.cu t.cu).spawnq ∧
      q.sys = true ∧ q.tkind.getLsbD 0 = true ∧ q.tkind.getLsbD 1 = true ∧ bits q.tkind 15 8 = bits t.frec.cause 7 0 ∧ q.fr.cause = BitVec.ofNat 64 x.cause ∧ q.fr.fpc = x.fpc.getD t.pc ∧
      q.fr.cap = t.frec.cap ∧ tid ∉ (u.cu t.cu).pool ∧ (∀ j, j ≠ tid → u.thread j = s.thread j) ∧ u.mem = s.mem)

/-- Translation by a context whose range table holds one entry: an address of a plain range of no home set lies at the same offset
from PBASE, in the pool or in host memory; one outside the range, or of an entry that is not valid, does not translate (R443 to
R445). -/
def Obligations.TranslationOfOneRange : Prop :=
  ∀ (s : State) (c va : Nat), bits (s.ctx c).rtcnt 16 0 = 1 →
    let e := rangeEntry s (s.ctx c) 0
    let off := va / 4096 - reVbase e
    let page := rePbase e + off
    (reCovers e (va / 4096) = false ∨ reValid s e = false → walk s c va = none) ∧
    (reCovers e (va / 4096) = true → reValid s e = true → reKind e = 2 → walk s c va = some ⟨e, page * 4096 + va % 4096⟩) ∧
    (reCovers e (va / 4096) = true → reValid s e = true → reKind e = 0 → reHset e = 0 →
      walk s c va = if page * 4096 < 4032 * 2 ^ 30 then some ⟨e, page * 4096 + va % 4096⟩ else none)

/-- Reset leaves the module before its start-up: no thread, workgroup, launch or message, no CU enabled, MSTATUS zero, memory in
canonical form reading zero at every address, and every sector with all 8 tokens at home (R39, R289, R450, R452). The values are
those of the manual's start-up, which has not run yet; that memory nothing has written reads zero there is the model's choice (logs
14, 17). -/
def Obligations.ResetState : Prop :=
  let s := State.reset
  s.thr = [] ∧ s.wgs = [] ∧ s.lch = [] ∧ s.mem.net = [] ∧ s.mem.l2 = [] ∧ (∀ n, (s.cu n).en = false) ∧ s.mdl.mstatus = 0 ∧
    (∀ a, Memory.byte s.mem.dram a = 0 ∧ Memory.byte s.mem.hostMem a = 0) ∧ (∀ sec, s.smeta sec = Meta.init) ∧ s.memOk

/-- Every step keeps the byte memories in their one canonical form: the pool, host memory, and every scratchpad and tile store. -/
def Obligations.StepKeepsMemoryCanonical : Prop := ∀ s u : State, s.memOk → step s = .next u → u.memOk

/-! ### Claims that belong together -/

/-- A step runs what stands before it: the form at the PC of the thread whose turn it is, the precise fault where there is none to run,
or the event that the agenda holds (R69 to R71, R109, R123 to R125, R397, R422, R423; log 1). -/
def Obligations.StepRunsAnEventOrAForm : Prop := Claims.StepRunsDecodedForm ∧ Claims.StepTakesFrontFaults ∧ Claims.StepRunsAgendaEvent

/-- The scalar forms' results (R116, R121, R138, R181 to R183). -/
def Obligations.ScalarResults : Prop := Claims.ScalarArithmeticResults ∧ Claims.ScalarBitResults ∧ Claims.ScalarCompareMoveAddress

/-- The integer vector forms' results (R59, R184, R187 to R189). -/
def Obligations.VectorIntegerResults : Prop := Claims.VectorArithmeticResults ∧ Claims.VectorBitResults ∧ Claims.VectorOtherResults

/-- The floating-point forms' results and flags (R141, R143, R147, R149, R151, R190 to R193, R195, R196). -/
def Obligations.FloatResults : Prop := Claims.SingleFloatResults ∧ Claims.PackedFloatResults ∧ Claims.FloatCompareAndConvert

/-- The forms that act across lanes (R197 to R204). -/
def Obligations.CrossLaneResults : Prop := Claims.ExchangeResults ∧ Claims.VoteReduceScanPredicates

/-- The register budget, and forms without a live lane (R46, R53, R59, R105, R116, R160). -/
def Obligations.BudgetAndEmptyLive : Prop := Claims.BudgetTrap ∧ Claims.EmptyLiveRetires

/-- Transfers of the PC, to a good target and to a bad one (R51, R111, R159, R162, R164, R165, R175). -/
def Obligations.ControlTransfers : Prop := Claims.NopRetires ∧ Claims.TransfersMoveThePc ∧ Claims.BadTargetFaults

/-- Divergence, reconvergence and exit (R48, R49, R51, R163, R166, R175). -/
def Obligations.DivergenceStack : Prop := Claims.BranchDivergeSplits ∧ Claims.JoinSwitchesOrPops ∧ Claims.ExitEndsLanes

/-- Counters and barriers (R63, R88, R168 to R171). -/
def Obligations.BarriersAndCounters : Prop := Claims.WaitsUntilCountersFall ∧ Claims.BarArrivesThenRetires ∧ Claims.BarrierPhaseEnds

/-- Reads and writes of machine registers (R44, R52, R63, R127 to R129, R148, R149, R160, R173 to R175, R179, R180, R228, R259). -/
def Obligations.MachineRegisters : Prop := Claims.ReadsOfMachineRegisters ∧ Claims.WritesOfMachineRegisters

/-- The signature check, and the forms that freeze their group (R160, R175 to R178, R396, R398, R403). -/
def Obligations.SignatureAndTraps : Prop := Claims.SignatureCheck ∧ Claims.BreakpointAndTrapFreeze

/-- Tiles, what their store holds, and the ends of batches (R36, R167, R206 to R209, R214, R229). -/
def Obligations.TilesAndBatches : Prop := Claims.TileAllocation ∧ Claims.BatchEndsOpenOperations ∧ Claims.TileStoreThenRows ∧ Claims.TileStoreErrorFaults

/-- Matrix operations from issue to completion (R212 to R214, R217, R218, R223, R224). -/
def Obligations.MatrixOperations : Prop := Claims.MatrixFormsEnterTheQueue ∧ Claims.MatrixOperationCompletes

/-- Accesses at their issue (R47, R53, R97, R99, R100, R105, R167, R233, R236 to R240, R248, R256, R341, R343, R403). -/
def Obligations.AccessIssue : Prop := Claims.AccessEntersTheLog ∧ Claims.MisalignedAccessFaults ∧ Claims.FabricFailureIsReported

/-- Accesses as they are performed (R75, R85, R100, R101, R234, R238, R240, R256, R403). -/
def Obligations.ScratchAccesses : Prop := Claims.ScratchStoreCompletes ∧ Claims.ScratchLoadCompletes ∧ Claims.AccessFaultFreezes

/-- Monitors, sleep and locks (R251, R255). -/
def Obligations.MonitorsAndLocks : Prop := Claims.MonitorSleepEnds ∧ Claims.SleepAndLockTimesPass

/-- Copy commands from issue to completion (R167, R226, R257 to R259, R261 to R263, R265, R272 to R274). -/
def Obligations.CopyCommands : Prop := Claims.CopyCommandEntersTheRing ∧ Claims.CopyCommandsRunAndEnd

/-- Phase counters (R226, R280 to R285). -/
def Obligations.PhaseCounters : Prop := Claims.PhaseCountersArrive ∧ Claims.PhaseCountersAreAwaited

/-- Faults of the copy and fabric engines (R276, R344). -/
def Obligations.EngineFaultsHold : Prop := Claims.CopyEngineFaultHolds ∧ Claims.FabricEngineFaultHolds

/-- The fabric forms at issue (R167, R285, R319 to R322, R328 to R331, R343). -/
def Obligations.FabricForms : Prop := Claims.MailboxesOpenAndClose ∧ Claims.FabricCommandEnters ∧ Claims.FabricStatusRead

/-- The forms of the tree (R353 to R364). -/
def Obligations.TreeBarriersAndHalt : Prop := Claims.TreeBarrierForms ∧ Claims.ExcuseAndHalt

/-- The forms of the work engine (R379 to R381, R389 to R391, R393). -/
def Obligations.WorkForms : Prop := Claims.DeviceLaunchIsBuffered ∧ Claims.QueueTokens ∧ Claims.WorkLists

/-- Capabilities and frozen groups (R404, R405, R414). -/
def Obligations.Capabilities : Prop := Claims.CapabilityChecks ∧ Claims.FrozenGroupsAreListed

/-- A tadpole reads and patches a frozen group (R237, R406 to R411). -/
def Obligations.FrozenState : Prop := Claims.FrozenStateIsReadAndPatched ∧ Claims.FrozenLogIsReadAndCompleted

/-- A frozen group is resumed, killed or stepped (R111, R397, R405, R406, R412, R413). -/
def Obligations.FrozenGroupsEnd : Prop := Claims.FrozenGroupsGoOnOrEnd ∧ Claims.SingleStep

/-- Module registers and lookaside buffers by system tadpoles (R402, R415 to R418, R443, R447, R448). -/
def Obligations.SystemForms : Prop := Claims.ModuleRegistersByTadpoles ∧ Claims.LookasideInvalidation

/-- CTXSV, CTXLD and CURET are forms of context 0's tadpoles, and its system code gets one by a TRAP (R125, R178, R399, R416). -/
def Obligations.ContextZeroForms : Prop := Claims.ContextZeroPrivilege ∧ Claims.SystemCodeTraps

/-- Saving, restoring and resuming contexts, and retiring a CU (R416, R420, R431 to R433). -/
def Obligations.ContextForms : Prop := Claims.ContextsAreSavedAndRestored ∧ Claims.ResumeRequestAndCuRetirement

/-- Messages at a home (R289 to R299, R309). -/
def Obligations.HomeServes : Prop := Claims.HomeServesMessages ∧ Claims.ServedEntryEnds

/-- Scrubbing, and format windows (R305 to R309). -/
def Obligations.ScrubAndWindows : Prop := Claims.ScrubbingRepairsOrPoisons ∧ Claims.FormatWindows

/-- Multicast groups and the first switch (R336 to R339). -/
def Obligations.SwitchAndGroups : Prop := Claims.SwitchReplicatesAndReduces ∧ Claims.GroupCommit

/-- What the passing of time does on the fabric (R313, R314, R323, R339, R345, R346, R424). -/
def Obligations.FabricTime : Prop := Claims.FabricTimeAndPeers ∧ Claims.CountingEndsAfterWait

/-- Active slots, parking and waking (R62, R69, R72, R373, R385 to R387). -/
def Obligations.Residence : Prop := Claims.SlotsAreSwapped ∧ Claims.GroupsParkAndWake

/-- Events of the fault sequencer (R36, R54, R56, R109, R399 to R401, R423, R424, R426, R428). -/
def Obligations.FaultSequencer : Prop := Claims.TadpoleSpawns ∧ Claims.WatchdogAndCodeLines ∧ Claims.LaneDeathDropsLanes

/-- Calibration, throttling and the responder (R15, R29, R370, R371, R454, R456). -/
def Obligations.TimeAndManagement : Prop := Claims.CalibrationAndThrottling ∧ Claims.ResponderAnswers

end
end

