-- ==== Sys2Proof/Laws/Exec.lean ====
section
/-! SUPPORT. The meaning of each step by name: one equation for each constructor, so that no proof unfolds the dispatch. -/

namespace Sys2Proof.Machine

theorem exec_nop (f : Fields) (s : State) : exec (.nop f) s = execNop f s := rfl
theorem exec_bra (f : Fields) (s : State) : exec (.bra f) s = execBra f s := rfl
theorem exec_brc (f : Fields) (s : State) : exec (.brc f) s = execBrc f s := rfl
theorem exec_brd (f : Fields) (s : State) : exec (.brd f) s = execBrd f s := rfl
theorem exec_join (f : Fields) (s : State) : exec (.join f) s = execJoin f s := rfl
theorem exec_call (f : Fields) (s : State) : exec (.call f) s = execCall f s := rfl
theorem exec_ret (f : Fields) (s : State) : exec (.ret f) s = execRet f s := rfl
theorem exec_bri (f : Fields) (s : State) : exec (.bri f) s = execBri f s := rfl
theorem exec_exit (f : Fields) (s : State) : exec (.exit f) s = execExit f s := rfl
theorem exec_yield (f : Fields) (s : State) : exec (.yield f) s = execYield f s := rfl
theorem exec_wait (f : Fields) (s : State) : exec (.wait f) s = execWait f s := rfl
theorem exec_waitb (f : Fields) (s : State) : exec (.waitb f) s = execWaitb f s := rfl
theorem exec_bar (f : Fields) (s : State) : exec (.bar f) s = execBar f s := rfl
theorem exec_exmrd (f : Fields) (s : State) : exec (.exmrd f) s = execExmrd f s := rfl
theorem exec_exmwr (f : Fields) (s : State) : exec (.exmwr f) s = execExmwr f s := rfl
theorem exec_rdsr (f : Fields) (s : State) : exec (.rdsr f) s = execRdsr f s := rfl
theorem exec_wrsr (f : Fields) (s : State) : exec (.wrsr f) s = execWrsr f s := rfl
theorem exec_sigchk (f : Fields) (s : State) : exec (.sigchk f) s = execSigchk f s := rfl
theorem exec_bkpt (f : Fields) (s : State) : exec (.bkpt f) s = execBkpt f s := rfl
theorem exec_trap (f : Fields) (s : State) : exec (.trap f) s = execTrap f s := rfl
theorem exec_rdtimeL (f : Fields) (s : State) : exec (.rdtimeL f) s = execRdtimeL f s := rfl
theorem exec_rdtimeG (f : Fields) (s : State) : exec (.rdtimeG f) s = execRdtimeG f s := rfl
theorem exec_rdband (f : Fields) (s : State) : exec (.rdband f) s = execRdband f s := rfl
theorem exec_sadd (f : Fields) (s : State) : exec (.sadd f) s = execSadd f s := rfl
theorem exec_ssub (f : Fields) (s : State) : exec (.ssub f) s = execSsub f s := rfl
theorem exec_smul (f : Fields) (s : State) : exec (.smul f) s = execSmul f s := rfl
theorem exec_smulh (f : Fields) (s : State) : exec (.smulh f) s = execSmulh f s := rfl
theorem exec_smad (f : Fields) (s : State) : exec (.smad f) s = execSmad f s := rfl
theorem exec_sand (f : Fields) (s : State) : exec (.sand f) s = execSand f s := rfl
theorem exec_sor (f : Fields) (s : State) : exec (.sor f) s = execSor f s := rfl
theorem exec_sxor (f : Fields) (s : State) : exec (.sxor f) s = execSxor f s := rfl
theorem exec_sshl (f : Fields) (s : State) : exec (.sshl f) s = execSshl f s := rfl
theorem exec_sshr (f : Fields) (s : State) : exec (.sshr f) s = execSshr f s := rfl
theorem exec_ssar (f : Fields) (s : State) : exec (.ssar f) s = execSsar f s := rfl
theorem exec_smin (f : Fields) (s : State) : exec (.smin f) s = execSmin f s := rfl
theorem exec_smax (f : Fields) (s : State) : exec (.smax f) s = execSmax f s := rfl
theorem exec_scmp (f : Fields) (s : State) : exec (.scmp f) s = execScmp f s := rfl
theorem exec_ssel (f : Fields) (s : State) : exec (.ssel f) s = execSsel f s := rfl
theorem exec_smov (f : Fields) (s : State) : exec (.smov f) s = execSmov f s := rfl
theorem exec_smovi (f : Fields) (s : State) : exec (.smovi f) s = execSmovi f s := rfl
theorem exec_slea (f : Fields) (s : State) : exec (.slea f) s = execSlea f s := rfl
theorem exec_sclz (f : Fields) (s : State) : exec (.sclz f) s = execSclz f s := rfl
theorem exec_spop (f : Fields) (s : State) : exec (.spop f) s = execSpop f s := rfl
theorem exec_sbfe (f : Fields) (s : State) : exec (.sbfe f) s = execSbfe f s := rfl
theorem exec_sbfi (f : Fields) (s : State) : exec (.sbfi f) s = execSbfi f s := rfl
theorem exec_vadd (f : Fields) (s : State) : exec (.vadd f) s = execVadd f s := rfl
theorem exec_vsub (f : Fields) (s : State) : exec (.vsub f) s = execVsub f s := rfl
theorem exec_vmul (f : Fields) (s : State) : exec (.vmul f) s = execVmul f s := rfl
theorem exec_vmulh (f : Fields) (s : State) : exec (.vmulh f) s = execVmulh f s := rfl
theorem exec_vmad (f : Fields) (s : State) : exec (.vmad f) s = execVmad f s := rfl
theorem exec_vmadw (f : Fields) (s : State) : exec (.vmadw f) s = execVmadw f s := rfl
theorem exec_vaddc (f : Fields) (s : State) : exec (.vaddc f) s = execVaddc f s := rfl
theorem exec_vand (f : Fields) (s : State) : exec (.vand f) s = execVand f s := rfl
theorem exec_vor (f : Fields) (s : State) : exec (.vor f) s = execVor f s := rfl
theorem exec_vxor (f : Fields) (s : State) : exec (.vxor f) s = execVxor f s := rfl
theorem exec_vshl (f : Fields) (s : State) : exec (.vshl f) s = execVshl f s := rfl
theorem exec_vshr (f : Fields) (s : State) : exec (.vshr f) s = execVshr f s := rfl
theorem exec_vsar (f : Fields) (s : State) : exec (.vsar f) s = execVsar f s := rfl
theorem exec_vmin (f : Fields) (s : State) : exec (.vmin f) s = execVmin f s := rfl
theorem exec_vmax (f : Fields) (s : State) : exec (.vmax f) s = execVmax f s := rfl
theorem exec_vabs (f : Fields) (s : State) : exec (.vabs f) s = execVabs f s := rfl
theorem exec_vcmp (f : Fields) (s : State) : exec (.vcmp f) s = execVcmp f s := rfl
theorem exec_vsel (f : Fields) (s : State) : exec (.vsel f) s = execVsel f s := rfl
theorem exec_vmov (f : Fields) (s : State) : exec (.vmov f) s = execVmov f s := rfl
theorem exec_vmovi (f : Fields) (s : State) : exec (.vmovi f) s = execVmovi f s := rfl
theorem exec_vbfe (f : Fields) (s : State) : exec (.vbfe f) s = execVbfe f s := rfl
theorem exec_vbfi (f : Fields) (s : State) : exec (.vbfi f) s = execVbfi f s := rfl
theorem exec_vclz (f : Fields) (s : State) : exec (.vclz f) s = execVclz f s := rfl
theorem exec_vpop (f : Fields) (s : State) : exec (.vpop f) s = execVpop f s := rfl
theorem exec_vbrev (f : Fields) (s : State) : exec (.vbrev f) s = execVbrev f s := rfl
theorem exec_fadd (f : Fields) (s : State) : exec (.fadd f) s = execFadd f s := rfl
theorem exec_fsub (f : Fields) (s : State) : exec (.fsub f) s = execFsub f s := rfl
theorem exec_fmul (f : Fields) (s : State) : exec (.fmul f) s = execFmul f s := rfl
theorem exec_ffma (f : Fields) (s : State) : exec (.ffma f) s = execFfma f s := rfl
theorem exec_fmin (f : Fields) (s : State) : exec (.fmin f) s = execFmin f s := rfl
theorem exec_fmax (f : Fields) (s : State) : exec (.fmax f) s = execFmax f s := rfl
theorem exec_fcmp (f : Fields) (s : State) : exec (.fcmp f) s = execFcmp f s := rfl
theorem exec_fclass (f : Fields) (s : State) : exec (.fclass f) s = execFclass f s := rfl
theorem exec_fdiv (f : Fields) (s : State) : exec (.fdiv f) s = execFdiv f s := rfl
theorem exec_fsqrt (f : Fields) (s : State) : exec (.fsqrt f) s = execFsqrt f s := rfl
theorem exec_frcp (f : Fields) (s : State) : exec (.frcp f) s = execFrcp f s := rfl
theorem exec_frsq (f : Fields) (s : State) : exec (.frsq f) s = execFrsq f s := rfl
theorem exec_fexp2 (f : Fields) (s : State) : exec (.fexp2 f) s = execFexp2 f s := rfl
theorem exec_flog2 (f : Fields) (s : State) : exec (.flog2 f) s = execFlog2 f s := rfl
theorem exec_ftanh (f : Fields) (s : State) : exec (.ftanh f) s = execFtanh f s := rfl
theorem exec_hadd2 (f : Fields) (s : State) : exec (.hadd2 f) s = execHadd2 f s := rfl
theorem exec_hmul2 (f : Fields) (s : State) : exec (.hmul2 f) s = execHmul2 f s := rfl
theorem exec_hfma2 (f : Fields) (s : State) : exec (.hfma2 f) s = execHfma2 f s := rfl
theorem exec_hmax2 (f : Fields) (s : State) : exec (.hmax2 f) s = execHmax2 f s := rfl
theorem exec_hmin2 (f : Fields) (s : State) : exec (.hmin2 f) s = execHmin2 f s := rfl
theorem exec_cvt (f : Fields) (s : State) : exec (.cvt f) s = execCvt f s := rfl
theorem exec_fxcvt (f : Fields) (s : State) : exec (.fxcvt f) s = execFxcvt f s := rfl
theorem exec_fxtof (f : Fields) (s : State) : exec (.fxtof f) s = execFxtof f s := rfl
theorem exec_qswp (f : Fields) (s : State) : exec (.qswp f) s = execQswp f s := rfl
theorem exec_qbc (f : Fields) (s : State) : exec (.qbc f) s = execQbc f s := rfl
theorem exec_shfl (f : Fields) (s : State) : exec (.shfl f) s = execShfl f s := rfl
theorem exec_vote (f : Fields) (s : State) : exec (.vote f) s = execVote f s := rfl
theorem exec_gred (f : Fields) (s : State) : exec (.gred f) s = execGred f s := rfl
theorem exec_gscan (f : Fields) (s : State) : exec (.gscan f) s = execGscan f s := rfl
theorem exec_plop (f : Fields) (s : State) : exec (.plop f) s = execPlop f s := rfl
theorem exec_pmov (f : Fields) (s : State) : exec (.pmov f) s = execPmov f s := rfl
theorem exec_mtalloc (f : Fields) (s : State) : exec (.mtalloc f) s = execMtalloc f s := rfl
theorem exec_mtfree (f : Fields) (s : State) : exec (.mtfree f) s = execMtfree f s := rfl
theorem exec_mzero (f : Fields) (s : State) : exec (.mzero f) s = execMzero f s := rfl
theorem exec_mma (f : Fields) (s : State) : exec (.mma f) s = execMma f s := rfl
theorem exec_mloop (f : Fields) (s : State) : exec (.mloop f) s = execMloop f s := rfl
theorem exec_mwracc (f : Fields) (s : State) : exec (.mwracc f) s = execMwracc f s := rfl
theorem exec_mdrain (f : Fields) (s : State) : exec (.mdrain f) s = execMdrain f s := rfl
theorem exec_mdrainq (f : Fields) (s : State) : exec (.mdrainq f) s = execMdrainq f s := rfl
theorem exec_mbatch (f : Fields) (s : State) : exec (.mbatch f) s = execMbatch f s := rfl
theorem exec_ld (f : Fields) (s : State) : exec (.ld f) s = execLd f s := rfl
theorem exec_st (f : Fields) (s : State) : exec (.st f) s = execSt f s := rfl
theorem exec_ldu (f : Fields) (s : State) : exec (.ldu f) s = execLdu f s := rfl
theorem exec_stu (f : Fields) (s : State) : exec (.stu f) s = execStu f s := rfl
theorem exec_lda (f : Fields) (s : State) : exec (.lda f) s = execLda f s := rfl
theorem exec_stl (f : Fields) (s : State) : exec (.stl f) s = execStl f s := rfl
theorem exec_atom (f : Fields) (s : State) : exec (.atom f) s = execAtom f s := rfl
theorem exec_red (f : Fields) (s : State) : exec (.red f) s = execRed f s := rfl
theorem exec_fence (f : Fields) (s : State) : exec (.fence f) s = execFence f s := rfl
theorem exec_pref (f : Fields) (s : State) : exec (.pref f) s = execPref f s := rfl
theorem exec_lnlk (f : Fields) (s : State) : exec (.lnlk f) s = execLnlk f s := rfl
theorem exec_lnul (f : Fields) (s : State) : exec (.lnul f) s = execLnul f s := rfl
theorem exec_lnwb (f : Fields) (s : State) : exec (.lnwb f) s = execLnwb f s := rfl
theorem exec_lndrop (f : Fields) (s : State) : exec (.lndrop f) s = execLndrop f s := rfl
theorem exec_marm (f : Fields) (s : State) : exec (.marm f) s = execMarm f s := rfl
theorem exec_mslp (f : Fields) (s : State) : exec (.mslp f) s = execMslp f s := rfl
theorem exec_cpyq (f : Fields) (s : State) : exec (.cpyq f) s = execCpyq f s := rfl
theorem exec_phinit (f : Fields) (s : State) : exec (.phinit f) s = execPhinit f s := rfl
theorem exec_pharr (f : Fields) (s : State) : exec (.pharr f) s = execPharr f s := rfl
theorem exec_phwait (f : Fields) (s : State) : exec (.phwait f) s = execPhwait f s := rfl
theorem exec_phtest (f : Fields) (s : State) : exec (.phtest f) s = execPhtest f s := rfl
theorem exec_bxsend (f : Fields) (s : State) : exec (.bxsend f) s = execBxsend f s := rfl
theorem exec_bxget (f : Fields) (s : State) : exec (.bxget f) s = execBxget f s := rfl
theorem exec_bxmc (f : Fields) (s : State) : exec (.bxmc f) s = execBxmc f s := rfl
theorem exec_bxred (f : Fields) (s : State) : exec (.bxred f) s = execBxred f s := rfl
theorem exec_bxflag (f : Fields) (s : State) : exec (.bxflag f) s = execBxflag f s := rfl
theorem exec_mboxreg (f : Fields) (s : State) : exec (.mboxreg f) s = execMboxreg f s := rfl
theorem exec_mboxrel (f : Fields) (s : State) : exec (.mboxrel f) s = execMboxrel f s := rfl
theorem exec_fabst (f : Fields) (s : State) : exec (.fabst f) s = execFabst f s := rfl
theorem exec_tbjoin (f : Fields) (s : State) : exec (.tbjoin f) s = execTbjoin f s := rfl
theorem exec_tbwait (f : Fields) (s : State) : exec (.tbwait f) s = execTbwait f s := rfl
theorem exec_tbtest (f : Fields) (s : State) : exec (.tbtest f) s = execTbtest f s := rfl
theorem exec_tbexc (f : Fields) (s : State) : exec (.tbexc f) s = execTbexc f s := rfl
theorem exec_haltj (f : Fields) (s : State) : exec (.haltj f) s = execHaltj f s := rfl
theorem exec_launch (f : Fields) (s : State) : exec (.launch f) s = execLaunch f s := rfl
theorem exec_qtokSig (f : Fields) (s : State) : exec (.qtokSig f) s = execQtokSig f s := rfl
theorem exec_qtokGet (f : Fields) (s : State) : exec (.qtokGet f) s = execQtokGet f s := rfl
theorem exec_qtokReset (f : Fields) (s : State) : exec (.qtokReset f) s = execQtokReset f s := rfl
theorem exec_wlapp (f : Fields) (s : State) : exec (.wlapp f) s = execWlapp f s := rfl
theorem exec_wltake (f : Fields) (s : State) : exec (.wltake f) s = execWltake f s := rfl
theorem exec_wlstat (f : Fields) (s : State) : exec (.wlstat f) s = execWlstat f s := rfl
theorem exec_fzrd (f : Fields) (s : State) : exec (.fzrd f) s = execFzrd f s := rfl
theorem exec_fzwr (f : Fields) (s : State) : exec (.fzwr f) s = execFzwr f s := rfl
theorem exec_fzpc (f : Fields) (s : State) : exec (.fzpc f) s = execFzpc f s := rfl
theorem exec_fzmask (f : Fields) (s : State) : exec (.fzmask f) s = execFzmask f s := rfl
theorem exec_fzlogRd (f : Fields) (s : State) : exec (.fzlogRd f) s = execFzlogRd f s := rfl
theorem exec_fzlogReg (f : Fields) (s : State) : exec (.fzlogReg f) s = execFzlogReg f s := rfl
theorem exec_fzlogPut (f : Fields) (s : State) : exec (.fzlogPut f) s = execFzlogPut f s := rfl
theorem exec_fzlogDone (f : Fields) (s : State) : exec (.fzlogDone f) s = execFzlogDone f s := rfl
theorem exec_fzlane (f : Fields) (s : State) : exec (.fzlane f) s = execFzlane f s := rfl
theorem exec_fzstep (f : Fields) (s : State) : exec (.fzstep f) s = execFzstep f s := rfl
theorem exec_fzres (f : Fields) (s : State) : exec (.fzres f) s = execFzres f s := rfl
theorem exec_fzkill (f : Fields) (s : State) : exec (.fzkill f) s = execFzkill f s := rfl
theorem exec_capqEnum (f : Fields) (s : State) : exec (.capqEnum f) s = execCapqEnum f s := rfl
theorem exec_capqStat (f : Fields) (s : State) : exec (.capqStat f) s = execCapqStat f s := rfl
theorem exec_hret (f : Fields) (s : State) : exec (.hret f) s = execHret f s := rfl
theorem exec_prd (f : Fields) (s : State) : exec (.prd f) s = execPrd f s := rfl
theorem exec_pwr (f : Fields) (s : State) : exec (.pwr f) s = execPwr f s := rfl
theorem exec_rlbinv (f : Fields) (s : State) : exec (.rlbinv f) s = execRlbinv f s := rfl
theorem exec_ctxsv (f : Fields) (s : State) : exec (.ctxsv f) s = execCtxsv f s := rfl
theorem exec_ctxld (f : Fields) (s : State) : exec (.ctxld f) s = execCtxld f s := rfl
theorem exec_resumej (f : Fields) (s : State) : exec (.resumej f) s = execResumej f s := rfl
theorem exec_curet (f : Fields) (s : State) : exec (.curet f) s = execCuret f s := rfl
theorem exec_accessCompletion (thread entry : Nat) (s : State) :
    exec (.accessCompletion thread entry) s = execAccessCompletion thread entry s := rfl
theorem exec_accessFault (thread entry : Nat) (bad : Option DataError) (s : State) :
    exec (.accessFault thread entry bad) s = execAccessFault thread entry bad s := rfl
theorem exec_tadpoleSpawn (cu : Nat) (s : State) : exec (.tadpoleSpawn cu) s = execTadpoleSpawn cu s := rfl
theorem exec_watchdogExpiry (thread : Nat) (s : State) : exec (.watchdogExpiry thread) s = execWatchdogExpiry thread s := rfl
theorem exec_overdueSwap (cu barrel slot : Nat) (s : State) :
    exec (.overdueSwap cu barrel slot) s = execOverdueSwap cu barrel slot s := rfl
theorem exec_groupSwap (cu barrel slot : Nat) (s : State) :
    exec (.groupSwap cu barrel slot) s = execGroupSwap cu barrel slot s := rfl
theorem exec_groupPark (thread : Nat) (s : State) : exec (.groupPark thread) s = execGroupPark thread s := rfl
theorem exec_wakeConditionFires (thread : Nat) (s : State) :
    exec (.wakeConditionFires thread) s = execWakeConditionFires thread s := rfl
theorem exec_cuReclaim (cu : Nat) (s : State) : exec (.cuReclaim cu) s = execCuReclaim cu s := rfl
theorem exec_barrierPhaseComplete (cluster : Bool) (owner id : Nat) (s : State) :
    exec (.barrierPhaseComplete cluster owner id) s = execBarrierPhaseComplete cluster owner id s := rfl
theorem exec_matrixOperationComplete (cu entry : Nat) (s : State) :
    exec (.matrixOperationComplete cu entry) s = execMatrixOperationComplete cu entry s := rfl
theorem exec_copyDispatch (wg entry : Nat) (s : State) : exec (.copyDispatch wg entry) s = execCopyDispatch wg entry s := rfl
theorem exec_copyComplete (wg entry : Nat) (s : State) : exec (.copyComplete wg entry) s = execCopyComplete wg entry s := rfl
theorem exec_copyEngineFault (wg entry : Nat) (bad : Option (DataError × Bool × Nat)) (s : State) :
    exec (.copyEngineFault wg entry bad) s = execCopyEngineFault wg entry bad s := rfl
theorem exec_mslpTimeout (thread : Nat) (s : State) : exec (.mslpTimeout thread) s = execMslpTimeout thread s := rfl
theorem exec_lockBreak (thread entry : Nat) (s : State) : exec (.lockBreak thread entry) s = execLockBreak thread entry s := rfl
theorem exec_rdt (msg : Nat) (s : State) : exec (.rdt msg) s = execRdt msg s := rfl
theorem exec_wrt (msg : Nat) (s : State) : exec (.wrt msg) s = execWrt msg s := rfl
theorem exec_tok (msg : Nat) (s : State) : exec (.tok msg) s = execTok msg s := rfl
theorem exec_wb (msg : Nat) (s : State) : exec (.wb msg) s = execWb msg s := rfl
theorem exec_preq (msg : Nat) (s : State) : exec (.preq msg) s = execPreq msg s := rfl
theorem exec_pact (msg : Nat) (s : State) : exec (.pact msg) s = execPact msg s := rfl
theorem exec_pdone (msg : Nat) (s : State) : exec (.pdone msg) s = execPdone msg s := rfl
theorem exec_pdeact (msg : Nat) (s : State) : exec (.pdeact msg) s = execPdeact msg s := rfl
theorem exec_rgstart (msg : Nat) (s : State) : exec (.rgstart msg) s = execRgstart msg s := rfl
theorem exec_rgack (msg : Nat) (s : State) : exec (.rgack msg) s = execRgack msg s := rfl
theorem exec_rgdata (msg : Nat) (s : State) : exec (.rgdata msg) s = execRgdata msg s := rfl
theorem exec_rgend (msg : Nat) (s : State) : exec (.rgend msg) s = execRgend msg s := rfl
theorem exec_transientRetryExpiry (agent sector : Nat) (s : State) :
    exec (.transientRetryExpiry agent sector) s = execTransientRetryExpiry agent sector s := rfl
theorem exec_persistentArbitration (home : Nat) (s : State) :
    exec (.persistentArbitration home) s = execPersistentArbitration home s := rfl
theorem exec_homeRequest (home : Nat) (s : State) : exec (.homeRequest home) s = execHomeRequest home s := rfl
theorem exec_regrowthTrigger (home sector : Nat) (s : State) :
    exec (.regrowthTrigger home sector) s = execRegrowthTrigger home sector s := rfl
theorem exec_pnakRetry (agent : Nat) (s : State) : exec (.pnakRetry agent) s = execPnakRetry agent s := rfl
theorem exec_windowSectorRead (agent sector : Nat) (s : State) :
    exec (.windowSectorRead agent sector) s = execWindowSectorRead agent sector s := rfl
theorem exec_entryLaunch (ctx queue : Nat) (s : State) : exec (.entryLaunch ctx queue) s = execEntryLaunch ctx queue s := rfl
theorem exec_entrySignalToken (ctx queue : Nat) (s : State) :
    exec (.entrySignalToken ctx queue) s = execEntrySignalToken ctx queue s := rfl
theorem exec_entryWaitToken (ctx queue : Nat) (s : State) :
    exec (.entryWaitToken ctx queue) s = execEntryWaitToken ctx queue s := rfl
theorem exec_entryResetToken (ctx queue : Nat) (s : State) :
    exec (.entryResetToken ctx queue) s = execEntryResetToken ctx queue s := rfl
theorem exec_launchAccept (ctx stream : Nat) (s : State) :
    exec (.launchAccept ctx stream) s = execLaunchAccept ctx stream s := rfl
theorem exec_dispatchOpportunity (die : Nat) (s : State) :
    exec (.dispatchOpportunity die) s = execDispatchOpportunity die s := rfl
theorem exec_launchComplete (launch : Nat) (s : State) : exec (.launchComplete launch) s = execLaunchComplete launch s := rfl
theorem exec_terminationWaves (ctx object : Nat) (s : State) :
    exec (.terminationWaves ctx object) s = execTerminationWaves ctx object s := rfl
theorem exec_systemAccessPacket (p : Packet) (s : State) : exec (.systemAccessPacket p) s = execSystemAccessPacket p s := rfl
theorem exec_dataPacketReceive (p : Packet) (s : State) : exec (.dataPacketReceive p) s = execDataPacketReceive p s := rfl
theorem exec_getRequest (p : Packet) (s : State) : exec (.getRequest p) s = execGetRequest p s := rfl
theorem exec_acknowledgement (p : Packet) (s : State) : exec (.acknowledgement p) s = execAcknowledgement p s := rfl
theorem exec_mergedAcknowledgement (p : Packet) (s : State) :
    exec (.mergedAcknowledgement p) s = execMergedAcknowledgement p s := rfl
theorem exec_multicastReplication (p : Packet) (s : State) :
    exec (.multicastReplication p) s = execMulticastReplication p s := rfl
theorem exec_reductionContribution (p : Packet) (s : State) :
    exec (.reductionContribution p) s = execReductionContribution p s := rfl
theorem exec_reductionTimeout (key group ver epoch pseq : Nat) (s : State) :
    exec (.reductionTimeout key group ver epoch pseq) s = execReductionTimeout key group ver epoch pseq s := rfl
theorem exec_retransmissionTimeout (xid pseq : Nat) (s : State) :
    exec (.retransmissionTimeout xid pseq) s = execRetransmissionTimeout xid pseq s := rfl
theorem exec_packetLifetimeExpiry (xid pseq : Nat) (s : State) :
    exec (.packetLifetimeExpiry xid pseq) s = execPacketLifetimeExpiry xid pseq s := rfl
theorem exec_countingEndTimeout (smod xid : Nat) (s : State) :
    exec (.countingEndTimeout smod xid) s = execCountingEndTimeout smod xid s := rfl
theorem exec_fabricFailureRecorded (thread seq : Nat) (s : State) :
    exec (.fabricFailureRecorded thread seq) s = execFabricFailureRecorded thread seq s := rfl
theorem exec_peerLost (peer : Nat) (s : State) : exec (.peerLost peer) s = execPeerLost peer s := rfl
theorem exec_haltWave (key : Nat) (trigger : Trigger) (s : State) :
    exec (.haltWave key trigger) s = execHaltWave key trigger s := rfl
theorem exec_firstTriggerSettled (key : Nat) (trigger : Trigger) (s : State) :
    exec (.firstTriggerSettled key trigger) s = execFirstTriggerSettled key trigger s := rfl
theorem exec_brumationDrained (ctx : Nat) (s : State) : exec (.brumationDrained ctx) s = execBrumationDrained ctx s := rfl
theorem exec_resumeAtT (key : Nat) (s : State) : exec (.resumeAtT key) s = execResumeAtT key s := rfl
theorem exec_resumeFailure (key : Nat) (s : State) : exec (.resumeFailure key) s = execResumeFailure key s := rfl
theorem exec_treeBarrierRelease (key object : Nat) (rel : TreeRelease) (s : State) :
    exec (.treeBarrierRelease key object rel) s = execTreeBarrierRelease key object rel s := rfl
theorem exec_regrowthWaitTimeout (home sector agent : Nat) (s : State) :
    exec (.regrowthWaitTimeout home sector agent) s = execRegrowthWaitTimeout home sector agent s := rfl
theorem exec_regrowthDeferralExpiry (home sector : Nat) (s : State) :
    exec (.regrowthDeferralExpiry home sector) s = execRegrowthDeferralExpiry home sector s := rfl
theorem exec_fabricEngineFault (thread seq : Nat) (bad : Option (DataError × Nat)) (s : State) :
    exec (.fabricEngineFault thread seq bad) s = execFabricEngineFault thread seq bad s := rfl
theorem exec_codeLineCrcMismatch (again : Bool) (s : State) :
    exec (.codeLineCrcMismatch again) s = execCodeLineCrcMismatch again s := rfl
theorem exec_laneDeath (thread : Nat) (errs : RegErrors) (s : State) :
    exec (.laneDeath thread errs) s = execLaneDeath thread errs s := rfl
theorem exec_mstg (cu entry : Nat) (site : StorageSite) (row col : Nat) (s : State) :
    exec (.mstg cu entry site row col) s = execMstg cu entry site row col s := rfl
theorem exec_scrubActivation (home sector : Nat) (error : SymbolError) (s : State) :
    exec (.scrubActivation home sector error) s = execScrubActivation home sector error s := rfl
theorem exec_fwctlWrite (window : Nat) (value : Word64) (s : State) :
    exec (.fwctlWrite window value) s = execFwctlWrite window value s := rfl
theorem exec_gctlCommit (key group : Nat) (value : Word64) (s : State) :
    exec (.gctlCommit key group value) s = execGctlCommit key group value s := rfl
theorem exec_tbctlWrite (key object : Nat) (value : Word64) (s : State) :
    exec (.tbctlWrite key object value) s = execTbctlWrite key object value s := rfl
theorem exec_tmctlWrite (value : Word64) (s : State) : exec (.tmctlWrite value) s = execTmctlWrite value s := rfl
theorem exec_registerWrite (bar0 : Bool) (address : Nat) (value : Word64) (s : State) :
    exec (.registerWrite bar0 address value) s = execRegisterWrite bar0 address value s := rfl
theorem exec_qtailDoorbell (ctx queue : Nat) (value : Word64) (s : State) :
    exec (.qtailDoorbell ctx queue value) s = execQtailDoorbell ctx queue value s := rfl
theorem exec_qcplWrite (ctx queue : Nat) (value : Word64) (s : State) :
    exec (.qcplWrite ctx queue value) s = execQcplWrite ctx queue value s := rfl
theorem exec_recoveryNotice (peer : Nat) (up : Bool) (s : State) :
    exec (.recoveryNotice peer up) s = execRecoveryNotice peer up s := rfl
theorem exec_treeFailover (key : Nat) (s : State) : exec (.treeFailover key) s = execTreeFailover key s := rfl
theorem exec_rowSegmentLoss (row : Nat) (s : State) : exec (.rowSegmentLoss row) s = execRowSegmentLoss row s := rfl
theorem exec_timeCalibration (die : Nat) (residual : Int) (s : State) :
    exec (.timeCalibration die residual) s = execTimeCalibration die residual s := rfl
theorem exec_dieLoss (tile : Nat) (s : State) : exec (.dieLoss tile) s = execDieLoss tile s := rfl
theorem exec_dieReset (tile : Nat) (cus : Word64) (offset : Int) (s : State) :
    exec (.dieReset tile cus offset) s = execDieReset tile cus offset s := rfl
theorem exec_hostSnoop (port line : Nat) (s : State) : exec (.hostSnoop port line) s = execHostSnoop port line s := rfl
theorem exec_cxlMemRead (port address : Nat) (s : State) :
    exec (.cxlMemRead port address) s = execCxlMemRead port address s := rfl
theorem exec_cxlMemWrite (port address : Nat) (enables : BitVec 64) (data : List Byte) (s : State) :
    exec (.cxlMemWrite port address enables data) s = execCxlMemWrite port address enables data s := rfl
theorem exec_moduleStart (result : StartResult) (s : State) : exec (.moduleStart result) s = execModuleStart result s := rfl
theorem exec_throttleTrigger (step causes : BitVec 4) (s : State) :
    exec (.throttleTrigger step causes) s = execThrottleTrigger step causes s := rfl
theorem exec_thermalReset (s : State) : exec (.thermalReset) s = execThermalReset s := rfl
theorem exec_getVersion (s : State) : exec (.getVersion) s = execGetVersion s := rfl
theorem exec_getCapabilities (s : State) : exec (.getCapabilities) s = execGetCapabilities s := rfl
theorem exec_negotiateAlgorithms (algorithms : List Byte) (s : State) :
    exec (.negotiateAlgorithms algorithms) s = execNegotiateAlgorithms algorithms s := rfl
theorem exec_getDigests (s : State) : exec (.getDigests) s = execGetDigests s := rfl
theorem exec_getCertificate (slot offset length : Nat) (s : State) :
    exec (.getCertificate slot offset length) s = execGetCertificate slot offset length s := rfl
theorem exec_challenge (slot : Nat) (nonce : List Byte) (s : State) :
    exec (.challenge slot nonce) s = execChallenge slot nonce s := rfl
theorem exec_getMeasurements (index : Nat) (nonce : List Byte) (s : State) :
    exec (.getMeasurements index nonce) s = execGetMeasurements index nonce s := rfl
theorem exec_hostPortLoss (port : Nat) (back : Bool) (s : State) :
    exec (.hostPortLoss port back) s = execHostPortLoss port back s := rfl
theorem exec_qctlWrite (port ctx queue : Nat) (value : Word64) (s : State) :
    exec (.qctlWrite port ctx queue value) s = execQctlWrite port ctx queue value s := rfl
theorem exec_fabricPortDown (port : Nat) (s : State) : exec (.fabricPortDown port) s = execFabricPortDown port s := rfl
theorem exec_pldmFirmwareUpdate (firmware : Word64) (s : State) :
    exec (.pldmFirmwareUpdate firmware) s = execPldmFirmwareUpdate firmware s := rfl

end Sys2Proof.Machine
end

