-- ==== Sys2Proof/Laws/Maps.lean ====
section
/-! SUPPORT. Maps by key, and byte memories: reading after writing, and the canonical form, which every operation keeps. -/

namespace Sys2Proof

variable {α : Type}

@[simp] theorem nget_nil (k : Nat) : nget ([] : NMap α) k = none := rfl

theorem nget_nset (m : NMap α) (k : Nat) (v : α) (j : Nat) : nget (nset m k v) j = if j = k then some v else nget m j := by
  induction m with
  | nil => by_cases h : j = k <;> simp [nset, nget, h, eq_comm (a := k)]
  | cons p r ih =>
    obtain ⟨a, b⟩ := p
    by_cases h1 : k < a
    · by_cases h : j = k
      · simp [nset, nget, h1, h]
      · have h' : ¬k = j := fun e => h e.symm
        simp [nset, nget, h1, h, h']
    · by_cases h2 : a = k
      · by_cases h : j = k
        · simp [nset, nget, h2, h]
        · have h' : ¬k = j := fun e => h e.symm
          simp [nset, nget, h2, h, h']
      · by_cases h : j = k
        · subst h
          simpa [nset, nget, h1, h2] using ih
        · simp [nset, nget, h1, h2, h, ih]

@[simp] theorem nget_nset_self (m : NMap α) (k : Nat) (v : α) : nget (nset m k v) k = some v := by simp [nget_nset]

theorem nget_nset_ne (m : NMap α) (k : Nat) (v : α) (j : Nat) (h : j ≠ k) : nget (nset m k v) j = nget m j := by
  simp [nget_nset, h]

theorem ngetD_nset (m : NMap α) (k : Nat) (v : α) (j : Nat) (d : α) :
    ngetD (nset m k v) j d = if j = k then v else ngetD m j d := by
  unfold ngetD
  rw [nget_nset]
  split_ifs <;> rfl

theorem nget_nmod (m : NMap α) (k : Nat) (g : α → α) (j : Nat) :
    nget (nmod m k g) j = if j = k then (nget m k).map g else nget m j := by
  unfold nmod
  cases h : nget m k with
  | none => by_cases hj : j = k <;> simp [hj, h]
  | some v => simp [nget_nset]

@[simp] theorem nget_nmod_self (m : NMap α) (k : Nat) (g : α → α) : nget (nmod m k g) k = (nget m k).map g := by
  simp [nget_nmod]

theorem nget_nmod_ne (m : NMap α) (k : Nat) (g : α → α) (j : Nat) (h : j ≠ k) : nget (nmod m k g) j = nget m j := by
  simp [nget_nmod, h]

theorem nget_filter (m : NMap α) (p : Nat → Bool) (j : Nat) :
    nget (m.filter fun x => p x.1) j = if p j then nget m j else none := by
  induction m with
  | nil => simp
  | cons q r ih =>
    obtain ⟨a, b⟩ := q
    by_cases ha : p a
    · simp only [List.filter_cons, ha, if_true, nget, ih]
      split_ifs <;> simp_all
    · simp only [List.filter_cons, ha, nget]
      split_ifs <;> simp_all

theorem nget_nerase (m : NMap α) (k j : Nat) : nget (nerase m k) j = if j = k then none else nget m j := by
  have := nget_filter m (fun x => decide (x ≠ k)) j
  simp only [nerase, this, decide_eq_true_eq]
  split_ifs <;> simp_all

theorem nget_nmap (m : NMap α) (g : Nat → α → α) (j : Nat) : nget (nmap m g) j = (nget m j).map (g j) := by
  induction m with
  | nil => rfl
  | cons q r ih =>
    obtain ⟨a, b⟩ := q
    simp only [nmap, List.map_cons, nget] at ih ⊢
    split_ifs with h
    · subst h; rfl
    · exact ih

theorem nset_nset_self (m : NMap α) (k : Nat) (v w : α) : nset (nset m k v) k w = nset m k w := by
  induction m with
  | nil => simp [nset]
  | cons p r ih =>
    obtain ⟨a, b⟩ := p
    by_cases h1 : k < a
    · simp [nset, h1]
    · by_cases h2 : a = k
      · simp [nset, h2]
      · simp [nset, h1, h2, ih]

/-! ### Byte memories -/

/-- A byte reads as it was written, and every other byte as before. -/
theorem Memory.byte_setByte (m : Memory) (a : Nat) (b : Byte) (j : Nat) :
    Memory.byte (Memory.setByte m a b) j = if j = a then b else Memory.byte m j := by
  unfold Memory.byte Memory.setByte
  by_cases hb : b = 0
  · simp only [hb, if_true, ngetD, nget_nerase]
    split_ifs <;> rfl
  · simp only [hb, if_false, ngetD_nset]

/-- Bytes written from `a` on read back, and every byte outside them reads as before. -/
theorem Memory.byte_setBytes (m : Memory) (a : Nat) (l : List Byte) (j : Nat) :
    Memory.byte (Memory.setBytes m a l) j = if a ≤ j ∧ j < a + l.length then l.getD (j - a) 0 else Memory.byte m j := by
  induction l generalizing m a with
  | nil =>
    have : ¬(a ≤ j ∧ j < a + ([] : List Byte).length) := by simp
    rw [if_neg this, Memory.setBytes]
  | cons b r ih =>
    simp only [Memory.setBytes, ih, Memory.byte_setByte, List.length_cons]
    by_cases h : j = a
    · subst h
      simp
    · by_cases h2 : a + 1 ≤ j ∧ j < a + 1 + r.length
      · have h3 : a ≤ j ∧ j < a + (r.length + 1) := by omega
        have h4 : j - a = (j - (a + 1)) + 1 := by omega
        simp only [h2, h3, and_self, if_true]
        rw [h4, List.getD_cons_succ]
      · have h3 : ¬(a ≤ j ∧ j < a + (r.length + 1)) := by omega
        rw [if_neg h2, if_neg h3, if_neg h]

/-- Keys of a canonical memory rise from its first address on. -/
theorem Memory.wf_lt {a : Nat} {b : Byte} {r : Memory} (h : Memory.wf ((a, b) :: r) = true) :
    ∀ p ∈ r, a < p.1 := by
  induction r generalizing a b with
  | nil => simp
  | cons q s ih =>
    obtain ⟨c, d⟩ := q
    simp only [Memory.wf, Bool.and_eq_true, decide_eq_true_eq] at h
    obtain ⟨⟨h1, h2⟩, h3⟩ := h
    intro p hp
    rcases List.mem_cons.1 hp with rfl | hp
    · exact h2
    · exact lt_trans h2 (ih (a := c) (b := d) (by simpa [Memory.wf] using h3) p hp)

theorem Memory.wf_tail {p : Host.Cell} {r : Memory} (h : Memory.wf (p :: r) = true) : Memory.wf r = true := by
  obtain ⟨a, b⟩ := p
  simp only [Memory.wf, Bool.and_eq_true] at h
  exact h.2

/-- A non-zero byte before a canonical memory of greater addresses gives a canonical memory. -/
theorem Memory.wf_cons {a : Nat} {b : Byte} {r : Memory} (hb : b ≠ 0) (hr : Memory.wf r = true) (hlt : ∀ p ∈ r, a < p.1) :
    Memory.wf ((a, b) :: r) = true := by
  cases r with
  | nil => simpa [Memory.wf] using hb
  | cons q s =>
    obtain ⟨c, d⟩ := q
    have := hlt (c, d) (by simp)
    simp only [Memory.wf, Bool.and_eq_true, decide_eq_true_eq] at hr ⊢
    exact ⟨⟨hb, this⟩, hr⟩

theorem Memory.wf_head {a : Nat} {b : Byte} {r : Memory} (h : Memory.wf ((a, b) :: r) = true) : b ≠ 0 := by
  simp only [Memory.wf, Bool.and_eq_true, decide_eq_true_eq] at h
  exact h.1.1

theorem Memory.mem_nset {m : NMap α} {k : Nat} {v : α} {p : Nat × α} (h : p ∈ nset m k v) : p = (k, v) ∨ p ∈ m := by
  induction m with
  | nil => simpa [nset] using h
  | cons q r ih =>
    obtain ⟨a, b⟩ := q
    unfold nset at h
    split_ifs at h
    · simpa using h
    · simp only [List.mem_cons] at h ⊢
      tauto
    · simp only [List.mem_cons] at h ⊢
      rcases h with h | h
      · tauto
      · rcases ih h with h | h <;> tauto

/-- Removing entries keeps the canonical form. -/
theorem Memory.wf_filter {m : Memory} (h : Memory.wf m = true) (p : Host.Cell → Bool) : Memory.wf (m.filter p) = true := by
  induction m with
  | nil => rfl
  | cons q r ih =>
    obtain ⟨a, b⟩ := q
    have ht := ih (Memory.wf_tail h)
    by_cases hp : p (a, b)
    · rw [List.filter_cons_of_pos hp]
      exact Memory.wf_cons (Memory.wf_head h) ht fun x hx => Memory.wf_lt h x (List.mem_of_mem_filter hx)
    · rwa [List.filter_cons_of_neg hp]

theorem Memory.wf_nset {m : Memory} (h : Memory.wf m = true) (k : Nat) {b : Byte} (hb : b ≠ 0) :
    Memory.wf (nset m k b) = true := by
  induction m with
  | nil => simpa [nset, Memory.wf] using hb
  | cons q r ih =>
    obtain ⟨a, c⟩ := q
    unfold nset
    split_ifs with h1 h2
    · refine Memory.wf_cons hb h fun p hp => ?_
      rcases List.mem_cons.1 hp with rfl | hp
      · exact h1
      · exact lt_trans h1 (Memory.wf_lt h p hp)
    · subst h2
      exact Memory.wf_cons hb (Memory.wf_tail h) (Memory.wf_lt h)
    · refine Memory.wf_cons (Memory.wf_head h) (ih (Memory.wf_tail h)) fun p hp => ?_
      rcases Memory.mem_nset hp with rfl | hp
      · simp only; omega
      · exact Memory.wf_lt h p hp

/-- Writing a byte keeps the canonical form. -/
theorem Memory.wf_setByte {m : Memory} (h : Memory.wf m = true) (a : Nat) (b : Byte) : Memory.wf (Memory.setByte m a b) = true := by
  unfold Memory.setByte
  split_ifs with hb
  · exact Memory.wf_filter h _
  · exact Memory.wf_nset h a hb

/-- Writing bytes keeps the canonical form. -/
theorem Memory.wf_setBytes {m : Memory} (h : Memory.wf m = true) (a : Nat) (l : List Byte) :
    Memory.wf (Memory.setBytes m a l) = true := by
  induction l generalizing m a with
  | nil => exact h
  | cons b r ih => exact ih (Memory.wf_setByte h a b) (a + 1)

/-- Writing the enabled bytes keeps the canonical form. -/
theorem Memory.wf_setEnabled {m : Memory} (h : Memory.wf m = true) (a : Nat) (en : Nat → Bool) (l : List Byte) (i : Nat) :
    Memory.wf (Memory.setEnabled m a en l i) = true := by
  induction l generalizing m i with
  | nil => exact h
  | cons b r ih =>
    unfold Memory.setEnabled
    split_ifs
    · exact ih (Memory.wf_setByte h _ b) _
    · exact ih h _

end Sys2Proof
end

