-- ==== Sys2Proof/Laws/PerInstr.lean ====
section
/-! SUPPORT. One lemma per constructor of `Instr`: the OPC of a form's word fits its 10 bits (R112). -/

namespace Sys2Proof.Laws.OpcFits

/-- The OPC that a form's word holds fits its field; an event has no word. -/
def Statement (i : Instr) : Prop := ∀ opc f, i.form = some (opc, f) → opc < 1024

theorem nop (f : Fields) : Statement (.nop f) := by rintro _ _ ⟨⟩; decide
theorem bra (f : Fields) : Statement (.bra f) := by rintro _ _ ⟨⟩; decide
theorem brc (f : Fields) : Statement (.brc f) := by rintro _ _ ⟨⟩; decide
theorem brd (f : Fields) : Statement (.brd f) := by rintro _ _ ⟨⟩; decide
theorem join (f : Fields) : Statement (.join f) := by rintro _ _ ⟨⟩; decide
theorem call (f : Fields) : Statement (.call f) := by rintro _ _ ⟨⟩; decide
theorem ret (f : Fields) : Statement (.ret f) := by rintro _ _ ⟨⟩; decide
theorem bri (f : Fields) : Statement (.bri f) := by rintro _ _ ⟨⟩; decide
theorem exit (f : Fields) : Statement (.exit f) := by rintro _ _ ⟨⟩; decide
theorem yield (f : Fields) : Statement (.yield f) := by rintro _ _ ⟨⟩; decide
theorem wait (f : Fields) : Statement (.wait f) := by rintro _ _ ⟨⟩; decide
theorem waitb (f : Fields) : Statement (.waitb f) := by rintro _ _ ⟨⟩; decide
theorem bar (f : Fields) : Statement (.bar f) := by rintro _ _ ⟨⟩; decide
theorem exmrd (f : Fields) : Statement (.exmrd f) := by rintro _ _ ⟨⟩; decide
theorem exmwr (f : Fields) : Statement (.exmwr f) := by rintro _ _ ⟨⟩; decide
theorem rdsr (f : Fields) : Statement (.rdsr f) := by rintro _ _ ⟨⟩; decide
theorem wrsr (f : Fields) : Statement (.wrsr f) := by rintro _ _ ⟨⟩; decide
theorem sigchk (f : Fields) : Statement (.sigchk f) := by rintro _ _ ⟨⟩; decide
theorem bkpt (f : Fields) : Statement (.bkpt f) := by rintro _ _ ⟨⟩; decide
theorem trap (f : Fields) : Statement (.trap f) := by rintro _ _ ⟨⟩; decide
theorem rdtimeL (f : Fields) : Statement (.rdtimeL f) := by rintro _ _ ⟨⟩; decide
theorem rdtimeG (f : Fields) : Statement (.rdtimeG f) := by rintro _ _ ⟨⟩; decide
theorem rdband (f : Fields) : Statement (.rdband f) := by rintro _ _ ⟨⟩; decide
theorem sadd (f : Fields) : Statement (.sadd f) := by rintro _ _ ⟨⟩; decide
theorem ssub (f : Fields) : Statement (.ssub f) := by rintro _ _ ⟨⟩; decide
theorem smul (f : Fields) : Statement (.smul f) := by rintro _ _ ⟨⟩; decide
theorem smulh (f : Fields) : Statement (.smulh f) := by rintro _ _ ⟨⟩; decide
theorem smad (f : Fields) : Statement (.smad f) := by rintro _ _ ⟨⟩; decide
theorem sand (f : Fields) : Statement (.sand f) := by rintro _ _ ⟨⟩; decide
theorem sor (f : Fields) : Statement (.sor f) := by rintro _ _ ⟨⟩; decide
theorem sxor (f : Fields) : Statement (.sxor f) := by rintro _ _ ⟨⟩; decide
theorem sshl (f : Fields) : Statement (.sshl f) := by rintro _ _ ⟨⟩; decide
theorem sshr (f : Fields) : Statement (.sshr f) := by rintro _ _ ⟨⟩; decide
theorem ssar (f : Fields) : Statement (.ssar f) := by rintro _ _ ⟨⟩; decide
theorem smin (f : Fields) : Statement (.smin f) := by rintro _ _ ⟨⟩; decide
theorem smax (f : Fields) : Statement (.smax f) := by rintro _ _ ⟨⟩; decide
theorem scmp (f : Fields) : Statement (.scmp f) := by rintro _ _ ⟨⟩; decide
theorem ssel (f : Fields) : Statement (.ssel f) := by rintro _ _ ⟨⟩; decide
theorem smov (f : Fields) : Statement (.smov f) := by rintro _ _ ⟨⟩; decide
theorem smovi (f : Fields) : Statement (.smovi f) := by rintro _ _ ⟨⟩; decide
theorem slea (f : Fields) : Statement (.slea f) := by rintro _ _ ⟨⟩; decide
theorem sclz (f : Fields) : Statement (.sclz f) := by rintro _ _ ⟨⟩; decide
theorem spop (f : Fields) : Statement (.spop f) := by rintro _ _ ⟨⟩; decide
theorem sbfe (f : Fields) : Statement (.sbfe f) := by rintro _ _ ⟨⟩; decide
theorem sbfi (f : Fields) : Statement (.sbfi f) := by rintro _ _ ⟨⟩; decide
theorem vadd (f : Fields) : Statement (.vadd f) := by rintro _ _ ⟨⟩; decide
theorem vsub (f : Fields) : Statement (.vsub f) := by rintro _ _ ⟨⟩; decide
theorem vmul (f : Fields) : Statement (.vmul f) := by rintro _ _ ⟨⟩; decide
theorem vmulh (f : Fields) : Statement (.vmulh f) := by rintro _ _ ⟨⟩; decide
theorem vmad (f : Fields) : Statement (.vmad f) := by rintro _ _ ⟨⟩; decide
theorem vmadw (f : Fields) : Statement (.vmadw f) := by rintro _ _ ⟨⟩; decide
theorem vaddc (f : Fields) : Statement (.vaddc f) := by rintro _ _ ⟨⟩; decide
theorem vand (f : Fields) : Statement (.vand f) := by rintro _ _ ⟨⟩; decide
theorem vor (f : Fields) : Statement (.vor f) := by rintro _ _ ⟨⟩; decide
theorem vxor (f : Fields) : Statement (.vxor f) := by rintro _ _ ⟨⟩; decide
theorem vshl (f : Fields) : Statement (.vshl f) := by rintro _ _ ⟨⟩; decide
theorem vshr (f : Fields) : Statement (.vshr f) := by rintro _ _ ⟨⟩; decide
theorem vsar (f : Fields) : Statement (.vsar f) := by rintro _ _ ⟨⟩; decide
theorem vmin (f : Fields) : Statement (.vmin f) := by rintro _ _ ⟨⟩; decide
theorem vmax (f : Fields) : Statement (.vmax f) := by rintro _ _ ⟨⟩; decide
theorem vabs (f : Fields) : Statement (.vabs f) := by rintro _ _ ⟨⟩; decide
theorem vcmp (f : Fields) : Statement (.vcmp f) := by rintro _ _ ⟨⟩; decide
theorem vsel (f : Fields) : Statement (.vsel f) := by rintro _ _ ⟨⟩; decide
theorem vmov (f : Fields) : Statement (.vmov f) := by rintro _ _ ⟨⟩; decide
theorem vmovi (f : Fields) : Statement (.vmovi f) := by rintro _ _ ⟨⟩; decide
theorem vbfe (f : Fields) : Statement (.vbfe f) := by rintro _ _ ⟨⟩; decide
theorem vbfi (f : Fields) : Statement (.vbfi f) := by rintro _ _ ⟨⟩; decide
theorem vclz (f : Fields) : Statement (.vclz f) := by rintro _ _ ⟨⟩; decide
theorem vpop (f : Fields) : Statement (.vpop f) := by rintro _ _ ⟨⟩; decide
theorem vbrev (f : Fields) : Statement (.vbrev f) := by rintro _ _ ⟨⟩; decide
theorem fadd (f : Fields) : Statement (.fadd f) := by rintro _ _ ⟨⟩; decide
theorem fsub (f : Fields) : Statement (.fsub f) := by rintro _ _ ⟨⟩; decide
theorem fmul (f : Fields) : Statement (.fmul f) := by rintro _ _ ⟨⟩; decide
theorem ffma (f : Fields) : Statement (.ffma f) := by rintro _ _ ⟨⟩; decide
theorem fmin (f : Fields) : Statement (.fmin f) := by rintro _ _ ⟨⟩; decide
theorem fmax (f : Fields) : Statement (.fmax f) := by rintro _ _ ⟨⟩; decide
theorem fcmp (f : Fields) : Statement (.fcmp f) := by rintro _ _ ⟨⟩; decide
theorem fclass (f : Fields) : Statement (.fclass f) := by rintro _ _ ⟨⟩; decide
theorem fdiv (f : Fields) : Statement (.fdiv f) := by rintro _ _ ⟨⟩; decide
theorem fsqrt (f : Fields) : Statement (.fsqrt f) := by rintro _ _ ⟨⟩; decide
theorem frcp (f : Fields) : Statement (.frcp f) := by rintro _ _ ⟨⟩; decide
theorem frsq (f : Fields) : Statement (.frsq f) := by rintro _ _ ⟨⟩; decide
theorem fexp2 (f : Fields) : Statement (.fexp2 f) := by rintro _ _ ⟨⟩; decide
theorem flog2 (f : Fields) : Statement (.flog2 f) := by rintro _ _ ⟨⟩; decide
theorem ftanh (f : Fields) : Statement (.ftanh f) := by rintro _ _ ⟨⟩; decide
theorem hadd2 (f : Fields) : Statement (.hadd2 f) := by rintro _ _ ⟨⟩; decide
theorem hmul2 (f : Fields) : Statement (.hmul2 f) := by rintro _ _ ⟨⟩; decide
theorem hfma2 (f : Fields) : Statement (.hfma2 f) := by rintro _ _ ⟨⟩; decide
theorem hmax2 (f : Fields) : Statement (.hmax2 f) := by rintro _ _ ⟨⟩; decide
theorem hmin2 (f : Fields) : Statement (.hmin2 f) := by rintro _ _ ⟨⟩; decide
theorem cvt (f : Fields) : Statement (.cvt f) := by rintro _ _ ⟨⟩; decide
theorem fxcvt (f : Fields) : Statement (.fxcvt f) := by rintro _ _ ⟨⟩; decide
theorem fxtof (f : Fields) : Statement (.fxtof f) := by rintro _ _ ⟨⟩; decide
theorem qswp (f : Fields) : Statement (.qswp f) := by rintro _ _ ⟨⟩; decide
theorem qbc (f : Fields) : Statement (.qbc f) := by rintro _ _ ⟨⟩; decide
theorem shfl (f : Fields) : Statement (.shfl f) := by rintro _ _ ⟨⟩; decide
theorem vote (f : Fields) : Statement (.vote f) := by rintro _ _ ⟨⟩; decide
theorem gred (f : Fields) : Statement (.gred f) := by rintro _ _ ⟨⟩; decide
theorem gscan (f : Fields) : Statement (.gscan f) := by rintro _ _ ⟨⟩; decide
theorem plop (f : Fields) : Statement (.plop f) := by rintro _ _ ⟨⟩; decide
theorem pmov (f : Fields) : Statement (.pmov f) := by rintro _ _ ⟨⟩; decide
theorem mtalloc (f : Fields) : Statement (.mtalloc f) := by rintro _ _ ⟨⟩; decide
theorem mtfree (f : Fields) : Statement (.mtfree f) := by rintro _ _ ⟨⟩; decide
theorem mzero (f : Fields) : Statement (.mzero f) := by rintro _ _ ⟨⟩; decide
theorem mma (f : Fields) : Statement (.mma f) := by rintro _ _ ⟨⟩; decide
theorem mloop (f : Fields) : Statement (.mloop f) := by rintro _ _ ⟨⟩; decide
theorem mwracc (f : Fields) : Statement (.mwracc f) := by rintro _ _ ⟨⟩; decide
theorem mdrain (f : Fields) : Statement (.mdrain f) := by rintro _ _ ⟨⟩; decide
theorem mdrainq (f : Fields) : Statement (.mdrainq f) := by rintro _ _ ⟨⟩; decide
theorem mbatch (f : Fields) : Statement (.mbatch f) := by rintro _ _ ⟨⟩; decide
theorem ld (f : Fields) : Statement (.ld f) := by rintro _ _ ⟨⟩; decide
theorem st (f : Fields) : Statement (.st f) := by rintro _ _ ⟨⟩; decide
theorem ldu (f : Fields) : Statement (.ldu f) := by rintro _ _ ⟨⟩; decide
theorem stu (f : Fields) : Statement (.stu f) := by rintro _ _ ⟨⟩; decide
theorem lda (f : Fields) : Statement (.lda f) := by rintro _ _ ⟨⟩; decide
theorem stl (f : Fields) : Statement (.stl f) := by rintro _ _ ⟨⟩; decide
theorem atom (f : Fields) : Statement (.atom f) := by rintro _ _ ⟨⟩; decide
theorem red (f : Fields) : Statement (.red f) := by rintro _ _ ⟨⟩; decide
theorem fence (f : Fields) : Statement (.fence f) := by rintro _ _ ⟨⟩; decide
theorem pref (f : Fields) : Statement (.pref f) := by rintro _ _ ⟨⟩; decide
theorem lnlk (f : Fields) : Statement (.lnlk f) := by rintro _ _ ⟨⟩; decide
theorem lnul (f : Fields) : Statement (.lnul f) := by rintro _ _ ⟨⟩; decide
theorem lnwb (f : Fields) : Statement (.lnwb f) := by rintro _ _ ⟨⟩; decide
theorem lndrop (f : Fields) : Statement (.lndrop f) := by rintro _ _ ⟨⟩; decide
theorem marm (f : Fields) : Statement (.marm f) := by rintro _ _ ⟨⟩; decide
theorem mslp (f : Fields) : Statement (.mslp f) := by rintro _ _ ⟨⟩; decide
theorem cpyq (f : Fields) : Statement (.cpyq f) := by rintro _ _ ⟨⟩; decide
theorem phinit (f : Fields) : Statement (.phinit f) := by rintro _ _ ⟨⟩; decide
theorem pharr (f : Fields) : Statement (.pharr f) := by rintro _ _ ⟨⟩; decide
theorem phwait (f : Fields) : Statement (.phwait f) := by rintro _ _ ⟨⟩; decide
theorem phtest (f : Fields) : Statement (.phtest f) := by rintro _ _ ⟨⟩; decide
theorem bxsend (f : Fields) : Statement (.bxsend f) := by rintro _ _ ⟨⟩; decide
theorem bxget (f : Fields) : Statement (.bxget f) := by rintro _ _ ⟨⟩; decide
theorem bxmc (f : Fields) : Statement (.bxmc f) := by rintro _ _ ⟨⟩; decide
theorem bxred (f : Fields) : Statement (.bxred f) := by rintro _ _ ⟨⟩; decide
theorem bxflag (f : Fields) : Statement (.bxflag f) := by rintro _ _ ⟨⟩; decide
theorem mboxreg (f : Fields) : Statement (.mboxreg f) := by rintro _ _ ⟨⟩; decide
theorem mboxrel (f : Fields) : Statement (.mboxrel f) := by rintro _ _ ⟨⟩; decide
theorem fabst (f : Fields) : Statement (.fabst f) := by rintro _ _ ⟨⟩; decide
theorem tbjoin (f : Fields) : Statement (.tbjoin f) := by rintro _ _ ⟨⟩; decide
theorem tbwait (f : Fields) : Statement (.tbwait f) := by rintro _ _ ⟨⟩; decide
theorem tbtest (f : Fields) : Statement (.tbtest f) := by rintro _ _ ⟨⟩; decide
theorem tbexc (f : Fields) : Statement (.tbexc f) := by rintro _ _ ⟨⟩; decide
theorem haltj (f : Fields) : Statement (.haltj f) := by rintro _ _ ⟨⟩; decide
theorem launch (f : Fields) : Statement (.launch f) := by rintro _ _ ⟨⟩; decide
theorem qtokSig (f : Fields) : Statement (.qtokSig f) := by rintro _ _ ⟨⟩; decide
theorem qtokGet (f : Fields) : Statement (.qtokGet f) := by rintro _ _ ⟨⟩; decide
theorem qtokReset (f : Fields) : Statement (.qtokReset f) := by rintro _ _ ⟨⟩; decide
theorem wlapp (f : Fields) : Statement (.wlapp f) := by rintro _ _ ⟨⟩; decide
theorem wltake (f : Fields) : Statement (.wltake f) := by rintro _ _ ⟨⟩; decide
theorem wlstat (f : Fields) : Statement (.wlstat f) := by rintro _ _ ⟨⟩; decide
theorem fzrd (f : Fields) : Statement (.fzrd f) := by rintro _ _ ⟨⟩; decide
theorem fzwr (f : Fields) : Statement (.fzwr f) := by rintro _ _ ⟨⟩; decide
theorem fzpc (f : Fields) : Statement (.fzpc f) := by rintro _ _ ⟨⟩; decide
theorem fzmask (f : Fields) : Statement (.fzmask f) := by rintro _ _ ⟨⟩; decide
theorem fzlogRd (f : Fields) : Statement (.fzlogRd f) := by rintro _ _ ⟨⟩; decide
theorem fzlogReg (f : Fields) : Statement (.fzlogReg f) := by rintro _ _ ⟨⟩; decide
theorem fzlogPut (f : Fields) : Statement (.fzlogPut f) := by rintro _ _ ⟨⟩; decide
theorem fzlogDone (f : Fields) : Statement (.fzlogDone f) := by rintro _ _ ⟨⟩; decide
theorem fzlane (f : Fields) : Statement (.fzlane f) := by rintro _ _ ⟨⟩; decide
theorem fzstep (f : Fields) : Statement (.fzstep f) := by rintro _ _ ⟨⟩; decide
theorem fzres (f : Fields) : Statement (.fzres f) := by rintro _ _ ⟨⟩; decide
theorem fzkill (f : Fields) : Statement (.fzkill f) := by rintro _ _ ⟨⟩; decide
theorem capqEnum (f : Fields) : Statement (.capqEnum f) := by rintro _ _ ⟨⟩; decide
theorem capqStat (f : Fields) : Statement (.capqStat f) := by rintro _ _ ⟨⟩; decide
theorem hret (f : Fields) : Statement (.hret f) := by rintro _ _ ⟨⟩; decide
theorem prd (f : Fields) : Statement (.prd f) := by rintro _ _ ⟨⟩; decide
theorem pwr (f : Fields) : Statement (.pwr f) := by rintro _ _ ⟨⟩; decide
theorem rlbinv (f : Fields) : Statement (.rlbinv f) := by rintro _ _ ⟨⟩; decide
theorem ctxsv (f : Fields) : Statement (.ctxsv f) := by rintro _ _ ⟨⟩; decide
theorem ctxld (f : Fields) : Statement (.ctxld f) := by rintro _ _ ⟨⟩; decide
theorem resumej (f : Fields) : Statement (.resumej f) := by rintro _ _ ⟨⟩; decide
theorem curet (f : Fields) : Statement (.curet f) := by rintro _ _ ⟨⟩; decide
theorem accessCompletion (thread entry : Nat) : Statement (.accessCompletion thread entry) := fun _ _ h => nomatch (show noForm = some _ from h)
theorem accessFault (thread entry : Nat) (bad : Option DataError) : Statement (.accessFault thread entry bad) := fun _ _ h => nomatch (show noForm = some _ from h)
theorem tadpoleSpawn (cu : Nat) : Statement (.tadpoleSpawn cu) := fun _ _ h => nomatch (show noForm = some _ from h)
theorem watchdogExpiry (thread : Nat) : Statement (.watchdogExpiry thread) := fun _ _ h => nomatch (show noForm = some _ from h)
theorem overdueSwap (cu barrel slot : Nat) : Statement (.overdueSwap cu barrel slot) := fun _ _ h => nomatch (show noForm = some _ from h)
theorem groupSwap (cu barrel slot : Nat) : Statement (.groupSwap cu barrel slot) := fun _ _ h => nomatch (show noForm = some _ from h)
theorem groupPark (thread : Nat) : Statement (.groupPark thread) := fun _ _ h => nomatch (show noForm = some _ from h)
theorem wakeConditionFires (thread : Nat) : Statement (.wakeConditionFires thread) := fun _ _ h => nomatch (show noForm = some _ from h)
theorem cuReclaim (cu : Nat) : Statement (.cuReclaim cu) := fun _ _ h => nomatch (show noForm = some _ from h)
theorem barrierPhaseComplete (cluster : Bool) (owner id : Nat) : Statement (.barrierPhaseComplete cluster owner id) := fun _ _ h => nomatch (show noForm = some _ from h)
theorem matrixOperationComplete (cu entry : Nat) : Statement (.matrixOperationComplete cu entry) := fun _ _ h => nomatch (show noForm = some _ from h)
theorem copyDispatch (wg entry : Nat) : Statement (.copyDispatch wg entry) := fun _ _ h => nomatch (show noForm = some _ from h)
theorem copyComplete (wg entry : Nat) : Statement (.copyComplete wg entry) := fun _ _ h => nomatch (show noForm = some _ from h)
theorem copyEngineFault (wg entry : Nat) (bad : Option (DataError × Bool × Nat)) : Statement (.copyEngineFault wg entry bad) := fun _ _ h => nomatch (show noForm = some _ from h)
theorem mslpTimeout (thread : Nat) : Statement (.mslpTimeout thread) := fun _ _ h => nomatch (show noForm = some _ from h)
theorem lockBreak (thread entry : Nat) : Statement (.lockBreak thread entry) := fun _ _ h => nomatch (show noForm = some _ from h)
theorem rdt (msg : Nat) : Statement (.rdt msg) := fun _ _ h => nomatch (show noForm = some _ from h)
theorem wrt (msg : Nat) : Statement (.wrt msg) := fun _ _ h => nomatch (show noForm = some _ from h)
theorem tok (msg : Nat) : Statement (.tok msg) := fun _ _ h => nomatch (show noForm = some _ from h)
theorem wb (msg : Nat) : Statement (.wb msg) := fun _ _ h => nomatch (show noForm = some _ from h)
theorem preq (msg : Nat) : Statement (.preq msg) := fun _ _ h => nomatch (show noForm = some _ from h)
theorem pact (msg : Nat) : Statement (.pact msg) := fun _ _ h => nomatch (show noForm = some _ from h)
theorem pdone (msg : Nat) : Statement (.pdone msg) := fun _ _ h => nomatch (show noForm = some _ from h)
theorem pdeact (msg : Nat) : Statement (.pdeact msg) := fun _ _ h => nomatch (show noForm = some _ from h)
theorem rgstart (msg : Nat) : Statement (.rgstart msg) := fun _ _ h => nomatch (show noForm = some _ from h)
theorem rgack (msg : Nat) : Statement (.rgack msg) := fun _ _ h => nomatch (show noForm = some _ from h)
theorem rgdata (msg : Nat) : Statement (.rgdata msg) := fun _ _ h => nomatch (show noForm = some _ from h)
theorem rgend (msg : Nat) : Statement (.rgend msg) := fun _ _ h => nomatch (show noForm = some _ from h)
theorem transientRetryExpiry (agent sector : Nat) : Statement (.transientRetryExpiry agent sector) := fun _ _ h => nomatch (show noForm = some _ from h)
theorem persistentArbitration (home : Nat) : Statement (.persistentArbitration home) := fun _ _ h => nomatch (show noForm = some _ from h)
theorem homeRequest (home : Nat) : Statement (.homeRequest home) := fun _ _ h => nomatch (show noForm = some _ from h)
theorem regrowthTrigger (home sector : Nat) : Statement (.regrowthTrigger home sector) := fun _ _ h => nomatch (show noForm = some _ from h)
theorem pnakRetry (agent : Nat) : Statement (.pnakRetry agent) := fun _ _ h => nomatch (show noForm = some _ from h)
theorem windowSectorRead (agent sector : Nat) : Statement (.windowSectorRead agent sector) := fun _ _ h => nomatch (show noForm = some _ from h)
theorem entryLaunch (ctx queue : Nat) : Statement (.entryLaunch ctx queue) := fun _ _ h => nomatch (show noForm = some _ from h)
theorem entrySignalToken (ctx queue : Nat) : Statement (.entrySignalToken ctx queue) := fun _ _ h => nomatch (show noForm = some _ from h)
theorem entryWaitToken (ctx queue : Nat) : Statement (.entryWaitToken ctx queue) := fun _ _ h => nomatch (show noForm = some _ from h)
theorem entryResetToken (ctx queue : Nat) : Statement (.entryResetToken ctx queue) := fun _ _ h => nomatch (show noForm = some _ from h)
theorem launchAccept (ctx stream : Nat) : Statement (.launchAccept ctx stream) := fun _ _ h => nomatch (show noForm = some _ from h)
theorem dispatchOpportunity (die : Nat) : Statement (.dispatchOpportunity die) := fun _ _ h => nomatch (show noForm = some _ from h)
theorem launchComplete (launch : Nat) : Statement (.launchComplete launch) := fun _ _ h => nomatch (show noForm = some _ from h)
theorem terminationWaves (ctx object : Nat) : Statement (.terminationWaves ctx object) := fun _ _ h => nomatch (show noForm = some _ from h)
theorem systemAccessPacket (p : Packet) : Statement (.systemAccessPacket p) := fun _ _ h => nomatch (show noForm = some _ from h)
theorem dataPacketReceive (p : Packet) : Statement (.dataPacketReceive p) := fun _ _ h => nomatch (show noForm = some _ from h)
theorem getRequest (p : Packet) : Statement (.getRequest p) := fun _ _ h => nomatch (show noForm = some _ from h)
theorem acknowledgement (p : Packet) : Statement (.acknowledgement p) := fun _ _ h => nomatch (show noForm = some _ from h)
theorem mergedAcknowledgement (p : Packet) : Statement (.mergedAcknowledgement p) := fun _ _ h => nomatch (show noForm = some _ from h)
theorem multicastReplication (p : Packet) : Statement (.multicastReplication p) := fun _ _ h => nomatch (show noForm = some _ from h)
theorem reductionContribution (p : Packet) : Statement (.reductionContribution p) := fun _ _ h => nomatch (show noForm = some _ from h)
theorem reductionTimeout (key group ver epoch pseq : Nat) : Statement (.reductionTimeout key group ver epoch pseq) := fun _ _ h => nomatch (show noForm = some _ from h)
theorem retransmissionTimeout (xid pseq : Nat) : Statement (.retransmissionTimeout xid pseq) := fun _ _ h => nomatch (show noForm = some _ from h)
theorem packetLifetimeExpiry (xid pseq : Nat) : Statement (.packetLifetimeExpiry xid pseq) := fun _ _ h => nomatch (show noForm = some _ from h)
theorem countingEndTimeout (smod xid : Nat) : Statement (.countingEndTimeout smod xid) := fun _ _ h => nomatch (show noForm = some _ from h)
theorem fabricFailureRecorded (thread seq : Nat) : Statement (.fabricFailureRecorded thread seq) := fun _ _ h => nomatch (show noForm = some _ from h)
theorem peerLost (peer : Nat) : Statement (.peerLost peer) := fun _ _ h => nomatch (show noForm = some _ from h)
theorem haltWave (key : Nat) (trigger : Trigger) : Statement (.haltWave key trigger) := fun _ _ h => nomatch (show noForm = some _ from h)
theorem firstTriggerSettled (key : Nat) (trigger : Trigger) : Statement (.firstTriggerSettled key trigger) := fun _ _ h => nomatch (show noForm = some _ from h)
theorem brumationDrained (ctx : Nat) : Statement (.brumationDrained ctx) := fun _ _ h => nomatch (show noForm = some _ from h)
theorem resumeAtT (key : Nat) : Statement (.resumeAtT key) := fun _ _ h => nomatch (show noForm = some _ from h)
theorem resumeFailure (key : Nat) : Statement (.resumeFailure key) := fun _ _ h => nomatch (show noForm = some _ from h)
theorem treeBarrierRelease (key object : Nat) (rel : TreeRelease) : Statement (.treeBarrierRelease key object rel) := fun _ _ h => nomatch (show noForm = some _ from h)
theorem regrowthWaitTimeout (home sector agent : Nat) : Statement (.regrowthWaitTimeout home sector agent) := fun _ _ h => nomatch (show noForm = some _ from h)
theorem regrowthDeferralExpiry (home sector : Nat) : Statement (.regrowthDeferralExpiry home sector) := fun _ _ h => nomatch (show noForm = some _ from h)
theorem fabricEngineFault (thread seq : Nat) (bad : Option (DataError × Nat)) : Statement (.fabricEngineFault thread seq bad) := fun _ _ h => nomatch (show noForm = some _ from h)
theorem codeLineCrcMismatch (again : Bool) : Statement (.codeLineCrcMismatch again) := fun _ _ h => nomatch (show noForm = some _ from h)
theorem laneDeath (thread : Nat) (errs : RegErrors) : Statement (.laneDeath thread errs) := fun _ _ h => nomatch (show noForm = some _ from h)
theorem mstg (cu entry : Nat) (site : StorageSite) (row col : Nat) : Statement (.mstg cu entry site row col) := fun _ _ h => nomatch (show noForm = some _ from h)
theorem scrubActivation (home sector : Nat) (error : SymbolError) : Statement (.scrubActivation home sector error) := fun _ _ h => nomatch (show noForm = some _ from h)
theorem fwctlWrite (window : Nat) (value : Word64) : Statement (.fwctlWrite window value) := fun _ _ h => nomatch (show noForm = some _ from h)
theorem gctlCommit (key group : Nat) (value : Word64) : Statement (.gctlCommit key group value) := fun _ _ h => nomatch (show noForm = some _ from h)
theorem tbctlWrite (key object : Nat) (value : Word64) : Statement (.tbctlWrite key object value) := fun _ _ h => nomatch (show noForm = some _ from h)
theorem tmctlWrite (value : Word64) : Statement (.tmctlWrite value) := fun _ _ h => nomatch (show noForm = some _ from h)
theorem registerWrite (bar0 : Bool) (address : Nat) (value : Word64) : Statement (.registerWrite bar0 address value) := fun _ _ h => nomatch (show noForm = some _ from h)
theorem qtailDoorbell (ctx queue : Nat) (value : Word64) : Statement (.qtailDoorbell ctx queue value) := fun _ _ h => nomatch (show noForm = some _ from h)
theorem qcplWrite (ctx queue : Nat) (value : Word64) : Statement (.qcplWrite ctx queue value) := fun _ _ h => nomatch (show noForm = some _ from h)
theorem recoveryNotice (peer : Nat) (up : Bool) : Statement (.recoveryNotice peer up) := fun _ _ h => nomatch (show noForm = some _ from h)
theorem treeFailover (key : Nat) : Statement (.treeFailover key) := fun _ _ h => nomatch (show noForm = some _ from h)
theorem rowSegmentLoss (row : Nat) : Statement (.rowSegmentLoss row) := fun _ _ h => nomatch (show noForm = some _ from h)
theorem timeCalibration (die : Nat) (residual : Int) : Statement (.timeCalibration die residual) := fun _ _ h => nomatch (show noForm = some _ from h)
theorem dieLoss (tile : Nat) : Statement (.dieLoss tile) := fun _ _ h => nomatch (show noForm = some _ from h)
theorem dieReset (tile : Nat) (cus : Word64) (offset : Int) : Statement (.dieReset tile cus offset) := fun _ _ h => nomatch (show noForm = some _ from h)
theorem hostSnoop (port line : Nat) : Statement (.hostSnoop port line) := fun _ _ h => nomatch (show noForm = some _ from h)
theorem cxlMemRead (port address : Nat) : Statement (.cxlMemRead port address) := fun _ _ h => nomatch (show noForm = some _ from h)
theorem cxlMemWrite (port address : Nat) (enables : BitVec 64) (data : List Byte) : Statement (.cxlMemWrite port address enables data) := fun _ _ h => nomatch (show noForm = some _ from h)
theorem moduleStart (result : StartResult) : Statement (.moduleStart result) := fun _ _ h => nomatch (show noForm = some _ from h)
theorem throttleTrigger (step causes : BitVec 4) : Statement (.throttleTrigger step causes) := fun _ _ h => nomatch (show noForm = some _ from h)
theorem thermalReset : Statement (.thermalReset) := fun _ _ h => nomatch (show noForm = some _ from h)
theorem getVersion : Statement (.getVersion) := fun _ _ h => nomatch (show noForm = some _ from h)
theorem getCapabilities : Statement (.getCapabilities) := fun _ _ h => nomatch (show noForm = some _ from h)
theorem negotiateAlgorithms (algorithms : List Byte) : Statement (.negotiateAlgorithms algorithms) := fun _ _ h => nomatch (show noForm = some _ from h)
theorem getDigests : Statement (.getDigests) := fun _ _ h => nomatch (show noForm = some _ from h)
theorem getCertificate (slot offset length : Nat) : Statement (.getCertificate slot offset length) := fun _ _ h => nomatch (show noForm = some _ from h)
theorem challenge (slot : Nat) (nonce : List Byte) : Statement (.challenge slot nonce) := fun _ _ h => nomatch (show noForm = some _ from h)
theorem getMeasurements (index : Nat) (nonce : List Byte) : Statement (.getMeasurements index nonce) := fun _ _ h => nomatch (show noForm = some _ from h)
theorem hostPortLoss (port : Nat) (back : Bool) : Statement (.hostPortLoss port back) := fun _ _ h => nomatch (show noForm = some _ from h)
theorem qctlWrite (port ctx queue : Nat) (value : Word64) : Statement (.qctlWrite port ctx queue value) := fun _ _ h => nomatch (show noForm = some _ from h)
theorem fabricPortDown (port : Nat) : Statement (.fabricPortDown port) := fun _ _ h => nomatch (show noForm = some _ from h)
theorem pldmFirmwareUpdate (firmware : Word64) : Statement (.pldmFirmwareUpdate firmware) := fun _ _ h => nomatch (show noForm = some _ from h)

end Sys2Proof.Laws.OpcFits
end

