-- ==== Sys2Proof/Laws/State.lean ====
section
/-! SUPPORT. What each named update of the state leaves in each field: one lemma for each field and update. -/

namespace Sys2Proof.Machine

variable (s : State)

@[simp] theorem State.setThread_env (tid : Nat) (t : Thread) : (s.setThread tid t).env = s.env := rfl
@[simp] theorem State.setThread_mdl (tid : Nat) (t : Thread) : (s.setThread tid t).mdl = s.mdl := rfl
@[simp] theorem State.setThread_mem (tid : Nat) (t : Thread) : (s.setThread tid t).mem = s.mem := rfl
@[simp] theorem State.setThread_thr (tid : Nat) (t : Thread) : (s.setThread tid t).thr = nset s.thr tid t := rfl
@[simp] theorem State.setThread_wgs (tid : Nat) (t : Thread) : (s.setThread tid t).wgs = s.wgs := rfl
@[simp] theorem State.setThread_lch (tid : Nat) (t : Thread) : (s.setThread tid t).lch = s.lch := rfl
@[simp] theorem State.setThread_ctxs (tid : Nat) (t : Thread) : (s.setThread tid t).ctxs = s.ctxs := rfl
@[simp] theorem State.setThread_cus (tid : Nat) (t : Thread) : (s.setThread tid t).cus = s.cus := rfl
@[simp] theorem State.setThread_parts (tid : Nat) (t : Thread) : (s.setThread tid t).parts = s.parts := rfl
@[simp] theorem State.setThread_fab (tid : Nat) (t : Thread) : (s.setThread tid t).fab = s.fab := rfl
@[simp] theorem State.setThread_host (tid : Nat) (t : Thread) : (s.setThread tid t).host = s.host := rfl
@[simp] theorem State.setThread_images (tid : Nat) (t : Thread) : (s.setThread tid t).images = s.images := rfl
@[simp] theorem State.modThread_env (tid : Nat) (g : Thread → Thread) : (s.modThread tid g).env = s.env := rfl
@[simp] theorem State.modThread_mdl (tid : Nat) (g : Thread → Thread) : (s.modThread tid g).mdl = s.mdl := rfl
@[simp] theorem State.modThread_mem (tid : Nat) (g : Thread → Thread) : (s.modThread tid g).mem = s.mem := rfl
@[simp] theorem State.modThread_thr (tid : Nat) (g : Thread → Thread) : (s.modThread tid g).thr = nmod s.thr tid g := rfl
@[simp] theorem State.modThread_wgs (tid : Nat) (g : Thread → Thread) : (s.modThread tid g).wgs = s.wgs := rfl
@[simp] theorem State.modThread_lch (tid : Nat) (g : Thread → Thread) : (s.modThread tid g).lch = s.lch := rfl
@[simp] theorem State.modThread_ctxs (tid : Nat) (g : Thread → Thread) : (s.modThread tid g).ctxs = s.ctxs := rfl
@[simp] theorem State.modThread_cus (tid : Nat) (g : Thread → Thread) : (s.modThread tid g).cus = s.cus := rfl
@[simp] theorem State.modThread_parts (tid : Nat) (g : Thread → Thread) : (s.modThread tid g).parts = s.parts := rfl
@[simp] theorem State.modThread_fab (tid : Nat) (g : Thread → Thread) : (s.modThread tid g).fab = s.fab := rfl
@[simp] theorem State.modThread_host (tid : Nat) (g : Thread → Thread) : (s.modThread tid g).host = s.host := rfl
@[simp] theorem State.modThread_images (tid : Nat) (g : Thread → Thread) : (s.modThread tid g).images = s.images := rfl
@[simp] theorem State.modWg_env (w : Nat) (g : Wg → Wg) : (s.modWg w g).env = s.env := rfl
@[simp] theorem State.modWg_mdl (w : Nat) (g : Wg → Wg) : (s.modWg w g).mdl = s.mdl := rfl
@[simp] theorem State.modWg_mem (w : Nat) (g : Wg → Wg) : (s.modWg w g).mem = s.mem := rfl
@[simp] theorem State.modWg_thr (w : Nat) (g : Wg → Wg) : (s.modWg w g).thr = s.thr := rfl
@[simp] theorem State.modWg_wgs (w : Nat) (g : Wg → Wg) : (s.modWg w g).wgs = nmod s.wgs w g := rfl
@[simp] theorem State.modWg_lch (w : Nat) (g : Wg → Wg) : (s.modWg w g).lch = s.lch := rfl
@[simp] theorem State.modWg_ctxs (w : Nat) (g : Wg → Wg) : (s.modWg w g).ctxs = s.ctxs := rfl
@[simp] theorem State.modWg_cus (w : Nat) (g : Wg → Wg) : (s.modWg w g).cus = s.cus := rfl
@[simp] theorem State.modWg_parts (w : Nat) (g : Wg → Wg) : (s.modWg w g).parts = s.parts := rfl
@[simp] theorem State.modWg_fab (w : Nat) (g : Wg → Wg) : (s.modWg w g).fab = s.fab := rfl
@[simp] theorem State.modWg_host (w : Nat) (g : Wg → Wg) : (s.modWg w g).host = s.host := rfl
@[simp] theorem State.modWg_images (w : Nat) (g : Wg → Wg) : (s.modWg w g).images = s.images := rfl
@[simp] theorem State.modLaunch_env (l : Nat) (g : Launch → Launch) : (s.modLaunch l g).env = s.env := rfl
@[simp] theorem State.modLaunch_mdl (l : Nat) (g : Launch → Launch) : (s.modLaunch l g).mdl = s.mdl := rfl
@[simp] theorem State.modLaunch_mem (l : Nat) (g : Launch → Launch) : (s.modLaunch l g).mem = s.mem := rfl
@[simp] theorem State.modLaunch_thr (l : Nat) (g : Launch → Launch) : (s.modLaunch l g).thr = s.thr := rfl
@[simp] theorem State.modLaunch_wgs (l : Nat) (g : Launch → Launch) : (s.modLaunch l g).wgs = s.wgs := rfl
@[simp] theorem State.modLaunch_lch (l : Nat) (g : Launch → Launch) : (s.modLaunch l g).lch = nmod s.lch l g := rfl
@[simp] theorem State.modLaunch_ctxs (l : Nat) (g : Launch → Launch) : (s.modLaunch l g).ctxs = s.ctxs := rfl
@[simp] theorem State.modLaunch_cus (l : Nat) (g : Launch → Launch) : (s.modLaunch l g).cus = s.cus := rfl
@[simp] theorem State.modLaunch_parts (l : Nat) (g : Launch → Launch) : (s.modLaunch l g).parts = s.parts := rfl
@[simp] theorem State.modLaunch_fab (l : Nat) (g : Launch → Launch) : (s.modLaunch l g).fab = s.fab := rfl
@[simp] theorem State.modLaunch_host (l : Nat) (g : Launch → Launch) : (s.modLaunch l g).host = s.host := rfl
@[simp] theorem State.modLaunch_images (l : Nat) (g : Launch → Launch) : (s.modLaunch l g).images = s.images := rfl
@[simp] theorem State.setCtx_env (c : Nat) (x : Ctx) : (s.setCtx c x).env = s.env := rfl
@[simp] theorem State.setCtx_mdl (c : Nat) (x : Ctx) : (s.setCtx c x).mdl = s.mdl := rfl
@[simp] theorem State.setCtx_mem (c : Nat) (x : Ctx) : (s.setCtx c x).mem = s.mem := rfl
@[simp] theorem State.setCtx_thr (c : Nat) (x : Ctx) : (s.setCtx c x).thr = s.thr := rfl
@[simp] theorem State.setCtx_wgs (c : Nat) (x : Ctx) : (s.setCtx c x).wgs = s.wgs := rfl
@[simp] theorem State.setCtx_lch (c : Nat) (x : Ctx) : (s.setCtx c x).lch = s.lch := rfl
@[simp] theorem State.setCtx_ctxs (c : Nat) (x : Ctx) : (s.setCtx c x).ctxs = nset s.ctxs c x := rfl
@[simp] theorem State.setCtx_cus (c : Nat) (x : Ctx) : (s.setCtx c x).cus = s.cus := rfl
@[simp] theorem State.setCtx_parts (c : Nat) (x : Ctx) : (s.setCtx c x).parts = s.parts := rfl
@[simp] theorem State.setCtx_fab (c : Nat) (x : Ctx) : (s.setCtx c x).fab = s.fab := rfl
@[simp] theorem State.setCtx_host (c : Nat) (x : Ctx) : (s.setCtx c x).host = s.host := rfl
@[simp] theorem State.setCtx_images (c : Nat) (x : Ctx) : (s.setCtx c x).images = s.images := rfl
@[simp] theorem State.modCtx_env (c : Nat) (g : Ctx → Ctx) : (s.modCtx c g).env = s.env := rfl
@[simp] theorem State.modCtx_mdl (c : Nat) (g : Ctx → Ctx) : (s.modCtx c g).mdl = s.mdl := rfl
@[simp] theorem State.modCtx_mem (c : Nat) (g : Ctx → Ctx) : (s.modCtx c g).mem = s.mem := rfl
@[simp] theorem State.modCtx_thr (c : Nat) (g : Ctx → Ctx) : (s.modCtx c g).thr = s.thr := rfl
@[simp] theorem State.modCtx_wgs (c : Nat) (g : Ctx → Ctx) : (s.modCtx c g).wgs = s.wgs := rfl
@[simp] theorem State.modCtx_lch (c : Nat) (g : Ctx → Ctx) : (s.modCtx c g).lch = s.lch := rfl
@[simp] theorem State.modCtx_ctxs (c : Nat) (g : Ctx → Ctx) : (s.modCtx c g).ctxs = nset s.ctxs c (g (s.ctx c)) := rfl
@[simp] theorem State.modCtx_cus (c : Nat) (g : Ctx → Ctx) : (s.modCtx c g).cus = s.cus := rfl
@[simp] theorem State.modCtx_parts (c : Nat) (g : Ctx → Ctx) : (s.modCtx c g).parts = s.parts := rfl
@[simp] theorem State.modCtx_fab (c : Nat) (g : Ctx → Ctx) : (s.modCtx c g).fab = s.fab := rfl
@[simp] theorem State.modCtx_host (c : Nat) (g : Ctx → Ctx) : (s.modCtx c g).host = s.host := rfl
@[simp] theorem State.modCtx_images (c : Nat) (g : Ctx → Ctx) : (s.modCtx c g).images = s.images := rfl
@[simp] theorem State.setCu_env (n : Nat) (x : Cu) : (s.setCu n x).env = s.env := rfl
@[simp] theorem State.setCu_mdl (n : Nat) (x : Cu) : (s.setCu n x).mdl = s.mdl := rfl
@[simp] theorem State.setCu_mem (n : Nat) (x : Cu) : (s.setCu n x).mem = s.mem := rfl
@[simp] theorem State.setCu_thr (n : Nat) (x : Cu) : (s.setCu n x).thr = s.thr := rfl
@[simp] theorem State.setCu_wgs (n : Nat) (x : Cu) : (s.setCu n x).wgs = s.wgs := rfl
@[simp] theorem State.setCu_lch (n : Nat) (x : Cu) : (s.setCu n x).lch = s.lch := rfl
@[simp] theorem State.setCu_ctxs (n : Nat) (x : Cu) : (s.setCu n x).ctxs = s.ctxs := rfl
@[simp] theorem State.setCu_cus (n : Nat) (x : Cu) : (s.setCu n x).cus = nset s.cus n x := rfl
@[simp] theorem State.setCu_parts (n : Nat) (x : Cu) : (s.setCu n x).parts = s.parts := rfl
@[simp] theorem State.setCu_fab (n : Nat) (x : Cu) : (s.setCu n x).fab = s.fab := rfl
@[simp] theorem State.setCu_host (n : Nat) (x : Cu) : (s.setCu n x).host = s.host := rfl
@[simp] theorem State.setCu_images (n : Nat) (x : Cu) : (s.setCu n x).images = s.images := rfl
@[simp] theorem State.modCu_env (n : Nat) (g : Cu → Cu) : (s.modCu n g).env = s.env := rfl
@[simp] theorem State.modCu_mdl (n : Nat) (g : Cu → Cu) : (s.modCu n g).mdl = s.mdl := rfl
@[simp] theorem State.modCu_mem (n : Nat) (g : Cu → Cu) : (s.modCu n g).mem = s.mem := rfl
@[simp] theorem State.modCu_thr (n : Nat) (g : Cu → Cu) : (s.modCu n g).thr = s.thr := rfl
@[simp] theorem State.modCu_wgs (n : Nat) (g : Cu → Cu) : (s.modCu n g).wgs = s.wgs := rfl
@[simp] theorem State.modCu_lch (n : Nat) (g : Cu → Cu) : (s.modCu n g).lch = s.lch := rfl
@[simp] theorem State.modCu_ctxs (n : Nat) (g : Cu → Cu) : (s.modCu n g).ctxs = s.ctxs := rfl
@[simp] theorem State.modCu_cus (n : Nat) (g : Cu → Cu) : (s.modCu n g).cus = nset s.cus n (g (s.cu n)) := rfl
@[simp] theorem State.modCu_parts (n : Nat) (g : Cu → Cu) : (s.modCu n g).parts = s.parts := rfl
@[simp] theorem State.modCu_fab (n : Nat) (g : Cu → Cu) : (s.modCu n g).fab = s.fab := rfl
@[simp] theorem State.modCu_host (n : Nat) (g : Cu → Cu) : (s.modCu n g).host = s.host := rfl
@[simp] theorem State.modCu_images (n : Nat) (g : Cu → Cu) : (s.modCu n g).images = s.images := rfl
@[simp] theorem State.setPart_env (k : Nat) (p : Part) : (s.setPart k p).env = s.env := rfl
@[simp] theorem State.setPart_mdl (k : Nat) (p : Part) : (s.setPart k p).mdl = s.mdl := rfl
@[simp] theorem State.setPart_mem (k : Nat) (p : Part) : (s.setPart k p).mem = s.mem := rfl
@[simp] theorem State.setPart_thr (k : Nat) (p : Part) : (s.setPart k p).thr = s.thr := rfl
@[simp] theorem State.setPart_wgs (k : Nat) (p : Part) : (s.setPart k p).wgs = s.wgs := rfl
@[simp] theorem State.setPart_lch (k : Nat) (p : Part) : (s.setPart k p).lch = s.lch := rfl
@[simp] theorem State.setPart_ctxs (k : Nat) (p : Part) : (s.setPart k p).ctxs = s.ctxs := rfl
@[simp] theorem State.setPart_cus (k : Nat) (p : Part) : (s.setPart k p).cus = s.cus := rfl
@[simp] theorem State.setPart_parts (k : Nat) (p : Part) : (s.setPart k p).parts = nset s.parts k p := rfl
@[simp] theorem State.setPart_fab (k : Nat) (p : Part) : (s.setPart k p).fab = s.fab := rfl
@[simp] theorem State.setPart_host (k : Nat) (p : Part) : (s.setPart k p).host = s.host := rfl
@[simp] theorem State.setPart_images (k : Nat) (p : Part) : (s.setPart k p).images = s.images := rfl
@[simp] theorem State.modPart_env (k : Nat) (g : Part → Part) : (s.modPart k g).env = s.env := rfl
@[simp] theorem State.modPart_mdl (k : Nat) (g : Part → Part) : (s.modPart k g).mdl = s.mdl := rfl
@[simp] theorem State.modPart_mem (k : Nat) (g : Part → Part) : (s.modPart k g).mem = s.mem := rfl
@[simp] theorem State.modPart_thr (k : Nat) (g : Part → Part) : (s.modPart k g).thr = s.thr := rfl
@[simp] theorem State.modPart_wgs (k : Nat) (g : Part → Part) : (s.modPart k g).wgs = s.wgs := rfl
@[simp] theorem State.modPart_lch (k : Nat) (g : Part → Part) : (s.modPart k g).lch = s.lch := rfl
@[simp] theorem State.modPart_ctxs (k : Nat) (g : Part → Part) : (s.modPart k g).ctxs = s.ctxs := rfl
@[simp] theorem State.modPart_cus (k : Nat) (g : Part → Part) : (s.modPart k g).cus = s.cus := rfl
@[simp] theorem State.modPart_parts (k : Nat) (g : Part → Part) : (s.modPart k g).parts = nset s.parts k (g (s.part k)) := rfl
@[simp] theorem State.modPart_fab (k : Nat) (g : Part → Part) : (s.modPart k g).fab = s.fab := rfl
@[simp] theorem State.modPart_host (k : Nat) (g : Part → Part) : (s.modPart k g).host = s.host := rfl
@[simp] theorem State.modPart_images (k : Nat) (g : Part → Part) : (s.modPart k g).images = s.images := rfl
@[simp] theorem State.modMem_env (g : MemSys → MemSys) : (s.modMem g).env = s.env := rfl
@[simp] theorem State.modMem_mdl (g : MemSys → MemSys) : (s.modMem g).mdl = s.mdl := rfl
@[simp] theorem State.modMem_mem (g : MemSys → MemSys) : (s.modMem g).mem = g s.mem := rfl
@[simp] theorem State.modMem_thr (g : MemSys → MemSys) : (s.modMem g).thr = s.thr := rfl
@[simp] theorem State.modMem_wgs (g : MemSys → MemSys) : (s.modMem g).wgs = s.wgs := rfl
@[simp] theorem State.modMem_lch (g : MemSys → MemSys) : (s.modMem g).lch = s.lch := rfl
@[simp] theorem State.modMem_ctxs (g : MemSys → MemSys) : (s.modMem g).ctxs = s.ctxs := rfl
@[simp] theorem State.modMem_cus (g : MemSys → MemSys) : (s.modMem g).cus = s.cus := rfl
@[simp] theorem State.modMem_parts (g : MemSys → MemSys) : (s.modMem g).parts = s.parts := rfl
@[simp] theorem State.modMem_fab (g : MemSys → MemSys) : (s.modMem g).fab = s.fab := rfl
@[simp] theorem State.modMem_host (g : MemSys → MemSys) : (s.modMem g).host = s.host := rfl
@[simp] theorem State.modMem_images (g : MemSys → MemSys) : (s.modMem g).images = s.images := rfl
@[simp] theorem State.setHome_env (h : Nat) (x : Home) : (s.setHome h x).env = s.env := rfl
@[simp] theorem State.setHome_mdl (h : Nat) (x : Home) : (s.setHome h x).mdl = s.mdl := rfl
@[simp] theorem State.setHome_mem (h : Nat) (x : Home) : (s.setHome h x).mem = { s.mem with homes := nset s.mem.homes h x } := rfl
@[simp] theorem State.setHome_thr (h : Nat) (x : Home) : (s.setHome h x).thr = s.thr := rfl
@[simp] theorem State.setHome_wgs (h : Nat) (x : Home) : (s.setHome h x).wgs = s.wgs := rfl
@[simp] theorem State.setHome_lch (h : Nat) (x : Home) : (s.setHome h x).lch = s.lch := rfl
@[simp] theorem State.setHome_ctxs (h : Nat) (x : Home) : (s.setHome h x).ctxs = s.ctxs := rfl
@[simp] theorem State.setHome_cus (h : Nat) (x : Home) : (s.setHome h x).cus = s.cus := rfl
@[simp] theorem State.setHome_parts (h : Nat) (x : Home) : (s.setHome h x).parts = s.parts := rfl
@[simp] theorem State.setHome_fab (h : Nat) (x : Home) : (s.setHome h x).fab = s.fab := rfl
@[simp] theorem State.setHome_host (h : Nat) (x : Home) : (s.setHome h x).host = s.host := rfl
@[simp] theorem State.setHome_images (h : Nat) (x : Home) : (s.setHome h x).images = s.images := rfl
@[simp] theorem State.modHome_env (h : Nat) (g : Home → Home) : (s.modHome h g).env = s.env := rfl
@[simp] theorem State.modHome_mdl (h : Nat) (g : Home → Home) : (s.modHome h g).mdl = s.mdl := rfl
@[simp] theorem State.modHome_mem (h : Nat) (g : Home → Home) : (s.modHome h g).mem = { s.mem with homes := nset s.mem.homes h (g (s.home h)) } := rfl
@[simp] theorem State.modHome_thr (h : Nat) (g : Home → Home) : (s.modHome h g).thr = s.thr := rfl
@[simp] theorem State.modHome_wgs (h : Nat) (g : Home → Home) : (s.modHome h g).wgs = s.wgs := rfl
@[simp] theorem State.modHome_lch (h : Nat) (g : Home → Home) : (s.modHome h g).lch = s.lch := rfl
@[simp] theorem State.modHome_ctxs (h : Nat) (g : Home → Home) : (s.modHome h g).ctxs = s.ctxs := rfl
@[simp] theorem State.modHome_cus (h : Nat) (g : Home → Home) : (s.modHome h g).cus = s.cus := rfl
@[simp] theorem State.modHome_parts (h : Nat) (g : Home → Home) : (s.modHome h g).parts = s.parts := rfl
@[simp] theorem State.modHome_fab (h : Nat) (g : Home → Home) : (s.modHome h g).fab = s.fab := rfl
@[simp] theorem State.modHome_host (h : Nat) (g : Home → Home) : (s.modHome h g).host = s.host := rfl
@[simp] theorem State.modHome_images (h : Nat) (g : Home → Home) : (s.modHome h g).images = s.images := rfl
@[simp] theorem State.fresh_env : s.fresh.2.env = { s.env with nextId := s.env.nextId + 1 } := rfl
@[simp] theorem State.fresh_mdl : s.fresh.2.mdl = s.mdl := rfl
@[simp] theorem State.fresh_mem : s.fresh.2.mem = s.mem := rfl
@[simp] theorem State.fresh_thr : s.fresh.2.thr = s.thr := rfl
@[simp] theorem State.fresh_wgs : s.fresh.2.wgs = s.wgs := rfl
@[simp] theorem State.fresh_lch : s.fresh.2.lch = s.lch := rfl
@[simp] theorem State.fresh_ctxs : s.fresh.2.ctxs = s.ctxs := rfl
@[simp] theorem State.fresh_cus : s.fresh.2.cus = s.cus := rfl
@[simp] theorem State.fresh_parts : s.fresh.2.parts = s.parts := rfl
@[simp] theorem State.fresh_fab : s.fresh.2.fab = s.fab := rfl
@[simp] theorem State.fresh_host : s.fresh.2.host = s.host := rfl
@[simp] theorem State.fresh_images : s.fresh.2.images = s.images := rfl
@[simp] theorem State.fresh_name : s.fresh.1 = s.env.nextId := rfl

end Sys2Proof.Machine
end

