-- ==== Sys2Proof/Laws/Retire.lean ====
section
/-! SUPPORT. What register writes and the retirement of a form leave: one lemma for each operation. -/

namespace Sys2Proof.Machine

open Host (Outcome)

theorem State.thread_modThread (s : State) (i : Nat) (g : Thread → Thread) (j : Nat) :
    (s.modThread i g).thread j = if j = i then (s.thread i).map g else s.thread j := nget_nmod _ _ _ _

theorem State.thread_setThread (s : State) (i : Nat) (t : Thread) (j : Nat) :
    (s.setThread i t).thread j = if j = i then some t else s.thread j := nget_nset _ _ _ _

theorem State.wg_modWg (s : State) (i : Nat) (g : Wg → Wg) (j : Nat) :
    (s.modWg i g).wg j = if j = i then (s.wg i).map g else s.wg j := nget_nmod _ _ _ _

@[simp] theorem State.wg_modThread (s : State) (i : Nat) (g : Thread → Thread) (j : Nat) : (s.modThread i g).wg j = s.wg j := rfl
@[simp] theorem State.thread_modWg (s : State) (i : Nat) (g : Wg → Wg) (j : Nat) : (s.modWg i g).thread j = s.thread j := rfl
@[simp] theorem State.thread_fresh (s : State) (j : Nat) : s.fresh.2.thread j = s.thread j := rfl
@[simp] theorem State.wg_fresh (s : State) (j : Nat) : s.fresh.2.wg j = s.wg j := rfl

theorem mkLanes_get (g : Nat → Word) (l : Nat) (h : l < 32) : (mkLanes g)[l]? = some (g l) := by
  simp [mkLanes, h]

/-- A written name shows the new value in the lanes of the mask, and its old one elsewhere; other names are as before. -/
theorem Thread.vlane_writeVec (t : Thread) (id n : Nat) (val : Nat → Word) (mask : Mask) (m l : Nat) (h : l < 32) :
    (t.writeVec id n val mask).vlane m l = if n = m ∧ mask.getLsbD l = true then val l else t.vlane m l := by
  unfold Thread.vlane Thread.writeVec
  simp only [nget_nset]
  by_cases hm : m = n
  · subst hm
    simp only [if_true, Option.bind_some, mkLanes_get _ _ h, Option.getD_some, true_and]
    split_ifs <;> rfl
  · have : ¬n = m := fun e => hm e.symm
    simp [hm, this]

/-- A written predicate takes the value in the lanes of the mask; p15 and other predicates are as before. -/
theorem Thread.pred_writePred (t : Thread) (n : Nat) (val mask : Mask) (m : Nat) :
    (t.writePred n val mask).pred m = if n = m ∧ m ≠ 15 then (val &&& mask) ||| (t.pred m &&& ~~~mask) else t.pred m := by
  unfold Thread.writePred
  by_cases h15 : n = 15
  · simp only [h15, if_true]
    split_ifs with h
    · exact absurd h.1.symm h.2
    · rfl
  · simp only [h15, if_false]
    by_cases hm : n = m
    · subst hm
      simp [Thread.pred, h15, ngetD_nset]
    · have : ¬m = n := fun e => hm e.symm
      simp [Thread.pred, hm, ngetD_nset, this]

/-- What register writes leave. -/
structure Wrote (lat : Nat) (s u : State) (tid : Nat) (t t' : Thread) (ws : List Write) : Prop where
  thread : u.thread tid = some t'
  vector : ∀ n l, l < 32 → t'.vlane n l = laneAfter ws n l (t.vlane n l)
  scalar : ∀ n, ngetD t'.sreg n 0 = scalarAfter ws n (ngetD t.sreg n 0)
  pred : ∀ n, t'.pred n = predAfter ws n (t.pred n)
  same : t' = { t with vmap := t'.vmap, sreg := t'.sreg, preg := t'.preg }
  wregs : ∀ w, u.wg w = (s.wg w).map fun g => if w = t.wg then { g with w := wAfter s.cyc lat t.barrel tid ws g.w } else g
  others : ∀ j, j ≠ tid → u.thread j = s.thread j
  state : u = { s with env := { s.env with nextId := u.env.nextId }, thr := u.thr, wgs := u.wgs }

theorem Wrote.nil (lat : Nat) (s : State) (tid : Nat) (t : Thread) (h : s.thread tid = some t) : Wrote lat s s tid t t [] :=
  ⟨h, fun _ _ _ => rfl, fun _ => rfl, fun _ => rfl, rfl, fun w => by cases s.wg w <;> simp [wAfter], fun _ _ => rfl, rfl⟩

theorem Wrote.trans {lat : Nat} {s u v : State} {tid : Nat} {t t1 t2 : Thread} {w : Write} {ws : List Write}
    (h1 : Wrote lat s u tid t t1 [w]) (h2 : Wrote lat u v tid t1 t2 ws) : Wrote lat s v tid t t2 (w :: ws) where
  thread := h2.thread
  vector n l h := by rw [h2.vector n l h, h1.vector n l h]; rfl
  scalar n := by rw [h2.scalar n, h1.scalar n]; rfl
  pred n := by rw [h2.pred n, h1.pred n]; rfl
  same := by rw [h2.same, h1.same]
  wregs x := by
    have e1 := h1.same
    have hw : t1.wg = t.wg := by rw [e1]
    have hb : t1.barrel = t.barrel := by rw [e1]
    have hc : u.cyc = s.cyc := by rw [h1.state]; rfl
    rw [h2.wregs x, h1.wregs x, hw, hb, hc]
    cases s.wg x with
    | none => rfl
    | some g => simp only [Option.map_some]; split_ifs <;> rfl
  others j hj := by rw [h2.others j hj, h1.others j hj]
  state := by
    have e1 := h1.state
    have e2 := h2.state
    rw [e1] at e2
    exact e2

/-- One register write leaves what `Wrote` says. -/
theorem Wrote.one (lat tid : Nat) (s : State) (t : Thread) (w : Write) (h : s.thread tid = some t) :
    ∃ t', Wrote lat s (applyWrite lat tid s w) tid t t' [w] := by
  cases w with
  | vec n val mask =>
    refine ⟨t.writeVec s.env.nextId n (fun l => (val[l]?).getD 0) mask, ?_, ?_, ?_, ?_, ?_, ?_, ?_, ?_⟩
    · simp [applyWrite, State.thread_modThread, h]
    · intro m l hl; simp [laneAfter, Thread.vlane_writeVec _ _ _ _ _ _ _ hl]
    · intro m; rfl
    · intro m; rfl
    · rfl
    · intro x; simp only [applyWrite, State.wg_modThread, State.wg_fresh, wAfter]; cases s.wg x <;> simp
    · intro j hj; simp [applyWrite, State.thread_modThread, hj]
    · rfl
  | prd n val mask =>
    refine ⟨t.writePred n val mask, ?_, ?_, ?_, ?_, ?_, ?_, ?_, ?_⟩
    · simp [applyWrite, State.thread_modThread, h]
    · intro m l hl; unfold Thread.writePred; split_ifs <;> rfl
    · intro m; unfold Thread.writePred; split_ifs <;> rfl
    · intro m; simp [predAfter, Thread.pred_writePred]
    · unfold Thread.writePred; split_ifs <;> rfl
    · intro x; simp only [applyWrite, State.wg_modThread, wAfter]; cases s.wg x <;> simp
    · intro j hj; simp [applyWrite, State.thread_modThread, hj]
    · rfl
  | uni code v =>
    have keep : ∀ (hs : ∀ n, regOf code ≠ .s n) (hw : ∀ n, regOf code ≠ .w n), applyWrite lat tid s (.uni code v) = s →
        Wrote lat s (applyWrite lat tid s (.uni code v)) tid t t [.uni code v] := by
      intro hs hw e
      rw [e]
      refine ⟨h, fun _ _ _ => rfl, fun n => by simp [scalarAfter, hs n], fun _ => rfl, rfl, ?_, fun _ _ => rfl, rfl⟩
      intro x
      have : ∀ m, wAfter s.cyc lat t.barrel tid [.uni code v] m = m := by
        intro m
        unfold wAfter
        simp only [List.foldl_cons, List.foldl_nil]
      cases s.wg x <;> simp [this]
    cases hc : regOf code with
    | s n =>
      refine ⟨{ t with sreg := nset t.sreg n v }, ?_, ?_, ?_, ?_, ?_, ?_, ?_, ?_⟩
      · simp [applyWrite, hc, State.thread_modThread, h]
      · intro m l hl; rfl
      · intro m; simp only [scalarAfter, List.foldl_cons, List.foldl_nil, hc, ngetD_nset, Reg.s.injEq]
        by_cases e : m = n
        · simp [e]
        · have : ¬n = m := fun x => e x.symm
          simp [e, this]
      · intro m; rfl
      · rfl
      · intro x
        simp only [applyWrite, hc, State.wg_modThread, wAfter, List.foldl_cons, List.foldl_nil]
        cases s.wg x <;> simp
      · intro j hj; simp [applyWrite, hc, State.thread_modThread, hj]
      · simp only [applyWrite, hc]; rfl
    | w n =>
      refine ⟨t, ?_, ?_, ?_, ?_, ?_, ?_, ?_, ?_⟩
      · simp [applyWrite, hc, h]
      · intro m l hl; rfl
      · intro m; simp [scalarAfter, hc]
      · intro m; rfl
      · rfl
      · intro x
        simp only [applyWrite, hc, h, State.wg_modWg, wAfter, List.foldl_cons, List.foldl_nil]
        by_cases e : x = t.wg
        · subst e
          cases s.wg t.wg <;> simp
        · simp only [e, if_false]
          cases s.wg x <;> simp
      · intro j hj; simp [applyWrite, hc, h]
      · simp only [applyWrite, hc, h]; rfl
    | v n => exact ⟨t, keep (by simp [hc]) (by simp [hc]) (by simp [applyWrite, hc])⟩
    | k n => exact ⟨t, keep (by simp [hc]) (by simp [hc]) (by simp [applyWrite, hc])⟩
    | zr => exact ⟨t, keep (by simp [hc]) (by simp [hc]) (by simp [applyWrite, hc])⟩
    | reserved => exact ⟨t, keep (by simp [hc]) (by simp [hc]) (by simp [applyWrite, hc])⟩

/-- Register writes in order leave what `Wrote` says. -/
theorem applyWrites_wrote (lat tid : Nat) (ws : List Write) (s : State) (t : Thread) (h : s.thread tid = some t) :
    ∃ t', Wrote lat s (applyWrites lat tid s ws) tid t t' ws := by
  induction ws generalizing s t with
  | nil => exact ⟨t, Wrote.nil lat s tid t h⟩
  | cons w r ih =>
    obtain ⟨t1, h1⟩ := Wrote.one lat tid s t w h
    obtain ⟨t2, h2⟩ := ih _ _ h1.thread
    exact ⟨t2, h1.trans h2⟩

/-- Releasing names unmaps those that the writes do not map, and leaves the rest. -/
theorem Thread.nget_release (t : Thread) (names : List Nat) (ws : List Write) (n : Nat) :
    nget (t.release names ws).vmap n = if n ∈ names ∧ n ∉ wroteNames ws then none else nget t.vmap n := by
  have := nget_filter t.vmap (fun k => !(names.contains k && !(wroteNames ws).contains k)) n
  simp only [Thread.release, this]
  by_cases h1 : n ∈ names <;> by_cases h2 : n ∈ wroteNames ws <;> simp [h1, h2]

/-- The end of an issue, apart from the names that it releases. -/
theorem Thread.retired_eq (t old : Thread) (now : Nat) (names : List Nat) (f : Fields) (d : Done) :
    (t.retired old now names f d).vmap = (t.release names d.writes).vmap ∧
      (t.retired old now names f d).sreg = t.sreg ∧ (t.retired old now names f d).preg = t.preg ∧
      (t.retired old now names f d).fpstat = raiseFlags t.fpctl t.fpstat d.flags ∧
      (t.retired old now names f d).pc = d.pc.getD (nextPc old.pc) ∧ (t.retired old now names f d).sig = t.sig ∧
      (t.retired old now names f d).frame = t.frame := ⟨rfl, rfl, rfl, rfl, rfl, rfl, rfl⟩

/-- Folding changes nothing but the signature of a group. -/
theorem Thread.foldIssue_eq (t : Thread) (opc : Nat) (sig : Option Word) (h : t.blk = none) :
    t.foldIssue opc sig =
      { t with sig := if t.isGroup then sig.getD (fold16 t.sig (BitVec.ofNat 16 opc)) else t.sig } := by
  have hb : t.blk.isSome = false := by rw [h]; rfl
  unfold Thread.foldIssue
  cases sig with
  | some v => simp only [Thread.setSig, Option.getD_some]; split_ifs <;> rfl
  | none =>
    simp only [hb, Bool.false_eq_true, if_false, Thread.foldOpc, Option.getD_none]
    split_ifs <;> rfl

/-- A form that keeps its group within its budget retires as `Retires` says. -/
theorem retire_retires {s : State} {tid : Nat} {t : Thread} (opc : Nat) (f : Fields) (d : Done) (h : s.thread tid = some t)
    (new : t.blk = none) (fit : t.fits d.writes = true) : ∃ t', Retires s (retire opc f s tid t d) tid t t' opc f d := by
  obtain ⟨t1, w⟩ := applyWrites_wrote d.lat tid d.writes s t h
  have e : retire opc f s tid t d =
      (applyWrites d.lat tid s d.writes).modThread tid fun u =>
        (u.foldIssue opc d.sig).retired t (applyWrites d.lat tid s d.writes).cyc (lrNames s tid t opc f) f d := by
    unfold retire
    rw [if_pos fit]
    rfl
  have same := w.same
  have blk : t1.blk = none := by rw [same]; exact new
  have grp : t1.isGroup = t.isGroup := by rw [same]; rfl
  have q := Thread.retired_eq (t1.foldIssue opc d.sig) t (applyWrites d.lat tid s d.writes).cyc (lrNames s tid t opc f) f d
  obtain ⟨qv, qs, qp, qf, qpc, qsig, qfr⟩ := q
  have fo := Thread.foldIssue_eq t1 opc d.sig blk
  refine ⟨(t1.foldIssue opc d.sig).retired t (applyWrites d.lat tid s d.writes).cyc (lrNames s tid t opc f) f d, ?_⟩
  rw [e]
  have nv : ∀ n, nget ((t1.foldIssue opc d.sig).retired t (applyWrites d.lat tid s d.writes).cyc
      (lrNames s tid t opc f) f d).vmap n =
      if n ∈ lrNames s tid t opc f ∧ n ∉ wroteNames d.writes then none else nget t1.vmap n := by
    intro n
    rw [qv, Thread.nget_release, fo]
  constructor
  · simp [State.thread_modThread, w.thread]
  · exact qpc
  · rw [qsig, fo]
    simp only [grp]
    rw [show t1.sig = t.sig by rw [same]]
  · intro n l hl hn
    have : ¬(n ∈ lrNames s tid t opc f ∧ n ∉ wroteNames d.writes) := by tauto
    rw [← w.vector n l hl]
    unfold Thread.vlane
    rw [nv, if_neg this]
  · intro n h1 h2
    rw [nv, if_pos ⟨h1, h2⟩]
  · intro n
    rw [qs, fo]
    exact w.scalar n
  · intro n
    rw [← w.pred n]
    unfold Thread.pred
    rw [qp, fo]
  · rw [qf, fo, show t1.fpctl = t.fpctl by rw [same], show t1.fpstat = t.fpstat by rw [same]]
  · rw [qfr, fo]
    rw [same]
    rfl
  · intro x
    rw [State.wg_modThread]
    exact w.wregs x
  · intro j hj
    rw [State.thread_modThread, if_neg hj]
    exact w.others j hj
  · have := w.state
    rw [this]
    rfl

/-- A form that may issue runs its body. -/
theorem issue_runs {s : State} {tid : Nat} {t : Thread} {opc : Nat} {f : Fields} (h : Issues s tid t opc f)
    (body : State → Nat → Thread → State) : issue opc f s body = .next (body s tid t) := by
  unfold issue
  simp only [h.turn, h.thread, h.ready, if_true]

/-- A form that may not issue yet waits. -/
theorem issue_waits {s : State} {tid : Nat} {t : Thread} {opc : Nat} {f : Fields} (hc : s.env.cur = some tid)
    (ht : s.thread tid = some t) (hr : Sys2Proof.Machine.ready s tid t opc f = false)
    (body : State → Nat → Thread → State) :
    issue opc f s body = .next (s.modThread tid fun u => { u with waits := true }) := by
  unfold issue
  simp only [hc, ht, hr, Bool.false_eq_true, if_false]

/-- A form whose action is done retires with it. -/
theorem issueAct_retires {s : State} {tid : Nat} {t : Thread} {opc : Nat} {f : Fields} {d : Done} (h : Issues s tid t opc f)
    {act : State → Nat → Thread → Act} (ha : act s tid t = .done d) (fit : t.fits d.writes = true) :
    ∃ u t', issueAct opc f s act = .next u ∧ Retires s u tid t t' opc f d := by
  obtain ⟨t', ht⟩ := retire_retires opc f d h.thread h.new fit
  refine ⟨_, t', ?_, ht⟩
  rw [issueAct, issue_runs h, ha]
  rfl

/-- An instruction that is an action done with these writes and flags completes. -/
theorem completes_of {form : Fields → Instr} {opc : Nat} {f : Fields} {s : State} {tid : Nat} {t : Thread} {ws : List Write}
    {flags lat : Nat} (act : State → Nat → Thread → Act) (he : exec (form f) s = issueAct opc f s act)
    (ha : act s tid t = .done { writes := ws, flags := flags, lat := lat }) :
    Completes form opc f s tid t ws flags lat := by
  intro h fit
  obtain ⟨u, t', h1, h2⟩ := issueAct_retires (d := { writes := ws, flags := flags, lat := lat }) h ha fit
  exact ⟨u, t', he.trans h1, h2⟩

/-- Writes that map no new vector name fit in every budget. -/
theorem Thread.fits_of_newNames (t : Thread) (ws : List Write) (h : newNames t ws = []) : t.fits ws = true := by
  simp [Thread.fits, h]

end Sys2Proof.Machine
end

