-- ==== Sys2Proof/Tests/Slice0.lean ====
section
/-! SUPPORT. Tests: the encodings and worked cases of the manual, terms that are not well formed, and for every statement states that meet its
hypotheses. -/

namespace Sys2Proof.Tests
set_option Elab.async false
open Sys2Proof.Machine

/-- Every lane. -/
def full : Mask := 0xFFFFFFFF

/-- A group of context 1 with three vector registers, two scalars, p2 in lanes 0 to 3, and a budget of 64. -/
def grp : Thread :=
  { Thread.start .group 1 3 0 0 0 0x1000 0 with
    hasWg := true, wg := 2, place := .active, budget := 64, exm := full, lmask := full, c0 := full,
    vmap := [(1, ⟨50, mkLanes fun l => BitVec.ofNat 32 (l + 3)⟩), (2, ⟨51, mkLanes fun l => BitVec.ofNat 32 (0xFFFFFFF0 + l)⟩),
             (3, ⟨52, mkLanes fun _ => 0⟩)],
    sreg := [(1, 5), (2, 0xFFFFFFFFFFFFFFFE)], preg := [(2, 0xF)] }
/-- A system tadpole of context 0. -/
def tad : Thread :=
  { Thread.start .systemTadpole 0 0 0 0 0 0x1000 0 with place := .active, exm := 1, lmask := 1, c0 := 1, sreg := [(1, 5), (2, 7)] }
/-- The launch, workgroup and context of that group. -/
def lch3 : Launch := Launch.start { LaunchRec.zero with regs := 64 } 1 1 (.queue 0 0) false 1
def wg2 : Wg := Wg.start 3 1 0 0 0 0 0 0 1 [7] { LaunchRec.zero with spsz := 4, tssz := 4 }
def ctxOn : Ctx := { Ctx.reset with sysent := 0x1000 }
/-- A module that is ready, with one CU and that group. -/
def base : State :=
  { State.reset with
    env := { State.reset.env with cur := some 7, nextId := 100, clk := 1000 }
    mdl := { State.reset.mdl with mstatus := 0x81 }
    thr := [(7, grp)], wgs := [(2, wg2)], lch := [(3, lch3)], ctxs := [(0, ctxOn), (1, ctxOn)]
    cus := [(0, { Cu.reset with en := true, ctx := some 1 })] }
/-- The same with another thread 7, or with its workgroup too. -/
def at7 (t : Thread) : State := { base with thr := [(7, t)] }
def at7wg (t : Thread) (g : Wg) : State := { base with thr := [(7, t)], wgs := [(2, g)] }
/-- A tadpole in its turn, beside that group. -/
def at9 (t : Thread) : State := { base with env := { base.env with cur := some 9 }, thr := [(7, grp), (9, t)] }

/-- v4 and s3 from registers 1 and 2; a transfer by 5 with p2; other MOD bits, other X. -/
def fv : Fields := { Fields.nop with d := 4, a := 1, b := 2, x := 3 }
def fs : Fields := { Fields.nop with d := 323, a := 321, b := 322, x := 321 }
def fj : Fields := { Fields.nop with x := 5, xk := true, mod := 2, a := 321, d := 323 }
def fm (f : Fields) (m : BitVec 10) : Fields := { f with mod := m }
def fx (f : Fields) (x : BitVec 32) : Fields := { f with x := x }

def grpNone : Thread := { grp with exm := 0 }
def grpFull : Thread := { grp with budget := 3 }
def fbad : Fields := { fj with x := 0x80000000, a := 322 }
def fzr : Fields := { Fields.nop with a := 323, b := 324 }
def grpHigh : Thread := { grp with sreg := [(1, 0xFE00000000000000)] }
def top : Frame := { d := full, c := 0xF, p := 0xFFF0, ppc := 0x100C, rpc := 0x2000 }
def topEnd : Frame := { top with p := 0 }
def grpJ : Thread := { grp with exm := 0xF, stack := [top] }
def grpK : Thread := { grp with exm := 0xF, stack := [topEnd] }
def grpL : Thread := { grp with exm := 0xF, stack := List.replicate 64 top }
def fp2 : Fields := { Fields.nop with grd := 2 }

/-! Waits, barriers, registers. -/
def grpBusy : Thread := { grp with cL := 2, cS := 1, batchNo := 3, batches := [{ num := 3, ops := [40] }] }
def fwt : Fields := { Fields.nop with xk := true, x := 0x1041 }
def fwb : Fields := { Fields.nop with x := 0x400 }
def grpBar : Thread := { grp with blk := some { stage := 2, val := 0, aux := 0 } }
def wgBar : Wg := { wg2 with bars := [(0, { phase := 1, arrived := [], lastExcused := true })] }
def wgAll : Wg := { wg2 with bars := [(0, { phase := 0, arrived := [7], lastExcused := false })] }
/-- A tadpole whose frozen group is thread 7. -/
def tadOf : Thread := { tad with target := some 7 }
def fr10 : Fields := { fv with x := 0x2000 }
def fr18 : Fields := { fv with x := 0x3000 }
def fr20 : Fields := { fs with x := 0x4000 }
def fr21 : Fields := { fs with x := 0x4200 }
def fr22 : Fields := { fs with x := 0x4400 }
def frw10 : Fields := { fs with x := 0x2000 }
def frw18 : Fields := { fs with x := 0x3000 }
def fsig : Fields := { Fields.nop with xk := true, x := 0xFFFFFFFF }
def fsigBad : Fields := { Fields.nop with xk := true, x := 0x12345678 }
def ftrap : Fields := { Fields.nop with x := 0x1FFFE00 }

/-! The matrix engine. -/
def tile0 : Tile := { gen := 1, nf := 0, mc := 0, base := 0, dying := false }
def tile1 : Tile := { gen := 2, nf := 1, mc := 1, base := 4, dying := false }
/-- The handle of a tile (R207). -/
def hnd (x : Tile) : Word64 := BitVec.ofNat 64 (x.gen * 2 ^ 24 + x.nf * 2 ^ 12 + x.mc * 2 ^ 10 + x.base)
def wgTile : Wg := { wg2 with tsUnits := 16, tiles := [tile0], tileGen := 2 }
def wgSmall : Wg := { wg2 with tsUnits := 1, tiles := [{ tile0 with nf := 3 }], tileGen := 2 }
def grpMat : Thread := { grp with sreg := [(1, 5), (2, 0x40), (3, 0), (4, 0), (5, hnd tile0)] }
/-- A matrix form on the tile of s5. -/
def fmat : Fields := { Fields.nop with d := 325, a := 323, b := 322, x := 324 }
def fmma : Fields := { Fields.nop with d := 325, a := 323, b := 324, x := 324, mod := 0x0 }
def grpOpen : Thread := { grp with openOps := [60] }
def op1 (k : MatKind) : MatOp :=
  { id := 60, tid := 7, wg := 2, barrel := 0, pc := 0x1000, kind := k, handle := hnd tile0, f := Fields.nop,
    frA := [[mkLanes fun l => BitVec.ofNat 32 (0x3C003C00 + l)]], frB := [[mkLanes fun _ => 0x40004000]], va := 0, vb := 0x40, vc := 0,
    mxovf := false, bufRegs := 2, mark := 0, dst := [], nan := [], stepped := false, caps := [], since := 0 }
def wgMat : Wg := { wgTile with scratch := [(0, 1), (5, 2), (0x40, 7)], tileMem := [(3, 0x3F), (1023, 0x40)] }
/-- A module whose CU 0 has a queue of matrix operations. -/
def atMat (t : Thread) (g : Wg) (q : List MatOp) : State :=
  { at7wg t g with cus := [(0, { Cu.reset with en := true, ctx := some 1, mq := q })] }
def fdrain : Fields := { fmat with mod := 0x86 }
def fdrainBad : Fields := { fdrain with a := 321 }
def fdrainq : Fields := { fmat with mod := 0x80, x := 324, b := 322 }
def drained (opc : Nat) (f : Fields) : State × Eng (List DrainPart) :=
  matRange (at7wg grpMat wgTile) grpMat opc f tile0 (uniVal (at7wg grpMat wgTile) 7 grpMat f.a.toNat).toNat
    (uniVal (at7wg grpMat wgTile) 7 grpMat f.b.toNat).toNat (uniVal (at7wg grpMat wgTile) 7 grpMat f.c.toNat).toNat
def drainParts0 : List DrainPart := match (drained 0x146 fdrain).2 with | .ok l => l | _ => []

/-! The access engine. Lane `l` accesses the scratchpad at 0x40 + 4 l. -/
def grpAcc : Thread :=
  { grp with sreg := [(1, 0x40), (2, 9), (3, 0x41)], preg := [(2, 0xF)],
             vmap := [(1, ⟨50, mkLanes fun l => BitVec.ofNat 32 (4 * l)⟩), (4, ⟨51, mkLanes fun l => BitVec.ofNat 32 (7 * l)⟩)] }
def facc : Fields := { Fields.nop with d := 4, a := 321, b := 1, mod := 0x101, grd := 2 }
def fatom : Fields := { facc with b := 4, x := 0x2000, mod := 0x001 }
def faccBad : Fields := { facc with a := 323 }
def grpAcc0 : Thread := { grpAcc with exm := 0 }
def ffabF : FabFail := { kind := 5, more := 1, opd0 := 1, opd1 := 2, opd2 := 3, opd3 := 4 }
def grpFf : Thread := { grp with ffail := some ffabF }
/-- An access of lane 3 in the log. -/
def ent (opc : Nat) (f : Fields) (d : Dest) (a b : Word64) : LogEntry :=
  { id := 0, pc := 0xFF4, opc := opc, f := f, opD := .vector [⟨60, mkLanes fun l => BitVec.ofNat 32 (0x11223344 + l)⟩], opA := .uniform a,
    opB := .uniform b, opC := .unused, dest := d, once := false, effm := 8, helper := 0, flt := 0, done := 0, cause := 0, syn := 0,
    state := 0, wb := none, fmark := 0, sent := 0, wo := false, res := [], put := [] }
def entS : LogEntry := ent 0x181 { facc with b := 511 } .none 0x44 0
def entL : LogEntry := ent 0x180 { facc with b := 511 } (.vector [(4, 51)]) 0x44 0
def entG : LogEntry := ent 0x181 { facc with b := 511, mod := 0x100 } .none 0x7000 0
def grpS : Thread := { grpAcc with log := [entS], cS := 1 }
def grpLd : Thread := { grpAcc with log := [entL], cL := 1 }
def grpG : Thread := { grpAcc with log := [entG], cS := 1 }
def wgScr : Wg := { wg2 with scratch := [(0x43, 9), (0x44, 0xAB), (0x47, 0xCD), (0x48, 3)] }
def mon1 : Monitor := { space := 1, addr := 1, place := 0, die := 0, armed := true, fired := true }
def grpMon : Thread := { grp with mons := [(0, mon1), (1, { mon1 with fired := false })] }
def grpMon0 : Thread := { grp with mons := [(0, { mon1 with fired := false })] }
def fslp : Fields := { Fields.nop with d := 323, xk := true, x := 50, mod := 0x3C0 }
def fslp0 : Fields := { fslp with x := 0 }
def fslpMax : Fields := { fslp with x := 0xFFFFFFFF }
def grpSlept : Thread := { grpMon0 with blk := some { stage := mslpStage, val := 50, aux := 50 } }
def lock1 : Lock := { sector := 9, die := 0, held := true, since := 0, waiter := true }
def grpLock : Thread := { grp with locks := [(0, lock1)] }
def later (s : State) (n : Nat) : State := { s with env := { s.env with clk := n } }

/-! The copy engine and phase counters. -/
/-- A fill of 100 bytes of scratch from byte 10 on, as the registers s4 to s7. -/
def grpCpy : Thread := { grp with sreg := [(1, 0x40), (2, 3), (4, 0x44), (5, 0x0807060504030201), (6, 10), (7, 100)] }
def grpCpyBad : Thread := { grp with sreg := [(4, 0x47), (5, 1), (6, 10), (7, 100)] }
def fcpy : Fields := { Fields.nop with d := 323, a := 324 }
def cmd1 : CopyCmd :=
  { id := 60, w0 := 0x44, w1 := 0x0807060504030201, w2 := 10, w3 := 100, ntf := 0, stb := 0, seq := 1, tid := 7, running := false,
    shape := [], pos := 0, written := 0, wo := false, stage := 0, held := none, stepped := false, buf := [] }
def cmdRun : CopyCmd := { cmd1 with running := true }
def cmdArr : CopyCmd := { cmd1 with running := true, stage := 2 }
def cmdEnd : CopyCmd := { cmd1 with running := true, stage := 3 }
def cmdLin : CopyCmd := { cmd1 with running := true, w0 := 0x40, w1 := 0x7000, w2 := 64, w3 := 64 }
def grpC1 : Thread := { grp with cC := 1 }
def wgRing (c : CopyCmd) : Wg := { wg2 with scratch := [(12, 7), (200, 8)], ring := [c] }
def wgRingFull : Wg := { wg2 with ring := List.replicate 32 cmd1 }
/-- A record at 0x40 with EXP 3, phase 2 and count 2. -/
def wgPh : Wg := { wg2 with scratch := [(0x3F, 9), (0x40, 2), (0x48, 3), (0x4E, 2), (0x50, 1)] }
def wgPh0 : Wg := { wg2 with scratch := [(0x40, 2)] }
def fph : Fields := { Fields.nop with d := 323, a := 321, b := 322 }
def fphw : Fields := { fph with xk := true, x := 1 }
def fphw2 : Fields := { fph with xk := true, x := 2 }

/-! Mailboxes and fabric commands. -/
def fbox : Fields := { Fields.nop with d := 323, a := 321 }
def box1 : Mailbox := ⟨true, 0, 5, 1, 2, 0x40, 0, 0, 0, 3, false⟩
def withBox (s : State) (l : NMap Mailbox) : State := { s with fab := { s.fab with boxes := l } }
def grpBoxH : Thread := { grpCpy with sreg := [(1, 0x50000)] }
def grpFab : Thread := { grp with sreg := [(4, 0x0010000000007000), (5, 0x2000), (6, 100), (7, 0)] }
def grpMc : Thread := { grp with sreg := [(4, 0x7000), (5, 0x2000), (6, 0x20000000064), (7, 0)] }
def grpFabBad : Thread := { grp with sreg := [(4, 1), (5, 0x2000), (6, 0x8000000000000064), (7, 0)] }
def ffab : Fields := { Fields.nop with d := 323, a := 324, b := 325, x := 326 }
def mc2 : McGroup := { McGroup.reset with ctl := 0x82, ver := 3, live := [(0, 1)], liveH := [(0, 0x77)] }
def withMc (s : State) : State := { s with parts := [(0, { Part.reset with groups := [(2, mc2)] })] }
def grpFo : Thread := { grp with fseq := 4, fOpen := [4] }
def ffabst : Fields := { Fields.nop with d := 323 }
def ffabstW : Fields := { ffabst with mod := 0x80 }

/-! Tree barriers, launches, tokens, work lists. -/
def obj1 : TreeObj := { TreeObj.reset with en := true, phase := 3, launch := some 3, exc0 := true, msk := [(0, 3)] }
def withObj (s : State) (o : TreeObj) : State := { s with parts := [(0, { Part.reset with objs := [(0, o)] })] }
def objOther : TreeObj := { obj1 with launch := some 4 }
/-- A group that has joined phases 0 to 3, or 0 to 4; s2 is the phase awaited. -/
def grpTb (j : Nat) (p : Word64) : Thread := { grp with joins := [(0, j)], sreg := [(1, 5), (2, p)] }
def ftb : Fields := { Fields.nop with d := 323, a := 321, b := 322 }
def grpExc (n k : Word64) : Thread := { grp with sreg := [(1, n), (2, k)] }
def grpKey (k : Word64) : Thread := { grp with sreg := [(1, k), (2, 0)] }
/-- A tadpole of context 0 asks about another key, in which no group is. -/
def tadKey : Thread := { tad with sreg := [(1, 9), (2, 0)] }
def grpLau (a : Word64) : Thread := { grp with sreg := [(1, a)] }
def ctxFull : Ctx := { ctxOn with devBuf := List.replicate 256 (0, 0) }
def withCtx (s : State) (k : Ctx) : State := { s with ctxs := [(0, ctxOn), (1, k)] }
def withTok (s : State) : State := { s with parts := [(0, { Part.reset with toks := [(5, 0xFFFFFFFF)] })] }
def grpTok (h : Word64) : Thread := { grp with sreg := [(1, h)] }
def grpTokSt : Thread := { grpTok 5 with log := [ent 0x181 Fields.nop .none 0 0] }
def obj3 : WorkObj := { launch := 3, lists := [(0, [11, 12])], ops := 2, waves := 0, snap := 0, done := false }
def objEmpty : WorkObj := { obj3 with lists := [] }
def objDone : WorkObj := { obj3 with lists := [], done := true }
def objTheirs : WorkObj := { obj3 with launch := 4 }
def withWork (s : State) (o : WorkObj) : State :=
  { s with ctxs := [(0, ctxOn), (1, { ctxOn with objs := [(0, o)] })], lch := [(3, lch3), (4, lch3)] }
def grpWl : Thread := { grp with sreg := [(1, 0), (2, 77)] }

/-! Frozen groups. -/
def frz : Freeze := { fr := { FaultRec.zero with cause := 1 }, byFault := true, byBrum := false, hold := false, imp := false, tied := none }
def grpZ : Thread := { grp with fz := some frz, gen := 4, cL := 1 }
/-- Its capability, and others that name no group of that state. -/
def capZ : Word64 := 0x0040000000040000
def ctxCu : Ctx := { ctxOn with cuh := [0] }
/-- A system tadpole of context 0, with a capability in s1, and s2 and s4, beside the frozen group `g`. -/
def tadC (cap s2 : Word64) : Thread := { tad with sreg := [(1, cap), (2, s2), (4, 0x99)] }
def atZ (t g : Thread) : State := { at9 t with thr := [(7, g), (9, t)], ctxs := [(0, ctxOn), (1, ctxCu)], wgs := [(2, { wg2 with groups := [7] })] }
def ftad : Fields := { Fields.nop with d := 323, a := 321, b := 322, x := 324 }
/-- A group with a faulted load of lane 3 in its log, or one whose lanes have ended. -/
def entF : LogEntry := { entL with dest := .none, flt := 8, state := 1, cause := 3 }
def entDone : LogEntry := { entF with done := 8 }
def grpZl (e : LogEntry) : Thread := { grpZ with log := [e] }
def flogPut : Fields := { ftad with x := 0x344 + 0x1800 }
/-- A tadpole that handles the frozen group. -/
def tadH : Thread := { tadC capZ 0 with target := some 7, frec := { FaultRec.zero with cap := capZ } }
def fhold : Fields := { ftad with mod := 1 }
def grpStep (n : Nat) : Thread := { grpZ with stepping := n }
def tadStep (n : Nat) : Thread := { tadC capZ 0 with blk := some { stage := n, val := 7, aux := 0 } }

/-! Module registers, translations, contexts. -/
def tadR (a v : Word64) : Thread := { tad with sreg := [(1, a), (2, v)] }
def tadR1 (a v : Word64) : Thread := { tadR a v with ctx := 1 }
/-- A range entry of one host page. -/
def pageEntry (p : Nat) : Nat := 2 * 2 ^ 244 + 2 ^ 231 + 2 ^ 230 + 2 ^ 229 + 2 ^ 64 + p * 2 ^ 12 + p * 2 ^ 140
def withRlb (s : State) : State :=
  { s with cus := [(0, { Cu.reset with en := true, ctx := some 1, rlb := [⟨0, pageEntry 3, none⟩, ⟨0, pageEntry 2, none⟩, ⟨1, pageEntry 3, none⟩] })] }
/-- Context 1 halted, or halted and saved. -/
def ctxHalt : Ctx := { ctxCu with brst := 2 }
def ctxSaved : Ctx := { ctxCu with brst := 6 }
/-- The range entry of a host range of every page, at the first page of the pool, for context 0. -/
def hostEntry : Nat := 2 * 2 ^ 244 + 2 ^ 231 + 2 ^ 230 + 2 ^ 229 + (2 ^ 45 - 1) * 2 ^ 64
def ctxMap : Ctx := { ctxOn with rtbase := 0x4000, rtcnt := 1 }
def atMap (t : Thread) (k : Ctx) (img : List Byte) : State :=
  { at9 t with
    thr := [(9, t)], ctxs := [(0, ctxMap), (1, k)]
    mem := { State.reset.mem with dram := Memory.setBytes [] 0x4000 (leBytes 32 hostEntry), hostMem := Memory.setBytes [] 0x8000 img } }
/-- An image of context 1 without a body. -/
def img0 : List Byte := imageHeader 0 1 []
def cuTwo : State → State := fun s => { s with cus := [(0, { Cu.reset with en := true, ctx := some 1 }), (1, { Cu.reset with en := true })] }
def tadSel (i : Word64) : Thread := { tadC i 0 with pselCtx := 1 }
def grpZb : Thread := { grpZ with budget := 3 }
def wgG7 : Wg := { wg2 with groups := [7] }
def tadCu1 : Thread := { tadR 0 0 with cu := 1 }
def flogBad : Fields := { ftad with x := 0x80144 }

/-! The token protocol: sector 5, of home 0. -/
def md (n : Nat) (o : Bool) : Meta := { Meta.init with hn := n, ho := o, ser := 2 }
/-- A message in flight that finds this metadata and state of agent 3. -/
def atMsg (m : Msg) (x : Meta) (l : NMap TokLine) : State :=
  { base with mem := { State.reset.mem with dram := [(319, 1), (320, 0xAA), (383, 0xBB), (384, 2)], smeta := [(5, x)], l2 := l, net := [(50, m)] } }
def msg (k : MsgKind) (dst : Party) : Msg := { Msg.of k (.agent 4) dst 4 5 2 with aseq := 6 }
def line (n : Nat) (o d : Bool) : TokLine :=
  { t64 := false, n := n, o := o, v := true, d := d, data := List.replicate 64 0x5A, poi := false, ser := 2, wok := false, rg := false }
def toHome (k : MsgKind) : Msg := msg k (.home 0)
def toAgent (k : MsgKind) : Msg := msg k (.agent 3)
def msgWb (k : MsgKind) : Msg := { toHome k with cnt := 3, own := true, dty := true, dat := true, data := List.replicate 64 0x77 }
def msgTok : Msg := { toAgent .tok with cnt := 2, own := true, dat := true, data := List.replicate 64 0x77 }
def msgPact : Msg := { toAgent .pact with wr := true }
def msgRgend : Msg := { toAgent .rgend with ser := 3 }
def lines (l : TokLine) : NMap TokLine := [(l2key 3 5, l)]
def entry0 (st : PState) : PEntry := { blk := [], rtime := 0, st := st, wr := true, ser := 2, sector := 5 }
def withHome (s : State) (h : Home) : State := { s with mem := { s.mem with homes := [(0, h)] } }
def homeOne (st : PState) : Home := { Home.reset with ptab := [(4, entry0 st)], aseq := 6 }
def withPlace (s : State) (p : ActPlace) : State := { s with mem := { s.mem with places := [(3, [p])] } }
def place0 : ActPlace := { home := 0, req := 4, sector := 5, wr := false, aseq := 6 }
def trans1 (att : Nat) : Transient := { acq := 9, eng := none, got := none, wr := true, t64 := false, att := att, since := 900, deadline := 950 }
def withTrans (s : State) (t : Transient) : State := { s with mem := { s.mem with trans := [(l2key 3 5, t)], pnak := [(3, 990)], smeta := [(5, md 0 false)] } }
def atom0 : HomeAtom := { pkt := none, tid := 7, eid := 0, lane := 3, sector := 5, addr := 320, op := 0, ty := 1, b := 0xFFFFFFFF, c := 0 }
def entA : LogEntry := ent 0x186 fatom .none 0x140 0
def grpA : Thread := { grp with log := [entA] }
def hreq0 (a : Bool) : HomeReq := { sector := 5, active := a, since := 0, aseq := 6 }
def homeAtom (q : Option HomeReq) : Home := { Home.reset with atoms := [atom0], hreq := q, aseq := 6 }
def atHome (h : Home) (x : Meta) : State := withHome (atMsg (toHome .rdt) x []) h
def atHomeT (h : Home) (x : Meta) (t : Thread) : State := { atHome h x with thr := [(7, t)] }
def homeDue : Home := { homeOne .active with recent := [] }
def homeDefer : Home := { Home.reset with deferred := [5] }
def rg0 : Regrow :=
  { sector := 5, ser := 2, hadHo := true, waitAck := [4], waitData := [], lostData := false, data := some (List.replicate 64 0x66, false), since := 0 }
def rgNoData : Regrow := { rg0 with data := none }
def rgLate : Regrow := { rg0 with waitAck := [], waitData := [(4, 0)], data := none }
def homeRg (r : Regrow) : Home := { Home.reset with regrow := [r] }
def msgRgdata : Msg := { toHome .rgdata with dat := true, data := List.replicate 64 0x55 }
def atRg (r : Regrow) (m : Msg) : State := withHome (atMsg m (md 0 false) []) (homeRg r)
/-- Window 0 over sectors 1024 and 1025, disabled or enabled, and one that R306 refuses. -/
def win0 : Window := { Window.reset with exl := 2, exb := 0x10000, elb := 0x20000, scb := 0x30000, mtb := 0x40000 }
def winOn : Window := { win0 with ctl := 0x11 }
def winBad : Window := { win0 with exl := 0 }
def withWin (w : Window) : State :=
  { base with mem := { State.reset.mem with wins := [(0, w)], copies := [(l2key 3 1024, ([], false)), (l2key 3 5, ([], false))],
                                            winReq := [l2key 3 1025], dram := [(0x20000, 0x38), (0x40000, 1)] } }

/-! The fabric's receiving side. Context 0 maps every page to host memory. -/
def atHost (bytes : Memory) : State :=
  { base with ctxs := [(0, ctxMap), (1, { ctxOn with ctl := 0x0005000000000000 })]
              mem := { State.reset.mem with dram := Memory.setBytes [] 0x4000 (leBytes 32 hostEntry), hostMem := bytes } }
def xl (pa : Nat) : Xl := ⟨hostEntry, pa⟩
def pkt0 : Packet := sealed
  { pkind := 0, pkey := 0, smod := 9, dmod := 0, plane := 0, daddr := 0x7008, len := 4, mbox := 0, xid := 3, pseq := 0, att := 0, last := true,
    ben := 0, epoch := 0, group := 0, rop := 0, ver := 0, itime := 0, payload := [], status := 0, bitmap := 0, op := 0, ty := 0, opB := 0,
    opC := 0, pcrc := 0 }
def pktOf (k : Nat) : Packet := sealed { pkt0 with pkind := k }
def pktData : Packet := sealed { pkt0 with payload := [1, 2, 3, 4] }
def pktSt : Packet := sealed { pkt0 with pkind := 6, ben := 0x5, payload := [1, 2, 3, 4] }
def pktAt : Packet := sealed { pkt0 with pkind := 7, ty := 1, opB := 0xFF }
def pktNo (k : Nat) : Packet := sealed { pktOf k with pkey := 5 }
def inNet (s : State) (p : Packet) : State := { s with fab := { s.fab with net := [p] } }
def rxHost (p : Packet) : State := inNet (atHost [(0x7007, 1), (0x7008, 0xFE), (0x700B, 9), (0x700C, 4)]) p
def cmdF (k : Nat) : FabCmd :=
  { id := 50, tid := 7, ctx := 1, cu := 0, seq := 4, kind := k, w0 := 0x0010000000007000, w1 := 0x2000, w2 := 100, w3 := 0, xid := 50, total := 1,
    sent := 1, left := [0], fail := 0, failAddr := 0, counted := 0, bitmap := 0, held := none, stepped := false, wo := false, wrote := 0 }
def withCmd (s : State) (c : FabCmd) : State := { s with fab := { s.fab with cmds := [(50, c)], peers := [(1, .up)] } }
def grpF1 : Thread := { grp with cC := 1, fseq := 4, fOpen := [4] }
def atCmd (c : FabCmd) : State := withCmd (at7 grpF1) c
def ack (st : Nat) : Packet := sealed { pkt0 with pkind := 8, xid := 50, status := st, opB := 32 }
def mack (b : Word64) : Packet := sealed { pkt0 with pkind := 9, xid := 50, bitmap := b }
def cmdFail : FabCmd := { cmdF 2 with fail := 1, left := [], bitmap := 2, counted := 32 }
/-- Packets of this module at its first switch, group 2 of key 0 with members 9 and this module. -/
def mcOn : McGroup := { McGroup.reset with ctl := 0x82, ver := 3, live := [(0, 9), (1, 0)], liveH := [(0, 0x77), (1, 0x78)] }
def mcOff : McGroup := { mcOn with ctl := 2 }
def pktUp (k : Nat) : Packet := sealed { pktOf k with smod := 0, group := 2, payload := [1, 0, 0, 0], xid := 50 }
def atSwitch (g : McGroup) (k : Nat) (r : List Reduction) : State :=
  { base with parts := [(0, { Part.reset with groups := [(2, g)] })], fab := { State.reset.fab with up := [pktUp k], reds := r } }
def pktTheirs : Packet := sealed { pktUp 4 with smod := 9, xid := 60, payload := [2, 0, 0, 0] }
def red0 : Reduction :=
  { key := 0, group := 2, ver := 3, epoch := 0, pseq := 0, rop := 0, len := 4, members := [9, 0], handles := [0, 0], got := [(0, pktTheirs)],
    bad := [], since := 0 }
def mcStaged : McGroup := { McGroup.reset with ver := 255, mmod := [(0, 9), (1, 0)], mhnd := [(0, 0x77)] }
def withGroup (g : McGroup) : State := { base with parts := [(0, { Part.reset with groups := [(2, g)] })] }
def una (att : Nat) : Unacked := { pkt := sealed { pkt0 with dmod := 9, smod := 0, xid := 50, att := att }, since := 0, inj := true, sw := false }
def atUna (att : Nat) (c : FabCmd) : State :=
  let s := later (atCmd c) 562500
  { s with fab := { s.fab with unacked := [una att], peers := [(9, .up)] } }
def cmdP : FabCmd := { cmdF 0 with w0 := 0x0090000000007000 }
def withPeer (p : PeerState) (n : Nat) : State :=
  let s := later (atCmd cmdP) n
  { s with fab := { s.fab with peers := [(9, p)], unacked := [{ una 0 with inj := false }] } }
def oldPkt : State := later (inNet base pkt0) 2250000
def rxq0 : RxPkt := { pkt := sealed { pktData with pseq := 2, mbox := 5 }, box := some (0, 5), parts := [], buf := [], written := true, since := 0 }
def atRxq : State :=
  let s := later base 9000000
  { s with fab := { s.fab with rxq := [(pktKey rxq0.pkt, rxq0)], boxes := [(0, box1)] } }
def cmdSend : FabCmd := { cmdF 0 with sent := 0 }

/-! Tree-barrier objects, queues, launches. -/
def objReady : TreeObj := { obj1 with msk := [(0, 1)] }
def grpTb241 : Thread := { grpTb 4 4 with blk := some { stage := 241, val := 0, aux := 4 } }
def objNew : TreeObj := TreeObj.reset
def que0 : Queue := { Queue.reset with base := 0x10000, ctl := 0x44, tail := 3, head := 2 }
def queEnt : Queue := { que0 with entries := [{ seq := 1, irq := false, status := none }] }
/-- Queue 1 of context 0 in host memory with this entry at its head. -/
def atQue (q : Queue) (e : Nat) (tk : Word64) : State :=
  { atHost (Memory.setBytes [] 0x10080 (leBytes 64 e)) with
    ctxs := [(0, { ctxMap with queues := [(1, q)] }), (1, ctxOn)], parts := [(0, { Part.reset with toks := [(5, tk)] })], lch := [] }
/-- A record of 2 × 3 × 1 workgroups of two groups with 64 registers, at 0x20000. -/
def rec0 : Nat := 0x5000 + 2 * 2 ^ 128 + 3 * 2 ^ 160 + 1 * 2 ^ 192 + 1 * 2 ^ 232 + 64 * 2 ^ 320
def recBytes (n : Nat) : List Byte := leBytes 128 n
def quePend : Queue := { que0 with pend := some 0x20000, entries := [{ seq := 2, irq := true, status := none }] }
def atRec (n : Nat) : State :=
  { atHost (Memory.setBytes [] 0x20000 (recBytes n)) with ctxs := [(0, { ctxMap with queues := [(1, quePend)] })], lch := [] }
def lchRun : Launch :=
  { Launch.start { LaunchRec.zero with code := 0x5000, nwgx := 2, nwgy := 1, nwgz := 1, ng := 1, regs := 64, lastln := 3 } 1 1 (.queue 0 0) false 2 with
    relDone := true, acted := [0], since := 1000 }
def ctxRun : Ctx := { ctxOn with ctl := 1, dieset0 := 1, cuh := [0] }
def atRun (l : Launch) : State := { base with lch := [(3, l)], ctxs := [(0, ctxOn), (1, ctxRun)], thr := [], wgs := [] }
def lchEnd : Launch := { lchRun with next := 2, lr := { lchRun.lr with sigtk := 5 } }
def queFin : Queue := { que0 with entries := [{ seq := 0, irq := false, status := none }] }
def atEnd (l : Launch) : State :=
  { base with lch := [(3, l)], ctxs := [(0, ctxOn), (1, { ctxOn with queues := [(0, queFin)], objs := [(0, obj3)] })], thr := [], wgs := [] }
def lchSent : Launch := { lch3 with next := 1 }
def readyObj : State := { withObj (at7 (grpTb 4 4)) objReady with lch := [(3, lchSent)] }
def trig0 : Trigger := { time := 0, modn := 0, tile := 0, cause := 0, syn := 0, grp := false, cuh := 0, brl := 0, slot := 0 }
def blk241 : Blk := { stage := 241, val := 0, aux := 4 }
def ent2 : QEntry := { seq := 2, irq := true, status := none }
def recBad0 : Nat := rec0 + 2 ^ 58
def recTok : Nat := rec0 + (2 ^ 32 + 5) * 2 ^ 640
def recTk (n : Nat) : List Byte := ((recBytes n).drop 80).take 16
def atWork (o : WorkObj) : State := { base with lch := [(3, lchSent)], ctxs := [(0, ctxOn), (1, { ctxOn with objs := [(0, o)] })], thr := [], wgs := [] }
def objWave1 : WorkObj := { objEmpty with waves := 1, snap := 2 }
/-! Residence, tadpoles, brumation, the host, start-up, faults. -/
/-- A pool range of the first 16 pages, readable, executable and immutable, and context 1 with it. -/
def poolEntry : Nat := 16 * 2 ^ 64 + 2 ^ 229 + 2 ^ 230 + 2 ^ 232 + 2 ^ 233
def ctxPool : Ctx := { ctxOn with rtbase := 0x4000, rtcnt := 1 }
def barWord : BitVec 96 := wordOf 0x00C Fields.nop
/-- Code with one form at 0x1000, and a liveness record that keeps v1 at 0x2000. -/
def atCode (w : BitVec 96) (t : Thread) (l : Launch) : State :=
  let d := Memory.setBytes (Memory.setBytes [] 0x4000 (leBytes 32 poolEntry)) 0x1000 (loadLine w)
  { at7 t with
    ctxs := [(0, ctxOn), (1, ctxPool)], lch := [(3, l)]
    mem := { State.reset.mem with dram := Memory.setBytes d 0x2000 (leBytes 64 (2 + 0x1000 * 2 ^ 384)) }
    cus := [(0, { Cu.reset with en := true, ctx := some 1, reclaim := true })] }
def lchTab : Launch := { lch3 with lr := { lch3.lr with ltab := 0x2000 } }
def grpPend : Thread := { grpBar with place := .pending, waits := true }
def grpPark : Thread := { grpBar with place := .parked, waits := true }
/-- A group that waits at an addition for a load from another module into v2. -/
def vaddWord : BitVec 96 := wordOf 0x080 { Fields.nop with d := 3, a := 2, b := 1 }
def entSys : LogEntry := { entL with f := { entL.f with mod := 2 }, pc := 0x1000, dest := .vector [(2, 51)] }
def grpLoad : Thread := { grp with place := .pending, waits := true, log := [entSys], cL := 1 }
def grpIn : Thread := { grp with place := .pending, slot := 1, readySince := 5, overdue := some 900 }
def grpWaits : Thread := { grp with waits := true, slotSince := 4 }
def lch9 : Launch := { lch3 with lr := { lch3.lr with hpc := 0x9000 } }
def grpBarNow : Thread := { grpPend with place := .active }
def grpCtx2 : Thread := { grp with ctx := 2 }
def swapState : State := { base with thr := [(7, grpWaits), (8, grpIn)] }
def wokenState : State := { atCode barWord grpPark lchTab with wgs := [(2, wgBar)] }
/-- Context 1 holds CU 0, for which launch 4 of context 2 waits. -/
def lch4 : Launch := { Launch.start { LaunchRec.zero with nwgx := 1, nwgy := 1, nwgz := 1, ng := 1, regs := 64 } 2 1 (.queue 0 0) false 1 with since := 0 }
def reclState : State :=
  { later base 1000000000000 with
    ctxs := [(0, ctxOn), (1, ctxOn), (2, { ctxOn with ctl := 1, dieset0 := 1 })], lch := [(3, lchRun), (4, lch4)] }
def leaveState : State := { reclState with cus := [(0, { Cu.reset with en := true, ctx := some 1, reclaim := true })], thr := [(7, grpPark)], wgs := [(2, wgG7)] }
def spawn1 : Spawn :=
  { time := 5, barrel := 1, slot := 0, tid := 7, hasTid := true, ctx := 1, sys := false, notice := false, agent := false,
    fr := { FaultRec.zero with cause := 3 }, tkind := 4 }
def spawnState (q : Spawn) : State := { base with cus := [(0, { Cu.reset with en := true, ctx := some 1, spawnq := [q, spawn1] })], lch := [(3, lch9)] }
def wdState : State := later base 0x2000000
def wdWait : State := { atCode barWord grpPend lchTab with thr := [(7, grpBarNow)] }
def tadOnly : State := later (at9 tad) 0x2000000
def haltState : State :=
  { base with thr := [(6, grpCtx2), (7, grpZ), (8, grp)], ctxs := [(0, ctxOn), (1, ctxCu), (2, { ctxOn with ctl := 0x0005000000000000 })]
              parts := [(0, { Part.reset with waves := [trig0] })] }
def partHalt : Part := { Part.reset with haltAt := some 10, first := some trig0 }
def settleState : State := { later base 100000 with ctxs := [(0, ctxOn), (1, { ctxCu with brst := 1 })], parts := [(0, partHalt)] }
def drainState : State := { settleState with ctxs := [(0, ctxOn), (1, { ctxCu with brst := 1, settled := true })] }
def partAsk : Part := { Part.reset with asked := some 10 }
def grpBrum : Thread := { grp with fz := some { frz with byBrum := true, byFault := false } }
def grpHold : Thread := { grp with fz := some { frz with byBrum := true, byFault := false, hold := true } }
def askState (k : Ctx) (p : Part) : State :=
  { later base 100000 with ctxs := [(0, ctxOn), (1, k)], parts := [(0, p)], thr := [(7, grpBrum), (8, grpHold)] }
def partT : Part := { partAsk with resumeT := some 500 }
def ctxResuming : Ctx := { ctxCu with brst := 3 }
def failState : State := { askState ctxSaved partAsk with env := { base.env with clk := 400000000000 } }
def lineHost : TokLine := line 3 true false
def hostState (l : NMap TokLine) : State := { base with mem := { State.reset.mem with l2 := l, hostLines := [(2 ^ 46 + 9, { die := 0, data := List.replicate 64 5, dirty := true, since := 0 })] } }
def startOk : StartResult :=
  { failStage := 0, etile := 0, hpm := 15, lnk := BitVec.allOnes 310, cum := List.replicate 84 0x3FFFFFFFFFFFFFFF, fpm := 0xFFF, serial := 5,
    ofs := List.replicate 84 0, poisoned := [], count := 0 }
def startBad : StartResult := { startOk with failStage := 1 }
def startLow : StartResult := { startOk with cum := List.replicate 83 0x3FFFFFFFFFFFFFFF ++ [1] }
/-- Every context has a handler; its groups touch every tile. -/
def ctxTdm : Ctx := { ctxCu with tdm := BitVec.allOnes 168 }
def dieState : State := { base with ctxs := [(0, ctxTdm), (1, ctxTdm)], mem := { State.reset.mem with dram := [(64, 3)], smeta := [(0, md 3 false)] } }
def dieIdle : State := { dieState with thr := [], wgs := [], mem := { State.reset.mem with l2 := [(l2key 0 5, line 3 true true), (l2key 1 5, line 2 false false)] } }
theorem noGroups (w : Nat) (g : Wg) (tid : Nat) (t : Thread) (h : dieIdle.wg w = some g) (_ : tid ∈ g.groups)
    (_ : dieIdle.thread tid = some t) : t.wg = w :=
  nomatch h
def trapX : Trap := { cause := 7, syn := 5, lanes := 6, opd0 := 1, opd1 := 2 }
def lchHpc : Launch := { lch3 with lr := { lch3.lr with hpc := 0x9000 } }
def utad : Thread := { tad with kind := .userTadpole, ctx := 1, frec := { FaultRec.zero with cap := capZ } }
def atEntry (e : Nat) : State :=
  { base with ctxs := [(0, ctxOn), (1, ctxPool)], mem := { State.reset.mem with dram := Memory.setBytes [] 0x4000 (leBytes 32 e) } }
def poolFar : Nat := (2 ^ 40 - 1) * 2 ^ 140 + 16 * 2 ^ 64 + 2 ^ 229 + 2 ^ 230
def poolW : Nat := 5 * 2 ^ 140 + 2 * 2 ^ 12 + 16 * 2 ^ 64 + 2 ^ 229 + 2 ^ 230 + 2 ^ 231
def hostW : Nat := 2 * 2 ^ 244 + poolW
def resp : State := { base with mdl := { base.mdl with config := [1, 2, 3] } }
def xlatTrap : Trap := { cause := cXLAT, opd0 := 0x1000 }
def grpSh : Thread := { grp with shExm := full, shC := full }
def turnState (w : BitVec 96) (t : Thread) : State := { atCode w t lchTab with env := { base.env with tick := 4, cur := some 3 } }
def fadd : Fields := { fs with x := 0 }
def grpCorrupt : Thread := { grpSh with corrupt := [fadd.a.toNat] }
def addWord : BitVec 96 := wordOf 0x040 fadd
def badWord : BitVec 96 := wordOf 0x00F { Fields.nop with x := 0xFF }
def tadWord : BitVec 96 := wordOf 0x2C7 { Fields.nop with a := 321 }
def tadInstr : Instr := match decode .group tadWord with | .instr i => i | .illegal _ _ => .nop Fields.nop
/-! Named parts. -/
def spawnSys : Spawn := { spawn1 with sys := true }
def ctxHalted : Ctx := { ctxCu with brst := 2 }
def hostLine0 : HostLine := { die := 0, data := List.replicate 64 5, dirty := true, since := 0 }
def lines85 : NMap TokLine := [(l2key 85 5, line 3 true false)]
def lines85all : NMap TokLine := [(l2key 85 5, { line 8 true false with wok := true })]
def withHpc : State := { base with lch := [(3, lchHpc)] }
def unmapped : State := { turnState badWord grpSh with ctxs := [(0, ctxOn), (1, ctxOn)] }
def withAgenda : State := { base with env := { base.env with agenda := [.thermalReset, .nop Fields.nop] } }
def bytes7 : List Byte := List.replicate 64 7
def barEnd : Bar := { phase := 0, arrived := [7], lastExcused := false }
def blkA : Blk := { stage := stepWait, val := 7, aux := 0 }
def blkB : Blk := { stage := stepRun, val := 7, aux := 0 }
def permBox : Trap := { cause := cPERM, opd0 := 0x50000, unit := some (funit 9 0) }
def win85 : Nat := 9
def grpCtx0 : Thread := { grp with ctx := 0 }
def lchHalt : Launch := { lch3 with lr := { lch3.lr with haltm := 0xFFFFF } }
def withHalt : State := { base with lch := [(3, lchHalt)] }
def fsigNever : Fields := { fsigBad with gneg := true }

/-! ### States for clauses on the border of a rule -/

def topBad : Frame := { top with ppc := 0x1001 }
def topEndBad : Frame := { topEnd with rpc := 0x2001 }
def grpTop (x : Frame) : Thread := { grp with exm := 0xF, stack := [x] }
def grpBarW : Thread := { grp with blk := some { stage := 2, val := 1, aux := 0 } }
def lost (s : State) (l : List Nat) : State := { s with mdl := { s.mdl with lostTiles := l } }
def tadNone : Thread := { tad with exm := 0 }
def grpAccFull : Thread := { grpAcc with budget := 2 }
def fxNever : Fields := { frw10 with gneg := true }
/-- Every agent 3 request, and messages that meet it or come too late. -/
def withTr (s : State) (t : Transient) : State := { s with mem := { s.mem with trans := [(l2key 3 5, t)] } }
def msgPactR : Msg := toAgent .pact
def place7 : ActPlace := { place0 with aseq := 7 }
def oldSer (m : Msg) : Msg := { m with ser := 3 }
def msgRgackD : Msg := { toHome .rgack with dty := true }
def rgPort : Regrow := { rg0 with waitAck := [90] }
def homeDueR : Home := { homeOne .active with recent := [(5, 999999)] }
def entryOf (st : PState) (blk : List Nat) : PEntry := { entry0 st with blk := blk }
def homeTwo : Home := { Home.reset with ptab := [(4, entryOf .active [6]), (6, entryOf .pending [])], aseq := 6 }
def msgPnak : Msg := toAgent .pnak
/-- Copy commands past their last block and at an arrival with a phase counter, a full fabric queue. -/
def cmdPast : CopyCmd := { cmdRun with pos := 2 }
def cmdPh : CopyCmd := { cmdArr with w0 := 0x4000000000844 }
def cmdNo (i : Nat) : FabCmd := { cmdF 0 with id := 100 + i, xid := 100 + i, sent := 0 }
def fabFull (t : Thread) : State :=
  let s := at7 t
  { s with fab := { s.fab with cmds := (List.range 64).map fun i => (100 + i, cmdNo i) } }
/-- Frozen groups at a PC that no instruction stands at, and beyond the address space. -/
def grpZoff : Thread := { grpZ with pc := 0x1001 }
def grpZhigh : Thread := { grpZ with pc := 0xFE00000000000000 }
/-- A packet's atomic at its home. -/
def atomPkt : HomeAtom := { atom0 with pkt := some pktAt }
def homePkt : Home := { Home.reset with atoms := [atomPkt], aseq := 6 }
def fzAll : Fields := { ftad with mod := 1 }
/-- A group of context 0 with an access on its way. -/
def grpFly : Thread :=
  { grpCtx0 with log := [{ ent 0x180 { facc with b := 511, mod := 0x100 } (.vector [(4, 51)]) 0x3000 0 with sent := 8 }] }
def flying (t : Thread) : State := { withRlb (at9 t) with thr := [(7, grpFly), (9, t)] }
def box0 : Mailbox := { box1 with infl := 0 }
def grpCpyOff : Thread := { grpCpy with sreg := [(1, 0x41)] }
def misalBox : Trap := { cause := cMISAL, opd0 := 0x41, unit := some (funit 9 0) }
def grpPhOpen : Thread := { grpCpy with log := [entS], cS := 1 }
/-- A full matrix queue, a drain beyond the scratchpad, and a drain with a block of scratch to write. -/
def matFull : State := atMat grpMat wgTile (List.replicate 128 (op1 .mma))
def grpMatFar : Thread := { grpMat with sreg := [(1, 5), (2, 0x40), (3, 0x100000), (4, 0), (5, hnd tile0)] }
def drainPart1 : DrainPart := { space := 1, addr := 0x40, e := 0, pa := 0x40 }
def opDrain1 : MatOp := { op1 .drain with dst := [drainPart1] }
def lchMis : Launch := { lch3 with lr := { lch3.lr with mispol := 1 } }
def atMis : State := { at7 grpAcc with lch := [(3, lchMis)] }
def grpAccFar : Thread := { grpAcc with sreg := [(1, 0x1000000), (2, 9), (3, 0x41)] }
def grpAccHigh : Thread := { grpAcc with sreg := [(1, 0x0200000000000000), (2, 9), (3, 0x41)] }
def faccG : Fields := { facc with mod := 0x100 }
/-- Writes of the copy registers. -/
def fw30 : Fields := { fs with x := 0x6000 }
def fw31 : Fields := { fs with x := 0x6200 }
def wgNewer (n : Nat) : Wg := { wg2 with cpyWr := [(n, ⟨1000, 1, 0⟩)] }
def turnAt (w : BitVec 96) (t : Thread) : Nat := (nextTurn (passTime (turnState w t))).getD 0
def ringState (s : State) : State := (headEntry s 0 1).1
def recTail (n : Nat) : State := (readRange (atRec n) 0 0x20050 16).1
def recHead (n : Nat) : State := (readRange (dropHead (recTail n) 0 1) 0 0x20000 128).1
/-- Slots: a thread that offers its own, one that waits at a barrier with nobody to follow, and free slots. -/
def grpAlone : Thread := { grpBar with waits := true }
def grpYld : Thread := { grp with offer := 1 }
def slotState (l : NMap Thread) : State := { base with thr := l }
def grpFull24 (n : Nat) : NMap Thread := (List.range n).map fun i => (20 + i, { grpPend with slot := i + 1 })
/-- Context 1 with a park area in host memory, or in the pool. -/
def ctxPark : Ctx := { ctxPool with rtcnt := 2, parkb := 0x100000 }
def parkHost : Nat := 2 * 2 ^ 244 + 2 ^ 231 + 2 ^ 230 + 2 ^ 229 + 2 ^ 20 * 2 ^ 64 + 0x100 * 2 ^ 12
def parkPool : Nat := 2 ^ 231 + 2 ^ 230 + 2 ^ 229 + 2 ^ 20 * 2 ^ 64 + 0x100 * 2 ^ 12 + 0x100 * 2 ^ 140
def atPark (e : Nat) (rec : Nat) : State :=
  let s := atCode barWord grpPend lchTab
  { s with ctxs := [(0, ctxOn), (1, ctxPark)]
           mem := { s.mem with dram := Memory.setBytes (Memory.setBytes s.mem.dram 0x4020 (leBytes 32 e)) 0x2000 (leBytes 64 rec) } }
def recV1 : Nat := 2 + 0x1000 * 2 ^ 384
def liveXl (s : State) : Xl := (livenessAt s grpPend (parkPc s 7 grpPend)).getD ⟨0, 0⟩
def parkBegun (s : State) : State := (parkWrite (s.touch 1 (liveXl s)) 0 1 7 groupPark).1
def wgG7e : Wg := { wgG7 with evicted := true }
def leaveIdle : State := { leaveState with wgs := [(2, wgG7e)] }
def grpWlBad : Thread := { grp with sreg := [(1, 9), (2, 77)] }
def unaNext : Unacked := { una 0 with pkt := sealed { (una 0).pkt with att := 1, itime := 250000 }, since := 562500 }
def lchClu : Launch := { lch3 with cbar := [(clusterBar 0 0, barEnd)] }
def atClu : State := { at7 grpBar with lch := [(3, lchClu)] }
def facc6 : Fields := { facc with d := 6 }
/-- A kill of context 1 by its number, a sector whose metadata is unreadable, an entry that names no phase. -/
def tadJob : Thread := { tadH with sreg := [(1, 0x0040000100000000)] }
def homeUnread : Home := { Home.reset with unread := [5] }
def stepLate : State := later (atZ (tadStep stepRun) (grpStep 1)) 0x200000
def noImage : State := { at9 (tadR 1 0x8000) with ctxs := [(0, ctxOn), (1, ctxSaved)] }

/-! The manual's own encoding examples. The three stored words follow one another, word 2 first. -/

def fl (d a b : BitVec 9) (x : BitVec 32) (xk : Bool) (mod : BitVec 10) : Fields :=
  { Fields.nop with d := d, a := a, b := b, x := x, xk := xk, mod := mod }
/-- Word 2, word 1 and word 0 of an instruction, decoded as code of a group. -/
def dec (w2 w1 w0 : Word) : Decoded := decode .group (w2 ++ w1 ++ w0)

/-- `vadd.s32 v4, v4, v6~` and `sadd.s64 s3, s3, 100` (chapter 04, worked case). -/
theorem test_word_vadd : dec 0x004F0000 0 0x60201080 = .instr (.vadd { fl 4 4 6 0 false 0 with lrb := true }) := by decide +kernel
theorem test_word_sadd : dec 0x000F0120 0x00000C80 0x0A1D0C40 = .instr (.sadd (fl 323 323 0 100 true 4)) := by decide +kernel
/-- The VADD with TY 0xD under the guard "never": reason 4, field code 6. -/
theorem test_word_badTy : dec 0x005F0340 0 0x60201080 = .illegal 4 6 := by decide +kernel
/-- `brd p1, then, after` and `wait 0, 63, 63, 63` (R163, R168). -/
theorem test_word_brd : dec 0x000F0060 0x60 0x00300003 = .instr (.brd (fl 0 6 0 3 true 1)) := by decide +kernel
theorem test_word_wait : dec 0x000F0020 0x1FFFF800 0x0000000A = .instr (.wait (fl 0 0 0 0x00FFFFC0 true 0)) := by decide +kernel
/-- `vcmp.lt.s32 p3, v8, 100` (chapter 07). -/
theorem test_word_vcmp : dec 0x000F4020 0x00000C80 0x00400C90 = .instr (.vcmp (fl 3 8 0 100 true 0x100)) := by decide +kernel
/-- `fxcvt.f32 v2, v1, 20`: EXT 5:0 is 20 (chapter 07). -/
theorem test_word_fxcvt : dec 0x000F0180 0x00050000 0x00080901 = .instr (.fxcvt (fl 2 1 0 (20 * 512) false 6)) := by decide +kernel
/-- `mloop.bf16.sb s20, v0, s21, 4, 32` (chapter 08). -/
theorem test_word_mloop : dec 0x000F2200 0x0200C015 0x50055144 = .instr (.mloop (fl 340 0 341 0x00100600 false 0x88)) := by
  decide +kernel
/-- `ld.b32.wg v2, (s10, v1<<2)` and `red.add.u32.cl (v6), s21` (chapter 09). -/
theorem test_word_ld : dec 0x000F4000 0x00008000 0x1A500980 = .instr (.ld (fl 2 330 1 0x400 false 0x100)) := by decide +kernel
theorem test_word_red : dec 0x000F0100 0x00040015 0x50300187 = .instr (.red (fl 0 6 341 0x2000 false 4)) := by decide +kernel
/-- `cpyq.rel.cl s9, s12` (chapter 10). -/
theorem test_word_cpyq : dec 0x000F0900 0 0x0A6525C0 = .instr (.cpyq (fl 329 332 0 0 false 0x24)) := by decide +kernel
/-- `bxsend zr, s4` and `bxflag zr, (s59), s58, s43` (chapter 12). -/
theorem test_word_bxsend : dec 0x000F0000 0 0x0A27FE00 = .instr (.bxsend (fl 511 324 0 0 false 0)) := by decide +kernel
theorem test_word_bxflag : dec 0x000F0000 0x00002D77 0xABDFFE04 = .instr (.bxflag (fl 511 379 378 363 false 0)) := by decide +kernel
/-- `tbjoin.rel.dv s37, 5` and `tbwait.acq.dv s38, 5, s37` (chapter 13). -/
theorem test_word_tbjoin : dec 0x000F0A00 0x00014000 0x00059640 = .instr (.tbjoin (fl 357 0 0 0xA00 false 0x28)) := by decide +kernel
theorem test_word_tbwait : dec 0x000F0600 0x00014016 0x50059A41 = .instr (.tbwait (fl 358 0 357 0xA00 false 0x18)) := by decide +kernel
/-- The device launch with D = 328, A = 340, MOD = 0x28, and `wltake.acq.dv s4, p2, 3` (chapter 14). -/
theorem test_word_launch : dec 0x000F0A00 0 0x0AA52280 = .instr (.launch (fl 328 340 0 0 false 0x28)) := by decide +kernel
theorem test_word_wltake : dec 0x000F0600 0x0008C000 0x00051283 = .instr (.wltake (fl 324 0 0 0x4600 false 0x18)) := by decide +kernel
/-- `fzwr zr, s3, s5, s4` and `rlbinv s2, s4, s5` (chapters 15 and 16). -/
theorem test_word_fzwr : dec 0x000F0000 0x00002894 0x5A1FFEC1 = .instr (.fzwr (fl 511 323 325 324 false 0)) := by decide +kernel
theorem test_word_rlbinv : dec 0x000F0000 0x14 0x5A250B02 = .instr (.rlbinv (fl 322 324 325 0 false 0)) := by decide +kernel

/-! One word of each form, from its OPC and the places of the fields in R112, with the form that it stands for. -/
def words0 : List (BitVec 96 × Instr) :=
  [(0x000F00000000000000000000, .nop (fl 0 0 0 0x0 false 0x0)),
   (0x000F0020002468A000000001, .bra (fl 0 0 0 0x12345 true 0x0)),
   (0x000F0020002468A000000002, .brc (fl 0 0 0 0x12345 true 0x0)),
   (0x000F0020002468B42A080003, .brd (fl 0 321 322 0x12345 true 0x0)),
   (0x000F00000000000000000004, .join (fl 0 0 0 0x0 false 0x0)),
   (0x000F0020002468A000050C05, .call (fl 323 0 0 0x12345 true 0x0)),
   (0x000F0000000000000A080006, .ret (fl 0 321 0 0x0 false 0x0)),
   (0x000F0000000000142A080007, .bri (fl 0 321 322 0x0 false 0x0)),
   (0x000F00000000000000000008, .exit (fl 0 0 0 0x0 false 0x0)),
   (0x000F0020002468A000000009, .yield (fl 0 0 0 0x12345 true 0x0)),
   (0x000F0020002468A00000000A, .wait (fl 0 0 0 0x12345 true 0x0)),
   (0x000F0000000000000000000B, .waitb (fl 0 0 0 0x0 false 0x0)),
   (0x000F0000000000000000100C, .bar (fl 4 0 0 0x0 false 0x0)),
   (0x000F00000000000000050C0D, .exmrd (fl 323 0 0 0x0 false 0x0)),
   (0x000F0000000000000A08000E, .exmwr (fl 0 321 0 0x0 false 0x0)),
   (0x000F00000004000000050C0F, .rdsr (fl 323 0 0 0x2000 false 0x0)),
   (0x000F0000000400000A080010, .wrsr (fl 0 321 0 0x2000 false 0x0)),
   (0x000F0020002468A000000011, .sigchk (fl 0 0 0 0x12345 true 0x0)),
   (0x000F00000000000000000012, .bkpt (fl 0 0 0 0x0 false 0x0)),
   (0x000F00000000000000000013, .trap (fl 0 0 0 0x0 false 0x0)),
   (0x000F00000000000000050C14, .rdtimeL (fl 323 0 0 0x0 false 0x0)),
   (0x000F00400000000000050C14, .rdtimeG (fl 323 0 0 0x0 false 0x1)),
   (0x000F0000000000000A0D0C15, .rdband (fl 323 321 0 0x0 false 0x0)),
   (0x000F0000000000142A0D0C40, .sadd (fl 323 321 322 0x0 false 0x0)),
   (0x000F0000000000142A0D0C41, .ssub (fl 323 321 322 0x0 false 0x0)),
   (0x000F0000000000142A0D0C42, .smul (fl 323 321 322 0x0 false 0x0)),
   (0x000F0000000000142A0D0C43, .smulh (fl 323 321 322 0x0 false 0x0)),
   (0x000F0000000028742A0D0C44, .smad (fl 323 321 322 0x143 false 0x0)),
   (0x000F0140000000142A0D0C45, .sand (fl 323 321 322 0x0 false 0x5)),
   (0x000F0140000000142A0D0C46, .sor (fl 323 321 322 0x0 false 0x5)),
   (0x000F0140000000142A0D0C47, .sxor (fl 323 321 322 0x0 false 0x5)),
   (0x000F0140000000142A0D0C48, .sshl (fl 323 321 322 0x0 false 0x5)),
   (0x000F0140000000142A0D0C49, .sshr (fl 323 321 322 0x0 false 0x5)),
   (0x000F0000000000142A0D0C4A, .ssar (fl 323 321 322 0x0 false 0x0)),
   (0x000F0000000000142A0D0C4B, .smin (fl 323 321 322 0x0 false 0x0))]
def words1 : List (BitVec 96 × Instr) :=
  [(0x000F0000000000142A0D0C4C, .smax (fl 323 321 322 0x0 false 0x0)),
   (0x000F0000000000142A08004D, .scmp (fl 0 321 322 0x0 false 0x0)),
   (0x000F0140000028742A0D0C4E, .ssel (fl 323 321 322 0x143 false 0x5)),
   (0x000F0000000000000A0D0C4F, .smov (fl 323 321 0 0x0 false 0x0)),
   (0x000F0020002468A000050C50, .smovi (fl 323 0 0 0x12345 true 0x0)),
   (0x000F0000000000142A0D0C51, .slea (fl 323 321 322 0x0 false 0x0)),
   (0x000F0140000000000A0D0C52, .sclz (fl 323 321 0 0x0 false 0x5)),
   (0x000F0140000000000A0D0C53, .spop (fl 323 321 0 0x0 false 0x5)),
   (0x000F0000000000142A0D0C54, .sbfe (fl 323 321 322 0x0 false 0x0)),
   (0x000F0140000028742A0D0C55, .sbfi (fl 323 321 322 0x143 false 0x5)),
   (0x000F00000000000020081080, .vadd (fl 4 1 2 0x0 false 0x0)),
   (0x000F00000000000020081081, .vsub (fl 4 1 2 0x0 false 0x0)),
   (0x000F00000000000020081082, .vmul (fl 4 1 2 0x0 false 0x0)),
   (0x000F00000000000020081083, .vmulh (fl 4 1 2 0x0 false 0x0)),
   (0x000F00000000286020081084, .vmad (fl 4 1 2 0x143 false 0x0)),
   (0x000F00000000286020081085, .vmadw (fl 4 1 2 0x143 false 0x0)),
   (0x000F00400000000020081086, .vaddc (fl 4 1 2 0x0 false 0x1)),
   (0x000F0140000000002A081087, .vand (fl 4 321 2 0x0 false 0x5)),
   (0x000F0140000000002A081088, .vor (fl 4 321 2 0x0 false 0x5)),
   (0x000F0140000000002A081089, .vxor (fl 4 321 2 0x0 false 0x5)),
   (0x000F0140000000002A08108A, .vshl (fl 4 321 2 0x0 false 0x5)),
   (0x000F0140000000002A08108B, .vshr (fl 4 321 2 0x0 false 0x5)),
   (0x000F0000000000002008108C, .vsar (fl 4 1 2 0x0 false 0x0)),
   (0x000F0000000000002008108D, .vmin (fl 4 1 2 0x0 false 0x0)),
   (0x000F0000000000002008108E, .vmax (fl 4 1 2 0x0 false 0x0)),
   (0x000F0000000000000008108F, .vabs (fl 4 1 0 0x0 false 0x0)),
   (0x000F00000000000020081090, .vcmp (fl 4 1 2 0x0 false 0x0)),
   (0x000F0140000000002A081091, .vsel (fl 4 321 2 0x0 false 0x5)),
   (0x000F0140000000000A080092, .vmov (fl 0 321 0 0x0 false 0x5)),
   (0x000F0120002468A000001093, .vmovi (fl 4 0 0 0x12345 true 0x4)),
   (0x000F00000000000020081094, .vbfe (fl 4 1 2 0x0 false 0x0)),
   (0x000F00400000286020081095, .vbfi (fl 4 1 2 0x143 false 0x1)),
   (0x000F0140000000000A080096, .vclz (fl 0 321 0 0x0 false 0x5)),
   (0x000F0140000000000A080097, .vpop (fl 0 321 0 0x0 false 0x5)),
   (0x000F0140000000000A080098, .vbrev (fl 0 321 0 0x0 false 0x5))]
def words2 : List (BitVec 96 × Instr) :=
  [(0x000F018000000000200810C0, .fadd (fl 4 1 2 0x0 false 0x6)),
   (0x000F018000000000200810C1, .fsub (fl 4 1 2 0x0 false 0x6)),
   (0x000F018000000000200810C2, .fmul (fl 4 1 2 0x0 false 0x6)),
   (0x000F018000002860200810C3, .ffma (fl 4 1 2 0x143 false 0x6)),
   (0x000F018000000000200810C4, .fmin (fl 4 1 2 0x0 false 0x6)),
   (0x000F018000000000200810C5, .fmax (fl 4 1 2 0x0 false 0x6)),
   (0x000F018000000000200810C6, .fcmp (fl 4 1 2 0x0 false 0x6)),
   (0x000F018000000000000810C7, .fclass (fl 4 1 0 0x0 false 0x6)),
   (0x000F018000000000200810C8, .fdiv (fl 4 1 2 0x0 false 0x6)),
   (0x000F018000000000000810C9, .fsqrt (fl 4 1 0 0x0 false 0x6)),
   (0x000F018000000000000810CA, .frcp (fl 4 1 0 0x0 false 0x6)),
   (0x000F018000000000000810CB, .frsq (fl 4 1 0 0x0 false 0x6)),
   (0x000F018000000000000810CC, .fexp2 (fl 4 1 0 0x0 false 0x6)),
   (0x000F018000000000000810CD, .flog2 (fl 4 1 0 0x0 false 0x6)),
   (0x000F018000000000000810CE, .ftanh (fl 4 1 0 0x0 false 0x6)),
   (0x000F028000000000200810CF, .hadd2 (fl 4 1 2 0x0 false 0xa)),
   (0x000F028000000000200810D0, .hmul2 (fl 4 1 2 0x0 false 0xa)),
   (0x000F028000002860200810D1, .hfma2 (fl 4 1 2 0x143 false 0xa)),
   (0x000F028000000000200810D2, .hmax2 (fl 4 1 2 0x0 false 0xa)),
   (0x000F028000000000200810D3, .hmin2 (fl 4 1 2 0x0 false 0xa)),
   (0x000F00000000800000081100, .cvt (fl 4 1 0 0x400 false 0x0)),
   (0x000F01800000000000081101, .fxcvt (fl 4 1 0 0x0 false 0x6)),
   (0x000F0180000000000A080102, .fxtof (fl 0 321 0 0x0 false 0x6)),
   (0x000F2140000000000A080103, .qswp (fl 0 321 0 0x0 false 0x85)),
   (0x000F0140000000000A080104, .qbc (fl 0 321 0 0x0 false 0x5)),
   (0x000F0140000000002A081105, .shfl (fl 4 321 2 0x0 false 0x5)),
   (0x000F00000000000000001106, .vote (fl 4 0 0 0x0 false 0x0)),
   (0x000F00000000000000081107, .gred (fl 4 1 0 0x0 false 0x0)),
   (0x000F00000000000000081108, .gscan (fl 4 1 0 0x0 false 0x0)),
   (0x000F00000000000000001109, .plop (fl 4 0 0 0x0 false 0x0)),
   (0x000F0000000000000A08010A, .pmov (fl 0 321 0 0x0 false 0x0)),
   (0x000F00000000000000050D40, .mtalloc (fl 323 0 0 0x0 false 0x0)),
   (0x000F00000000000000050D41, .mtfree (fl 323 0 0 0x0 false 0x0)),
   (0x000F00000000000000050D42, .mzero (fl 323 0 0 0x0 false 0x0)),
   (0x000F00800000000000050D43, .mma (fl 323 0 0 0x0 false 0x2))]
def words3 : List (BitVec 96 × Instr) :=
  [(0x000F00800000000000050D44, .mloop (fl 323 0 0 0x0 false 0x2)),
   (0x000F0000000000142A0D0D45, .mwracc (fl 323 321 322 0x0 false 0x0)),
   (0x000F0000000000142A0D0D46, .mdrain (fl 323 321 322 0x0 false 0x0)),
   (0x000F0000000028742A0D0D47, .mdrainq (fl 323 321 322 0x143 false 0x0)),
   (0x000F00000000000000050D48, .mbatch (fl 323 0 0 0x0 false 0x0)),
   (0x000F0000000000002A081180, .ld (fl 4 321 2 0x0 false 0x0)),
   (0x000F0000000000142A0D0D81, .st (fl 323 321 322 0x0 false 0x0)),
   (0x000F0000000000142A0D0D82, .ldu (fl 323 321 322 0x0 false 0x0)),
   (0x000F0000000000142A0D0D83, .stu (fl 323 321 322 0x0 false 0x0)),
   (0x000F0600000000142A0D0D84, .lda (fl 323 321 322 0x0 false 0x18)),
   (0x000F0A00000000142A0D0D85, .stl (fl 323 321 322 0x0 false 0x28)),
   (0x000F0000000000142A0D0D86, .atom (fl 323 321 322 0x0 false 0x0)),
   (0x000F0000000000142A080187, .red (fl 0 321 322 0x0 false 0x0)),
   (0x000F00000000000000000188, .fence (fl 0 0 0 0x0 false 0x0)),
   (0x000F0000000000142A080189, .pref (fl 0 321 322 0x0 false 0x0)),
   (0x000F0100000000142A0D0D8A, .lnlk (fl 323 321 322 0x0 false 0x4)),
   (0x000F0100000000142A0D0D8B, .lnul (fl 323 321 322 0x0 false 0x4)),
   (0x000F0000000000142A08018C, .lnwb (fl 0 321 322 0x0 false 0x0)),
   (0x000F0000000000142A08018D, .lndrop (fl 0 321 322 0x0 false 0x0)),
   (0x000F0000000000142A08018E, .marm (fl 0 321 322 0x0 false 0x0)),
   (0x000F0000000000000A0D0D8F, .mslp (fl 323 321 0 0x0 false 0x0)),
   (0x000F0000000000000A4511C0, .cpyq (fl 324 328 0 0x0 false 0x0)),
   (0x000F0000000000142A0801C1, .phinit (fl 0 321 322 0x0 false 0x0)),
   (0x000F0000000000142A0D0DC2, .pharr (fl 323 321 322 0x0 false 0x0)),
   (0x000F0000000000142A0D0DC3, .phwait (fl 323 321 322 0x0 false 0x0)),
   (0x000F0000000000000A0D0DC4, .phtest (fl 323 321 0 0x0 false 0x0)),
   (0x000F0000000000000A451200, .bxsend (fl 324 328 0 0x0 false 0x0)),
   (0x000F0000000000000A451201, .bxget (fl 324 328 0 0x0 false 0x0)),
   (0x000F0000000000000A451202, .bxmc (fl 324 328 0 0x0 false 0x0)),
   (0x000F0000000000000A451203, .bxred (fl 324 328 0 0x0 false 0x0)),
   (0x000F0000000028742A0D0E04, .bxflag (fl 323 321 322 0x143 false 0x0)),
   (0x000F0000000000000A0D0E05, .mboxreg (fl 323 321 0 0x0 false 0x0)),
   (0x000F0000000000000A080206, .mboxrel (fl 0 321 0 0x0 false 0x0)),
   (0x000F00000000000000050E07, .fabst (fl 323 0 0 0x0 false 0x0)),
   (0x000F00000000000000050E40, .tbjoin (fl 323 0 0 0x0 false 0x0))]
def words4 : List (BitVec 96 × Instr) :=
  [(0x000F00000000001550055241, .tbwait (fl 340 0 341 0x0 false 0x0)),
   (0x000F00000000000000050E42, .tbtest (fl 323 0 0 0x0 false 0x0)),
   (0x000F0000000000142A0D0E43, .tbexc (fl 323 321 322 0x0 false 0x0)),
   (0x000F0000000000142A0D0E44, .haltj (fl 323 321 322 0x0 false 0x0)),
   (0x000F0000000000000A0D0E80, .launch (fl 323 321 0 0x0 false 0x0)),
   (0x000F0000000000000A0D0E81, .qtokSig (fl 323 321 0 0x0 false 0x0)),
   (0x000F2000000000000A0D0E81, .qtokGet (fl 323 321 0 0x0 false 0x80)),
   (0x000F4000000000000A0D0E81, .qtokReset (fl 323 321 0 0x0 false 0x100)),
   (0x000F0000000000142A0D0E82, .wlapp (fl 323 321 322 0x0 false 0x0)),
   (0x000F00000000000000050E83, .wltake (fl 323 0 0 0x0 false 0x0)),
   (0x000F00000000000000050E84, .wlstat (fl 323 0 0 0x0 false 0x0)),
   (0x000F0000000000142A0D0EC0, .fzrd (fl 323 321 322 0x0 false 0x0)),
   (0x000F0000000028742A0D0EC1, .fzwr (fl 323 321 322 0x143 false 0x0)),
   (0x000F0000000000142A0802C2, .fzpc (fl 0 321 322 0x0 false 0x0)),
   (0x000F0000000000142A0D0EC3, .fzmask (fl 323 321 322 0x0 false 0x0)),
   (0x000F0000000000142A0D0EC4, .fzlogRd (fl 323 321 322 0x0 false 0x0)),
   (0x000F0040000000142A0D0EC4, .fzlogReg (fl 323 321 322 0x0 false 0x1)),
   (0x000F0080000128942A0802C4, .fzlogPut (fl 0 321 322 0x944 false 0x2)),
   (0x000F00C0000000142A0802C4, .fzlogDone (fl 0 321 322 0x0 false 0x3)),
   (0x000F0000000000142A0D0EC5, .fzlane (fl 323 321 322 0x0 false 0x0)),
   (0x000F0000000000000A0D0EC6, .fzstep (fl 323 321 0 0x0 false 0x0)),
   (0x000F0000000000000A0802C7, .fzres (fl 0 321 0 0x0 false 0x0)),
   (0x000F0000000000000A0802C8, .fzkill (fl 0 321 0 0x0 false 0x0)),
   (0x000F0000000000000A0D0EC9, .capqEnum (fl 323 321 0 0x0 false 0x0)),
   (0x000F0040000000000A0D0EC9, .capqStat (fl 323 321 0 0x0 false 0x1)),
   (0x000F000000000000000002CA, .hret (fl 0 0 0 0x0 false 0x0)),
   (0x000F0000000000000A0D0F00, .prd (fl 323 321 0 0x0 false 0x0)),
   (0x000F0000000000142A080301, .pwr (fl 0 321 322 0x0 false 0x0)),
   (0x000F0000000000142A0D0F02, .rlbinv (fl 323 321 322 0x0 false 0x0)),
   (0x000F0000000000142A0D0F03, .ctxsv (fl 323 321 322 0x0 false 0x0)),
   (0x000F0000000000142A0D0F04, .ctxld (fl 323 321 322 0x0 false 0x0)),
   (0x000F0000000000000A080305, .resumej (fl 0 321 0 0x0 false 0x0)),
   (0x000F0000000000000A0D0F06, .curet (fl 323 321 0 0x0 false 0x0))]
theorem test_words0 : (words0.all fun p => decide (decode .group p.1 = .instr p.2)) = true := by decide +kernel
theorem test_words1 : (words1.all fun p => decide (decode .group p.1 = .instr p.2)) = true := by decide +kernel
theorem test_words2 : (words2.all fun p => decide (decode .group p.1 = .instr p.2)) = true := by decide +kernel
theorem test_words3 : (words3.all fun p => decide (decode .group p.1 = .instr p.2)) = true := by decide +kernel
theorem test_words4 : (words4.all fun p => decide (decode .group p.1 = .instr p.2)) = true := by decide +kernel

/-! Encodings that the checks of R123 refuse, one for each reason, and terms that are not well formed. -/
theorem test_reason1 : dec 0x200F0000 0 0 = .illegal 1 9 := by decide +kernel
theorem test_reason2 : dec 0x000F0000 0 0x03F = .illegal 2 8 := by decide +kernel
/-- JOIN with XK, BRC with mode 3, VADD with TY BF16x2, SADD with EXT, NOP with D. -/
theorem test_illformed_xk : (Instr.join (fl 0 0 0 0 true 0)).wf .group = false := by decide +kernel
theorem test_illformed_mod : (Instr.brc (fl 0 0 0 0 true 0x30)).wf .group = false := by decide +kernel
theorem test_illformed_type : (Instr.vadd (fl 4 1 2 0 false 0xB)).wf .group = false := by decide +kernel
theorem test_illformed_ext : (Instr.sadd (fl 323 321 322 0x200 false 0)).wf .group = false := by decide +kernel
theorem test_illformed_unused : (Instr.nop (fl 1 0 0 0 false 0)).wf .group = false := by decide +kernel
/-- A code from 464 to 510; a vector operand of SADD; an odd register of a pair; a k register as destination; a read-only register
written. -/
theorem test_illformed_code : (Instr.sadd (fl 500 321 322 0 false 0)).wf .group = false := by decide +kernel
theorem test_illformed_class : (Instr.sadd (fl 323 1 322 0 false 0)).wf .group = false := by decide +kernel
theorem test_illformed_pair : (Instr.vadd (fl 5 2 4 0 false 4)).wf .group = false := by decide +kernel
theorem test_illformed_k : (Instr.sadd (fl 384 321 322 0 false 0)).wf .group = false := by decide +kernel
theorem test_illformed_readOnly : (Instr.wrsr (fl 0 321 0 0 false 0)).wf .group = false := by decide +kernel
/-- The other form of an OPC: RDTIME.L with the fields of RDTIME.G. A word register or v64 in a tadpole. -/
theorem test_illformed_other : (Instr.rdtimeL (fl 323 0 0 0 false 0x80)).wf .group = false := by decide +kernel
theorem test_illformed_tadpole : (Instr.vadd (fl 64 1 2 0 false 0)).wf .systemTadpole = false ∧
    (Instr.vadd (fl 64 1 2 0 false 0)).wf .group = true := by decide +kernel
/-- Events that name a part which the module does not have (R10, R12, R13, R305, R350, R372). -/
theorem test_illformed_events :
    (([.fwctlWrite 16 0, .gctlCommit 0 256 0, .tbctlWrite 0 64 0, .qtailDoorbell 1024 0 0, .qcplWrite 0 4 0, .qctlWrite 4 0 0 0, .dieLoss 168,
       .dieReset 168 0 0, .hostSnoop 4 0, .cxlMemRead 4 0, .cxlMemWrite 0 0 0 [], .hostPortLoss 4 false, .fabricPortDown 64,
       .rowSegmentLoss 12, .timeCalibration 84 0, .dispatchOpportunity 84] : List Instr).all fun i => !i.wf .group) = true := by
  decide +kernel

/-! The manual's worked cases, each one step on a small state. -/

/-- The state after an instruction, and thread 7 in it. -/
def after (i : Instr) (s : State) : State := match exec i s with | .next u => u | _ => s
def t7 (i : Instr) (t : Thread) : Thread := ((after i (at7 t)).thread 7).getD t

/-- The worked case of R50 to R55. Its steps 1 to 6. -/
def grpHalf : Thread := { grp with preg := [(1, 0xFFFF)] }
def stk1 : Frame := { d := full, c := 0xFFFF, p := 0xFFFF0000, ppc := 0x100C, rpc := 0x2000 }
def grpTaken : Thread := { grp with exm := 0xFFFF, stack := [stk1], sreg := [(1, 0xFF), (2, 0x00FFFFFF)] }
def grpFive : Thread := { grp with exm := 0xFFDF, c0 := 0xFFFFFFDF, stack := [{ stk1 with d := 0xFFFFFFDF, c := 0xFFDF }] }
def grpLast : Thread := { grp with exm := 0xFFFF0000, c0 := 0xFFFFFFDF, stack := [{ stk1 with d := 0xFFFFFFDF, c := 0xFFFF0000, p := 0 }] }
theorem test_brd : (t7 (.brd (fl 0 6 0 3 true 1)) grpHalf).exm = 0xFFFF ∧
    (t7 (.brd (fl 0 6 0 3 true 1)) grpHalf).stack.head?.map (fun e => (e.d, e.c, e.p)) = some (full, 0xFFFF, 0xFFFF0000) := by decide +kernel
theorem test_exmwr : (t7 (.exmwr (fl 0 321 0 0 false 0)) grpTaken).exm = 0xFF ∧
    (t7 (.exmwr (fl 0 322 0 0 false 0)) { grpTaken with exm := 0xFF }).exm = 0xFFFF := by decide +kernel
theorem test_laneDies : (grpTaken.killLanes 0x20).exm = 0xFFDF ∧
    (grpTaken.killLanes 0x20).stack.head?.map (fun e => (e.d, e.c, e.p)) = some (0xFFFFFFDF, 0xFFDF, 0xFFFF0000) := by decide +kernel
theorem test_join_switches : (t7 (.join Fields.nop) grpFive).exm = 0xFFFF0000 ∧ (t7 (.join Fields.nop) grpFive).pc = 0x100C ∧
    (t7 (.join Fields.nop) grpFive).stack.head?.map (fun e => (e.d, e.c, e.p)) = some (0xFFFFFFDF, 0xFFFF0000, 0) := by decide +kernel
theorem test_join_pops : (t7 (.join Fields.nop) grpLast).exm = 0xFFFFFFDF ∧ (t7 (.join Fields.nop) grpLast).pc = 0x2000 ∧
    (t7 (.join Fields.nop) grpLast).stack = [] := by decide +kernel

/-- The example of R162: EXM 0xFF, p2 in lanes 0 to 3; a taken branch by 5 goes from slot 0 of 0x1000 to slot 0 of 0x1040. -/
def grpEight : Thread := { grp with exm := 0xFF, preg := [(2, 0xF)] }
theorem test_brc : (t7 (.brc (fl 0 0 0 5 true 0x12)) grpEight).pc = 0x100C ∧ (t7 (.brc (fl 0 0 0 5 true 0x02)) grpEight).pc = 0x1040 := by
  decide +kernel
theorem test_bra : (t7 (.bra { fl 0 0 0 5 true 0 with grd := 2 }) grpEight).pc = 0x1040 := by decide +kernel

/-- SMOVI, SMOVI.HI and SLEA of chapter 06. -/
def grpAddr : Thread := { grp with sreg := [(10, 0x0040000012345000), (11, 0xFFFFFFFD)] }
theorem test_smovi : ngetD (t7 (.smovi (fl 330 0 0 0x12345000 true 5)) grp).sreg 10 0 = 0x12345000 := by decide +kernel
theorem test_smoviHi :
    ngetD (t7 (.smovi (fl 330 0 0 0x00400000 true 0x85)) { grp with sreg := [(10, 0x12345000)] }).sreg 10 0 = 0x0040000012345000 := by
  decide +kernel
theorem test_slea : ngetD (t7 (.slea (fl 332 330 331 0 false 0x180)) grpAddr).sreg 12 0 = 0x0040000012344FE8 := by decide +kernel

/-- SHFL.UP by 1 of chapter 07: lane 9 cleared by EXMWR, lane 5 dead. -/
def grpShfl : Thread :=
  { grp with exm := 0xFFFFFDDF, deadm := 0x20, c0 := 0xFFFFFFDF, vmap := [(1, ⟨50, mkLanes fun l => BitVec.ofNat 32 (100 + l)⟩),
                                                     (2, ⟨51, mkLanes fun _ => 77⟩)], preg := [(3, 0x221)] }
def fshfl : Fields := fl 2 1 3 0x6200 false 0x82
theorem test_word_shfl : ofForm 0x105 fshfl = some (.shfl fshfl) := by decide +kernel
def shfl : Thread := t7 (.shfl { fl 2 1 0 (((1 * 32 + 16 + 3) : Nat) * 512) false 0x82 with b := 0 }) grpShfl
theorem test_shfl : [shfl.vlane 2 0, shfl.vlane 2 1, shfl.vlane 2 5, shfl.vlane 2 6, shfl.vlane 2 9, shfl.vlane 2 10] =
    [100, 100, 77, 0, 77, 109] := by decide +kernel
theorem test_shfl_predicate : shfl.pred 3 &&& 0x663 = 0x622 := by decide +kernel

/-- The force sums of chapter 07. -/
def grpForce (l : List Word) : Thread :=
  { grp with exm := 7, vmap := [(1, ⟨50, mkLanes fun i => (l[i]?).getD 0⟩), (6, ⟨51, mkLanes fun _ => 0x00100000⟩), (7, ⟨52, mkLanes fun _ => 0⟩)] }
def fixed : Thread := t7 (.fxcvt (fl 2 1 0 (20 * 512) false 6)) (grpForce [0x4B800000, 0x3F800000, 0xCB800000])
theorem test_fxcvt : [fixed.vlane 2 0, fixed.vlane 3 0, fixed.vlane 2 1, fixed.vlane 3 1, fixed.vlane 2 2, fixed.vlane 3 2] =
    [0, 0x1000, 0x00100000, 0, 0, 0xFFFFF000] := by decide +kernel
theorem test_fxtof : (t7 (.fxtof (fl 8 6 0 (20 * 512) false 6)) (grpForce [])).vlane 8 1 = 0x3F800000 := by decide +kernel
theorem test_gred : (t7 (.gred (fl 9 1 0 0 false 6)) (grpForce [0x4B800000, 0x3F800000, 0xCB800000])).vlane 9 2 = 0 ∧
    (t7 (.gred (fl 9 1 0 0 false 6)) (grpForce [0x4B800000, 0x3F800000, 0xCB800000])).fpstat = 1 ∧
    (t7 (.gred (fl 9 1 0 0 false 6)) (grpForce [0xCB800000, 0x3F800000, 0x4B800000])).vlane 9 0 = 0x3F800000 := by decide +kernel

/-- FADD of 1.0 and 2^-30 is inexact (worked case of chapter 05). -/
def grpFadd : Thread := { grp with vmap := [(1, ⟨50, mkLanes fun _ => 0x3F800000⟩), (2, ⟨51, mkLanes fun _ => 0x30800000⟩)] }
theorem test_fadd : (t7 (.fadd (fl 3 1 2 0 false 6)) grpFadd).vlane 3 31 = 0x3F800000 ∧ (t7 (.fadd (fl 3 1 2 0 false 6)) grpFadd).fpstat = 1 := by
  decide +kernel

/-- Windows (worked cases of R153 to R156): an MXFP4 element, an E5M2 element that overflows, an LQ2 block. -/
theorem test_mxfp4 : mxDecode 4 0x7C 0xD = (0xBEC0, false) := by decide +kernel
theorem test_lq2 : (List.range 8).map (fun k => (lq2Decode 0x3A2D 0x73102054 k 0x3E00).1) =
    [0x3E90, 0xBEB0, 0xBD00, 0x3E20, 0xBD00, 0x3DC0, 0x3E60, 0xBEF0] := by decide +kernel

/-- MTALLOC 64, 256 in a workgroup that has made no allocation (R208). -/
def wgTiles : Wg := { wg2 with tsUnits := 64, tileGen := 1 }
theorem test_mtalloc : ngetD (((after (.mtalloc (fl 340 0 0 (15 * 512) false 2)) (at7wg grp wgTiles)).thread 7).getD grp).sreg 20 0 = 0x0100F800 := by
  decide +kernel
/-- The summation window of R216 to R221: the largest products decide what of the accumulator is kept. -/
theorem test_window : (macElement 8 false 0x35000010 [0x5880, 0x5880] [0x5880, 0xD880]).1 = 0x35000000 ∧
    (macElement 8 false 0x30800000 [0x5880, 0x5880] [0x5880, 0xD880]).1 = 0 ∧
    (macElement 8 false 0x30800000 [0x4480, 0x4480] [0x4480, 0xC480]).1 = 0x30800000 := by decide +kernel
/-- One block drained to E4M3 without and with MXOVF (chapter 08). -/
def drainE4M3 (ovf : Bool) : Nat × List Nat := let r := mxBlock 0 ovf ([0x447A0000, 0x43960000, 0xBF000000] ++ List.replicate 29 0); (r.1,
  r.2.1.take 4)
theorem test_drain : drainE4M3 false = (0x80, [0x7E, 0x71, 0xA8, 0]) ∧ drainE4M3 true = (0x80, [0x7F, 0x71, 0xA8, 0]) := by decide +kernel

/-- The counter of chapter 10: EXP 1,000, phase 5, and arrivals of 600, 600, 900 and 2,000. -/
def ph5 (a n : Nat) : State :=
  at7wg { grp with sreg := [(1, 0x40), (2, BitVec.ofNat 64 n)] }
    { wg2 with scratch := Memory.setBytes [] 0x40 (leBytes 16 (a % 2 ^ 48 + 1000 * 2 ^ 64 + (5 + a / 2 ^ 48) * 2 ^ 112)) }
def arrives (a n : Nat) : Nat × Nat :=
  let s := after (.pharr (fl 323 321 322 0 false 0)) (ph5 a n)
  let r := (s.wg 2).map (·.scratch)
  (leNat (Memory.bytes (r.getD []) 0x40 8), leNat (Memory.bytes (r.getD []) 0x4E 2))
theorem test_pharr : [arrives 0 600, arrives 600 600, arrives (200 + 2 ^ 48) 900, arrives (100 + 2 * 2 ^ 48) 2000] =
    [(600, 5), (200, 6), (100, 7), (100, 9)] := by decide +kernel
theorem test_phwait : phPassed 5 6 = false ∧ phPassed 6 6 = false ∧ phPassed 7 6 = true := by decide +kernel

/-- LASTLN 21 with helper lanes: the launch mask, and lanes 22 and 23 as helpers (R45). -/
theorem test_launchMask : launchMasks { LaunchRec.zero with lastln := 21, hlpen := true } 0 = (0x00FFFFFF, 0x00C00000) := by decide +kernel

/-! ### Hypotheses that are not plain decisions -/

theorem issues_of {s : State} {tid : Nat} {t : Thread} {opc : Nat} {f : Fields}
    (h : s.env.cur = some tid ∧ s.thread tid = some t ∧ ready s tid t opc f = true ∧ t.blk = none) : Issues s tid t opc f :=
  ⟨h.1, h.2.1, h.2.2.1, h.2.2.2⟩
theorem releaseDone_of {f : Fields} {s : State} {t : Thread}
    (h : accOrder f = 2 → t.log = [] ∧ t.wb = none ∧ dirtySectors s t.cu = [] ∧ t.fOpen = []) : ReleaseDone f s t := h
theorem arrives_home {s : State} {id h : Nat} {m : Msg} (hd : m.dst = .home h)
    (x : nget s.mem.net id = some m ∧ id < s.env.nextId ∧ partyLost s m.dst = false ∧ h = homeOf m.sector) : Arrives s id m :=
  ⟨x.1, x.2.1, x.2.2.1, by rw [hd]; exact x.2.2.2⟩
theorem arrives_agent {s : State} {id a : Nat} {m : Msg} (hd : m.dst = .agent a)
    (x : nget s.mem.net id = some m ∧ id < s.env.nextId ∧ partyLost s m.dst = false ∧ heldAt s a m.sector = false) : Arrives s id m :=
  ⟨x.1, x.2.1, x.2.2.1, by rw [hd]; exact x.2.2.2⟩
theorem notInRecovery_of {s : State} {md : Nat} (h : (match nget s.fab.peers md with | some (.recov _) => true | _ => false) = false) :
    NotInRecovery s md := by
  intro since e
  rw [e] at h
  exact absurd h Bool.noConfusion
theorem newPacket_of {s : State} {p : Packet} (h : (p.dmod = s.mdl.number ∧ p.smod ≠ s.mdl.number ∧ nget s.fab.seen (seenKey p) = none ∧
    nget s.fab.rxq (pktKey p) = none ∧ p.pcrc = packetCrc p ∧ expired s p = false) ∧
    (match nget s.fab.peers p.smod with | some (.recov _) => true | _ => false) = false ∧ s.mdl.lostTiles = []) : NewPacket s p :=
  ⟨h.1.1, h.1.2.1, h.1.2.2.1, h.1.2.2.2.1, h.1.2.2.2.2.1, h.1.2.2.2.2.2, notInRecovery_of h.2.1, h.2.2⟩
theorem command_of {s : State} {id : Nat} {c : FabCmd} {t : Thread} (h : nget s.fab.cmds id = some c ∧ c.id = id ∧
    (∀ q ∈ s.fab.cmds, q.2.xid = c.xid ∨ (q.2.tid = c.tid ∧ q.2.seq = c.seq) → q = (id, c)) ∧ s.thread c.tid = some t ∧
    s.fab.sysReq = [] ∧ s.fab.merges = []) : Command s id c t :=
  ⟨h.1, h.2.1, h.2.2.1, h.2.2.2.1, h.2.2.2.2.1, h.2.2.2.2.2⟩
theorem ok_of {x : Except Nat (Nat × Thread)} {a : Nat × Thread}
    (h : (match x with | .ok b => decide (b = a) | .error _ => false) = true) : x = .ok a := by
  cases x with
  | ok b => simpa using h
  | error _ => simp at h
theorem error_of {x : Except Nat (Nat × Thread)} {n : Nat}
    (h : (match x with | .ok _ => false | .error m => decide (m = n)) = true) : x = .error n := by
  cases x with
  | ok b => simp at h
  | error m => simpa using h
theorem reg_not_vector {c n : Nat} (h : regOf c = .s n) (m : Nat) : regOf c ≠ .v m := by rw [h]; intro e; cases e
theorem lanes_of {w : Mask} {P : Nat → Prop} (h : ∀ l, l < 32 → w.getLsbD l = true → P l) (l : Nat) (hl : w.getLsbD l = true) : P l :=
  h l (BitVec.lt_of_getLsbD hl) hl
theorem none_of {α : Type} {x : Option α} {P : α → Prop} (h : x = none) (a : α) (ha : x = some a) : P a := by rw [h] at ha; cases ha

theorem branch_taken : Taken fj grp := by
  have h : Forms.mo fj 5 4 = 0 := by decide +kernel
  unfold Taken
  rw [h]
  show grp.pred (Forms.mo fj 3 0) &&& grp.live fj ≠ 0
  decide +kernel
theorem branch_not_taken : ¬Taken fzr grp := by
  have h : Forms.mo fzr 5 4 = 0 := by decide +kernel
  unfold Taken
  rw [h]
  show ¬(grp.pred (Forms.mo fzr 3 0) &&& grp.live fzr ≠ 0)
  decide +kernel
theorem bad_taken : Taken fbad grp := by
  have h : Forms.mo fbad 5 4 = 0 := by decide +kernel
  unfold Taken
  rw [h]
  show grp.pred (Forms.mo fbad 3 0) &&& grp.live fbad ≠ 0
  decide +kernel
theorem copyReg_free (n : Nat) : ¬match nget wg2.cpyWr n with
    | some p => p.1 = base.env.clk ∧ grp.barrel < p.2
    | none => False := by
  have h : ∀ k, nget wg2.cpyWr k = none := fun _ => rfl
  rw [h]
  exact fun x => x
theorem copyReg_newer : match nget (wgNewer 49).cpyWr (Forms.ex fw31 7 0) with
    | some p => p.1 = (at7wg grp (wgNewer 49)).env.clk ∧ grp.barrel < p.2
    | none => False := by
  have h : Forms.ex fw31 7 0 = 49 := by decide +kernel
  rw [h]
  exact ⟨rfl, by decide⟩
theorem hasTurn_of {s : State} {k tid : Nat} {t : Thread} (h : s.env.agenda = [] ∧ s.env.tick % 2 = 0 ∧ nextTurn (passTime s) = some k ∧
    inSlot (startTurn (passTime s) k) k = some (tid, t) ∧ (t.stall = 0 ∨ t.stepping ≠ 0) ∧ (t.postCause = none ∨ t.fz ≠ none)) :
    HasTurn s k tid t :=
  ⟨h.1, h.2.1, h.2.2.1, h.2.2.2.1, h.2.2.2.2.1, h.2.2.2.2.2⟩
theorem fresh_of {x : Option ActPlace} {n : Nat} (h : (x.all fun p => !aseqOlder n p.aseq) = true) (p : ActPlace) :
    ¬(x = some p ∧ aseqOlder n p.aseq = true) := by
  rintro ⟨rfl, hp⟩
  simp [hp] at h
theorem no_room : ∀ b : Nat, ¬(b + 2 ^ Forms.mo (fm fs 2) 1 0 * (Forms.ex (fm fs 2) 5 0 + 1) ≤ 4 * wgSmall.tsUnits ∧ ∀ x ∈ wgSmall.tiles,
    b + 2 ^ Forms.mo (fm fs 2) 1 0 * (Forms.ex (fm fs 2) 5 0 + 1) ≤ x.base ∨ x.base + 2 ^ x.mc * (x.nf + 1) ≤ b) := by
  intro b ⟨h1, h2⟩
  have e1 : 2 ^ Forms.mo (fm fs 2) 1 0 * (Forms.ex (fm fs 2) 5 0 + 1) = 4 := by decide +kernel
  have e2 : 4 * wgSmall.tsUnits = 4 := by decide
  rw [e1, e2] at h1
  obtain rfl : b = 0 := by omega
  exact absurd h2 (by decide +kernel)
theorem all_alive : ∀ (tid : Nat) (t : Thread), (askState ctxResuming partT).thread tid = some t → t.isGroup = true → t.place ≠ Place.exited →
    inPart (askState ctxResuming partT) 0 t = true → t.aliveLanes ≠ 0 := by
  intro tid t h _ _ _
  by_cases h7 : tid = 7
  · subst h7
    have e : (askState ctxResuming partT).thread 7 = some grpBrum := by decide +kernel
    rw [e] at h; cases h; decide +kernel
  · by_cases h8 : tid = 8
    · subst h8
      have e : (askState ctxResuming partT).thread 8 = some grpHold := by decide +kernel
      rw [e] at h; cases h; decide +kernel
    · have e : (askState ctxResuming partT).thread tid = none := by
        show nget [(7, grpBrum), (8, grpHold)] tid = none
        simp [nget, Ne.symm h7, Ne.symm h8]
      rw [e] at h; cases h

/-! ### Blocks written to host memory, and blocks read from there -/

/-- A family of states that differ in a mask of touched tiles and host memory, where context `c` maps the pages from `lo` to `hi` by one
writable entry `e` of host memory, at the addresses `pl`, and CU 0 and its die's walker keep that entry. -/
structure Hosted (F : BitVec 168 → Memory → State) (c e lo hi : Nat) (pl : Nat → Nat) : Prop where
  walks : ∀ m h va, lo ≤ va / 4096 → va / 4096 < hi → walk (F m h) c va = some ⟨e, pl va⟩
  covers : ∀ p, lo ≤ p → p < hi → reCovers e p = true
  place : ∀ va, lo ≤ va / 4096 → va / 4096 < hi → pl va = (rePbase e + (va / 4096 - reVbase e)) * 4096 + va % 4096
  buffer : ∀ m h, ((F m h).cu 0).rlb = [⟨c, e, none⟩]
  walker : ∀ m h, ngetD (F m h).mem.walkers 0 [] = [(c, e)]
  touches : ∀ m h x, (F m h).touch c x = F (m ||| BitVec.ofNat 168 (2 ^ x.tile)) h
  found : ∀ m h x, (F m h).tileLost x = false
  free : ∀ m h k, hostGiveUp (F m h) k = F m h
  writes : ∀ m h (g : Memory → Memory), ((F m h).modMem fun u => { u with hostMem := g u.hostMem }) = F m (g h)
  holds : ∀ m h, (F m h).mem.hostMem = h
  host : reKind e = 2
  readable : reRd e = true
  writable : reW e = true
  mutable : reImm e = false

section
variable {F : BitVec 168 → Memory → State} {c e lo hi : Nat} {pl : Nat → Nat}

theorem Hosted.isHost (H : Hosted F c e lo hi pl) (pa : Nat) : (Xl.host ⟨e, pa⟩) = true := by simp [Xl.host, H.host]

/-- The lookaside buffer answers what the walk answers. -/
theorem Hosted.kept (H : Hosted F c e lo hi pl) (m : BitVec 168) (h : Memory) (va : Nat) (hl : lo ≤ va / 4096) (hh : va / 4096 < hi) :
    rlbXl (F m h) 0 c va = some ⟨e, pl va⟩ := by
  have hc := H.covers _ hl hh
  have hc' := hc
  simp only [reCovers, Bool.and_eq_true, decide_eq_true_eq] at hc'
  simp only [rlbXl, H.buffer, List.findSome?_cons, List.findSome?_nil, RlbEntry.xl, RlbEntry.span, rangeXl, rangePage, H.host, hc, H.place va hl hh]
  simp [Nat.not_lt.mpr hc'.1, Nat.not_le.mpr hc'.2]

/-- A translation answers host memory, and the state stays in the family. -/
theorem Hosted.xlate_eq (H : Hosted F c e lo hi pl) (m : BitVec 168) (h : Memory) (va : Nat)
    (hl : lo ≤ va / 4096) (hh : va / 4096 < hi) : ∃ m', xlate (F m h) 0 c va = (F m' h, .ok ⟨e, pl va⟩) := by
  have hk := H.kept m h va hl hh
  have ht : Machine.translate (F m h) 0 c va = some ⟨e, pl va⟩ := by simp [Machine.translate, hk, H.walks m h va hl hh]
  have hw : walkReads (F m h) 0 c va = F m h := by simp [walkReads, hk]
  have hf : rlbFill (F m h) 0 c va ⟨e, pl va⟩ = F m h := by simp [rlbFill, hk, H.walker, H.covers _ hl hh]
  exact ⟨m ||| BitVec.ofNat 168 (2 ^ Xl.tile ⟨e, pl va⟩),
    by unfold xlate; simp only [ht, hw, hf, H.found, H.touches, Bool.false_eq_true, if_false]⟩

/-- One block goes to host memory, and the state stays in the family. -/
theorem Hosted.block (H : Hosted F c e lo hi pl) (m : BitVec 168) (h : Memory) (va : Nat) (b : List Byte)
    (hl : lo ≤ va / 4096) (hh : va / 4096 < hi) (hhi : hi ≤ 2 ^ 45) :
    ∃ m' h' x, engineXl (F m h) 0 c va true = (F m' h, .ok x) ∧
      engineWrite (F m' h) (dieOf 0) (engineOf 0 3) x (byteMask 0 b.length) b = (F m' h', true) := by
  obtain ⟨m', hx⟩ := H.xlate_eq m h va hl hh
  have hva : ¬2 ^ 57 ≤ va := by omega
  refine ⟨m', Memory.setEnabled h (pl va / 64 * 64) (fun i => (byteMask 0 b.length).getLsbD i) b, ⟨e, pl va⟩, ?_, ?_⟩
  · unfold engineXl
    simp only [hva, if_false, hx, H.writable, H.mutable, H.isHost]
    simp
  · unfold engineWrite
    simp only [H.isHost, if_true, H.free]
    rw [H.writes m' h fun x => Memory.setEnabled x (pl va / 64 * 64) (fun i => (byteMask 0 b.length).getLsbD i) b]

/-- Any number of blocks within the pages can be written, and the state stays in the family. -/
theorem Hosted.image (H : Hosted F c e lo hi pl) (blocks : List (List Byte)) (m : BitVec 168) (h : Memory)
    (va : Nat) (hl : lo ≤ va / 4096) (hv : (va + 64 * blocks.length) / 4096 < hi) (hhi : hi ≤ 2 ^ 45) :
    ∃ m' h', writeImage (F m h) 0 c va blocks = (F m' h', .ok ()) := by
  induction blocks generalizing m h va with
  | nil => exact ⟨_, _, rfl⟩
  | cons b rest ih =>
    have hlen : 64 * (b :: rest).length = 64 * rest.length + 64 := by simp [Nat.mul_add]
    obtain ⟨m', h', x, h1, h2⟩ := H.block m h va b hl (by omega) hhi
    obtain ⟨m2, h3, hu⟩ := ih m' h' (va + 64) (by omega) (by omega)
    exact ⟨m2, h3, by unfold writeImage; simp only [h1, h2]; exact hu⟩

/-- Reading blocks leaves such a state as it is once every tile counts as touched, and answers host memory. -/
theorem Hosted.record (H : Hosted F c e lo hi pl) (h : Memory) (va : Nat)
    (hl : lo ≤ va / 4096) (hh : va / 4096 < hi) (hhi : hi ≤ 2 ^ 45) :
    recordBlock (F (BitVec.allOnes 168) h) c va = (F (BitVec.allOnes 168) h, some (Memory.bytes h (pl va) 64)) := by
  have hva : ¬2 ^ 57 ≤ va := by omega
  have hq : requestCtx (F (BitVec.allOnes 168) h) c ⟨e, pl va⟩ true = F (BitVec.allOnes 168) h := by
    unfold requestCtx
    simp only [H.touches, H.found, Bool.false_and, Bool.false_eq_true, if_false, BitVec.allOnes_or]
  unfold recordBlock
  simp only [hva, if_false, H.walks _ h va hl hh, hq, H.readable, H.found, H.isHost, H.free, H.holds]
  simp
end

/-! ### A save image of any length can be written -/

/-- The state in which context 1 is halted and context 0 maps every page to host memory, with other contents of host memory and of
the mask of touched tiles, and CU 0 and its die keep the entry. -/
def saving (tdm : BitVec 168) (h : Memory) : State :=
  let s := atMap (tadR 1 32768) ctxHalt img0
  { s with ctxs := [(0, { ctxMap with tdm := tdm }), (1, ctxHalt)], cus := [(0, { Cu.reset with en := true, ctx := some 1, rlb := [⟨0, hostEntry, none⟩] })],
           mem := { s.mem with hostMem := h, walkers := [(0, [(0, hostEntry)])] } }

theorem rangeEntry_saving (tdm : BitVec 168) (h : Memory) :
    rangeEntry (saving tdm h) { ctxMap with tdm := tdm } 0 = hostEntry := by
  have h1 : ctxMap.rtbase.getLsbD 0 = false := by decide
  have h2 : (saving tdm h).coh (bits ctxMap.rtbase 51 12 * 4096 + 32 * 0) 32 = (saving 0 []).coh (bits ctxMap.rtbase 51 12 * 4096 + 32 * 0) 32 :=
    rfl
  simp only [rangeEntry, State.tableBytes, h1, h2, Bool.false_eq_true, if_false]
  decide +kernel

theorem reValid_saving (tdm : BitVec 168) (h : Memory) :
    reValid (saving tdm h) hostEntry = true := by
  have : reValid (saving tdm h) hostEntry = reValid (saving 0 []) hostEntry := rfl
  rw [this]; decide +kernel

theorem walk_mapped {s : State} {tdm : BitVec 168} {va : Nat} (hc : s.ctx 0 = { ctxMap with tdm := tdm })
    (he : rangeEntry s { ctxMap with tdm := tdm } 0 = hostEntry) (hr : reValid s hostEntry = true) (hv : va / 4096 < 2 ^ 45 - 1) :
    walk s 0 va = some ⟨hostEntry, va⟩ := by
  have hn : bits ({ ctxMap with tdm := tdm } : Ctx).rtcnt 16 0 = 1 := by
    have : ({ ctxMap with tdm := tdm } : Ctx).rtcnt = 1 := rfl
    rw [this]; decide
  have hb : reVbase hostEntry = 0 := by decide +kernel
  have hp : reNpg hostEntry = 2 ^ 45 - 1 := by decide +kernel
  have hcov : reCovers hostEntry (va / 4096) = true := by simp [reCovers, hb, hp]; omega
  have hk : reKind hostEntry = 2 := by decide +kernel
  have hpb : rePbase hostEntry = 0 := by decide +kernel
  simp [walk, hc, hn, rangeSearch, he, hr, hb, hcov, rangeXl, rangePage, hk, hpb]
  omega

theorem walk_saving (tdm : BitVec 168) (h : Memory) (va : Nat) (hv : va / 4096 < 2 ^ 45 - 1) :
    walk (saving tdm h) 0 va = some ⟨hostEntry, va⟩ :=
  walk_mapped rfl (rangeEntry_saving tdm h) (reValid_saving tdm h) hv

theorem hostEntry_covers (p : Nat) (_ : 0 ≤ p) (hp : p < 2 ^ 45 - 1) : reCovers hostEntry p = true := by
  have hb : reVbase hostEntry = 0 := by decide +kernel
  have hn : reNpg hostEntry = 2 ^ 45 - 1 := by decide +kernel
  simp [reCovers, hb, hn]; omega
theorem hostEntry_place (va : Nat) (_ : 0 ≤ va / 4096) (_ : va / 4096 < 2 ^ 45 - 1) :
    id va = (rePbase hostEntry + (va / 4096 - reVbase hostEntry)) * 4096 + va % 4096 := by
  have hb : reVbase hostEntry = 0 := by decide +kernel
  have hp : rePbase hostEntry = 0 := by decide +kernel
  simp only [hb, hp, id]; omega

theorem hosted_saving : Hosted saving 0 hostEntry 0 (2 ^ 45 - 1) id where
  walks m h va _ hh := walk_saving m h va hh
  covers := hostEntry_covers
  place := hostEntry_place
  buffer _ _ := rfl
  walker _ _ := rfl
  touches _ _ _ := rfl
  found _ _ _ := rfl
  free _ _ _ := rfl
  writes _ _ _ := rfl
  holds _ _ := rfl
  host := by decide +kernel
  readable := by decide +kernel
  writable := by decide +kernel
  mutable := by decide +kernel

theorem leBytes_length (n v : Nat) : (leBytes n v).length = n := by simp [leBytes]

theorem blocks64_length (l : List Byte) : (blocks64 l).length = (l.length + 63) / 64 := by simp [blocks64]

theorem imageBody_length (m : SaveImage) : (imageBody m).length ≤ 2 ^ 44 := by simp only [imageBody, List.length_take]; omega

theorem imageHeader_length (k c : Nat) (b : List Byte) : (imageHeader k c b).length = 64 := by unfold imageHeader; exact leBytes_length _ _

/-- The image of context 1, whatever its body. -/
def savable : State := saving ctxMap.tdm (Memory.setBytes [] 0x8000 img0)
theorem image_written (m : SaveImage) : (writeImage savable 0 0 32768 (blocks64 (imageHeader 0 1 (imageBody m) ++ imageBody m))).2 = .ok () := by
  have hb := imageBody_length m
  have hlen : 64 * (blocks64 (imageHeader 0 1 (imageBody m) ++ imageBody m)).length ≤ 2 ^ 44 + 128 := by
    rw [blocks64_length, List.length_append, imageHeader_length]; omega
  obtain ⟨m', h, hu⟩ := hosted_saving.image (blocks64 (imageHeader 0 1 (imageBody m) ++ imageBody m)) ctxMap.tdm
    (Memory.setBytes [] 0x8000 img0) 32768 (Nat.zero_le _) (by omega) (by norm_num)
  unfold savable
  rw [hu]

/-! ### A group's state can be parked -/

/-- The state in which the group's block of the park area is held, with other contents of host memory and of the mask of touched
tiles, and CU 0 and its die keep the entry. -/
def parking (tdm : BitVec 168) (h : Memory) : State :=
  let s := atPark parkHost recV1
  { s with ctxs := [(0, ctxOn), (1, { ctxPark with tdm := tdm, park := [⟨7, 0, groupPark⟩] })]
           cus := [(0, { Cu.reset with en := true, ctx := some 1, reclaim := true, rlb := [⟨1, parkHost, none⟩] })]
           mem := { s.mem with hostMem := h, walkers := [(0, [(1, parkHost)])] } }

theorem rangeEntry_parking (tdm : BitVec 168) (h : Memory) :
    rangeEntry (parking tdm h) { ctxPark with tdm := tdm, park := [⟨7, 0, groupPark⟩] } 1 = parkHost := by
  have h1 : ctxPark.rtbase.getLsbD 0 = false := by decide
  have h2 : (parking tdm h).coh (bits ctxPark.rtbase 51 12 * 4096 + 32 * 1) 32 = (parking 0 []).coh (bits ctxPark.rtbase 51 12 * 4096 + 32 * 1) 32 :=
    rfl
  simp only [rangeEntry, State.tableBytes, h1, h2, Bool.false_eq_true, if_false]
  decide +kernel

theorem reValid_parking (tdm : BitVec 168) (h : Memory) :
    reValid (parking tdm h) parkHost = true := by
  have : reValid (parking tdm h) parkHost = reValid (parking 0 []) parkHost := rfl
  rw [this]; decide +kernel

theorem walk_parking (tdm : BitVec 168) (h : Memory) (va : Nat) (hl : 0x100 ≤ va / 4096)
    (hh : va / 4096 < 0x100 + 2 ^ 20) : walk (parking tdm h) 1 va = some ⟨parkHost, va - 0x100000⟩ := by
  have hc : (parking tdm h).ctx 1 = { ctxPark with tdm := tdm, park := [⟨7, 0, groupPark⟩] } := rfl
  have hn : bits ({ ctxPark with tdm := tdm, park := [⟨7, 0, groupPark⟩] } : Ctx).rtcnt 16 0 = 2 := by
    have : ({ ctxPark with tdm := tdm, park := [⟨7, 0, groupPark⟩] } : Ctx).rtcnt = 2 := rfl
    rw [this]; decide
  have hb : reVbase parkHost = 0x100 := by decide +kernel
  have hp : reNpg parkHost = 2 ^ 20 := by decide +kernel
  have hcov : reCovers parkHost (va / 4096) = true := by simp [reCovers, hb, hp]; omega
  have hk : reKind parkHost = 2 := by decide +kernel
  have hpb : rePbase parkHost = 0 := by decide +kernel
  have hnb : ¬va / 4096 < 256 := by omega
  simp [walk, hc, hn, rangeSearch, rangeEntry_parking, reValid_parking, hb, hcov, rangeXl, rangePage, hk, hpb, hnb]
  omega

theorem parkHost_covers (p : Nat) (hl : 0x100 ≤ p) (hp : p < 0x100 + 2 ^ 20) : reCovers parkHost p = true := by
  have hb : reVbase parkHost = 0x100 := by decide +kernel
  have hn : reNpg parkHost = 2 ^ 20 := by decide +kernel
  simp [reCovers, hb, hn]; omega
theorem parkHost_place (va : Nat) (_ : 0x100 ≤ va / 4096) (_ : va / 4096 < 0x100 + 2 ^ 20) :
    va - 0x100000 = (rePbase parkHost + (va / 4096 - reVbase parkHost)) * 4096 + va % 4096 := by
  have hb : reVbase parkHost = 0x100 := by decide +kernel
  have hp : rePbase parkHost = 0 := by decide +kernel
  simp only [hb, hp]; omega

theorem hosted_parking : Hosted parking 1 parkHost 0x100 (0x100 + 2 ^ 20) (fun va => va - 0x100000) where
  walks m h va hl hh := walk_parking m h va hl hh
  covers := parkHost_covers
  place := parkHost_place
  buffer _ _ := rfl
  walker _ _ := rfl
  touches _ _ _ := rfl
  found _ _ _ := rfl
  free _ _ _ := rfl
  writes _ _ _ := by simp only [parking, State.modMem]
  holds _ _ := rfl
  host := by decide +kernel
  readable := by decide +kernel
  writable := by decide +kernel
  mutable := by decide +kernel

/-- What a write into the park area does once the image can be written. -/
theorem parkWrite_eq {s s' u : State} {cu c o z off : Nat} (hp : parkPlace s c o z = some off)
    (hk : (s.modCtx c fun k => { k with park := if k.park.any fun b => b.owner = o then k.park else k.park ++ [{ owner := o, off := off, size := z }] }) = s')
    (hu : writeImage s' cu c (bits (s'.ctx c).parkb 56 12 * 4096 + off)
      ((List.range (z / 64)).map fun i => (List.range 64).map fun j => Config.parkByte s.env.freeCtr (64 * i + j)) = (u, .ok ())) :
    parkWrite s cu c o z = ({ u with env := { u.env with freeCtr := s.env.freeCtr + 1 } }, true) := by
  unfold parkWrite
  simp only [hp, hk, hu]

/-- The group's state goes into the park area, whatever bytes stand for it. -/
def parkable : State := { parking ctxPark.tdm [] with ctxs := [(0, ctxOn), (1, ctxPark)] }
theorem group_parked (x : Xl) (hp : parkPlace (parkable.touch 1 x) 1 7 groupPark = some 0) :
    ∃ v, parkWrite (parkable.touch 1 x) 0 1 7 groupPark = (v, true) ∧ v.thread 7 = some grpPend := by
  obtain ⟨m, h, hu⟩ := hosted_parking.image ((List.range (groupPark / 64)).map fun i => (List.range 64).map fun j => Config.parkByte 0 (64 * i + j))
    (ctxPark.tdm ||| BitVec.ofNat 168 (2 ^ x.tile)) [] 0x100000 (by norm_num) (by rw [List.length_map, List.length_range]; decide +kernel) (by norm_num)
  have hb : bits ((parking (ctxPark.tdm ||| BitVec.ofNat 168 (2 ^ x.tile)) []).ctx 1).parkb 56 12 * 4096 + 0 = 0x100000 := by
    show bits ctxPark.parkb 56 12 * 4096 + 0 = 0x100000
    decide +kernel
  refine ⟨_, parkWrite_eq hp (s' := parking (ctxPark.tdm ||| BitVec.ofNat 168 (2 ^ x.tile)) []) ?_ (u := parking m h) ?_, rfl⟩
  · simp only [parkable, parking, State.touch, State.modCtx, State.setCtx]
    rfl
  · rw [hb]
    exact hu

/-! ### A save image that can be read back -/

theorem leBytes_succ (n x : Nat) : leBytes (n + 1) x = BitVec.ofNat 8 x :: leBytes n (x / 256) := by
  simp only [leBytes, List.range_succ_eq_map, List.map_cons, List.map_map, Nat.mul_zero, Nat.shiftRight_zero]
  congr 1
  apply List.map_congr_left
  intro i _
  simp only [Function.comp, Nat.shiftRight_eq_div_pow, Nat.div_div_eq_div_mul, Nat.succ_eq_add_one]
  rw [show (2 : Nat) ^ (8 * (i + 1)) = 256 * 2 ^ (8 * i) by rw [Nat.mul_add, Nat.pow_add, Nat.mul_comm]]

/-- A number's bytes give it back, but for what does not fit. -/
theorem leNat_leBytes (n x : Nat) : leNat (leBytes n x) = x % 256 ^ n := by
  induction n generalizing x with
  | zero => simp [leBytes, leNat, Nat.mod_one]
  | succ n ih =>
    rw [leBytes_succ]
    show leNat (leBytes n (x / 256)) * 256 + (BitVec.ofNat 8 x).toNat = _
    rw [ih, BitVec.toNat_ofNat, Nat.pow_succ (n := 256) (m := n), Nat.mul_comm _ 256, Nat.mul_comm (256 ^ n) 256, Nat.mod_mul]
    exact Nat.add_comm _ _

/-- Bytes read from among bytes just written. -/
theorem bytes_setBytes (m : Memory) (a k n : Nat) (l : List Byte) (h : k + n ≤ l.length) :
    Memory.bytes (Memory.setBytes m a l) (a + k) n = (l.drop k).take n := by
  apply List.ext_getElem
  · simp [Memory.bytes]; omega
  · intro i h1 h2
    simp only [Memory.bytes, List.length_map, List.length_range] at h1
    have hc : a ≤ a + k + i ∧ a + k + i < a + l.length := by omega
    have hk : a + k + i - a = k + i := by omega
    simp [Memory.bytes, Memory.byte_setBytes, hc, hk, List.getD_eq_getElem?_getD, List.getElem?_eq_getElem (show k + i < l.length by omega)]

theorem bytes_append (m : Memory) (a n k : Nat) : Memory.bytes m a n ++ Memory.bytes m (a + n) k = Memory.bytes m a (n + k) := by
  simp only [Memory.bytes, List.range_add, List.map_append, List.map_map]
  congr 1
  apply List.map_congr_left
  intro i _
  simp [Nat.add_assoc]

/-- Bytes from a block's start on are read whole. -/
theorem Hosted.range {F : BitVec 168 → Memory → State} {c e hi : Nat} (H : Hosted F c e 0 hi id)
    (h : Memory) (va n : Nat) (h64 : va % 64 = 0) (hh : (va + n + 64) / 4096 < hi) (hhi : hi ≤ 2 ^ 45) :
    readRange (F (BitVec.allOnes 168) h) c va n = (F (BitVec.allOnes 168) h, some (Memory.bytes h va n)) := by
  have hf : ∀ k, k ≤ (va % 64 + n + 63) / 64 → (List.range k).foldl (fun (acc : State × Option (List Byte)) i =>
      match acc with
      | (s, none) => (s, none)
      | (s, some l) =>
        match recordBlock s c ((va / 64 + i) * 64) with
        | (s, some b) => (s, some (l ++ b))
        | (s, none) => (s, none)) (F (BitVec.allOnes 168) h, some []) =
      (F (BitVec.allOnes 168) h, some (Memory.bytes h va (64 * k))) := by
    intro k
    induction k with
    | zero => intro _; rfl
    | succ k ih =>
      intro hk
      have ha : (va / 64 + k) * 64 = va + 64 * k := by omega
      rw [List.range_succ, List.foldl_append, ih (by omega)]
      simp only [List.foldl_cons, List.foldl_nil, ha, H.record h (va + 64 * k) (Nat.zero_le _) (by omega) hhi, id]
      rw [bytes_append]
      rfl
  unfold readRange
  refine (congrArg (fun p : State × Option (List Byte) => (p.1, p.2.map fun l => (l.drop (va % 64)).take n)) (hf _ (Nat.le_refl _))).trans ?_
  simp only [h64, Option.map_some, List.drop_zero]
  refine congrArg (fun l => (F (BitVec.allOnes 168) h, some l)) ?_
  apply List.ext_getElem
  · simp [Memory.bytes]; omega
  · intro i h1 h2; simp [Memory.bytes]

/-- The state in which context 1 is halted and saved, its newest image is number 0 and the image's bytes stand at 0x8000. -/
def loading (k : Ctx) (g : NMap Wg) (tdm : BitVec 168) (h : Memory) : State :=
  let s := atMap (tadR 1 32768) k []
  { s with ctxs := [(0, { ctxMap with tdm := tdm }), (1, k)], cus := [(0, { Cu.reset with en := true, ctx := some 1, rlb := [⟨0, hostEntry, none⟩] })], wgs := g
           mem := { s.mem with hostMem := h, walkers := [(0, [(0, hostEntry)])] }, images := [(0, takeImage s 1)] }
/-- The body of that image, and the whole of it. -/
def savedBody (k : Ctx) : List Byte := imageBody (takeImage (atMap (tadR 1 32768) k []) 1)
def savedImage (k : Ctx) : List Byte := imageHeader 0 1 (savedBody k) ++ savedBody k
def loadable (k : Ctx) (g : NMap Wg) : State := loading k g (BitVec.allOnes 168) (Memory.setBytes [] 0x8000 (savedImage k))
/-- A workgroup to be admitted again, and a context that has no die. -/
def wgSaved : Wg := { wg2 with evicted := true }
def ctxNowhere : Ctx := { ctxSaved with ctl := 4 }

theorem rangeEntry_loading (k : Ctx) (g : NMap Wg) (tdm : BitVec 168) (h : Memory) :
    rangeEntry (loading k g tdm h) { ctxMap with tdm := tdm } 0 = hostEntry := (rangeEntry_saving tdm h).symm ▸ rfl

theorem walk_loading (k : Ctx) (g : NMap Wg) (tdm : BitVec 168) (h : Memory) (va : Nat)
    (hv : va / 4096 < 2 ^ 45 - 1) : walk (loading k g tdm h) 0 va = some ⟨hostEntry, va⟩ :=
  walk_mapped rfl (rangeEntry_loading k g tdm h) (reValid_saving tdm h) hv

theorem hosted_loading (k : Ctx) (g : NMap Wg) : Hosted (loading k g) 0 hostEntry 0 (2 ^ 45 - 1) id where
  walks m h va _ hh := walk_loading k g m h va hh
  covers := hostEntry_covers
  place := hostEntry_place
  buffer _ _ := rfl
  walker _ _ := rfl
  touches _ _ _ := rfl
  found _ _ _ := rfl
  free _ _ _ := rfl
  writes _ _ _ := by simp only [loading, State.modMem]
  holds _ _ := rfl
  host := by decide +kernel
  readable := by decide +kernel
  writable := by decide +kernel
  mutable := by decide +kernel

theorem savedBody_length (k : Ctx) : (savedBody k).length ≤ 2 ^ 44 := imageBody_length _
theorem savedImage_length (k : Ctx) : (savedImage k).length = 64 + (savedBody k).length := by rw [savedImage, List.length_append, imageHeader_length]

/-- The number that an image's header holds, and its fields. -/
def headerValue (key c len crc : Nat) : Nat := imageTag + len <<< 64 + c <<< 134 + key <<< 144 + crc <<< 160
theorem imageHeader_eq (key c : Nat) (b : List Byte) : imageHeader key c b = leBytes 64 (headerValue key c (64 + b.length) (crc32c b).toNat) := rfl
theorem headerValue_eq (len crc : Nat) : headerValue 0 1 len crc = 0x5A56383453560001 + len * 2 ^ 64 + 2 ^ 134 + crc * 2 ^ 160 := by
  unfold headerValue imageTag
  rw [Nat.shiftLeft_eq len, Nat.shiftLeft_eq 1, Nat.shiftLeft_eq 0, Nat.shiftLeft_eq crc, Nat.one_mul, Nat.zero_mul, Nat.add_zero]
  omega
theorem headerValue_lt {len crc : Nat} (hl : len ≤ 2 ^ 44 + 64) (hc : crc < 2 ^ 32) : headerValue 0 1 len crc < 256 ^ 64 := by
  rw [headerValue_eq]
  omega
theorem header_fields {len crc : Nat} (hl : len ≤ 2 ^ 44 + 64) (hc : crc < 2 ^ 32) :
    Machine.field (headerValue 0 1 len crc) 63 0 = imageTag ∧ Machine.field (headerValue 0 1 len crc) 143 134 = 1 ∧
    Machine.field (headerValue 0 1 len crc) 159 144 = 0 ∧ Machine.field (headerValue 0 1 len crc) 133 128 = 0 ∧
    Machine.field (headerValue 0 1 len crc) 127 64 = len ∧ Machine.field (headerValue 0 1 len crc) 191 160 = crc ∧ headerValue 0 1 len crc >>> 192
      = 0 := by
  have h := headerValue_eq len crc
  generalize headerValue 0 1 len crc = x at h
  simp only [Machine.field, Nat.shiftRight_eq_div_pow, imageTag, Nat.reduceAdd, Nat.reduceSub]
  omega

theorem header_read (k : Ctx) (g : NMap Wg) : readRange (loadable k g) 0 0x8000 64 = (loadable k g, some (imageHeader 0 1 (savedBody k))) := by
  have hl := savedImage_length k
  unfold loadable
  rw [(hosted_loading k g).range _ 0x8000 64 (by norm_num) (by norm_num) (by norm_num)]
  have := bytes_setBytes [] 0x8000 0 64 (savedImage k) (by omega)
  rw [Nat.add_zero] at this
  rw [this, savedImage, List.drop_zero, List.take_left' (imageHeader_length _ _ _)]
theorem body_read (k : Ctx) (g : NMap Wg) : readRange (loadable k g) 0 (0x8000 + 64) (64 + (savedBody k).length - 64) =
    (loadable k g, some (savedBody k)) := by
  have hb := savedBody_length k
  have hl := savedImage_length k
  unfold loadable
  rw [(hosted_loading k g).range _ (0x8000 + 64) _ (by norm_num) (by omega) (by norm_num)]
  rw [bytes_setBytes [] 0x8000 64 _ (savedImage k) (by omega), savedImage, List.drop_left' (imageHeader_length _ _ _)]
  rw [List.take_of_length_le (by omega)]
theorem header_value (k : Ctx) : leNat (imageHeader 0 1 (savedBody k)) = headerValue 0 1 (64 + (savedBody k).length) (crc32c (savedBody k)).toNat :=
  by
  have hb := savedBody_length k
  have hv := headerValue_lt (show 64 + (savedBody k).length ≤ 2 ^ 44 + 64 by omega) (crc32c (savedBody k)).isLt
  rw [imageHeader_eq, leNat_leBytes, Nat.mod_eq_of_lt hv]

/-- The image's bytes are read back, whatever its body. -/
theorem image_read (k : Ctx) (g : NMap Wg) (hk : k.key = 0) : readImage (loadable k g) 0 0x8000 1 = (loadable k g, some (savedBody k)) := by
  have hb := savedBody_length k
  have key : ((loadable k g).ctx 1).key = 0 := hk
  have hh := header_fields (show 64 + (savedBody k).length ≤ 2 ^ 44 + 64 by omega) (crc32c (savedBody k)).isLt
  rw [readImage, header_read]
  simp only [header_value]
  generalize headerValue 0 1 (64 + (savedBody k).length) (crc32c (savedBody k)).toNat = x at hh
  obtain ⟨f0, f1, f2, f3, f4, f5, f6⟩ := hh
  rw [f0, f1, f2, f3, f4, f5, f6, key, body_read]
  rw [if_neg (by simp)]
  simp

theorem image_known (k : Ctx) (g : NMap Wg) : imageOf (loadable k g) 1 (savedBody k) = some (takeImage (atMap (tadR 1 32768) k []) 1, true) := by
  have h : ((loadable k g).images.filter fun p => p.2.ctx = 1).reverse = [(0, takeImage (atMap (tadR 1 32768) k []) 1)] := rfl
  unfold imageOf
  simp only [h]
  simp [savedBody]

/-- States in which CTXLD restores the image, and in which no die takes the context. -/
theorem test_hyp_imageRestored : readImage (loadable ctxSaved (atMap tad ctxSaved []).wgs) 0 0x8000 1 =
      (loadable ctxSaved (atMap tad ctxSaved []).wgs, some (savedBody ctxSaved)) ∧
    imageOf (loadable ctxSaved (atMap tad ctxSaved []).wgs) 1 (savedBody ctxSaved) = some (takeImage (atMap (tadR 1 32768) ctxSaved []) 1, true) ∧
    Issues (loadable ctxSaved (atMap tad ctxSaved []).wgs) 9 (tadR 1 32768) 0x304 ftad ∧
    flushCus (loadable ctxSaved (atMap tad ctxSaved []).wgs) (staleCus (loadable ctxSaved (atMap tad ctxSaved []).wgs)) =
      (loadable ctxSaved (atMap tad ctxSaved []).wgs, true) ∧
    loadAll (loadable ctxSaved (atMap tad ctxSaved []).wgs) 1 = some (loadable ctxSaved (atMap tad ctxSaved []).wgs) ∧
    bits ((loadable ctxSaved (atMap tad ctxSaved []).wgs).ctx 1).brst 1 0 = 2 ∧
    ((loadable ctxSaved (atMap tad ctxSaved []).wgs).ctx 1).brst.getLsbD 2 = true ∧
    (loadable ctxSaved (atMap tad ctxSaved []).wgs).thread 9 = some (tadR 1 32768) :=
  ⟨image_read _ _ rfl, image_known _ _, issues_of (by decide +kernel), rfl, rfl, by decide, by decide, rfl⟩
theorem test_hyp_imageNotRestored : readImage (loadable ctxNowhere [(2, wgSaved)]) 0 0x8000 1 =
      (loadable ctxNowhere [(2, wgSaved)], some (savedBody ctxNowhere)) ∧
    imageOf (loadable ctxNowhere [(2, wgSaved)]) 1 (savedBody ctxNowhere) = some (takeImage (atMap (tadR 1 32768) ctxNowhere []) 1, true) ∧
    Issues (loadable ctxNowhere [(2, wgSaved)]) 9 (tadR 1 32768) 0x304 ftad ∧
    flushCus (loadable ctxNowhere [(2, wgSaved)]) (staleCus (loadable ctxNowhere [(2, wgSaved)])) = (loadable ctxNowhere [(2, wgSaved)], true) ∧
    loadAll (loadable ctxNowhere [(2, wgSaved)]) 1 = none ∧
    bits ((loadable ctxNowhere [(2, wgSaved)]).ctx 1).brst 1 0 = 2 ∧ ((loadable ctxNowhere [(2, wgSaved)]).ctx 1).brst.getLsbD 2 = true :=
  ⟨image_read _ _ rfl, image_known _ _, issues_of (by decide +kernel), rfl, rfl, by decide, by decide⟩

/-! ### Witnesses written by hand -/

theorem test_hyp_DecodeOfEncodedForm : (Instr.vadd { fl 4 4 6 0 false 0 with lrb := true }).wf .group = true ∧
    (encode (.vadd { fl 4 4 6 0 false 0 with lrb := true })).isSome = true := by decide +kernel
theorem test_hyp_EncodeOfDecodedWord : decode .group addWord = .instr (.sadd fadd) := by decide +kernel
/-- The count and the members that a commit of `v` finds in a table of two modules are good. -/
def goodCommit (v : Word64) : Bool :=
  1 ≤ bits v 6 0 && bits v 6 0 ≤ 64 &&
    ((List.range (bits v 6 0)).map fun i => bits (ngetD ({ McGroup.reset with mmod := [(1, 9)] } : McGroup).mmod i 0) 11 0).Nodup
theorem test_hyp_GroupCommit : ((0x82 : Word64).getLsbD 7 = true ∧ goodCommit 0x82 = true) ∧
    ((0x83 : Word64).getLsbD 7 = true ∧ goodCommit 0x83 = false) ∧ ((0x80 : Word64).getLsbD 7 = true ∧ goodCommit 0x80 = false) ∧
    (0x02 : Word64).getLsbD 7 = false := by decide +kernel
/-- A responder before stage 4 and after it, and the first and last block of its measurements. -/
theorem test_hyp_ResponderAnswers : bits State.reset.mdl.mstatus 7 4 = 0 ∧ bits base.mdl.mstatus 7 4 ≠ 0 ∧ base.mdl.mstatus.getLsbD 0 = true ∧
    (∀ block ∈ [1, 4], 1 ≤ block ∧ block ≤ 4) ∧ ∀ block ∈ [0, 5], ¬(1 ≤ block ∧ block ≤ 4) ∧ block ≠ 255 := by
  decide +kernel

/-! ### No statement has hypotheses that nothing meets

For each claim and each of its clauses (the comment gives its place among the conjuncts), a state and operands that meet the hypotheses. A
hypothesis that an earlier clause of the same claim has, with the same operands, is not written again; what is no plain decision stands
first. -/

theorem test_hyp_ScalarArithmeticResults :
    -- all
    Issues base 7 grp scalarArithmetic[0].opc fs ∧
    -- all
    grp.live fs ≠ 0 :=
  ⟨issues_of (by decide +kernel), by decide +kernel⟩
theorem test_hyp_ScalarBitResults :
    -- all
    Issues base 7 grp scalarBits[0].opc fs ∧
    -- all
    grp.live fs ≠ 0 :=
  ⟨issues_of (by decide +kernel), by decide +kernel⟩
theorem test_hyp_ScalarCompareMoveAddress :
    -- 1
    Issues base 7 grp 77 fs ∧
    -- 2.1
    Issues base 7 grp 80 fs ∧
    -- 2.2
    Issues base 7 grp 81 fs ∧
    -- 2.1
    grp.live fs ≠ 0 :=
  ⟨issues_of (by decide +kernel), issues_of (by decide +kernel), issues_of (by decide +kernel), by decide +kernel⟩
theorem test_hyp_VectorArithmeticResults :
    -- all
    Issues base 7 grp vectorArithmetic[0].opc fv ∧
    -- all
    grp.fits (vecWrites fv.d.toNat (tyWide (Forms.ty fv)) (grp.live fv) (vectorArithmetic[0].lane base 7 grp fv)) = true :=
  ⟨issues_of (by decide +kernel), by decide +kernel⟩
theorem test_hyp_VectorBitResults :
    -- all
    Issues base 7 grp vectorBits[0].opc fv ∧
    -- all
    grp.fits (vecWrites fv.d.toNat (tyWide (Forms.ty fv)) (grp.live fv) (vectorBits[0].lane base 7 grp fv)) = true :=
  ⟨issues_of (by decide +kernel), by decide +kernel⟩
theorem test_hyp_VectorOtherResults :
    -- 1
    Issues base 7 grp 133 fv ∧
    -- 2.1
    Issues base 7 grp 134 fv ∧
    -- 2.2.1
    Issues base 7 grp 144 fv ∧
    -- 2.2.2.1
    Issues base 7 grp 145 fv ∧
    -- 2.2.2.2.1
    Issues base 7 grp 147 fv ∧
    -- 2.2.2.2.2.1
    Issues base 7 grp 150 fv ∧
    -- 2.2.2.2.2.2
    Issues base 7 grp 151 fv ∧
    -- 1
    (grp.fits (vecWrites fv.d.toNat true (grp.live fv) fun l => storeTy (if Forms.ty fv = 0 then 4 else 5) (satBit fv) (numTy (Forms.ty fv)
      (BitVec.toNat (lane32 base 7 grp fv.a.toNat 0 l)) * numTy (Forms.ty fv) (BitVec.toNat (lane32 base 7 grp fv.b.toNat 0 l)) + numTy (if
      Forms.ty fv = 0 then 4 else 5) (if fv.xk = true then immTy (if Forms.ty fv = 0 then 4 else 5) fv.x else laneTy base 7 grp (if Forms.ty fv =
      0 then 4 else 5) fv.c.toNat l))) = true) ∧
    -- 2.1
    (grp.fits ((vecWrites fv.d.toNat false (grp.live fv) fun l => (BitVec.toNat (lane32 base 7 grp fv.a.toNat 0 l) + if Forms.mo fv 8 8 = 1 then 2
      ^ 32 - 1 - BitVec.toNat (lane32 base 7 grp fv.b.toNat 0 l) else BitVec.toNat (lane32 base 7 grp fv.b.toNat 0 l)) + if (if Forms.mo fv 7 7 =
      1 then BitVec.getLsbD (grp.pred (Forms.ex fv 3 0)) l else decide (Forms.mo fv 8 8 = 1)) = true then 1 else 0) ++ [Write.prd (Forms.ex fv 7 4
      % 16) (laneMask fun l => decide (2 ^ 32 ≤ (BitVec.toNat (lane32 base 7 grp fv.a.toNat 0 l) + if Forms.mo fv 8 8 = 1 then 2 ^ 32 - 1 -
      BitVec.toNat (lane32 base 7 grp fv.b.toNat 0 l) else BitVec.toNat (lane32 base 7 grp fv.b.toNat 0 l)) + if (if Forms.mo fv 7 7 = 1 then
      BitVec.getLsbD (grp.pred (Forms.ex fv 3 0)) l else decide (Forms.mo fv 8 8 = 1)) = true then 1 else 0)) (grp.live fv)]) = true) ∧
    -- 2.2.1
    (grp.fits [Write.prd (fv.d.toNat % 16) (laneMask fun l => match Forms.mo fv 9 7 with | 0 => decide (valueOf fv (laneTy base 7 grp (Forms.ty fv) fv.a.toNat l) = valueOf fv (if fv.xk = true then immTy (Forms.ty fv) fv.x else laneTy base 7 grp (Forms.ty fv) fv.b.toNat l)) | 1 => decide (valueOf fv (laneTy base 7 grp (Forms.ty fv) fv.a.toNat l) ≠ valueOf fv (if fv.xk = true then immTy (Forms.ty fv) fv.x else laneTy base 7 grp (Forms.ty fv) fv.b.toNat l)) | 2 => decide (valueOf fv (laneTy base 7 grp (Forms.ty fv) fv.a.toNat l) < valueOf fv (if fv.xk = true then immTy (Forms.ty fv) fv.x else laneTy base 7 grp (Forms.ty fv) fv.b.toNat l)) | 3 => decide (valueOf fv (laneTy base 7 grp (Forms.ty fv) fv.a.toNat l) ≤ valueOf fv (if fv.xk = true then immTy (Forms.ty fv) fv.x else laneTy base 7 grp (Forms.ty fv) fv.b.toNat l)) | 4 => decide (valueOf fv (if fv.xk = true then immTy (Forms.ty fv) fv.x else laneTy base 7 grp (Forms.ty fv) fv.b.toNat l) < valueOf fv (laneTy base 7 grp (Forms.ty fv) fv.a.toNat l)) | x => decide (valueOf fv (if fv.xk = true then immTy (Forms.ty fv) fv.x else laneTy base 7 grp (Forms.ty fv) fv.b.toNat l) ≤ valueOf fv (laneTy base 7 grp (Forms.ty fv) fv.a.toNat l))) (grp.live fv)] = true) ∧
    -- 2.2.2.1
    (grp.fits (vecWrites fv.d.toNat (tyWide (Forms.ty fv)) (grp.live fv) fun l => if BitVec.getLsbD (grp.pred (Forms.ex fv 3 0)) l = true then
      laneTy base 7 grp (Forms.ty fv) fv.a.toNat l else laneTy base 7 grp (Forms.ty fv) fv.b.toNat l) = true) ∧
    -- 2.2.2.2.1
    (grp.fits (vecWrites fv.d.toNat (tyWide (Forms.ty fv)) (grp.live fv) fun x => immTy (Forms.ty fv) fv.x) = true) ∧
    -- 2.2.2.2.2.1
    (grp.fits (vecWrites fv.d.toNat false (grp.live fv) fun l => if laneTy base 7 grp (Forms.ty fv) fv.a.toNat l = 0 then widthOf fv else widthOf
      fv - 1 - (laneTy base 7 grp (Forms.ty fv) fv.a.toNat l).log2) = true) ∧
    -- 2.2.2.2.2.2
    (grp.fits (vecWrites fv.d.toNat false (grp.live fv) fun l => List.countP (fun i => (laneTy base 7 grp (Forms.ty fv) fv.a.toNat l).testBit i)
      (List.range (widthOf fv))) = true) :=
  ⟨issues_of (by decide +kernel), issues_of (by decide +kernel), issues_of (by decide +kernel),
   issues_of (by decide +kernel), issues_of (by decide +kernel), issues_of (by decide +kernel),
   issues_of (by decide +kernel), by decide +kernel⟩
theorem test_hyp_SingleFloatResults :
    -- all
    Issues base 7 grp singleFloat[0].opc fv ∧
    -- all
    (grp.fits (vecWrites fv.d.toNat false (grp.live fv) fun l => (singleFloat[0].lane base 7 grp fv l).1) = true) :=
  ⟨issues_of (by decide +kernel), by decide +kernel⟩
theorem test_hyp_PackedFloatResults :
    -- all
    Issues base 7 grp packedFloat[0].opc fv ∧
    -- all
    (grp.fits (vecWrites fv.d.toNat false (grp.live fv) fun l => (packedFloat[0].lane base 7 grp fv l).1) = true) :=
  ⟨issues_of (by decide +kernel), by decide +kernel⟩
theorem test_hyp_FloatCompareAndConvert :
    -- 1
    Issues base 7 grp 198 (fm fv 6) ∧
    -- 2.1
    Issues base 7 grp 256 (fm fv 6) ∧
    -- 2.2.1
    Issues base 7 grp 257 (fm fv 6) ∧
    -- 2.2.2
    Issues base 7 grp 258 (fm fv 6) ∧
    -- 1
    Forms.ty (fm fv 6) = 6 ∧
    (grp.fits [Write.prd ((fm fv 6).d.toNat % 16) (laneMask fun l => (fcmpRel (Forms.mo (fm fv 6) 9 7) (f32.val (BitVec.toNat (lane32 base 7 grp
      (fm fv 6).a.toNat 0 l))) (f32.val (if (fm fv 6).xk = true then (fm fv 6).x.toNat else BitVec.toNat (lane32 base 7 grp (fm fv 6).b.toNat 0
      l)))).1) (grp.live (fm fv 6))] = true) ∧
    -- 2.1
    (grp.fits (vecWrites (fm fv 6).d.toNat (tyWide (Forms.ty (fm fv 6))) (grp.live (fm fv 6)) fun l => (cvtLane base 7 grp (fm fv 6) l).1) = true) ∧
    -- 2.2.1
    (grp.fits (vecWrites (fm fv 6).d.toNat true (grp.live (fm fv 6)) fun l => storeInt 64 true false (floatToInt 0 (-↑(2 ^ 63)) (↑(2 ^ 63) - 1)
      (f32.val (BitVec.toNat (lane32 base 7 grp (fm fv 6).a.toNat 0 l))) ↑(Forms.ex (fm fv 6) 5 0)).1) = true) ∧
    -- 2.2.2
    (grp.fits (vecWrites (fm fv 6).d.toNat false (grp.live (fm fv 6)) fun l => (f32.ofInt (rmBits (fm fv 6)) (signedOf 64 (BitVec.toNat (lane64
      base 7 grp (fm fv 6).a.toNat l))) (-↑(Forms.ex (fm fv 6) 5 0))).1) = true) :=
  ⟨issues_of (by decide +kernel), issues_of (by decide +kernel), issues_of (by decide +kernel),
   issues_of (by decide +kernel), by decide +kernel⟩
theorem test_hyp_ExchangeResults :
    -- 1
    Issues base 7 grp 259 fv ∧
    -- 2.1
    Issues base 7 grp 260 fv ∧
    -- 2.2
    Issues base 7 grp 261 fv ∧
    -- 1
    (grp.fits ((vecWrites fv.d.toNat (tyWide (Forms.ty fv)) (grp.live fv) fun l => (exchanged fv base 7 grp (fun l => some (l ^^^ Forms.mo fv 8
      7)) l).1) ++ [Write.prd (Forms.ex fv 3 0 % 16) (laneMask fun l => (exchanged fv base 7 grp (fun l => some (l ^^^ Forms.mo fv 8 7)) l).2)
      (grp.live fv)]) = true) ∧
    -- 2.1
    (grp.fits ((vecWrites fv.d.toNat (tyWide (Forms.ty fv)) (grp.live fv) fun l => (exchanged fv base 7 grp (fun l => some (4 * (l / 4) + Forms.mo
      fv 8 7)) l).1) ++ [Write.prd (Forms.ex fv 3 0 % 16) (laneMask fun l => (exchanged fv base 7 grp (fun l => some (4 * (l / 4) + Forms.mo fv 8
      7)) l).2) (grp.live fv)]) = true) ∧
    -- 2.2
    (grp.fits ((vecWrites fv.d.toNat (tyWide (Forms.ty fv)) (grp.live fv) fun l => (exchanged fv base 7 grp (fun l => match Forms.mo fv 8 7 with | 0 => some ((if Forms.ex fv 4 4 = 1 then Forms.ex fv 9 5 else BitVec.toNat (lane32 base 7 grp fv.b.toNat 0 l)) % 32) | 1 => if (if Forms.ex fv 4 4 = 1 then Forms.ex fv 9 5 else BitVec.toNat (lane32 base 7 grp fv.b.toNat 0 l)) % 64 ≤ l then some (l - (if Forms.ex fv 4 4 = 1 then Forms.ex fv 9 5 else BitVec.toNat (lane32 base 7 grp fv.b.toNat 0 l)) % 64) else none | 2 => if l + (if Forms.ex fv 4 4 = 1 then Forms.ex fv 9 5 else BitVec.toNat (lane32 base 7 grp fv.b.toNat 0 l)) % 64 ≤ 31 then some (l + (if Forms.ex fv 4 4 = 1 then Forms.ex fv 9 5 else BitVec.toNat (lane32 base 7 grp fv.b.toNat 0 l)) % 64) else none | x => some (l ^^^ (if Forms.ex fv 4 4 = 1 then Forms.ex fv 9 5 else BitVec.toNat (lane32 base 7 grp fv.b.toNat 0 l)) % 32)) l).1) ++ [Write.prd (Forms.ex fv 3 0 % 16) (laneMask fun l => (exchanged fv base 7 grp (fun l => match Forms.mo fv 8 7 with | 0 => some ((if Forms.ex fv 4 4 = 1 then Forms.ex fv 9 5 else BitVec.toNat (lane32 base 7 grp fv.b.toNat 0 l)) % 32) | 1 => if (if Forms.ex fv 4 4 = 1 then Forms.ex fv 9 5 else BitVec.toNat (lane32 base 7 grp fv.b.toNat 0 l)) % 64 ≤ l then some (l - (if Forms.ex fv 4 4 = 1 then Forms.ex fv 9 5 else BitVec.toNat (lane32 base 7 grp fv.b.toNat 0 l)) % 64) else none | 2 => if l + (if Forms.ex fv 4 4 = 1 then Forms.ex fv 9 5 else BitVec.toNat (lane32 base 7 grp fv.b.toNat 0 l)) % 64 ≤ 31 then some (l + (if Forms.ex fv 4 4 = 1 then Forms.ex fv 9 5 else BitVec.toNat (lane32 base 7 grp fv.b.toNat 0 l)) % 64) else none | x => some (l ^^^ (if Forms.ex fv 4 4 = 1 then Forms.ex fv 9 5 else BitVec.toNat (lane32 base 7 grp fv.b.toNat 0 l)) % 32)) l).2) (grp.live fv)]) = true) :=
  ⟨issues_of (by decide +kernel), issues_of (by decide +kernel), issues_of (by decide +kernel), by decide +kernel⟩
theorem test_hyp_VoteReduceScanPredicates :
    -- 1
    Issues base 7 grp 262 (fm fv 0) ∧
    -- 2.2.1
    Issues base 7 grp 263 (fm fv 0) ∧
    -- 2.2.2.1
    Issues base 7 grp 264 (fm fv 0) ∧
    -- 2.2.2.2.1
    Issues base 7 grp 265 (fm fv 0) ∧
    -- 2.2.2.2.2.1
    Issues base 7 grp 266 (fm fv 0) ∧
    -- 2.1
    Issues base 7 grp 262 (fm fv 390) ∧
    -- 2.2.2.2.2.2
    Issues base 7 grp 266 (fm fv 390) ∧
    -- 1
    Forms.mo (fm fv 0) 8 7 ≠ 3 ∧
    (grp.fits [Write.prd ((fm fv 0).d.toNat % 16) (allLanes (match Forms.mo (fm fv 0) 8 7 with | 0 => decide (grp.pred (Forms.ex (fm fv 0) 3 0) &&& grp.eff (fm fv 0) ≠ 0) | 1 => decide (grp.pred (Forms.ex (fm fv 0) 3 0) &&& grp.eff (fm fv 0) = grp.eff (fm fv 0)) | x => decide (grp.pred (Forms.ex (fm fv 0) 3 0) &&& grp.eff (fm fv 0) = grp.eff (fm fv 0)) || decide (grp.pred (Forms.ex (fm fv 0) 3 0) &&& grp.eff (fm fv 0) = 0))) (grp.live (fm fv 0))] = true) ∧
    -- 2.2.1
    grp.live (fm fv 0) ≠ 0 ∧
    (grp.fits (anyWrites (fm fv 0).d.toNat (tyWide (Forms.ty (fm fv 0))) (grp.live (fm fv 0)) (redStore (fm fv 0) (gredTree (combineOpt (Forms.mo
      (fm fv 0) 9 7) (Forms.ty (fm fv 0)) (rmBits (fm fv 0))) (List.map (fun l => if BitVec.getLsbD (grp.eff (fm fv 0)) l = true then some
      (redTerm base 7 grp (fm fv 0) l) else none) (List.range 32)))) (uniStore (Forms.ty (fm fv 0)) (redStore (fm fv 0) (gredTree (combineOpt
      (Forms.mo (fm fv 0) 9 7) (Forms.ty (fm fv 0)) (rmBits (fm fv 0))) (List.map (fun l => if BitVec.getLsbD (grp.eff (fm fv 0)) l = true then
      some (redTerm base 7 grp (fm fv 0) l) else none) (List.range 32)))))) = true) ∧
    -- 2.2.2.1
    (grp.fits (vecWrites (fm fv 0).d.toNat (tyWide (Forms.ty (fm fv 0))) (grp.live (fm fv 0)) fun l => redStore (fm fv 0) (if (BitVec.getLsbD
      (grp.eff (fm fv 0)) l && decide (Forms.ex (fm fv 0) 0 0 = 1)) = true then ((scanRuns base 7 grp (fm fv 0))[l]?.getD (none, none)).1 else
      ((scanRuns base 7 grp (fm fv 0))[l]?.getD (none, none)).2)) = true) ∧
    -- 2.2.2.2.1
    (grp.fits [Write.prd ((fm fv 0).d.toNat % 16) (laneMask fun l => (Forms.ex (fm fv 0) 19 12).testBit (((if BitVec.getLsbD (grp.pred (Forms.ex
      (fm fv 0) 3 0)) l = true then 1 else 0) + 2 * if BitVec.getLsbD (grp.pred (Forms.ex (fm fv 0) 7 4)) l = true then 1 else 0) + 4 * if
      BitVec.getLsbD (grp.pred (Forms.ex (fm fv 0) 11 8)) l = true then 1 else 0)) (grp.live (fm fv 0))] = true) ∧
    -- 2.2.2.2.2.1
    Forms.mo (fm fv 0) 7 7 = 0 ∧
    grp.fits [Write.prd ((fm fv 0).d.toNat % 16) (BitVec.setWidth 32 (uniVal base 7 grp (fm fv 0).a.toNat)) (grp.live (fm fv 0))] = true ∧
    -- 2.1
    Forms.mo (fm fv 390) 8 7 = 3 ∧
    grp.live (fm fv 390) ≠ 0 ∧
    (grp.fits (anyWrites (fm fv 390).d.toNat false (grp.live (fm fv 390)) (BitVec.toNat (grp.pred (Forms.ex (fm fv 390) 3 0) &&& grp.eff (fm fv
      390))) (BitVec.setWidth 64 (grp.pred (Forms.ex (fm fv 390) 3 0) &&& grp.eff (fm fv 390)))) = true) ∧
    -- 2.2.2.2.2.2
    Forms.mo (fm fv 390) 7 7 = 1 ∧
    (grp.fits (anyWrites (fm fv 390).d.toNat false (grp.live (fm fv 390)) (BitVec.toNat (grp.pred (Forms.ex (fm fv 390) 3 0) &&&
      ~~~grp.deadLanes)) (BitVec.setWidth 64 (grp.pred (Forms.ex (fm fv 390) 3 0) &&& ~~~grp.deadLanes))) = true) :=
  ⟨issues_of (by decide +kernel), issues_of (by decide +kernel), issues_of (by decide +kernel),
   issues_of (by decide +kernel), issues_of (by decide +kernel), issues_of (by decide +kernel),
   issues_of (by decide +kernel), by decide +kernel⟩
theorem test_hyp_BudgetTrap :
    -- all
    Issues (at7 grpFull) 7 grpFull vectorForms[0].1 fv ∧
    -- all
    (vectorForms[0].1 = 262 → Forms.mo fv 8 7 = 3) ∧
    (vectorForms[0].1 = 266 → Forms.mo fv 7 7 = 1) ∧
    regOf fv.d.toNat = Reg.v 4 ∧
    nget grpFull.vmap 4 = none ∧
    grpFull.live fv ≠ 0 ∧
    grpFull.isGroup = true ∧
    grpFull.budget ≤ List.length grpFull.vmap :=
  ⟨issues_of (by decide +kernel), by decide +kernel⟩
theorem test_hyp_EmptyLiveRetires :
    -- 1.1
    Issues (at9 tad) 9 tad (liveForms[0]).1 fxNever ∧
    -- 1.2.1
    Issues (at7 grpNone) 7 grpNone 262 (fm fs 384) ∧
    -- 1.2.2.1
    Issues (at7 grpNone) 7 grpNone 266 (fm fs 128) ∧
    -- 1.2.2.2.1.1
    Issues (at7 grpNone) 7 grpNone 15 (fm fs 128) ∧
    -- 1.2.2.2.1.2
    Issues (at7 grpNone) 7 grpNone 16 (fm fs 128) ∧
    -- 1.2.2.2.2.1
    Issues (at9 tad) 9 tad 771 fxNever ∧
    -- 1.2.2.2.2.2.1
    Issues (at9 tad) 9 tad 772 fxNever ∧
    -- 1.2.2.2.2.2.2
    Issues (at9 tad) 9 tad 774 fxNever ∧
    -- 2
    Issues (at9 tad) 9 tad (effForms[0]).1 fxNever ∧
    -- 1.1
    tad.live fxNever = 0 ∧
    -- 1.2.1
    grpNone.live (fm fs 384) = 0 ∧
    Forms.mo (fm fs 384) 8 7 = 3 ∧
    -- 1.2.2.1
    grpNone.live (fm fs 128) = 0 ∧
    Forms.mo (fm fs 128) 7 7 ≠ 0 ∧
    -- 1.2.2.2.1.1
    Forms.ex (fm fs 128) 7 0 ≠ 16 ∧
    -- 1.2.2.2.2.1
    tad.ctx = 0 ∧
    -- 2
    tad.eff fxNever = 0 :=
  ⟨issues_of (by decide +kernel), issues_of (by decide +kernel), issues_of (by decide +kernel),
   issues_of (by decide +kernel), issues_of (by decide +kernel), issues_of (by decide +kernel),
   issues_of (by decide +kernel), issues_of (by decide +kernel), issues_of (by decide +kernel), by decide +kernel⟩
theorem test_hyp_NopRetires :
    -- all
    Issues base 7 grp 0 Fields.nop :=
  issues_of (by decide +kernel)
theorem test_hyp_TransfersMoveThePc :
    -- 1
    Issues base 7 grp 1 fj ∧
    -- 2.1
    Taken fj grp ∧
    Issues base 7 grp 2 fj ∧
    -- 2.2.1
    (¬Taken fzr grp) ∧
    Issues base 7 grp 2 fzr ∧
    -- 2.2.2.1
    Issues base 7 grp 5 fj ∧
    -- 2.2.2.2.1
    Issues base 7 grp 6 fzr ∧
    -- 2.2.2.2.2.1
    Issues base 7 grp 7 fzr ∧
    -- 2.2.2.2.2.2.1
    Issues base 7 grp 9 fj ∧
    -- 2.2.2.2.2.2.2.1
    Issues (at7 grpNone) 7 grpNone 1 fj ∧
    -- 2.2.2.2.2.2.2.2.1
    Issues (at7 grpNone) 7 grpNone 5 fj ∧
    -- 2.2.2.2.2.2.2.2.2.1
    Issues (at7 grpNone) 7 grpNone 6 fj ∧
    -- 2.2.2.2.2.2.2.2.2.2.1
    Issues (at7 grpNone) 7 grpNone 7 fj ∧
    -- 2.2.2.2.2.2.2.2.2.2.2
    Issues (at7 grpNone) 7 grpNone 9 fj ∧
    -- 1
    dispTarget grp.pc fj.x.toInt = some 4160 ∧
    grp.live fj ≠ 0 ∧
    -- 2.2.2.2.1
    (slotOk (uniVal base 7 grp fzr.a.toNat) = true ∧ pcHighOk (uniVal base 7 grp fzr.a.toNat) = true) ∧
    grp.live fzr ≠ 0 ∧
    -- 2.2.2.2.2.1
    (slotOk (uniVal base 7 grp fzr.a.toNat + if fzr.xk = true then BitVec.signExtend 64 fzr.x else uniVal base 7 grp fzr.b.toNat) = true ∧
      pcHighOk (uniVal base 7 grp fzr.a.toNat + if fzr.xk = true then BitVec.signExtend 64 fzr.x else uniVal base 7 grp fzr.b.toNat) = true) ∧
    -- 2.2.2.2.2.2.2.1
    grpNone.live fj = 0 :=
  ⟨issues_of (by decide +kernel), branch_taken, issues_of (by decide +kernel), branch_not_taken,
   issues_of (by decide +kernel), issues_of (by decide +kernel), issues_of (by decide +kernel),
   issues_of (by decide +kernel), issues_of (by decide +kernel), issues_of (by decide +kernel),
   issues_of (by decide +kernel), issues_of (by decide +kernel), issues_of (by decide +kernel),
   issues_of (by decide +kernel), by decide +kernel⟩
theorem test_hyp_BadTargetFaults :
    -- 1.1
    Issues base 7 grp 6 fbad ∧
    -- 1.2
    Issues (at7 grpHigh) 7 grpHigh 6 fj ∧
    -- 2.1.1
    Issues base 7 grp 7 fbad ∧
    -- 2.1.2
    Issues (at7 grpHigh) 7 grpHigh 7 (fx fj 0) ∧
    -- 2.2.1
    Issues base 7 grp 1 fbad ∧
    -- 2.2.2.1
    Taken fbad grp ∧
    Issues base 7 grp 2 fbad ∧
    -- 2.2.2.2.1
    Issues base 7 grp 5 fbad ∧
    -- 2.2.2.2.2.1
    Issues base 7 grp 9 fbad ∧
    -- 2.2.2.2.2.2.1
    Issues base 7 grp 3 fbad ∧
    -- 2.2.2.2.2.2.2.1
    Issues (at7 (grpTop topBad)) 7 (grpTop topBad) 4 fj ∧
    -- 2.2.2.2.2.2.2.2
    Issues (at7 (grpTop topEndBad)) 7 (grpTop topEndBad) 4 fj ∧
    -- 1.1
    grp.live fbad ≠ 0 ∧
    slotOk (uniVal base 7 grp fbad.a.toNat) = false ∧
    -- 1.2
    grpHigh.live fj ≠ 0 ∧
    slotOk (uniVal (at7 grpHigh) 7 grpHigh fj.a.toNat) = true ∧
    pcHighOk (uniVal (at7 grpHigh) 7 grpHigh fj.a.toNat) = false ∧
    -- 2.1.1
    (slotOk (uniVal base 7 grp fbad.a.toNat + if fbad.xk = true then BitVec.signExtend 64 fbad.x else uniVal base 7 grp fbad.b.toNat) = false) ∧
    -- 2.1.2
    grpHigh.live (fx fj 0) ≠ 0 ∧
    (slotOk (uniVal (at7 grpHigh) 7 grpHigh (fx fj 0).a.toNat + if (fx fj 0).xk = true then BitVec.signExtend 64 (fx fj 0).x else uniVal (at7
      grpHigh) 7 grpHigh (fx fj 0).b.toNat) = true) ∧
    (pcHighOk (uniVal (at7 grpHigh) 7 grpHigh (fx fj 0).a.toNat + if (fx fj 0).xk = true then BitVec.signExtend 64 (fx fj 0).x else uniVal (at7
      grpHigh) 7 grpHigh (fx fj 0).b.toNat) = false) ∧
    -- 2.2.1
    dispTarget grp.pc fbad.x.toInt = none ∧
    -- 2.2.2.2.2.2.1
    grp.stack.length < 64 ∧
    (slotOk (if grp.live fbad &&& grp.pred (Forms.mo fbad 3 0) ≠ 0 then rawTarget grp.pc fbad.x.toInt else nextPc grp.pc) = false ∨ pcHighOk (if
      grp.live fbad &&& grp.pred (Forms.mo fbad 3 0) ≠ 0 then rawTarget grp.pc fbad.x.toInt else nextPc grp.pc) = false) ∧
    -- 2.2.2.2.2.2.2.1
    (grpTop topBad).stack = [topBad] ∧
    topBad.p ≠ 0 ∧
    (slotOk topBad.ppc = false ∨ pcHighOk topBad.ppc = false) ∧
    -- 2.2.2.2.2.2.2.2
    (grpTop topEndBad).stack = [topEndBad] ∧
    topEndBad.p = 0 ∧
    (slotOk topEndBad.rpc = false ∨ pcHighOk topEndBad.rpc = false) :=
  ⟨issues_of (by decide +kernel), issues_of (by decide +kernel), issues_of (by decide +kernel),
   issues_of (by decide +kernel), issues_of (by decide +kernel), bad_taken, issues_of (by decide +kernel),
   issues_of (by decide +kernel), issues_of (by decide +kernel), issues_of (by decide +kernel),
   issues_of (by decide +kernel), issues_of (by decide +kernel), by decide +kernel⟩
theorem test_hyp_BranchDivergeSplits :
    -- all
    Issues base 7 grp 3 fj ∧
    -- all
    grp.stack.length < 64 ∧
    (slotOk (if grp.live fj &&& grp.pred (Forms.mo fj 3 0) ≠ 0 then rawTarget grp.pc fj.x.toInt else nextPc grp.pc) = true) ∧
    (pcHighOk (if grp.live fj &&& grp.pred (Forms.mo fj 3 0) ≠ 0 then rawTarget grp.pc fj.x.toInt else nextPc grp.pc) = true) :=
  ⟨issues_of (by decide +kernel), by decide +kernel⟩
theorem test_hyp_JoinSwitchesOrPops :
    -- 1
    Issues (at7 grpJ) 7 grpJ 4 Fields.nop ∧
    -- 2.1
    Issues (at7 grpK) 7 grpK 4 Fields.nop ∧
    -- 2.2.1
    Issues base 7 grp 4 Fields.nop ∧
    -- 2.2.2
    Issues (at7 grpL) 7 grpL 3 Fields.nop ∧
    -- 1
    grpJ.stack = [top] ∧
    top.p ≠ 0 ∧
    slotOk top.ppc = true ∧
    pcHighOk top.ppc = true ∧
    -- 2.1
    grpK.stack = [topEnd] ∧
    topEnd.p = 0 ∧
    slotOk topEnd.rpc = true ∧
    pcHighOk topEnd.rpc = true ∧
    -- 2.2.1
    grp.stack = [] ∧
    -- 2.2.2
    64 ≤ grpL.stack.length :=
  ⟨issues_of (by decide +kernel), issues_of (by decide +kernel), issues_of (by decide +kernel),
   issues_of (by decide +kernel), by decide +kernel⟩
theorem test_hyp_ExitEndsLanes :
    -- all
    Issues base 7 grp 8 fp2 ∧
    -- all
    grp.isGroup = true ∧
    grp.place = Place.active ∧
    grp.ffail = none :=
  ⟨issues_of (by decide +kernel), by decide +kernel⟩
theorem test_hyp_WaitsUntilCountersFall :
    -- 2.1
    Issues (at7 grpBusy) 7 grpBusy 10 fwt ∧
    -- 2.2.1
    Issues base 7 grp 11 fwt ∧
    -- 1
    Issues base 7 grp 10 fwt ∧
    -- 2.2.2
    Issues (at7 grpBusy) 7 grpBusy 11 fwb ∧
    -- 2.1
    grpBusy.live fwt ≠ 0 ∧
    (¬(grpBusy.cL ≤ fwt.x.toNat % 64 ∧ grpBusy.cS ≤ fwt.x.toNat / 64 % 64 ∧ grpBusy.cC ≤ fwt.x.toNat / 4096 % 64 ∧ grpBusy.cM ≤ fwt.x.toNat /
      262144 % 64)) ∧
    -- 2.2.1
    (grp.live fwt = 0 ∨ batchWaits grp (Forms.ex fwt 7 0) = false) ∧
    -- 1
    (grp.live fwt = 0 ∨ grp.cL ≤ fwt.x.toNat % 64 ∧ grp.cS ≤ fwt.x.toNat / 64 % 64 ∧ grp.cC ≤ fwt.x.toNat / 4096 % 64 ∧ grp.cM ≤ fwt.x.toNat /
      262144 % 64) ∧
    -- 2.2.2
    grpBusy.live fwb ≠ 0 ∧
    batchWaits grpBusy (Forms.ex fwb 7 0) = true :=
  ⟨issues_of (by decide +kernel), issues_of (by decide +kernel), issues_of (by decide +kernel),
   issues_of (by decide +kernel), by decide +kernel⟩
theorem test_hyp_BarArrivesThenRetires :
    (
    -- 1
    (at7 grpNone).wg grpNone.wg = some wg2 ∧
    (Forms.mo fp2 1 0 ≠ 0 → (nget (at7 grpNone).lch wg2.launch).isSome = true) ∧
    grpNone.stepping = 0 ∧
    (at7 grpNone).env.cur = some 7 ∧
    (at7 grpNone).thread 7 = some grpNone ∧
    ready (at7 grpNone) 7 grpNone 12 fp2 = true ∧
    grpNone.blk = none ∧
    grpNone.live fp2 = 0 ∧
    -- 2.1
    base.wg grp.wg = some wg2 ∧
    (Forms.mo fp2 1 0 ≠ 0 → (nget base.lch wg2.launch).isSome = true) ∧
    grp.stepping = 0 ∧
    base.env.cur = some 7 ∧
    base.thread 7 = some grp ∧
    ready base 7 grp 12 fp2 = true ∧
    grp.blk = none ∧
    grp.live fp2 ≠ 0 ∧
    (Forms.mo fp2 3 2 = 3 → grp.log = [] ∧ grp.wb = none ∧ dirtySectors base grp.cu = [] ∧ grp.fOpen = []) ∧
    -- 2.2.1
    (at7wg grpBarW wgBar).wg grpBarW.wg = some wgBar ∧
    (Forms.mo fp2 1 0 ≠ 0 → (nget (at7wg grpBarW wgBar).lch wgBar.launch).isSome = true) ∧
    grpBarW.stepping = 0 ∧
    (at7wg grpBarW wgBar).env.cur = some 7 ∧
    (at7wg grpBarW wgBar).thread 7 = some grpBarW ∧
    ready (at7wg grpBarW wgBar) 7 grpBarW 12 fp2 = true ∧
    grpBarW.live fp2 ≠ 0 ∧
    (grpBarW.blk = some { stage := 2, val := 1, aux := 0 }) ∧
    (barOf (at7wg grpBarW wgBar) grpBarW fp2).phase ≤ 1) ∧
    -- 2.2.2
    (at7wg grpBar wgBar).wg grpBar.wg = some wgBar ∧
    (Forms.mo fp2 1 0 ≠ 0 → (nget (at7wg grpBar wgBar).lch wgBar.launch).isSome = true) ∧
    grpBar.stepping = 0 ∧
    (at7wg grpBar wgBar).env.cur = some 7 ∧
    (at7wg grpBar wgBar).thread 7 = some grpBar ∧
    ready (at7wg grpBar wgBar) 7 grpBar 12 fp2 = true ∧
    grpBar.live fp2 ≠ 0 ∧
    (grpBar.blk = some { stage := 2, val := 0, aux := 0 }) ∧
    0 < (barOf (at7wg grpBar wgBar) grpBar fp2).phase :=
  ⟨by decide +kernel, by decide +kernel⟩
theorem test_hyp_BarrierPhaseEnds :
    -- 1
    (at7wg grpBar wgAll).wg 2 = some wgAll ∧
    nget wgAll.bars 0 = some Tests.barEnd ∧
    Tests.barEnd.arrived ≠ [] ∧
    missing (at7wg grpBar wgAll) Tests.barEnd wgAll.groups = [] ∧
    -- 2
    nget atClu.lch 3 = some lchClu ∧
    0 < 2 ^ 32 ∧
    nget lchClu.cbar (clusterBar 0 0) = some Tests.barEnd ∧
    (missing atClu Tests.barEnd (List.map (fun p => p.2.groups) (clusterWgs atClu 3 0)).flatten = []) :=
  by decide +kernel
theorem test_hyp_ReadsOfMachineRegisters :
    -- 1.1
    Issues base 7 grp 13 fr10 ∧
    -- 1.2
    Issues base 7 grp 15 fr10 ∧
    -- 2.1.1
    Issues (at9 tadOf) 9 tadOf 13 fr10 ∧
    -- 2.1.2
    Issues (at9 tadOf) 9 tadOf 15 fr10 ∧
    -- 2.2.1.1
    Issues base 7 grp 13 fxNever ∧
    -- 2.2.1.2
    Issues base 7 grp 15 fxNever ∧
    -- 2.2.2.1
    Issues base 7 grp 15 fr20 ∧
    -- 2.2.2.2.1
    Issues base 7 grp 15 fr18 ∧
    -- 2.2.2.2.2.2.2.1
    Issues base 7 grp 20 fr10 ∧
    -- 2.2.2.2.2.2.2.2.2.1
    (∀ (m : Nat), regOf fr20.a.toNat ≠ Reg.v m) ∧
    Issues base 7 grp 21 fr20 ∧
    -- 2.2.2.2.2.2.2.2.2.2.1
    Issues base 7 grp 21 fr10 ∧
    -- 2.2.2.2.2.2.2.2.2.2.2.1
    Issues base 7 grp 20 fxNever ∧
    -- 2.2.2.2.2.2.2.2.2.2.2.2.2.1
    Issues base 7 grp 21 fxNever ∧
    -- 2.2.2.2.2.2.2.2.2.2.2.2.2.2
    Issues (at7 grpNone) 7 grpNone 15 fr18 ∧
    -- 1.1
    neverGuard fr10 = false ∧
    grp.isGroup = true ∧
    (grp.fits (match regOf fr10.d.toNat with | Reg.v n => vecWrites fr10.d.toNat false (grp.live fr10) fun l => (BitVec.setWidth 64 grp.exm).toNat | x => [Write.uni fr10.d.toNat (BitVec.setWidth 64 grp.exm)]) = true) ∧
    -- 1.2
    Forms.ex fr10 7 0 = 16 ∧
    -- 2.1.1
    tadOf.isGroup = false ∧
    tadOf.target.bind (at9 tadOf).thread = some grp ∧
    (tadOf.fits (match regOf fr10.d.toNat with | Reg.v n => vecWrites fr10.d.toNat false (tadOf.live fr10) fun l => (BitVec.setWidth 64 grp.exm).toNat | x => [Write.uni fr10.d.toNat (BitVec.setWidth 64 grp.exm)]) = true) ∧
    -- 2.2.1.1
    neverGuard fxNever = true ∧
    grp.fits [] = true ∧
    -- 2.2.1.2
    Forms.ex fxNever 7 0 = 16 ∧
    -- 2.2.2.1
    grp.live fr20 ≠ 0 ∧
    Forms.ex fr20 7 0 ≠ 16 ∧
    (Forms.ex fr20 7 0 ≠ 24 ∨ grp.isGroup = false) ∧
    (grp.fits (match regOf fr20.d.toNat with | Reg.v n => vecWrites fr20.d.toNat false (grp.live fr20) fun l => BitVec.toNat (srVal base grp (Forms.ex fr20 7 0) l) | x => [Write.uni fr20.d.toNat (srVal base grp (Forms.ex fr20 7 0) 0)]) = true) ∧
    -- 2.2.2.2.1
    grp.live fr18 ≠ 0 ∧
    Forms.ex fr18 7 0 = 24 ∧
    (grp.fits (match regOf fr18.d.toNat with | Reg.v n => vecWrites fr18.d.toNat false (grp.live fr18) fun l => (BitVec.setWidth 64 (fold16 grp.sig 15)).toNat | x => [Write.uni fr18.d.toNat (BitVec.setWidth 64 (fold16 grp.sig 15))]) = true) ∧
    -- 2.2.2.2.2.2.2.1
    grp.live fr10 ≠ 0 ∧
    -- 2.2.2.2.2.2.2.2.2.1
    grp.fits (anyWrites fr20.d.toNat false (grp.live fr20) (bandVal base grp fr20 (uniVal base 7 grp fr20.a.toNat)) (BitVec.ofNat 64 (bandVal base
      grp fr20 (uniVal base 7 grp fr20.a.toNat)))) = true ∧
    -- 2.2.2.2.2.2.2.2.2.2.1
    regOf fr10.a.toNat = Reg.v 1 ∧
    (grp.fits (vecWrites fr10.d.toNat false (grp.live fr10) fun l => bandVal base grp fr10 (lane64 base 7 grp fr10.a.toNat l)) = true) ∧
    -- 2.2.2.2.2.2.2.2.2.2.2.1
    grp.live fxNever = 0 ∧
    -- 2.2.2.2.2.2.2.2.2.2.2.2.2.2
    grpNone.live fr18 = 0 ∧
    Forms.ex fr18 7 0 ≠ 16 ∧
    grpNone.fits [] = true :=
  ⟨issues_of (by decide +kernel), issues_of (by decide +kernel), issues_of (by decide +kernel),
   issues_of (by decide +kernel), issues_of (by decide +kernel), issues_of (by decide +kernel),
   issues_of (by decide +kernel), issues_of (by decide +kernel), issues_of (by decide +kernel),
   reg_not_vector (n := 1) (by decide +kernel), issues_of (by decide +kernel), issues_of (by decide +kernel),
   issues_of (by decide +kernel), issues_of (by decide +kernel), issues_of (by decide +kernel), by decide +kernel⟩
theorem test_hyp_WritesOfMachineRegisters :
    -- 1
    Issues base 7 grp 14 fr20 ∧
    -- 2.1
    Issues base 7 grp 14 fxNever ∧
    -- 2.2.1
    Issues base 7 grp 16 frw10 ∧
    -- 2.2.2.1
    Issues base 7 grp 16 fxNever ∧
    -- 2.2.2.2.1
    Issues (at7 grpNone) 7 grpNone 16 frw18 ∧
    -- 2.2.2.2.2.1
    Issues base 7 grp 16 frw18 ∧
    -- 2.2.2.2.2.2.1
    Issues base 7 grp 16 fr20 ∧
    -- 2.2.2.2.2.2.2.1
    Issues base 7 grp 16 fr21 ∧
    -- 2.2.2.2.2.2.2.2.1
    Issues base 7 grp 16 fr22 ∧
    -- 2.2.2.2.2.2.2.2.2.1
    Issues base 7 grp 16 fw30 ∧
    (¬match nget wg2.cpyWr (Forms.ex fw30 7 0) with | some p => p.clk = base.cyc ∧ grp.barrel < p.barrel | none => False) ∧
    -- 2.2.2.2.2.2.2.2.2.2.1
    Issues base 7 grp 16 fw31 ∧
    (¬match nget wg2.cpyWr (Forms.ex fw31 7 0) with | some p => p.clk = base.cyc ∧ grp.barrel < p.barrel | none => False) ∧
    -- 2.2.2.2.2.2.2.2.2.2.2
    Issues (at7wg grp (wgNewer 49)) 7 grp 16 fw31 ∧
    (match nget (wgNewer 49).cpyWr (Forms.ex fw31 7 0) with | some p => p.clk = (at7wg grp (wgNewer 49)).cyc ∧ grp.barrel < p.barrel | none => False) ∧
    -- 1
    neverGuard fr20 = false ∧
    -- 2.1
    neverGuard fxNever = true ∧
    -- 2.2.1
    Forms.ex frw10 7 0 = 16 ∧
    neverGuard frw10 = false ∧
    -- 2.2.2.1
    Forms.ex fxNever 7 0 = 16 ∧
    -- 2.2.2.2.1
    Forms.ex frw18 7 0 ≠ 16 ∧
    grpNone.live frw18 = 0 ∧
    -- 2.2.2.2.2.1
    grp.live frw18 ≠ 0 ∧
    Forms.ex frw18 7 0 = 24 ∧
    -- 2.2.2.2.2.2.1
    grp.live fr20 ≠ 0 ∧
    Forms.ex fr20 7 0 = 32 ∧
    -- 2.2.2.2.2.2.2.1
    grp.live fr21 ≠ 0 ∧
    Forms.ex fr21 7 0 = 33 ∧
    -- 2.2.2.2.2.2.2.2.1
    grp.live fr22 ≠ 0 ∧
    Forms.ex fr22 7 0 = 34 ∧
    -- 2.2.2.2.2.2.2.2.2.1
    grp.live fw30 ≠ 0 ∧
    base.wg grp.wg = some wg2 ∧
    Forms.ex fw30 7 0 = 48 ∧
    -- 2.2.2.2.2.2.2.2.2.2.1
    grp.live fw31 ≠ 0 ∧
    Forms.ex fw31 7 0 = 49 ∧
    -- 2.2.2.2.2.2.2.2.2.2.2
    (at7wg grp (wgNewer 49)).wg grp.wg = some (wgNewer 49) ∧
    (Forms.ex fw31 7 0 = 48 ∨ Forms.ex fw31 7 0 = 49) :=
  ⟨issues_of (by decide +kernel), issues_of (by decide +kernel), issues_of (by decide +kernel),
   issues_of (by decide +kernel), issues_of (by decide +kernel), issues_of (by decide +kernel),
   issues_of (by decide +kernel), issues_of (by decide +kernel), issues_of (by decide +kernel),
   issues_of (by decide +kernel), copyReg_free (Forms.ex fw30 7 0), issues_of (by decide +kernel),
   copyReg_free (Forms.ex fw31 7 0), issues_of (by decide +kernel), copyReg_newer, by decide +kernel⟩
theorem test_hyp_BreakpointAndTrapFreeze :
    -- 1
    Issues base 7 grp 18 ftrap ∧
    -- 2
    Issues base 7 grp 19 ftrap ∧
    -- 1
    grp.isGroup = true ∧
    grp.live ftrap ≠ 0 ∧
    grp.stepping = 0 ∧
    (base.ctx grp.ctx).sysent ≠ 0 :=
  ⟨issues_of (by decide +kernel), issues_of (by decide +kernel), by decide +kernel⟩
theorem test_hyp_TileAllocation :
    -- 1
    Issues (at7wg grp wgTile) 7 grp 320 fs ∧
    -- 2
    Issues (at7wg grp wgSmall) 7 grp 320 (fm fs 2) ∧
    (∀ (b : Nat), ¬(b + 2 ^ Forms.mo (fm fs 2) 1 0 * (Forms.ex (fm fs 2) 5 0 + 1) ≤ 4 * wgSmall.tsUnits ∧ ∀ x ∈ wgSmall.tiles, b + 2 ^ Forms.mo
      (fm fs 2) 1 0 * (Forms.ex (fm fs 2) 5 0 + 1) ≤ x.base ∨ x.base + 2 ^ x.mc * (x.nf + 1) ≤ b)) ∧
    -- 1
    grp.live fs ≠ 0 ∧
    (at7wg grp wgTile).wg grp.wg = some wgTile ∧
    (1 + 2 ^ Forms.mo fs 1 0 * (Forms.ex fs 5 0 + 1) ≤ 4 * wgTile.tsUnits ∧ ∀ x ∈ wgTile.tiles, 1 + 2 ^ Forms.mo fs 1 0 * (Forms.ex fs 5 0 + 1) ≤
      x.base ∨ x.base + 2 ^ x.mc * (x.nf + 1) ≤ 1) ∧
    (∀ c < 1, ¬(c + 2 ^ Forms.mo fs 1 0 * (Forms.ex fs 5 0 + 1) ≤ 4 * wgTile.tsUnits ∧ ∀ x ∈ wgTile.tiles, c + 2 ^ Forms.mo fs 1 0 * (Forms.ex fs
      5 0 + 1) ≤ x.base ∨ x.base + 2 ^ x.mc * (x.nf + 1) ≤ c)) ∧
    -- 2
    grp.live (fm fs 2) ≠ 0 ∧
    (at7wg grp wgSmall).wg grp.wg = some wgSmall :=
  ⟨issues_of (by decide +kernel), issues_of (by decide +kernel), no_room, by decide +kernel⟩
theorem test_hyp_BatchEndsOpenOperations :
    -- all
    Issues base 7 grp 328 fs ∧
    -- all
    grp.live fs ≠ 0 :=
  ⟨issues_of (by decide +kernel), by decide +kernel⟩
theorem test_hyp_MatrixOperationCompletes :
    -- 1
    ((atMat grpOpen wgMat [op1 MatKind.mma]).cu 0).mq = [op1 MatKind.mma] ∧
    (∀ q ∈ ([] : List MatOp), q.id ≠ (op1 MatKind.mma).id) ∧
    (∀ q ∈ [op1 MatKind.mma], q.stepped = false) ∧
    (atMat grpOpen wgMat [op1 MatKind.mma]).wg (op1 MatKind.mma).wg = some wgMat ∧
    opTile wgMat (op1 MatKind.mma) = some tile0 ∧
    (atMat grpOpen wgMat [op1 MatKind.mma]).halting wgMat.ctx = false ∧
    (atMat grpOpen wgMat [op1 MatKind.mma]).thread (op1 MatKind.mma).tid = some grpOpen ∧
    grpOpen.batches = [] ∧
    scratchStoreOpen grpOpen (op1 MatKind.mma).mark = false ∧
    (op1 MatKind.mma).nan = [] ∧
    (op1 MatKind.mma).dst = [] ∧
    -- 2
    ((atMat grpOpen wgMat [opDrain1]).cu 0).mq = [opDrain1] ∧
    (∀ q ∈ ([] : List MatOp), q.id ≠ opDrain1.id) ∧
    (∀ q ∈ [opDrain1], q.stepped = false) ∧
    (atMat grpOpen wgMat [opDrain1]).wg opDrain1.wg = some wgMat ∧
    opTile wgMat opDrain1 = some tile0 ∧
    (atMat grpOpen wgMat [opDrain1]).halting wgMat.ctx = false ∧
    (atMat grpOpen wgMat [opDrain1]).thread opDrain1.tid = some grpOpen ∧
    scratchStoreOpen grpOpen opDrain1.mark = false ∧
    opDrain1.nan = [] ∧
    (opDrain1.kind = MatKind.drain ∨ opDrain1.kind = MatKind.drainq) ∧
    opDrain1.dst = [drainPart1] ∧
    drainPart1.space = 1 ∧
    wgMat.scratch.wf = true :=
  by decide +kernel
theorem test_hyp_TileStoreErrorFaults :
    -- 1
    ((atMat grpOpen wgMat [op1 MatKind.mma]).cu 0).mq = [op1 MatKind.mma] ∧
    (∀ q ∈ [op1 MatKind.mma], q.stepped = false) ∧
    (atMat grpOpen wgMat [op1 MatKind.mma]).wg (op1 MatKind.mma).wg = some wgMat ∧
    opTile wgMat (op1 MatKind.mma) = some tile0 ∧
    readsSite (op1 MatKind.mma) StorageSite.corrected = true ∧
    15 < rowsOf tile0.mc ∧
    15 < colsOf tile0.nf ∧
    StorageSite.corrected = StorageSite.corrected ∧
    -- 2.1
    readsSite (op1 MatKind.mma) StorageSite.tileStore = true ∧
    StorageSite.tileStore = StorageSite.tileStore ∧
    -- 2.2.1
    readsSite (op1 MatKind.mma) StorageSite.fragmentA = true ∧
    StorageSite.fragmentA = StorageSite.fragmentA ∧
    (op1 MatKind.mma).frA.length ≤ Forms.ex (op1 MatKind.mma).f 5 0 + 1 ∧
    0 < colsOf tile0.nf / 16 ∧
    -- 2.2.2.1
    readsSite (op1 MatKind.mma) StorageSite.fragmentB = true ∧
    StorageSite.fragmentB = StorageSite.fragmentB ∧
    0 < rowsOf tile0.mc / 16 ∧
    -- 2.2.2.2
    StorageSite.fragmentA ≠ StorageSite.corrected ∧
    (atMat grpOpen wgMat [op1 MatKind.mma]).thread (op1 MatKind.mma).tid = some grpOpen ∧
    grpOpen.isGroup = true ∧
    grpOpen.place = Place.active ∧
    grpOpen.fz = none ∧
    grpOpen.stepping = 0 ∧
    ((atMat grpOpen wgMat [op1 MatKind.mma]).ctx grpOpen.ctx).sysent ≠ 0 ∧
    wgMat.groups = [(op1 MatKind.mma).tid] :=
  by decide +kernel
theorem test_hyp_TileStoreThenRows :
    -- 1
    Memory.wf [(3, 1), (1024, 9)] = true ∧
    ((List.map (fun i => List.map (fun j => 1000 * i + j) (List.range 16)) (List.range 16)).length = rowsOf tile0.mc) ∧
    (∀ r ∈ List.map (fun i => List.map (fun j => 1000 * i + j) (List.range 16)) (List.range 16), r.length = colsOf tile0.nf ∧ ∀ v ∈ r, v < 2 ^ 32) ∧
    -- 2
    (1024 < 1024 * tile0.base ∨ 1024 * (tile0.base + 2 ^ tile0.mc * (tile0.nf + 1)) ≤ 1024) :=
  by decide +kernel
theorem test_hyp_MatrixFormsEnterTheQueue :
    -- 1
    Issues (at7wg grp wgTile) 7 grp matrixForms[0].1 fmat ∧
    -- 2.1
    Issues (at7wg grpMat wgTile) 7 grpMat matrixForms[5].1 fdrainBad ∧
    -- 2.2.1
    Issues (at7wg grpMatFar wgTile) 7 grpMatFar matrixForms[5].1 fdrain ∧
    -- 2.2.2.1
    Issues matFull 7 grpMat matrixForms[1].1 fmat ∧
    -- 2.2.2.2
    Issues (at7wg grpMat wgTile) 7 grpMat matrixForms[1].1 fmat ∧
    -- 1
    grp.live fmat ≠ 0 ∧
    (at7wg grp wgTile).wg grp.wg = some wgTile ∧
    tileOf wgTile (uniVal (at7wg grp wgTile) 7 grp fmat.d.toNat) = none ∧
    -- 2.1
    grpMat.live fdrainBad ≠ 0 ∧
    (at7wg grpMat wgTile).wg grpMat.wg = some wgTile ∧
    tileOf wgTile (uniVal (at7wg grpMat wgTile) 7 grpMat fdrainBad.d.toNat) = some tile0 ∧
    matTrap matrixForms[5].1 fdrainBad tile0 (BitVec.toNat (uniVal (at7wg grpMat wgTile) 7 grpMat fdrainBad.a.toNat)) (BitVec.toNat (uniVal (at7wg
      grpMat wgTile) 7 grpMat fdrainBad.b.toNat)) (BitVec.toNat (uniVal (at7wg grpMat wgTile) 7 grpMat fdrainBad.c.toNat)) (matrixNames
      matrixForms[5].1 fdrainBad tile0) = some 2147483666 ∧
    -- 2.2.1
    grpMatFar.live fdrain ≠ 0 ∧
    (at7wg grpMatFar wgTile).wg grpMatFar.wg = some wgTile ∧
    tileOf wgTile (uniVal (at7wg grpMatFar wgTile) 7 grpMatFar fdrain.d.toNat) = some tile0 ∧
    matTrap matrixForms[5].1 fdrain tile0 (BitVec.toNat (uniVal (at7wg grpMatFar wgTile) 7 grpMatFar fdrain.a.toNat)) (BitVec.toNat (uniVal (at7wg
      grpMatFar wgTile) 7 grpMatFar fdrain.b.toNat)) (BitVec.toNat (uniVal (at7wg grpMatFar wgTile) 7 grpMatFar fdrain.c.toNat)) (matrixNames
      matrixForms[5].1 fdrain tile0) = none ∧
    (matRange (at7wg grpMatFar wgTile) grpMatFar matrixForms[5].1 fdrain tile0 (BitVec.toNat (uniVal (at7wg grpMatFar wgTile) 7 grpMatFar
      fdrain.a.toNat)) (BitVec.toNat (uniVal (at7wg grpMatFar wgTile) 7 grpMatFar fdrain.b.toNat)) (BitVec.toNat (uniVal (at7wg grpMatFar wgTile)
      7 grpMatFar fdrain.c.toNat))).2 = Eng.bad 7 1048576 ∧
    -- 2.2.2.1
    grpMat.live fmat ≠ 0 ∧
    matFull.wg grpMat.wg = some wgTile ∧
    tileOf wgTile (uniVal matFull 7 grpMat fmat.d.toNat) = some tile0 ∧
    matTrap matrixForms[1].1 fmat tile0 (BitVec.toNat (uniVal matFull 7 grpMat fmat.a.toNat)) (BitVec.toNat (uniVal matFull 7 grpMat
      fmat.b.toNat)) (BitVec.toNat (uniVal matFull 7 grpMat fmat.c.toNat)) (matrixNames matrixForms[1].1 fmat tile0) = none ∧
    (matRange matFull grpMat matrixForms[1].1 fmat tile0 (BitVec.toNat (uniVal matFull 7 grpMat fmat.a.toNat)) (BitVec.toNat (uniVal matFull 7
      grpMat fmat.b.toNat)) (BitVec.toNat (uniVal matFull 7 grpMat fmat.c.toNat))).2 = Eng.ok [] ∧
    (¬((matFull.cu grpMat.cu).mq.length < 128 ∧ bufferUsed (matFull.cu grpMat.cu) grpMat.barrel + (matrixNames matrixForms[1].1 fmat tile0).length
      ≤ 256 ∧ ((∀ p ∈ ([] : List DrainPart), p.space ≠ 1) ∨ wgScratchOpen matFull grpMat.wg = false))) ∧
    -- 2.2.2.2
    tileOf wgTile (uniVal (at7wg grpMat wgTile) 7 grpMat fmat.d.toNat) = some tile0 ∧
    matTrap matrixForms[1].1 fmat tile0 (BitVec.toNat (uniVal (at7wg grpMat wgTile) 7 grpMat fmat.a.toNat)) (BitVec.toNat (uniVal (at7wg grpMat
      wgTile) 7 grpMat fmat.b.toNat)) (BitVec.toNat (uniVal (at7wg grpMat wgTile) 7 grpMat fmat.c.toNat)) (matrixNames matrixForms[1].1 fmat
      tile0) = none ∧
    (matRange (at7wg grpMat wgTile) grpMat matrixForms[1].1 fmat tile0 (BitVec.toNat (uniVal (at7wg grpMat wgTile) 7 grpMat fmat.a.toNat))
      (BitVec.toNat (uniVal (at7wg grpMat wgTile) 7 grpMat fmat.b.toNat)) (BitVec.toNat (uniVal (at7wg grpMat wgTile) 7 grpMat fmat.c.toNat))).2 =
      Eng.ok [] ∧
    (((at7wg grpMat wgTile).cu grpMat.cu).mq.length < 128 ∧ bufferUsed ((at7wg grpMat wgTile).cu grpMat.cu) grpMat.barrel + (matrixNames
      matrixForms[1].1 fmat tile0).length ≤ 256 ∧ ((∀ p ∈ ([] : List DrainPart), p.space ≠ 1) ∨ wgScratchOpen (at7wg grpMat wgTile) grpMat.wg =
      false)) :=
  ⟨issues_of (by decide +kernel), issues_of (by decide +kernel), issues_of (by decide +kernel),
   issues_of (by decide +kernel), issues_of (by decide +kernel), by decide +kernel⟩
theorem test_hyp_AccessEntersTheLog :
    -- 1
    Issues (at7 grpAcc0) 7 grpAcc0 accessForms[1].1 facc ∧
    -- 2.1
    Issues (at7 grpAccFull) 7 grpAccFull accessForms[0].1 facc6 ∧
    -- 2.2
    Issues (at7 grpAcc) 7 grpAcc accessForms[0].1 facc ∧
    -- 1
    actingLanes accessForms[1].1 grpAcc0 facc = 0 ∧
    -- 2.1
    actingLanes accessForms[0].1 grpAccFull facc6 ≠ 0 ∧
    (grpAccFull.fits (List.map (fun n => Write.vec n (mkLanes fun l => grpAccFull.vlane n l) (actingLanes accessForms[0].1 grpAccFull facc6))
      (accDest accessForms[0].1 facc6)) = false) ∧
    (accessForms[0].1 = 392 → grpAccFull.ffail = none) ∧
    -- 2.2
    actingLanes accessForms[0].1 grpAcc facc ≠ 0 ∧
    (grpAcc.fits (List.map (fun n => Write.vec n (mkLanes fun l => grpAcc.vlane n l) (actingLanes accessForms[0].1 grpAcc facc)) (accDest
      accessForms[0].1 facc)) = true) ∧
    (accessForms[0].1 = 392 → grpAcc.ffail = none) ∧
    (∀ x ∈ grpAcc.log, x.id < grpAcc.nextEntry) ∧
    (∀ l ∈ issueLanes accessForms[0].1 grpAcc facc, faultsDropped accessForms[0].1 grpAcc facc l = true ∨ issueFails accessForms[0].1 facc (at7
      grpAcc) 7 grpAcc l = false) :=
  ⟨issues_of (by decide +kernel), issues_of (by decide +kernel), issues_of (by decide +kernel), by decide +kernel⟩
theorem test_hyp_MisalignedAccessFaults :
    -- 1
    Issues (at7 grpAcc) 7 grpAcc accessForms[1].1 faccBad ∧
    -- 2.1
    Issues atMis 7 grpAcc accessForms[1].1 faccBad ∧
    -- 2.2
    Issues (at7 grpAccFar) 7 grpAccFar accessForms[1].1 facc ∧
    -- 1
    accessForms[1].1 ≠ 392 ∧
    grpAcc.isGroup = true ∧
    grpAcc.place = Place.active ∧
    grpAcc.fz = none ∧
    grpAcc.stepping = 0 ∧
    ((at7 grpAcc).ctx grpAcc.ctx).sysent ≠ 0 ∧
    (∀ x ∈ grpAcc.log, x.id < grpAcc.nextEntry) ∧
    actingLanes accessForms[1].1 grpAcc faccBad ≠ 0 ∧
    (grpAcc.fits (List.map (fun n => Write.vec n (mkLanes fun l => grpAcc.vlane n l) (actingLanes accessForms[1].1 grpAcc faccBad)) (accDest
      accessForms[1].1 faccBad)) = true) ∧
    (∃ l ∈ List.filter (fun l => !faultsDropped accessForms[1].1 grpAcc faccBad l) (issueLanes accessForms[1].1 grpAcc faccBad), decide
      (BitVec.toNat (accAddr accessForms[1].1 faccBad (at7 grpAcc) 7 grpAcc l) % min (accBytes accessForms[1].1 faccBad) 16 ≠ 0) = true) ∧
    ((Option.map (fun x => x.lr.mispol) ((at7 grpAcc).launchOf grpAcc)).getD 0 ≠ 1) ∧
    -- 2.1
    (atMis.ctx grpAcc.ctx).sysent ≠ 0 ∧
    (∃ l ∈ List.filter (fun l => !faultsDropped accessForms[1].1 grpAcc faccBad l) (issueLanes accessForms[1].1 grpAcc faccBad), decide
      (BitVec.toNat (accAddr accessForms[1].1 faccBad atMis 7 grpAcc l) % min (accBytes accessForms[1].1 faccBad) 16 ≠ 0) = true) ∧
    ((Option.map (fun x => x.lr.mispol) (atMis.launchOf grpAcc)).getD 0 = 1) ∧
    -- 2.2
    grpAccFar.isGroup = true ∧
    grpAccFar.place = Place.active ∧
    grpAccFar.fz = none ∧
    grpAccFar.stepping = 0 ∧
    ((at7 grpAccFar).ctx grpAccFar.ctx).sysent ≠ 0 ∧
    (∀ x ∈ grpAccFar.log, x.id < grpAccFar.nextEntry) ∧
    actingLanes accessForms[1].1 grpAccFar facc ≠ 0 ∧
    (grpAccFar.fits (List.map (fun n => Write.vec n (mkLanes fun l => grpAccFar.vlane n l) (actingLanes accessForms[1].1 grpAccFar facc)) (accDest
      accessForms[1].1 facc)) = true) ∧
    (∀ l ∈ List.filter (fun l => !faultsDropped accessForms[1].1 grpAccFar facc l) (issueLanes accessForms[1].1 grpAccFar facc), decide
      (BitVec.toNat (accAddr accessForms[1].1 facc (at7 grpAccFar) 7 grpAccFar l) % min (accBytes accessForms[1].1 facc) 16 ≠ 0) = false) ∧
    (∃ l ∈ List.filter (fun l => !faultsDropped accessForms[1].1 grpAccFar facc l) (issueLanes accessForms[1].1 grpAccFar facc), (decide (accAs facc = 0) && decide (2 ^ 57 ≤ BitVec.toNat (accAddr accessForms[1].1 facc (at7 grpAccFar) 7 grpAccFar l)) || decide (accAs facc = 1) && decide (scratchBytes (at7 grpAccFar) grpAccFar < BitVec.toNat (accAddr accessForms[1].1 facc (at7 grpAccFar) 7 grpAccFar l) + accBytes accessForms[1].1 facc)) = true) :=
  ⟨issues_of (by decide +kernel), issues_of (by decide +kernel), issues_of (by decide +kernel), by decide +kernel⟩
theorem test_hyp_FabricFailureIsReported :
    -- 1
    Issues (at7 grpFf) 7 grpFf 392 Fields.nop ∧
    -- 2
    Issues (at7 grpFf) 7 grpFf 519 Fields.nop ∧
    -- 1
    grpFf.ffail = some ffabF ∧
    grpFf.live Fields.nop ≠ 0 ∧
    -- 2
    (Forms.mo Fields.nop 7 7 = 0 ∨ grpFf.fOpen = []) :=
  ⟨issues_of (by decide +kernel), issues_of (by decide +kernel), by decide +kernel⟩
theorem test_hyp_ScratchStoreCompletes :
    -- all
    (at7wg grpS wgScr).thread 7 = some grpS ∧
    grpS.log = [entS] ∧
    entS.opc = 385 ∧
    accAs entS.f = 1 ∧
    entS.lanes = [3] ∧
    3 < 32 ∧
    entS.effm = BitVec.ofNat 32 (2 ^ 3) ∧
    hasBe entS.opc entS.f = false ∧
    entS.once = false ∧
    entS.state = 0 ∧
    entS.flt = 0 ∧
    entS.done = 0 ∧
    entS.dest = Dest.none ∧
    entS.bytes ≤ 16 ∧
    (at7wg grpS wgScr).wg grpS.wg = some wgScr ∧
    wgScr.scratch.wf = true ∧
    check12 (at7wg grpS wgScr) grpS entS.opc entS.f (entS.addr 3) = none ∧
    scratchHeld (at7wg grpS wgScr) grpS.wg (BitVec.toNat (entS.addr 3)) entS.bytes = false :=
  by decide +kernel
theorem test_hyp_ScratchLoadCompletes :
    -- all
    (at7wg grpLd wgScr).thread 7 = some grpLd ∧
    grpLd.log = [entL] ∧
    entL.opc = 384 ∧
    accAs entL.f = 1 ∧
    entL.lanes = [3] ∧
    3 < 32 ∧
    entL.effm = BitVec.ofNat 32 (2 ^ 3) ∧
    entL.once = false ∧
    entL.state = 0 ∧
    entL.flt = 0 ∧
    entL.done = 0 ∧
    entL.res = [] ∧
    entL.bytes ≤ 4 ∧
    Forms.mo entL.f 6 6 = 0 ∧
    entL.dest = Dest.vector [(4, 51)] ∧
    (nget grpLd.vmap 4 = some { id := 51, val := mkLanes fun l => BitVec.ofNat 32 (7 * l) }) ∧
    grpLd.deadm = 0 ∧
    entL.wo = false ∧
    (at7wg grpLd wgScr).wg grpLd.wg = some wgScr ∧
    check12 (at7wg grpLd wgScr) grpLd entL.opc entL.f (entL.addr 3) = none ∧
    scratchHeld (at7wg grpLd wgScr) grpLd.wg (BitVec.toNat (entL.addr 3)) entL.bytes = false :=
  by decide +kernel
theorem test_hyp_AccessFaultFreezes :
    -- all
    (at7 grpG).thread 7 = some grpG ∧
    grpG.log = [entG] ∧
    entG.opc = 385 ∧
    accAs entG.f = 0 ∧
    entG.lanes = [3] ∧
    3 < 32 ∧
    entG.effm = BitVec.ofNat 32 (2 ^ 3) ∧
    entG.once = false ∧
    entG.state = 0 ∧
    entG.flt = 0 ∧
    entG.done = 0 ∧
    entG.helper = 0 ∧
    entG.bytes ≤ 16 ∧
    check12 (at7 grpG) grpG entG.opc entG.f (entG.addr 3) = none ∧
    walk (at7 grpG) grpG.ctx (BitVec.toNat (entG.addr 3)) = none ∧
    ((at7 grpG).cu grpG.cu).rlb = [] ∧
    ngetD (at7 grpG).mem.walkers (grpG.cu / 64) [] = [] ∧
    grpG.isGroup = true ∧
    grpG.place = Place.active ∧
    grpG.fz = none ∧
    grpG.stepping = 0 ∧
    ((at7 grpG).ctx grpG.ctx).sysent ≠ 0 :=
  by decide +kernel
theorem test_hyp_MonitorSleepEnds :
    -- 1
    Issues base 7 grp 399 fslpMax ∧
    -- 2.1
    Issues (at7 grpMon) 7 grpMon 399 fslp ∧
    -- 2.2.1
    Issues (at7 grpMon0) 7 grpMon0 399 fslp0 ∧
    -- 2.2.2
    Issues (at7 grpMon0) 7 grpMon0 399 fslp ∧
    -- 1
    grp.live fslpMax ≠ 0 ∧
    grp.stepping = 0 ∧
    (((List.filter (fun p => (Forms.mo fslpMax 9 6).testBit p.1) grp.mons).any fun p => p.2.armed) = false) ∧
    ((if fslpMax.xk = true then fslpMax.x.toNat else (BitVec.setWidth 32 (uniVal base 7 grp fslpMax.a.toNat)).toNat) = 2 ^ 32 - 1) ∧
    -- 2.1
    grpMon.live fslp ≠ 0 ∧
    grpMon.stepping = 0 ∧
    (((List.filter (fun p => (Forms.mo fslp 9 6).testBit p.1) grpMon.mons).any fun p => p.2.armed) = true ∨ (if fslp.xk = true then fslp.x.toNat
      else (BitVec.setWidth 32 (uniVal (at7 grpMon) 7 grpMon fslp.a.toNat)).toNat) ≠ 2 ^ 32 - 1) ∧
    (List.foldl (fun acc p => if p.2.fired = true then acc + 2 ^ p.1 else acc) 0 (List.filter (fun p => (Forms.mo fslp 9 6).testBit p.1)
      grpMon.mons) ≠ 0) ∧
    -- 2.2.1
    grpMon0.live fslp0 ≠ 0 ∧
    grpMon0.stepping = 0 ∧
    (List.foldl (fun acc p => if p.2.fired = true then acc + 2 ^ p.1 else acc) 0 (List.filter (fun p => (Forms.mo fslp0 9 6).testBit p.1)
      grpMon0.mons) = 0) ∧
    ((if fslp0.xk = true then fslp0.x.toNat else (BitVec.setWidth 32 (uniVal (at7 grpMon0) 7 grpMon0 fslp0.a.toNat)).toNat) = 0) ∧
    -- 2.2.2
    grpMon0.live fslp ≠ 0 ∧
    (((List.filter (fun p => (Forms.mo fslp 9 6).testBit p.1) grpMon0.mons).any fun p => p.2.armed) = true ∨ (if fslp.xk = true then fslp.x.toNat
      else (BitVec.setWidth 32 (uniVal (at7 grpMon0) 7 grpMon0 fslp.a.toNat)).toNat) ≠ 2 ^ 32 - 1) ∧
    (List.foldl (fun acc p => if p.2.fired = true then acc + 2 ^ p.1 else acc) 0 (List.filter (fun p => (Forms.mo fslp 9 6).testBit p.1)
      grpMon0.mons) = 0) ∧
    ((if fslp.xk = true then fslp.x.toNat else (BitVec.setWidth 32 (uniVal (at7 grpMon0) 7 grpMon0 fslp.a.toNat)).toNat) ≠ 0) :=
  ⟨issues_of (by decide +kernel), issues_of (by decide +kernel), issues_of (by decide +kernel),
   issues_of (by decide +kernel), by decide +kernel⟩
theorem test_hyp_SleepAndLockTimesPass :
    -- 1.1
    (at7 grpSlept).thread 7 = some grpSlept ∧
    (grpSlept.blk = some { stage := mslpStage, val := 50, aux := 50 }) ∧
    50 ≠ 2 ^ 32 - 1 ∧
    50 + 50 ≤ (at7 grpSlept).ns ∧
    -- 1.2
    (at7 grpSlept).env.cur = some 7 ∧
    ready (at7 grpSlept) 7 grpSlept 399 fslp = true ∧
    grpSlept.live fslp ≠ 0 ∧
    fslp.xk = true ∧
    fslp.x.toNat = 50 ∧
    (∀ p ∈ grpSlept.mons, p.2.fired = false) ∧
    -- 2
    (later (at7 grpLock) 4096).thread 7 = some grpLock ∧
    nget grpLock.locks 0 = some lock1 ∧
    lock1.held = true ∧
    lock1.waiter = true ∧
    lock1.since + 4096 ≤ (later (at7 grpLock) 4096).cyc :=
  by decide +kernel
theorem test_hyp_CopyCommandEntersTheRing :
    -- 1
    Issues (at7 grpCpyBad) 7 grpCpyBad 448 fcpy ∧
    -- 2.1
    Issues (at7wg grpCpy wgRingFull) 7 grpCpy 448 fcpy ∧
    -- 2.2
    Issues (at7 grpCpy) 7 grpCpy 448 fcpy ∧
    ReleaseDone fcpy (at7 grpCpy) grpCpy ∧
    -- 1
    grpCpyBad.eff fcpy ≠ 0 ∧
    (at7 grpCpyBad).wg grpCpyBad.wg = some wg2 ∧
    grpCpyBad.ops = [] ∧
    (({ id := 0, w0 := (grpCpyBad.words fun k => uniVal (at7 grpCpyBad) 7 grpCpyBad (fcpy.a.toNat + k))[0]?.getD 0, w1 := (grpCpyBad.words fun k => uniVal (at7 grpCpyBad) 7 grpCpyBad (fcpy.a.toNat + k))[1]?.getD 0, w2 := (grpCpyBad.words fun k => uniVal (at7 grpCpyBad) 7 grpCpyBad (fcpy.a.toNat + k))[2]?.getD 0, w3 := (grpCpyBad.words fun k => uniVal (at7 grpCpyBad) 7 grpCpyBad (fcpy.a.toNat + k))[3]?.getD 0, ntf := wg2.copyReg 48 (at7 grpCpyBad).cyc grpCpyBad.barrel, stb := wg2.copyReg 49 (at7 grpCpyBad).cyc grpCpyBad.barrel, seq := (wg2.cpySeq + 1) % 2 ^ 32, tid := 7, running := false, shape := [], pos := 0, written := 0, wo := false, stage := 0, held := none, stepped := decide (grpCpyBad.stepping = 1), buf := [] } : CopyCmd).fault wg2.spBytes = some (cTRAP, 2147483680, 0)) ∧
    -- 2.1
    grpCpy.eff fcpy ≠ 0 ∧
    (at7wg grpCpy wgRingFull).wg grpCpy.wg = some wgRingFull ∧
    (grpCpy.ops ≠ [] ∨ ({ id := 0, w0 := (grpCpy.words fun k => uniVal (at7wg grpCpy wgRingFull) 7 grpCpy (fcpy.a.toNat + k))[0]?.getD 0, w1 := (grpCpy.words fun k => uniVal (at7wg grpCpy wgRingFull) 7 grpCpy (fcpy.a.toNat + k))[1]?.getD 0, w2 := (grpCpy.words fun k => uniVal (at7wg grpCpy wgRingFull) 7 grpCpy (fcpy.a.toNat + k))[2]?.getD 0, w3 := (grpCpy.words fun k => uniVal (at7wg grpCpy wgRingFull) 7 grpCpy (fcpy.a.toNat + k))[3]?.getD 0, ntf := wgRingFull.copyReg 48 (at7wg grpCpy wgRingFull).cyc grpCpy.barrel, stb := wgRingFull.copyReg 49 (at7wg grpCpy wgRingFull).cyc grpCpy.barrel, seq := (wgRingFull.cpySeq + 1) % 2 ^ 32, tid := 7, running := false, shape := [], pos := 0, written := 0, wo := false, stage := 0, held := none, stepped := decide (grpCpy.stepping = 1), buf := [] } : CopyCmd).fault wgRingFull.spBytes = none) ∧
    accOrder fcpy ≠ 2 ∧
    (32 ≤ wgRingFull.ring.length ∨ ({ id := 0, w0 := (grpCpy.words fun k => uniVal (at7wg grpCpy wgRingFull) 7 grpCpy (fcpy.a.toNat + k))[0]?.getD 0, w1 := (grpCpy.words fun k => uniVal (at7wg grpCpy wgRingFull) 7 grpCpy (fcpy.a.toNat + k))[1]?.getD 0, w2 := (grpCpy.words fun k => uniVal (at7wg grpCpy wgRingFull) 7 grpCpy (fcpy.a.toNat + k))[2]?.getD 0, w3 := (grpCpy.words fun k => uniVal (at7wg grpCpy wgRingFull) 7 grpCpy (fcpy.a.toNat + k))[3]?.getD 0, ntf := wgRingFull.copyReg 48 (at7wg grpCpy wgRingFull).cyc grpCpy.barrel, stb := wgRingFull.copyReg 49 (at7wg grpCpy wgRingFull).cyc grpCpy.barrel, seq := (wgRingFull.cpySeq + 1) % 2 ^ 32, tid := 7, running := false, shape := [], pos := 0, written := 0, wo := false, stage := 0, held := none, stepped := decide (grpCpy.stepping = 1), buf := [] } : CopyCmd).das = 1 ∧ scratchOpen grpCpy = true ∨ ({ id := 0, w0 := (grpCpy.words fun k => uniVal (at7wg grpCpy wgRingFull) 7 grpCpy (fcpy.a.toNat + k))[0]?.getD 0, w1 := (grpCpy.words fun k => uniVal (at7wg grpCpy wgRingFull) 7 grpCpy (fcpy.a.toNat + k))[1]?.getD 0, w2 := (grpCpy.words fun k => uniVal (at7wg grpCpy wgRingFull) 7 grpCpy (fcpy.a.toNat + k))[2]?.getD 0, w3 := (grpCpy.words fun k => uniVal (at7wg grpCpy wgRingFull) 7 grpCpy (fcpy.a.toNat + k))[3]?.getD 0, ntf := wgRingFull.copyReg 48 (at7wg grpCpy wgRingFull).cyc grpCpy.barrel, stb := wgRingFull.copyReg 49 (at7wg grpCpy wgRingFull).cyc grpCpy.barrel, seq := (wgRingFull.cpySeq + 1) % 2 ^ 32, tid := 7, running := false, shape := [], pos := 0, written := 0, wo := false, stage := 0, held := none, stepped := decide (grpCpy.stepping = 1), buf := [] } : CopyCmd).readsOpen grpCpy = true) ∧
    -- 2.2
    (at7 grpCpy).wg grpCpy.wg = some wg2 ∧
    (grpCpy.ops ≠ [] ∨ ({ id := 0, w0 := (grpCpy.words fun k => uniVal (at7 grpCpy) 7 grpCpy (fcpy.a.toNat + k))[0]?.getD 0, w1 := (grpCpy.words fun k => uniVal (at7 grpCpy) 7 grpCpy (fcpy.a.toNat + k))[1]?.getD 0, w2 := (grpCpy.words fun k => uniVal (at7 grpCpy) 7 grpCpy (fcpy.a.toNat + k))[2]?.getD 0, w3 := (grpCpy.words fun k => uniVal (at7 grpCpy) 7 grpCpy (fcpy.a.toNat + k))[3]?.getD 0, ntf := wg2.copyReg 48 (at7 grpCpy).cyc grpCpy.barrel, stb := wg2.copyReg 49 (at7 grpCpy).cyc grpCpy.barrel, seq := (wg2.cpySeq + 1) % 2 ^ 32, tid := 7, running := false, shape := [], pos := 0, written := 0, wo := false, stage := 0, held := none, stepped := decide (grpCpy.stepping = 1), buf := [] } : CopyCmd).fault wg2.spBytes = none) ∧
    wg2.ring.length < 32 ∧
    (({ id := 0, w0 := (grpCpy.words fun k => uniVal (at7 grpCpy) 7 grpCpy (fcpy.a.toNat + k))[0]?.getD 0, w1 := (grpCpy.words fun k => uniVal (at7 grpCpy) 7 grpCpy (fcpy.a.toNat + k))[1]?.getD 0, w2 := (grpCpy.words fun k => uniVal (at7 grpCpy) 7 grpCpy (fcpy.a.toNat + k))[2]?.getD 0, w3 := (grpCpy.words fun k => uniVal (at7 grpCpy) 7 grpCpy (fcpy.a.toNat + k))[3]?.getD 0, ntf := wg2.copyReg 48 (at7 grpCpy).cyc grpCpy.barrel, stb := wg2.copyReg 49 (at7 grpCpy).cyc grpCpy.barrel, seq := (wg2.cpySeq + 1) % 2 ^ 32, tid := 7, running := false, shape := [], pos := 0, written := 0, wo := false, stage := 0, held := none, stepped := decide (grpCpy.stepping = 1), buf := [] } : CopyCmd).das = 1 → scratchOpen grpCpy = false) ∧
    (({ id := 0, w0 := (grpCpy.words fun k => uniVal (at7 grpCpy) 7 grpCpy (fcpy.a.toNat + k))[0]?.getD 0, w1 := (grpCpy.words fun k => uniVal (at7 grpCpy) 7 grpCpy (fcpy.a.toNat + k))[1]?.getD 0, w2 := (grpCpy.words fun k => uniVal (at7 grpCpy) 7 grpCpy (fcpy.a.toNat + k))[2]?.getD 0, w3 := (grpCpy.words fun k => uniVal (at7 grpCpy) 7 grpCpy (fcpy.a.toNat + k))[3]?.getD 0, ntf := wg2.copyReg 48 (at7 grpCpy).cyc grpCpy.barrel, stb := wg2.copyReg 49 (at7 grpCpy).cyc grpCpy.barrel, seq := (wg2.cpySeq + 1) % 2 ^ 32, tid := 7, running := false, shape := [], pos := 0, written := 0, wo := false, stage := 0, held := none, stepped := decide (grpCpy.stepping = 1), buf := [] } : CopyCmd).readsOpen grpCpy = false) :=
  ⟨issues_of (by decide +kernel), issues_of (by decide +kernel), issues_of (by decide +kernel),
   releaseDone_of (by decide +kernel), by decide +kernel⟩
theorem test_hyp_CopyCommandsRunAndEnd :
    (
    -- 1
    (at7wg grpC1 (wgRing cmd1)).wg 2 = some (wgRing cmd1) ∧
    (wgRing cmd1).ring = [cmd1] ∧
    (∀ d ∈ ([] : List CopyCmd), d.id ≠ cmd1.id) ∧
    (at7wg grpC1 (wgRing cmd1)).halting (wgRing cmd1).ctx = false ∧
    (at7wg grpC1 (wgRing cmd1)).thread cmd1.tid = some grpC1 ∧
    cmd1.held = none ∧
    cmd1.stepped = false ∧
    cmd1.running = false ∧
    cmd1.stage = 0 ∧
    cmd1.kind ≠ 3 ∧
    -- 2.1
    (at7wg grpC1 (wgRing cmdRun)).wg 2 = some (wgRing cmdRun) ∧
    (wgRing cmdRun).ring = [cmdRun] ∧
    (∀ d ∈ ([] : List CopyCmd), d.id ≠ cmdRun.id) ∧
    (at7wg grpC1 (wgRing cmdRun)).halting (wgRing cmdRun).ctx = false ∧
    (at7wg grpC1 (wgRing cmdRun)).thread cmdRun.tid = some grpC1 ∧
    cmdRun.held = none ∧
    cmdRun.stepped = false ∧
    cmdRun.running = true ∧
    cmdRun.stage = 0 ∧
    cmdRun.kind = 4 ∧
    cmdRun.das = 1 ∧
    cmdRun.block cmdRun.pos = some 0 ∧
    0 + 64 ≤ 2 ^ 32 ∧
    cmdRun.dst < 2 ^ 32 ∧
    (wgRing cmdRun).scratch.wf = true) ∧
    (
    -- 2.2.1
    (at7wg grpC1 (wgRing cmdPast)).wg 2 = some (wgRing cmdPast) ∧
    (wgRing cmdPast).ring = [cmdPast] ∧
    (∀ d ∈ ([] : List CopyCmd), d.id ≠ cmdPast.id) ∧
    (at7wg grpC1 (wgRing cmdPast)).halting (wgRing cmdPast).ctx = false ∧
    (at7wg grpC1 (wgRing cmdPast)).thread cmdPast.tid = some grpC1 ∧
    cmdPast.held = none ∧
    cmdPast.stepped = false ∧
    cmdPast.running = true ∧
    cmdPast.stage = 0 ∧
    cmdPast.kind ≠ 3 ∧
    cmdPast.block cmdPast.pos = none ∧
    cmdPast.ste = false ∧
    -- 2.2.2.1
    (at7wg grpC1 (wgRing cmdPh)).wg 2 = some (wgRing cmdPh) ∧
    (wgRing cmdPh).ring = [cmdPh] ∧
    (∀ d ∈ ([] : List CopyCmd), d.id ≠ cmdPh.id) ∧
    (at7wg grpC1 (wgRing cmdPh)).halting (wgRing cmdPh).ctx = false ∧
    (at7wg grpC1 (wgRing cmdPh)).thread cmdPh.tid = some grpC1 ∧
    cmdPh.held = none ∧
    cmdPh.stepped = false ∧
    cmdPh.running = true ∧
    cmdPh.stage = 2 ∧
    cmdPh.phe = true ∧
    (wgRing cmdPh).scratch.wf = true) ∧
    -- 2.2.2.2.1
    (at7wg grpC1 (wgRing cmdArr)).wg 2 = some (wgRing cmdArr) ∧
    (wgRing cmdArr).ring = [cmdArr] ∧
    (∀ d ∈ ([] : List CopyCmd), d.id ≠ cmdArr.id) ∧
    (at7wg grpC1 (wgRing cmdArr)).halting (wgRing cmdArr).ctx = false ∧
    (at7wg grpC1 (wgRing cmdArr)).thread cmdArr.tid = some grpC1 ∧
    cmdArr.held = none ∧
    cmdArr.stepped = false ∧
    cmdArr.running = true ∧
    cmdArr.stage = 2 ∧
    cmdArr.phe = false ∧
    -- 2.2.2.2.2
    (at7wg grpC1 (wgRing cmdEnd)).wg 2 = some (wgRing cmdEnd) ∧
    (wgRing cmdEnd).ring = [cmdEnd] ∧
    (∀ d ∈ ([] : List CopyCmd), d.id ≠ cmdEnd.id) ∧
    (at7wg grpC1 (wgRing cmdEnd)).halting (wgRing cmdEnd).ctx = false ∧
    (at7wg grpC1 (wgRing cmdEnd)).thread cmdEnd.tid = some grpC1 ∧
    cmdEnd.held = none ∧
    cmdEnd.stepped = false ∧
    cmdEnd.running = true ∧
    cmdEnd.stage = 3 ∧
    BitVec.getLsbD cmdEnd.ntf 0 = false :=
  ⟨by decide +kernel, by decide +kernel, by decide +kernel⟩
theorem test_hyp_CopyEngineFaultHolds :
    -- all
    (at7wg grpC1 (wgRing cmdLin)).wg 2 = some (wgRing cmdLin) ∧
    (wgRing cmdLin).ring = [cmdLin] ∧
    (∀ d ∈ ([] : List CopyCmd), d.id ≠ cmdLin.id) ∧
    (at7wg grpC1 (wgRing cmdLin)).halting (wgRing cmdLin).ctx = false ∧
    (at7wg grpC1 (wgRing cmdLin)).thread cmdLin.tid = some grpC1 ∧
    cmdLin.held = none ∧
    cmdLin.stepped = false ∧
    cmdLin.running = true ∧
    cmdLin.stage = 0 ∧
    cmdLin.kind = 0 ∧
    cmdLin.sas = 0 ∧
    cmdLin.pos = 0 ∧
    cmdLin.len ≠ 0 ∧
    cmdLin.len ≤ 64 ∧
    cmdLin.dst % 64 = 0 ∧
    cmdLin.src < 2 ^ 57 ∧
    walk (at7wg grpC1 (wgRing cmdLin)) (wgRing cmdLin).ctx cmdLin.src = none ∧
    ((at7wg grpC1 (wgRing cmdLin)).cu (wgRing cmdLin).cu).rlb = [] ∧
    ngetD (at7wg grpC1 (wgRing cmdLin)).mem.walkers ((wgRing cmdLin).cu / 64) [] = [] ∧
    grpC1.isGroup = true ∧
    grpC1.place = Place.active ∧
    grpC1.fz = none ∧
    grpC1.stepping = 0 ∧
    ((at7wg grpC1 (wgRing cmdLin)).ctx grpC1.ctx).sysent ≠ 0 :=
  by decide +kernel
theorem test_hyp_PhaseCountersArrive :
    -- 1.1
    Issues (at7wg grpCpyOff wgPh) 7 grpCpyOff 449 fph ∧
    -- 1.2
    Issues (at7wg grpCpyOff wgPh) 7 grpCpyOff 450 fph ∧
    -- 2.1.1
    Issues (at7wg grpPhOpen wgPh) 7 grpPhOpen 449 fph ∧
    -- 2.1.2
    Issues (at7wg grpPhOpen wgPh) 7 grpPhOpen 450 fph ∧
    -- 2.2.1
    (phFault (at7wg grpCpy wgPh) grpCpy (BitVec.toNat (uniVal (at7wg grpCpy wgPh) 7 grpCpy fph.a.toNat)) = none ∧ ReleaseDone fph (at7wg grpCpy
      wgPh) grpCpy ∧ scratchOpen grpCpy = false ∧ scratchHeld (at7wg grpCpy wgPh) grpCpy.wg (BitVec.toNat (uniVal (at7wg grpCpy wgPh) 7 grpCpy
      fph.a.toNat)) 16 = false) ∧
    Issues (at7wg grpCpy wgPh) 7 grpCpy 449 fph ∧
    -- 2.2.2
    Issues (at7wg grpCpy wgPh) 7 grpCpy 450 fph ∧
    -- 1.1
    grpCpyOff.eff fph ≠ 0 ∧
    (at7wg grpCpyOff wgPh).wg grpCpyOff.wg = some wgPh ∧
    phFault (at7wg grpCpyOff wgPh) grpCpyOff (BitVec.toNat (uniVal (at7wg grpCpyOff wgPh) 7 grpCpyOff fph.a.toNat)) = some misalBox ∧
    -- 2.1.1
    grpPhOpen.eff fph ≠ 0 ∧
    (at7wg grpPhOpen wgPh).wg grpPhOpen.wg = some wgPh ∧
    phFault (at7wg grpPhOpen wgPh) grpPhOpen (BitVec.toNat (uniVal (at7wg grpPhOpen wgPh) 7 grpPhOpen fph.a.toNat)) = none ∧
    accOrder fph ≠ 2 ∧
    (scratchOpen grpPhOpen = true ∨ scratchHeld (at7wg grpPhOpen wgPh) grpPhOpen.wg (BitVec.toNat (uniVal (at7wg grpPhOpen wgPh) 7 grpPhOpen
      fph.a.toNat)) 16 = true) ∧
    -- 2.2.1
    grpCpy.eff fph ≠ 0 ∧
    (at7wg grpCpy wgPh).wg grpCpy.wg = some wgPh :=
  ⟨issues_of (by decide +kernel), issues_of (by decide +kernel), issues_of (by decide +kernel),
   issues_of (by decide +kernel),
   ⟨by decide +kernel, releaseDone_of (by decide +kernel), by decide +kernel, by decide +kernel⟩,
   issues_of (by decide +kernel), issues_of (by decide +kernel), by decide +kernel⟩
theorem test_hyp_PhaseCountersAreAwaited :
    -- 1.1
    Issues (at7wg grpBoxH wgPh) 7 grpBoxH 451 fph ∧
    -- 1.2
    Issues (at7wg grpBoxH wgPh) 7 grpBoxH 452 fph ∧
    -- 2.1
    Issues (at7wg grpCpy wgPh) 7 grpCpy 451 fphw ∧
    -- 2.2.1
    Issues (at7wg grpCpy wgPh) 7 grpCpy 451 fphw2 ∧
    -- 2.2.2
    Issues (at7wg grpCpy wgPh) 7 grpCpy 452 fphw ∧
    -- 1.1
    grpBoxH.live fph ≠ 0 ∧
    phFault (at7wg grpBoxH wgPh) grpBoxH (BitVec.toNat (uniVal (at7wg grpBoxH wgPh) 7 grpBoxH fph.a.toNat)) = some permBox ∧
    -- 2.1
    grpCpy.live fphw ≠ 0 ∧
    phFault (at7wg grpCpy wgPh) grpCpy (BitVec.toNat (uniVal (at7wg grpCpy wgPh) 7 grpCpy fphw.a.toNat)) = none ∧
    ((scratchOpen grpCpy || scratchHeld (at7wg grpCpy wgPh) grpCpy.wg (BitVec.toNat (uniVal (at7wg grpCpy wgPh) 7 grpCpy fphw.a.toNat)) 16) = false) ∧
    (1 ≤ (phPhase (phRecord (at7wg grpCpy wgPh) grpCpy.wg (BitVec.toNat (uniVal (at7wg grpCpy wgPh) 7 grpCpy fphw.a.toNat))) + 2 ^ 16 - (if
      fphw.xk = true then BitVec.setWidth 64 fphw.x else uniVal (at7wg grpCpy wgPh) 7 grpCpy fphw.b.toNat).toNat % 2 ^ 16) % 2 ^ 16 ∧ (phPhase
      (phRecord (at7wg grpCpy wgPh) grpCpy.wg (BitVec.toNat (uniVal (at7wg grpCpy wgPh) 7 grpCpy fphw.a.toNat))) + 2 ^ 16 - (if fphw.xk = true
      then BitVec.setWidth 64 fphw.x else uniVal (at7wg grpCpy wgPh) 7 grpCpy fphw.b.toNat).toNat % 2 ^ 16) % 2 ^ 16 ≤ 32767) ∧
    -- 2.2.1
    grpCpy.live fphw2 ≠ 0 ∧
    phFault (at7wg grpCpy wgPh) grpCpy (BitVec.toNat (uniVal (at7wg grpCpy wgPh) 7 grpCpy fphw2.a.toNat)) = none ∧
    ((scratchOpen grpCpy || scratchHeld (at7wg grpCpy wgPh) grpCpy.wg (BitVec.toNat (uniVal (at7wg grpCpy wgPh) 7 grpCpy fphw2.a.toNat)) 16) = true ∨ (phPhase (phRecord (at7wg grpCpy wgPh) grpCpy.wg (BitVec.toNat (uniVal (at7wg grpCpy wgPh) 7 grpCpy fphw2.a.toNat))) + 2 ^ 16 - (if fphw2.xk = true then BitVec.setWidth 64 fphw2.x else uniVal (at7wg grpCpy wgPh) 7 grpCpy fphw2.b.toNat).toNat % 2 ^ 16) % 2 ^ 16 = 0 ∨ 32767 < (phPhase (phRecord (at7wg grpCpy wgPh) grpCpy.wg (BitVec.toNat (uniVal (at7wg grpCpy wgPh) 7 grpCpy fphw2.a.toNat))) + 2 ^ 16 - (if fphw2.xk = true then BitVec.setWidth 64 fphw2.x else uniVal (at7wg grpCpy wgPh) 7 grpCpy fphw2.b.toNat).toNat % 2 ^ 16) % 2 ^ 16) :=
  ⟨issues_of (by decide +kernel), issues_of (by decide +kernel), issues_of (by decide +kernel),
   issues_of (by decide +kernel), issues_of (by decide +kernel), by decide +kernel⟩
theorem test_hyp_MailboxesOpenAndClose :
    -- 1
    Issues (at7 grpBoxH) 7 grpBoxH 517 fbox ∧
    -- 2.1
    Issues (at7 grpCpy) 7 grpCpy 517 fbox ∧
    -- 2.2.1
    Issues (withBox (at7 grpCpy) [(0, box1)]) 7 grpCpy 517 fbox ∧
    -- 2.2.2.1.1
    Issues (withBox (at7 grpBoxH) [(0, box0)]) 7 grpBoxH 518 fbox ∧
    -- 2.2.2.1.2
    Issues (withBox (at7 grpBoxH) [(0, box1)]) 7 grpBoxH 518 fbox ∧
    -- 2.2.2.2
    Issues (at7 grpCpy) 7 grpCpy 518 fbox ∧
    -- 1
    grpBoxH.eff fbox ≠ 0 ∧
    phFault (at7 grpBoxH) grpBoxH (BitVec.toNat (uniVal (at7 grpBoxH) 7 grpBoxH fbox.a.toNat)) = some permBox ∧
    -- 2.1
    grpCpy.eff fbox ≠ 0 ∧
    phFault (at7 grpCpy) grpCpy (BitVec.toNat (uniVal (at7 grpCpy) 7 grpCpy fbox.a.toNat)) = none ∧
    ((List.filter (fun p => p.2.used && decide (p.2.ctx = grpCpy.ctx) && decide (p.2.wg = grpCpy.wg)) (at7 grpCpy).fab.boxes).length < 16) ∧
    (∀ p ∈ List.filter (fun p => p.2.used && decide (p.2.ctx = grpCpy.ctx) && decide (p.2.wg = grpCpy.wg)) (at7 grpCpy).fab.boxes, p.2.off ≠
      BitVec.toNat (uniVal (at7 grpCpy) 7 grpCpy fbox.a.toNat)) ∧
    0 < 16384 ∧
    (Option.any (fun b => b.used) (nget (at7 grpCpy).fab.boxes 0) = false) ∧
    (∀ j < 0, Option.any (fun b => b.used) (nget (at7 grpCpy).fab.boxes j) = true) ∧
    -- 2.2.1
    phFault (withBox (at7 grpCpy) [(0, box1)]) grpCpy (BitVec.toNat (uniVal (withBox (at7 grpCpy) [(0, box1)]) 7 grpCpy fbox.a.toNat)) = none ∧
    (16 ≤ (List.filter (fun p => p.2.used && decide (p.2.ctx = grpCpy.ctx) && decide (p.2.wg = grpCpy.wg)) (withBox (at7 grpCpy) [(0,
      box1)]).fab.boxes).length ∨ (∃ p ∈ List.filter (fun p => p.2.used && decide (p.2.ctx = grpCpy.ctx) && decide (p.2.wg = grpCpy.wg)) (withBox
      (at7 grpCpy) [(0, box1)]).fab.boxes, p.2.off = BitVec.toNat (uniVal (withBox (at7 grpCpy) [(0, box1)]) 7 grpCpy fbox.a.toNat)) ∨ ∀ j <
      16384, Option.any (fun b => b.used) (nget (withBox (at7 grpCpy) [(0, box1)]).fab.boxes j) = true) ∧
    -- 2.2.2.1.1
    (List.find? (fun p => decide (BitVec.ofNat 64 ((withBox (at7 grpBoxH) [(0, box0)]).mdl.number * 2 ^ 52 + p.2.gen * 2 ^ 16 + p.1) = uniVal
      (withBox (at7 grpBoxH) [(0, box0)]) 7 grpBoxH fbox.a.toNat)) (List.filter (fun p => p.2.used && decide (p.2.ctx = grpBoxH.ctx) && decide
      (p.2.wg = grpBoxH.wg)) (withBox (at7 grpBoxH) [(0, box0)]).fab.boxes) = some (0, box0)) ∧
    box0.infl = 0 ∧
    -- 2.2.2.1.2
    (List.find? (fun p => decide (BitVec.ofNat 64 ((withBox (at7 grpBoxH) [(0, box1)]).mdl.number * 2 ^ 52 + p.2.gen * 2 ^ 16 + p.1) = uniVal
      (withBox (at7 grpBoxH) [(0, box1)]) 7 grpBoxH fbox.a.toNat)) (List.filter (fun p => p.2.used && decide (p.2.ctx = grpBoxH.ctx) && decide
      (p.2.wg = grpBoxH.wg)) (withBox (at7 grpBoxH) [(0, box1)]).fab.boxes) = some (0, box1)) ∧
    box1.infl ≠ 0 ∧
    -- 2.2.2.2
    (List.find? (fun p => decide (BitVec.ofNat 64 ((at7 grpCpy).mdl.number * 2 ^ 52 + p.2.gen * 2 ^ 16 + p.1) = uniVal (at7 grpCpy) 7 grpCpy
      fbox.a.toNat)) (List.filter (fun p => p.2.used && decide (p.2.ctx = grpCpy.ctx) && decide (p.2.wg = grpCpy.wg)) (at7 grpCpy).fab.boxes) =
      none) :=
  ⟨issues_of (by decide +kernel), issues_of (by decide +kernel), issues_of (by decide +kernel),
   issues_of (by decide +kernel), issues_of (by decide +kernel), issues_of (by decide +kernel), by decide +kernel⟩
theorem test_hyp_FabricCommandEnters :
    -- 1
    Issues (at7 grpFabBad) 7 grpFabBad fabricForms[0].1 ffab ∧
    -- 2.1
    Issues (fabFull grpFab) 7 grpFab fabricForms[0].1 ffab ∧
    -- 2.2
    Issues (at7 grpFab) 7 grpFab fabricForms[0].1 ffab ∧
    ReleaseDone ffab (at7 grpFab) grpFab ∧
    -- 1
    grpFabBad.eff ffab ≠ 0 ∧
    grpFabBad.ops = [] ∧
    (({ id := 0, tid := 7, ctx := grpFabBad.ctx, cu := grpFabBad.cu, seq := (grpFabBad.fseq + 1) % 2 ^ 32, kind := fabricForms[0].2.1, w0 := (grpFabBad.words fun k => uniVal (at7 grpFabBad) 7 grpFabBad (if fabricForms[0].2.1 = 4 then if k = 0 then ffab.a.toNat else if k = 1 then ffab.b.toNat else ffab.c.toNat else ffab.a.toNat + k))[0]?.getD 0, w1 := (grpFabBad.words fun k => uniVal (at7 grpFabBad) 7 grpFabBad (if fabricForms[0].2.1 = 4 then if k = 0 then ffab.a.toNat else if k = 1 then ffab.b.toNat else ffab.c.toNat else ffab.a.toNat + k))[1]?.getD 0, w2 := (grpFabBad.words fun k => uniVal (at7 grpFabBad) 7 grpFabBad (if fabricForms[0].2.1 = 4 then if k = 0 then ffab.a.toNat else if k = 1 then ffab.b.toNat else ffab.c.toNat else ffab.a.toNat + k))[2]?.getD 0, w3 := if fabricForms[0].2.1 = 4 then 0 else (grpFabBad.words fun k => uniVal (at7 grpFabBad) 7 grpFabBad (if fabricForms[0].2.1 = 4 then if k = 0 then ffab.a.toNat else if k = 1 then ffab.b.toNat else ffab.c.toNat else ffab.a.toNat + k))[3]?.getD 0, xid := 0, total := 0, sent := 0, left := [], fail := 0, failAddr := 0, counted := 0, bitmap := 0, held := none, stepped := decide (grpFabBad.stepping = 1), wo := false, wrote := 0 } : FabCmd).fault (at7 grpFabBad) = some (cTRAP, 2147483696, 0)) ∧
    -- 2.1
    grpFab.eff ffab ≠ 0 ∧
    (grpFab.ops ≠ [] ∨ ({ id := 0, tid := 7, ctx := grpFab.ctx, cu := grpFab.cu, seq := (grpFab.fseq + 1) % 2 ^ 32, kind := fabricForms[0].2.1, w0 := (grpFab.words fun k => uniVal (fabFull grpFab) 7 grpFab (if fabricForms[0].2.1 = 4 then if k = 0 then ffab.a.toNat else if k = 1 then ffab.b.toNat else ffab.c.toNat else ffab.a.toNat + k))[0]?.getD 0, w1 := (grpFab.words fun k => uniVal (fabFull grpFab) 7 grpFab (if fabricForms[0].2.1 = 4 then if k = 0 then ffab.a.toNat else if k = 1 then ffab.b.toNat else ffab.c.toNat else ffab.a.toNat + k))[1]?.getD 0, w2 := (grpFab.words fun k => uniVal (fabFull grpFab) 7 grpFab (if fabricForms[0].2.1 = 4 then if k = 0 then ffab.a.toNat else if k = 1 then ffab.b.toNat else ffab.c.toNat else ffab.a.toNat + k))[2]?.getD 0, w3 := if fabricForms[0].2.1 = 4 then 0 else (grpFab.words fun k => uniVal (fabFull grpFab) 7 grpFab (if fabricForms[0].2.1 = 4 then if k = 0 then ffab.a.toNat else if k = 1 then ffab.b.toNat else ffab.c.toNat else ffab.a.toNat + k))[3]?.getD 0, xid := 0, total := 0, sent := 0, left := [], fail := 0, failAddr := 0, counted := 0, bitmap := 0, held := none, stepped := decide (grpFab.stepping = 1), wo := false, wrote := 0 } : FabCmd).fault (fabFull grpFab) = none) ∧
    accOrder ffab ≠ 2 ∧
    (64 ≤ fabQueue (fabFull grpFab) grpFab.cu ∨ (decide (fabricForms[0].2.1 ≠ 1) && decide (fabricForms[0].2.1 ≠ 4) && decide (({ id := 0, tid := 7, ctx := grpFab.ctx, cu := grpFab.cu, seq := (grpFab.fseq + 1) % 2 ^ 32, kind := fabricForms[0].2.1, w0 := (grpFab.words fun k => uniVal (fabFull grpFab) 7 grpFab (if fabricForms[0].2.1 = 4 then if k = 0 then ffab.a.toNat else if k = 1 then ffab.b.toNat else ffab.c.toNat else ffab.a.toNat + k))[0]?.getD 0, w1 := (grpFab.words fun k => uniVal (fabFull grpFab) 7 grpFab (if fabricForms[0].2.1 = 4 then if k = 0 then ffab.a.toNat else if k = 1 then ffab.b.toNat else ffab.c.toNat else ffab.a.toNat + k))[1]?.getD 0, w2 := (grpFab.words fun k => uniVal (fabFull grpFab) 7 grpFab (if fabricForms[0].2.1 = 4 then if k = 0 then ffab.a.toNat else if k = 1 then ffab.b.toNat else ffab.c.toNat else ffab.a.toNat + k))[2]?.getD 0, w3 := if fabricForms[0].2.1 = 4 then 0 else (grpFab.words fun k => uniVal (fabFull grpFab) 7 grpFab (if fabricForms[0].2.1 = 4 then if k = 0 then ffab.a.toNat else if k = 1 then ffab.b.toNat else ffab.c.toNat else ffab.a.toNat + k))[3]?.getD 0, xid := 0, total := 0, sent := 0, left := [], fail := 0, failAddr := 0, counted := 0, bitmap := 0, held := none, stepped := decide (grpFab.stepping = 1), wo := false, wrote := 0 } : FabCmd).len ≠ 0) && sourceOpen grpFab 0) = true) ∧
    -- 2.2
    (grpFab.ops ≠ [] ∨ ({ id := 0, tid := 7, ctx := grpFab.ctx, cu := grpFab.cu, seq := (grpFab.fseq + 1) % 2 ^ 32, kind := fabricForms[0].2.1, w0 := (grpFab.words fun k => uniVal (at7 grpFab) 7 grpFab (if fabricForms[0].2.1 = 4 then if k = 0 then ffab.a.toNat else if k = 1 then ffab.b.toNat else ffab.c.toNat else ffab.a.toNat + k))[0]?.getD 0, w1 := (grpFab.words fun k => uniVal (at7 grpFab) 7 grpFab (if fabricForms[0].2.1 = 4 then if k = 0 then ffab.a.toNat else if k = 1 then ffab.b.toNat else ffab.c.toNat else ffab.a.toNat + k))[1]?.getD 0, w2 := (grpFab.words fun k => uniVal (at7 grpFab) 7 grpFab (if fabricForms[0].2.1 = 4 then if k = 0 then ffab.a.toNat else if k = 1 then ffab.b.toNat else ffab.c.toNat else ffab.a.toNat + k))[2]?.getD 0, w3 := if fabricForms[0].2.1 = 4 then 0 else (grpFab.words fun k => uniVal (at7 grpFab) 7 grpFab (if fabricForms[0].2.1 = 4 then if k = 0 then ffab.a.toNat else if k = 1 then ffab.b.toNat else ffab.c.toNat else ffab.a.toNat + k))[3]?.getD 0, xid := 0, total := 0, sent := 0, left := [], fail := 0, failAddr := 0, counted := 0, bitmap := 0, held := none, stepped := decide (grpFab.stepping = 1), wo := false, wrote := 0 } : FabCmd).fault (at7 grpFab) = none) ∧
    fabQueue (at7 grpFab) grpFab.cu < 64 ∧
    ((decide (fabricForms[0].2.1 ≠ 1) && decide (fabricForms[0].2.1 ≠ 4) && decide (({ id := 0, tid := 7, ctx := grpFab.ctx, cu := grpFab.cu, seq := (grpFab.fseq + 1) % 2 ^ 32, kind := fabricForms[0].2.1, w0 := (grpFab.words fun k => uniVal (at7 grpFab) 7 grpFab (if fabricForms[0].2.1 = 4 then if k = 0 then ffab.a.toNat else if k = 1 then ffab.b.toNat else ffab.c.toNat else ffab.a.toNat + k))[0]?.getD 0, w1 := (grpFab.words fun k => uniVal (at7 grpFab) 7 grpFab (if fabricForms[0].2.1 = 4 then if k = 0 then ffab.a.toNat else if k = 1 then ffab.b.toNat else ffab.c.toNat else ffab.a.toNat + k))[1]?.getD 0, w2 := (grpFab.words fun k => uniVal (at7 grpFab) 7 grpFab (if fabricForms[0].2.1 = 4 then if k = 0 then ffab.a.toNat else if k = 1 then ffab.b.toNat else ffab.c.toNat else ffab.a.toNat + k))[2]?.getD 0, w3 := if fabricForms[0].2.1 = 4 then 0 else (grpFab.words fun k => uniVal (at7 grpFab) 7 grpFab (if fabricForms[0].2.1 = 4 then if k = 0 then ffab.a.toNat else if k = 1 then ffab.b.toNat else ffab.c.toNat else ffab.a.toNat + k))[3]?.getD 0, xid := 0, total := 0, sent := 0, left := [], fail := 0, failAddr := 0, counted := 0, bitmap := 0, held := none, stepped := decide (grpFab.stepping = 1), wo := false, wrote := 0 } : FabCmd).len ≠ 0) && sourceOpen grpFab 0) = false) :=
  ⟨issues_of (by decide +kernel), issues_of (by decide +kernel), issues_of (by decide +kernel),
   releaseDone_of (by decide +kernel), by decide +kernel⟩
theorem test_hyp_FabricStatusRead :
    -- 1
    Issues (at7 grpFo) 7 grpFo 519 ffabstW ∧
    -- 2
    Issues base 7 grp 519 ffabst ∧
    -- 1
    grpFo.live ffabstW ≠ 0 ∧
    Forms.mo ffabstW 7 7 = 1 ∧
    grpFo.fOpen ≠ [] ∧
    -- 2
    grp.live ffabst ≠ 0 ∧
    grp.ffail = none ∧
    (Forms.mo ffabst 7 7 = 0 ∨ grp.fOpen = []) ∧
    grp.fseq < 2 ^ 32 :=
  ⟨issues_of (by decide +kernel), issues_of (by decide +kernel), by decide +kernel⟩
theorem test_hyp_TreeBarrierForms :
    -- 1.1
    Issues base 7 grp 576 ftb ∧
    -- 1.2.1
    Issues base 7 grp 577 ftb ∧
    -- 1.2.2
    Issues base 7 grp 578 ftb ∧
    -- 2.1.1
    Issues (withObj base objOther) 7 grp 576 ftb ∧
    -- 2.1.2.1
    Issues (withObj base objOther) 7 grp 577 ftb ∧
    -- 2.1.2.2
    Issues (withObj base objOther) 7 grp 578 ftb ∧
    -- 2.2.1
    Issues (withObj (at7 (grpTb 4 2)) obj1) 7 (grpTb 4 2) 576 ftb ∧
    ReleaseDone ftb (withObj (at7 (grpTb 4 2)) obj1) (grpTb 4 2) ∧
    -- 2.2.2.1
    Issues (withObj (at7 (grpTb 5 3)) obj1) 7 (grpTb 5 3) 576 ftb ∧
    ReleaseDone ftb (withObj (at7 (grpTb 5 3)) obj1) (grpTb 5 3) ∧
    -- 2.2.2.2.1
    Issues (withObj (at7 (grpTb 4 2)) obj1) 7 (grpTb 4 2) 577 ftb ∧
    -- 2.2.2.2.2.1
    Issues (withObj (at7 (grpTb 5 3)) obj1) 7 (grpTb 5 3) 577 ftb ∧
    -- 2.2.2.2.2.2.1
    Issues (withObj (at7 (grpTb 4 4)) obj1) 7 (grpTb 4 4) 577 ftb ∧
    -- 2.2.2.2.2.2.2
    Issues (withObj (at7 (grpTb 4 2)) obj1) 7 (grpTb 4 2) 578 ftb ∧
    -- 1.1
    grp.live ftb ≠ 0 ∧
    grp.stepping = 0 ∧
    ((base.part (base.ctx grp.ctx).key).obj (Forms.ex ftb 5 0)).en = false ∧
    -- 2.1.1
    (((withObj base objOther).part ((withObj base objOther).ctx grp.ctx).key).obj (Forms.ex ftb 5 0)).en = true ∧
    (((withObj base objOther).part ((withObj base objOther).ctx grp.ctx).key).obj (Forms.ex ftb 5 0)).launch = some 4 ∧
    4 ≠ grp.launch ∧
    -- 2.2.1
    (grpTb 4 2).live ftb ≠ 0 ∧
    (grpTb 4 2).stepping = 0 ∧
    (((withObj (at7 (grpTb 4 2)) obj1).part ((withObj (at7 (grpTb 4 2)) obj1).ctx (grpTb 4 2).ctx).key).obj (Forms.ex ftb 5 0)).en = true ∧
    ((((withObj (at7 (grpTb 4 2)) obj1).part ((withObj (at7 (grpTb 4 2)) obj1).ctx (grpTb 4 2).ctx).key).obj (Forms.ex ftb 5 0)).launch = none ∨
      (((withObj (at7 (grpTb 4 2)) obj1).part ((withObj (at7 (grpTb 4 2)) obj1).ctx (grpTb 4 2).ctx).key).obj (Forms.ex ftb 5 0)).launch = some
      (grpTb 4 2).launch) ∧
    ngetD (grpTb 4 2).joins (Forms.ex ftb 5 0) 0 < (((withObj (at7 (grpTb 4 2)) obj1).part ((withObj (at7 (grpTb 4 2)) obj1).ctx (grpTb 4
      2).ctx).key).obj (Forms.ex ftb 5 0)).phase + 2 ∧
    -- 2.2.2.1
    (grpTb 5 3).live ftb ≠ 0 ∧
    (grpTb 5 3).stepping = 0 ∧
    (((withObj (at7 (grpTb 5 3)) obj1).part ((withObj (at7 (grpTb 5 3)) obj1).ctx (grpTb 5 3).ctx).key).obj (Forms.ex ftb 5 0)).en = true ∧
    ((((withObj (at7 (grpTb 5 3)) obj1).part ((withObj (at7 (grpTb 5 3)) obj1).ctx (grpTb 5 3).ctx).key).obj (Forms.ex ftb 5 0)).launch = none ∨
      (((withObj (at7 (grpTb 5 3)) obj1).part ((withObj (at7 (grpTb 5 3)) obj1).ctx (grpTb 5 3).ctx).key).obj (Forms.ex ftb 5 0)).launch = some
      (grpTb 5 3).launch) ∧
    (((withObj (at7 (grpTb 5 3)) obj1).part ((withObj (at7 (grpTb 5 3)) obj1).ctx (grpTb 5 3).ctx).key).obj (Forms.ex ftb 5 0)).phase + 2 ≤ ngetD
      (grpTb 5 3).joins (Forms.ex ftb 5 0) 0 ∧
    -- 2.2.2.2.1
    1 ≤ ((((withObj (at7 (grpTb 4 2)) obj1).part ((withObj (at7 (grpTb 4 2)) obj1).ctx (grpTb 4 2).ctx).key).obj (Forms.ex ftb 5 0)).phase % 2 ^
      16 + 2 ^ 16 - BitVec.toNat (uniVal (withObj (at7 (grpTb 4 2)) obj1) 7 (grpTb 4 2) ftb.b.toNat) % 2 ^ 16) % 2 ^ 16 ∧
    ((((withObj (at7 (grpTb 4 2)) obj1).part ((withObj (at7 (grpTb 4 2)) obj1).ctx (grpTb 4 2).ctx).key).obj (Forms.ex ftb 5 0)).phase % 2 ^ 16 +
      2 ^ 16 - BitVec.toNat (uniVal (withObj (at7 (grpTb 4 2)) obj1) 7 (grpTb 4 2) ftb.b.toNat) % 2 ^ 16) % 2 ^ 16 ≤ 32767 ∧
    -- 2.2.2.2.2.1
    (((((withObj (at7 (grpTb 5 3)) obj1).part ((withObj (at7 (grpTb 5 3)) obj1).ctx (grpTb 5 3).ctx).key).obj (Forms.ex ftb 5 0)).phase % 2 ^ 16 +
      2 ^ 16 - BitVec.toNat (uniVal (withObj (at7 (grpTb 5 3)) obj1) 7 (grpTb 5 3) ftb.b.toNat) % 2 ^ 16) % 2 ^ 16 = 0 ∨ 32767 < ((((withObj (at7
      (grpTb 5 3)) obj1).part ((withObj (at7 (grpTb 5 3)) obj1).ctx (grpTb 5 3).ctx).key).obj (Forms.ex ftb 5 0)).phase % 2 ^ 16 + 2 ^ 16 -
      BitVec.toNat (uniVal (withObj (at7 (grpTb 5 3)) obj1) 7 (grpTb 5 3) ftb.b.toNat) % 2 ^ 16) % 2 ^ 16) ∧
    32767 < (BitVec.toNat (uniVal (withObj (at7 (grpTb 5 3)) obj1) 7 (grpTb 5 3) ftb.b.toNat) % 2 ^ 16 + 2 ^ 16 - ngetD (grpTb 5 3).joins
      (Forms.ex ftb 5 0) 0 % 2 ^ 16) % 2 ^ 16 ∧
    -- 2.2.2.2.2.2.1
    (grpTb 4 4).live ftb ≠ 0 ∧
    (grpTb 4 4).stepping = 0 ∧
    (((withObj (at7 (grpTb 4 4)) obj1).part ((withObj (at7 (grpTb 4 4)) obj1).ctx (grpTb 4 4).ctx).key).obj (Forms.ex ftb 5 0)).en = true ∧
    ((((withObj (at7 (grpTb 4 4)) obj1).part ((withObj (at7 (grpTb 4 4)) obj1).ctx (grpTb 4 4).ctx).key).obj (Forms.ex ftb 5 0)).launch = none ∨
      (((withObj (at7 (grpTb 4 4)) obj1).part ((withObj (at7 (grpTb 4 4)) obj1).ctx (grpTb 4 4).ctx).key).obj (Forms.ex ftb 5 0)).launch = some
      (grpTb 4 4).launch) ∧
    (((((withObj (at7 (grpTb 4 4)) obj1).part ((withObj (at7 (grpTb 4 4)) obj1).ctx (grpTb 4 4).ctx).key).obj (Forms.ex ftb 5 0)).phase % 2 ^ 16 +
      2 ^ 16 - BitVec.toNat (uniVal (withObj (at7 (grpTb 4 4)) obj1) 7 (grpTb 4 4) ftb.b.toNat) % 2 ^ 16) % 2 ^ 16 = 0 ∨ 32767 < ((((withObj (at7
      (grpTb 4 4)) obj1).part ((withObj (at7 (grpTb 4 4)) obj1).ctx (grpTb 4 4).ctx).key).obj (Forms.ex ftb 5 0)).phase % 2 ^ 16 + 2 ^ 16 -
      BitVec.toNat (uniVal (withObj (at7 (grpTb 4 4)) obj1) 7 (grpTb 4 4) ftb.b.toNat) % 2 ^ 16) % 2 ^ 16) ∧
    (BitVec.toNat (uniVal (withObj (at7 (grpTb 4 4)) obj1) 7 (grpTb 4 4) ftb.b.toNat) % 2 ^ 16 + 2 ^ 16 - ngetD (grpTb 4 4).joins (Forms.ex ftb 5
      0) 0 % 2 ^ 16) % 2 ^ 16 ≤ 32767 :=
  ⟨issues_of (by decide +kernel), issues_of (by decide +kernel), issues_of (by decide +kernel),
   issues_of (by decide +kernel), issues_of (by decide +kernel), issues_of (by decide +kernel),
   issues_of (by decide +kernel), releaseDone_of (by decide +kernel), issues_of (by decide +kernel),
   releaseDone_of (by decide +kernel), issues_of (by decide +kernel), issues_of (by decide +kernel),
   issues_of (by decide +kernel), issues_of (by decide +kernel), by decide +kernel⟩
theorem test_hyp_ExcuseAndHalt :
    -- 1.1
    Issues (at7 (grpExc 0 1)) 7 (grpExc 0 1) 579 ftb ∧
    -- 2.1
    Issues (at7 (grpExc 5376 0)) 7 (grpExc 5376 0) 580 ftb ∧
    -- 2.2.2
    Issues (at7 (grpExc 0 1)) 7 (grpExc 0 1) 580 ftb ∧
    -- 1.2.1
    Issues (at9 tadKey) 9 tadKey 579 ftb ∧
    -- 1.2.2.1
    Issues (withObj (at7 (grpExc 0 0)) obj1) 7 (grpExc 0 0) 579 ftb ∧
    -- 1.2.2.2
    Issues (withObj (at7 (grpExc 1 0)) obj1) 7 (grpExc 1 0) 579 ftb ∧
    -- 2.2.1
    Issues (at9 tadKey) 9 tadKey 580 ftb ∧
    -- 1.1
    (grpExc 0 1).live ftb ≠ 0 ∧
    (5375 < BitVec.toNat (uniVal (at7 (grpExc 0 1)) 7 (grpExc 0 1) ftb.a.toNat) ∨ ¬(BitVec.toNat (uniVal (at7 (grpExc 0 1)) 7 (grpExc 0 1)
      ftb.b.toNat) % 2 ^ 16 = ((at7 (grpExc 0 1)).ctx (grpExc 0 1).ctx).key ∨ (grpExc 0 1).ctx = 0)) ∧
    -- 2.1
    (grpExc 5376 0).live ftb ≠ 0 ∧
    (¬(BitVec.toNat (uniVal (at7 (grpExc 5376 0)) 7 (grpExc 5376 0) ftb.a.toNat) % 2 ^ 16 = ((at7 (grpExc 5376 0)).ctx (grpExc 5376 0).ctx).key ∨
      (grpExc 5376 0).ctx = 0)) ∧
    -- 2.2.2
    (BitVec.toNat (uniVal (at7 (grpExc 0 1)) 7 (grpExc 0 1) ftb.a.toNat) % 2 ^ 16 = ((at7 (grpExc 0 1)).ctx (grpExc 0 1).ctx).key ∨ (grpExc 0
      1).ctx = 0) ∧
    partCtxs (at7 (grpExc 0 1)) (BitVec.toNat (uniVal (at7 (grpExc 0 1)) 7 (grpExc 0 1) ftb.a.toNat) % 2 ^ 16) ≠ [] ∧
    -- 1.2.1
    tadKey.live ftb ≠ 0 ∧
    (BitVec.toNat (uniVal (at9 tadKey) 9 tadKey ftb.b.toNat) % 2 ^ 16 = ((at9 tadKey).ctx tadKey.ctx).key ∨ tadKey.ctx = 0) ∧
    BitVec.toNat (uniVal (at9 tadKey) 9 tadKey ftb.a.toNat) ≤ 5375 ∧
    (((at9 tadKey).part (BitVec.toNat (uniVal (at9 tadKey) 9 tadKey ftb.b.toNat) % 2 ^ 16)).obj (Forms.ex ftb 5 0)).maskBit (BitVec.toNat (uniVal
      (at9 tadKey) 9 tadKey ftb.a.toNat)) = false ∧
    -- 1.2.2.1
    (grpExc 0 0).live ftb ≠ 0 ∧
    (BitVec.toNat (uniVal (withObj (at7 (grpExc 0 0)) obj1) 7 (grpExc 0 0) ftb.b.toNat) % 2 ^ 16 = ((withObj (at7 (grpExc 0 0)) obj1).ctx (grpExc
      0 0).ctx).key ∨ (grpExc 0 0).ctx = 0) ∧
    BitVec.toNat (uniVal (withObj (at7 (grpExc 0 0)) obj1) 7 (grpExc 0 0) ftb.a.toNat) ≤ 5375 ∧
    (((withObj (at7 (grpExc 0 0)) obj1).part (BitVec.toNat (uniVal (withObj (at7 (grpExc 0 0)) obj1) 7 (grpExc 0 0) ftb.b.toNat) % 2 ^ 16)).obj
      (Forms.ex ftb 5 0)).maskBit (BitVec.toNat (uniVal (withObj (at7 (grpExc 0 0)) obj1) 7 (grpExc 0 0) ftb.a.toNat)) = true ∧
    holdsParticipant (withObj (at7 (grpExc 0 0)) obj1) (((withObj (at7 (grpExc 0 0)) obj1).part (BitVec.toNat (uniVal (withObj (at7 (grpExc 0 0))
      obj1) 7 (grpExc 0 0) ftb.b.toNat) % 2 ^ 16)).obj (Forms.ex ftb 5 0)) (BitVec.toNat (uniVal (withObj (at7 (grpExc 0 0)) obj1) 7 (grpExc 0 0)
      ftb.a.toNat)) = true ∧
    -- 1.2.2.2
    (grpExc 1 0).live ftb ≠ 0 ∧
    (BitVec.toNat (uniVal (withObj (at7 (grpExc 1 0)) obj1) 7 (grpExc 1 0) ftb.b.toNat) % 2 ^ 16 = ((withObj (at7 (grpExc 1 0)) obj1).ctx (grpExc
      1 0).ctx).key ∨ (grpExc 1 0).ctx = 0) ∧
    BitVec.toNat (uniVal (withObj (at7 (grpExc 1 0)) obj1) 7 (grpExc 1 0) ftb.a.toNat) ≤ 5375 ∧
    (((withObj (at7 (grpExc 1 0)) obj1).part (BitVec.toNat (uniVal (withObj (at7 (grpExc 1 0)) obj1) 7 (grpExc 1 0) ftb.b.toNat) % 2 ^ 16)).obj
      (Forms.ex ftb 5 0)).maskBit (BitVec.toNat (uniVal (withObj (at7 (grpExc 1 0)) obj1) 7 (grpExc 1 0) ftb.a.toNat)) = true ∧
    holdsParticipant (withObj (at7 (grpExc 1 0)) obj1) (((withObj (at7 (grpExc 1 0)) obj1).part (BitVec.toNat (uniVal (withObj (at7 (grpExc 1 0))
      obj1) 7 (grpExc 1 0) ftb.b.toNat) % 2 ^ 16)).obj (Forms.ex ftb 5 0)) (BitVec.toNat (uniVal (withObj (at7 (grpExc 1 0)) obj1) 7 (grpExc 1 0)
      ftb.a.toNat)) = false ∧
    -- 2.2.1
    (BitVec.toNat (uniVal (at9 tadKey) 9 tadKey ftb.a.toNat) % 2 ^ 16 = ((at9 tadKey).ctx tadKey.ctx).key ∨ tadKey.ctx = 0) ∧
    partCtxs (at9 tadKey) (BitVec.toNat (uniVal (at9 tadKey) 9 tadKey ftb.a.toNat) % 2 ^ 16) = [] :=
  ⟨issues_of (by decide +kernel), issues_of (by decide +kernel), issues_of (by decide +kernel),
   issues_of (by decide +kernel), issues_of (by decide +kernel), issues_of (by decide +kernel),
   issues_of (by decide +kernel), by decide +kernel⟩
theorem test_hyp_DeviceLaunchIsBuffered :
    -- 1
    Issues (at7 (grpLau 63)) 7 (grpLau 63) 640 fph ∧
    -- 2.1
    Issues (at7 (grpLau 144115188075855872)) 7 (grpLau 144115188075855872) 640 fph ∧
    -- 2.2.1
    Issues (at7 (grpLau 144115188075855808)) 7 (grpLau 144115188075855808) 640 fph ∧
    ReleaseDone fph (at7 (grpLau 144115188075855808)) (grpLau 144115188075855808) ∧
    -- 2.2.2
    Issues (withCtx (at7 (grpLau 64)) ctxFull) 7 (grpLau 64) 640 fph ∧
    ReleaseDone fph (withCtx (at7 (grpLau 64)) ctxFull) (grpLau 64) ∧
    -- 1
    (grpLau 63).eff fph ≠ 0 ∧
    (grpLau 63).stepping = 0 ∧
    BitVec.toNat (uniVal (at7 (grpLau 63)) 7 (grpLau 63) fph.a.toNat) % 64 ≠ 0 ∧
    -- 2.1
    (grpLau 144115188075855872).eff fph ≠ 0 ∧
    (grpLau 144115188075855872).stepping = 0 ∧
    BitVec.toNat (uniVal (at7 (grpLau 144115188075855872)) 7 (grpLau 144115188075855872) fph.a.toNat) % 64 = 0 ∧
    2 ^ 57 ≤ BitVec.toNat (uniVal (at7 (grpLau 144115188075855872)) 7 (grpLau 144115188075855872) fph.a.toNat) ∧
    -- 2.2.1
    (grpLau 144115188075855808).eff fph ≠ 0 ∧
    (grpLau 144115188075855808).stepping = 0 ∧
    BitVec.toNat (uniVal (at7 (grpLau 144115188075855808)) 7 (grpLau 144115188075855808) fph.a.toNat) % 64 = 0 ∧
    BitVec.toNat (uniVal (at7 (grpLau 144115188075855808)) 7 (grpLau 144115188075855808) fph.a.toNat) < 2 ^ 57 ∧
    ((at7 (grpLau 144115188075855808)).ctx (grpLau 144115188075855808).ctx).devBuf.length < 256 ∧
    -- 2.2.2
    (grpLau 64).eff fph ≠ 0 ∧
    (grpLau 64).stepping = 0 ∧
    BitVec.toNat (uniVal (withCtx (at7 (grpLau 64)) ctxFull) 7 (grpLau 64) fph.a.toNat) % 64 = 0 ∧
    BitVec.toNat (uniVal (withCtx (at7 (grpLau 64)) ctxFull) 7 (grpLau 64) fph.a.toNat) < 2 ^ 57 ∧
    256 ≤ ((withCtx (at7 (grpLau 64)) ctxFull).ctx (grpLau 64).ctx).devBuf.length :=
  ⟨issues_of (by decide +kernel), issues_of (by decide +kernel), issues_of (by decide +kernel),
   releaseDone_of (by decide +kernel), issues_of (by decide +kernel), releaseDone_of (by decide +kernel), by decide +kernel⟩
theorem test_hyp_QueueTokens :
    -- 2.1
    Issues (withTok (at7 (grpTok 5))) 7 (grpTok 5) 641 fph ∧
    -- 2.2.2.1
    Issues (withTok (at7 grpTokSt)) 7 grpTokSt 641 fph ∧
    -- 1.1
    Issues (withTok (at7 (grpTok 4101))) 7 (grpTok 4101) 641 fph ∧
    -- 2.1
    (grpTok 5).live fph ≠ 0 ∧
    (grpTok 5).eff fph ≠ 0 ∧
    BitVec.toNat (uniVal (withTok (at7 (grpTok 5))) 7 (grpTok 5) fph.a.toNat) / 2 ^ 12 % 2 ^ 20 = 0 ∧
    (((grpTok 5).log.any fun e => isStore e.opc || isAtomic e.opc) = false) ∧
    -- 2.2.2.1
    grpTokSt.live fph ≠ 0 ∧
    grpTokSt.eff fph ≠ 0 ∧
    BitVec.toNat (uniVal (withTok (at7 grpTokSt)) 7 grpTokSt fph.a.toNat) / 2 ^ 12 % 2 ^ 20 = 0 ∧
    -- 2.2.1
    ((grpTokSt.log.any fun e => isStore e.opc || isAtomic e.opc) = true) ∧
    -- 1.1
    (grpTok 4101).live fph ≠ 0 ∧
    (grpTok 4101).eff fph ≠ 0 ∧
    (¬BitVec.toNat (uniVal (withTok (at7 (grpTok 4101))) 7 (grpTok 4101) fph.a.toNat) / 2 ^ 12 % 2 ^ 20 = 0) :=
  ⟨issues_of (by decide +kernel), issues_of (by decide +kernel), issues_of (by decide +kernel), by decide +kernel⟩
theorem test_hyp_WorkLists :
    -- 1.1
    Issues (withWork (at7 grpWl) objTheirs) 7 grpWl 642 fph ∧
    -- 1.2.1
    Issues (withWork (at7 grpWl) objTheirs) 7 grpWl 643 fph ∧
    -- 1.2.2
    Issues (withWork (at7 grpWl) objTheirs) 7 grpWl 644 fph ∧
    -- 2.1
    Issues (withWork (at7 grpWlBad) obj3) 7 grpWlBad 642 fph ∧
    -- 2.2.1
    Issues (withWork (at7 grpWl) obj3) 7 grpWl 642 fph ∧
    ReleaseDone fph (withWork (at7 grpWl) obj3) grpWl ∧
    -- 2.2.2.1
    Issues (withWork (at7 grpWl) obj3) 7 grpWl 643 fph ∧
    -- 2.2.2.2.1
    Issues (withWork (at7 grpWl) objDone) 7 grpWl 643 fph ∧
    -- 2.2.2.2.2.1
    Issues (withWork (at7 grpWl) objEmpty) 7 grpWl 643 fph ∧
    -- 2.2.2.2.2.2
    Issues (withWork (at7 grpWl) obj3) 7 grpWl 644 fph ∧
    -- 1.1
    grpWl.live fph ≠ 0 ∧
    grpWl.eff fph ≠ 0 ∧
    grpWl.stepping = 0 ∧
    nget (withWork (at7 grpWl) objTheirs).lch grpWl.launch = some lch3 ∧
    (Option.any (fun o => decide (o.launch ≠ grpWl.launch) && (nget (withWork (at7 grpWl) objTheirs).lch o.launch).isSome) (nget ((withWork (at7
      grpWl) objTheirs).ctx grpWl.ctx).objs (Forms.ex fph 3 0)) = true) ∧
    -- 2.1
    grpWlBad.live fph ≠ 0 ∧
    grpWlBad.eff fph ≠ 0 ∧
    grpWlBad.stepping = 0 ∧
    nget (withWork (at7 grpWlBad) obj3).lch grpWlBad.launch = some lch3 ∧
    (Option.any (fun o => decide (o.launch ≠ grpWlBad.launch) && (nget (withWork (at7 grpWlBad) obj3).lch o.launch).isSome) (nget ((withWork (at7
      grpWlBad) obj3).ctx grpWlBad.ctx).objs (Forms.ex fph 3 0)) = false) ∧
    lch3.clusters ≤ BitVec.toNat (uniVal (withWork (at7 grpWlBad) obj3) 7 grpWlBad fph.a.toNat) % 2 ^ 32 ∧
    -- 2.2.1
    nget (withWork (at7 grpWl) obj3).lch grpWl.launch = some lch3 ∧
    (Option.any (fun o => decide (o.launch ≠ grpWl.launch) && (nget (withWork (at7 grpWl) obj3).lch o.launch).isSome) (nget ((withWork (at7 grpWl)
      obj3).ctx grpWl.ctx).objs (Forms.ex fph 3 0)) = false) ∧
    BitVec.toNat (uniVal (withWork (at7 grpWl) obj3) 7 grpWl fph.a.toNat) % 2 ^ 32 < lch3.clusters ∧
    -- 2.2.2.1
    (ngetD ((Option.filter (fun o => decide (o.launch = grpWl.launch)) (nget ((withWork (at7 grpWl) obj3).ctx grpWl.ctx).objs (Forms.ex fph 3 0))).getD { launch := grpWl.launch, lists := [], ops := 0, waves := 0, snap := 0, done := false }).lists ((withWork (at7 grpWl) obj3).clidOf grpWl) [] = [11, 12]) ∧
    -- 2.2.2.2.1
    nget (withWork (at7 grpWl) objDone).lch grpWl.launch = some lch3 ∧
    (Option.any (fun o => decide (o.launch ≠ grpWl.launch) && (nget (withWork (at7 grpWl) objDone).lch o.launch).isSome) (nget ((withWork (at7
      grpWl) objDone).ctx grpWl.ctx).objs (Forms.ex fph 3 0)) = false) ∧
    (ngetD ((Option.filter (fun o => decide (o.launch = grpWl.launch)) (nget ((withWork (at7 grpWl) objDone).ctx grpWl.ctx).objs (Forms.ex fph 3 0))).getD { launch := grpWl.launch, lists := [], ops := 0, waves := 0, snap := 0, done := false }).lists ((withWork (at7 grpWl) objDone).clidOf grpWl) [] = []) ∧
    (((Option.filter (fun o => decide (o.launch = grpWl.launch)) (nget ((withWork (at7 grpWl) objDone).ctx grpWl.ctx).objs (Forms.ex fph 3 0))).getD { launch := grpWl.launch, lists := [], ops := 0, waves := 0, snap := 0, done := false }).done = true) ∧
    -- 2.2.2.2.2.1
    nget (withWork (at7 grpWl) objEmpty).lch grpWl.launch = some lch3 ∧
    (Option.any (fun o => decide (o.launch ≠ grpWl.launch) && (nget (withWork (at7 grpWl) objEmpty).lch o.launch).isSome) (nget ((withWork (at7
      grpWl) objEmpty).ctx grpWl.ctx).objs (Forms.ex fph 3 0)) = false) ∧
    (ngetD ((Option.filter (fun o => decide (o.launch = grpWl.launch)) (nget ((withWork (at7 grpWl) objEmpty).ctx grpWl.ctx).objs (Forms.ex fph 3 0))).getD { launch := grpWl.launch, lists := [], ops := 0, waves := 0, snap := 0, done := false }).lists ((withWork (at7 grpWl) objEmpty).clidOf grpWl) [] = []) ∧
    (((Option.filter (fun o => decide (o.launch = grpWl.launch)) (nget ((withWork (at7 grpWl) objEmpty).ctx grpWl.ctx).objs (Forms.ex fph 3 0))).getD { launch := grpWl.launch, lists := [], ops := 0, waves := 0, snap := 0, done := false }).done = false) :=
  ⟨issues_of (by decide +kernel), issues_of (by decide +kernel), issues_of (by decide +kernel),
   issues_of (by decide +kernel), issues_of (by decide +kernel), releaseDone_of (by decide +kernel),
   issues_of (by decide +kernel), issues_of (by decide +kernel), issues_of (by decide +kernel),
   issues_of (by decide +kernel), by decide +kernel⟩
theorem test_hyp_CapabilityChecks :
    -- 2.2.1.1
    findCap (atZ (tadC capZ 0) grpZ) (tadC capZ 0) (uniVal (atZ (tadC capZ 0) grpZ) 9 (tadC capZ 0) ftad.a.toNat) = Except.ok (7, grpZ) ∧
    -- 2.2.2
    Issues (atZ (tadC 1 0) grpZ) 9 (tadC 1 0) 713 ftad ∧
    -- 1
    findCap (atZ (tadC 1 0) grpZ) (tadC 1 0) (uniVal (atZ (tadC 1 0) grpZ) 9 (tadC 1 0) ftad.a.toNat) = Except.error 1 ∧
    Issues (atZ (tadC 1 0) grpZ) 9 (tadC 1 0) 704 ftad ∧
    -- 2.2.1.1
    (tadC capZ 0).isGroup = false ∧
    (tadC capZ 0).live ftad ≠ 0 ∧
    -- 2.2.2
    (tadC 1 0).isGroup = false ∧
    (tadC 1 0).live ftad ≠ 0 ∧
    -- 2.1
    BitVec.toNat (uniVal (atZ (tadC 1 0) grpZ) 9 (tadC 1 0) ftad.a.toNat) % 2 ^ 16 ≠ 0 :=
  ⟨ok_of (by decide +kernel), issues_of (by decide +kernel), error_of (by decide +kernel), issues_of (by decide +kernel),
   by decide +kernel⟩
theorem test_hyp_FrozenGroupsAreListed :
    -- 1
    Issues (atZ (tadSel 0) grpZ) 9 (tadSel 0) 713 ftad ∧
    -- 2.1
    Issues (atZ (tadSel 1) grpZ) 9 (tadSel 1) 713 ftad ∧
    -- 1
    (tadSel 0).live ftad ≠ 0 ∧
    ((frozenGroups (atZ (tadSel 0) grpZ) (if (tadSel 0).ctx = 0 then (tadSel 0).pselCtx else (tadSel 0).ctx))[if ftad.xk = true then ftad.x.toNat
      else BitVec.toNat (uniVal (atZ (tadSel 0) grpZ) 9 (tadSel 0) ftad.a.toNat)]? = some grpZ) ∧
    -- 2.1
    (tadSel 1).live ftad ≠ 0 ∧
    ((frozenGroups (atZ (tadSel 1) grpZ) (if (tadSel 1).ctx = 0 then (tadSel 1).pselCtx else (tadSel 1).ctx)).length ≤ if ftad.xk = true then
      ftad.x.toNat else BitVec.toNat (uniVal (atZ (tadSel 1) grpZ) 9 (tadSel 1) ftad.a.toNat)) :=
  ⟨issues_of (by decide +kernel), issues_of (by decide +kernel), by decide +kernel⟩
theorem test_hyp_FrozenStateIsReadAndPatched :
    -- 1
    findCap (atZ (tadC capZ 320) grpZ) (tadC capZ 320) (uniVal (atZ (tadC capZ 320) grpZ) 9 (tadC capZ 320) ftad.a.toNat) = Except.ok (7, grpZ) ∧
    Issues (atZ (tadC capZ 320) grpZ) 9 (tadC capZ 320) 704 ftad ∧
    -- 2.1
    findCap (atZ (tadC capZ 319) grpZb) (tadC capZ 319) (uniVal (atZ (tadC capZ 319) grpZb) 9 (tadC capZ 319) ftad.a.toNat) = Except.ok (7, grpZb) ∧
    Issues (atZ (tadC capZ 319) grpZb) 9 (tadC capZ 319) 704 ftad ∧
    -- 2.2.2.1
    findCap (atZ (tadC capZ 512) grpZ) (tadC capZ 512) (uniVal (atZ (tadC capZ 512) grpZ) 9 (tadC capZ 512) ftad.a.toNat) = Except.ok (7, grpZ) ∧
    Issues (atZ (tadC capZ 512) grpZ) 9 (tadC capZ 512) 704 ftad ∧
    -- 2.2.2.2.1
    findCap (atZ (tadC capZ 400) grpZ) (tadC capZ 400) (uniVal (atZ (tadC capZ 400) grpZ) 9 (tadC capZ 400) ftad.a.toNat) = Except.ok (7, grpZ) ∧
    Issues (atZ (tadC capZ 400) grpZ) 9 (tadC capZ 400) 704 ftad ∧
    -- 2.2.2.2.2.1
    Issues (atZ (tadC capZ 320) grpZ) 9 (tadC capZ 320) 705 ftad ∧
    -- 2.2.2.2.2.2.1
    Issues (atZ (tadC capZ 319) grpZb) 9 (tadC capZ 319) 705 ftad ∧
    -- 2.2.2.2.2.2.2.1
    findCap (atZ (tadC capZ 2031618) grpZ) (tadC capZ 2031618) (uniVal (atZ (tadC capZ 2031618) grpZ) 9 (tadC capZ 2031618) ftad.a.toNat) =
      Except.ok (7, grpZ) ∧
    Issues (atZ (tadC capZ 2031618) grpZ) 9 (tadC capZ 2031618) 705 ftad ∧
    -- 2.2.2.2.2.2.2.2.1
    Issues (atZ (tadC capZ 320) grpZ) 9 (tadC capZ 320) 706 ftad ∧
    -- 2.2.2.2.2.2.2.2.2.1
    findCap (atZ (tadC capZ 383) grpZ) (tadC capZ 383) (uniVal (atZ (tadC capZ 383) grpZ) 9 (tadC capZ 383) ftad.a.toNat) = Except.ok (7, grpZ) ∧
    Issues (atZ (tadC capZ 383) grpZ) 9 (tadC capZ 383) 706 ftad ∧
    -- 2.2.2.2.2.2.2.2.2.2.1
    findCap (atZ (tadC capZ 18302628885633695744) grpZ) (tadC capZ 18302628885633695744) (uniVal (atZ (tadC capZ 18302628885633695744) grpZ) 9
      (tadC capZ 18302628885633695744) ftad.a.toNat) = Except.ok (7, grpZ) ∧
    Issues (atZ (tadC capZ 18302628885633695744) grpZ) 9 (tadC capZ 18302628885633695744) 706 ftad ∧
    -- 2.2.2.2.2.2.2.2.2.2.2.1
    Issues (atZ (tadC capZ 400) grpZ) 9 (tadC capZ 400) 705 ftad ∧
    -- 2.2.2.2.2.2.2.2.2.2.2.2.1
    Issues (atZ (tadC capZ 512) grpZ) 9 (tadC capZ 512) 705 ftad ∧
    -- 2.2.2.2.2.2.2.2.2.2.2.2.2.1
    Issues (atZ (tadC capZ 320) grpZ) 9 (tadC capZ 320) 707 ftad ∧
    -- 2.2.2.2.2.2.2.2.2.2.2.2.2.2
    Issues (atZ (tadC capZ 320) grpZ) 9 (tadC capZ 320) 709 ftad ∧
    (
    -- 1
    (tadC capZ 320).isGroup = false ∧
    (tadC capZ 320).live ftad ≠ 0 ∧
    7 ≠ 9 ∧
    (atZ (tadC capZ 320) grpZ).thread 7 = some grpZ ∧
    grpZ.stepping = 0 ∧
    (selOk ((if ftad.xk = true then BitVec.setWidth 64 ftad.x else uniVal (atZ (tadC capZ 320) grpZ) 9 (tadC capZ 320) ftad.b.toNat).toNat % 2 ^
      32) = true) ∧
    -- 2.1
    (tadC capZ 319).isGroup = false ∧
    (tadC capZ 319).live ftad ≠ 0 ∧
    (atZ (tadC capZ 319) grpZb).thread 7 = some grpZb ∧
    grpZb.stepping = 0 ∧
    (selOk ((if ftad.xk = true then BitVec.setWidth 64 ftad.x else uniVal (atZ (tadC capZ 319) grpZb) 9 (tadC capZ 319) ftad.b.toNat).toNat % 2 ^
      32) = true) ∧
    ((if ftad.xk = true then BitVec.setWidth 64 ftad.x else uniVal (atZ (tadC capZ 319) grpZb) 9 (tadC capZ 319) ftad.b.toNat).toNat % 2 ^ 16 <
      320) ∧
    -- 2.2.1
    (320 ≤ (if ftad.xk = true then BitVec.setWidth 64 ftad.x else uniVal (atZ (tadC capZ 320) grpZ) 9 (tadC capZ 320) ftad.b.toNat).toNat % 2 ^
      16) ∧
    ((if ftad.xk = true then BitVec.setWidth 64 ftad.x else uniVal (atZ (tadC capZ 320) grpZ) 9 (tadC capZ 320) ftad.b.toNat).toNat % 2 ^ 16 <
      384) ∧
    -- 2.2.2.1
    (tadC capZ 512).isGroup = false ∧
    (tadC capZ 512).live ftad ≠ 0 ∧
    (atZ (tadC capZ 512) grpZ).thread 7 = some grpZ ∧
    (selOk ((if ftad.xk = true then BitVec.setWidth 64 ftad.x else uniVal (atZ (tadC capZ 512) grpZ) 9 (tadC capZ 512) ftad.b.toNat).toNat % 2 ^
      32) = true) ∧
    ((if ftad.xk = true then BitVec.setWidth 64 ftad.x else uniVal (atZ (tadC capZ 512) grpZ) 9 (tadC capZ 512) ftad.b.toNat).toNat % 2 ^ 16 =
      512) ∧
    -- 2.2.2.2.1
    (tadC capZ 400).isGroup = false ∧
    (tadC capZ 400).live ftad ≠ 0 ∧
    (atZ (tadC capZ 400) grpZ).thread 7 = some grpZ ∧
    (¬selOk ((if ftad.xk = true then BitVec.setWidth 64 ftad.x else uniVal (atZ (tadC capZ 400) grpZ) 9 (tadC capZ 400) ftad.b.toNat).toNat % 2 ^
      32) = true) ∧
    -- 2.2.2.2.2.2.1
    grpZb.isGroup = true ∧
    (nget grpZb.vmap ((if ftad.xk = true then BitVec.setWidth 64 ftad.x else uniVal (atZ (tadC capZ 319) grpZb) 9 (tadC capZ 319)
      ftad.b.toNat).toNat % 2 ^ 16) = none) ∧
    grpZb.budget ≤ List.length grpZb.vmap) ∧
    -- 2.2.2.2.2.2.2.1
    (tadC capZ 2031618).isGroup = false ∧
    (tadC capZ 2031618).live ftad ≠ 0 ∧
    (atZ (tadC capZ 2031618) grpZ).thread 7 = some grpZ ∧
    (selOk ((if ftad.xk = true then BitVec.setWidth 64 ftad.x else uniVal (atZ (tadC capZ 2031618) grpZ) 9 (tadC capZ 2031618) ftad.b.toNat).toNat
      % 2 ^ 32) = true) ∧
    ((if ftad.xk = true then BitVec.setWidth 64 ftad.x else uniVal (atZ (tadC capZ 2031618) grpZ) 9 (tadC capZ 2031618) ftad.b.toNat).toNat % 2 ^
      16 < 320) ∧
    ((nget grpZ.vmap ((if ftad.xk = true then BitVec.setWidth 64 ftad.x else uniVal (atZ (tadC capZ 2031618) grpZ) 9 (tadC capZ 2031618)
      ftad.b.toNat).toNat % 2 ^ 16)).isSome = true) ∧
    -- 2.2.2.2.2.2.2.2.1
    slotOk (uniVal (atZ (tadC capZ 320) grpZ) 9 (tadC capZ 320) ftad.b.toNat) = true ∧
    pcHighOk (uniVal (atZ (tadC capZ 320) grpZ) 9 (tadC capZ 320) ftad.b.toNat) = true ∧
    -- 2.2.2.2.2.2.2.2.2.1
    (tadC capZ 383).isGroup = false ∧
    (tadC capZ 383).live ftad ≠ 0 ∧
    (atZ (tadC capZ 383) grpZ).thread 7 = some grpZ ∧
    slotOk (uniVal (atZ (tadC capZ 383) grpZ) 9 (tadC capZ 383) ftad.b.toNat) = false ∧
    -- 2.2.2.2.2.2.2.2.2.2.1
    (tadC capZ 18302628885633695744).isGroup = false ∧
    (tadC capZ 18302628885633695744).live ftad ≠ 0 ∧
    (atZ (tadC capZ 18302628885633695744) grpZ).thread 7 = some grpZ ∧
    slotOk (uniVal (atZ (tadC capZ 18302628885633695744) grpZ) 9 (tadC capZ 18302628885633695744) ftad.b.toNat) = true ∧
    pcHighOk (uniVal (atZ (tadC capZ 18302628885633695744) grpZ) 9 (tadC capZ 18302628885633695744) ftad.b.toNat) = false ∧
    -- 2.2.2.2.2.2.2.2.2.2.2.2.1
    (selWritable ((if ftad.xk = true then BitVec.setWidth 64 ftad.x else uniVal (atZ (tadC capZ 512) grpZ) 9 (tadC capZ 512) ftad.b.toNat).toNat %
      2 ^ 16) = false) :=
  ⟨ok_of (by decide +kernel), issues_of (by decide +kernel), ok_of (by decide +kernel), issues_of (by decide +kernel),
   ok_of (by decide +kernel), issues_of (by decide +kernel), ok_of (by decide +kernel), issues_of (by decide +kernel),
   issues_of (by decide +kernel), issues_of (by decide +kernel), ok_of (by decide +kernel), issues_of (by decide +kernel),
   issues_of (by decide +kernel), ok_of (by decide +kernel), issues_of (by decide +kernel), ok_of (by decide +kernel),
   issues_of (by decide +kernel), issues_of (by decide +kernel), issues_of (by decide +kernel),
   issues_of (by decide +kernel), issues_of (by decide +kernel), by decide +kernel, by decide +kernel⟩
theorem test_hyp_FrozenLogIsReadAndCompleted :
    -- 1.1
    Issues (atZ (tadC capZ 0) grpZ) 9 (tadC capZ 0) 708 ftad ∧
    findCap (atZ (tadC capZ 0) grpZ) (tadC capZ 0) (uniVal (atZ (tadC capZ 0) grpZ) 9 (tadC capZ 0) ftad.a.toNat) = Except.ok (7, grpZ) ∧
    -- 2.1
    Issues (atZ (tadC capZ 0) (grpZl entF)) 9 (tadC capZ 0) 708 ftad ∧
    findCap (atZ (tadC capZ 0) (grpZl entF)) (tadC capZ 0) (uniVal (atZ (tadC capZ 0) (grpZl entF)) 9 (tadC capZ 0) ftad.a.toNat) = Except.ok (7,
      grpZl entF) ∧
    -- 2.2.2.1
    Issues (atZ (tadC capZ 0) (grpZl entF)) 9 (tadC capZ 0) 708 flogBad ∧
    findCap (atZ (tadC capZ 0) (grpZl entF)) (tadC capZ 0) (uniVal (atZ (tadC capZ 0) (grpZl entF)) 9 (tadC capZ 0) flogBad.a.toNat) = Except.ok
      (7, grpZl entF) ∧
    -- 2.2.2.2.1.1
    Issues (atZ (tadC capZ 0) (grpZl entL)) 9 (tadC capZ 0) 708 ftad ∧
    findCap (atZ (tadC capZ 0) (grpZl entL)) (tadC capZ 0) (uniVal (atZ (tadC capZ 0) (grpZl entL)) 9 (tadC capZ 0) ftad.a.toNat) = Except.ok (7,
      grpZl entL) ∧
    -- 2.2.2.2.2.1
    (∀ (c : Nat), entF.dest ≠ Dest.uniform c) ∧
    -- 1.1
    (tadC capZ 0).isGroup = false ∧
    (tadC capZ 0).live ftad ≠ 0 ∧
    7 ≠ 9 ∧
    (atZ (tadC capZ 0) grpZ).thread 7 = some grpZ ∧
    grpZ.stepping = 0 ∧
    grpZ.entryAt (BitVec.toNat (uniVal (atZ (tadC capZ 0) grpZ) 9 (tadC capZ 0) ftad.b.toNat)) = none ∧
    -- 2.1
    (atZ (tadC capZ 0) (grpZl entF)).thread 7 = some (grpZl entF) ∧
    (grpZl entF).stepping = 0 ∧
    (grpZl entF).entryAt (BitVec.toNat (uniVal (atZ (tadC capZ 0) (grpZl entF)) 9 (tadC capZ 0) ftad.b.toNat)) = some entF ∧
    -- 2.2.1
    Forms.ex ftad 13 10 < (entF.operand (Forms.ex ftad 9 8)).regs ∧
    -- 2.2.2.1
    (tadC capZ 0).live flogBad ≠ 0 ∧
    (grpZl entF).entryAt (BitVec.toNat (uniVal (atZ (tadC capZ 0) (grpZl entF)) 9 (tadC capZ 0) flogBad.b.toNat)) = some entF ∧
    (entF.operand (Forms.ex flogBad 9 8)).regs ≤ Forms.ex flogBad 13 10 ∧
    -- 2.2.2.2.1.1
    (atZ (tadC capZ 0) (grpZl entL)).thread 7 = some (grpZl entL) ∧
    (grpZl entL).stepping = 0 ∧
    (grpZl entL).entryAt (BitVec.toNat (uniVal (atZ (tadC capZ 0) (grpZl entL)) 9 (tadC capZ 0) ftad.b.toNat)) = some entL ∧
    entL.state ≠ 1 ∧
    -- 2.2.2.2.2.1
    entF.state = 1 ∧
    (grpZl entF).log = [entF] ∧
    0 = 16 * Forms.ex ftad 7 3 + Forms.ex ftad 13 10 ∧
    -- 2.2.2.2.2.2
    entF.opc = 384 ∧
    entF.todo = [] ∧
    entF.dest = Dest.none :=
  ⟨issues_of (by decide +kernel), ok_of (by decide +kernel), issues_of (by decide +kernel), ok_of (by decide +kernel),
   issues_of (by decide +kernel), ok_of (by decide +kernel), issues_of (by decide +kernel), ok_of (by decide +kernel),
   fun c h => by simp [entF, entL, ent] at h, by decide +kernel⟩
theorem test_hyp_FrozenGroupsGoOnOrEnd :
    -- 1
    findCap (atZ tadH grpZ) tadH (uniVal (atZ tadH grpZ) 9 tadH ftad.a.toNat) = Except.ok (7, grpZ) ∧
    Issues (atZ tadH grpZ) 9 tadH 711 ftad ∧
    -- 2.1
    findCap (atZ tadH grpZ) tadH (uniVal (atZ tadH grpZ) 9 tadH fhold.a.toNat) = Except.ok (7, grpZ) ∧
    Issues (atZ tadH grpZ) 9 tadH 712 fhold ∧
    -- 2.2.1
    Issues (atZ tadJob grpZ) 9 tadJob 712 fhold ∧
    -- 2.2.2.1
    Issues (atZ tadH grpZ) 9 tadH 712 ftad ∧
    -- 2.2.2.2.1
    Issues (atZ tadH grpZ) 9 tadH 714 ftad ∧
    -- 2.2.2.2.2.1
    Issues (atZ tadH grpZoff) 9 tadH 714 ftad ∧
    -- 2.2.2.2.2.2.1
    Issues (atZ tadH grpZhigh) 9 tadH 714 ftad ∧
    -- 2.2.2.2.2.2.2.1
    Issues (atZ tadH grpZ) 9 tadH 714 fhold ∧
    -- 2.2.2.2.2.2.2.2
    Issues (atZ (tadC capZ 0) grpZ) 9 (tadC capZ 0) 714 ftad ∧
    (
    -- 1
    tadH.isGroup = false ∧
    tadH.live ftad ≠ 0 ∧
    7 ≠ 9 ∧
    tadH.quiet = true ∧
    (atZ tadH grpZ).thread 7 = some grpZ ∧
    grpZ.isGroup = true ∧
    grpZ.fz = some frz ∧
    frz.tied = none ∧
    grpZ.log = [] ∧
    grpZ.aliveLanes ≠ 0 ∧
    grpZ.stepping = 0 ∧
    (∀ p ∈ (atZ tadH grpZ).thr, (p.2.fz.bind fun x => x.tied) ≠ some 7) ∧
    (atZ tadH grpZ).halting grpZ.ctx = false ∧
    -- 2.1
    tadH.live fhold ≠ 0 ∧
    Forms.mo fhold 0 0 = 1 ∧
    BitVec.getLsbD (uniVal (atZ tadH grpZ) 9 tadH fhold.a.toNat) 32 = false ∧
    (∀ p ∈ (atZ tadH grpZ).thr, p.1 = 9 → p.2 = tadH) ∧
    -- 2.2.1
    tadJob.isGroup = false ∧
    tadJob.live fhold ≠ 0 ∧
    tadJob.quiet = true ∧
    (atZ tadJob grpZ).thread 7 = some grpZ ∧
    (∀ p ∈ (atZ tadJob grpZ).thr, (p.2.fz.bind fun x => x.tied) ≠ some 7) ∧
    (atZ tadJob grpZ).halting grpZ.ctx = false ∧
    BitVec.getLsbD (uniVal (atZ tadJob grpZ) 9 tadJob fhold.a.toNat) 32 = true ∧
    BitVec.toNat (uniVal (atZ tadJob grpZ) 9 tadJob fhold.a.toNat) % 2 ^ 16 = 0 ∧
    (BitVec.toNat (uniVal (atZ tadJob grpZ) 9 tadJob fhold.a.toNat) / 2 ^ 54 = tadJob.ctx ∨ tadJob.ctx = 0) ∧
    (∀ p ∈ (atZ tadJob grpZ).thr, p.1 = 9 → p.2 = tadJob)) ∧
    (
    -- 2.2.2.1
    Forms.mo ftad 0 0 = 0 ∧
    (atZ tadH grpZ).wg grpZ.wg = some wgG7 ∧
    wgG7.killed = false ∧
    9 ∉ wgG7.groups ∧
    7 ∈ wgG7.groups ∧
    -- 2.2.2.2.1
    ownGroup (atZ tadH grpZ) tadH = some 7 ∧
    slotOk grpZ.pc = true ∧
    pcHighOk grpZ.pc = true ∧
    -- 2.2.2.2.2.1
    (atZ tadH grpZoff).thread 7 = some grpZoff ∧
    grpZoff.isGroup = true ∧
    grpZoff.fz = some frz ∧
    grpZoff.log = [] ∧
    grpZoff.aliveLanes ≠ 0 ∧
    grpZoff.stepping = 0 ∧
    (∀ p ∈ (atZ tadH grpZoff).thr, (p.2.fz.bind fun x => x.tied) ≠ some 7) ∧
    (atZ tadH grpZoff).halting grpZoff.ctx = false ∧
    ownGroup (atZ tadH grpZoff) tadH = some 7 ∧
    slotOk grpZoff.pc = false ∧
    -- 2.2.2.2.2.2.1
    (atZ tadH grpZhigh).thread 7 = some grpZhigh ∧
    grpZhigh.isGroup = true ∧
    grpZhigh.fz = some frz ∧
    grpZhigh.log = [] ∧
    grpZhigh.aliveLanes ≠ 0 ∧
    grpZhigh.stepping = 0 ∧
    (∀ p ∈ (atZ tadH grpZhigh).thr, (p.2.fz.bind fun x => x.tied) ≠ some 7) ∧
    (atZ tadH grpZhigh).halting grpZhigh.ctx = false ∧
    ownGroup (atZ tadH grpZhigh) tadH = some 7 ∧
    slotOk grpZhigh.pc = true ∧
    pcHighOk grpZhigh.pc = false) ∧
    -- 2.2.2.2.2.2.2.2
    (tadC capZ 0).isGroup = false ∧
    (tadC capZ 0).live ftad ≠ 0 ∧
    (tadC capZ 0).quiet = true ∧
    (atZ (tadC capZ 0) grpZ).thread 7 = some grpZ ∧
    (∀ p ∈ (atZ (tadC capZ 0) grpZ).thr, (p.2.fz.bind fun x => x.tied) ≠ some 7) ∧
    (atZ (tadC capZ 0) grpZ).halting grpZ.ctx = false ∧
    ownGroup (atZ (tadC capZ 0) grpZ) (tadC capZ 0) = none :=
  ⟨ok_of (by decide +kernel), issues_of (by decide +kernel), ok_of (by decide +kernel), issues_of (by decide +kernel),
   issues_of (by decide +kernel), issues_of (by decide +kernel), issues_of (by decide +kernel),
   issues_of (by decide +kernel), issues_of (by decide +kernel), issues_of (by decide +kernel),
   issues_of (by decide +kernel), by decide +kernel, by decide +kernel, by decide +kernel⟩
theorem test_hyp_SingleStep :
    -- 1
    Issues (atZ (tadC capZ 0) grpZ) 9 (tadC capZ 0) 710 ftad ∧
    findCap (atZ (tadC capZ 0) grpZ) (tadC capZ 0) (uniVal (atZ (tadC capZ 0) grpZ) 9 (tadC capZ 0) ftad.a.toNat) = Except.ok (7, grpZ) ∧
    -- 2.1
    Issues (atZ (tadC capZ 0) (grpStep 1)) 9 (tadC capZ 0) 710 ftad ∧
    findCap (atZ (tadC capZ 0) (grpStep 1)) (tadC capZ 0) (uniVal (atZ (tadC capZ 0) (grpStep 1)) 9 (tadC capZ 0) ftad.a.toNat) = Except.ok (7,
      grpStep 1) ∧
    (
    -- 1
    (tadC capZ 0).isGroup = false ∧
    7 ≠ 9 ∧
    (atZ (tadC capZ 0) grpZ).thread 7 = some grpZ ∧
    grpZ.fz = some frz ∧
    grpZ.place = Place.active ∧
    grpZ.log = [] ∧
    stepOpen (atZ (tadC capZ 0) grpZ) 7 = false ∧
    (tadC capZ 0).live ftad ≠ 0 ∧
    (tadC capZ 0).quiet = true ∧
    grpZ.stepping = 0 ∧
    -- 2.1
    (atZ (tadC capZ 0) (grpStep 1)).thread 7 = some (grpStep 1) ∧
    (grpStep 1).fz = some frz ∧
    (grpStep 1).place = Place.active ∧
    (grpStep 1).log = [] ∧
    stepOpen (atZ (tadC capZ 0) (grpStep 1)) 7 = false ∧
    (grpStep 1).stepping ≠ 0 ∧
    -- 2.2.1
    (tadStep stepWait).isGroup = false ∧
    (atZ (tadStep stepWait) (grpStep 4)).thread 7 = some (grpStep 4) ∧
    (grpStep 4).fz = some frz ∧
    (grpStep 4).place = Place.active ∧
    (grpStep 4).log = [] ∧
    stepOpen (atZ (tadStep stepWait) (grpStep 4)) 7 = false ∧
    (atZ (tadStep stepWait) (grpStep 4)).env.cur = some 9 ∧
    (atZ (tadStep stepWait) (grpStep 4)).thread 9 = some (tadStep stepWait) ∧
    ready (atZ (tadStep stepWait) (grpStep 4)) 9 (tadStep stepWait) 710 ftad = true ∧
    (tadStep stepWait).blk = some blkA ∧
    blkA.val = 7 ∧
    blkA.stage = stepWait ∧
    (grpStep 4).stepping = 4) ∧
    -- 2.2.2.1
    (tadStep stepRun).isGroup = false ∧
    stepLate.thread 7 = some (grpStep 1) ∧
    stepOpen stepLate 7 = false ∧
    stepLate.env.cur = some 9 ∧
    stepLate.thread 9 = some (tadStep stepRun) ∧
    ready stepLate 9 (tadStep stepRun) 710 ftad = true ∧
    (tadStep stepRun).blk = some blkB ∧
    blkB.val = 7 ∧
    blkB.stage = stepRun ∧
    (grpStep 1).stepping = 1 ∧
    (grpStep 1).stepSince + 2 ^ 20 ≤ stepLate.cyc ∧
    -- 2.2.2.2
    (atZ (tadStep stepRun) (grpStep 2)).thread 7 = some (grpStep 2) ∧
    (grpStep 2).fz = some frz ∧
    (grpStep 2).place = Place.active ∧
    (grpStep 2).log = [] ∧
    stepOpen (atZ (tadStep stepRun) (grpStep 2)) 7 = false ∧
    (atZ (tadStep stepRun) (grpStep 2)).env.cur = some 9 ∧
    (atZ (tadStep stepRun) (grpStep 2)).thread 9 = some (tadStep stepRun) ∧
    ready (atZ (tadStep stepRun) (grpStep 2)) 9 (tadStep stepRun) 710 ftad = true ∧
    (grpStep 2).stepping = 2 :=
  ⟨issues_of (by decide +kernel), ok_of (by decide +kernel), issues_of (by decide +kernel), ok_of (by decide +kernel),
   by decide +kernel, by decide +kernel⟩
theorem test_hyp_ModuleRegistersByTadpoles :
    -- 1
    Issues (at9 (tadR 262217 7)) 9 (tadR 262217 7) 768 ftad ∧
    -- 2.1
    Issues (at9 (tadR 262217 7)) 9 (tadR 262217 7) 769 ftad ∧
    -- 2.2.1
    Issues (at9 (tadR 262216 7)) 9 (tadR 262216 7) 768 ftad ∧
    -- 2.2.2.1
    Issues (at9 (tadR1 262216 7)) 9 (tadR1 262216 7) 769 ftad ∧
    -- 2.2.2.2
    Issues (at9 (tadR 262216 7)) 9 (tadR 262216 7) 769 ftad ∧
    -- 1
    (tadR 262217 7).live ftad ≠ 0 ∧
    1 < 1024 ∧
    ((if ftad.xk = true then ftad.x.toNat else BitVec.toNat (uniVal (at9 (tadR 262217 7)) 9 (tadR 262217 7) ftad.a.toNat)) % 8 ≠ 0) ∧
    -- 2.1
    BitVec.toNat (uniVal (at9 (tadR 262217 7)) 9 (tadR 262217 7) ftad.a.toNat) % 8 ≠ 0 ∧
    -- 2.2.1
    (tadR 262216 7).live ftad ≠ 0 ∧
    ((if ftad.xk = true then ftad.x.toNat else BitVec.toNat (uniVal (at9 (tadR 262216 7)) 9 (tadR 262216 7) ftad.a.toNat)) = 262144 + 64 * 1 +
      contextRegisters[0].1) ∧
    -- 2.2.2.1
    (tadR1 262216 7).live ftad ≠ 0 ∧
    BitVec.toNat (uniVal (at9 (tadR1 262216 7)) 9 (tadR1 262216 7) ftad.a.toNat) = 262144 + 64 * 1 + contextRegisters[0].1 ∧
    (tadR1 262216 7).ctx ≠ 0 ∧
    -- 2.2.2.2
    BitVec.toNat (uniVal (at9 (tadR 262216 7)) 9 (tadR 262216 7) ftad.a.toNat) = 262144 + 64 * 1 + contextRegisters[0].1 ∧
    (tadR 262216 7).ctx = 0 :=
  ⟨issues_of (by decide +kernel), issues_of (by decide +kernel), issues_of (by decide +kernel),
   issues_of (by decide +kernel), issues_of (by decide +kernel), by decide +kernel⟩
theorem test_hyp_LookasideInvalidation :
    -- 1
    Issues (withRlb (at9 (tadR 12289 4096))) 9 (tadR 12289 4096) 770 ftad ∧
    -- 2.1
    Issues (withRlb (at9 (tadR 12288 144115188075855872))) 9 (tadR 12288 144115188075855872) 770 ftad ∧
    -- 2.2.1
    Issues (withRlb (at9 (tadR 12288 0))) 9 (tadR 12288 0) 770 ftad ∧
    -- 2.2.2.1
    Issues (withRlb (at9 (tadR 12288 4096))) 9 (tadR 12288 4096) 770 ftad ∧
    -- 2.2.2.2
    Issues (flying (tadR 12288 4096)) 9 (tadR 12288 4096) 770 ftad ∧
    -- 1
    (tadR 12289 4096).live ftad ≠ 0 ∧
    ((if Forms.mo ftad 0 0 = 1 then 0 else BitVec.toNat (uniVal (withRlb (at9 (tadR 12289 4096))) 9 (tadR 12289 4096) ftad.a.toNat)) % 4096 ≠ 0 ∨
      (if Forms.mo ftad 0 0 = 1 then 2 ^ 57 else BitVec.toNat (uniVal (withRlb (at9 (tadR 12289 4096))) 9 (tadR 12289 4096) ftad.b.toNat)) % 4096
      ≠ 0) ∧
    -- 2.1
    (tadR 12288 144115188075855872).live ftad ≠ 0 ∧
    ((if Forms.mo ftad 0 0 = 1 then 0 else BitVec.toNat (uniVal (withRlb (at9 (tadR 12288 144115188075855872))) 9 (tadR 12288 144115188075855872)
      ftad.a.toNat)) % 4096 = 0) ∧
    ((if Forms.mo ftad 0 0 = 1 then 2 ^ 57 else BitVec.toNat (uniVal (withRlb (at9 (tadR 12288 144115188075855872))) 9 (tadR 12288
      144115188075855872) ftad.b.toNat)) % 4096 = 0) ∧
    (2 ^ 57 < (if Forms.mo ftad 0 0 = 1 then 0 else BitVec.toNat (uniVal (withRlb (at9 (tadR 12288 144115188075855872))) 9 (tadR 12288
      144115188075855872) ftad.a.toNat)) + if Forms.mo ftad 0 0 = 1 then 2 ^ 57 else BitVec.toNat (uniVal (withRlb (at9 (tadR 12288
      144115188075855872))) 9 (tadR 12288 144115188075855872) ftad.b.toNat)) ∧
    -- 2.2.1
    (tadR 12288 0).live ftad ≠ 0 ∧
    ((if Forms.mo ftad 0 0 = 1 then 0 else BitVec.toNat (uniVal (withRlb (at9 (tadR 12288 0))) 9 (tadR 12288 0) ftad.a.toNat)) % 4096 = 0) ∧
    ((if Forms.mo ftad 0 0 = 1 then 2 ^ 57 else BitVec.toNat (uniVal (withRlb (at9 (tadR 12288 0))) 9 (tadR 12288 0) ftad.b.toNat)) = 0) ∧
    ((if Forms.mo ftad 0 0 = 1 then 0 else BitVec.toNat (uniVal (withRlb (at9 (tadR 12288 0))) 9 (tadR 12288 0) ftad.a.toNat)) ≤ 2 ^ 57) ∧
    -- 2.2.2.1
    (tadR 12288 4096).live ftad ≠ 0 ∧
    ((if Forms.mo ftad 0 0 = 1 then 0 else BitVec.toNat (uniVal (withRlb (at9 (tadR 12288 4096))) 9 (tadR 12288 4096) ftad.a.toNat)) % 4096 = 0) ∧
    ((if Forms.mo ftad 0 0 = 1 then 2 ^ 57 else BitVec.toNat (uniVal (withRlb (at9 (tadR 12288 4096))) 9 (tadR 12288 4096) ftad.b.toNat)) % 4096 =
      0) ∧
    (((if Forms.mo ftad 0 0 = 1 then 0 else BitVec.toNat (uniVal (withRlb (at9 (tadR 12288 4096))) 9 (tadR 12288 4096) ftad.a.toNat)) + if
      Forms.mo ftad 0 0 = 1 then 2 ^ 57 else BitVec.toNat (uniVal (withRlb (at9 (tadR 12288 4096))) 9 (tadR 12288 4096) ftad.b.toNat)) ≤ 2 ^ 57) ∧
    ((if Forms.mo ftad 0 0 = 1 then 2 ^ 57 else BitVec.toNat (uniVal (withRlb (at9 (tadR 12288 4096))) 9 (tadR 12288 4096) ftad.b.toNat)) ≠ 0) ∧
    (¬(accessWaits (withRlb (at9 (tadR 12288 4096))) (if (tadR 12288 4096).ctx = 0 then (tadR 12288 4096).pselCtx else (tadR 12288 4096).ctx) (if
      Forms.mo ftad 0 0 = 1 then 0 else BitVec.toNat (uniVal (withRlb (at9 (tadR 12288 4096))) 9 (tadR 12288 4096) ftad.a.toNat)) (if Forms.mo
      ftad 0 0 = 1 then 2 ^ 57 else BitVec.toNat (uniVal (withRlb (at9 (tadR 12288 4096))) 9 (tadR 12288 4096) ftad.b.toNat)) = true ∨ packetWaits
      (withRlb (at9 (tadR 12288 4096))) (if (tadR 12288 4096).ctx = 0 then (tadR 12288 4096).pselCtx else (tadR 12288 4096).ctx) (if Forms.mo ftad
      0 0 = 1 then 0 else BitVec.toNat (uniVal (withRlb (at9 (tadR 12288 4096))) 9 (tadR 12288 4096) ftad.a.toNat)) (if Forms.mo ftad 0 0 = 1 then
      2 ^ 57 else BitVec.toNat (uniVal (withRlb (at9 (tadR 12288 4096))) 9 (tadR 12288 4096) ftad.b.toNat)) = true ∨ engineWaits (withRlb (at9
      (tadR 12288 4096))) (if (tadR 12288 4096).ctx = 0 then (tadR 12288 4096).pselCtx else (tadR 12288 4096).ctx) (if Forms.mo ftad 0 0 = 1 then
      0 else BitVec.toNat (uniVal (withRlb (at9 (tadR 12288 4096))) 9 (tadR 12288 4096) ftad.a.toNat)) (if Forms.mo ftad 0 0 = 1 then 2 ^ 57 else
      BitVec.toNat (uniVal (withRlb (at9 (tadR 12288 4096))) 9 (tadR 12288 4096) ftad.b.toNat)) = true ∨ drainsRun (withRlb (at9 (tadR 12288
      4096))) (if (tadR 12288 4096).ctx = 0 then (tadR 12288 4096).pselCtx else (tadR 12288 4096).ctx) (if Forms.mo ftad 0 0 = 1 then 0 else
      BitVec.toNat (uniVal (withRlb (at9 (tadR 12288 4096))) 9 (tadR 12288 4096) ftad.a.toNat)) (if Forms.mo ftad 0 0 = 1 then 2 ^ 57 else
      BitVec.toNat (uniVal (withRlb (at9 (tadR 12288 4096))) 9 (tadR 12288 4096) ftad.b.toNat)) = true)) ∧
    -- 2.2.2.2
    ((if Forms.mo ftad 0 0 = 1 then 0 else BitVec.toNat (uniVal (flying (tadR 12288 4096)) 9 (tadR 12288 4096) ftad.a.toNat)) % 4096 = 0) ∧
    ((if Forms.mo ftad 0 0 = 1 then 2 ^ 57 else BitVec.toNat (uniVal (flying (tadR 12288 4096)) 9 (tadR 12288 4096) ftad.b.toNat)) % 4096 = 0) ∧
    (((if Forms.mo ftad 0 0 = 1 then 0 else BitVec.toNat (uniVal (flying (tadR 12288 4096)) 9 (tadR 12288 4096) ftad.a.toNat)) + if Forms.mo ftad
      0 0 = 1 then 2 ^ 57 else BitVec.toNat (uniVal (flying (tadR 12288 4096)) 9 (tadR 12288 4096) ftad.b.toNat)) ≤ 2 ^ 57) ∧
    ((if Forms.mo ftad 0 0 = 1 then 2 ^ 57 else BitVec.toNat (uniVal (flying (tadR 12288 4096)) 9 (tadR 12288 4096) ftad.b.toNat)) ≠ 0) ∧
    (accessWaits (flying (tadR 12288 4096)) (if (tadR 12288 4096).ctx = 0 then (tadR 12288 4096).pselCtx else (tadR 12288 4096).ctx) (if Forms.mo
      ftad 0 0 = 1 then 0 else BitVec.toNat (uniVal (flying (tadR 12288 4096)) 9 (tadR 12288 4096) ftad.a.toNat)) (if Forms.mo ftad 0 0 = 1 then 2
      ^ 57 else BitVec.toNat (uniVal (flying (tadR 12288 4096)) 9 (tadR 12288 4096) ftad.b.toNat)) = true ∨ packetWaits (flying (tadR 12288 4096))
      (if (tadR 12288 4096).ctx = 0 then (tadR 12288 4096).pselCtx else (tadR 12288 4096).ctx) (if Forms.mo ftad 0 0 = 1 then 0 else BitVec.toNat
      (uniVal (flying (tadR 12288 4096)) 9 (tadR 12288 4096) ftad.a.toNat)) (if Forms.mo ftad 0 0 = 1 then 2 ^ 57 else BitVec.toNat (uniVal
      (flying (tadR 12288 4096)) 9 (tadR 12288 4096) ftad.b.toNat)) = true ∨ engineWaits (flying (tadR 12288 4096)) (if (tadR 12288 4096).ctx = 0
      then (tadR 12288 4096).pselCtx else (tadR 12288 4096).ctx) (if Forms.mo ftad 0 0 = 1 then 0 else BitVec.toNat (uniVal (flying (tadR 12288
      4096)) 9 (tadR 12288 4096) ftad.a.toNat)) (if Forms.mo ftad 0 0 = 1 then 2 ^ 57 else BitVec.toNat (uniVal (flying (tadR 12288 4096)) 9 (tadR
      12288 4096) ftad.b.toNat)) = true ∨ drainsRun (flying (tadR 12288 4096)) (if (tadR 12288 4096).ctx = 0 then (tadR 12288 4096).pselCtx else
      (tadR 12288 4096).ctx) (if Forms.mo ftad 0 0 = 1 then 0 else BitVec.toNat (uniVal (flying (tadR 12288 4096)) 9 (tadR 12288 4096)
      ftad.a.toNat)) (if Forms.mo ftad 0 0 = 1 then 2 ^ 57 else BitVec.toNat (uniVal (flying (tadR 12288 4096)) 9 (tadR 12288 4096) ftad.b.toNat))
      = true) :=
  ⟨issues_of (by decide +kernel), issues_of (by decide +kernel), issues_of (by decide +kernel),
   issues_of (by decide +kernel), issues_of (by decide +kernel), by decide +kernel⟩
theorem test_hyp_ContextsAreSavedAndRestored :
    -- 1.1
    Issues (at9 (tadR1 1 32768)) 9 (tadR1 1 32768) 771 ftad ∧
    -- 1.2
    Issues (at9 (tadR1 1 32768)) 9 (tadR1 1 32768) 772 ftad ∧
    -- 2.1
    Issues (atMap (tadR 1 32769) ctxHalt img0) 9 (tadR 1 32769) 771 ftad ∧
    -- 2.2.1
    Issues noImage 9 (tadR 1 32768) 771 ftad ∧
    -- 2.2.2.1
    Issues savable 9 (tadR 1 32768) 771 ftad ∧
    flushCus savable (ctxCus savable 1) = (savable, true) ∧
    (writeImage savable 0 0 32768 (blocks64 (imageHeader 0 1 (imageBody (takeImage (saveCtx savable 1) 1)) ++ imageBody (takeImage (saveCtx
      savable 1) 1)))).2 = .ok () ∧
    -- 2.2.2.2.1
    Issues savable 9 (tadR 1 32768) 772 ftad ∧
    -- 2.2.2.2.2.1
    Issues noImage 9 (tadR 1 32768) 772 ftad ∧
    -- 1.1
    (tadR1 1 32768).isGroup = false ∧
    (tadR1 1 32768).agent = false ∧
    (tadR1 1 32768).live ftad ≠ 0 ∧
    (tadR1 1 32768).ctx ≠ 0 ∧
    -- 2.1
    (tadR 1 32769).isGroup = false ∧
    (tadR 1 32769).agent = false ∧
    (tadR 1 32769).live ftad ≠ 0 ∧
    (tadR 1 32769).ctx = 0 ∧
    (¬(¬bits ((atMap (tadR 1 32769) ctxHalt img0).ctx (BitVec.toNat (uniVal (atMap (tadR 1 32769) ctxHalt img0) 9 (tadR 1 32769) ftad.a.toNat) %
      1024)).brst 1 0 = 2 ∨ BitVec.getLsbD ((atMap (tadR 1 32769) ctxHalt img0).ctx (BitVec.toNat (uniVal (atMap (tadR 1 32769) ctxHalt img0) 9
      (tadR 1 32769) ftad.a.toNat) % 1024)).brst 2 = true ∨ tadpolesOf (atMap (tadR 1 32769) ctxHalt img0) (BitVec.toNat (uniVal (atMap (tadR 1
      32769) ctxHalt img0) 9 (tadR 1 32769) ftad.a.toNat) % 1024) false = true)) ∧
    BitVec.toNat (uniVal (atMap (tadR 1 32769) ctxHalt img0) 9 (tadR 1 32769) ftad.b.toNat) % 4096 ≠ 0 ∧
    -- 2.2.1
    (tadR 1 32768).isGroup = false ∧
    (tadR 1 32768).agent = false ∧
    (tadR 1 32768).live ftad ≠ 0 ∧
    (tadR 1 32768).ctx = 0 ∧
    (¬bits (noImage.ctx (BitVec.toNat (uniVal noImage 9 (tadR 1 32768) ftad.a.toNat) % 1024)).brst 1 0 = 2 ∨ BitVec.getLsbD (noImage.ctx
      (BitVec.toNat (uniVal noImage 9 (tadR 1 32768) ftad.a.toNat) % 1024)).brst 2 = true ∨ tadpolesOf noImage (BitVec.toNat (uniVal noImage 9
      (tadR 1 32768) ftad.a.toNat) % 1024) false = true) ∧
    -- 2.2.2.1
    (nkeys savable.thr).Nodup ∧
    (¬(¬bits (savable.ctx (BitVec.toNat (uniVal savable 9 (tadR 1 32768) ftad.a.toNat) % 1024)).brst 1 0 = 2 ∨ BitVec.getLsbD (savable.ctx
      (BitVec.toNat (uniVal savable 9 (tadR 1 32768) ftad.a.toNat) % 1024)).brst 2 = true ∨ tadpolesOf savable (BitVec.toNat (uniVal savable 9
      (tadR 1 32768) ftad.a.toNat) % 1024) false = true)) ∧
    BitVec.toNat (uniVal savable 9 (tadR 1 32768) ftad.b.toNat) % 4096 = 0 ∧
    -- 2.2.2.2.1
    (¬bits (savable.ctx (BitVec.toNat (uniVal savable 9 (tadR 1 32768) ftad.a.toNat) % 1024)).brst 1 0 = 2 ∨ BitVec.getLsbD (savable.ctx
      (BitVec.toNat (uniVal savable 9 (tadR 1 32768) ftad.a.toNat) % 1024)).brst 2 = false) ∧
    -- 2.2.2.2.2.1
    bits (noImage.ctx (BitVec.toNat (uniVal noImage 9 (tadR 1 32768) ftad.a.toNat) % 1024)).brst 1 0 = 2 ∧
    BitVec.getLsbD (noImage.ctx (BitVec.toNat (uniVal noImage 9 (tadR 1 32768) ftad.a.toNat) % 1024)).brst 2 = true ∧
    (readImage noImage 0 (BitVec.toNat (uniVal noImage 9 (tadR 1 32768) ftad.b.toNat)) (BitVec.toNat (uniVal noImage 9 (tadR 1 32768)
      ftad.a.toNat) % 1024)).1 = noImage ∧
    (readImage noImage 0 (BitVec.toNat (uniVal noImage 9 (tadR 1 32768) ftad.b.toNat)) (BitVec.toNat (uniVal noImage 9 (tadR 1 32768)
      ftad.a.toNat) % 1024)).2.bind (imageOf noImage (BitVec.toNat (uniVal noImage 9 (tadR 1 32768) ftad.a.toNat) % 1024)) = none :=
  ⟨issues_of (by decide +kernel), issues_of (by decide +kernel), issues_of (by decide +kernel),
   issues_of (by decide +kernel), issues_of (by decide +kernel), rfl, image_written _, issues_of (by decide +kernel),
   issues_of (by decide +kernel), by decide +kernel⟩
theorem test_hyp_ResumeRequestAndCuRetirement :
    -- 1
    Issues (cuTwo (at9 tadCu1)) 9 tadCu1 773 ftad ∧
    -- 2.1
    Issues (at9 (tadR1 5 0)) 9 (tadR1 5 0) 773 ftad ∧
    -- 2.2.1
    Issues (at9 (tadR1 5 0)) 9 (tadR1 5 0) 774 ftad ∧
    -- 2.2.2.1
    Issues (at9 (tadR 5376 0)) 9 (tadR 5376 0) 774 ftad ∧
    -- 2.2.2.2.1
    Issues (at9 (tadR 5375 0)) 9 (tadR 5375 0) 774 ftad ∧
    -- 2.2.2.2.2.1
    Issues (at9 (tadR 0 0)) 9 (tadR 0 0) 774 ftad ∧
    -- 2.2.2.2.2.2
    Issues (cuTwo (at9 tadCu1)) 9 tadCu1 774 ftad ∧
    -- 1
    tadCu1.isGroup = false ∧
    tadCu1.live ftad ≠ 0 ∧
    tadCu1.quiet = true ∧
    ((if Forms.mo ftad 0 0 = 1 then ((cuTwo (at9 tadCu1)).ctx tadCu1.ctx).key else (if ftad.xk = true then ftad.x.toNat else BitVec.toNat (uniVal
      (cuTwo (at9 tadCu1)) 9 tadCu1 ftad.a.toNat)) % 2 ^ 16) = ((cuTwo (at9 tadCu1)).ctx tadCu1.ctx).key ∨ tadCu1.ctx = 0) ∧
    -- 2.1
    (tadR1 5 0).isGroup = false ∧
    (tadR1 5 0).live ftad ≠ 0 ∧
    (tadR1 5 0).quiet = true ∧
    ((if Forms.mo ftad 0 0 = 1 then ((at9 (tadR1 5 0)).ctx (tadR1 5 0).ctx).key else (if ftad.xk = true then ftad.x.toNat else BitVec.toNat
      (uniVal (at9 (tadR1 5 0)) 9 (tadR1 5 0) ftad.a.toNat)) % 2 ^ 16) ≠ ((at9 (tadR1 5 0)).ctx (tadR1 5 0).ctx).key) ∧
    (tadR1 5 0).ctx ≠ 0 ∧
    -- 2.2.2.1
    (tadR 5376 0).isGroup = false ∧
    (tadR 5376 0).live ftad ≠ 0 ∧
    (tadR 5376 0).ctx = 0 ∧
    (5376 ≤ if ftad.xk = true then ftad.x.toNat else BitVec.toNat (uniVal (at9 (tadR 5376 0)) 9 (tadR 5376 0) ftad.a.toNat)) ∧
    -- 2.2.2.2.1
    (tadR 5375 0).isGroup = false ∧
    (tadR 5375 0).live ftad ≠ 0 ∧
    (tadR 5375 0).ctx = 0 ∧
    ((if ftad.xk = true then ftad.x.toNat else BitVec.toNat (uniVal (at9 (tadR 5375 0)) 9 (tadR 5375 0) ftad.a.toNat)) < 5376) ∧
    (((at9 (tadR 5375 0)).cu (if ftad.xk = true then ftad.x.toNat else BitVec.toNat (uniVal (at9 (tadR 5375 0)) 9 (tadR 5375 0)
      ftad.a.toNat))).usable = false) ∧
    -- 2.2.2.2.2.1
    (tadR 0 0).isGroup = false ∧
    (tadR 0 0).live ftad ≠ 0 ∧
    (tadR 0 0).ctx = 0 ∧
    ((if ftad.xk = true then ftad.x.toNat else BitVec.toNat (uniVal (at9 (tadR 0 0)) 9 (tadR 0 0) ftad.a.toNat)) < 5376) ∧
    (((at9 (tadR 0 0)).cu (if ftad.xk = true then ftad.x.toNat else BitVec.toNat (uniVal (at9 (tadR 0 0)) 9 (tadR 0 0) ftad.a.toNat))).usable =
      true) ∧
    ((if ftad.xk = true then ftad.x.toNat else BitVec.toNat (uniVal (at9 (tadR 0 0)) 9 (tadR 0 0) ftad.a.toNat)) = (tadR 0 0).cu) ∧
    -- 2.2.2.2.2.2
    tadCu1.ctx = 0 ∧
    ((if ftad.xk = true then ftad.x.toNat else BitVec.toNat (uniVal (cuTwo (at9 tadCu1)) 9 tadCu1 ftad.a.toNat)) < 5376) ∧
    (((cuTwo (at9 tadCu1)).cu (if ftad.xk = true then ftad.x.toNat else BitVec.toNat (uniVal (cuTwo (at9 tadCu1)) 9 tadCu1 ftad.a.toNat))).usable
      = true) ∧
    ((if ftad.xk = true then ftad.x.toNat else BitVec.toNat (uniVal (cuTwo (at9 tadCu1)) 9 tadCu1 ftad.a.toNat)) ≠ tadCu1.cu) ∧
    (nkeys (cuTwo (at9 tadCu1)).thr).Nodup ∧
    (∀ p ∈ (cuTwo (at9 tadCu1)).wgs, 9 ∉ p.2.groups) :=
  ⟨issues_of (by decide +kernel), issues_of (by decide +kernel), issues_of (by decide +kernel),
   issues_of (by decide +kernel), issues_of (by decide +kernel), issues_of (by decide +kernel),
   issues_of (by decide +kernel), by decide +kernel⟩
theorem test_hyp_HomeServesMessages :
    -- 1
    Arrives (atMsg (toHome MsgKind.rdt) (md 8 true) []) 50 (toHome MsgKind.rdt) ∧
    -- 2.1
    Arrives (atMsg (toHome MsgKind.wrt) (md 8 true) []) 50 (toHome MsgKind.wrt) ∧
    -- 2.2.1.1
    Arrives (withHome (atMsg (toHome MsgKind.rdt) (md 8 true) []) (homeRg rg0)) 50 (toHome MsgKind.rdt) ∧
    -- 2.2.1.2
    Arrives (withHome (atMsg (toHome MsgKind.wrt) (md 8 true) []) (homeRg rg0)) 50 (toHome MsgKind.wrt) ∧
    -- 2.2.2.1
    Arrives (atMsg (msgWb MsgKind.wb) (md 5 false) []) 50 (msgWb MsgKind.wb) ∧
    -- 2.2.2.2.1
    Arrives (atMsg (toHome MsgKind.preq) (md 5 false) []) 50 (toHome MsgKind.preq) ∧
    (∀ (e : PEntry), nget ((atMsg (toHome MsgKind.preq) (md 5 false) []).home 0).ptab (toHome MsgKind.preq).req = some e → e.st ≠ PState.marked) ∧
    -- 2.2.2.2.2.1
    Arrives (withHome (atMsg (toHome MsgKind.preq) (md 5 false) []) (homeOne PState.marked)) 50 (toHome MsgKind.preq) ∧
    -- 2.2.2.2.2.2.1
    Arrives (atMsg (oldSer (toHome MsgKind.rdt)) (md 8 true) []) 50 (oldSer (toHome MsgKind.rdt)) ∧
    -- 2.2.2.2.2.2.2
    Arrives (atMsg (oldSer (toHome MsgKind.rgack)) (md 5 false) []) 50 (oldSer (toHome MsgKind.rgack)) ∧
    (
    -- 1
    (toHome MsgKind.rdt).dst = Party.home 0 ∧
    0 < 84 ∧
    ((atMsg (toHome MsgKind.rdt) (md 8 true) []).home 0).unread.contains (toHome MsgKind.rdt).sector = false ∧
    (toHome MsgKind.rdt).kind = MsgKind.rdt ∧
    (regrowing (atMsg (toHome MsgKind.rdt) (md 8 true) []) 0 (toHome MsgKind.rdt).sector = false ∧ homeAsks (atMsg (toHome MsgKind.rdt) (md 8
      true) []) 0 (toHome MsgKind.rdt).sector = false) ∧
    (toHome MsgKind.rdt).ser = ((atMsg (toHome MsgKind.rdt) (md 8 true) []).smeta (toHome MsgKind.rdt).sector).ser ∧
    (toHome MsgKind.rdt).t64 = ((atMsg (toHome MsgKind.rdt) (md 8 true) []).smeta (toHome MsgKind.rdt).sector).t64 ∧
    ((atMsg (toHome MsgKind.rdt) (md 8 true) []).smeta (toHome MsgKind.rdt).sector).ho = true ∧
    -- 2.1
    (toHome MsgKind.wrt).dst = Party.home 0 ∧
    ((atMsg (toHome MsgKind.wrt) (md 8 true) []).home 0).unread.contains (toHome MsgKind.wrt).sector = false ∧
    (toHome MsgKind.wrt).kind = MsgKind.wrt ∧
    (regrowing (atMsg (toHome MsgKind.wrt) (md 8 true) []) 0 (toHome MsgKind.wrt).sector = false ∧ homeAsks (atMsg (toHome MsgKind.wrt) (md 8
      true) []) 0 (toHome MsgKind.wrt).sector = false) ∧
    (toHome MsgKind.wrt).ser = ((atMsg (toHome MsgKind.wrt) (md 8 true) []).smeta (toHome MsgKind.wrt).sector).ser ∧
    (toHome MsgKind.wrt).t64 = ((atMsg (toHome MsgKind.wrt) (md 8 true) []).smeta (toHome MsgKind.wrt).sector).t64 ∧
    -- 2.2.1.1
    ((withHome (atMsg (toHome MsgKind.rdt) (md 8 true) []) (homeRg rg0)).home 0).unread.contains (toHome MsgKind.rdt).sector = false ∧
    (¬(regrowing (withHome (atMsg (toHome MsgKind.rdt) (md 8 true) []) (homeRg rg0)) 0 (toHome MsgKind.rdt).sector = false ∧ homeAsks (withHome
      (atMsg (toHome MsgKind.rdt) (md 8 true) []) (homeRg rg0)) 0 (toHome MsgKind.rdt).sector = false)) ∧
    -- 2.2.1.2
    ((withHome (atMsg (toHome MsgKind.wrt) (md 8 true) []) (homeRg rg0)).home 0).unread.contains (toHome MsgKind.wrt).sector = false ∧
    (¬(regrowing (withHome (atMsg (toHome MsgKind.wrt) (md 8 true) []) (homeRg rg0)) 0 (toHome MsgKind.wrt).sector = false ∧ homeAsks (withHome
      (atMsg (toHome MsgKind.wrt) (md 8 true) []) (homeRg rg0)) 0 (toHome MsgKind.wrt).sector = false)) ∧
    -- 2.2.2.1
    (msgWb MsgKind.wb).dst = Party.home 0 ∧
    ((atMsg (msgWb MsgKind.wb) (md 5 false) []).home 0).unread.contains (msgWb MsgKind.wb).sector = false ∧
    ((msgWb MsgKind.wb).kind = MsgKind.wb ∨ (msgWb MsgKind.wb).kind = MsgKind.tok) ∧
    (regrowing (atMsg (msgWb MsgKind.wb) (md 5 false) []) 0 (msgWb MsgKind.wb).sector = true ∨ activeFor (atMsg (msgWb MsgKind.wb) (md 5 false)
      []) 0 (msgWb MsgKind.wb).sector = none) ∧
    (msgWb MsgKind.wb).ser = ((atMsg (msgWb MsgKind.wb) (md 5 false) []).smeta (msgWb MsgKind.wb).sector).ser ∧
    -- 2.2.2.2.1
    (toHome MsgKind.preq).dst = Party.home 0 ∧
    ((atMsg (toHome MsgKind.preq) (md 5 false) []).home 0).unread.contains (toHome MsgKind.preq).sector = false ∧
    (toHome MsgKind.preq).kind = MsgKind.preq ∧
    (toHome MsgKind.preq).ser = ((atMsg (toHome MsgKind.preq) (md 5 false) []).smeta (toHome MsgKind.preq).sector).ser ∧
    (toHome MsgKind.preq).t64 = ((atMsg (toHome MsgKind.preq) (md 5 false) []).smeta (toHome MsgKind.preq).sector).t64) ∧
    -- 2.2.2.2.2.1
    ((withHome (atMsg (toHome MsgKind.preq) (md 5 false) []) (homeOne PState.marked)).home 0).unread.contains (toHome MsgKind.preq).sector = false ∧
    nget ((withHome (atMsg (toHome MsgKind.preq) (md 5 false) []) (homeOne PState.marked)).home 0).ptab (toHome MsgKind.preq).req = some (entry0
      PState.marked) ∧
    (entry0 PState.marked).st = PState.marked ∧
    (toHome MsgKind.preq).ser = ((withHome (atMsg (toHome MsgKind.preq) (md 5 false) []) (homeOne PState.marked)).smeta (toHome
      MsgKind.preq).sector).ser ∧
    -- 2.2.2.2.2.2.1
    (oldSer (toHome MsgKind.rdt)).dst = Party.home 0 ∧
    ((atMsg (oldSer (toHome MsgKind.rdt)) (md 8 true) []).home 0).unread.contains (oldSer (toHome MsgKind.rdt)).sector = false ∧
    (oldSer (toHome MsgKind.rdt)).ser ≠ ((atMsg (oldSer (toHome MsgKind.rdt)) (md 8 true) []).smeta (oldSer (toHome MsgKind.rdt)).sector).ser ∧
    (oldSer (toHome MsgKind.rdt)).kind = ([(MsgKind.rdt, Instr.rdt 50), (MsgKind.wrt, Instr.wrt 50), (MsgKind.tok, Instr.tok 50), (MsgKind.wb,
      Instr.wb 50), (MsgKind.preq, Instr.preq 50), (MsgKind.pdone, Instr.pdone 50)][0]).1 ∧
    -- 2.2.2.2.2.2.2
    (oldSer (toHome MsgKind.rgack)).dst = Party.home 0 ∧
    ((atMsg (oldSer (toHome MsgKind.rgack)) (md 5 false) []).home 0).unread.contains (oldSer (toHome MsgKind.rgack)).sector = false ∧
    (oldSer (toHome MsgKind.rgack)).ser ≠ homeSer (atMsg (oldSer (toHome MsgKind.rgack)) (md 5 false) []) 0 (oldSer (toHome MsgKind.rgack)).sector ∧
    (oldSer (toHome MsgKind.rgack)).kind = ([(MsgKind.rgack, Instr.rgack 50), (MsgKind.rgdata, Instr.rgdata 50)][0]).1 :=
  ⟨arrives_home (h := 0) (by decide +kernel) (by decide +kernel),
   arrives_home (h := 0) (by decide +kernel) (by decide +kernel),
   arrives_home (h := 0) (by decide +kernel) (by decide +kernel),
   arrives_home (h := 0) (by decide +kernel) (by decide +kernel),
   arrives_home (h := 0) (by decide +kernel) (by decide +kernel),
   arrives_home (h := 0) (by decide +kernel) (by decide +kernel), none_of (by decide +kernel),
   arrives_home (h := 0) (by decide +kernel) (by decide +kernel),
   arrives_home (h := 0) (by decide +kernel) (by decide +kernel),
   arrives_home (h := 0) (by decide +kernel) (by decide +kernel), by decide +kernel, by decide +kernel⟩
theorem test_hyp_ServedEntryEnds :
    -- 1
    Arrives (withHome (atMsg (toHome MsgKind.pdone) (md 5 false) []) (homeOne PState.active)) 50 (toHome MsgKind.pdone) ∧
    -- 2
    Arrives (withHome (atMsg (toHome MsgKind.pdone) (md 5 false) []) homeTwo) 50 (toHome MsgKind.pdone) ∧
    -- 1
    (toHome MsgKind.pdone).kind = MsgKind.pdone ∧
    (toHome MsgKind.pdone).dst = Party.home 0 ∧
    0 < 84 ∧
    nget ((withHome (atMsg (toHome MsgKind.pdone) (md 5 false) []) (homeOne PState.active)).home 0).ptab (toHome MsgKind.pdone).req = some (entry0
      PState.active) ∧
    (entry0 PState.active).st = PState.active ∧
    (entry0 PState.active).sector = (toHome MsgKind.pdone).sector ∧
    (toHome MsgKind.pdone).ser = ((withHome (atMsg (toHome MsgKind.pdone) (md 5 false) []) (homeOne PState.active)).smeta (toHome
      MsgKind.pdone).sector).ser ∧
    ((withHome (atMsg (toHome MsgKind.pdone) (md 5 false) []) (homeOne PState.active)).home 0).ptab = [((toHome MsgKind.pdone).req, entry0
      PState.active)] ∧
    (entry0 PState.active).blk = [] ∧
    -- 2
    nget ((withHome (atMsg (toHome MsgKind.pdone) (md 5 false) []) homeTwo).home 0).ptab (toHome MsgKind.pdone).req = some (entryOf PState.active
      [6]) ∧
    (entryOf PState.active [6]).st = PState.active ∧
    (entryOf PState.active [6]).sector = (toHome MsgKind.pdone).sector ∧
    (toHome MsgKind.pdone).ser = ((withHome (atMsg (toHome MsgKind.pdone) (md 5 false) []) homeTwo).smeta (toHome MsgKind.pdone).sector).ser ∧
    (((withHome (atMsg (toHome MsgKind.pdone) (md 5 false) []) homeTwo).home 0).ptab = [(6, entryOf PState.pending []), ((toHome
      MsgKind.pdone).req, entryOf PState.active [6])] ∧ 6 < (toHome MsgKind.pdone).req ∨ ((withHome (atMsg (toHome MsgKind.pdone) (md 5 false) [])
      homeTwo).home 0).ptab = [((toHome MsgKind.pdone).req, entryOf PState.active [6]), (6, entryOf PState.pending [])] ∧ (toHome
      MsgKind.pdone).req < 6) ∧
    (entryOf PState.active [6]).blk = [6] ∧
    (entryOf PState.pending []).st = PState.pending ∧
    (entryOf PState.pending []).sector = (toHome MsgKind.pdone).sector ∧
    homeAsks (withHome (atMsg (toHome MsgKind.pdone) (md 5 false) []) homeTwo) 0 (toHome MsgKind.pdone).sector = false ∧
    regrowing (withHome (atMsg (toHome MsgKind.pdone) (md 5 false) []) homeTwo) 0 (toHome MsgKind.pdone).sector = false :=
  ⟨arrives_home (h := 0) (by decide +kernel) (by decide +kernel),
   arrives_home (h := 0) (by decide +kernel) (by decide +kernel), by decide +kernel⟩
theorem test_hyp_AgentServesMessages :
    -- 1
    Arrives (atMsg (toAgent MsgKind.rdt) (md 0 false) (lines (line 8 true true))) 50 (toAgent MsgKind.rdt) ∧
    -- 2.1
    Arrives (atMsg (toAgent MsgKind.rdt) (md 0 false) (lines (line 1 true true))) 50 (toAgent MsgKind.rdt) ∧
    -- 2.2.1
    Arrives (atMsg (toAgent MsgKind.wrt) (md 0 false) (lines (line 8 true true))) 50 (toAgent MsgKind.wrt) ∧
    -- 2.2.2.1
    Arrives (withTr (atMsg (toAgent MsgKind.rdt) (md 0 false) (lines (line 8 true true))) (trans1 1)) 50 (toAgent MsgKind.rdt) ∧
    -- 2.2.2.2.1
    Arrives (atMsg msgTok (md 0 false) (lines (line 2 false false))) 50 msgTok ∧
    (∀ (t : Transient), nget (atMsg msgTok (md 0 false) (lines (line 2 false false))).mem.trans (l2key 3 msgTok.sector) = some t → t.wr = true ∧
      (line 2 false false).n + msgTok.cnt < if msgTok.t64 = true then 64 else 8) ∧
    -- 2.2.2.2.2.1
    Arrives (atMsg msgPact (md 0 false) (lines (line 8 true true))) 50 msgPact ∧
    (∀ (p : ActPlace), ¬(placeAt (atMsg msgPact (md 0 false) (lines (line 8 true true))) 3 msgPact.sector = some p ∧ aseqOlder msgPact.aseq p.aseq
      = true)) ∧
    -- 2.2.2.2.2.2.1
    Arrives (atMsg msgPactR (md 0 false) (lines (line 8 true true))) 50 msgPactR ∧
    (∀ (p : ActPlace), ¬(placeAt (atMsg msgPactR (md 0 false) (lines (line 8 true true))) 3 msgPactR.sector = some p ∧ aseqOlder msgPactR.aseq
      p.aseq = true)) ∧
    -- 2.2.2.2.2.2.2.1
    Arrives (withPlace (atMsg (toAgent MsgKind.pdeact) (md 0 false) (lines (line 8 true true))) place0) 50 (toAgent MsgKind.pdeact) ∧
    (∀ (p : ActPlace), ¬(placeAt (withPlace (atMsg (toAgent MsgKind.pdeact) (md 0 false) (lines (line 8 true true))) place0) 3 (toAgent
      MsgKind.pdeact).sector = some p ∧ aseqOlder (toAgent MsgKind.pdeact).aseq p.aseq = true)) ∧
    -- 2.2.2.2.2.2.2.2.1.1
    Arrives (withPlace (atMsg msgPactR (md 0 false) (lines (line 8 true true))) place7) 50 msgPactR ∧
    -- 2.2.2.2.2.2.2.2.1.2
    Arrives (withPlace (atMsg (toAgent MsgKind.pdeact) (md 0 false) (lines (line 8 true true))) place7) 50 (toAgent MsgKind.pdeact) ∧
    -- 2.2.2.2.2.2.2.2.2.1
    Arrives (atMsg (toAgent MsgKind.rgstart) (md 0 false) (lines (line 8 true true))) 50 (toAgent MsgKind.rgstart) ∧
    -- 2.2.2.2.2.2.2.2.2.2.1
    Arrives (atMsg msgRgend (md 0 false) (lines (line 8 true true))) 50 msgRgend ∧
    -- 2.2.2.2.2.2.2.2.2.2.2
    Arrives (atMsg (oldSer (toAgent MsgKind.rdt)) (md 0 false) (lines (line 8 true true))) 50 (oldSer (toAgent MsgKind.rdt)) ∧
    (
    -- 1
    (toAgent MsgKind.rdt).dst = Party.agent 3 ∧
    3 < 84 ∧
    nget (atMsg (toAgent MsgKind.rdt) (md 0 false) (lines (line 8 true true))).mem.l2 (l2key 3 (toAgent MsgKind.rdt).sector) = some (line 8 true
      true) ∧
    (line 8 true true).rg = false ∧
    (line 8 true true).n ≠ 0 ∧
    ((List.all (atMsg (toAgent MsgKind.rdt) (md 0 false) (lines (line 8 true true))).thr fun p => List.isEmpty p.2.mons) = true) ∧
    (toAgent MsgKind.rdt).kind = MsgKind.rdt ∧
    nget (atMsg (toAgent MsgKind.rdt) (md 0 false) (lines (line 8 true true))).mem.trans (l2key 3 (toAgent MsgKind.rdt).sector) = none ∧
    (toAgent MsgKind.rdt).ser = (line 8 true true).ser ∧
    (line 8 true true).o = true ∧
    2 ≤ (line 8 true true).n ∧
    -- 2.1
    nget (atMsg (toAgent MsgKind.rdt) (md 0 false) (lines (line 1 true true))).mem.l2 (l2key 3 (toAgent MsgKind.rdt).sector) = some (line 1 true
      true) ∧
    (line 1 true true).rg = false ∧
    (line 1 true true).n ≠ 0 ∧
    ((List.all (atMsg (toAgent MsgKind.rdt) (md 0 false) (lines (line 1 true true))).thr fun p => List.isEmpty p.2.mons) = true) ∧
    nget (atMsg (toAgent MsgKind.rdt) (md 0 false) (lines (line 1 true true))).mem.trans (l2key 3 (toAgent MsgKind.rdt).sector) = none ∧
    (toAgent MsgKind.rdt).ser = (line 1 true true).ser ∧
    (line 1 true true).o = true ∧
    (line 1 true true).n = 1 ∧
    -- 2.2.1
    (toAgent MsgKind.wrt).dst = Party.agent 3 ∧
    nget (atMsg (toAgent MsgKind.wrt) (md 0 false) (lines (line 8 true true))).mem.l2 (l2key 3 (toAgent MsgKind.wrt).sector) = some (line 8 true
      true) ∧
    ((List.all (atMsg (toAgent MsgKind.wrt) (md 0 false) (lines (line 8 true true))).thr fun p => List.isEmpty p.2.mons) = true) ∧
    (toAgent MsgKind.wrt).kind = MsgKind.wrt ∧
    nget (atMsg (toAgent MsgKind.wrt) (md 0 false) (lines (line 8 true true))).mem.trans (l2key 3 (toAgent MsgKind.wrt).sector) = none ∧
    (toAgent MsgKind.wrt).ser = (line 8 true true).ser ∧
    -- 2.2.2.1
    nget (withTr (atMsg (toAgent MsgKind.rdt) (md 0 false) (lines (line 8 true true))) (trans1 1)).mem.l2 (l2key 3 (toAgent MsgKind.rdt).sector) =
      some (line 8 true true) ∧
    ((List.all (withTr (atMsg (toAgent MsgKind.rdt) (md 0 false) (lines (line 8 true true))) (trans1 1)).thr fun p => List.isEmpty p.2.mons) =
      true) ∧
    nget (withTr (atMsg (toAgent MsgKind.rdt) (md 0 false) (lines (line 8 true true))) (trans1 1)).mem.trans (l2key 3 (toAgent
      MsgKind.rdt).sector) = some (trans1 1) ∧
    ((trans1 1).att < 3 ∨ (trans1 1).att = 3 ∧ ∃ p, placeAt (withTr (atMsg (toAgent MsgKind.rdt) (md 0 false) (lines (line 8 true true))) (trans1
      1)) 3 (toAgent MsgKind.rdt).sector = some p ∧ p.req = 3) ∧
    (toAgent MsgKind.rdt).kind = ([(MsgKind.rdt, Instr.rdt 50), (MsgKind.wrt, Instr.wrt 50)][0]).1) ∧
    (
    -- 2.2.2.2.1
    msgTok.dst = Party.agent 3 ∧
    nget (atMsg msgTok (md 0 false) (lines (line 2 false false))).mem.l2 (l2key 3 msgTok.sector) = some (line 2 false false) ∧
    (line 2 false false).rg = false ∧
    (line 2 false false).n ≠ 0 ∧
    ((List.all (atMsg msgTok (md 0 false) (lines (line 2 false false))).thr fun p => List.isEmpty p.2.mons) = true) ∧
    msgTok.kind = MsgKind.tok ∧
    msgTok.ser = (line 2 false false).ser ∧
    placeAt (atMsg msgTok (md 0 false) (lines (line 2 false false))) 3 msgTok.sector = none ∧
    -- 2.2.2.2.2.1
    msgPact.dst = Party.agent 3 ∧
    nget (atMsg msgPact (md 0 false) (lines (line 8 true true))).mem.l2 (l2key 3 msgPact.sector) = some (line 8 true true) ∧
    ((List.all (atMsg msgPact (md 0 false) (lines (line 8 true true))).thr fun p => List.isEmpty p.2.mons) = true) ∧
    msgPact.kind = MsgKind.pact ∧
    nget (atMsg msgPact (md 0 false) (lines (line 8 true true))).mem.trans (l2key 3 msgPact.sector) = none ∧
    msgPact.ser = (line 8 true true).ser ∧
    msgPact.req ≠ 3 ∧
    msgPact.wr = true ∧
    -- 2.2.2.2.2.2.1
    msgPactR.dst = Party.agent 3 ∧
    nget (atMsg msgPactR (md 0 false) (lines (line 8 true true))).mem.l2 (l2key 3 msgPactR.sector) = some (line 8 true true) ∧
    ((List.all (atMsg msgPactR (md 0 false) (lines (line 8 true true))).thr fun p => List.isEmpty p.2.mons) = true) ∧
    msgPactR.kind = MsgKind.pact ∧
    nget (atMsg msgPactR (md 0 false) (lines (line 8 true true))).mem.trans (l2key 3 msgPactR.sector) = none ∧
    msgPactR.ser = (line 8 true true).ser ∧
    msgPactR.req ≠ 3 ∧
    msgPactR.wr = false ∧
    -- 2.2.2.2.2.2.2.1
    (toAgent MsgKind.pdeact).dst = Party.agent 3 ∧
    nget (withPlace (atMsg (toAgent MsgKind.pdeact) (md 0 false) (lines (line 8 true true))) place0).mem.l2 (l2key 3 (toAgent
      MsgKind.pdeact).sector) = some (line 8 true true) ∧
    ((List.all (withPlace (atMsg (toAgent MsgKind.pdeact) (md 0 false) (lines (line 8 true true))) place0).thr fun p => List.isEmpty p.2.mons) =
      true) ∧
    (toAgent MsgKind.pdeact).kind = MsgKind.pdeact ∧
    (toAgent MsgKind.pdeact).ser = (line 8 true true).ser) ∧
    -- 2.2.2.2.2.2.2.2.1.1
    nget (withPlace (atMsg msgPactR (md 0 false) (lines (line 8 true true))) place7).mem.l2 (l2key 3 msgPactR.sector) = some (line 8 true true) ∧
    ((List.all (withPlace (atMsg msgPactR (md 0 false) (lines (line 8 true true))) place7).thr fun p => List.isEmpty p.2.mons) = true) ∧
    (placeAt (withPlace (atMsg msgPactR (md 0 false) (lines (line 8 true true))) place7) 3 msgPactR.sector = some place7 ∧ aseqOlder msgPactR.aseq
      place7.aseq = true) ∧
    nget (withPlace (atMsg msgPactR (md 0 false) (lines (line 8 true true))) place7).mem.trans (l2key 3 msgPactR.sector) = none ∧
    -- 2.2.2.2.2.2.2.2.1.2
    nget (withPlace (atMsg (toAgent MsgKind.pdeact) (md 0 false) (lines (line 8 true true))) place7).mem.l2 (l2key 3 (toAgent
      MsgKind.pdeact).sector) = some (line 8 true true) ∧
    ((List.all (withPlace (atMsg (toAgent MsgKind.pdeact) (md 0 false) (lines (line 8 true true))) place7).thr fun p => List.isEmpty p.2.mons) =
      true) ∧
    (placeAt (withPlace (atMsg (toAgent MsgKind.pdeact) (md 0 false) (lines (line 8 true true))) place7) 3 (toAgent MsgKind.pdeact).sector = some
      place7 ∧ aseqOlder (toAgent MsgKind.pdeact).aseq place7.aseq = true) ∧
    -- 2.2.2.2.2.2.2.2.2.1
    (toAgent MsgKind.rgstart).dst = Party.agent 3 ∧
    nget (atMsg (toAgent MsgKind.rgstart) (md 0 false) (lines (line 8 true true))).mem.l2 (l2key 3 (toAgent MsgKind.rgstart).sector) = some (line
      8 true true) ∧
    ((List.all (atMsg (toAgent MsgKind.rgstart) (md 0 false) (lines (line 8 true true))).thr fun p => List.isEmpty p.2.mons) = true) ∧
    (toAgent MsgKind.rgstart).kind = MsgKind.rgstart ∧
    (toAgent MsgKind.rgstart).ser = (line 8 true true).ser ∧
    -- 2.2.2.2.2.2.2.2.2.2.1
    msgRgend.dst = Party.agent 3 ∧
    nget (atMsg msgRgend (md 0 false) (lines (line 8 true true))).mem.l2 (l2key 3 msgRgend.sector) = some (line 8 true true) ∧
    ((List.all (atMsg msgRgend (md 0 false) (lines (line 8 true true))).thr fun p => List.isEmpty p.2.mons) = true) ∧
    msgRgend.kind = MsgKind.rgend ∧
    msgRgend.ser ≠ (line 8 true true).ser ∧
    -- 2.2.2.2.2.2.2.2.2.2.2
    (oldSer (toAgent MsgKind.rdt)).dst = Party.agent 3 ∧
    nget (atMsg (oldSer (toAgent MsgKind.rdt)) (md 0 false) (lines (line 8 true true))).mem.l2 (l2key 3 (oldSer (toAgent MsgKind.rdt)).sector) =
      some (line 8 true true) ∧
    ((List.all (atMsg (oldSer (toAgent MsgKind.rdt)) (md 0 false) (lines (line 8 true true))).thr fun p => List.isEmpty p.2.mons) = true) ∧
    (oldSer (toAgent MsgKind.rdt)).ser ≠ (line 8 true true).ser ∧
    nget (atMsg (oldSer (toAgent MsgKind.rdt)) (md 0 false) (lines (line 8 true true))).mem.trans (l2key 3 (oldSer (toAgent MsgKind.rdt)).sector)
      = none ∧
    (oldSer (toAgent MsgKind.rdt)).kind = ([(MsgKind.rdt, Instr.rdt 50), (MsgKind.wrt, Instr.wrt 50), (MsgKind.pact, Instr.pact 50),
      (MsgKind.pdeact, Instr.pdeact 50), (MsgKind.rgstart, Instr.rgstart 50)][0]).1 :=
  ⟨arrives_agent (a := 3) (by decide +kernel) (by decide +kernel),
   arrives_agent (a := 3) (by decide +kernel) (by decide +kernel),
   arrives_agent (a := 3) (by decide +kernel) (by decide +kernel),
   arrives_agent (a := 3) (by decide +kernel) (by decide +kernel),
   arrives_agent (a := 3) (by decide +kernel) (by decide +kernel), none_of (by decide +kernel),
   arrives_agent (a := 3) (by decide +kernel) (by decide +kernel), fresh_of (by decide +kernel),
   arrives_agent (a := 3) (by decide +kernel) (by decide +kernel), fresh_of (by decide +kernel),
   arrives_agent (a := 3) (by decide +kernel) (by decide +kernel), fresh_of (by decide +kernel),
   arrives_agent (a := 3) (by decide +kernel) (by decide +kernel),
   arrives_agent (a := 3) (by decide +kernel) (by decide +kernel),
   arrives_agent (a := 3) (by decide +kernel) (by decide +kernel),
   arrives_agent (a := 3) (by decide +kernel) (by decide +kernel),
   arrives_agent (a := 3) (by decide +kernel) (by decide +kernel), by decide +kernel, by decide +kernel, by decide +kernel⟩
theorem test_hyp_RequestsAreRetried :
    -- 2.2.2.2
    Arrives (withTr (atMsg msgPnak (md 0 false) (lines (line 2 false false))) (trans1 3)) 50 msgPnak ∧
    -- 1
    nget (withTrans base (trans1 1)).mem.trans (l2key 3 5) = some (trans1 1) ∧
    (trans1 1).att = 1 ∧
    (trans1 1).deadline ≤ (withTrans base (trans1 1)).env.clk ∧
    (withTrans base (trans1 1)).env.clk < (trans1 1).since + nsToClk 2000 ∧
    -- 2.1
    nget (withTrans base (trans1 2)).mem.trans (l2key 3 5) = some (trans1 2) ∧
    (trans1 2).att < 3 ∧
    ((trans1 2).att = 2 ∧ (trans1 2).deadline ≤ (withTrans base (trans1 2)).env.clk ∨ (trans1 2).since + nsToClk 2000 ≤ (withTrans base (trans1
      2)).env.clk) ∧
    -- 2.2.1
    ((Tests.atHome (homeOne PState.pending) (md 0 false)).home 0).ptab = [(4, entry0 PState.pending)] ∧
    (entry0 PState.pending).st = PState.pending ∧
    homeAsks (Tests.atHome (homeOne PState.pending) (md 0 false)) 0 (entry0 PState.pending).sector = false ∧
    regrowing (Tests.atHome (homeOne PState.pending) (md 0 false)) 0 (entry0 PState.pending).sector = false ∧
    0 = homeOf (entry0 PState.pending).sector ∧
    -- 2.2.2.1
    nget (withTrans base (trans1 4)).mem.pnak 3 = some 990 ∧
    990 ≤ (withTrans base (trans1 4)).env.clk ∧
    5 < 2 ^ 80 ∧
    (withTrans base (trans1 4)).mem.trans = [(l2key 3 5, trans1 4)] ∧
    (trans1 4).att = 4 ∧
    (∀ p ∈ (withTrans base (trans1 4)).mem.net, p.2.kind = MsgKind.pnak → p.2.dst ≠ Party.agent 3) ∧
    -- 2.2.2.2
    (withTr (atMsg msgPnak (md 0 false) (lines (line 2 false false))) (trans1 3)).mem.net = [(50, msgPnak)] ∧
    msgPnak.kind = MsgKind.pnak ∧
    msgPnak.dst = Party.agent 3 ∧
    msgPnak.ser = ((withTr (atMsg msgPnak (md 0 false) (lines (line 2 false false))) (trans1 3)).lineFor 3 msgPnak).ser ∧
    nget (withTr (atMsg msgPnak (md 0 false) (lines (line 2 false false))) (trans1 3)).mem.trans (l2key 3 msgPnak.sector) = some (trans1 3) ∧
    (trans1 3).att = 3 :=
  ⟨arrives_agent (a := 3) (by decide +kernel) (by decide +kernel), by decide +kernel⟩
theorem test_hyp_HomePerformsAtomics :
    -- 1
    ((atHomeT (homeAtom none) (md 8 true) grpA).home 0).atoms = [atom0] ∧
    ((atHomeT (homeAtom none) (md 8 true) grpA).home 0).ptab = [] ∧
    ((atHomeT (homeAtom none) (md 8 true) grpA).home 0).regrow = [] ∧
    atom0.pkt = none ∧
    (((atHomeT (homeAtom none) (md 8 true) grpA).home 0).hreq = none ∨ ∃ q, ((atHomeT (homeAtom none) (md 8 true) grpA).home 0).hreq = some q ∧
      q.sector = atom0.sector ∧ q.active = true) ∧
    ((atHomeT (homeAtom none) (md 8 true) grpA).smeta atom0.sector).full = true ∧
    ((atHomeT (homeAtom none) (md 8 true) grpA).smeta atom0.sector).poi = false ∧
    (atHomeT (homeAtom none) (md 8 true) grpA).thread atom0.tid = some grpA ∧
    grpA.log = [entA] ∧
    entA.id = atom0.eid ∧
    entA.once = false ∧
    grpA.mons = [] ∧
    -- 2.1
    ((Tests.atHome homePkt (md 8 true)).home 0).atoms = [atomPkt] ∧
    ((Tests.atHome homePkt (md 8 true)).home 0).ptab = [] ∧
    ((Tests.atHome homePkt (md 8 true)).home 0).regrow = [] ∧
    atomPkt.pkt = some pktAt ∧
    (((Tests.atHome homePkt (md 8 true)).home 0).hreq = none ∨ ∃ q, ((Tests.atHome homePkt (md 8 true)).home 0).hreq = some q ∧ q.sector =
      atomPkt.sector ∧ q.active = true) ∧
    ((Tests.atHome homePkt (md 8 true)).smeta atomPkt.sector).full = true ∧
    ((Tests.atHome homePkt (md 8 true)).smeta atomPkt.sector).poi = false ∧
    -- 2.2.1
    ((atHomeT (homeAtom none) (md 7 false) grpA).home 0).atoms = [atom0] ∧
    ((atHomeT (homeAtom none) (md 7 false) grpA).home 0).ptab = [] ∧
    ((atHomeT (homeAtom none) (md 7 false) grpA).home 0).regrow = [] ∧
    ((atHomeT (homeAtom none) (md 7 false) grpA).home 0).hreq = none ∧
    ((atHomeT (homeAtom none) (md 7 false) grpA).smeta atom0.sector).full = false ∧
    -- 2.2.2
    ((atHomeT (homeAtom (some (hreq0 false))) (md 7 false) grpA).home 0).atoms = [atom0] ∧
    ((atHomeT (homeAtom (some (hreq0 false))) (md 7 false) grpA).home 0).ptab = [] ∧
    ((atHomeT (homeAtom (some (hreq0 false))) (md 7 false) grpA).home 0).regrow = [] ∧
    ((atHomeT (homeAtom (some (hreq0 false))) (md 7 false) grpA).home 0).hreq = some (hreq0 false) ∧
    (hreq0 false).sector = atom0.sector ∧
    (hreq0 false).active = false :=
  by decide +kernel
theorem test_hyp_RegrowthStartsAndEnds :
    -- 2.2.2.1
    Arrives (Tests.atHome homeUnread (md 8 true)) 50 (toHome MsgKind.rdt) ∧
    -- 2.2.2.2.1
    Arrives (atRg rg0 (toHome MsgKind.rgack)) 50 (toHome MsgKind.rgack) ∧
    -- 2.2.2.2.2.1
    Arrives (atRg rgNoData msgRgackD) 50 msgRgackD ∧
    -- 2.2.2.2.2.2.1
    Arrives (atRg rgNoData msgRgdata) 50 msgRgdata ∧
    (
    -- 1
    0 = homeOf 5 ∧
    0 < 84 ∧
    ((later (Tests.atHome homeDue (md 3 true)) 1000000).home 0).regrow = [] ∧
    mayRegrow (later (Tests.atHome homeDue (md 3 true)) 1000000) 0 5 = true ∧
    ((later (Tests.atHome homeDue (md 3 true)) 1000000).home 0).deferred = [] ∧
    regrowDue (later (Tests.atHome homeDue (md 3 true)) 1000000) 0 5 = true ∧
    -- 2.1
    ((later (Tests.atHome homeDueR (md 3 true)) 1000000).home 0).regrow = [] ∧
    mayRegrow (later (Tests.atHome homeDueR (md 3 true)) 1000000) 0 5 = false ∧
    ((later (Tests.atHome homeDueR (md 3 true)) 1000000).home 0).deferred = [] ∧
    regrowDue (later (Tests.atHome homeDueR (md 3 true)) 1000000) 0 5 = true ∧
    -- 2.2.1
    ((Tests.atHome homeDefer (md 3 true)).home 0).regrow = [] ∧
    mayRegrow (Tests.atHome homeDefer (md 3 true)) 0 5 = true ∧
    ((Tests.atHome homeDefer (md 3 true)).home 0).deferred = [5] ∧
    -- 2.2.2.1
    (toHome MsgKind.rdt).dst = Party.home 0 ∧
    (toHome MsgKind.rdt).sector = 5 ∧
    ((Tests.atHome homeUnread (md 8 true)).home 0).unread.contains 5 = true ∧
    ((Tests.atHome homeUnread (md 8 true)).home 0).regrow = [] ∧
    mayRegrow (Tests.atHome homeUnread (md 8 true)) 0 5 = true ∧
    (toHome MsgKind.rdt).kind = ([(MsgKind.rdt, Instr.rdt 50), (MsgKind.wrt, Instr.wrt 50)][0]).1 ∧
    -- 2.2.2.2.1
    (toHome MsgKind.rgack).kind = MsgKind.rgack ∧
    (toHome MsgKind.rgack).dst = Party.home 0 ∧
    (toHome MsgKind.rgack).sector = 5 ∧
    (toHome MsgKind.rgack).ser = rg0.ser ∧
    (toHome MsgKind.rgack).dty = false ∧
    ((atRg rg0 (toHome MsgKind.rgack)).home 0).regrow = [rg0] ∧
    rg0.sector = 5 ∧
    rg0.waitAck = [(toHome MsgKind.rgack).req] ∧
    rg0.waitData = [] ∧
    activeFor (atRg rg0 (toHome MsgKind.rgack)) 0 5 = none) ∧
    -- 2.2.2.2.2.1
    msgRgackD.kind = MsgKind.rgack ∧
    msgRgackD.dst = Party.home 0 ∧
    msgRgackD.sector = 5 ∧
    msgRgackD.ser = rgNoData.ser ∧
    msgRgackD.dty = true ∧
    ((atRg rgNoData msgRgackD).home 0).regrow = [rgNoData] ∧
    rgNoData.sector = 5 ∧
    rgNoData.data = none ∧
    -- 2.2.2.2.2.2.1
    msgRgdata.kind = MsgKind.rgdata ∧
    msgRgdata.dst = Party.home 0 ∧
    msgRgdata.sector = 5 ∧
    msgRgdata.ser = rgNoData.ser ∧
    ((atRg rgNoData msgRgdata).home 0).regrow = [rgNoData] ∧
    rgNoData.waitAck ≠ [] ∧
    -- 2.2.2.2.2.2.2.1
    ((later (atRg rgLate msgRgdata) 10000000).home 0).regrow = [rgLate] ∧
    rgLate.sector = 5 ∧
    rgLate.waitAck = [] ∧
    rgLate.waitData = [(4, 0)] ∧
    0 + nsToClk 1000000 ≤ (later (atRg rgLate msgRgdata) 10000000).env.clk ∧
    rgLate.data = none ∧
    activeFor (later (atRg rgLate msgRgdata) 10000000) 0 5 = none ∧
    -- 2.2.2.2.2.2.2.2
    ((later (atRg rgPort msgRgackD) 10000000000).home 0).regrow = [rgPort] ∧
    rgPort.sector = 5 ∧
    rgPort.waitAck = [90] ∧
    88 ≤ 90 ∧
    rgPort.waitData = [] ∧
    rgPort.since + nsToClk 2000000000 ≤ (later (atRg rgPort msgRgackD) 10000000000).env.clk ∧
    activeFor (later (atRg rgPort msgRgackD) 10000000000) 0 5 = none :=
  ⟨arrives_home (h := 0) (by decide +kernel) (by decide +kernel),
   arrives_home (h := 0) (by decide +kernel) (by decide +kernel),
   arrives_home (h := 0) (by decide +kernel) (by decide +kernel),
   arrives_home (h := 0) (by decide +kernel) (by decide +kernel), by decide +kernel, by decide +kernel⟩
theorem test_hyp_FormatWindows :
    -- 1
    BitVec.getLsbD (17 : Word64) 0 = true ∧
    fwRefused (withWin win0) 0 (bits (17 : Word64) 7 4) = false ∧
    -- 2.1
    fwRefused (withWin winBad) 0 (bits (17 : Word64) 7 4) = true ∧
    -- 2.2.1
    BitVec.getLsbD (16 : Word64) 0 = false ∧
    ((withWin winOn).win 0).enabled = true ∧
    -- 2.2.2
    (withWin winOn).mem.winReq.contains (l2key 3 1025) = true ∧
    (withWin winOn).winOf 1025 = some 0 ∧
    dieThreads (withWin winOn) 3 = [] :=
  by decide +kernel
theorem test_hyp_FabricPortsPerformPackets :
    -- 1.1
    NewPacket (rxHost (pktNo 1)) (pktNo 1) ∧
    -- 1.2
    NewPacket (rxHost (pktNo 7)) (pktNo 7) ∧
    -- 2.1
    NewPacket (rxHost pktData) pktData ∧
    -- 2.2.1
    NewPacket (rxHost (pktOf 1)) (pktOf 1) ∧
    -- 2.2.2.1
    NewPacket (rxHost (pktOf 5)) (pktOf 5) ∧
    -- 2.2.2.2.1
    NewPacket (rxHost pktSt) pktSt ∧
    -- 2.2.2.2.2
    NewPacket (rxHost pktAt) pktAt ∧
    (
    -- 1.1
    keyXl (rxHost (pktNo 1)) (pktNo 1).pkey (BitVec.toNat (pktNo 1).daddr % 2 ^ 52) = none ∧
    0 < (pktNo 1).len ∧
    (pktNo 1).pkind = 1 ∧
    -- 1.2
    keyXl (rxHost (pktNo 7)) (pktNo 7).pkey (BitVec.toNat (pktNo 7).daddr % 2 ^ 52) = none ∧
    0 < (pktNo 7).len ∧
    5 ≤ (pktNo 7).pkind ∧
    (pktNo 7).pkind ≤ 7 ∧
    -- 2.1
    keyXl (rxHost pktData) pktData.pkey (BitVec.toNat pktData.daddr % 2 ^ 52) = some (xl 28680) ∧
    (xl 28680).host = true ∧
    nget (rxHost pktData).mem.hostLines (hostKey (xl 28680)) = none ∧
    (rxHost pktData).mem.hostMem.wf = true ∧
    (0 < if pktData.pkind = 7 then if tyWide pktData.ty = true then 8 else 4 else pktData.len) ∧
    ((BitVec.toNat pktData.daddr % 2 ^ 52 % 64 + if pktData.pkind = 7 then if tyWide pktData.ty = true then 8 else 4 else pktData.len) ≤ 64) ∧
    pktData.pkind = 0 ∧
    pktData.mbox = 0 ∧
    keyKnown (rxHost pktData) pktData.pkey = true ∧
    ((rxHost pktData).rx (xferKey pktData.smod pktData.xid)).endAt = none ∧
    (pktData.payload.length = if pktData.pkind = 7 then if tyWide pktData.ty = true then 8 else 4 else pktData.len) ∧
    ((rxHost pktData).rx (xferKey pktData.smod pktData.xid)).next = pktData.pseq ∧
    nget (rxHost pktData).fab.rxq (pktKey pktData + 1) = none ∧
    (reW (xl 28680).e = true ∧ reImm (xl 28680).e = false) ∧
    -- 2.2.1
    keyXl (rxHost (pktOf 1)) (pktOf 1).pkey (BitVec.toNat (pktOf 1).daddr % 2 ^ 52) = some (xl 28680) ∧
    nget (rxHost (pktOf 1)).mem.hostLines (hostKey (xl 28680)) = none ∧
    (rxHost (pktOf 1)).mem.hostMem.wf = true ∧
    (0 < if (pktOf 1).pkind = 7 then if tyWide (pktOf 1).ty = true then 8 else 4 else (pktOf 1).len) ∧
    ((BitVec.toNat (pktOf 1).daddr % 2 ^ 52 % 64 + if (pktOf 1).pkind = 7 then if tyWide (pktOf 1).ty = true then 8 else 4 else (pktOf 1).len) ≤
      64) ∧
    (pktOf 1).pkind = 1 ∧
    reRd (xl 28680).e = true) ∧
    -- 2.2.2.1
    keyXl (rxHost (pktOf 5)) (pktOf 5).pkey (BitVec.toNat (pktOf 5).daddr % 2 ^ 52) = some (xl 28680) ∧
    nget (rxHost (pktOf 5)).mem.hostLines (hostKey (xl 28680)) = none ∧
    (rxHost (pktOf 5)).mem.hostMem.wf = true ∧
    (0 < if (pktOf 5).pkind = 7 then if tyWide (pktOf 5).ty = true then 8 else 4 else (pktOf 5).len) ∧
    ((BitVec.toNat (pktOf 5).daddr % 2 ^ 52 % 64 + if (pktOf 5).pkind = 7 then if tyWide (pktOf 5).ty = true then 8 else 4 else (pktOf 5).len) ≤
      64) ∧
    (pktOf 5).pkind = 5 ∧
    (pktOf 5).op = 0 ∧
    -- 2.2.2.2.1
    keyXl (rxHost pktSt) pktSt.pkey (BitVec.toNat pktSt.daddr % 2 ^ 52) = some (xl 28680) ∧
    nget (rxHost pktSt).mem.hostLines (hostKey (xl 28680)) = none ∧
    (rxHost pktSt).mem.hostMem.wf = true ∧
    (0 < if pktSt.pkind = 7 then if tyWide pktSt.ty = true then 8 else 4 else pktSt.len) ∧
    ((BitVec.toNat pktSt.daddr % 2 ^ 52 % 64 + if pktSt.pkind = 7 then if tyWide pktSt.ty = true then 8 else 4 else pktSt.len) ≤ 64) ∧
    pktSt.pkind = 6 ∧
    (pktSt.payload.length = if pktSt.pkind = 7 then if tyWide pktSt.ty = true then 8 else 4 else pktSt.len) ∧
    ((if pktSt.pkind = 7 then if tyWide pktSt.ty = true then 8 else 4 else pktSt.len) ≤ 16) ∧
    -- 2.2.2.2.2
    keyXl (rxHost pktAt) pktAt.pkey (BitVec.toNat pktAt.daddr % 2 ^ 52) = some (xl 28680) ∧
    nget (rxHost pktAt).mem.hostLines (hostKey (xl 28680)) = none ∧
    (rxHost pktAt).mem.hostMem.wf = true ∧
    (0 < if pktAt.pkind = 7 then if tyWide pktAt.ty = true then 8 else 4 else pktAt.len) ∧
    ((BitVec.toNat pktAt.daddr % 2 ^ 52 % 64 + if pktAt.pkind = 7 then if tyWide pktAt.ty = true then 8 else 4 else pktAt.len) ≤ 64) ∧
    pktAt.pkind = 7 :=
  ⟨newPacket_of (by decide +kernel), newPacket_of (by decide +kernel), newPacket_of (by decide +kernel),
   newPacket_of (by decide +kernel), newPacket_of (by decide +kernel), newPacket_of (by decide +kernel),
   newPacket_of (by decide +kernel), by decide +kernel, by decide +kernel⟩
theorem test_hyp_RepliesEndCommands :
    -- 1
    Command (atCmd (cmdF 0)) 50 (cmdF 0) grpF1 ∧
    -- 2.2.1
    Command (atCmd (cmdF 2)) 50 (cmdF 2) grpF1 ∧
    -- 2.2.2.2
    Command (atCmd cmdFail) 50 cmdFail grpF1 ∧
    (
    -- 1
    (Tests.ack 0).dmod = (atCmd (cmdF 0)).mdl.number ∧
    (Tests.ack 0).pcrc = packetCrc (Tests.ack 0) ∧
    expired (atCmd (cmdF 0)) (Tests.ack 0) = false ∧
    (cmdF 0).total ≤ (cmdF 0).sent ∧
    (Tests.ack 0).pkind = 8 ∧
    (cmdF 0).direct = true ∧
    (cmdF 0).kind ≠ 1 ∧
    (Tests.ack 0).xid = (cmdF 0).xid ∧
    (cmdF 0).left = [(Tests.ack 0).pseq] ∧
    (cmdF 0).fail = 0 ∧
    (Tests.ack 0).status = 0 ∧
    -- 2.1
    (Tests.ack 3).dmod = (atCmd (cmdF 0)).mdl.number ∧
    (Tests.ack 3).pcrc = packetCrc (Tests.ack 3) ∧
    expired (atCmd (cmdF 0)) (Tests.ack 3) = false ∧
    (Tests.ack 3).pkind = 8 ∧
    (Tests.ack 3).xid = (cmdF 0).xid ∧
    (cmdF 0).left = [(Tests.ack 3).pseq] ∧
    (Tests.ack 3).status ≠ 0 ∧
    -- 2.2.1
    (mack 0).dmod = (atCmd (cmdF 2)).mdl.number ∧
    (mack 0).pcrc = packetCrc (mack 0) ∧
    expired (atCmd (cmdF 2)) (mack 0) = false ∧
    (cmdF 2).total ≤ (cmdF 2).sent ∧
    (mack 0).pkind = 9 ∧
    (cmdF 2).kind = 2 ∧
    (mack 0).xid = (cmdF 2).xid ∧
    (cmdF 2).left = [(mack 0).pseq] ∧
    (cmdF 2).fail = 0 ∧
    (mack 0).status = 0 ∧
    (mack 0).bitmap = 0 ∧
    (cmdF 2).bitmap = 0) ∧
    -- 2.2.2.1
    (mack 2).dmod = (atCmd (cmdF 2)).mdl.number ∧
    (mack 2).pcrc = packetCrc (mack 2) ∧
    expired (atCmd (cmdF 2)) (mack 2) = false ∧
    (mack 2).pkind = 9 ∧
    (mack 2).xid = (cmdF 2).xid ∧
    (cmdF 2).left = [(mack 2).pseq] ∧
    (mack 2).status = 0 ∧
    (mack 2).bitmap ≠ 0 ∧
    -- 2.2.2.2
    (mack 2).dmod = (atCmd cmdFail).mdl.number ∧
    expired (atCmd cmdFail) (mack 2) = false ∧
    cmdFail.total ≤ cmdFail.sent ∧
    cmdFail.fail ≠ 0 ∧
    cmdFail.left = [] ∧
    grpF1.place ≠ Place.exited ∧
    grpF1.ffail = none :=
  ⟨command_of (by decide +kernel), command_of (by decide +kernel), command_of (by decide +kernel), by decide +kernel,
   by decide +kernel⟩
theorem test_hyp_SwitchReplicatesAndReduces :
    (
    -- 1
    (pktUp 0).smod = (Tests.atSwitch mcOff 0 []).mdl.number ∧
    pktUp 0 ∈ (Tests.atSwitch mcOff 0 []).fab.up ∧
    (pktUp 0).pkind = 0 ∧
    (((Tests.atSwitch mcOff 0 []).part (pktUp 0).pkey).mcast (pktUp 0).group).en = false ∧
    (∀ m ∈ (Tests.atSwitch mcOff 0 []).fab.merges, m.xid = (pktUp 0).xid → m.pseq ≠ (pktUp 0).pseq) ∧
    -- 2.1
    (pktUp 0).smod = (Tests.atSwitch mcOn 0 []).mdl.number ∧
    pktUp 0 ∈ (Tests.atSwitch mcOn 0 []).fab.up ∧
    (((Tests.atSwitch mcOn 0 []).part (pktUp 0).pkey).mcast (pktUp 0).group).en = true ∧
    (∀ m ∈ (Tests.atSwitch mcOn 0 []).fab.merges, m.xid = (pktUp 0).xid → m.pseq ≠ (pktUp 0).pseq) ∧
    -- 2.2.1
    (pktUp 4).smod = (Tests.atSwitch mcOn 4 []).mdl.number ∧
    pktUp 4 ∈ (Tests.atSwitch mcOn 4 []).fab.up ∧
    (pktUp 4).pkind = 4 ∧
    (((Tests.atSwitch mcOn 4 []).part (pktUp 4).pkey).mcast (pktUp 4).group).en = true ∧
    (∀ r ∈ (Tests.atSwitch mcOn 4 []).fab.reds, ¬(r.key = (pktUp 4).pkey ∧ r.group = (pktUp 4).group ∧ r.ver = (((Tests.atSwitch mcOn 4 []).part
      (pktUp 4).pkey).mcast (pktUp 4).group).ver ∧ r.epoch = (pktUp 4).epoch ∧ r.pseq = (pktUp 4).pseq)) ∧
    (Tests.atSwitch mcOn 4 []).mdl.number ∈ (((Tests.atSwitch mcOn 4 []).part (pktUp 4).pkey).mcast (pktUp 4).group).members ∧
    2 ≤ (((Tests.atSwitch mcOn 4 []).part (pktUp 4).pkey).mcast (pktUp 4).group).members.length ∧
    -- 2.2.2.1
    (pktUp 4).smod = (Tests.atSwitch mcOn 4 [red0]).mdl.number ∧
    pktUp 4 ∈ (Tests.atSwitch mcOn 4 [red0]).fab.up ∧
    (Tests.atSwitch mcOn 4 [red0]).fab.reds = [red0] ∧
    (red0.key = (pktUp 4).pkey ∧ red0.group = (pktUp 4).group ∧ red0.ver = (((Tests.atSwitch mcOn 4 [red0]).part (pktUp 4).pkey).mcast (pktUp
      4).group).ver ∧ red0.epoch = (pktUp 4).epoch ∧ red0.pseq = (pktUp 4).pseq) ∧
    red0.members = [pktTheirs.smod, (Tests.atSwitch mcOn 4 [red0]).mdl.number] ∧
    pktTheirs.smod ≠ (Tests.atSwitch mcOn 4 [red0]).mdl.number ∧
    red0.got = [(0, pktTheirs)] ∧
    red0.bad = [] ∧
    (pktUp 4).len = red0.len ∧
    (pktUp 4).rop = red0.rop) ∧
    -- 2.2.2.2
    (pktUp 4).smod = (later (Tests.atSwitch mcOn 4 [red0]) 225000000).mdl.number ∧
    pktUp 4 ∈ (later (Tests.atSwitch mcOn 4 [red0]) 225000000).fab.up ∧
    (later (Tests.atSwitch mcOn 4 [red0]) 225000000).fab.reds = [red0] ∧
    (red0.key = (pktUp 4).pkey ∧ red0.group = (pktUp 4).group ∧ red0.ver = (((later (Tests.atSwitch mcOn 4 [red0]) 225000000).part (pktUp
      4).pkey).mcast (pktUp 4).group).ver ∧ red0.epoch = (pktUp 4).epoch ∧ red0.pseq = (pktUp 4).pseq) ∧
    red0.members.length ≤ 64 ∧
    red0.since + nsToClk 100000000 ≤ (later (Tests.atSwitch mcOn 4 [red0]) 225000000).env.clk ∧
    ((later (Tests.atSwitch mcOn 4 [red0]) 225000000).part (pktUp 4).pkey).haltAt = none :=
  ⟨by decide +kernel, by decide +kernel⟩
theorem test_hyp_FabricTimeAndPeers :
    -- 1.2
    Command (atUna 2 cmdP) 50 cmdP grpF1 ∧
    -- 1.1
    (atUna 0 cmdP).fab.unacked = [una 0] ∧
    (una 0).inj = true ∧
    (una 0).since + nsToClk 250000 ≤ (atUna 0 cmdP).env.clk ∧
    mayLeave (atUna 0 cmdP) (una 0).pkt (una 0).sw = true ∧
    (∀ r ∈ (atUna 0 cmdP).fab.reds, ∀ q ∈ r.got, q.2.xid ≠ (una 0).pkt.xid) ∧
    (una 0).pkt.att < 2 ∧
    -- 1.2
    (atUna 2 cmdP).fab.unacked = [una 2] ∧
    (una 2).inj = true ∧
    (una 2).since + nsToClk 250000 ≤ (atUna 2 cmdP).env.clk ∧
    mayLeave (atUna 2 cmdP) (una 2).pkt (una 2).sw = true ∧
    (∀ r ∈ (atUna 2 cmdP).fab.reds, ∀ q ∈ r.got, q.2.xid ≠ (una 2).pkt.xid) ∧
    2 ≤ (una 2).pkt.att ∧
    cmdP.xid = (una 2).pkt.xid ∧
    cmdP.kind ≠ 3 ∧
    cmdP.fail = 0 ∧
    -- 2.1
    1000000 ≤ (oldPkt.ns + 2 ^ 32 - pkt0.itime) % 2 ^ 32 ∧
    nget oldPkt.fab.rxq (pktKey pkt0) = none ∧
    -- 2.2.1
    nget (atUna 0 cmdP).fab.peers 9 = some PeerState.up ∧
    -- 2.2.2.1.1
    nget (withPeer (PeerState.recov 0) 4500000000).fab.peers 9 = some (PeerState.recov 0) ∧
    -- 2.2.2.1.2
    0 + nsToClk 2000000000 ≤ (withPeer (PeerState.recov 0) 4500000000).env.clk ∧
    (withPeer (PeerState.recov 0) 4500000000).fab.sysReq = [] ∧
    -- 2.2.2.2
    0 < 64 :=
  ⟨command_of (by decide +kernel), by decide +kernel⟩
theorem test_hyp_CountingEndsAfterWait :
    -- all
    NotInRecovery atRxq 9 ∧
    (∀ (e : Nat), (atRxq.rx (xferKey 9 3)).endAt = some e → rxq0.pkt.pseq < e) ∧
    -- all
    rxq0.pkt.smod = 9 ∧
    rxq0.pkt.xid = 3 ∧
    rxq0.pkt.pseq < 2 ^ 32 ∧
    9 ≠ atRxq.mdl.number ∧
    rxq0.pkt.pkind = 0 ∧
    rxq0.written = true ∧
    atRxq.fab.rxq = [(pktKey rxq0.pkt, rxq0)] ∧
    (atRxq.rx (xferKey 9 3)).next < rxq0.pkt.pseq ∧
    rxq0.since + nsToClk 4000000 ≤ atRxq.env.clk :=
  ⟨notInRecovery_of (by decide +kernel), fun e he => none_of (by decide +kernel) e he, by decide +kernel⟩
theorem test_hyp_FabricEngineFaultHolds :
    -- all
    Command (atCmd cmdSend) 50 cmdSend grpF1 ∧
    -- all
    (∀ q ∈ (atCmd cmdSend).fab.cmds, q = (50, cmdSend)) ∧
    cmdSend.kind = 0 ∧
    cmdSend.sent = 0 ∧
    0 < cmdSend.total ∧
    cmdSend.fail = 0 ∧
    cmdSend.held = none ∧
    (atCmd cmdSend).halting cmdSend.ctx = false ∧
    0 < cmdSend.len ∧
    cmdSend.local' < 2 ^ 57 ∧
    cmdSend.ctx = grpF1.ctx ∧
    cmdSend.cu = grpF1.cu ∧
    walk (atCmd cmdSend) cmdSend.ctx cmdSend.local' = none ∧
    ((atCmd cmdSend).cu cmdSend.cu).rlb = [] ∧
    ngetD (atCmd cmdSend).mem.walkers (cmdSend.cu / 64) [] = [] ∧
    grpF1.isGroup = true ∧
    grpF1.place = Place.active ∧
    grpF1.fz = none ∧
    grpF1.stepping = 0 ∧
    ((atCmd cmdSend).ctx grpF1.ctx).sysent ≠ 0 :=
  ⟨command_of (by decide +kernel), by decide +kernel⟩
theorem test_hyp_TreeObjects :
    -- 1.1
    moduleReady readyObj ((readyObj.part 0).obj 0) 0 = true ∧
    ((readyObj.part 0).obj 0).phase % 65536 = 3 ∧
    (¬((readyObj.part 0).haltAt.isSome = true ∧ ((readyObj.part 0).obj 0).others readyObj.mdl.number = false)) ∧
    -- 1.2
    (moduleReady readyObj ((readyObj.part 0).obj 0) 0 = false ∨ ((readyObj.part 0).obj 0).phase % 65536 ≠ 0 ∨ (readyObj.part 0).haltAt.isSome =
      true ∧ ((readyObj.part 0).obj 0).others readyObj.mdl.number = false) ∧
    -- 2.1
    BitVec.getLsbD (1 : Word64) 0 = true ∧
    (((withObj (at7 (grpTb 4 4)) objNew).part 0).obj 0).en = false ∧
    -- 2.2.1
    BitVec.getLsbD (0 : Word64) 0 = false ∧
    ((readyObj.part 0).obj 0).en = true :=
  by decide +kernel
theorem test_hyp_HostWritesRegisters :
    -- 1
    1023 < 1024 ∧
    3 < 4 ∧
    1 % 8 ≠ 0 ∧
    -- 2.1
    (∃ r ∈ [(393216, 425984), (458752, 491520), (655360, 786432), (851968, 894976), (983048, 983056)], r.1 ≤ 393216 ∧ 393216 < r.2) ∧
    -- 2.2.1
    (¬∃ r ∈ [(65536, 66560), (262144, 327680), (524288, 655360), (917520, 918528), (983040, 983048), (983056, 983064), (2097152, 2621440)], r.1 ≤
      0 ∧ 0 < r.2) :=
  by decide +kernel
theorem test_hyp_QueueEntriesAreTaken :
    (
    -- 1
    0 < 1024 ∧
    1 < 4 ∧
    (atQue que0 (6 * 2 ^ 64) 0).mready = true ∧
    (((atQue que0 (6 * 2 ^ 64) 0).ctx 0).queue 1).sized = true ∧
    (BitVec.toNat (18 : Word64) % 2 ^ 32 + 2 ^ 32 - (((atQue que0 (6 * 2 ^ 64) 0).ctx 0).queue 1).head % 2 ^ 32) % 2 ^ 32 ≤ 2 ^ (((atQue que0 (6 *
      2 ^ 64) 0).ctx 0).queue 1).log2n ∧
    (((atQue que0 (6 * 2 ^ 64) 0).ctx 0).queue 1).tail ≤ (((atQue que0 (6 * 2 ^ 64) 0).ctx 0).queue 1).head + (BitVec.toNat (18 : Word64) % 2 ^ 32
      + 2 ^ 32 - (((atQue que0 (6 * 2 ^ 64) 0).ctx 0).queue 1).head % 2 ^ 32) % 2 ^ 32 ∧
    -- 2.1
    (2 ^ (((atQue que0 131072 0).ctx 0).queue 1).log2n < (BitVec.toNat (0 : Word64) % 2 ^ 32 + 2 ^ 32 - (((atQue que0 131072 0).ctx 0).queue
      1).head % 2 ^ 32) % 2 ^ 32 ∨ (((atQue que0 131072 0).ctx 0).queue 1).head + (BitVec.toNat (0 : Word64) % 2 ^ 32 + 2 ^ 32 - (((atQue que0
      131072 0).ctx 0).queue 1).head % 2 ^ 32) % 2 ^ 32 < (((atQue que0 131072 0).ctx 0).queue 1).tail ∨ (((atQue que0 131072 0).ctx 0).queue
      1).log2n < 4 ∨ 16 < (((atQue que0 131072 0).ctx 0).queue 1).log2n ∨ (atQue que0 131072 0).mready = false) ∧
    -- 2.2.1.1
    queueReady (atQue que0 131072 0) 0 1 = true ∧
    (headEntry (atQue que0 131072 0) 0 1).2 = RingEntry.ok 0 0 131072 false ∧
    0 = 0 ∧
    -- 2.2.1.2.1
    queueReady (atQue que0 (5 * 2 ^ 64 + 17) 7) 0 1 = true ∧
    (headEntry (atQue que0 (5 * 2 ^ 64 + 17) 7) 0 1).2 = RingEntry.ok 1 5 0 true ∧
    1 = 1 ∧
    (((atQue que0 (5 * 2 ^ 64 + 17) 7).ctx 0).queue 1).entries = [] ∧
    -- 2.2.1.2.2.1
    queueReady (atQue queEnt (5 * 2 ^ 64 + 1) 7) 0 1 = true ∧
    (headEntry (atQue queEnt (5 * 2 ^ 64 + 1) 7) 0 1).2 = RingEntry.ok 1 5 0 false ∧
    (((atQue queEnt (5 * 2 ^ 64 + 1) 7).ctx 0).queue 1).entries ≠ [] ∧
    -- 2.2.1.2.2.2.1
    queueReady (atQue que0 ((2 ^ 32 + 5) * 2 ^ 64 + 2) 1) 0 1 = true ∧
    (headEntry (atQue que0 ((2 ^ 32 + 5) * 2 ^ 64 + 2) 1) 0 1).2 = RingEntry.ok 2 4294967301 0 false ∧
    2 = 2 ∧
    tokSatisfied ((atQue que0 ((2 ^ 32 + 5) * 2 ^ 64 + 2) 1).token ((atQue que0 ((2 ^ 32 + 5) * 2 ^ 64 + 2) 1).ctx 0).key (tokIdx 4294967301))
      4294967301 = true ∧
    -- 2.2.1.2.2.2.2.1
    queueReady (atQue que0 ((2 ^ 32 + 5) * 2 ^ 64 + 2) 0) 0 1 = true ∧
    (headEntry (atQue que0 ((2 ^ 32 + 5) * 2 ^ 64 + 2) 0) 0 1).2 = RingEntry.ok 2 4294967301 0 false ∧
    tokSatisfied ((atQue que0 ((2 ^ 32 + 5) * 2 ^ 64 + 2) 0).token ((atQue que0 ((2 ^ 32 + 5) * 2 ^ 64 + 2) 0).ctx 0).key (tokIdx 4294967301))
      4294967301 = false ∧
    -- 2.2.1.2.2.2.2.2.1
    queueReady (atQue que0 (5 * 2 ^ 64 + 3) 7) 0 1 = true ∧
    (headEntry (atQue que0 (5 * 2 ^ 64 + 3) 7) 0 1).2 = RingEntry.ok 3 5 0 false ∧
    3 = 3 ∧
    (((atQue que0 (5 * 2 ^ 64 + 3) 7).ctx 0).queue 1).entries = []) ∧
    -- 2.2.1.2.2.2.2.2.2
    queueReady (atQue queEnt (5 * 2 ^ 64 + 3) 7) 0 1 = true ∧
    (headEntry (atQue queEnt (5 * 2 ^ 64 + 3) 7) 0 1).2 = RingEntry.ok 3 5 0 false ∧
    (((atQue queEnt (5 * 2 ^ 64 + 3) 7).ctx 0).queue 1).entries ≠ [] ∧
    -- 2.2.2
    queueReady (atQue que0 (5 * 2 ^ 64 + 20) 7) 0 1 = true ∧
    (headEntry (atQue que0 (5 * 2 ^ 64 + 20) 7) 0 1).2 = RingEntry.bad true :=
  ⟨by decide +kernel, by decide +kernel⟩
theorem test_hyp_LaunchesAreAccepted :
    -- 1
    1 < 4 ∧
    (((atRec recTok).ctx 0).queue 1).pend = some 131072 ∧
    (((atRec recTok).ctx 0).queue 1).entries = [ent2] ∧
    (atRec recTok).mem.hostLines = [] ∧
    (readRange (atRec recTok) 0 131072 128).2 = some (recBytes recTok) ∧
    (¬(BitVec.ofNat 64 (leNat (sliceOf (recBytes recTok) 80 8)) = 0 ∨ tokSatisfied ((atRec recTok).token ((atRec recTok).ctx 0).key (tokIdx
      (BitVec.ofNat 64 (leNat (sliceOf (recBytes recTok) 80 8))))) (BitVec.ofNat 64 (leNat (sliceOf (recBytes recTok) 80 8))) = true)) ∧
    -- 2.1
    (((atRec recBad0).ctx 0).queue 1).pend = some 131072 ∧
    (((atRec recBad0).ctx 0).queue 1).entries = [ent2] ∧
    (atRec recBad0).mem.hostLines = [] ∧
    (readRange (atRec recBad0) 0 131072 128).2 = some (recBytes recBad0) ∧
    (BitVec.ofNat 64 (leNat (sliceOf (recBytes recBad0) 80 8)) = 0 ∨ tokSatisfied ((atRec recBad0).token ((atRec recBad0).ctx 0).key (tokIdx
      (BitVec.ofNat 64 (leNat (sliceOf (recBytes recBad0) 80 8))))) (BitVec.ofNat 64 (leNat (sliceOf (recBytes recBad0) 80 8))) = true) ∧
    recBad (leNat (recBytes recBad0)) (parseRecord (leNat (recBytes recBad0))) ((atRec recBad0).ctx 0).privq = true ∧
    -- 2.2
    (((atRec rec0).ctx 0).queue 1).pend = some 131072 ∧
    (((atRec rec0).ctx 0).queue 1).entries = [ent2] ∧
    (atRec rec0).mem.hostLines = [] ∧
    (readRange (atRec rec0) 0 131072 128).2 = some (recBytes rec0) ∧
    (BitVec.ofNat 64 (leNat (sliceOf (recBytes rec0) 80 8)) = 0 ∨ tokSatisfied ((atRec rec0).token ((atRec rec0).ctx 0).key (tokIdx (BitVec.ofNat
      64 (leNat (sliceOf (recBytes rec0) 80 8))))) (BitVec.ofNat 64 (leNat (sliceOf (recBytes rec0) 80 8))) = true) ∧
    recBad (leNat (recBytes rec0)) (parseRecord (leNat (recBytes rec0))) ((atRec rec0).ctx 0).privq = false ∧
    (parseRecord (leNat (recBytes rec0))).kcnt = 0 ∧
    (parseRecord (leNat (recBytes rec0))).pen = false ∧
    ((List.filter (fun p => decide (p.2.ctx = 0)) (atRec rec0).lch).length < 2 ^ 32) :=
  by decide +kernel
theorem test_hyp_WorkgroupsAreAdmitted :
    -- all
    nget (atRun lchRun).lch 3 = some lchRun ∧
    (∀ p ∈ (atRun lchRun).wgs, p.2.evicted = false) ∧
    choose (atRun lchRun) 0 (admissible (atRun lchRun) 0) = some (0, 3, lchRun, [0]) ∧
    lchRun.relDone = true ∧
    lchRun.lr.clsz = 0 ∧
    needsTurn (atRun lchRun) lchRun.ctx lchRun.lr 0 = false ∧
    0 ∈ lchRun.acted :=
  by decide +kernel
theorem test_hyp_LaunchesComplete :
    -- 1
    nget (atEnd lchEnd).lch 3 = some lchEnd ∧
    lchEnd.src = Source.queue 0 0 ∧
    lchEnd.clusters ≤ lchEnd.next ∧
    lchEnd.live = 0 ∧
    lchEnd.killed = false ∧
    (∀ cu ∈ lchEnd.ranOn, dirtySectors (atEnd lchEnd) cu = []) ∧
    -- 2.1
    nget (atEnd lchRun).lch 3 = some lchRun ∧
    lchRun.src = Source.queue 0 0 ∧
    (lchRun.next < lchRun.clusters ∨ lchRun.live ≠ 0) ∧
    -- 2.2.1
    nget ((atEnd lchRun).ctx 1).objs 0 = some obj3 ∧
    obj3.done = false ∧
    (atEnd lchRun).halting 1 = false ∧
    quiescent (atEnd lchRun) 1 0 obj3 = false ∧
    -- 2.2.2.2
    nget (atWork objEmpty).lch 3 = some lchSent ∧
    lchSent.src = Source.queue 0 0 ∧
    nget ((atWork objEmpty).ctx 1).objs 0 = some objEmpty ∧
    objEmpty.done = false ∧
    (atWork objEmpty).halting 1 = false ∧
    quiescent (atWork objEmpty) 1 0 objEmpty = true ∧
    objEmpty.waves = 0 ∧
    -- 2.2.2.1
    nget (atWork objWave1).lch 3 = some lchSent ∧
    nget ((atWork objWave1).ctx 1).objs 0 = some objWave1 ∧
    objWave1.done = false ∧
    (atWork objWave1).halting 1 = false ∧
    quiescent (atWork objWave1) 1 0 objWave1 = true ∧
    objWave1.waves = 1 ∧
    objWave1.snap = objWave1.ops :=
  by decide +kernel
theorem test_hyp_SlotsAreSwapped :
    (
    -- 1.1.1
    nextTurn swapState = some grpWaits.slotKey ∧
    inSlot swapState grpWaits.slotKey = some (7, grpWaits) ∧
    swapState.thread 7 = some grpWaits ∧
    grpWaits.inPlace = true ∧
    swapState.thread 8 = some grpIn ∧
    grpIn.place = Place.pending ∧
    longestReady swapState grpWaits.cu grpWaits.barrel = some (8, grpIn) ∧
    (grpWaits.waits = true ∨ grpWaits.offer ≠ 0) ∧
    -- 1.1.2
    firstOverdue swapState grpWaits.cu grpWaits.barrel = some (8, grpIn) ∧
    grpWaits.slotSince + 8 ≤ swapState.cyc ∧
    grpWaits.holdsSlot swapState = true ∧
    (∀ p ∈ swapState.thr, p.2.slotKey = grpWaits.slotKey → p.2.holdsSlot swapState = true → p.1 = 7) ∧
    -- 1.2.1
    nextTurn (slotState ((7, grpAlone) :: grpFull24 24)) = some grpAlone.slotKey ∧
    inSlot (slotState ((7, grpAlone) :: grpFull24 24)) grpAlone.slotKey = some (7, grpAlone) ∧
    (slotState ((7, grpAlone) :: grpFull24 24)).thread 7 = some grpAlone ∧
    grpAlone.inPlace = true ∧
    longestReady (slotState ((7, grpAlone) :: grpFull24 24)) grpAlone.cu grpAlone.barrel = none ∧
    (grpAlone.waits = true ∨ grpAlone.offer ≠ 0) ∧
    (pendingRoom ((slotState ((7, grpAlone) :: grpFull24 24)).modThread 7 fun u => { kind := u.kind, agent := u.agent, noticeTad := u.noticeTad, hasWg := u.hasWg, wg := u.wg, gnum := u.gnum, ctx := u.ctx, launch := u.launch, cu := u.cu, barrel := u.barrel, slot := u.slot, place := u.place, budget := u.budget, pc := u.pc, exm := u.exm, deadm := u.deadm, hlpm := u.hlpm, lmask := u.lmask, exited := u.exited, c0 := u.c0, stack := u.stack, shExm := u.shExm, shC := u.shC, vmap := u.vmap, sreg := u.sreg, preg := u.preg, kreg := u.kreg, sig := u.sig, nchk := u.nchk, fpctl := u.fpctl, fpstat := u.fpstat, mstat := u.mstat, cL := u.cL, cS := u.cS, cC := u.cC, cM := u.cM, timeL := u.timeL, timeG := u.timeG, log := u.log, logSeq := u.logSeq, locks := u.locks, mons := u.mons, batchNo := u.batchNo, openOps := u.openOps, batches := u.batches, fseq := u.fseq, fOpen := u.fOpen, ffail := u.ffail, joins := u.joins, early := u.early, blk := u.blk, wb := u.wb, fz := u.fz, postCause := u.postCause, postMore := u.postMore, gen := u.gen, frec := u.frec, tkind := u.tkind, target := u.target, pselCtx := u.pselCtx, pselKey := u.pselKey, notice := u.notice, stall := u.stall, waits := u.waits, offer := 0, readySince := u.readySince, aslot := u.aslot, behind := u.behind, woke := u.woke, slotSince := u.slotSince, swaps := u.swaps, overdue := u.overdue, wdSince := u.wdSince, stepping := u.stepping, stepRes := u.stepRes, stepSince := u.stepSince, moved := u.moved, corrupt := u.corrupt, ops := u.ops }) grpAlone.cu grpAlone.barrel = false) ∧
    -- 1.2.2
    nextTurn (atCode barWord grpAlone lchTab) = some grpAlone.slotKey ∧
    inSlot (atCode barWord grpAlone lchTab) grpAlone.slotKey = some (7, grpAlone) ∧
    (atCode barWord grpAlone lchTab).thread 7 = some grpAlone ∧
    longestReady (atCode barWord grpAlone lchTab) grpAlone.cu grpAlone.barrel = none ∧
    (pendingRoom ((atCode barWord grpAlone lchTab).modThread 7 fun u => { kind := u.kind, agent := u.agent, noticeTad := u.noticeTad, hasWg := u.hasWg, wg := u.wg, gnum := u.gnum, ctx := u.ctx, launch := u.launch, cu := u.cu, barrel := u.barrel, slot := u.slot, place := u.place, budget := u.budget, pc := u.pc, exm := u.exm, deadm := u.deadm, hlpm := u.hlpm, lmask := u.lmask, exited := u.exited, c0 := u.c0, stack := u.stack, shExm := u.shExm, shC := u.shC, vmap := u.vmap, sreg := u.sreg, preg := u.preg, kreg := u.kreg, sig := u.sig, nchk := u.nchk, fpctl := u.fpctl, fpstat := u.fpstat, mstat := u.mstat, cL := u.cL, cS := u.cS, cC := u.cC, cM := u.cM, timeL := u.timeL, timeG := u.timeG, log := u.log, logSeq := u.logSeq, locks := u.locks, mons := u.mons, batchNo := u.batchNo, openOps := u.openOps, batches := u.batches, fseq := u.fseq, fOpen := u.fOpen, ffail := u.ffail, joins := u.joins, early := u.early, blk := u.blk, wb := u.wb, fz := u.fz, postCause := u.postCause, postMore := u.postMore, gen := u.gen, frec := u.frec, tkind := u.tkind, target := u.target, pselCtx := u.pselCtx, pselKey := u.pselKey, notice := u.notice, stall := u.stall, waits := u.waits, offer := 0, readySince := u.readySince, aslot := u.aslot, behind := u.behind, woke := u.woke, slotSince := u.slotSince, swaps := u.swaps, overdue := u.overdue, wdSince := u.wdSince, stepping := u.stepping, stepRes := u.stepRes, stepSince := u.stepSince, moved := u.moved, corrupt := u.corrupt, ops := u.ops }) grpAlone.cu grpAlone.barrel = true) ∧
    ((standsAt ((atCode barWord grpAlone lchTab).modThread 7 fun u => { kind := u.kind, agent := u.agent, noticeTad := u.noticeTad, hasWg := u.hasWg, wg := u.wg, gnum := u.gnum, ctx := u.ctx, launch := u.launch, cu := u.cu, barrel := u.barrel, slot := u.slot, place := u.place, budget := u.budget, pc := u.pc, exm := u.exm, deadm := u.deadm, hlpm := u.hlpm, lmask := u.lmask, exited := u.exited, c0 := u.c0, stack := u.stack, shExm := u.shExm, shC := u.shC, vmap := u.vmap, sreg := u.sreg, preg := u.preg, kreg := u.kreg, sig := u.sig, nchk := u.nchk, fpctl := u.fpctl, fpstat := u.fpstat, mstat := u.mstat, cL := u.cL, cS := u.cS, cC := u.cC, cM := u.cM, timeL := u.timeL, timeG := u.timeG, log := u.log, logSeq := u.logSeq, locks := u.locks, mons := u.mons, batchNo := u.batchNo, openOps := u.openOps, batches := u.batches, fseq := u.fseq, fOpen := u.fOpen, ffail := u.ffail, joins := u.joins, early := u.early, blk := u.blk, wb := u.wb, fz := u.fz, postCause := u.postCause, postMore := u.postMore, gen := u.gen, frec := u.frec, tkind := u.tkind, target := u.target, pselCtx := u.pselCtx, pselKey := u.pselKey, notice := u.notice, stall := u.stall, waits := u.waits, offer := 0, readySince := u.readySince, aslot := u.aslot, behind := u.behind, woke := u.woke, slotSince := u.slotSince, swaps := u.swaps, overdue := u.overdue, wdSince := u.wdSince, stepping := u.stepping, stepRes := u.stepRes, stepSince := u.stepSince, moved := u.moved, corrupt := u.corrupt, ops := u.ops }) 7 grpAlone).isSome = true)) ∧
    -- 2.1
    0 < 4 ∧
    0 < 2 ^ 30 ∧
    nextTurn (slotState [(8, grpIn)]) = some (slotKey 0 0 0) ∧
    inSlot (slotState [(8, grpIn)]) (slotKey 0 0 0) = none ∧
    0 ∈ freeSlots (slotState [(8, grpIn)]) 0 0 ∧
    longestReady (slotState [(8, grpIn)]) 0 0 = some (8, grpIn) ∧
    (slotState [(8, grpIn)]).thread 8 = some grpIn ∧
    -- 2.2.1
    nextTurn swapState ≠ some (slotKey 7 7 7) :=
  ⟨by decide +kernel, by decide +kernel⟩
theorem test_hyp_GroupsParkAndWake :
    -- 1.2.2
    (∃ v, parkWrite (parkable.touch grpPend.ctx (liveXl parkable)) grpPend.cu grpPend.ctx 7 groupPark = (v, true) ∧ v.thread 7 = some grpPend) ∧
    (
    -- 1.1
    (atPark parkPool (2 ^ 320)).thread 7 = some grpPend ∧
    mayPark (atPark parkPool (2 ^ 320)) 7 grpPend = true ∧
    livenessAt (atPark parkPool (2 ^ 320)) grpPend (parkPc (atPark parkPool (2 ^ 320)) 7 grpPend) = some (liveXl (atPark parkPool (2 ^ 320))) ∧
    livenessMask (atPark parkPool (2 ^ 320)) (liveXl (atPark parkPool (2 ^ 320))) (parkPc (atPark parkPool (2 ^ 320)) 7 grpPend) = none ∧
    -- 1.2.1
    (atPark parkPool recV1).thread 7 = some grpPend ∧
    mayPark (atPark parkPool recV1) 7 grpPend = true ∧
    livenessAt (atPark parkPool recV1) grpPend (parkPc (atPark parkPool recV1) 7 grpPend) = some (liveXl (atPark parkPool recV1)) ∧
    livenessMask (atPark parkPool recV1) (liveXl (atPark parkPool recV1)) (parkPc (atPark parkPool recV1) 7 grpPend) = some 2 ∧
    (parkWrite ((atPark parkPool recV1).touch grpPend.ctx (liveXl (atPark parkPool recV1))) grpPend.cu grpPend.ctx 7 groupPark).2 = false ∧
    -- 1.2.2
    parkable.thread 7 = some grpPend ∧
    mayPark parkable 7 grpPend = true ∧
    livenessAt parkable grpPend (parkPc parkable 7 grpPend) = some (liveXl parkable) ∧
    livenessMask parkable (liveXl parkable) (parkPc parkable 7 grpPend) = some 2 ∧
    -- 2.1
    reclState.thread 7 = some grp ∧
    (mayPark reclState 7 grp = false ∨ livenessAt reclState grp (parkPc reclState 7 grp) = none) ∧
    -- 2.2.1
    wokenState.thread 7 = some grpPark ∧
    grpPark.place = Place.parked ∧
    grpPark.fz = none ∧
    wakeHolds wokenState 7 grpPark = true ∧
    wokenState.wg grpPark.wg = some wgBar ∧
    wgBar.evicted = false ∧
    wgBar.killed = false ∧
    wokenState.halting grpPark.ctx = false ∧
    budgetFits wokenState grpPark = true ∧
    pendingRoom wokenState grpPark.cu grpPark.barrel = true ∧
    -- 2.2.2.1
    (grp.place ≠ Place.parked ∨ wakeHolds reclState 7 grp = false ∨ budgetFits reclState grp = false ∨ pendingRoom reclState grp.cu grp.barrel =
      false) ∧
    -- 2.2.2.2.1
    (reclState.cu 0).reclaim = false ∧
    reclaimDue reclState 0 = true) ∧
    -- 2.2.2.2.2.1
    (wokenState.cu 0).reclaim = true ∧
    (wokenState.cu 0).ctx = some 1 ∧
    wokenState.halting 1 = false ∧
    cuLeaves wokenState 0 = true ∧
    dirtySectors wokenState 0 = [] ∧
    (saveWgs wokenState 0).2 = false ∧
    -- 2.2.2.2.2.2
    leaveIdle.thread 7 = some grpPark ∧
    (leaveIdle.cu 0).reclaim = true ∧
    (leaveIdle.cu 0).ctx = some 1 ∧
    leaveIdle.halting 1 = false ∧
    cuLeaves leaveIdle 0 = true ∧
    dirtySectors leaveIdle 0 = [] ∧
    (saveWgs leaveIdle 0).2 = true :=
  ⟨group_parked _ (by decide +kernel), by decide +kernel, by decide +kernel⟩
theorem test_hyp_TadpoleSpawns :
    -- all
    ((spawnState spawn1).cu 0).spawnq = [spawn1, spawn1] ∧
    (if spawn1.agent = true then ((spawnState spawn1).cu 0).agent = none else ((spawnState spawn1).cu 0).pool.length < 8) ∧
    spawn1.tid ≠ (spawnState spawn1).env.nextId :=
  by decide +kernel
theorem test_hyp_WatchdogAndCodeLines :
    -- 1
    wdWait.thread 7 = some grpBarNow ∧
    (grpBarNow.fz = none ∧ (grpBarNow.place = Place.active ∨ grpBarNow.place = Place.pending)) ∧
    (recognisedWait wdWait 7 grpBarNow = true ∨ wdWait.halting grpBarNow.ctx = true) ∧
    -- 2.1
    wdState.thread 7 = some grp ∧
    (grp.fz = none ∧ (grp.place = Place.active ∨ grp.place = Place.pending)) ∧
    (¬(recognisedWait wdState 7 grp = true ∨ wdState.halting grp.ctx = true)) ∧
    grp.wdSince + 16777216 ≤ wdState.cyc ∧
    -- 2.2.1
    base.thread 7 = some grp ∧
    (¬(grp.fz = none ∧ (grp.place = Place.active ∨ grp.place = Place.pending)) ∨ ¬(recognisedWait base 7 grp = true ∨ base.halting grp.ctx = true)
      ∧ base.cyc < grp.wdSince + 16777216) ∧
    -- 2.2.2.1
    (nextTurn base).bind (inSlot base) = some (7, grp) :=
  by decide +kernel
theorem test_hyp_LaneDeathDropsLanes :
    -- all
    (at7 grpJ).thread 7 = some grpJ ∧
    grpJ.isGroup = true ∧
    grpJ.place ≠ Place.exited ∧
    (1 &&& grpJ.lmask &&& ~~~grpJ.exited &&& ~~~grpJ.deadm ≠ 0) ∧
    ((grpJ.killLanes (1 &&& grpJ.lmask &&& ~~~grpJ.exited &&& ~~~grpJ.deadm)).aliveLanes ≠ 0) ∧
    ((at7 grpJ).ctx grpJ.ctx).sysent ≠ 0 ∧
    ((at7 grpJ).cu grpJ.cu).spawnq = [] :=
  by decide +kernel
theorem test_hyp_PartitionHalts :
    -- 1
    trig0 ∈ (haltState.part 0).waves ∧
    -- 2.1
    (drainState.part 0).haltAt = some 10 ∧
    (drainState.part 0).first = some trig0 ∧
    10 + nsToClk 4000 ≤ drainState.env.clk ∧
    -- 2.2
    (drainState.ctx 1).key = 0 ∧
    (drainState.ctx 1).state = 1 ∧
    (drainState.part 0).haltAt.isSome = true ∧
    agentThere drainState 0 = false ∧
    (∀ d ∈ haltingCtxs drainState 0, (drainState.ctx d).settled = true ∧ ((drainState.ctx d).state = 2 ∨ Machine.drained drainState d = true)) ∧
    (List.find? (fun d => decide ((drainState.ctx d).sysent ≠ 0) && (drainState.ctx d).cuh.any fun n => decide ((drainState.cu n).ctx = some d))
      (haltingCtxs drainState 0) = some 1) ∧
    (List.find? (fun n => decide ((drainState.cu n).ctx = some 1)) (drainState.ctx 1).cuh = some 0) :=
  by decide +kernel
theorem test_hyp_PartitionResumes :
    -- 2.1
    (∀ (tid : Nat) (t : Thread), (askState ctxResuming partT).thread tid = some t → t.isGroup = true → t.place ≠ Place.exited → inPart (askState
      ctxResuming partT) 0 t = true → t.aliveLanes ≠ 0) ∧
    -- 1
    ((askState ctxHalted partAsk).part 0).resumeT = none ∧
    ((askState ctxHalted partAsk).part 0).asked.isSome = true ∧
    mayAck (askState ctxHalted partAsk) 0 = true ∧
    -- 2.1
    ((askState ctxResuming partT).part 0).resumeT = some 500 ∧
    500 ≤ (askState ctxResuming partT).ns ∧
    (nkeys (askState ctxResuming partT).thr).Nodup ∧
    -- 2.2.1
    (haltingCtxs (askState ctxResuming partT) 0 = [] ∨ ∃ c ∈ haltingCtxs (askState ctxResuming partT) 0, ((askState ctxResuming partT).ctx
      c).state ≠ 2) ∧
    -- 2.2.2
    (failState.part 0).asked = some 10 ∧
    (failState.part 0).resumeT = none ∧
    (10 + nsToClk 100000000 ≤ failState.env.clk ∧ mayAck failState 0 = false ∨ (failState.part 0).lost = true) ∧
    haltingCtxs failState 0 ≠ [] ∧
    (∀ c ∈ haltingCtxs failState 0, (failState.ctx c).state = 2) :=
  ⟨all_alive, by decide +kernel⟩
theorem test_hyp_HostReachesMemory :
    -- 1.1
    1 < 4 ∧
    320 < 4032 * 2 ^ 30 ∧
    State.reset.host.ops = [] ∧
    BitVec.getLsbD State.reset.mdl.mstatus 0 = false ∧
    -- 2.1
    (hostState lines85).host.ops = [] ∧
    (BitVec.getLsbD (hostState lines85).mdl.mstatus 0 = true ∧ homeLost (hostState lines85) 320 = false) ∧
    (hostState lines85).winOf (320 / 64) = none ∧
    (hostState lines85).canRead (84 + 1) (320 / 64) = true ∧
    -- 2.2.2.2.2
    9 < 2 ^ 46 ∧
    nget (hostState lines85).mem.hostLines (1 * 2 ^ 46 + 9) = some hostLine0 ∧
    hostLine0.dirty = true ∧
    hostLine0.data.length = 64 ∧
    -- 2.2.2.1
    (hostState lines85all).host.ops = [] ∧
    (BitVec.getLsbD (hostState lines85all).mdl.mstatus 0 = true ∧ homeLost (hostState lines85all) 320 = false) ∧
    (hostState lines85all).winOf (320 / 64) = none ∧
    (hostState lines85all).canWrite (84 + 1) (320 / 64) = true ∧
    ((hostState lines85all).line (84 + 1) (320 / 64)).o = true ∧
    ((hostState lines85all).line (84 + 1) (320 / 64)).n ≠ 0 ∧
    -- 2.2.1
    (hostState []).host.ops = [] ∧
    (BitVec.getLsbD (hostState []).mdl.mstatus 0 = true ∧ homeLost (hostState []) 320 = false) ∧
    (hostState []).winOf (320 / 64) = none ∧
    (hostState []).canRead (84 + 1) (320 / 64) = false ∧
    -- 2.2.2.2.1
    65536 < 4032 * 2 ^ 30 ∧
    (withWin winOn).host.ops = [] ∧
    (BitVec.getLsbD (withWin winOn).mdl.mstatus 0 = true ∧ homeLost (withWin winOn) 65536 = false) ∧
    ((withWin winOn).winOf (65536 / 64)).isSome = true :=
  by decide +kernel
theorem test_hyp_StartUpAndReset :
    -- 1
    startFailure startOk = none ∧
    -- 2.1
    startFailure startBad = some (1, 255) :=
  by decide +kernel
theorem test_hyp_TilesAreLostAndReturn :
    -- 2.1.1
    (∀ (w : Nat) (g : Wg) (tid : Nat) (t : Thread), dieIdle.wg w = some g → tid ∈ g.groups → dieIdle.thread tid = some t → t.wg = w) ∧
    -- 1.1
    0 < 84 ∧
    (∀ p ∈ dieIdle.thr, (dieIdle.ctx p.2.ctx).sysent ≠ 0) ∧
    (nkeys dieIdle.thr).Nodup ∧
    dieIdle.mdl.lostTiles.contains (memoryTile 0) = false ∧
    -- 2.1.1
    dieIdle.mdl.lostTiles.contains (computeTile 0) = false ∧
    (∀ p ∈ dieIdle.thr, p.2.isGroup = true ∨ dieOf p.2.cu ≠ 0) ∧
    -- 2.1.2
    56 ≤ onesOf 4611686018427387903 ∧
    -- 2.2
    0 < 4 ∧
    dieIdle.mdl.lostTiles.contains (1084 + 0) = false :=
  ⟨noGroups, by decide +kernel⟩
theorem test_hyp_CalibrationAndThrottling :
    -- 1
    rootLost base = false ∧
    maySlew base 0 = true ∧
    (0 < 84 ∧ maySlew base 84 = true ∧ 3 = max (-4) (min 4 3) - ngetD base.mdl.skew 0 0 ∨ 0 = 84 ∧ timeMaster base ≠ base.mdl.number ∧ (List.range
      84).all (maySlew base) = true ∧ 3 = offsetOf base 84 + 3) ∧
    -- 2.1
    (rootLost (lost base [91]) = true ∨ maySlew (lost base [91]) 0 = false) :=
  by decide +kernel
theorem test_hyp_TakingAFault :
    -- 1
    base.thread 7 = some grp ∧
    (base.ctx grp.ctx).sysent ≠ 0 ∧
    grp.kind = Mode.group ∧
    grp.stepping = 0 ∧
    trapX.cause ≠ cBKPT ∧
    trapX.cause ≠ cMISAL ∧
    trapX.cause ≠ cDIEL ∧
    trapX.cause < 256 ∧
    (∀ (l : Launch), base.launchOf grp = some l → l.lr.haltm.testBit trapX.cause = false) ∧
    -- 2
    (at9 utad).thread 9 = some utad ∧
    ((at9 utad).ctx utad.ctx).sysent ≠ 0 ∧
    utad.kind = Mode.userTadpole ∧
    (∀ (b : Blk), utad.blk = some b → b.stage ≠ stepWait ∧ b.stage ≠ stepRun) :=
  by decide +kernel
theorem test_hyp_TranslationOfOneRange :
    -- 2.2
    bits ((atEntry poolW).ctx 1).rtcnt 16 0 = 1 ∧
    reCovers (rangeEntry (atEntry poolW) ((atEntry poolW).ctx 1) 0) (8200 / 4096) = true ∧
    reValid (atEntry poolW) (rangeEntry (atEntry poolW) ((atEntry poolW).ctx 1) 0) = true ∧
    reKind (rangeEntry (atEntry poolW) ((atEntry poolW).ctx 1) 0) = 0 ∧
    reHset (rangeEntry (atEntry poolW) ((atEntry poolW).ctx 1) 0) = 0 ∧
    -- 1
    (reCovers (rangeEntry (atEntry poolW) ((atEntry poolW).ctx 1) 0) (4104 / 4096) = false ∨ reValid (atEntry poolW) (rangeEntry (atEntry poolW)
      ((atEntry poolW).ctx 1) 0) = false) ∧
    -- 2.1
    bits ((atEntry hostW).ctx 1).rtcnt 16 0 = 1 ∧
    reCovers (rangeEntry (atEntry hostW) ((atEntry hostW).ctx 1) 0) (20488 / 4096) = true ∧
    reValid (atEntry hostW) (rangeEntry (atEntry hostW) ((atEntry hostW).ctx 1) 0) = true ∧
    reKind (rangeEntry (atEntry hostW) ((atEntry hostW).ctx 1) 0) = 2 :=
  by decide +kernel
theorem test_hyp_StepTakesFrontFaults :
    -- 1
    HasTurn unmapped (turnAt badWord grpSh) 7 grpSh ∧
    -- 2.1
    HasTurn (turnState badWord grpSh) (turnAt badWord grpSh) 7 grpSh ∧
    -- 2.2.1
    HasTurn (turnState tadWord grpSh) (turnAt tadWord grpSh) 7 grpSh ∧
    -- 2.2.2
    HasTurn (turnState addWord grpCorrupt) (turnAt addWord grpCorrupt) 7 grpCorrupt ∧
    -- 1
    grpSh.shadowOk = true ∧
    fetchAt (atTurn unmapped (turnAt badWord grpSh) 7 grpSh) grpSh.cu grpSh.ctx grpSh.pc = Fetched.trap xlatTrap ∧
    -- 2.1
    fetchAt (atTurn (turnState badWord grpSh) (turnAt badWord grpSh) 7 grpSh) grpSh.cu grpSh.ctx grpSh.pc = Fetched.word badWord ∧
    decode grpSh.kind badWord = Decoded.illegal 7 4 ∧
    -- 2.2.1
    fetchAt (atTurn (turnState tadWord grpSh) (turnAt tadWord grpSh) 7 grpSh) grpSh.cu grpSh.ctx grpSh.pc = Fetched.word tadWord ∧
    decode grpSh.kind tadWord = Decoded.instr tadInstr ∧
    privSyn grpSh.kind (opcOf tadWord) (fieldsOf tadWord) = some 1 ∧
    -- 2.2.2
    grpCorrupt.shadowOk = true ∧
    fetchAt (atTurn (turnState addWord grpCorrupt) (turnAt addWord grpCorrupt) 7 grpCorrupt) grpCorrupt.cu grpCorrupt.ctx grpCorrupt.pc =
      Fetched.word addWord ∧
    decode grpCorrupt.kind addWord = Decoded.instr (Instr.sadd fadd) ∧
    privSyn grpCorrupt.kind (opcOf addWord) (fieldsOf addWord) = none ∧
    grpCorrupt.blk = none ∧
    readsCorrupt (atTurn (turnState addWord grpCorrupt) (turnAt addWord grpCorrupt) 7 grpCorrupt) 7 grpCorrupt (opcOf addWord) (fieldsOf addWord)
      = true :=
  ⟨hasTurn_of (by decide +kernel), hasTurn_of (by decide +kernel), hasTurn_of (by decide +kernel),
   hasTurn_of (by decide +kernel), by decide +kernel⟩
theorem test_hyp_StepRunsDecodedForm :
    -- all
    HasTurn (turnState addWord grpSh) (turnAt addWord grpSh) 7 grpSh ∧
    -- all
    grpSh.shadowOk = true ∧
    fetchAt (atTurn (turnState addWord grpSh) (turnAt addWord grpSh) 7 grpSh) grpSh.cu grpSh.ctx grpSh.pc = Fetched.word addWord ∧
    decode grpSh.kind addWord = Decoded.instr (Instr.sadd fadd) ∧
    privSyn grpSh.kind (opcOf addWord) (fieldsOf addWord) = none ∧
    (grpSh.blk = none → readsCorrupt (atTurn (turnState addWord grpSh) (turnAt addWord grpSh) 7 grpSh) 7 grpSh (opcOf addWord) (fieldsOf addWord)
      = false) :=
  ⟨hasTurn_of (by decide +kernel), by decide +kernel⟩
theorem test_hyp_StepRunsAgendaEvent :
    -- all
    withAgenda.env.agenda = [Instr.thermalReset, Instr.nop Fields.nop] ∧
    Instr.thermalReset.form = none :=
  by decide +kernel
theorem test_hyp_SignatureCheck :
    -- 2.1
    Issues base 7 grp 17 fsig ∧
    -- 2.2
    Issues base 7 grp 17 fsigBad ∧
    -- 1
    Issues base 7 grp 17 fsigNever ∧
    -- 2.1
    grp.isGroup = true ∧
    neverGuard fsig = false ∧
    grp.sig = fsig.x ∧
    -- 2.2
    neverGuard fsigBad = false ∧
    grp.sig ≠ fsigBad.x ∧
    grp.stepping = 0 ∧
    (base.ctx grp.ctx).sysent ≠ 0 ∧
    -- 1
    neverGuard fsigNever = true :=
  ⟨issues_of (by decide +kernel), issues_of (by decide +kernel), issues_of (by decide +kernel), by decide +kernel⟩
theorem test_hyp_SystemCodeTraps :
    -- all
    Issues (at7 grpCtx0) 7 grpCtx0 19 ftrap ∧
    -- all
    grpCtx0.isGroup = true ∧
    grpCtx0.live ftrap ≠ 0 ∧
    grpCtx0.stepping = 0 ∧
    grpCtx0.ctx = 0 ∧
    ((at7 grpCtx0).ctx 0).sysent ≠ 0 ∧
    (at7 grpCtx0).launchOf grpCtx0 = some lch3 ∧
    lch3.lr.hpc = 0 :=
  ⟨issues_of (by decide +kernel), by decide +kernel⟩

/-- Memory is in its one form in `base`, and its step answers. -/
theorem test_hyp_StepKeepsMemoryCanonical : base.memOk ∧ ∃ u, step base = .next u := by
  refine ⟨by unfold State.memOk; decide +kernel, ?_⟩
  have h : (match step base with | .next _ => true | _ => false) = true := by decide +kernel
  cases e : step base with
  | next u => exact ⟨u, rfl⟩
  | fault _ => rw [e] at h; cases h
  | refused _ => rw [e] at h; cases h

theorem test_hyp_ContextZeroPrivilege :
    -- 1.1
    Issues (at9 (tadR1 1 32768)) 9 (tadR1 1 32768) 771 ftad ∧
    -- 1.2.1
    Issues (at9 (tadR1 1 32768)) 9 (tadR1 1 32768) 772 ftad ∧
    -- 1.2.2
    Issues (at9 (tadR1 1 32768)) 9 (tadR1 1 32768) 774 ftad ∧
    -- 1.1
    (tadR1 1 32768).ctx ≠ 0 :=
  ⟨issues_of (by decide +kernel), issues_of (by decide +kernel), issues_of (by decide +kernel), by decide +kernel⟩

end Sys2Proof.Tests
end

section
/-! Settles O12: what a host write of a module register and of a queue's registers does, and what a queue's registers read. -/

namespace Sys2Proof.Machine

/-! ### Contexts and queues after a change of one -/

theorem State.ctx_setCtx (s : State) (c : Nat) (x : Ctx) (d : Nat) : (s.setCtx c x).ctx d = if d = c then x else s.ctx d :=
  ngetD_nset _ _ _ _ _

theorem State.ctx_modCtx (s : State) (c : Nat) (g : Ctx → Ctx) (d : Nat) :
    (s.modCtx c g).ctx d = if d = c then g (s.ctx c) else s.ctx d := State.ctx_setCtx _ _ _ _

@[simp] theorem State.queue_modQueue_self (s : State) (c q : Nat) (g : Queue → Queue) :
    ((s.modQueue c q g).ctx c).queue q = g ((s.ctx c).queue q) := by
  simp [State.modQueue, State.ctx_modCtx, Ctx.queue, ngetD_nset]

theorem State.ctx_modQueue_ne (s : State) (c q : Nat) (g : Queue → Queue) (d : Nat) (h : d ≠ c) :
    (s.modQueue c q g).ctx d = s.ctx d := by
  simp [State.modQueue, State.ctx_modCtx, h]

/-! ### The events that write a queue's registers, for a context and a queue in range -/

theorem exec_qctlWrite_inRange (s : State) {c q : Nat} (hc : c < 1024) (hq : q < 4) (v : Word64) :
    exec (.qctlWrite 0 c q v) s = .next (s.modQueue c q fun x => { x with ctl := v &&& 0xFFFF005F, port := 0 }) := by
  rw [exec_qctlWrite, execQctlWrite, Nat.mod_eq_of_lt hc, Nat.mod_eq_of_lt hq]

theorem exec_qcplWrite_inRange (s : State) {c q : Nat} (hc : c < 1024) (hq : q < 4) (v : Word64) :
    exec (.qcplWrite c q v) s = .next (s.modQueue c q fun x => { x with cpl := v &&& 0x01FFFFFFFFFFFFF9 }) := by
  rw [exec_qcplWrite, execQcplWrite, Nat.mod_eq_of_lt hc, Nat.mod_eq_of_lt hq]

theorem exec_qtailDoorbell_inRange (s : State) {c q : Nat} (hc : c < 1024) (hq : q < 4) (v : Word64) :
    exec (.qtailDoorbell c q v) s = .next (doorbell s c q v) := by
  rw [exec_qtailDoorbell, execQtailDoorbell, Nat.mod_eq_of_lt hc, Nat.mod_eq_of_lt hq]

/-! ### The block of a queue's registers in BAR0 (R374, R437) -/

/-- What a BAR0 write of the register at offset `o` of a queue's block leaves. -/
def queueRegWrite (s : State) (c q o : Nat) (v : Word64) : State :=
  match o with
  | 0x00 => s.modQueue c q fun x => { x with base := v &&& 0x01FFFFFFFFFFF000 }
  | 0x08 => s.modQueue c q fun x => { x with ctl := v &&& 0xFFFF005F, port := 0 }
  | 0x10 => doorbell s c q v
  | 0x20 => s.modQueue c q fun x => { x with cpl := v &&& 0x01FFFFFFFFFFFFF9 }
  | _ => s

/-- What a BAR0 read of the register at offset `o` of a queue's block shows. -/
def queueRegRead (x : Queue) (o : Nat) : Word64 :=
  match o with
  | 0x00 => x.base
  | 0x08 => x.ctl
  | 0x18 => BitVec.ofNat 64 (x.head % 2 ^ 32)
  | 0x20 => x.cpl
  | _ => 0

/-- Where BAR0 holds the registers of queue `q` of context `c`: in the queue registers and in the doorbell pages. -/
def queueBases (c q : Nat) : List Nat := [0x100000 + 256 * c + 64 * q, 0x1000000 + 4096 * c + 64 * q]

/-- The context, the queue and the offset that an address among the queue registers stands for. -/
theorem queueRegs_address {c q o : Nat} (hq : q < 4) (ho : o < 64) :
    (0x100000 + 256 * c + 64 * q + o - 0x100000) / 256 = c ∧ (0x100000 + 256 * c + 64 * q + o) % 256 / 64 % 4 = q ∧
      (0x100000 + 256 * c + 64 * q + o) % 256 % 64 = o := by
  omega

/-- The context, the queue and the offset that an address in a doorbell page stands for. -/
theorem doorbellPage_address {c q o : Nat} (hq : q < 4) (ho : o < 64) :
    (0x1000000 + 4096 * c + 64 * q + o - 0x1000000) / 4096 = c ∧ (0x1000000 + 4096 * c + 64 * q + o) % 256 / 64 % 4 = q ∧
      (0x1000000 + 4096 * c + 64 * q + o) % 256 % 64 = o := by
  omega

section
variable {c q o base : Nat} (hc : c < 1024) (hq : q < 4) (ho : o < 64) (hb : base ∈ queueBases c q)
include hc hq ho hb

/-- A write of either address of a queue's register is a write of that register. -/
theorem writeBar0_queueReg (s : State) (v : Word64) : writeBar0 s (base + o) v = queueRegWrite s c q o v := by
  simp only [queueBases, List.mem_cons, List.not_mem_nil, or_false] at hb
  unfold writeBar0
  rcases hb with rfl | rfl
  · obtain ⟨ctx, queue, offset⟩ := queueRegs_address (c := c) hq ho
    simp only [Bool.and_eq_true, decide_eq_true_eq, ctx, queue, offset]
    rw [if_pos (by omega)]
    rfl
  · obtain ⟨ctx, queue, offset⟩ := doorbellPage_address (c := c) hq ho
    simp only [Bool.and_eq_true, decide_eq_true_eq, ctx, queue, offset]
    rw [if_neg (by omega), if_pos (by omega)]
    rfl

/-- A read of either address of a queue's register shows that register. -/
theorem readBar0_queueReg (s : State) : readBar0 s (base + o) = queueRegRead ((s.ctx c).queue q) o := by
  simp only [queueBases, List.mem_cons, List.not_mem_nil, or_false] at hb
  unfold readBar0
  rcases hb with rfl | rfl
  · obtain ⟨ctx, queue, offset⟩ := queueRegs_address (c := c) hq ho
    simp only [Bool.and_eq_true, decide_eq_true_eq, ctx, queue, offset]
    rw [if_neg (by omega), if_neg (by omega), if_pos (by omega)]
    rfl
  · obtain ⟨ctx, queue, offset⟩ := doorbellPage_address (c := c) hq ho
    simp only [Bool.and_eq_true, decide_eq_true_eq, ctx, queue, offset]
    rw [if_neg (by omega), if_neg (by omega), if_neg (by omega), if_pos (by omega)]
    rfl

/-- REGISTER_WRITE of either address of a queue's register writes that register. -/
theorem exec_registerWrite_queueReg (s : State) (v : Word64) :
    exec (.registerWrite true (base + o) v) s = .next (queueRegWrite s c q o v) := by
  rw [exec_registerWrite, execRegisterWrite, if_pos rfl, writeBar0_queueReg hc hq ho hb]

end

/-! ### Module registers, outside BAR0 (R417; log 32) -/

/-- The address lies in one of the ranges, each given by its first address and the one after its last. -/
def InRanges (a : Nat) (l : List (Nat × Nat)) : Prop := ∃ r ∈ l, r.1 ≤ a ∧ a < r.2

/-- The addresses of the registers that a chapter gives and that are only read. -/
def readOnlyRanges : List (Nat × Nat) :=
  [(0x60000, 0x68000), (0x70000, 0x78000), (0xA0000, 0xC0000), (0xD0000, 0xDA800), (0xF0008, 0xF0010)]

/-- The addresses of the registers that a chapter gives and that a write may change. -/
def writtenRanges : List (Nat × Nat) :=
  [(0x10000, 0x10400), (0x40000, 0x50000), (0x80000, 0xA0000), (0xE0010, 0xE0400), (0xF0000, 0xF0008), (0xF0010, 0xF0018),
    (0x200000, 0x280000)]

theorem inRanges_readOnly_iff (a : Nat) : InRanges a readOnlyRanges ↔
    0x60000 ≤ a ∧ a < 0x68000 ∨ 0x70000 ≤ a ∧ a < 0x78000 ∨ 0xA0000 ≤ a ∧ a < 0xC0000 ∨ 0xD0000 ≤ a ∧ a < 0xDA800 ∨
      0xF0008 ≤ a ∧ a < 0xF0010 := by
  simp [InRanges, readOnlyRanges]

theorem inRanges_written_iff (a : Nat) : InRanges a writtenRanges ↔
    0x10000 ≤ a ∧ a < 0x10400 ∨ 0x40000 ≤ a ∧ a < 0x50000 ∨ 0x80000 ≤ a ∧ a < 0xA0000 ∨ 0xE0010 ≤ a ∧ a < 0xE0400 ∨
      0xF0000 ≤ a ∧ a < 0xF0008 ∨ 0xF0010 ≤ a ∧ a < 0xF0018 ∨ 0x200000 ≤ a ∧ a < 0x280000 := by
  simp [InRanges, writtenRanges]

theorem readOnlyReg_of_inRanges {a : Nat} (al : a % 8 = 0) (h : InRanges a readOnlyRanges) : readOnlyReg a = true := by
  rw [inRanges_readOnly_iff] at h
  simp only [readOnlyReg, Bool.or_eq_true, Bool.and_eq_true, decide_eq_true_eq]
  omega

theorem not_written_of_readOnly {a : Nat} (h : InRanges a readOnlyRanges) : ¬InRanges a writtenRanges := by
  rw [inRanges_readOnly_iff] at h
  rw [inRanges_written_iff]
  omega

/-- A write outside the written registers reaches only what the implementation has placed at an address that no chapter gives. -/
theorem writeReg_of_not_written (s : State) (r : Reach) {a : Nat} (v : Word64) (h : ¬InRanges a writtenRanges) :
    writeReg s r a v =
      if readOnlyReg a then s else (Config.moduleMap a).elim s fun x => writeHidden s r.all x v := by
  rw [inRanges_written_iff] at h
  unfold writeReg
  simp only [Bool.and_eq_true, decide_eq_true_eq]
  rw [if_neg (by omega), if_neg (by omega), if_neg (by omega), if_neg (by omega), if_neg (by omega), if_neg (by omega),
    if_neg (by omega)]
  cases Config.moduleMap a <;> rfl

/-- A write of a register without an address in the manual changes nothing, or readmits a lost peer (R346). -/
theorem writeHidden_eq (s : State) (all : Bool) (x : HiddenReg) (v : Word64) :
    writeHidden s all x v = s ∨ x = .readmit ∧ nget s.fab.peers (v.toNat % 4096) = some .lost ∧
      writeHidden s all x v = { s with fab := { s.fab with peers := nset s.fab.peers (v.toNat % 4096) .up } } := by
  cases x with
  | readmit =>
    by_cases lost : (all && nget s.fab.peers (v.toNat % 4096) = some .lost) = true
    · exact .inr ⟨rfl, by simpa using (Bool.and_eq_true_iff.1 lost).2, if_pos lost⟩
    · exact .inl (if_neg lost)
  | mailbox _ _ => exact .inl rfl
  | persistent _ _ _ => exact .inl rfl
  | heldPacket _ _ => exact .inl rfl

theorem exec_registerWrite_misaligned (s : State) {a : Nat} (v : Word64) (h : a % 8 ≠ 0) :
    exec (.registerWrite false a v) s = .next s := by
  simp [exec_registerWrite, execRegisterWrite, h]

theorem exec_registerWrite_aligned (s : State) {a : Nat} (v : Word64) (h : a % 8 = 0) :
    exec (.registerWrite false a v) s = .next (writeReg s ⟨0, 0⟩ a v) := by
  simp [exec_registerWrite, execRegisterWrite, h]

theorem exec_registerWrite_readOnly (s : State) {a : Nat} (v : Word64) (h : InRanges a readOnlyRanges) :
    exec (.registerWrite false a v) s = .next s := by
  by_cases al : a % 8 = 0
  · rw [exec_registerWrite_aligned s v al, writeReg_of_not_written _ _ _ (not_written_of_readOnly h),
      if_pos (readOnlyReg_of_inRanges al h)]
  · exact exec_registerWrite_misaligned s v al

theorem exec_registerWrite_not_written (s : State) {a : Nat} (v : Word64) (h : ¬InRanges a writtenRanges) :
    ∃ u, exec (.registerWrite false a v) s = .next u ∧ (u = s ∨
      Config.moduleMap a = some .readmit ∧ nget s.fab.peers (v.toNat % 4096) = some .lost ∧
        u = { s with fab := { s.fab with peers := nset s.fab.peers (v.toNat % 4096) .up } }) := by
  by_cases al : a % 8 = 0
  · refine ⟨_, exec_registerWrite_aligned s v al, ?_⟩
    rw [writeReg_of_not_written _ _ _ h]
    by_cases ro : readOnlyReg a = true
    · exact .inl (if_pos ro)
    · rw [if_neg ro]
      cases Config.moduleMap a with
      | none => exact .inl rfl
      | some x =>
        rcases writeHidden_eq s (Reach.all ⟨0, 0⟩) x v with same | ⟨rfl, lost, up⟩
        · exact .inl same
        · exact .inr ⟨rfl, lost, up⟩
  · exact ⟨s, exec_registerWrite_misaligned s v al, .inl rfl⟩

theorem exec_registerWrite_pcap (s : State) (v : Word64) :
    exec (.registerWrite false 0xF0000 v) s = .next { s with mdl := { s.mdl with pcap := v &&& 0xFFFF } } := by
  rw [exec_registerWrite_aligned s v (by decide)]
  simp [writeReg, Reach.all]

theorem exec_registerWrite_tmctl (s : State) (v : Word64) :
    exec (.registerWrite false 0xF0010 v) s = .next { s with mdl := { s.mdl with tmctl := v &&& tmctlMask } } := by
  rw [exec_registerWrite_aligned s v (by decide)]
  simp [writeReg, Reach.all]

/-- Settles O12: a module register by its address range (misaligned, only read, without an address, PCAP, TMCTL), and a queue's
registers by their offset in the queue's block. -/
theorem hostWritesRegisters : Obligations.HostWritesRegisters := by
  unfold Obligations.HostWritesRegisters
  intro s v c q hc hq
  refine ⟨fun a h => exec_registerWrite_misaligned s v h, fun a h => exec_registerWrite_readOnly s v h,
    fun a h => exec_registerWrite_not_written s v h, exec_registerWrite_pcap s v, exec_registerWrite_tmctl s v,
    exec_tmctlWrite v s, fun base hb => ?_, ?_, ?_⟩
  · have write : ∀ o < 64, exec (.registerWrite true (base + o) v) s = .next (queueRegWrite s c q o v) :=
      fun o ho => exec_registerWrite_queueReg hc hq ho hb s v
    have read : ∀ o < 64, readBar0 s (base + o) = queueRegRead ((s.ctx c).queue q) o :=
      fun o ho => readBar0_queueReg hc hq ho hb s
    exact ⟨write 0 (by decide),
      (write 8 (by decide)).trans (exec_qctlWrite_inRange s hc hq v).symm,
      (write 16 (by decide)).trans (exec_qtailDoorbell_inRange s hc hq v).symm,
      write 24 (by decide),
      (write 32 (by decide)).trans (exec_qcplWrite_inRange s hc hq v).symm,
      read 0 (by decide), read 8 (by decide), read 16 (by decide), read 24 (by decide), read 32 (by decide)⟩
  · exact ⟨_, exec_qctlWrite_inRange s hc hq v, State.queue_modQueue_self s c q _, State.ctx_modQueue_ne s c q _⟩
  · exact ⟨_, exec_qcplWrite_inRange s hc hq v, State.queue_modQueue_self s c q _, State.ctx_modQueue_ne s c q _⟩

end Sys2Proof.Machine
end

section
/-! Maps and records of the state after a change: what later sections read of them. -/

namespace Sys2Proof.Machine

theorem nget_append {α : Type} (l m : NMap α) (k : Nat) : nget (l ++ m) k = (nget l k).or (nget m k) := by
  induction l with
  | nil => rfl
  | cons p r ih =>
    obtain ⟨j, v⟩ := p
    simp only [List.cons_append, nget, ih]
    split_ifs <;> rfl

theorem nget_nmap_of_some {α : Type} {m : NMap α} {k : Nat} {v : α} (h : nget m k = some v) (g : Nat → α → α) :
    nget (nmap m g) k = some (g k v) := by
  rw [nget_nmap, h]
  rfl

theorem ngetD_nerase {α : Type} (m : NMap α) (k j : Nat) (d : α) : ngetD (nerase m k) j d = if j = k then d else ngetD m j d := by
  simp only [ngetD, nget_nerase]
  split_ifs <;> rfl

theorem State.cu_modCu (s : State) (n : Nat) (g : Cu → Cu) (m : Nat) :
    (s.modCu n g).cu m = if m = n then g (s.cu n) else s.cu m := ngetD_nset _ _ _ _ _

/-- A change of a thread that stands there puts the changed thread in its place. -/
theorem State.modThread_of_thread {s : State} {tid : Nat} {t : Thread} (h : s.thread tid = some t) (g : Thread → Thread) :
    s.modThread tid g = s.setThread tid (g t) := by
  unfold State.thread at h
  simp only [State.modThread, State.setThread, nmod, h]

theorem State.modThread_modThread (s : State) (i : Nat) (g k : Thread → Thread) :
    (s.modThread i g).modThread i k = s.modThread i fun t => k (g t) := by
  simp only [State.modThread, nmod]
  cases h : nget s.thr i with
  | none => simp [h]
  | some t => simp [nset_nset_self]

/-- Changes of a workgroup that agree on it as it stands are one change. -/
theorem State.modWg_congr {s : State} {w : Nat} {g : Wg} (hg : s.wg w = some g) {j k : Wg → Wg} (h : j g = k g) :
    s.modWg w j = s.modWg w k := by
  unfold State.wg at hg
  simp only [State.modWg, nmod, hg, h]

theorem State.part_modPart (s : State) (k : Nat) (g : Part → Part) (j : Nat) :
    (s.modPart k g).part j = if j = k then g (s.part k) else s.part j := ngetD_nset _ _ _ _ _

@[simp] theorem State.obj_modObj_self (s : State) (key b : Nat) (g : TreeObj → TreeObj) :
    ((s.modObj key b g).part key).obj b = g ((s.part key).obj b) := by
  simp [State.modObj, State.part_modPart, Part.obj, ngetD_nset]

end Sys2Proof.Machine
end

section
/-! Settles O24: the state that reset leaves. -/

namespace Sys2Proof.Machine

/-- Settles O24: every map of `State.reset` is empty, so that each lookup gives its default. -/
theorem resetState : Obligations.ResetState := by
  unfold Obligations.ResetState
  have noWgs : ∀ p ∈ State.reset.wgs, Memory.wf p.2.scratch = true ∧ Memory.wf p.2.tileMem = true := fun p hp => by cases hp
  exact ⟨rfl, rfl, rfl, rfl, rfl, fun _ => rfl, rfl, fun _ => ⟨rfl, rfl⟩, fun _ => rfl, rfl, rfl, noWgs⟩

end Sys2Proof.Machine
end

section
/-! Settles O60: calibration of the time counter, throttling, and the responder. -/

namespace Sys2Proof.Machine

/-! ### Offsets in force (R370) -/

theorem offsetOf_of_notDue {s : State} {d : Nat} (h : nget s.mdl.due d = none) : offsetOf s d = ngetD s.mdl.offset d 0 := by
  simp only [offsetOf, h]

theorem offsetOf_of_due {s : State} {d n : Nat} {o : Int} (h : nget s.mdl.due d = some (n, o)) :
    offsetOf s d = if n < s.raw then o else ngetD s.mdl.offset d 0 := by
  simp only [offsetOf, h]

/-- The offset in force depends on the due and the old offset of its own place, and on the count. -/
theorem offsetOf_congr {s u : State} {d : Nat} (due : nget u.mdl.due d = nget s.mdl.due d)
    (offset : ngetD u.mdl.offset d 0 = ngetD s.mdl.offset d 0) (raw : u.raw = s.raw) : offsetOf u d = offsetOf s d := by
  simp only [offsetOf, due, offset, raw]

/-! ### One tick of an offset (R370) -/

section
variable (s : State) (d : Nat) (want : Int)

@[simp] theorem slewTo_thr : (slewTo s d want).thr = s.thr := by simp only [slewTo]; split_ifs <;> rfl
@[simp] theorem slewTo_mem : (slewTo s d want).mem = s.mem := by simp only [slewTo]; split_ifs <;> rfl
@[simp] theorem slewTo_env : (slewTo s d want).env = s.env := by simp only [slewTo]; split_ifs <;> rfl
@[simp] theorem slewTo_raw : (slewTo s d want).raw = s.raw := by simp only [slewTo]; split_ifs <;> rfl

end

section
variable {s : State} {d : Nat} {want : Int}

theorem slewTo_of_eq (h : offsetOf s d = want) : slewTo s d want = s := if_pos h

theorem slewTo_of_lt (h : offsetOf s d < want) : slewTo s d want = s.modModule fun m =>
    { m with slew := nset m.slew d s.env.clk, offset := nset m.offset d (offsetOf s d + 1), due := nerase m.due d } := by
  simp only [slewTo, h.ne, h, if_true, if_false]

theorem slewTo_of_gt (h : want < offsetOf s d) : slewTo s d want = s.modModule fun m =>
    { m with slew := nset m.slew d s.env.clk, offset := nset m.offset d (offsetOf s d),
             due := nset m.due d (s.raw, offsetOf s d - 1) } := by
  simp only [slewTo, h.ne', h.not_gt, if_false]

end

/-- A greater offset counts at once, a smaller one not yet. -/
theorem offsetOf_slewTo_self (s : State) (d : Nat) (want : Int) :
    offsetOf (slewTo s d want) d = if offsetOf s d < want then offsetOf s d + 1 else offsetOf s d := by
  rcases lt_trichotomy (offsetOf s d) want with up | same | down
  · have due : nget (slewTo s d want).mdl.due d = none := by simp [slewTo_of_lt up, State.modModule, nget_nerase]
    rw [offsetOf_of_notDue due, if_pos up, slewTo_of_lt up]
    simp [State.modModule, ngetD_nset]
  · rw [slewTo_of_eq same, if_neg same.not_lt]
  · have due : nget (slewTo s d want).mdl.due d = some (s.raw, offsetOf s d - 1) := by simp [slewTo_of_gt down, State.modModule]
    rw [offsetOf_of_due due, slewTo_raw, if_neg (lt_irrefl _), if_neg down.not_gt, slewTo_of_gt down]
    simp [State.modModule, ngetD_nset]

theorem offsetOf_slewTo_ne (s : State) {d e : Nat} (want : Int) (h : e ≠ d) : offsetOf (slewTo s d want) e = offsetOf s e := by
  refine offsetOf_congr ?_ ?_ (slewTo_raw s d want)
  all_goals rcases lt_trichotomy (offsetOf s d) want with up | same | down
  · simp [slewTo_of_lt up, State.modModule, nget_nerase, h]
  · rw [slewTo_of_eq same]
  · simp [slewTo_of_gt down, State.modModule, nget_nset, h]
  · simp [slewTo_of_lt up, State.modModule, ngetD_nset, h]
  · rw [slewTo_of_eq same]
  · simp [slewTo_of_gt down, State.modModule, ngetD_nset, h]

/-- The module's count `n` ticks later. -/
def State.countedOn (s : State) (n : Nat) : State := { s with mdl := { s.mdl with epoch := s.mdl.epoch + n } }

theorem State.raw_countedOn (s : State) (n : Nat) : (s.countedOn n).raw = s.raw + n := by
  simp only [State.raw, State.countedOn]; omega

/-- A smaller offset counts once the count has gone on (R370). -/
theorem offsetOf_slewTo_countedOn {s : State} {d n : Nat} {want : Int} (down : want < offsetOf s d)
    (on : s.raw < (slewTo s d want).raw + n) : offsetOf ((slewTo s d want).countedOn n) d = offsetOf s d - 1 := by
  have due : nget ((slewTo s d want).countedOn n).mdl.due d = some (s.raw, offsetOf s d - 1) := by
    simp [slewTo_of_gt down, State.modModule, State.countedOn]
  rw [offsetOf_of_due due, State.raw_countedOn, if_pos on]

/-- An offset that has moved does not move again in the same 256 ns. -/
theorem maySlew_slewTo_self {s : State} {d : Nat} {want : Int} (h : offsetOf s d ≠ want) : maySlew (slewTo s d want) d = false := by
  have slew : nget (slewTo s d want).mdl.slew d = some s.env.clk := by
    rcases lt_or_gt_of_ne h with up | down
    · simp [slewTo_of_lt up, State.modModule]
    · simp [slewTo_of_gt down, State.modModule]
  simp [maySlew, slew, nsToClk]

/-! ### TIME_CALIBRATION and THROTTLE_TRIGGER -/

/-- The offset that a measured residual asks for, where its place may move at all (R370, R371). -/
def AsksFor (s : State) (die : Nat) (r want : Int) : Prop :=
  (die < 84 ∧ maySlew s 84 = true ∧ want = max (-4) (min 4 r) - ngetD s.mdl.skew die 0) ∨
    (die = 84 ∧ timeMaster s ≠ s.mdl.number ∧ (List.range 84).all (maySlew s) = true ∧ want = offsetOf s 84 + r)

theorem exec_timeCalibration_slews {s : State} {die : Nat} {r want : Int} (root : rootLost s = false) (may : maySlew s die = true)
    (asks : AsksFor s die r want) : exec (.timeCalibration die r) s = .next (slewTo s die want) := by
  rw [exec_timeCalibration, execTimeCalibration]
  rcases asks with ⟨region, may84, rfl⟩ | ⟨rfl, other, still, rfl⟩
  · simp [root, may, region, may84]
  · simp [root, may, other, still]

theorem exec_timeCalibration_rests {s : State} {die : Nat} (r : Int) (h : rootLost s = true ∨ maySlew s die = false) :
    exec (.timeCalibration die r) s = .next s := by
  rw [exec_timeCalibration, execTimeCalibration]
  rcases h with h | h <;> simp [h]

theorem exec_throttleTrigger_eq (s : State) (step causes : BitVec 4) :
    exec (.throttleTrigger step causes) s = .next { s with mdl := { s.mdl with
      thr := if causes.toNat % 8 = 0 then 0 else BitVec.ofNat 64 (min 8 step.toNat + 16 * (causes.toNat % 8)) } } := by
  rw [exec_throttleTrigger, execThrottleTrigger]
  simp only [State.modModule, Nat.shiftLeft_eq, Nat.mul_comm 16]

theorem calibrationAndThrottling : Claims.CalibrationAndThrottling := by
  unfold Claims.CalibrationAndThrottling
  intro s
  refine ⟨fun die r want root may asks => ?_, fun die r h => exec_timeCalibration_rests r h, exec_throttleTrigger_eq s⟩
  refine ⟨slewTo s die want, exec_timeCalibration_slews root may asks, slewTo_thr .., slewTo_mem ..,
    fun d hd => offsetOf_slewTo_ne s want hd, offsetOf_slewTo_self s die want, fun down n on => offsetOf_slewTo_countedOn down on,
    fun moved r' => exec_timeCalibration_rests r' (.inr (maySlew_slewTo_self moved))⟩

/-! ### The responder (R454) -/

@[simp] theorem length_exactly (n : Nat) (l : List Byte) : (exactly n l).length = n := by simp [exactly]

/-- What a step of the responder leaves: threads and memory as they were, and an answer `l`, with a signature of `n` bytes after it,
once the first stage of start-up has begun. -/
def AnswersWith (s u : State) (l : List Byte) (n : Nat) : Prop :=
  u.thr = s.thr ∧ u.mem = s.mem ∧ (bits s.mdl.mstatus 7 4 = 0 → u.host.spdm = s.host.spdm) ∧
    (bits s.mdl.mstatus 7 4 ≠ 0 → ∃ sig, u.host.spdm = s.host.spdm ++ [l ++ sig] ∧ sig.length = n)

theorem respond_answers (s : State) (l : List Byte) : AnswersWith s (respond s l) l 0 := by
  unfold respond AnswersWith
  split_ifs with h
  · exact ⟨rfl, rfl, fun _ => rfl, fun k => absurd h k⟩
  · exact ⟨rfl, rfl, fun k => absurd k h, fun _ => ⟨[], by simp [State.modHost], rfl⟩⟩

theorem respondSigned_answers (s : State) (l : List Byte) : AnswersWith s (respondSigned s l) l 96 := by
  unfold respondSigned respond AnswersWith
  split_ifs with h
  · exact ⟨rfl, rfl, fun _ => rfl, fun k => absurd h k⟩
  · exact ⟨rfl, rfl, fun k => absurd k h, fun _ => ⟨exactly 96 _, rfl, length_exactly ..⟩⟩

/-- The blocks that a GET_MEASUREMENTS brings. -/
theorem measurementBlocks_eq (s : State) (block : Nat) :
    ((if block = 0xFF then [1, 2, 3, 4] else if 1 ≤ block && block ≤ 4 then [block] else []).map fun n =>
        leBytes 1 n ++ measurement s n).flatten =
      let part := fun (n : Nat) => leBytes 1 n ++ measurement s n
      if 1 ≤ block ∧ block ≤ 4 then part block else if block = 255 then part 1 ++ part 2 ++ part 3 ++ part 4 else [] := by
  by_cases all : block = 255
  · simp [all]
  · by_cases one : 1 ≤ block ∧ block ≤ 4 <;> simp [all, one]

theorem measurement_configuration {s : State} (ready : s.mdl.mstatus.getLsbD 0 = true) :
    measurement s 3 = exactly 48 (Config.sha384 s.mdl.config) := by
  simp only [measurement, State.mready, ready, if_true]

theorem responderAnswers : Claims.ResponderAnswers := by
  unfold Claims.ResponderAnswers
  intro s slot offset length block algorithms nonce part requests q hq
  have answered : ∀ {l n u}, exec q.1 s = .next u → AnswersWith s u l n → l = q.2.1 → n = (if q.2.2 then 96 else 0) →
      ∃ u, exec q.1 s = .next u ∧ u.thr = s.thr ∧ u.mem = s.mem ∧
        (bits s.mdl.mstatus 7 4 = 0 → u.host.spdm = s.host.spdm) ∧
        (bits s.mdl.mstatus 7 4 ≠ 0 →
          ∃ sig, u.host.spdm = s.host.spdm ++ [q.2.1 ++ sig] ∧ sig.length = (if q.2.2 then 96 else 0)) ∧
        (s.mdl.mstatus.getLsbD 0 = true → measurement s 3 = exactly 48 (Config.sha384 s.mdl.config)) := by
    rintro l n u he ⟨thr, mem, silent, speaks⟩ rfl rfl
    exact ⟨u, he, thr, mem, silent, speaks, measurement_configuration⟩
  simp only [requests, List.mem_cons, List.not_mem_nil, or_false] at hq
  rcases hq with rfl | rfl | rfl | rfl | rfl | rfl | rfl
  · exact answered (exec_getVersion s) (respond_answers ..) rfl rfl
  · exact answered (exec_getCapabilities s) (respond_answers ..) rfl rfl
  · exact answered (exec_negotiateAlgorithms algorithms s) (respond_answers ..) rfl rfl
  · exact answered (exec_getDigests s) (respond_answers ..) rfl rfl
  · exact answered (exec_getCertificate slot offset length s) (respond_answers ..) rfl rfl
  · exact answered (exec_challenge slot nonce s) (respondSigned_answers ..) rfl rfl
  · exact answered (exec_getMeasurements block nonce s) (respondSigned_answers ..)
      (congrArg (_ ++ ·) (measurementBlocks_eq s block)) rfl

/-- Settles O60: an offset moves by `slewTo`, once in 256 ns, and every request is answered by `respond` or `respondSigned`. -/
theorem timeAndManagement : Obligations.TimeAndManagement := ⟨calibrationAndThrottling, responderAnswers⟩

end Sys2Proof.Machine
end

section
/-! Settles O11: the objects of the tree barriers. -/

namespace Sys2Proof.Machine

/-! ### The release of a phase (R35, R358) -/

section
variable {s : State} {key b ph : Nat} (x : Bool)

/-- An object's phase whose members are in this module alone stays open during brumation (R35). -/
def HeldOpen (s : State) (key b : Nat) : Prop :=
  (s.part key).haltAt.isSome = true ∧ ((s.part key).obj b).others s.mdl.number = false

theorem exec_treeBarrierRelease_completes (ready : moduleReady s ((s.part key).obj b) b = true)
    (pending : ((s.part key).obj b).phase % 65536 = ph) (opens : ¬HeldOpen s key b) :
    exec (.treeBarrierRelease key b { phase := ph, excused := x }) s = .next (s.modObj key b fun o =>
      { o with phase := o.phase + 1, exc1 := o.exc0, exc0 := o.excused || (x && o.others s.mdl.number), excused := false }) := by
  rw [exec_treeBarrierRelease, execTreeBarrierRelease]
  unfold HeldOpen at opens
  rw [if_neg (by simp [ready, pending]; simpa using opens)]
  rfl

theorem exec_treeBarrierRelease_ignored
    (h : moduleReady s ((s.part key).obj b) b = false ∨ ((s.part key).obj b).phase % 65536 ≠ ph ∨ HeldOpen s key b) :
    exec (.treeBarrierRelease key b { phase := ph, excused := x }) s = .next s := by
  rw [exec_treeBarrierRelease, execTreeBarrierRelease, if_pos]
  rcases h with h | h | ⟨halt, alone⟩
  · simp [h]
  · simp [h]
  · simp [halt, alone]

end

/-! ### TBCTL_WRITE (R353) -/

/-- An object as it is opened: at phase 0, and bound to no launch. -/
def TreeObj.opened (o : TreeObj) : TreeObj :=
  { o with en := true, phase := 0, exc0 := false, exc1 := false, launch := none, excused := false }

/-- An object as it is closed. -/
def TreeObj.closed (o : TreeObj) : TreeObj := { o with en := false }

/-- What opening an object does to a thread: its partition's groups have joined no phase of it. -/
def Thread.tbOpened (s : State) (key b : Nat) (t : Thread) : Thread :=
  if inPart s key t then { t with joins := nerase t.joins b } else t

/-- What closing an object does to a thread: one that waits for it is let go. -/
def Thread.tbLetGo (s : State) (key b : Nat) (t : Thread) : Thread :=
  match t.blk with
  | some k => if inPart s key t && k.stage = 241 && k.val = b then { t with blk := some { k with stage := tbClosed } } else t
  | none => t

section
variable {s : State} {key b : Nat} {v : Word64}

theorem writeTbctl_opens (on : v.getLsbD 0 = true) (closed : ((s.part key).obj b).en = false) :
    writeTbctl s key b v =
      { s.modObj key b TreeObj.opened with thr := nmap s.thr fun _ t => t.tbOpened s key b } := by
  simp only [writeTbctl, on, closed, Bool.not_false, Bool.and_self, if_true]
  rfl

theorem writeTbctl_closes (off : v.getLsbD 0 = false) (opened : ((s.part key).obj b).en = true) :
    writeTbctl s key b v =
      { s.modObj key b TreeObj.closed with thr := nmap s.thr fun _ t => t.tbLetGo s key b } := by
  simp only [writeTbctl, off, opened, Bool.not_true, Bool.not_false, Bool.and_self, if_true, if_false,
    Bool.false_eq_true]
  rfl

end

section
variable (s : State) (key b : Nat) (t : Thread)

theorem Thread.tbOpened_keeps : (t.tbOpened s key b).pc = t.pc ∧ (t.tbOpened s key b).blk = t.blk := by
  unfold Thread.tbOpened
  split_ifs <;> exact ⟨rfl, rfl⟩

theorem Thread.tbOpened_joins (h : inPart s key t = true) (c : Nat) :
    ngetD (t.tbOpened s key b).joins c 0 = if c = b then 0 else ngetD t.joins c 0 := by
  rw [Thread.tbOpened, if_pos h]
  exact ngetD_nerase ..

theorem Thread.tbOpened_other (h : inPart s key t = false) : t.tbOpened s key b = t := by
  simp [Thread.tbOpened, h]

theorem Thread.tbLetGo_waiting {k : Blk} (blk : t.blk = some k) (part : inPart s key t = true) (stage : k.stage = 241)
    (val : k.val = b) : t.tbLetGo s key b = { t with blk := some { k with stage := 242 } } := by
  simp only [Thread.tbLetGo, blk, part, stage, val, decide_true, Bool.and_self, if_true]
  rfl

theorem Thread.tbLetGo_other (h : ∀ k, t.blk = some k → k.stage ≠ 241 ∨ k.val ≠ b) : t.tbLetGo s key b = t := by
  unfold Thread.tbLetGo
  split
  next k hk =>
    refine if_neg ?_
    rcases h k hk with stage | val
    · simp [stage]
    · simp [val]
  next => rfl

end

/-! ### Plane 1 and lost rows (R350, R351) -/

theorem Part.failOver_waves (p : Part) (me : Nat) :
    (∀ x ∈ p.waves, x ∈ (p.failOver me).waves) ∧
    (∀ x, p.haltAt.isSome = true → p.first = some x → x.modn = me → x ∈ (p.failOver me).waves) ∧
    (p.haltAt = none → (p.failOver me).waves = p.waves) := by
  refine ⟨fun x hx => List.mem_append_left _ hx, fun x halt first mine => ?_, fun halt => ?_⟩
  · obtain ⟨n, hn⟩ := Option.isSome_iff_exists.1 halt
    by_cases sent : x ∈ p.waves
    · exact List.mem_append_left _ sent
    · simp [Part.failOver, hn, first, mine, sent]
  · simp [Part.failOver, halt]

/-- Settles O11: each event is one change of a partition's record, with its change of the threads where TBCTL is written. -/
theorem treeObjects : Obligations.TreeObjects := by
  unfold Obligations.TreeObjects
  intro s key b v
  refine ⟨fun x ph => ⟨exec_treeBarrierRelease_completes x, exec_treeBarrierRelease_ignored x⟩, fun on closed => ?_,
    fun off opened => ?_, ?_, fun row => ?_⟩
  · refine ⟨_, congrArg Host.Outcome.next (writeTbctl_opens on closed), s.obj_modObj_self key b TreeObj.opened,
      fun tid t ht => ?_, rfl⟩
    obtain ⟨pc, blk⟩ := t.tbOpened_keeps s key b
    refine ⟨t.tbOpened s key b, nget_nmap_of_some ht fun _ t => t.tbOpened s key b, pc, blk,
      fun part => ⟨?_, fun c hc => ?_⟩, t.tbOpened_other s key b⟩
    · rw [t.tbOpened_joins s key b part, if_pos rfl]
    · rw [t.tbOpened_joins s key b part, if_neg hc]
  · have thread : ∀ {tid t}, s.thread tid = some t →
        nget (nmap s.thr fun _ t => t.tbLetGo s key b) tid = some (t.tbLetGo s key b) :=
      fun ht => nget_nmap_of_some ht fun _ t => t.tbLetGo s key b
    exact ⟨_, congrArg Host.Outcome.next (writeTbctl_closes off opened), s.obj_modObj_self key b TreeObj.closed,
      fun tid t k ht blk part stage val => (thread ht).trans (congrArg some (t.tbLetGo_waiting s key b blk part stage val)),
      fun tid t ht h => (thread ht).trans (congrArg some (t.tbLetGo_other s key b h)), rfl⟩
  · obtain ⟨kept, again, quiet⟩ := (s.part key).failOver_waves s.mdl.number
    have part : (s.modPart key (·.failOver s.mdl.number)).part key = (s.part key).failOver s.mdl.number := by
      rw [State.part_modPart, if_pos rfl]
    refine ⟨_, rfl, ?_⟩
    rw [part]
    exact ⟨rfl, kept, again, quiet, rfl, rfl⟩
  · refine ⟨_, rfl, ?_, fun r hr => ?_, rfl, rfl⟩
    · by_cases h : row ∈ s.mdl.rows <;> simp [h]
    · by_cases h : row ∈ s.mdl.rows <;> simp [h, hr]

end Sys2Proof.Machine
end

section
/-! Settles O59: the spawning of tadpoles, the watchdog, code lines that fail their check, and lane death. -/

namespace Sys2Proof.Machine

/-! ### Spawning (R399, R400) -/

/-- The place that an entry of a CU's spawn queue needs is free. -/
def Cu.placeFree (c : Cu) (q : Spawn) : Prop := if q.agent then c.agent = none else c.pool.length < 8

/-- A CU when the first entry of its spawn queue has been placed as thread `id`. -/
def Cu.spawned (c : Cu) (q : Spawn) (rest : List Spawn) (id : Nat) : Cu :=
  { c with spawnq := rest, pool := if q.agent then c.pool else c.pool ++ [id], agent := if q.agent then some id else c.agent }

/-- The group of a notice has no further one waiting. -/
def noticeTaken (s : State) (q : Spawn) : State := if q.notice then s.modThread q.tid fun u => { u with notice := 0 } else s

theorem noticeTaken_thread (s : State) (q : Spawn) (j : Nat) :
    (noticeTaken s q).thread j =
      if q.notice ∧ j = q.tid then (s.thread j).map fun u => { u with notice := 0 } else s.thread j := by
  unfold noticeTaken
  by_cases n : q.notice
  · rw [if_pos n, State.thread_modThread]
    by_cases h : j = q.tid <;> simp [n, h]
  · simp [n]

/-- A CU's module when the first entry of that CU's spawn queue has been placed. -/
def spawnFirst (s : State) (cu : Nat) (q : Spawn) (rest : List Spawn) : State :=
  (noticeTaken (s.fresh.2.modCu cu fun c => c.spawned q rest s.env.nextId) q).setThread s.env.nextId (spawnThread s cu q)

theorem exec_tadpoleSpawn_first {s : State} {cu : Nat} {q : Spawn} {rest : List Spawn} (first : (s.cu cu).spawnq = q :: rest)
    (free : (s.cu cu).placeFree q) : exec (.tadpoleSpawn cu) s = .next (spawnFirst s cu q rest) := by
  have isFree : (if q.agent then (s.cu cu).agent.isNone else decide ((s.cu cu).pool.length < 8)) = true := by
    unfold Cu.placeFree at free
    split_ifs at free ⊢ with h
    · simp [free]
    · simpa using free
  rw [exec_tadpoleSpawn, execTadpoleSpawn]
  simp only [first, List.find?_cons, isFree]
  have cu' : s.fresh.2.cu cu = s.cu cu := rfl
  simp [State.modCu, cu', Cu.spawned, noticeTaken, spawnFirst, first, isFree]

section
variable (s : State) (cu : Nat) (q : Spawn) (rest : List Spawn)

theorem spawnFirst_thread_self : (spawnFirst s cu q rest).thread s.env.nextId = some (spawnThread s cu q) := by
  rw [spawnFirst, State.thread_setThread, if_pos rfl]

theorem spawnFirst_thread_ne {j : Nat} (h : j ≠ s.env.nextId) : (spawnFirst s cu q rest).thread j =
    if q.notice ∧ j = q.tid then (s.thread j).map fun u => { u with notice := 0 } else s.thread j := by
  rw [spawnFirst, State.thread_setThread, if_neg h, noticeTaken_thread]
  rfl

theorem spawnFirst_cu : (spawnFirst s cu q rest).cu cu = (s.cu cu).spawned q rest s.env.nextId := by
  have moved : (s.fresh.2.modCu cu fun c => c.spawned q rest s.env.nextId).cu cu = (s.cu cu).spawned q rest s.env.nextId := by
    rw [State.cu_modCu, if_pos rfl]; rfl
  rw [← moved, spawnFirst, noticeTaken]
  split_ifs <;> rfl

theorem spawnFirst_mem : (spawnFirst s cu q rest).mem = s.mem := by
  rw [spawnFirst, noticeTaken]
  split_ifs <;> rfl

end

/-- A user tadpole starts at its launch's handler. -/
theorem spawnThread_pc_user {s : State} {cu : Nat} {q : Spawn} {g : Thread} {l : Launch} (user : q.sys = false) (has : q.hasTid = true)
    (group : s.thread q.tid = some g) (launch : s.launchOf g = some l) : (spawnThread s cu q).pc = BitVec.ofNat 64 l.lr.hpc := by
  simp [spawnThread, Thread.start, user, has, group, launch]

/-- A tadpole that handles a group in its active slot shares that slot. -/
theorem spawnThread_place {s : State} {cu : Nat} {q : Spawn} {g : Thread} (has : q.hasTid = true) (fault : q.notice = false)
    (own : q.agent = false) (group : s.thread q.tid = some g) (active : g.place = .active) :
    (spawnThread s cu q).place = .active ∧ (spawnThread s cu q).aslot = g.aslot := by
  simp [spawnThread, has, fault, own, group, active]

theorem tadpoleSpawns : Claims.TadpoleSpawns := by
  unfold Claims.TadpoleSpawns
  intro s cu q rest first free hid id
  have cus := spawnFirst_cu s cu q rest
  refine ⟨_, spawnThread s cu q, exec_tadpoleSpawn_first first free, ?_, ?_, ?_, spawnFirst_thread_self .., rfl, rfl, rfl, fun sys => ?_,
    fun g l user has group launch => spawnThread_pc_user user has group launch,
    fun g has fault own group active => spawnThread_place has fault own group active,
    rfl, rfl, rfl, rfl, rfl, rfl, rfl, rfl, rfl, rfl, spawnFirst_mem ..,
    fun notice g group => ?_, fun j hj h => ?_⟩
  · rw [cus]; rfl
  · rw [cus]; rfl
  · rw [cus]; rfl
  · simp [spawnThread, Thread.start, sys]
  · rw [spawnFirst_thread_ne _ _ _ _ hid, if_pos ⟨notice, rfl⟩, group]; rfl
  · rw [spawnFirst_thread_ne _ _ _ _ hj, if_neg]
    rintro ⟨notice, rfl⟩
    simp [notice] at h

/-! ### The watchdog (R424) and code lines (R109) -/

theorem watched_eq_true_iff (t : Thread) : watched t = true ↔ t.fz = none ∧ (t.place = .active ∨ t.place = .pending) := by
  simp [watched]

section
variable {s : State} {tid : Nat} {t : Thread} (h : s.thread tid = some t)
include h

theorem exec_watchdogExpiry_restarts (counts : watched t = true) (rests : recognisedWait s tid t = true ∨ s.halting t.ctx = true) :
    exec (.watchdogExpiry tid) s = .next (s.modThread tid fun u => { u with wdSince := s.cyc }) := by
  simp only [exec_watchdogExpiry, execWatchdogExpiry, h, counts, Bool.or_eq_true, rests, Bool.not_true, Bool.false_eq_true,
    if_true, if_false]

theorem exec_watchdogExpiry_expires (counts : watched t = true) (goes : ¬(recognisedWait s tid t = true ∨ s.halting t.ctx = true))
    (late : t.wdSince + 2 ^ 24 ≤ s.cyc) :
    exec (.watchdogExpiry tid) s = .next (takeFault s tid { cause := cWDOG, syn := if t.isGroup then 1 else 2 } t.pc) := by
  simp only [exec_watchdogExpiry, execWatchdogExpiry, h, counts, Bool.or_eq_true, goes, late, Bool.not_true,
    Bool.false_eq_true, if_true, if_false]

theorem exec_watchdogExpiry_rests (rests : watched t = false ∨
    (¬(recognisedWait s tid t = true ∨ s.halting t.ctx = true) ∧ s.cyc < t.wdSince + 2 ^ 24)) :
    exec (.watchdogExpiry tid) s = .next s := by
  rcases rests with off | ⟨goes, early⟩
  · simp only [exec_watchdogExpiry, execWatchdogExpiry, h, off, Bool.not_false, if_true]
  · simp only [exec_watchdogExpiry, execWatchdogExpiry, h, Bool.or_eq_true, goes, not_le.2 early, if_false, ite_self]

end

theorem watchdogAndCodeLines : Claims.WatchdogAndCodeLines := by
  unfold Claims.WatchdogAndCodeLines
  intro s tid t h counts rests
  have watch : watched t = true ↔ counts := watched_eq_true_iff t
  refine ⟨fun c r => exec_watchdogExpiry_restarts h (watch.2 c) r, fun c r late => exec_watchdogExpiry_expires h (watch.2 c) r late,
    fun off => exec_watchdogExpiry_rests h ?_, fun turn => ⟨?_, ?_⟩⟩
  · exact off.imp_left fun c => Bool.eq_false_iff.2 (mt watch.1 c)
  · rw [exec_codeLineCrcMismatch, execCodeLineCrcMismatch, turn]
    rfl
  · rw [exec_codeLineCrcMismatch, execCodeLineCrcMismatch, turn]
    rfl

/-! ### Counts of corrected errors (R36) -/

theorem corrected_countAt (s : State) (k : Nat) : ngetD (countAt s k).mdl.corrected k 0 = ngetD s.mdl.corrected k 0 + 1 := by
  simp [countAt, State.modModule, ngetD_nset]

/-- Counting errors changes nothing but the count of their place. -/
theorem countErrors_eq (s : State) (p : ErrorPlace) (n : Nat) :
    ∃ m, countErrors s p n = { s with mdl := m } ∧ ngetD m.corrected (placeCode p) 0 = ngetD s.mdl.corrected (placeCode p) 0 + n := by
  induction n with
  | zero => exact ⟨s.mdl, rfl, rfl⟩
  | succ n ih =>
    obtain ⟨m, eq, count⟩ := ih
    refine ⟨(countError { s with mdl := m } p).mdl, ?_, ?_⟩
    · rw [countErrors, Nat.repeat, ← countErrors, eq]
      rfl
    · rw [countError, corrected_countAt, count, Nat.add_assoc]

/-! ### Lanes that leave a group's masks (R54) -/

theorem mask_and_not_or_and_self (x m h : Mask) : (x &&& ~~~(m ||| h)) &&& m = 0 := by
  ext i hi
  cases m[i] <;> simp_all

theorem mask_and_and_not_self (x y : Mask) : (x &&& y) &&& ~~~x = 0 := by
  ext i hi
  cases x[i] <;> simp_all

/-- Lanes that are launched and neither exited nor dead. -/
def Thread.liveOf (t : Thread) (lanes : Mask) : Mask := lanes &&& t.lmask &&& ~~~t.exited &&& ~~~t.deadm

theorem Thread.liveOf_launched (t : Thread) (lanes : Mask) :
    t.liveOf lanes &&& t.lmask &&& ~~~t.exited = t.liveOf lanes := by
  unfold Thread.liveOf
  ext i hi
  simp only [BitVec.getElem_and, BitVec.getElem_not]
  cases t.lmask[i] <;> cases t.exited[i] <;> simp

/-- What the death of live lanes leaves of a group's masks, its PC and its frozen state. -/
theorem Thread.killLanes_liveOf (t : Thread) (lanes : Mask) :
    let m := t.liveOf lanes
    let u := t.killLanes m
    u.deadm = (t.deadm ||| m) ∧ u.exm &&& m = 0 ∧ u.exm &&& ~~~t.exm = 0 ∧
      (∀ e ∈ u.stack, e.d &&& m = 0 ∧ e.c &&& m = 0 ∧ e.p &&& m = 0) ∧ u.pc = t.pc ∧ u.fz = t.fz ∧ u.corrupt = t.corrupt := by
  intro m u
  have launched : m &&& t.lmask &&& ~~~t.exited = m := t.liveOf_launched lanes
  let h := Thread.idleHelpers { t with deadm := t.deadm ||| m }
  have dropped : u = { ({ t with deadm := t.deadm ||| m } : Thread).dropLanes (m ||| h) with exited := t.exited ||| h } := by
    simp only [u, Thread.killLanes, launched]
    rfl
  rw [dropped]
  refine ⟨rfl, mask_and_not_or_and_self .., mask_and_and_not_self .., fun e he => ?_, rfl, rfl, rfl⟩
  obtain ⟨e0, _, rfl⟩ := List.mem_map.1 he
  exact ⟨mask_and_not_or_and_self .., mask_and_not_or_and_self .., mask_and_not_or_and_self ..⟩

/-! ### LANE_DEATH (R423) -/

/-- A thread in which errors have marked registers, those of its workgroup left out. -/
def Thread.marked (t : Thread) (regs : List Nat) : Thread :=
  { t with corrupt := (t.corrupt ++ (regs.filter mayCorrupt).filter fun x => !decide (0x1C0 ≤ x ∧ x < 0x1D0)).eraseDups }

theorem Thread.mem_corrupt_marked (t : Thread) {regs : List Nat} {r : Nat} (h : r ∈ regs) (may : mayCorrupt r = true)
    (own : ¬(0x1C0 ≤ r ∧ r < 0x1D0)) : r ∈ (t.marked regs).corrupt := by
  simp only [Thread.marked, List.mem_eraseDups, List.mem_append, List.mem_filter]
  exact .inr ⟨⟨h, may⟩, by simpa only [decide_eq_false_iff_not, Bool.not_eq_true'] using own⟩

/-- Errors change threads and workgroups alone, and of the threads their own. -/
theorem markCorrupt_eq (s : State) (tid : Nat) (t : Thread) (regs : List Nat) :
    ∃ w, markCorrupt s tid t regs = { s.modThread tid (·.marked regs) with wgs := w } := by
  unfold markCorrupt
  by_cases h : t.hasWg
  · simp only [h, if_true]; exact ⟨_, rfl⟩
  · simp only [h]; exact ⟨_, rfl⟩

/-- The record of a notice of dead lanes. -/
def noticeRec (s : State) (t : Thread) (m : Mask) : FaultRec :=
  faultRec s t { cause := cUCE, syn := 0x00020001, lanes := m.setWidth 64, unit := some (funit 3 t.barrel) }

/-- A notice for a group of a context with system code is queued on its CU where none waits. -/
theorem queueNotice_first {s : State} {tid : Nat} {t : Thread} (m : Mask) (group : t.isGroup = true)
    (sysent : (s.ctx t.ctx).sysent ≠ 0) (quiet : (s.cu t.cu).spawnq = []) :
    ∃ q, queueNotice s tid t m = s.modCu t.cu (fun c => { c with spawnq := insertSpawn c.spawnq q }) ∧ q.notice = true ∧
      q.tid = tid ∧ q.fr = noticeRec s t m := by
  unfold queueNotice queueSpawn
  simp only [quiet, List.any_nil, Bool.false_eq_true, if_false, sysent, decide_false, Bool.and_false, group, if_true, Bool.false_or]
  exact ⟨_, rfl, rfl, rfl, rfl⟩

theorem endIfEmpty_of_alive {s : State} {tid : Nat} {t : Thread} (h : s.thread tid = some t) (alive : t.aliveLanes ≠ 0) :
    endIfEmpty s tid = s := by
  have alive' : decide (t.aliveLanes = 0) = false := decide_eq_false alive
  simp only [endIfEmpty, h, alive', Bool.and_false, Bool.false_and, Bool.false_eq_true, if_false]

/-- What LANE_DEATH makes of a group, lanes `m` of it having been alive. -/
def Thread.laneDied (t : Thread) (m : Mask) (regs : List Nat) : Thread :=
  { (t.marked regs).killLanes m with notice := t.notice ||| m }

/-- LANE_DEATH of a group that keeps a lane: errors are counted and marked, lanes die, and a notice goes to the group's CU. -/
theorem exec_laneDeath_notice {s : State} {tid : Nat} {t : Thread} {lanes : Mask} (regs : List Nat) (n : Nat)
    (ht : s.thread tid = some t) (group : t.isGroup = true) (here : t.place ≠ .exited) (dies : t.liveOf lanes ≠ 0)
    (alive : (t.killLanes (t.liveOf lanes)).aliveLanes ≠ 0) (sysent : (s.ctx t.ctx).sysent ≠ 0)
    (quiet : (s.cu t.cu).spawnq = []) :
    ∃ mdl w q, exec (.laneDeath tid { lanes := lanes, regs := regs, corrected := n }) s = .next
        ({ s.setThread tid (t.laneDied (t.liveOf lanes) regs) with mdl := mdl, wgs := w }.modCu t.cu
          fun c => { c with spawnq := insertSpawn c.spawnq q }) ∧
      ngetD mdl.corrected (placeCode .registerFile) 0 = ngetD s.mdl.corrected (placeCode .registerFile) 0 + n ∧
      q.notice = true ∧ q.tid = tid ∧ q.fr.cause = BitVec.ofNat 64 cUCE ∧ q.fr.lanes = (t.liveOf lanes).setWidth 64 := by
  obtain ⟨mdl, counted, count⟩ := countErrors_eq s .registerFile n
  obtain ⟨w, marks⟩ := markCorrupt_eq { s with mdl := mdl } tid t regs
  let m := t.liveOf lanes
  let s1 : State := { s.setThread tid (t.marked regs) with mdl := mdl, wgs := w }
  let s2 : State := { s.setThread tid (t.laneDied m regs) with mdl := mdl, wgs := w }
  have marked : markCorrupt (countErrors s .registerFile n) tid t regs = s1 := by
    rw [counted, marks, State.modThread_of_thread (s := { s with mdl := mdl }) ht]
    rfl
  have died : s1.modThread tid (fun u => { u.killLanes m with notice := u.notice ||| m }) = s2 := by
    rw [State.modThread_of_thread (s := s1) (t := t.marked regs) (nget_nset_self ..)]
    simp only [s1, s2, State.setThread, nset_nset_self]
    rfl
  obtain ⟨q, queued, notice, qtid, qfr⟩ := queueNotice_first (s := s2) (tid := tid) m group sysent quiet
  refine ⟨mdl, w, q, ?_, count, notice, qtid, by rw [qfr]; rfl, by rw [qfr]; rfl⟩
  have stays : endIfEmpty (queueNotice s2 tid t m) tid = queueNotice s2 tid t m := by
    rw [queued]
    exact endIfEmpty_of_alive (t := t.laneDied m regs) (nget_nset_self ..) alive
  have ran : exec (.laneDeath tid { lanes := lanes, regs := regs, corrected := n }) s = .next (
      let u := queueNotice (s1.modThread tid fun u => { u.killLanes m with notice := u.notice ||| m }) tid t m
      if t.fz.isNone then endIfEmpty u tid else u) := by
    have dies' : lanes &&& t.lmask &&& ~~~t.exited &&& ~~~t.deadm ≠ 0 := dies
    rw [exec_laneDeath, execLaneDeath, ht]
    simp only [group, here, dies', if_false, Bool.not_true, decide_false, Bool.or_false, Bool.false_eq_true, marked]
    rfl
  simp only [ran, died, stays, ite_self]
  exact congrArg Host.Outcome.next queued

theorem laneDeathDropsLanes : Claims.LaneDeathDropsLanes := by
  unfold Claims.LaneDeathDropsLanes
  intro s tid t lanes regs n ht group here m dies alive sysent quiet
  obtain ⟨mdl, w, q, ran, count, notice, qtid, cause, qlanes⟩ := exec_laneDeath_notice regs n ht group here dies alive sysent quiet
  obtain ⟨deadm, exm, within, stack, pc, fz, -⟩ := (t.marked regs).killLanes_liveOf lanes
  refine ⟨_, t.laneDied m regs, q, ran, nget_nset_self .., deadm, exm, within, stack, pc, fz, ?_, notice, qtid, cause, qlanes, count,
    fun r hr may own => t.mem_corrupt_marked hr may own, rfl, fun j hj => nget_nset_ne _ _ _ _ hj⟩
  rw [State.cu_modCu, if_pos rfl]
  simp only [State.cu, State.setThread_cus]
  rw [← State.cu, quiet, insertSpawn]

/-- Settles O59: each event of the fault sequencer, by the state that it leaves. -/
theorem faultSequencer : Obligations.FaultSequencer := ⟨tadpoleSpawns, watchdogAndCodeLines, laneDeathDropsLanes⟩

end Sys2Proof.Machine
end

section
/-! Settles O20: start-up, its failures, thermal reset and firmware. -/

namespace Sys2Proof.Machine

/-! ### Maps that start-up builds -/

/-- A map given by its keys and a function of the key. -/
theorem nget_map_keys {α : Type} (g : Nat → α) (l : List Nat) (k : Nat) :
    nget (l.map fun d => (d, g d)) k = if k ∈ l then some (g k) else none := by
  induction l with
  | nil => rfl
  | cons d r ih =>
    simp only [List.map_cons, nget, ih, List.mem_cons]
    by_cases h : d = k
    · subst h; simp
    · simp [h, Ne.symm h]

/-- The numbers of the CUs that self-test enabled. -/
def enabledKeys (cum : List Word64) : List Nat :=
  ((List.range 84).map fun d => ((List.range 64).filter fun c => ((cum[d]?).getD 0).getLsbD c).map fun c => d * 64 + c).flatten

theorem mem_enabledKeys (cum : List Word64) {d c : Nat} (hd : d < 84) (hc : c < 64) :
    64 * d + c ∈ enabledKeys cum ↔ ((cum[d]?).getD 0).getLsbD c = true := by
  simp only [enabledKeys, List.mem_flatten, List.mem_map, List.mem_range]
  constructor
  · rintro ⟨_, ⟨d', _, rfl⟩, member⟩
    obtain ⟨c', picked, key⟩ := List.mem_map.1 member
    obtain ⟨below, bit⟩ := List.mem_filter.1 picked
    have hc' := List.mem_range.1 below
    obtain rfl : d' = d := by omega
    obtain rfl : c' = c := by omega
    exact bit
  · exact fun bit => ⟨_, ⟨d, hd, rfl⟩, List.mem_map.2 ⟨c, List.mem_filter.2 ⟨List.mem_range.2 hc, bit⟩, by omega⟩⟩

theorem enabledCus_eq (cum : List Word64) : enabledCus cum = (enabledKeys cum).map fun k => (k, { Cu.reset with en := true }) := by
  simp only [enabledCus, enabledKeys, List.map_flatten, List.map_map, Function.comp_def]

theorem nget_enabledCus (cum : List Word64) {d c : Nat} (hd : d < 84) (hc : c < 64) :
    nget (enabledCus cum) (64 * d + c) =
      if ((cum[d]?).getD 0).getLsbD c = true then some { Cu.reset with en := true } else none := by
  rw [enabledCus_eq, nget_map_keys]
  simp only [mem_enabledKeys cum hd hc]

/-- The sectors that memory initialisation has poisoned, among those that were so before. -/
theorem ngetD_poisoned_fold (l : List Nat) (m : NMap Meta) (sec : Nat) :
    ngetD (l.foldl (fun m sec => nset m sec { Meta.init with poi := true }) m) sec Meta.init =
      if sec ∈ l then { Meta.init with poi := true } else ngetD m sec Meta.init := by
  induction l generalizing m with
  | nil => rfl
  | cons x r ih =>
    rw [List.foldl_cons, ih, ngetD_nset]
    by_cases later : sec ∈ r
    · simp [later]
    · by_cases now : sec = x <;> simp [later, now]

theorem ngetD_poisonedMeta (l : List Nat) (sec : Nat) :
    ngetD (poisonedMeta l) sec Meta.init = { Meta.init with poi := decide (sec ∈ l) } := by
  rw [poisonedMeta, ngetD_poisoned_fold]
  by_cases h : sec ∈ l <;> simp [h, Meta.init, ngetD]

/-! ### MODULE_START and THERMAL_RESET -/

/-- Nothing runs, and nothing is kept of memory. -/
def State.Blank (u : State) : Prop :=
  u.thr = [] ∧ u.wgs = [] ∧ u.lch = [] ∧ u.ctxs = [] ∧ u.parts = [] ∧ u.mem.dram = [] ∧ u.mem.l2 = []

theorem resetModule_blank (s : State) : (resetModule s).Blank := ⟨rfl, rfl, rfl, rfl, rfl, rfl, rfl⟩

/-- The root's offset once it has joined the tree of time, in the place of 84 (R371). -/
def joinedOffset (s : State) (count : Nat) : NMap Int :=
  if timeMaster s ≠ s.mdl.number then nset s.mdl.offset 84 ((count : Int) - s.raw) else s.mdl.offset

theorem joinTime_eq (s : State) (count : Nat) :
    joinTime s count = { s with mdl := { s.mdl with offset := joinedOffset s count } } := by
  unfold joinTime joinedOffset
  split_ifs <;> rfl

theorem exec_moduleStart_starts {r : StartResult} (s : State) (h : startFailure r = none) :
    ∃ u, exec (.moduleStart r) s = .next u ∧ u.Blank ∧ u.mdl.mstatus = 0x81 ∧ u.cus = enabledCus r.cum ∧
      u.mem.smeta = poisonedMeta r.poisoned ∧ ∃ o, u.mdl.offset = (List.range 84).map (fun d => (d, (r.ofs[d]?).getD 0)) ++ o := by
  rw [exec_moduleStart, execModuleStart]
  simp only [h, joinTime_eq]
  exact ⟨_, rfl, resetModule_blank s, rfl, rfl, rfl, _, rfl⟩

theorem exec_moduleStart_fails {r : StartResult} {stage tile : Nat} (s : State) (h : startFailure r = some (stage, tile)) :
    exec (.moduleStart r) s = .next ((resetModule s).modModule fun m =>
      { m with mstatus := BitVec.ofNat 64 (tile * 256 + stage * 16 + 2) }) := by
  rw [exec_moduleStart, execModuleStart]
  simp only [h, Nat.shiftLeft_eq]

/-- Settles O20: start-up builds a state over `resetModule`, of which a failure and a thermal reset leave no more. -/
theorem startUpAndReset : Obligations.StartUpAndReset := by
  unfold Obligations.StartUpAndReset
  intro s r blank
  refine ⟨fun ok => ?_, fun stage tile bad => ?_, ?_, fun firmware => rfl⟩
  · obtain ⟨u, ran, empty, status, cus, smeta, o, offset⟩ := exec_moduleStart_starts s ok
    refine ⟨u, ran, empty, status, fun sec => ?_, fun d hd => ?_, fun d c hd hc => ?_⟩
    · rw [State.smeta, smeta, ngetD_poisonedMeta]
    · rw [offset, ngetD, nget_append, nget_map_keys, if_pos (List.mem_range.2 hd)]
      rfl
    · rw [State.cu, cus, ngetD, nget_enabledCus _ hd hc]
      cases ((r.cum[d]?).getD 0).getLsbD c <;> exact ⟨rfl, rfl⟩
  · exact ⟨_, exec_moduleStart_fails s bad, resetModule_blank s, rfl, fun _ => rfl⟩
  · exact ⟨_, rfl, resetModule_blank s, rfl, rfl, rfl, rfl⟩

end Sys2Proof.Machine
end

section
/-! For O37: tiles as memory, their allocation, and the ends of batches. -/

namespace Sys2Proof.Machine

/-! ### Lists of lists of one length -/

/-- Element `i` of list `k` of a list of lists of length `c`, in their concatenation. -/
theorem getElem?_flatten_uniform {α : Type} {L : List (List α)} {c : Nat} (h : ∀ x ∈ L, x.length = c) (k : Nat) {i : Nat}
    (hi : i < c) : L.flatten[k * c + i]? = (L[k]?).bind (·[i]?) := by
  induction L generalizing k with
  | nil => simp
  | cons x r ih =>
    obtain ⟨hx, hr⟩ := List.forall_mem_cons.1 h
    cases k with
    | zero => simp [List.getElem?_append_left, hx, hi]
    | succ k =>
      have past : x.length ≤ (k + 1) * c + i := by rw [hx, Nat.succ_mul]; omega
      have rest : (k + 1) * c + i - x.length = k * c + i := by rw [hx, Nat.succ_mul]; omega
      rw [List.flatten_cons, List.getElem?_append_right past, rest, ih hr k, List.getElem?_cons_succ]

theorem length_flatten_uniform {α : Type} {L : List (List α)} {c : Nat} (h : ∀ x ∈ L, x.length = c) :
    L.flatten.length = L.length * c := by
  rw [List.length_flatten, List.map_congr_left h]
  simp

/-! ### The words of a tile (R206, R207) -/

theorem leNat_leBytes_four {v : Nat} (h : v < 2 ^ 32) : leNat (leBytes 4 v) = v := by
  simp [leNat, leBytes, List.range_succ, Nat.shiftRight_eq_div_pow]
  omega

theorem byte_setBytes_of_getElem? (m : Memory) (a : Nat) {l : List Byte} {k : Nat} {b : Byte} (h : l[k]? = some b) :
    Memory.byte (Memory.setBytes m a l) (a + k) = b := by
  obtain ⟨below, rfl⟩ := List.getElem?_eq_some_iff.1 h
  rw [Memory.byte_setBytes, if_pos (by omega), Nat.add_sub_cancel_left, List.getD_eq_getElem _ _ below]

/-- The bytes of rows of 32-bit words. -/
def rowBytes (rows : List (List Nat)) : List Byte := (rows.map fun r => (r.map (leBytes 4)).flatten).flatten

/-- The rows have one length. -/
def OfWidth (c : Nat) (rows : List (List Nat)) : Prop := ∀ r ∈ rows, r.length = c

section
variable {rows : List (List Nat)} {c : Nat} (w : OfWidth c rows)
include w

theorem length_wordBytes_row {x : List Byte} (h : x ∈ rows.map fun r => (r.map (leBytes 4)).flatten) : x.length = c * 4 := by
  obtain ⟨r, hr, rfl⟩ := List.mem_map.1 h
  rw [length_flatten_uniform (c := 4) (by simp [leBytes]), List.length_map, w r hr]

theorem length_rowBytes : (rowBytes rows).length = rows.length * (c * 4) := by
  rw [rowBytes, length_flatten_uniform fun x h => length_wordBytes_row w h, List.length_map]

theorem rowBytes_getElem? {i n j : Nat} (hi : i < rows.length) (hn : n < rows[i].length) (hj : j < 4) :
    (rowBytes rows)[4 * (i * c + n) + j]? = (leBytes 4 rows[i][n])[j]? := by
  have hc : rows[i].length = c := w _ (List.getElem_mem hi)
  have index : 4 * (i * c + n) + j = i * (c * 4) + (n * 4 + j) := by ring
  rw [rowBytes, index, getElem?_flatten_uniform (fun x h => length_wordBytes_row w h) i (by omega)]
  simp only [List.getElem?_map, List.getElem?_eq_getElem hi, Option.map_some, Option.bind_some]
  rw [getElem?_flatten_uniform (c := 4) (by simp [leBytes]) n hj]
  simp [hn]

theorem bytes_setBytes_rowBytes (m : Memory) (a : Nat) {i n : Nat} (hi : i < rows.length) (hn : n < rows[i].length) :
    Memory.bytes (Memory.setBytes m a (rowBytes rows)) (a + 4 * (i * c + n)) 4 = leBytes 4 rows[i][n] := by
  refine List.map_congr_left fun j hj => ?_
  have hj := List.mem_range.1 hj
  rw [Nat.add_assoc]
  refine byte_setBytes_of_getElem? m a ((rowBytes_getElem? w hi hn hj).trans ?_)
  simp [leBytes, hj]

end

theorem Tile.word_store (x : Tile) (m : Memory) {rows : List (List Nat)} (w : OfWidth (colsOf x.nf) rows) {i n : Nat}
    (hi : i < rows.length) (hn : n < rows[i].length) (fits : rows[i][n] < 2 ^ 32) : x.word (x.store m rows) i n = rows[i][n] := by
  rw [Tile.word, Tile.at, Tile.store, ← rowBytes, bytes_setBytes_rowBytes w m _ hi hn, leNat_leBytes_four fits]

theorem tileStoreThenRows : Claims.TileStoreThenRows := by
  unfold Claims.TileStoreThenRows
  intro x m rows _ count words
  have w : OfWidth (colsOf x.nf) rows := fun r hr => (words r hr).1
  constructor
  · refine List.ext_getElem (by simp [Tile.rows, count]) fun i _ hi => ?_
    have hr := List.getElem_mem hi
    refine List.ext_getElem (by simp [Tile.rows, w _ hr]) fun n _ hn => ?_
    simp only [Tile.rows, List.getElem_map, List.getElem_range]
    exact x.word_store m w hi hn ((words _ hr).2 _ (List.getElem_mem hn))
  · intro a outside
    have size : (rowBytes rows).length = 1024 * (2 ^ x.mc * (x.nf + 1)) := by
      rw [length_rowBytes w, count, rowsOf, colsOf]; ring
    rw [Tile.store, ← rowBytes, Memory.byte_setBytes, if_neg (by rw [size]; omega)]

end Sys2Proof.Machine
end

section
/-! For O37: MTALLOC, MBATCH. -/

namespace Sys2Proof.Machine

/-! ### A form that retires with a further change of its thread -/

/-- A further change is made of the thread as the form leaves it. -/
theorem retire_with {opc : Nat} {f : Fields} {s : State} {tid : Nat} {t : Thread} {d : Done} (fit : t.fits d.writes = true)
    (g : Thread → Thread) : retire opc f s tid t d g = (retire opc f s tid t d).modThread tid g := by
  simp only [retire, fit, if_true, State.modThread_modThread, id]

theorem retire_blk {opc : Nat} {f : Fields} {s : State} {tid : Nat} {t t' : Thread} {d : Done} (fit : t.fits d.writes = true)
    (h : (retire opc f s tid t d).thread tid = some t') : t'.blk = none := by
  simp only [retire, fit, if_true, State.thread_modThread, Option.map_eq_some_iff] at h
  obtain ⟨u, -, rfl⟩ := h
  rfl

theorem fits_uni (t : Thread) (code : Nat) (v : Word64) : t.fits [.uni code v] = true := Thread.fits_of_newNames t _ rfl

/-! ### MTALLOC (R206, R209) -/

theorem unitsOf_eq (mc nf : Nat) : unitsOf mc nf = 2 ^ mc * (nf + 1) := by
  rw [unitsOf, rowsOf, colsOf, show 16 * 2 ^ mc * (16 * (nf + 1)) = 2 ^ mc * (nf + 1) * 256 by ring, Nat.mul_div_cancel _ (by decide)]

/-- Units `b` to `b + n − 1` lie in a workgroup's store and belong to no tile. -/
def RunFree (g : Wg) (n b : Nat) : Prop :=
  b + n ≤ 4 * g.tsUnits ∧ ∀ x ∈ g.tiles, b + n ≤ x.base ∨ x.base + 2 ^ x.mc * (x.nf + 1) ≤ b

/-- The run of units that MTALLOC takes. -/
def firstRun (g : Wg) (n : Nat) : Option Nat :=
  (List.range (4 * g.tsUnits)).find? fun b => b + n ≤ 4 * g.tsUnits && unitsFree g b n

theorem runFree_iff (g : Wg) (n b : Nat) : RunFree g n b ↔ (decide (b + n ≤ 4 * g.tsUnits) && unitsFree g b n) = true := by
  simp [RunFree, unitsFree, Tile.units, unitsOf_eq]

theorem firstRun_eq_some {g : Wg} {n b : Nat} (size : 0 < n) (free : RunFree g n b) (low : ∀ c, c < b → ¬RunFree g n c) :
    firstRun g n = some b := by
  rw [firstRun, List.find?_range_eq_some]
  obtain ⟨fits, -⟩ := id free
  refine ⟨(runFree_iff g n b).1 free, List.mem_range.2 (by omega), fun c hc => ?_⟩
  rw [Bool.not_eq_true', Bool.eq_false_iff]
  exact mt (runFree_iff g n c).2 (low c hc)

theorem firstRun_eq_none {g : Wg} {n : Nat} (full : ∀ b, ¬RunFree g n b) : firstRun g n = none := by
  rw [firstRun, List.find?_range_eq_none]
  intro b _
  rw [Bool.not_eq_true', Bool.eq_false_iff]
  exact mt (runFree_iff g n b).2 (full b)

theorem Tile.handle_eq (x : Tile) : x.handle = BitVec.ofNat 64 (x.gen * 2 ^ 24 + x.nf * 2 ^ 12 + x.mc * 2 ^ 10 + x.base) := by
  simp only [Tile.handle, Nat.shiftLeft_eq]

/-- A workgroup with a new tile of a size from unit `b` on. -/
def Wg.allocated (g : Wg) (nf mc b : Nat) : Wg :=
  { g with tiles := g.tiles ++ [{ gen := g.tileGen, nf := nf, mc := mc, base := b, dying := false }],
           tileGen := if g.tileGen = 255 then 1 else g.tileGen + 1 }

section
variable {f : Fields} {s : State} {tid : Nat} {t : Thread} {g : Wg} (h : Issues s tid t 0x140 f) (live : t.live f ≠ 0)
  (hg : s.wg t.wg = some g)
include h live hg

theorem exec_mtalloc_takes {b : Nat} (run : firstRun g (unitsOf (Forms.mo f 1 0) (Forms.ex f 5 0)) = some b) :
    exec (.mtalloc f) s = .next (retire 0x140 f (s.modWg t.wg fun g => g.allocated (Forms.ex f 5 0) (Forms.mo f 1 0) b) tid t
      { writes := [.uni f.d.toNat (BitVec.ofNat 64
          (g.tileGen * 2 ^ 24 + Forms.ex f 5 0 * 2 ^ 12 + Forms.mo f 1 0 * 2 ^ 10 + b))] }) := by
  unfold firstRun at run
  rw [exec_mtalloc, execMtalloc, issue_runs h]
  simp only [live, if_false, hg, run, Tile.handle_eq]
  rw [State.modWg_congr hg (k := fun g => g.allocated (Forms.ex f 5 0) (Forms.mo f 1 0) b)]
  rfl

theorem exec_mtalloc_full (run : firstRun g (unitsOf (Forms.mo f 1 0) (Forms.ex f 5 0)) = none) :
    exec (.mtalloc f) s = .next (retire 0x140 f s tid t { writes := [.uni f.d.toNat 0] }) := by
  unfold firstRun at run
  rw [exec_mtalloc, execMtalloc, issue_runs h]
  simp only [live, if_false, hg, run]

end

theorem tileAllocation : Claims.TileAllocation := by
  unfold Claims.TileAllocation
  intro f s tid t g h live hg mc nf n free
  have size : 0 < n := by positivity
  have units : unitsOf mc nf = n := unitsOf_eq mc nf
  refine ⟨fun b free low => ?_, fun full => ?_⟩
  · have ran := exec_mtalloc_takes h live hg (b := b) ((congrArg (firstRun g) units).trans (firstRun_eq_some size free low))
    obtain ⟨t', ht⟩ := retire_retires 0x140 f (s := s.modWg t.wg fun g => g.allocated nf mc b)
      { writes := [.uni f.d.toNat (BitVec.ofNat 64 (g.tileGen * 2 ^ 24 + nf * 2 ^ 12 + mc * 2 ^ 10 + b))] }
      h.thread h.new (fits_uni t _ _)
    exact ⟨_, t', ran.trans (congrArg Host.Outcome.next (retire_with (fits_uni t _ _) id)), ht⟩
  · obtain ⟨t', ht⟩ := retire_retires 0x140 f { writes := [.uni f.d.toNat 0] } h.thread h.new (fits_uni t _ _)
    exact ⟨_, t', exec_mtalloc_full h live hg ((congrArg (firstRun g) units).trans (firstRun_eq_none full)), ht⟩

/-! ### MBATCH (R167, R214) -/

/-- What a form that goes on with register writes leaves, where it makes a further change of its thread that touches nothing
of what `Advances` speaks of. -/
theorem Retires.advances {s u : State} {tid : Nat} {t t' : Thread} {opc : Nat} {f : Fields} {ws : List Write}
    (r : Retires s u tid t t' opc f { writes := ws }) (blk : t'.blk = none) {g : Thread → Thread}
    (keeps : ∃ m o b l, g t' = { t' with cM := m, batchNo := o, openOps := b, batches := l }) :
    Advances s (u.modThread tid g) tid t (g t') opc f ws := by
  obtain ⟨m, o, b, l, same⟩ := keeps
  have frame := r.frame
  have field : ∀ {α : Type} (k : Thread → α), k t'.frame = k t.frame := fun k => congrArg k frame
  rw [same]
  exact {
    thread := by rw [State.thread_modThread, if_pos rfl, r.thread, Option.map_some, same]
    pc := r.pc
    sig := r.sig
    vector := r.vector
    scalar := r.scalar
    pred := r.pred
    wregs := by
      rw [State.wg_modThread, r.wregs, Option.map_map]
      exact congrArg (Option.map · (s.wg t.wg)) (funext fun g => by simp)
    masks := ⟨field (·.exm), field (·.stack), field (·.exited), field (·.deadm)⟩
    special := by
      refine ⟨field (·.fpctl), ?_, field (·.mstat), field (·.nchk)⟩
      rw [show ({ t' with cM := m, batchNo := o, openOps := b, batches := l } : Thread).fpstat = t'.fpstat from rfl, r.flags]
      simp [raiseFlags]
    stands := ⟨field (·.fz), field (·.place), blk⟩
    bytes := by rw [State.modThread_mem, r.state]; exact ⟨rfl, rfl⟩ }

theorem drainBatches_of_none {t : Thread} (e : t.batches = []) (k : Nat) : drainBatches k t = t := by
  cases k with
  | zero => rfl
  | succ k => simp [drainBatches, e]

theorem drainBatches_of_open {t : Thread} {b : Batch} {r : List Batch} (e : t.batches = b :: r) (busy : b.ops ≠ []) (k : Nat) :
    drainBatches k t = t := by
  cases k with
  | zero => rfl
  | succ k =>
    unfold drainBatches
    simp [e, busy]

theorem drainBatches_of_done {t : Thread} {b : Batch} {r : List Batch} (e : t.batches = b :: r) (done : b.ops = []) (k : Nat) :
    drainBatches (k + 1) t = drainBatches k { t.countDown 3 with batches := r } := by
  conv_lhs => unfold drainBatches
  simp [e, done]

/-- Batches that leave change the count of M and the batches alone. -/
theorem drainBatches_eq (fuel : Nat) (t : Thread) : ∃ m l, drainBatches fuel t = { t with cM := m, batches := l } := by
  induction fuel generalizing t with
  | zero => exact ⟨t.cM, t.batches, rfl⟩
  | succ k ih =>
    cases e : t.batches with
    | nil => exact ⟨t.cM, t.batches, drainBatches_of_none e _⟩
    | cons b r =>
      by_cases done : b.ops = []
      · obtain ⟨m, l, rest⟩ := ih { t.countDown 3 with batches := r }
        exact ⟨m, l, (drainBatches_of_done e done k).trans rest⟩
      · exact ⟨t.cM, t.batches, drainBatches_of_open e done _⟩

/-- A batch with an operation under way holds back itself and those after it. -/
theorem endBatches_of_open {t : Thread} (h : ∀ b ∈ t.batches.head?, b.ops ≠ []) : t.endBatches = t := by
  cases e : t.batches with
  | nil => exact drainBatches_of_none e _
  | cons b r => exact drainBatches_of_open e (h b (by rw [e]; rfl)) _

/-- What MBATCH does to its thread. -/
def Thread.batchEnded (u : Thread) : Thread :=
  Thread.endBatches
    { (u.countUp 3) with batchNo := u.batchNo + 1, openOps := [], batches := u.batches ++ [{ num := u.batchNo + 1, ops := u.openOps }] }

theorem Thread.batchEnded_eq (u : Thread) :
    ∃ m l, u.batchEnded = { u with cM := m, batchNo := u.batchNo + 1, openOps := [], batches := l } := drainBatches_eq _ _

theorem Thread.batchEnded_open {u : Thread} (head : ∀ b ∈ u.batches.head?, b.ops ≠ []) (own : u.batches = [] → u.openOps ≠ []) :
    u.batchEnded.cM = u.cM + 1 ∧ u.batchEnded.batches = u.batches ++ [{ num := u.batchNo + 1, ops := u.openOps }] := by
  rw [Thread.batchEnded, endBatches_of_open]
  · exact ⟨rfl, rfl⟩
  · intro b hb
    cases e : u.batches with
    | nil =>
      obtain rfl : { num := u.batchNo + 1, ops := u.openOps } = b := by simpa [e] using hb
      exact own e
    | cons c r => exact head b (by simpa [e] using hb)

theorem Thread.batchEnded_empty {u : Thread} (noBatches : u.batches = []) (noOps : u.openOps = []) :
    u.batchEnded.cM = u.cM ∧ u.batchEnded.batches = [] := by
  simp [Thread.batchEnded, Thread.endBatches, drainBatches, noBatches, noOps, Thread.countUp, Thread.countDown]

theorem batchEndsOpenOperations : Claims.BatchEndsOpenOperations := by
  unfold Claims.BatchEndsOpenOperations
  intro f s tid t h live
  let d : Done := { writes := [.uni f.d.toNat (BitVec.ofNat 64 (t.batchNo % 256))] }
  obtain ⟨t', r⟩ := retire_retires 0x148 f d h.thread h.new (fits_uni t _ _)
  have field : ∀ {α : Type} (k : Thread → α), k t'.frame = k t.frame := fun k => congrArg k r.frame
  have batches : t'.batches = t.batches := field (·.batches)
  have ops : t'.openOps = t.openOps := field (·.openOps)
  have number : t'.batchNo = t.batchNo := field (·.batchNo)
  have counter : t'.cM = t.cM := field (·.cM)
  obtain ⟨m, l, eq⟩ := t'.batchEnded_eq
  refine ⟨(retire 0x148 f s tid t d).modThread tid Thread.batchEnded, t'.batchEnded, ?_,
    r.advances (retire_blk (fits_uni t _ _) r.thread) ⟨m, _, _, l, eq⟩, ?_, ?_, ?_, fun j hj => ?_, fun head own => ?_,
    fun noBatches noOps => ?_⟩
  · rw [exec_mbatch, execMbatch, issue_runs h]
    simp only [live, if_false]
    exact congrArg Host.Outcome.next (retire_with (fits_uni t _ _) _)
  · rw [eq, ← number]
  · rw [eq]
  · rw [State.modThread_cus, r.state]
  · rw [State.thread_modThread, if_neg hj, r.others j hj]
  · rw [← batches] at head own
    rw [← ops] at own
    obtain ⟨up, added⟩ := Thread.batchEnded_open head own
    rw [up, added, counter, batches, number, ops]
    exact ⟨rfl, rfl⟩
  · rw [← counter]
    exact Thread.batchEnded_empty (batches.trans noBatches) (ops.trans noOps)

end Sys2Proof.Machine
end

section
/-! For O37: MSTG, an uncorrectable error in storage that a matrix operation reads (R229). -/

namespace Sys2Proof.Machine

/-! ### A fault that freezes a group (R396, R397) -/

section
variable (s : State) (c : Nat) (x : Trigger)

theorem raiseTrigger_thr : (raiseTrigger s c x).thr = s.thr := by simp only [raiseTrigger]; split_ifs <;> rfl
theorem raiseTrigger_wgs : (raiseTrigger s c x).wgs = s.wgs := by simp only [raiseTrigger]; split_ifs <;> rfl
theorem raiseTrigger_mem : (raiseTrigger s c x).mem = s.mem := by simp only [raiseTrigger]; split_ifs <;> rfl

end

/-- A tadpole is queued on its thread's CU, where the context has system code. -/
theorem queueSpawn_modCu {s : State} {t : Thread} (sysent : (s.ctx t.ctx).sysent ≠ 0) (tid : Nat) (fr : FaultRec)
    (sys nest ntc imp : Bool) (ocause : Nat) : ∃ g, queueSpawn s tid t fr sys nest ntc imp ocause = s.modCu t.cu g := by
  unfold queueSpawn
  simp only [sysent, decide_false, Bool.and_false, Bool.false_eq_true, if_false]
  exact ⟨_, rfl⟩

/-- A group as a fault of its own freezes it, with its record, at a resume PC. -/
def Thread.frozenBy (t : Thread) (x : Trap) (fr : FaultRec) (resume : Word64) : Thread :=
  { t with pc := resume, blk := if x.async then t.blk else none, wb := if x.async then t.wb else none,
           ops := if x.async then t.ops else [],
           fz := some { fr := fr, byFault := true, byBrum := (t.fz.map (·.byBrum)).getD false, hold := false, imp := x.imp,
                        tied := none } }

/-- What a fault of a group comes to that no tadpole steps and that does not kill the context: it freezes, a tadpole is queued, and the
faults that HALTM selects trigger brumation. -/
theorem takeFault_running {s : State} {tid : Nat} {t : Thread} {x : Trap} (resume : Word64) (ht : s.thread tid = some t)
    (group : t.kind = .group) (step : t.stepping = 0) (cause : x.cause ≠ cMISAL) :
    takeFault s tid x resume =
      let fr := faultRec s t x
      let q := queueSpawn (s.setThread tid (t.frozenBy x fr resume)) tid t fr (x.cause = cDIEL) false false x.imp 0
      let haltm := ((s.launchOf t).map (·.lr.haltm)).getD 0
      if x.cause = cBKPT || haltm.testBit x.cause then raiseTrigger q t.ctx (triggerOf q t fr) else q := by
  unfold takeFault
  simp only [ht]
  split
  next => rw [if_neg (not_not.2 step), if_neg (by simp [cause])]; rfl
  next k => rw [group] at k; cases k
  next k => rw [group] at k; cases k

/-- It changes no other thread, no workgroup and no memory. -/
theorem takeFault_group {s : State} {tid : Nat} {t : Thread} {x : Trap} (resume : Word64) (ht : s.thread tid = some t)
    (group : t.kind = .group) (step : t.stepping = 0) (cause : x.cause ≠ cMISAL) (sysent : (s.ctx t.ctx).sysent ≠ 0) :
    let u := takeFault s tid x resume
    u.thr = nset s.thr tid (t.frozenBy x (faultRec s t x) resume) ∧ u.wgs = s.wgs ∧ u.mem = s.mem := by
  obtain ⟨g, queued⟩ := queueSpawn_modCu (s := s.setThread tid (t.frozenBy x (faultRec s t x) resume)) sysent tid (faultRec s t x)
    (decide (x.cause = cDIEL)) false false x.imp 0
  simp only [takeFault_running resume ht group step cause, queued]
  split_ifs
  · exact ⟨raiseTrigger_thr .., raiseTrigger_wgs .., raiseTrigger_mem ..⟩
  · exact ⟨rfl, rfl, rfl⟩

/-! ### The blocks that a corrupt word feeds -/

theorem mem_fedBy {frags : List (List Nat)} {l : List Nat} {k i name : Nat} (half : Nat) (hk : frags[k]? = some l)
    (hi : l[i]? = some name) : 2 * i + half ∈ fedBy frags name half := by
  rw [fedBy, List.mem_eraseDups, List.mem_flatten]
  refine ⟨_, List.mem_map.2 ⟨l, List.mem_of_getElem? hk, rfl⟩, List.mem_filterMap.2 ⟨(name, i), ?_, by simp⟩⟩
  exact List.mem_zipIdx_iff_getElem?.2 hi

/-- The place of a word in a fragment list of `steps` lists of `n` registers: the register, and that it feeds the word's line. -/
theorem mem_fedBy_word {frags : List (List Nat)} {n steps line other : Nat} (len : ∀ l ∈ frags, l.length = n)
    (enough : steps ≤ frags.length) (pos : 0 < steps) (inside : line < 2 * n) :
    line ∈ fedBy frags ((((frags[other % steps]?).getD [])[line / 2]?).getD 0) (line % 2) := by
  have hk : other % steps < frags.length := lt_of_lt_of_le (Nat.mod_lt _ pos) enough
  have hi : line / 2 < frags[other % steps].length := by rw [len _ (List.getElem_mem hk)]; omega
  have fed := mem_fedBy (line % 2) (List.getElem?_eq_getElem hk) (List.getElem?_eq_getElem hi)
  rw [List.getElem?_eq_getElem hk, Option.getD_some, List.getElem?_eq_getElem hi, Option.getD_some]
  rwa [Nat.div_add_mod] at fed

theorem length_fragA (f : Fields) (mc : Nat) :
    (fragA 0x144 f mc).length = Forms.ex f 5 0 + 1 ∧ ∀ l ∈ fragA 0x144 f mc, l.length = 8 * 2 ^ mc := by
  simp [fragA, mloopKc, nameRun]

theorem length_fragB (f : Fields) (nf : Nat) :
    (fragB 0x144 f nf).length = Forms.ex f 5 0 + 1 ∧ ∀ l ∈ fragB 0x144 f nf, l.length = 8 * (nf + 1) := by
  simp [fragB, mloopKc, nameRun]

/-- The blocks of a tile. -/
def tileBlocks (x : Tile) : List (Nat × Nat) :=
  ((List.range (rowsOf x.mc / 16)).map fun i => (List.range (colsOf x.nf / 16)).map fun j => (i, j)).flatten

theorem mem_tileBlocks {x : Tile} {i j : Nat} (hi : i < rowsOf x.mc / 16) (hj : j < colsOf x.nf / 16) : (i, j) ∈ tileBlocks x := by
  simp [tileBlocks, hi, hj]

section
variable {o : MatOp} {x : Tile} {row col : Nat} (steps : o.frA.length ≤ Forms.ex o.f 5 0 + 1)
include steps

theorem mem_badBlocks_fragmentA (hrow : row < rowsOf x.mc) {j : Nat} (hj : j < colsOf x.nf / 16) :
    (row / 16, j) ∈ badBlocks o x .fragmentA row col := by
  obtain ⟨count, len⟩ := length_fragA o.f x.mc
  have inRow : row / 16 < rowsOf x.mc / 16 := by rw [rowsOf] at hrow ⊢; omega
  have fed := mem_fedBy_word (other := col) len (steps := max 1 o.frA.length) (by omega) (by omega)
    (by rw [rowsOf] at hrow; omega : row < _)
  refine List.mem_filter.2 ⟨mem_tileBlocks inRow hj, ?_⟩
  exact (Bool.or_eq_true_iff ..).2 (.inl (List.any_eq_true.2 ⟨row, fed, decide_eq_true rfl⟩))

theorem mem_badBlocks_fragmentB (hcol : col < colsOf x.nf) (registers : Forms.mo o.f 7 7 = 0) {i : Nat} (hi : i < rowsOf x.mc / 16) :
    (i, col / 16) ∈ badBlocks o x .fragmentB row col := by
  obtain ⟨count, len⟩ := length_fragB o.f x.nf
  have inCol : col / 16 < colsOf x.nf / 16 := by rw [colsOf] at hcol ⊢; omega
  have fed := mem_fedBy_word (other := row) len (steps := max 1 o.frA.length) (by omega) (by omega)
    (by rw [colsOf] at hcol; omega : col < _)
  have fromRegisters : (if Forms.mo o.f 7 7 = 1 then [] else fragB 0x144 o.f x.nf) = fragB 0x144 o.f x.nf :=
    if_neg (by rw [registers]; decide)
  rw [← fromRegisters] at fed
  refine List.mem_filter.2 ⟨mem_tileBlocks hi inCol, ?_⟩
  exact (Bool.or_eq_true_iff ..).2 (.inr (List.any_eq_true.2 ⟨col, fed, decide_eq_true rfl⟩))

end

/-! ### The fault of an engine (R102, R229) -/

/-- A group that has not exited takes the faults of the engines' operations that it issued. -/
theorem faultTaker_self {s : State} {tid : Nat} {t : Thread} (w : Nat) (ht : s.thread tid = some t) (here : t.place ≠ .exited) :
    faultTaker s w tid = some tid := by
  simp [faultTaker, ht, here]

theorem raiseEngine_running {s : State} {tid : Nat} {t : Thread} (w : Nat) (x : Trap) (ht : s.thread tid = some t)
    (active : t.place = .active) (runs : t.fz = none) :
    raiseEngine s w tid x = (takeFault s tid { x with imp := true, async := true } t.pc, some tid) := by
  rw [raiseEngine, faultTaker_self w ht (by rw [active]; decide)]
  simp [engineFault, ht, active, runs]

/-- A workgroup of one group has no other to hold with it. -/
theorem holdWith_alone {s : State} {w main : Nat} {g : Wg} (fr : FaultRec) (hg : s.wg w = some g) (alone : g.groups = [main]) :
    holdWith s w main fr = s := by
  simp [holdWith, hg, alone]

/-! ### MSTG (R229) -/

theorem matHead_of_first {o : MatOp} {rest : List MatOp} (h : ∀ q ∈ o :: rest, q.stepped = false) : matHead (o :: rest) = some o := by
  have free : matHeld (o :: rest) o = false := by
    rw [matHeld, List.any_eq_false]
    intro q hq
    simp [h q hq]
  simp [matHead, free]

/-- The fault that MSTG raises for an operation, of which the error has poisoned blocks. -/
def mstgTrap (o : MatOp) (site : StorageSite) (bad : List (Nat × Nat)) : Trap :=
  let first := (bad.head?).getD (0, 0)
  { cause := cMSTG, syn := BitVec.ofNat 64 (match site with | .tileStore => 1 | .fragmentA | .fragmentB => 2 | _ => 3), opd0 := o.handle,
    fpc := some o.pc, tilem := BitVec.ofNat 64 (16 * first.1), tilen := BitVec.ofNat 64 (16 * first.2), unit := some (funit 5 0) }

/-- The module when an error has set blocks of a tile to NaN and MSTAT.MERR. -/
def mstgPoisoned (s : State) (cu : Nat) (o : MatOp) (x : Tile) (bad : List (Nat × Nat)) : State :=
  ((s.modWg o.wg fun g => { g with tileMem := x.poison g.tileMem bad }).modMat cu o.id fun q => { q with nan := q.nan ++ bad }).modThread
    o.tid fun t => { t with mstat := t.mstat ||| BitVec.ofNat 64 mflagMERR }

theorem mstgPoisoned_thread {s : State} {o : MatOp} {t : Thread} (ht : s.thread o.tid = some t) (cu : Nat) (x : Tile)
    (bad : List (Nat × Nat)) :
    (mstgPoisoned s cu o x bad).thread o.tid = some { t with mstat := t.mstat ||| BitVec.ofNat 64 mflagMERR } := by
  rw [mstgPoisoned, State.thread_modThread, if_pos rfl]
  exact congrArg (Option.map _) ht

theorem mstgPoisoned_wg {s : State} {o : MatOp} {g : Wg} (hg : s.wg o.wg = some g) (cu : Nat) (x : Tile) (bad : List (Nat × Nat)) :
    (mstgPoisoned s cu o x bad).wg o.wg = some { g with tileMem := x.poison g.tileMem bad } :=
  (nget_nmod_self ..).trans (congrArg (Option.map _) hg)

section
variable {s : State} {cu row col : Nat} {site : StorageSite} {o : MatOp} {rest : List MatOp} {g : Wg} {x : Tile}
  (queue : (s.cu cu).mq = o :: rest) (free : ∀ q ∈ o :: rest, q.stepped = false) (hg : s.wg o.wg = some g) (tile : opTile g o = some x)
  (reads : readsSite o site = true) (hrow : row < rowsOf x.mc) (hcol : col < colsOf x.nf)
include queue free hg tile reads hrow hcol

theorem exec_mstg_corrected (corrected : site = .corrected) : exec (.mstg cu o.id site row col) s = .next (countError s .sram) := by
  rw [exec_mstg]
  unfold execMstg
  rw [queue, matHead_of_first free]
  subst corrected
  simp [hg, tile, reads, hrow.not_ge, hcol.not_ge]

theorem exec_mstg_raises (uncorrected : site ≠ .corrected) {u : State} {i : Nat} {t : Thread}
    (raised : raiseEngine (mstgPoisoned s cu o x (badBlocks o x site row col)) o.wg o.tid (mstgTrap o site (badBlocks o x site row col)) =
      (u, some i)) (ht : u.thread i = some t) :
    exec (.mstg cu o.id site row col) s = .next (holdWith u o.wg i
      (faultRec u t { mstgTrap o site (badBlocks o x site row col) with imp := true, async := true })) := by
  have enters : (decide (o.id ≠ o.id) || !readsSite o site || decide (rowsOf x.mc ≤ row) || decide (colsOf x.nf ≤ col)) = false := by
    simp [reads, hrow, hcol]
  rw [exec_mstg]
  unfold execMstg
  simp only [queue, matHead_of_first free, hg, Option.bind_some, tile, enters, Bool.false_eq_true, uncorrected, if_false]
  cases site
  case corrected => exact absurd rfl uncorrected
  all_goals
    simp only [mstgPoisoned, mstgTrap] at raised
    simp only [raised, Option.bind_some, ht, mstgTrap]

end

theorem tileStoreErrorFaults : Claims.TileStoreErrorFaults := by
  unfold Claims.TileStoreErrorFaults
  intro s cu row col site o rest g x t queue free hg tile reads hrow hcol bad first
  refine ⟨exec_mstg_corrected queue free hg tile reads hrow hcol, ?_, ?_, ?_,
    fun uncorrected ht group active runs step sysent alone => ?_⟩
  · rintro rfl; rfl
  · rintro rfl steps j hj
    exact mem_badBlocks_fragmentA steps hrow hj
  · rintro rfl steps i hi
    exact mem_badBlocks_fragmentB steps hcol (by simp [readsSite] at reads; exact reads.2) hi
  · let t1 : Thread := { t with mstat := t.mstat ||| BitVec.ofNat 64 mflagMERR }
    let s1 := mstgPoisoned s cu o x bad
    let trap : Trap := { mstgTrap o site bad with imp := true, async := true }
    have ht1 : s1.thread o.tid = some t1 := mstgPoisoned_thread ht cu x bad
    obtain ⟨thr, wgs, mem⟩ := takeFault_group (x := trap) t1.pc ht1 (by simpa [Thread.isGroup] using group) step
      (show cMSTG ≠ cMISAL by decide) sysent
    let u := takeFault s1 o.tid trap t1.pc
    have hu : u.thread o.tid = some (t1.frozenBy trap (faultRec s1 t1 trap) t1.pc) := by
      rw [State.thread, thr, nget_nset_self]
    have hw : u.wg o.wg = some { g with tileMem := x.poison g.tileMem bad } := by
      rw [State.wg, wgs]
      exact mstgPoisoned_wg hg cu x bad
    have ran := exec_mstg_raises queue free hg tile reads hrow hcol uncorrected (raiseEngine_running o.wg _ ht1 active runs) hu
    rw [holdWith_alone _ hw alone] at ran
    refine ⟨u, _, _, _, ran, hu, rfl, ?_, rfl, rfl, rfl, rfl, ?_, rfl, rfl, rfl, rfl, hw, rfl, ?_⟩
    · show (t.mstat ||| BitVec.ofNat 64 mflagMERR).getLsbD 6 = true
      simp [mflagMERR]
    · cases site <;> rfl
    · exact congrArg MemSys.dram mem

/-- Settles O37, claim by claim: MTALLOC by the first free run, MBATCH by the batches that leave, the tile's words by their bytes, and
MSTG by the fault that its group takes. -/
theorem tilesAndBatches : Obligations.TilesAndBatches :=
  ⟨tileAllocation, batchEndsOpenOperations, tileStoreThenRows, tileStoreErrorFaults⟩

end Sys2Proof.Machine
end

section
/-! Refutes O21: a state in which a group of one context stands in a workgroup of another one, which the loss of a tile kills. -/

namespace Sys2Proof.Machine

/-- A running group of context 1. -/
def strayGroup : Thread := { Thread.start .group 1 0 1 0 0 0 0 with hasWg := true, wg := 0, place := .active }

/-- Two contexts have touched memory tile 1. Context 1 has system code, and the group; context 2 has none, and a launch, whose workgroup
names that group as its own. CU 0 stands idle. -/
def strayState : State :=
  { State.reset with
    thr := [(0, strayGroup)], wgs := [(0, Wg.start 0 2 0 0 0 0 0 1 1 [0] LaunchRec.zero)],
    lch := [(0, Launch.start LaunchRec.zero 2 1 (.device 0) false 1)],
    ctxs := [(1, { Ctx.reset with sysent := 64, tdm := 2 }), (2, { Ctx.reset with tdm := 2 })],
    cus := [(0, { Cu.reset with en := true })] }

/-- Both contexts trap. That of context 1 freezes the group with DIEL; that of context 2, where no group is left and no system code, kills
the context and with its workgroup the group, which is frozen no more. -/
theorem loseTile_strayState_ends : ((loseTile strayState (memoryTile 0)).thread 0).bind (·.fz) = none := by decide +kernel

/-- Refutes O21: of a context without system code and without a group, DIEL kills the context, and with it a workgroup that names the
group of another context; the statement ties no workgroup's context to that of its groups. -/
theorem not_tilesAreLostAndReturn : ¬Obligations.TilesAreLostAndReturn := by
  unfold Obligations.TilesAreLostAndReturn
  intro h
  obtain ⟨memory, -⟩ := h strayState 0 (by decide) (by decide) (by decide)
  obtain ⟨⟨u, ran, -, traps, -⟩, -⟩ := memory rfl
  have lost : u = loseTile strayState (memoryTile 0) := by
    rw [exec_dieLoss, execDieLoss, if_neg (by decide)] at ran
    exact (Host.Outcome.next.inj ran).symm
  obtain ⟨t', ht', -, freezes, -⟩ := traps 0 strayGroup rfl rfl (by decide) (by decide) (.inl rfl)
  obtain ⟨z, frozen, -⟩ := freezes rfl rfl (by decide)
  have thawed := loseTile_strayState_ends
  rw [← lost, ht', Option.bind_some, frozen] at thawed
  cases thawed

end Sys2Proof.Machine
end

section
/-! Settles O16: the end of a launch, and the waves that find a work list quiescent. -/

namespace Sys2Proof.Machine

/-! ### The release of CUs that hold no dirty line (R95) -/

/-- Writing back CUs without a dirty line changes nothing and is done. -/
theorem flushCus_of_clean {s : State} {cus : List Nat} (clean : ∀ cu ∈ cus, dirtySectors s cu = []) : flushCus s cus = (s, true) := by
  induction cus with
  | nil => rfl
  | cons cu r ih =>
    obtain ⟨here, rest⟩ := List.forall_mem_cons.1 clean
    have step : flushCus s (cu :: r) = flushCus s r := by simp [flushCus, flushAll, here]
    rw [step, ih rest]

/-! ### What the end of a launch changes -/

theorem mem_of_nget {α : Type} {m : NMap α} {k : Nat} {v : α} (h : nget m k = some v) : (k, v) ∈ m := by
  induction m with
  | nil => cases h
  | cons p r ih =>
    obtain ⟨j, w⟩ := p
    by_cases key : j = k
    · subst key
      obtain rfl : w = v := by simpa [nget] using h
      exact List.mem_cons_self
    · exact List.mem_cons_of_mem _ (ih (by simpa [nget, key] using h))

/-- The count of a token is its low word. -/
theorem tokCnt_tokOf (fk fid cnt : Nat) : tokCnt (tokOf fk fid cnt) = cnt % 2 ^ 32 := by
  have low : (fk <<< 48 + fid <<< 32 + cnt % 2 ^ 32) % 2 ^ 64 % 2 ^ 32 = cnt % 2 ^ 32 := by
    simp only [Nat.shiftLeft_eq]
    omega
  simpa only [tokCnt, tokOf, bits, BitVec.extractLsb'_toNat, BitVec.toNat_ofNat, Nat.shiftRight_zero] using low

@[simp] theorem State.token_setToken_self (s : State) (key i : Nat) (t : Word64) : (s.setToken key i t).token key i = t := by
  simp [State.token, State.setToken, State.part_modPart, ngetD_nset]

theorem tokCnt_signalToken (s : State) (key i : Nat) (prods : List (Option Nat)) :
    tokCnt ((signalToken s key i prods).token key i) = (tokCnt (s.token key i) + 1) % 2 ^ 32 := by
  simp only [signalToken, State.token_setToken_self, tokCnt_tokOf]

/-- The token that a launch signals as it ends. -/
def signalledBy (s : State) (l : Launch) : State :=
  if l.lr.sigtk ≠ 0 then signalToken s (s.ctx l.ctx).key (tokIdx l.lr.sigtk) (l.ranOn.map some) else s

/-- Signalling a token changes the partition's tokens alone. -/
theorem signalledBy_eq (s : State) (l : Launch) : signalledBy s l = { s with parts := (signalledBy s l).parts } := by
  unfold signalledBy
  split_ifs <;> rfl

/-- A launch has ended: its token is signalled, its work-list objects and the launch itself are gone. -/
def launchEnded (s : State) (lid : Nat) (l : Launch) : State :=
  let s := (signalledBy s l).modCtx l.ctx fun k => { k with objs := k.objs.filter fun p => p.2.launch ≠ lid }
  { s with lch := nerase s.lch lid }

section
variable {s : State} {lid : Nat} {l : Launch} (hl : nget s.lch lid = some l)
include hl

theorem exec_launchComplete_ends {q seq : Nat} (source : l.src = .queue q seq) (dispatched : l.clusters ≤ l.next) (idle : l.live = 0)
    (alive : l.killed = false) (clean : ∀ cu ∈ l.ranOn, dirtySectors s cu = []) :
    exec (.launchComplete lid) s = .next (setStatus (launchEnded s lid l) l.ctx q seq 1) := by
  have flushed : flushCus s (l.ranOn.filter fun cu => (s.cu cu).ctx = some l.ctx) = (s, true) :=
    flushCus_of_clean fun cu hcu => clean cu (List.mem_filter.1 hcu).1
  rw [exec_launchComplete, execLaunchComplete, hl]
  simp only [dispatched.not_gt, idle, decide_false, ne_eq, not_true_eq_false, Bool.or_self, Bool.false_eq_true, if_false, flushed,
    Bool.not_true, alive, source, reportLaunch]
  rfl

theorem exec_launchComplete_goesOn (runs : l.next < l.clusters ∨ l.live ≠ 0) : exec (.launchComplete lid) s = .next s := by
  rw [exec_launchComplete, execLaunchComplete, hl]
  simp [runs]

end

theorem State.token_setStatus (s : State) (c q seq st key i : Nat) : (setStatus s c q seq st).token key i = s.token key i := rfl

theorem State.token_launchEnded (s : State) (lid : Nat) (l : Launch) (key i : Nat) :
    (launchEnded s lid l).token key i = (signalledBy s l).token key i := rfl

/-- The context of a launch that has ended. -/
theorem State.ctx_launchEnded (s : State) (lid : Nat) (l : Launch) :
    (launchEnded s lid l).ctx l.ctx = { s.ctx l.ctx with objs := (s.ctx l.ctx).objs.filter fun p => p.2.launch ≠ lid } := by
  have same : (signalledBy s l).ctx l.ctx = s.ctx l.ctx := by rw [signalledBy_eq]; rfl
  rw [← same]
  exact ((signalledBy s l).ctx_modCtx l.ctx (fun k => { k with objs := k.objs.filter fun p => p.2.launch ≠ lid }) l.ctx).trans
    (if_pos rfl)

theorem launchEnded_lch (s : State) (lid : Nat) (l : Launch) : (launchEnded s lid l).lch = nerase s.lch lid := by
  rw [launchEnded, signalledBy_eq]
  rfl

theorem launchEnded_thr (s : State) (lid : Nat) (l : Launch) : (launchEnded s lid l).thr = s.thr := by
  rw [launchEnded, signalledBy_eq]
  rfl

theorem launchEnded_mem (s : State) (lid : Nat) (l : Launch) : (launchEnded s lid l).mem = s.mem := by
  rw [launchEnded, signalledBy_eq]
  rfl

theorem State.objs_setStatus (s : State) (c q seq st : Nat) : ((setStatus s c q seq st).ctx c).objs = (s.ctx c).objs := by
  rw [setStatus, State.modQueue, State.ctx_modCtx, if_pos rfl]

/-! ### TERMINATION_WAVES (R394) -/

section
variable {s : State} {c n : Nat} {o : WorkObj} (ho : nget (s.ctx c).objs n = some o) (open' : o.done = false)
  (runs : s.halting c = false)
include ho open' runs

theorem exec_terminationWaves_active (active : quiescent s c n o = false) :
    exec (.terminationWaves c n) s = .next (s.setObj c n { o with waves := 0 }) := by
  rw [exec_terminationWaves, execTerminationWaves, ho]
  simp [open', runs, active]

theorem exec_terminationWaves_quiescent (quiet : quiescent s c n o = true) :
    exec (.terminationWaves c n) s = .next (s.setObj c n
      (if o.waves = 1 ∧ o.snap = o.ops then { o with done := true } else { o with waves := 1, snap := o.ops })) := by
  rw [exec_terminationWaves, execTerminationWaves, ho]
  by_cases second : o.waves = 1 ∧ o.snap = o.ops
  · simp [open', runs, quiet, second]
  · have first : (decide (o.waves = 1) && decide (o.snap = o.ops)) = false := by simpa using second
    simp [open', runs, quiet, second, first]

end

/-- Settles O16: LAUNCH_COMPLETE by the state `launchEnded` and the entry's status, TERMINATION_WAVES by what a wave finds. -/
theorem launchesComplete : Obligations.LaunchesComplete := by
  unfold Obligations.LaunchesComplete
  intro s lid q seq l hl source
  refine ⟨fun dispatched idle alive clean =>
      ⟨_, exec_launchComplete_ends hl source dispatched idle alive clean, ?_, ?_, ?_, ?_, ?_, ?_, ?_⟩,
    exec_launchComplete_goesOn hl, fun c n o ho open' runs => ⟨exec_terminationWaves_active ho open' runs, ?_, ?_⟩⟩
  · show nget (launchEnded s lid l).lch lid = none
    rw [launchEnded_lch, nget_nerase, if_pos rfl]
  · rw [setStatus, State.queue_modQueue_self, State.ctx_launchEnded]
    rfl
  · intro n o ho
    rw [State.objs_setStatus, State.ctx_launchEnded] at ho
    simpa using (List.mem_filter.1 (mem_of_nget ho)).2
  · intro signals
    rw [State.token_setStatus, State.token_launchEnded, signalledBy, if_pos signals, tokCnt_signalToken]
  · intro k other
    show nget (launchEnded s lid l).lch k = nget s.lch k
    rw [launchEnded_lch, nget_nerase, if_neg other]
  · exact launchEnded_thr s lid l
  · exact launchEnded_mem s lid l
  · intro quiet second unchanged
    rw [exec_terminationWaves_quiescent ho open' runs quiet, if_pos ⟨second, unchanged⟩]
  · intro quiet first
    rw [exec_terminationWaves_quiescent ho open' runs quiet, if_neg (by simp [first])]

end Sys2Proof.Machine
end

section
/-! For O40: an access of one lane to the scratchpad, alone in its group's log, is performed and completes. -/

namespace Sys2Proof.Machine

/-! ### Monitors that fire (R254) -/

/-- A thread whose armed monitors that a predicate picks have fired. -/
def Thread.fired (t : Thread) (p : Monitor → Bool) : Thread :=
  if t.mons.any fun q => q.2.armed && p q.2 then
    { t with mons := nmap t.mons fun _ m => if m.armed && p m then { m with fired := true } else m }
  else t

/-- Firing changes a thread's monitors alone. -/
theorem Thread.fired_eq (t : Thread) (p : Monitor → Bool) : ∃ m, t.fired p = { t with mons := m } := by
  unfold Thread.fired
  split_ifs
  · exact ⟨_, rfl⟩
  · exact ⟨t.mons, rfl⟩

theorem State.thread_fireIf (s : State) (p : Monitor → Bool) (j : Nat) : (fireIf s p).thread j = (s.thread j).map (·.fired p) :=
  nget_nmap s.thr (fun _ t => t.fired p) j

theorem thread_fireScratch {s : State} {tid : Nat} {t : Thread} (ht : s.thread tid = some t) (w off n : Nat) :
    ∃ m, (fireScratch s w off n).thread tid = some { t with mons := m } := by
  rw [fireScratch, State.thread_fireIf, ht, Option.map_some]
  obtain ⟨m, fired⟩ := t.fired_eq _
  exact ⟨m, congrArg some fired⟩

/-! ### Plain loads and stores -/

/-- LD and ST, which no order of their own holds back. -/
def LogEntry.plain (e : LogEntry) : Prop := e.opc = 0x180 ∨ e.opc = 0x181

section
variable {e : LogEntry} (plain : e.plain)
include plain

theorem isFence_of_plain : isFence e = false := by rcases plain with h | h <;> simp [isFence, h]
theorem isRelease_of_plain : isRelease e = false := by rcases plain with h | h <;> simp [isRelease, isFence, isAtomic, h]
theorem isAcquire_of_plain : isAcquire e = false := by rcases plain with h | h <;> simp [isAcquire, isFence, isAtomic, h]

end

/-- The entry with a lane performed, and its result. -/
def LogEntry.withLane (e : LogEntry) (l : Nat) (res : Option Nat) : LogEntry :=
  { e with done := e.done ||| (if e.once then e.effm else BitVec.ofNat 32 (2 ^ l)),
           res := res.elim e.res fun x => nset e.res l (BitVec.ofNat 512 x) }

/-- A thread without a plain access of its log, which no longer counts. -/
def Thread.dropEntry (t : Thread) (e : LogEntry) : Thread :=
  Thread.countDown
    { t with log := t.log.filter fun x => x.id ≠ e.id,
             fpstat := if e.wo then raiseFlags t.fpctl t.fpstat (flagWO + flagOF) else t.fpstat }
    (if e.opc = 0x181 then 1 else 0)

/-! ### An entry alone in its group's log -/

section
variable {t : Thread} {e : LogEntry} (log : t.log = [e])
include log

theorem Thread.entry_alone : t.entry e.id = some e := by simp [Thread.entry, log]

theorem mayPerform_alone : mayPerform t e = true := by simp [mayPerform, Thread.before, log]

theorem Thread.modEntry_alone (g : LogEntry → LogEntry) : t.modEntry e.id g = { t with log := [g e] } := by
  simp [Thread.modEntry, log]

end

theorem State.entry_of_thread {s : State} {tid : Nat} {t : Thread} (ht : s.thread tid = some t) (eid : Nat) :
    s.entry tid eid = t.entry eid := by simp [State.entry, ht]

/-- The lanes still to be performed of an entry that has none done and none failed. -/
theorem LogEntry.todo_fresh {e : LogEntry} (done : e.done = 0) (flt : e.flt = 0) : e.todo = e.lanes := by
  simp [LogEntry.todo, done, flt]

theorem laneTurn_of_todo {e : LogEntry} {l : Nat} (todo : e.todo = [l]) : laneTurn e l = true := by simp [laneTurn, todo]

section
variable {s : State} {tid : Nat} {t : Thread} {e : LogEntry} (ht : s.thread tid = some t) (log : t.log = [e])
include ht log

/-- An entry with one lane to perform, which passes its checks, is performed by performing that lane. -/
theorem performLanes_alone {l : Nat} (todo : e.todo = [l]) {w : Where} (checks : checkAll s t e l = (s, .ok w)) {u : State}
    (performs : performLane s tid t e l w = (u, none)) : performLanes s tid e.id = u := by
  have entry : s.entry tid e.id = some e := (State.entry_of_thread ht _).trans (Thread.entry_alone log)
  simp [performLanes, entry, todo, ht, laneTurn_of_todo todo, checks, performs]

/-- A plain access completes once its lanes are performed. -/
theorem advance_alone (plain : e.plain) (state : e.state = 0) {u : State} (performed : performLanes s tid e.id = u) {e' : LogEntry}
    (entry : u.entry tid e.id = some e') (plain' : e'.plain) (finished : e'.finished = true) :
    advance s tid e.id = completeEntry u tid e.id := by
  simp [advance, ht, Thread.entry_alone log, mayPerform_alone log, state, isRelease_of_plain plain, isFence_of_plain plain, performed,
    entry, isFence_of_plain plain', isAcquire_of_plain plain', finished]

/-- The lane is marked performed, with its result, of bytes without an overflow mark. -/
theorem thread_laneDone_alone (l : Nat) (res : Option Nat) :
    (laneDone s tid e.id l res false).thread tid = some { t with log := [e.withLane l res] } := by
  rw [laneDone, State.modEntry, State.thread_modThread, if_pos rfl, ht, Option.map_some, Thread.modEntry_alone log, LogEntry.withLane]
  cases res <;> simp only [Bool.false_and, Bool.or_false] <;> rfl

/-- A plain access to the scratchpad completes: its results are written, and its entry and its count go. -/
theorem completeEntry_alone (plain : e.plain) (space : accAs e.f = 1) : completeEntry s tid e.id =
    (writeResults s tid e (if e.once then e.effm else e.done ||| e.flt)).modThread tid (·.dropEntry e) := by
  have entry : s.entry tid e.id = some e := (State.entry_of_thread ht _).trans (Thread.entry_alone log)
  unfold completeEntry
  rcases plain with opc | opc <;>
    simp only [entry, space, opc, counterOf, OfNat.one_ne_ofNat, decide_false, Bool.and_false, Bool.false_eq_true, if_false] <;>
    simp only [Thread.dropEntry, opc] <;> rfl

end

/-! ### Scratch bytes (R75) -/

section
variable {s : State} {w off n : Nat} {g : Wg} (hg : s.wg w = some g) (free : scratchHeld s w off n = false)
include hg free

theorem onScratch_store (en : Nat → Bool) (d : List Byte) :
    onScratch s w off n (.store en d) =
      (fireScratch (s.modWg w fun g' => { g' with scratch := Memory.setEnabled g.scratch off en d }) w off n,
        some ⟨[], false, false⟩) := by
  simp [onScratch, hg, free, memApply, MemOp.changes]

theorem onScratch_load :
    onScratch s w off n .load =
      (s.modWg w fun g' => { g' with scratch := g.scratch }, some ⟨Memory.bytes g.scratch off n, false, false⟩) := by
  simp [onScratch, hg, free, memApply, MemOp.changes]

end

/-- Bytes written where every byte is enabled. -/
theorem Memory.setEnabled_all (m : Memory) (a : Nat) (d : List Byte) (i : Nat) :
    Memory.setEnabled m a (fun _ => true) d i = Memory.setBytes m (a + i) d := by
  induction d generalizing m i with
  | nil => rfl
  | cons b r ih => rw [Memory.setEnabled, Memory.setBytes, ih, if_pos rfl, Nat.add_assoc]

/-! ### One lane in the scratchpad (R85, R240) -/

/-- An access of at most 16 bytes is made as one part. -/
theorem localParts_small (a : Nat) {n : Nat} (small : n ≤ 16) : localParts a n = [(a, n)] := by
  have size : n ≠ 64 := by omega
  simp [localParts, size, accParts, small]

section
variable {s : State} {tid : Nat} {t : Thread} {e : LogEntry} {l : Nat}

/-- A lane of at most 16 bytes goes to the scratchpad as one part. -/
theorem checkAll_scratch (space : accAs e.f = 1) (small : e.bytes ≤ 16) (checks : check12 s t e.opc e.f (e.addr l) = none) :
    checkAll s t e l = (s, .ok (.here [(.scratch t.wg (e.addr l).toNat, e.bytes)])) := by
  simp [checkAll, checks, checkLane, space, localParts_small _ small]

/-- Performing a plain lane at its one place in the scratchpad. -/
theorem performLane_scratch (plain : e.plain) (whole : hasBe e.opc e.f = false) {w off n : Nat} {u : State} {d : List Byte}
    (bytes : onScratch s w off n (e.op l 0 n) = (u, some ⟨d, false, false⟩)) :
    performLane s tid t e l (.here [(.scratch w off, n)]) =
      (laneDone u tid e.id l (if isStore e.opc then none else some (leNat d)) false, none) := by
  have parts : performParts s tid t e l (accScope e.f) [(.scratch w off, n)] = (u, some ⟨d, false, false⟩) := by
    simp [performParts, perform, bytes]
  have enabled : noBytes e l = false := by simp [noBytes, whole]
  rcases plain with opc | opc <;> simp [performLane, recheck, enabled, opc, performLane.ordinary, parts]

end

end Sys2Proof.Machine
end

section
/-! For O40: ACCESS_COMPLETION of a store to the scratchpad and of a load from there. -/

namespace Sys2Proof.Machine

/-! ### A lane's bit in a mask -/

theorem getLsbD_laneBit {l k : Nat} (h : k < 32) : (BitVec.ofNat 32 (2 ^ l)).getLsbD k = decide (l = k) := by
  rw [BitVec.getLsbD_ofNat, Nat.testBit_two_pow, decide_eq_true h, Bool.true_and]

/-! ### ACCESS_COMPLETION of a lane alone (R100, R238, R240) -/

section
variable {s : State} {tid : Nat} {t : Thread} {e : LogEntry} {l : Nat} (ht : s.thread tid = some t) (log : t.log = [e])
  (plain : e.plain) (lanes : e.lanes = [l]) (inLanes : l < 32) (once : e.once = false) (done : e.done = 0)

theorem LogEntry.withLane_plain {e : LogEntry} (plain : e.plain) (l : Nat) (res : Option Nat) : (e.withLane l res).plain := plain

include once done in
theorem LogEntry.done_withLane (res : Option Nat) : (e.withLane l res).done = BitVec.ofNat 32 (2 ^ l) := by
  rw [LogEntry.withLane, once, done, if_neg Bool.false_ne_true]
  exact BitVec.zero_or

include lanes inLanes once done in
theorem LogEntry.finished_withLane (res : Option Nat) : (e.withLane l res).finished = true := by
  have same : (e.withLane l res).lanes = [l] := lanes
  rw [LogEntry.finished, same, LogEntry.done_withLane once done, List.all_cons, getLsbD_laneBit inLanes, decide_eq_true rfl]
  rfl

include ht log plain lanes inLanes once done

/-- A plain lane in the scratchpad, its bytes read or written as `bytes` says, completes its entry: `u` is the state with the bytes. -/
theorem exec_accessCompletion_scratch (state : e.state = 0) (flt : e.flt = 0) (space : accAs e.f = 1) (small : e.bytes ≤ 16)
    (whole : hasBe e.opc e.f = false) (checks : check12 s t e.opc e.f (e.addr l) = none) {u : State} {d : List Byte}
    (bytes : onScratch s t.wg (e.addr l).toNat e.bytes (e.op l 0 e.bytes) = (u, some ⟨d, false, false⟩)) {t1 : Thread}
    (ht1 : u.thread tid = some t1) (log1 : t1.log = [e]) {res : Option Nat}
    (result : (if isStore e.opc then none else some (leNat d)) = res) :
    exec (.accessCompletion tid e.id) s = .next
      ((writeResults (laneDone u tid e.id l res false) tid (e.withLane l res) (BitVec.ofNat 32 (2 ^ l))).modThread tid
        (·.dropEntry (e.withLane l res))) := by
  have performed := performLanes_alone ht log ((LogEntry.todo_fresh done flt).trans lanes) (checkAll_scratch space small checks)
    (performLane_scratch plain whole bytes)
  rw [result] at performed
  have there := thread_laneDone_alone ht1 log1 l res
  have entry : (laneDone u tid e.id l res false).entry tid e.id = some (e.withLane l res) :=
    (State.entry_of_thread there _).trans (Thread.entry_alone (e := e.withLane l res) rfl)
  have mask : (e.withLane l res).done ||| (e.withLane l res).flt = BitVec.ofNat 32 (2 ^ l) := by
    rw [LogEntry.done_withLane once done, show (e.withLane l res).flt = 0 from flt]
    exact BitVec.or_zero
  have completed := completeEntry_alone there (e := e.withLane l res) rfl (LogEntry.withLane_plain plain l res) space
  rw [mask, show (e.withLane l res).once = false from once] at completed
  rw [exec_accessCompletion, execAccessCompletion, advance_alone ht log plain state performed entry (LogEntry.withLane_plain plain l res)
    (LogEntry.finished_withLane lanes inLanes once done res)]
  exact congrArg Host.Outcome.next completed

end

/-! ### A store to the scratchpad -/

theorem LogEntry.op_store {e : LogEntry} (opc : e.opc = 0x181) (whole : hasBe e.opc e.f = false) (l n : Nat) :
    e.op l 0 n = .store (fun _ => true) (e.opD.bytes l n) := by
  simp [LogEntry.op, whole]
  simp [opc, isAtomic, isStore]

theorem getElem?_opVal_bytes (v : OpVal) (l : Nat) {n i : Nat} (h : i < n) :
    (v.bytes l n)[i]? = some (BitVec.ofNat 8 ((v.lane (i / 4) l).toNat >>> (8 * (i % 4)))) := by
  simp [OpVal.bytes, h]

/-! ### What the completion leaves of the thread -/

section
variable (t : Thread) (e : LogEntry)

theorem Thread.dropEntry_pc : (t.dropEntry e).pc = t.pc := by unfold Thread.dropEntry Thread.countDown; split <;> rfl
theorem Thread.dropEntry_vmap : (t.dropEntry e).vmap = t.vmap := by unfold Thread.dropEntry Thread.countDown; split <;> rfl
theorem Thread.dropEntry_sreg : (t.dropEntry e).sreg = t.sreg := by unfold Thread.dropEntry Thread.countDown; split <;> rfl

theorem Thread.dropEntry_log_alone {t : Thread} {e : LogEntry} (log : t.log = [e]) : (t.dropEntry e).log = [] := by
  have kept : (t.dropEntry e).log = t.log.filter fun x => x.id ≠ e.id := by unfold Thread.dropEntry Thread.countDown; split <;> rfl
  simp [kept, log]

theorem Thread.dropEntry_store {e : LogEntry} (opc : e.opc = 0x181) : (t.dropEntry e).cS = t.cS - 1 ∧ (t.dropEntry e).cL = t.cL := by
  rw [Thread.dropEntry, if_pos opc]
  exact ⟨rfl, rfl⟩

theorem Thread.dropEntry_load {e : LogEntry} (opc : e.opc = 0x180) : (t.dropEntry e).cL = t.cL - 1 ∧ (t.dropEntry e).cS = t.cS := by
  have other : e.opc ≠ 0x181 := by rw [opc]; decide
  rw [Thread.dropEntry, if_neg other]
  exact ⟨rfl, rfl⟩

end

theorem writeResults_none (s : State) (tid : Nat) {e : LogEntry} (dest : e.dest = .none) (mask : Mask) :
    writeResults s tid e mask = s := by simp only [writeResults, dest]

theorem scratchStoreCompletes : Claims.ScratchStoreCompletes := by
  unfold Claims.ScratchStoreCompletes
  intro s tid t g e l ht log opc space lanes inLanes _ whole once state flt done dest small hg _ checks free a
  let stored : Wg := { g with scratch := Memory.setBytes g.scratch a (e.opD.bytes l e.bytes) }
  have bytes := onScratch_store hg free (fun _ => true) (e.opD.bytes l e.bytes)
  rw [← LogEntry.op_store opc whole l e.bytes, Memory.setEnabled_all, Nat.add_zero] at bytes
  obtain ⟨mons, ht1⟩ := thread_fireScratch (s := s.modWg t.wg fun g' => { g' with scratch := stored.scratch }) ht t.wg a e.bytes
  have ran := exec_accessCompletion_scratch ht log (.inr opc) lanes inLanes once done state flt space small whole checks bytes ht1 log
    (res := none) (if_pos (by simp [isStore, opc]))
  rw [writeResults_none _ _ (e := e.withLane l none) dest] at ran
  let t1 : Thread := { t with mons := mons, log := [e.withLane l none] }
  obtain ⟨cS, cL⟩ := t1.dropEntry_store (e := e.withLane l none) opc
  have hg' : (s.modWg t.wg fun g' => { g' with scratch := stored.scratch }).wg t.wg = some stored := by
    rw [State.wg_modWg, if_pos rfl, hg]
    rfl
  refine ⟨_, t1.dropEntry (e.withLane l none), stored, ran, ?_, Thread.dropEntry_log_alone rfl, cS, cL,
    t1.dropEntry_pc _, t1.dropEntry_vmap _, t1.dropEntry_sreg _, hg', fun i hi => ?_, fun b outside => ?_, rfl⟩
  · rw [State.thread_modThread, if_pos rfl, thread_laneDone_alone ht1 log]
    rfl
  · exact byte_setBytes_of_getElem? _ _ (getElem?_opVal_bytes e.opD l hi)
  · have length : (e.opD.bytes l e.bytes).length = e.bytes := by simp [OpVal.bytes]
    rw [Memory.byte_setBytes, length, if_neg (by omega)]

/-! ### A load from the scratchpad -/

theorem LogEntry.op_load {e : LogEntry} (opc : e.opc = 0x180) (l off n : Nat) : e.op l off n = .load := by
  simp [LogEntry.op, opc, isAtomic, isStore]

/-- The result of a loaded lane of one register, zero-extended. -/
theorem LogEntry.part_withLane {e : LogEntry} (flt : e.flt = 0) (unsigned : Forms.mo e.f 6 6 = 0) (l x : Nat) :
    (e.withLane l (some x)).part l 0 = BitVec.ofNat 32 x := by
  have value : ∀ v, extended (e.withLane l (some x)) v = v := fun v => by simp [extended, LogEntry.withLane, unsigned]
  have clean : (e.withLane l (some x)).flt = 0 := flt
  have res : ngetD (e.withLane l (some x)).res l 0 = BitVec.ofNat 512 x := (ngetD_nset ..).trans (if_pos rfl)
  rw [LogEntry.part, clean, value, res, if_neg (by simp), Nat.mul_zero, Nat.shiftRight_zero]
  rw [BitVec.ofNat_toNat, BitVec.setWidth_ofNat_of_le (by decide)]

/-- The results of an entry with one destination register, whose name still maps it. -/
theorem writeResults_one {s : State} {tid : Nat} {t : Thread} {e : LogEntry} {n : Nat} {p : PReg} (ht : s.thread tid = some t)
    (dest : e.dest = .vector [(n, p.id)]) (maps : nget t.vmap n = some p) (alive : t.deadm = 0) (mask : Mask) :
    writeResults s tid e mask = s.setThread tid { t with
      vmap := nset t.vmap n { p with val := mkLanes fun l => if mask.getLsbD l then e.part l 0 else t.vlane n l } } := by
  simp [writeResults, dest, State.modThread_of_thread ht, List.range_succ, maps, alive]

theorem scratchLoadCompletes : Claims.ScratchLoadCompletes := by
  unfold Claims.ScratchLoadCompletes
  intro s tid t g e l n p ht log opc space lanes inLanes _ once state flt done res small unsigned dest maps alive _ hg checks free
  let x := leNat (Memory.bytes g.scratch (e.addr l).toNat e.bytes)
  have bytes := onScratch_load hg free
  rw [← LogEntry.op_load opc l 0 e.bytes] at bytes
  have ran := exec_accessCompletion_scratch ht log (.inl opc) lanes inLanes once done state flt space (by omega)
    (by simp [hasBe, opc]) checks bytes ht log (res := some x) (if_neg (by simp [isStore, opc]))
  let e' := e.withLane l (some x)
  let u := laneDone (s.modWg t.wg fun g' => { g' with scratch := g.scratch }) tid e.id l (some x) false
  have there : u.thread tid = some { t with log := [e'] } := thread_laneDone_alone ht log l (some x)
  let p' : PReg := { p with val := mkLanes fun k => if (BitVec.ofNat 32 (2 ^ l)).getLsbD k then e'.part k 0 else t.vlane n k }
  let t1 : Thread := { t with log := [e'], vmap := nset t.vmap n p' }
  have wrote : writeResults u tid e' (BitVec.ofNat 32 (2 ^ l)) = u.setThread tid t1 := writeResults_one there (e := e') dest maps alive _
  rw [wrote] at ran
  obtain ⟨cL, cS⟩ := t1.dropEntry_load (e := e') opc
  have lane : ∀ m k, k < 32 → (t1.dropEntry e').vlane m k =
      if m = n ∧ l = k then BitVec.ofNat 32 x else t.vlane m k := by
    intro m k hk
    rw [Thread.vlane, Thread.dropEntry_vmap, nget_nset]
    by_cases named : m = n
    · rw [if_pos named, Option.bind_some, mkLanes_get _ _ hk, getLsbD_laneBit hk, Option.getD_some, named]
      by_cases here : l = k
      · subst here
        simp [e', LogEntry.part_withLane flt unsigned]
      · simp [here]
    · simp [named, Thread.vlane]
  have hg' : (s.modWg t.wg fun g' => { g' with scratch := g.scratch }).wg t.wg = some g := by
    rw [State.wg_modWg, if_pos rfl, hg]
    rfl
  refine ⟨_, t1.dropEntry e', ran, ?_, Thread.dropEntry_log_alone rfl, cL, cS, t1.dropEntry_pc _, ?_, ?_, hg', rfl⟩
  · rw [State.thread_modThread, if_pos rfl, State.thread_setThread, if_pos rfl]
    rfl
  · rw [lane n l inLanes, if_pos ⟨rfl, rfl⟩]
  · intro m k hk other
    rw [lane m k hk, if_neg (by rintro ⟨rfl, rfl⟩; exact other.elim (absurd rfl) (absurd rfl))]

end Sys2Proof.Machine
end

section
/-! For O40: an access whose address does not translate fails, and its group freezes. -/

namespace Sys2Proof.Machine

/-! ### Masks given lane by lane -/

/-- The numbers below `n` that a predicate picks, as bits. -/
theorem testBit_sum_bits (p : Nat → Bool) (n k : Nat) :
    ((List.range n).foldl (fun acc l => if p l then acc + 2 ^ l else acc) 0).testBit k = (decide (k < n) && p k) ∧
      (List.range n).foldl (fun acc l => if p l then acc + 2 ^ l else acc) 0 < 2 ^ n := by
  induction n with
  | zero => simp
  | succ n ih =>
    obtain ⟨bit, below⟩ := ih
    rw [List.range_succ, List.foldl_append, List.foldl_cons, List.foldl_nil, Nat.pow_succ]
    by_cases pn : p n
    · rw [if_pos pn, Nat.add_comm]
      refine ⟨?_, by omega⟩
      rcases Nat.lt_trichotomy k n with lt | rfl | gt
      · rw [Nat.testBit_two_pow_add_gt lt, bit]
        simp [lt, Nat.lt_succ_of_lt lt]
      · rw [Nat.testBit_two_pow_add_eq, bit]
        simp [pn]
      · rw [Nat.testBit_lt_two_pow (lt_of_lt_of_le (by omega : _ < 2 ^ (n + 1)) (Nat.pow_le_pow_right (by decide) gt))]
        simp [Nat.not_lt.2 gt]
    · rw [if_neg pn]
      refine ⟨?_, by omega⟩
      rw [bit]
      by_cases here : k = n
      · simp [here, pn]
      · simp [show (k < n + 1) = (k < n) by rw [eq_iff_iff]; omega]

theorem getLsbD_laneMask (p : Nat → Bool) {k : Nat} (h : k < 32) : (laneMask p).getLsbD k = p k := by
  rw [laneMask, BitVec.getLsbD_ofNat, (testBit_sum_bits p 32 k).1]
  simp [h]

/-- The mask of one lane. -/
theorem laneMask_one (l : Nat) : (laneMask fun i => decide (l = i)) = BitVec.ofNat 32 (2 ^ l) := by
  refine BitVec.eq_of_getLsbD_eq fun k hk => ?_
  rw [getLsbD_laneMask _ hk, getLsbD_laneBit hk]

theorem lowestLane_laneBit : ∀ l < 32, lowestLane (BitVec.ofNat 32 (2 ^ l)) = l := by decide

/-! ### What a request for tokens changes (R292) -/

/-- `u` is `s` with messages under way and requests noted; the pool's bytes stay. -/
structure Asked (s u : State) : Prop where
  rest : u = { s with env := { s.env with nextId := u.env.nextId }, mem := u.mem }
  dram : u.mem.dram = s.mem.dram

theorem Asked.refl (s : State) : Asked s s := ⟨rfl, rfl⟩

theorem Asked.trans {s u v : State} (h : Asked s u) (k : Asked u v) : Asked s v where
  rest := by
    have both := k.rest
    rw [h.rest] at both
    exact both
  dram := k.dram.trans h.dram

/-- Steps that each ask for no more than tokens. -/
theorem Asked.foldl {α : Type} {g : State → α → State} (step : ∀ s a, Asked s (g s a)) (l : List α) (s : State) :
    Asked s (l.foldl g s) := by
  induction l generalizing s with
  | nil => exact Asked.refl s
  | cons a r ih => exact (step s a).trans (ih _)

theorem Asked.modMem (s : State) {g : MemSys → MemSys} (bytes : (g s.mem).dram = s.mem.dram) : Asked s (s.modMem g) := ⟨rfl, bytes⟩

theorem asked_send (s : State) (m : Msg) : Asked s (send s m) := ⟨rfl, rfl⟩

theorem asked_sendRequest (s : State) (a sec : Nat) (wr t64 : Bool) (att : Nat) (l : List Nat) :
    Asked s (sendRequest s a sec wr t64 att l) := by
  unfold sendRequest
  exact (asked_send s _).trans (Asked.foldl (fun s _ => asked_send s _) l _)

theorem asked_need (s : State) (a sec : Nat) (wr t64 : Bool) (eng : Option Nat) : Asked s (need s a sec wr t64 eng) := by
  unfold need
  by_cases settled : ((if wr then s.canWrite a sec else s.canRead a sec) || (nget s.mem.trans (l2key a sec)).isSome) = true
  · rw [if_pos settled]
    exact Asked.refl s
  · rw [if_neg settled]
    have named : Asked s s.fresh.2 := ⟨rfl, rfl⟩
    exact (named.trans (Asked.modMem _ rfl)).trans (asked_sendRequest ..)

theorem asked_l2Fetch (s : State) (a sec : Nat) (imm t64 : Bool) (eng : Option Nat) : Asked s (l2Fetch s a sec imm t64 eng).1 := by
  unfold l2Fetch
  cases s.winOf sec with
  | some w =>
    cases nget s.mem.copies (l2key a sec) with
    | some d => exact Asked.refl s
    | none => exact ⟨rfl, rfl⟩
  | none =>
    simp only
    split_ifs
    · exact Asked.refl s
    · exact Asked.refl s
    · exact asked_need ..

theorem asked_walkReads (s : State) (cu c va : Nat) : Asked s (walkReads s cu c va) := by
  unfold walkReads
  split
  · exact Asked.refl s
  · exact Asked.foldl (fun s _ => asked_l2Fetch s ..) _ s

/-! ### A lane whose address does not translate (R238) -/

section
variable {s : State} {t : Thread} {va : Nat} (walks : walk s t.ctx va = none) (noRlb : (s.cu t.cu).rlb = [])
  (noWalker : ngetD s.mem.walkers (t.cu / 64) [] = [])
include walks noRlb noWalker

theorem translate_eq_none : translate s t.cu t.ctx va = none := by
  simp [translate, walks, rlbXl, noRlb, walkerXl, noWalker]

theorem checkPart_xlat (opc : Nat) (f : Fields) :
    checkPart s t opc f false va = (walkReads s t.cu t.ctx va, .error ⟨3, cXLAT, accSyn opc f false⟩) := by
  have notDiel : cXLAT ≠ cDIEL := by decide
  simp [checkPart, xlate, translate_eq_none walks noRlb noWalker, notDiel]

end

/-- A lane of a global access of at most 16 bytes fails where its address does not translate. -/
theorem checkAll_xlat {s : State} {t : Thread} {e : LogEntry} {l : Nat} (space : accAs e.f = 0) (small : e.bytes ≤ 16)
    (checks : check12 s t e.opc e.f (e.addr l) = none) (walks : walk s t.ctx (e.addr l).toNat = none) (noRlb : (s.cu t.cu).rlb = [])
    (noWalker : ngetD s.mem.walkers (t.cu / 64) [] = []) :
    checkAll s t e l = (walkReads s t.cu t.ctx (e.addr l).toNat, .error ⟨3, cXLAT, accSyn e.opc e.f false⟩) := by
  simp [checkAll, checks, checkLane, space, localParts_small _ small, checkPart_xlat walks noRlb noWalker]

/-- The one lane of a store fails its checks. -/
theorem failingLanes_alone {s u : State} {t : Thread} {e : LogEntry} {l : Nat} {x : Failed} (todo : e.todo = [l])
    (opc : e.opc = 0x181) (checks : checkAll s t e l = (u, .error x)) (early : x.rank ≠ 6) (tid : Nat) :
    failingLanes s t e tid none = (u, [(l, x)]) := by
  simp [failingLanes, todo, LogEntry.quiet, isLoad, isFence, opc, checks, lockEarly, early]

/-! ### The fault of an entry (R101, R238) -/

/-- An entry that lanes fail, with the check that they fail. -/
def LogEntry.failed (e : LogEntry) (lanes : Mask) (x : Failed) : LogEntry :=
  { e with flt := e.flt ||| lanes, state := 1, cause := x.cause, syn := x.syn, rank := x.rank }

/-- The first failure of an entry freezes its running group. -/
theorem markFault_first {s : State} {tid eid : Nat} {t : Thread} {e : LogEntry} (ht : s.thread tid = some t) (entry : t.entry eid = some e)
    (state : e.state = 0) (active : t.place = .active) (runs : t.fz = none) (lanes : Mask) (x : Failed) :
    markFault s tid eid lanes x =
      takeFault (s.modEntry tid eid fun _ => e.failed lanes x) tid (entryTrap t (e.failed lanes x)) t.pc := by
  simp only [markFault, ht, entry, state, active, runs]
  simp [LogEntry.failed]

theorem faultLanes_alone {s : State} {tid : Nat} {t : Thread} {e : LogEntry} {l : Nat} (ht : s.thread tid = some t) (log : t.log = [e])
    (once : e.once = false) (x : Failed) : faultLanes s tid e.id [(l, x)] = markFault s tid e.id (BitVec.ofNat 32 (2 ^ l)) x := by
  have entry : s.entry tid e.id = some e := (State.entry_of_thread ht _).trans (Thread.entry_alone log)
  simp [faultLanes, firstFailed, entry, once, laneMask_one]

/-- The trap of a failed entry that neither the loss of a tile nor that of a peer has failed. -/
def failedTrap (t : Thread) (e : LogEntry) : Trap :=
  { cause := e.cause, syn := BitVec.ofNat 64 e.syn, unit := some (funit 8 0), fpc := some e.pc, async := true,
    lanes := (e.flt &&& ~~~e.done).setWidth 64, opd0 := e.addr (lowestLane (e.flt &&& ~~~e.done)),
    opd1 := BitVec.ofNat 64 (t.ringOffset e.id) }

theorem entryTrap_eq (t : Thread) (e : LogEntry) (tile : e.cause ≠ cDIEL) (peer : e.cause ≠ cFABF) :
    entryTrap t e = failedTrap t e := by
  simp [entryTrap, tile, peer, failedTrap]

/-- MISPOL of a thread's launch (R99). -/
def State.mispolOf (s : State) (t : Thread) : Nat := ((s.launchOf t).map (·.lr.mispol)).getD 0

/-- A fault of a group that no tadpole steps, and whose launch does not have it kill the context, freezes the group; no other thread, no
workgroup and no memory changes. -/
theorem takeFault_freezes {s : State} {tid : Nat} {t : Thread} {x : Trap} (resume : Word64) (ht : s.thread tid = some t)
    (group : t.kind = .group) (step : t.stepping = 0) (stays : ¬(x.cause = cMISAL ∧ s.mispolOf t = 1))
    (sysent : (s.ctx t.ctx).sysent ≠ 0) :
    let u := takeFault s tid x resume
    u.thr = nset s.thr tid (t.frozenBy x (faultRec s t x) resume) ∧ u.wgs = s.wgs ∧ u.mem = s.mem := by
  have stays' : ¬(decide (x.cause = cMISAL) && decide (((s.launchOf t).map (·.lr.mispol)).getD 0 = 1)) = true := by
    simpa [State.mispolOf] using stays
  obtain ⟨g, queued⟩ := queueSpawn_modCu (s := s.setThread tid (t.frozenBy x (faultRec s t x) resume)) sysent tid (faultRec s t x)
    (decide (x.cause = cDIEL)) false false x.imp 0
  have fault : takeFault s tid x resume =
      let q := (s.setThread tid (t.frozenBy x (faultRec s t x) resume)).modCu t.cu g
      let haltm := ((s.launchOf t).map (·.lr.haltm)).getD 0
      if x.cause = cBKPT || haltm.testBit x.cause then
        raiseTrigger q t.ctx (triggerOf q t (faultRec s t x)) else q := by
    rw [← queued]
    unfold takeFault
    simp only [ht]
    split
    next => rw [if_neg (not_not.2 step), if_neg stays']; rfl
    next k => rw [group] at k; cases k
    next k => rw [group] at k; cases k
  simp only [fault]
  split_ifs
  · exact ⟨raiseTrigger_thr .., raiseTrigger_wgs .., raiseTrigger_mem ..⟩
  · exact ⟨rfl, rfl, rfl⟩

/-- The frozen state that the fault of a failed entry brings its group. -/
structure Freeze.OfEntry (z : Freeze) (e : LogEntry) : Prop where
  byFault : z.byFault = true
  imp : z.imp = false
  cause : z.fr.cause = BitVec.ofNat 64 e.cause
  fpc : z.fr.fpc = e.pc
  lanes : z.fr.lanes = (e.flt &&& ~~~e.done).setWidth 64
  opd0 : z.fr.opd0 = e.addr (lowestLane (e.flt &&& ~~~e.done))
  syn : z.fr.syn = BitVec.ofNat 64 e.syn

/-- The fault of a failed entry freezes its running group. -/
theorem takeFault_entry {s : State} {tid : Nat} {t : Thread} {e : LogEntry} (ht : s.thread tid = some t) (t0 : Thread)
    (group : t.isGroup = true) (step : t.stepping = 0) (stays : ¬(e.cause = cMISAL ∧ s.mispolOf t = 1))
    (sysent : (s.ctx t.ctx).sysent ≠ 0) (tile : e.cause ≠ cDIEL) (peer : e.cause ≠ cFABF) :
    let u := takeFault s tid (entryTrap t0 e) t.pc
    ∃ z : Freeze, u.thread tid = some { t with fz := some z } ∧ z.OfEntry e ∧ u.mem = s.mem := by
  rw [entryTrap_eq t0 e tile peer]
  obtain ⟨thr, -, mem⟩ := takeFault_freezes (x := failedTrap t0 e) t.pc ht (by simpa [Thread.isGroup] using group) step stays sysent
  let z : Freeze := { fr := faultRec s t (failedTrap t0 e), byFault := true, byBrum := (t.fz.map (·.byBrum)).getD false, hold := false,
                      imp := false, tied := none }
  refine ⟨z, ?_, ⟨rfl, rfl, rfl, rfl, rfl, rfl, rfl⟩, mem⟩
  rw [State.thread, thr, nget_nset_self]
  rfl

theorem accessFaultFreezes : Claims.AccessFaultFreezes := by
  unfold Claims.AccessFaultFreezes
  intro s tid t e l ht log opc space lanes inLanes effm once state flt done _ small checks walks noRlb noWalker group active runs step
    sysent
  let x : Failed := ⟨3, cXLAT, accSyn e.opc e.f false⟩
  let s1 := walkReads s t.cu t.ctx (e.addr l).toNat
  have asked : Asked s s1 := asked_walkReads ..
  have ht1 : s1.thread tid = some t := by rw [asked.rest]; exact ht
  have failing : failingLanes s t e tid none = (s1, [(l, x)]) :=
    failingLanes_alone ((LogEntry.todo_fresh done flt).trans lanes) opc (checkAll_xlat space small checks walks noRlb noWalker)
      (show 3 ≠ 6 by decide) tid
  let e' : LogEntry := { e with flt := e.effm, state := 1, cause := cXLAT, syn := accSyn e.opc e.f false, rank := 3 }
  have failed : e.failed (BitVec.ofNat 32 (2 ^ l)) x = e' := by
    rw [LogEntry.failed, flt, ← effm]
    exact congrArg (fun m => { e' with flt := m }) BitVec.zero_or
  let s2 := s1.modEntry tid e.id fun _ => e'
  have ht2 : s2.thread tid = some { t with log := [e'] } := by
    show (s1.modThread tid _).thread tid = _
    rw [State.thread_modThread, if_pos rfl, ht1, Option.map_some, Thread.modEntry_alone log]
  have ran : exec (.accessFault tid e.id none) s = .next (takeFault s2 tid (entryTrap t e') t.pc) := by
    rw [exec_accessFault, execAccessFault]
    simp only [ht, Thread.entry_alone log, state, failing, faultLanes_alone ht1 log once,
      markFault_first ht1 (Thread.entry_alone log) state active runs, failed]
    rfl
  have sysent2 : (s2.ctx t.ctx).sysent ≠ 0 := by
    have same : s2.ctxs = s.ctxs := by
      show s1.ctxs = s.ctxs
      rw [asked.rest]
    rwa [State.ctx, same]
  have lane : e'.flt &&& ~~~e'.done = e.effm := by
    show e.effm &&& ~~~e.done = e.effm
    rw [done]
    exact BitVec.and_allOnes
  obtain ⟨z, thread, rec', mem⟩ := takeFault_entry (e := e') ht2 t group step
    (show ¬(cXLAT = cMISAL ∧ _) from fun h => absurd h.1 (by decide)) sysent2 (show cXLAT ≠ cDIEL by decide)
    (show cXLAT ≠ cFABF by decide)
  obtain ⟨byFault, imp, cause, fpc, lanes', opd0, -⟩ := rec'
  rw [lane] at lanes' opd0
  rw [effm, lowestLane_laneBit l inLanes] at opd0
  exact ⟨_, _, z, ran, thread, rfl, rfl, rfl, byFault, imp, cause, opd0, fpc, lanes', (congrArg MemSys.dram mem).trans asked.dram⟩

/-- Settles O40: a lane in the scratchpad is performed where it stands, and one that does not translate freezes its group. -/
theorem scratchAccesses : Obligations.ScratchAccesses := ⟨scratchStoreCompletes, scratchLoadCompletes, accessFaultFreezes⟩

end Sys2Proof.Machine
end

section
/-! For O39: an access enters the operand log. -/

namespace Sys2Proof.Machine

/-! ### Lanes of a mask -/

theorem mem_lanesOf {m : Mask} {l : Nat} : l ∈ lanesOf m ↔ l < 32 ∧ m.getLsbD l = true := by simp [lanesOf]

/-! ### What the forms of the access engine run -/

/-- Every access but FENCE enters the log where it issues. -/
theorem exec_accessForm : ∀ r ∈ accessForms, r.1 ≠ 0x188 → ∀ f s, exec (r.2 f) s = issue r.1 f s (enterAccess r.1 f) := by
  have fence : ∀ p : Prop, (0x188 : Nat) ≠ 0x188 → p := fun _ h => absurd rfl h
  simp only [accessForms, List.forall_mem_cons]
  exact ⟨fun _ _ _ => rfl, fun _ _ _ => rfl, fun _ _ _ => rfl, fun _ _ _ => rfl, fun _ _ _ => rfl, fun _ _ _ => rfl, fun _ _ _ => rfl,
    fun _ _ _ => rfl, fence _, fun _ _ _ => rfl, fun _ _ _ => rfl, fun _ _ _ => rfl, fun _ _ _ => rfl, fun _ _ _ => rfl,
    fun _ _ _ => rfl, by simp⟩

/-- FENCE with no fabric failure to report enters the log too. -/
theorem exec_fence_enters {f : Fields} {s : State} {tid : Nat} {t : Thread} (h : Issues s tid t 0x188 f)
    (quiet : t.ffail = none ∨ t.live f = 0) : exec (.fence f) s = .next (enterAccess 0x188 f s tid t) := by
  rw [exec_fence, execFence, issue_runs h]
  rcases quiet with none' | dead
  · simp only [none']
  · cases t.ffail with
    | none => rfl
    | some x => simp only [dead, if_true]

theorem eq_fence_of_mem : ∀ r ∈ accessForms, r.1 = 0x188 → r = (0x188, .fence) := by
  simp [accessForms]

/-- An access that may issue, and has no fabric failure to report, enters the log. -/
theorem exec_access {r : Nat × (Fields → Instr)} (form : r ∈ accessForms) {f : Fields} {s : State} {tid : Nat} {t : Thread}
    (h : Issues s tid t r.1 f) (quiet : r.1 = 0x188 → t.ffail = none ∨ t.live f = 0) :
    exec (r.2 f) s = .next (enterAccess r.1 f s tid t) := by
  by_cases fence : r.1 = 0x188
  · obtain rfl := eq_fence_of_mem r form fence
    exact exec_fence_enters h (quiet rfl)
  · rw [exec_accessForm r form fence, issue_runs h]

/-! ### The entry of an access (R237, R239) -/

/-- The entry that an access makes as it issues, its destination still to be named. -/
def newEntry (opc : Nat) (f : Fields) (s : State) (tid : Nat) (t : Thread) : LogEntry :=
  let acts := actingLanes opc t f
  let n := accBytes opc f
  { id := t.logSeq, pc := t.pc, opc := opc, f := f,
    opD := if isStore opc then capture s tid t f.d.toNat (dataRegs n) else .unused,
    opA := if opc = 0x188 then .unused else capture s tid t f.a.toNat 2,
    opB := if opc = 0x188 then .unused else capture s tid t f.b.toNat (if isAtomic opc then dataRegs n else 1),
    opC := if hasBe opc f || (opc = 0x186 && Forms.ex f 3 0 = 7) || (opc = 0x18B && Forms.mo f 6 6 = 1) then
        capture s tid t f.c.toNat (if hasBe opc f then 1 else dataRegs n) else .unused,
    dest := .none, once := isOnce opc f, effm := acts, helper := if t.isGroup then acts &&& t.hlpm else 0, flt := 0, done := 0,
    cause := 0, syn := 0, state := 0, wb := none, fmark := t.fseq, sent := 0, wo := false, res := [], put := [] }

/-- The entry with its destination, the registers that the thread has now. -/
def LogEntry.withDest (e : LogEntry) (u : Thread) : LogEntry :=
  let names := accDest e.opc e.f
  { e with
    dest := match accUni e.opc e.f with
      | some c => Dest.uniform c
      | none => if names.isEmpty then Dest.none else Dest.vector (names.filterMap fun n => (nget u.vmap n).map fun p => (n, p.id))
    opD := if names.isEmpty then (match accUni e.opc e.f with | some _ => OpVal.uniform 0 | none => e.opD)
      else OpVal.vector (names.filterMap fun n => nget u.vmap n) }

/-- The thread with a new entry at the tail of its log, which its counter counts. -/
def Thread.entered (u : Thread) (e : LogEntry) : Thread :=
  let u' := { u with log := u.log ++ [e], logSeq := e.id + 1 }
  match counterOf e.opc e.f with
  | some k => u'.countUp k
  | none => u'

/-- The register writes of an access at its issue: its destination's names are mapped anew, with the values they had (R100). -/
def destWrites (opc : Nat) (f : Fields) (t : Thread) : List Write :=
  (accDest opc f).map fun n => Write.vec n (mkLanes fun l => t.vlane n l) (actingLanes opc t f)

/-- The module with the access in the log, before the checks made at issue. -/
def entered (opc : Nat) (f : Fields) (s : State) (tid : Nat) (t : Thread) : State :=
  (retire opc f s tid t { writes := destWrites opc f t }).modThread tid fun u => u.entered ((newEntry opc f s tid t).withDest u)

/-- Lanes whose faults are dropped are done where they fail. -/
def dropFaults (opc : Nat) (t : Thread) (f : Fields) (e : LogEntry) (s : State) (tid : Nat) : State :=
  e.lanes.foldl (fun s l => if (e.quiet l || opc = 0x189) && (check12 s t opc f (e.addr l)).isSome then
    laneDone s tid e.id l none false else s) s

/-- The lanes that fail the checks made at issue and whose faults count, each with its failure. -/
def badLanes (opc : Nat) (t : Thread) (f : Fields) (e : LogEntry) (s : State) : List (Nat × Failed) :=
  e.lanes.filterMap fun l =>
    if e.quiet l || opc = 0x189 || opc = 0x188 then none else (check12 s t opc f (e.addr l)).map fun x => (l, x)

section
variable {opc : Nat} {f : Fields} {s : State} {tid : Nat} {t : Thread}

theorem enterAccess_dead (dead : actingLanes opc t f = 0) : enterAccess opc f s tid t = retire opc f s tid t {} := by
  have dead' : (if isLoad opc || opc = 0x188 then t.live f else t.eff f) = 0 := by simpa [actingLanes] using dead
  unfold enterAccess
  simp only [dead', if_true]

theorem acts_eq : (if (isLoad opc || decide (opc = 0x188)) = true then t.live f else t.eff f) = actingLanes opc t f := by
  simp [actingLanes]

theorem enterAccess_unfit (acts : actingLanes opc t f ≠ 0) (unfit : t.fits (destWrites opc f t) = false) :
    enterAccess opc f s tid t = takeFault s tid (budgetTrap (actingLanes opc t f)) t.pc := by
  unfold destWrites at unfit
  unfold enterAccess
  simp only [acts_eq, acts, if_false, unfit, Bool.not_false, if_true]

theorem enterAccess_fits (acts : actingLanes opc t f ≠ 0) (fit : t.fits (destWrites opc f t) = true) :
    enterAccess opc f s tid t =
      let e := newEntry opc f s tid t
      let u := entered opc f s tid t
      faultLanes (if opc = 0x189 || isLoad opc then dropFaults opc t f e u tid else u) tid e.id (badLanes opc t f e u) := by
  unfold destWrites at fit
  unfold enterAccess
  simp only [acts_eq, acts, if_false, fit, Bool.not_true, Bool.false_eq_true]
  rfl

end

/-! ### Captured operands (R239) -/

@[simp] theorem OpVal.lane64_uniform (x : Word64) (l : Nat) : (OpVal.uniform x).lane64 l = x := rfl

section
variable {s : State} {tid : Nat} {t : Thread}

theorem capture_vector {code n : Nat} (reg : regOf code = .v n) (k : Nat) :
    capture s tid t code k = .vector ((List.range k).map fun j => (nget t.vmap (n + j)).getD ⟨0, []⟩) := by simp only [capture, reg]

/-- A source that is no vector name is captured as its uniform value. -/
theorem capture_uniform {code : Nat} (reg : (regOf code).isVector = false) (k : Nat) :
    capture s tid t code k = .uniform (uniVal s tid t code) := by
  unfold capture
  cases h : regOf code with
  | v n => rw [h] at reg; cases reg
  | _ => rfl

/-- A captured vector name has the lanes that its thread's register has. -/
theorem lane_capture_vector {code n : Nat} (reg : regOf code = .v n) {j k : Nat} (h : j < k) (l : Nat) :
    (capture s tid t code k).lane j l = t.vlane (n + j) l := by
  rw [capture_vector reg, OpVal.lane, List.getElem?_map, List.getElem?_range h, Thread.vlane]
  cases h : nget t.vmap (n + j) <;> simp [h]

theorem lane64_capture (code l : Nat) : (capture s tid t code 2).lane64 l = lane64 s tid t code l := by
  cases reg : regOf code with
  | v n =>
    have low := lane_capture_vector (s := s) (tid := tid) (t := t) reg (show 0 < 2 by decide) l
    have high := lane_capture_vector (s := s) (tid := tid) (t := t) reg (show 1 < 2 by decide) l
    rw [capture_vector reg] at low high ⊢
    simp only [OpVal.lane64, low, high, lane64, reg, Nat.add_zero]
  | _ => simp only [capture, lane64, reg, OpVal.lane64]

/-- The address of a lane of the entry is the one that the form's operands gave at issue (R233). -/
theorem addr_newEntry {opc : Nat} (notFence : opc ≠ 0x188) (f : Fields) (l : Nat) :
    (newEntry opc f s tid t).addr l = accAddr opc f s tid t l := by
  have base := lane64_capture (s := s) (tid := tid) (t := t) f.a.toNat l
  unfold LogEntry.addr accAddr newEntry
  by_cases atomic : isAtomic opc = true
  · simp only [atomic, notFence, if_true, if_false, base]
  · cases reg : regOf f.b.toNat with
    | v n =>
      have index := lane_capture_vector (s := s) (tid := tid) (t := t) reg (show 0 < 1 by decide) l
      rw [capture_vector reg] at index
      simp only [atomic, notFence, if_false, Bool.false_eq_true, base, capture_vector reg, index, Nat.add_zero]
    | _ =>
      have index := capture_uniform (s := s) (tid := tid) (t := t) (code := f.b.toNat) (by rw [reg]; rfl) 1
      simp only [atomic, notFence, if_false, Bool.false_eq_true, base, index, OpVal.lane64_uniform]

end

/-! ### Stores: the data that the entry keeps (R239) -/

theorem isStore_cases {opc : Nat} (store : isStore opc = true) : opc = 0x181 ∨ opc = 0x183 ∨ opc = 0x185 := by
  simpa [isStore, or_assoc] using store

/-- A store's operand takes as many registers as its bytes fill. -/
theorem lt_dataRegs {opc : Nat} {f : Fields} (store : isStore opc = true) {k : Nat} (h : 4 * k < accBytes opc f) :
    k < dataRegs (accBytes opc f) := by
  have width : hasW opc = true := by rcases isStore_cases store with rfl | rfl | rfl <;> rfl
  simp only [accBytes, width, if_true] at h ⊢
  generalize Forms.mo f 9 7 = w at h ⊢
  unfold dataRegs
  by_cases small : w ≤ 2
  · have : 2 ^ w ≤ 4 := Nat.pow_le_pow_right (by decide) small
    rw [if_pos this]
    omega
  · obtain ⟨v, rfl⟩ := Nat.exists_eq_add_of_le (show 3 ≤ w by omega)
    have : (1 : Nat) ≤ 2 ^ v := Nat.one_le_two_pow
    rw [Nat.pow_add] at h ⊢
    rw [if_neg (by omega)]
    omega

/-- The data of a store stays its entry's, since no destination takes the place of it. -/
theorem opD_withDest {opc : Nat} (store : isStore opc = true) (f : Fields) (s : State) (tid : Nat) (t u : Thread) :
    ((newEntry opc f s tid t).withDest u).opD = capture s tid t f.d.toNat (dataRegs (accBytes opc f)) := by
  have none' : accDest opc f = [] ∧ accUni opc f = none := by rcases isStore_cases store with rfl | rfl | rfl <;> exact ⟨rfl, rfl⟩
  simp [LogEntry.withDest, newEntry, none', store]

theorem lane_data {opc : Nat} {f : Fields} (store : isStore opc = true) {k : Nat} (h : 4 * k < accBytes opc f) (s : State) (tid : Nat)
    (t : Thread) (l : Nat) : (capture s tid t f.d.toNat (dataRegs (accBytes opc f))).lane k l = (match regOf f.d.toNat with
      | .v n => t.vlane (n + k) l
      | _ => if k = 0 then (uniVal s tid t f.d.toNat).setWidth 32
        else if k = 1 then (uniVal s tid t f.d.toNat).extractLsb' 32 32 else 0) := by
  cases reg : regOf f.d.toNat with
  | v n => exact lane_capture_vector reg (lt_dataRegs store h) l
  | _ => rw [capture_uniform (by rw [reg]; rfl), OpVal.lane]

end Sys2Proof.Machine
end

section
/-! For O39: the entry as it stands in the log, and the checks made at issue. -/

namespace Sys2Proof.Machine

/-! ### The checks made at issue depend on the scratchpads' sizes and the threads' places alone (R238) -/

theorem scratchBytes_eq (s : State) (t : Thread) : scratchBytes s t =
    if t.hasWg && (t.isGroup || ((t.target.bind fun j => (s.thread j).map (·.place)).map (· != .exited)).getD false) then
      ((s.wg t.wg).map (·.spBytes)).getD 0 else 0 := by
  unfold scratchBytes
  cases t.target with
  | none => rfl
  | some j => cases h : s.thread j <;> simp [h, bne, decide_not]

theorem check12_congr {s u : State} (sizes : ∀ w, (u.wg w).map (·.spBytes) = (s.wg w).map (·.spBytes))
    (places : ∀ j, (u.thread j).map (·.place) = (s.thread j).map (·.place)) (t : Thread) (opc : Nat) (f : Fields) (a : Word64) :
    check12 u t opc f a = check12 s t opc f a := by
  simp only [check12, scratchBytes_eq, sizes, places]

/-! ### The thread with the entry -/

/-- Entering the log changes the log, the next entry's number and the counters alone. -/
theorem Thread.entered_eq (u : Thread) (e : LogEntry) : ∃ a b c d, u.entered e =
    { u with log := u.log ++ [e], logSeq := e.id + 1, cL := a, cS := b, cC := c, cM := d } := by
  unfold Thread.entered
  cases counterOf e.opc e.f with
  | none => exact ⟨_, _, _, _, rfl⟩
  | some k => simp only [Thread.countUp]; split <;> exact ⟨_, _, _, _, rfl⟩

@[simp] theorem Thread.entered_log (u : Thread) (e : LogEntry) : (u.entered e).log = u.log ++ [e] := by
  obtain ⟨a, b, c, d, same⟩ := u.entered_eq e
  rw [same]

@[simp] theorem Thread.entered_logSeq (u : Thread) (e : LogEntry) : (u.entered e).logSeq = e.id + 1 := by
  obtain ⟨a, b, c, d, same⟩ := u.entered_eq e
  rw [same]

@[simp] theorem Thread.entered_place (u : Thread) (e : LogEntry) : (u.entered e).place = u.place := by
  obtain ⟨a, b, c, d, same⟩ := u.entered_eq e
  rw [same]

@[simp] theorem Thread.entered_pc (u : Thread) (e : LogEntry) : (u.entered e).pc = u.pc := by
  obtain ⟨a, b, c, d, same⟩ := u.entered_eq e
  rw [same]

@[simp] theorem Thread.entered_fz (u : Thread) (e : LogEntry) : (u.entered e).fz = u.fz := by
  obtain ⟨a, b, c, d, same⟩ := u.entered_eq e
  rw [same]

theorem counterOf_lt {opc : Nat} {f : Fields} {k : Nat} (h : counterOf opc f = some k) : k < 4 := by
  unfold counterOf at h
  split at h <;> grind

/-- The entry's counter rises by one, and no other. -/
theorem Thread.counter_entered (u : Thread) (e : LogEntry) {n : Nat} (h : n < 4) :
    (u.entered e).counter n = u.counter n + if counterOf e.opc e.f = some n then 1 else 0 := by
  unfold Thread.entered
  cases counts : counterOf e.opc e.f with
  | none => simp [Thread.counter]
  | some k =>
    have small := counterOf_lt counts
    interval_cases k <;> interval_cases n <;> simp [Thread.countUp, Thread.counter]

/-- An entry that is new to its thread's log. -/
def Thread.newTo (u : Thread) (e : LogEntry) : Prop := ∀ x ∈ u.log, x.id < e.id

theorem Thread.entry_entered {u : Thread} {e : LogEntry} (new : u.newTo e) : (u.entered e).entry e.id = some e := by
  have absent : u.log.find? (fun x => decide (x.id = e.id)) = none := by
    simpa using fun x hx => (new x hx).ne
  simp [Thread.entry, absent]

/-- A change of the new entry that keeps what it counts as. -/
theorem Thread.modEntry_entered {u : Thread} {e : LogEntry} (new : u.newTo e) {g : LogEntry → LogEntry} (id : (g e).id = e.id)
    (opc : (g e).opc = e.opc) (f : (g e).f = e.f) : (u.entered e).modEntry e.id g = u.entered (g e) := by
  have older : u.log.map (fun x => if x.id = e.id then g x else x) = u.log :=
    (List.map_congr_left fun x hx => if_neg (new x hx).ne).trans (List.map_id _)
  have log : (u.log ++ [e]).map (fun x => if x.id = e.id then g x else x) = u.log ++ [g e] := by simp [older]
  unfold Thread.entered Thread.modEntry
  rw [opc, f, id]
  cases counterOf e.opc e.f with
  | none => simp only [log]
  | some k => simp only [Thread.countUp]; split <;> simp only [log]

/-! ### Lanes that are done as they fail (R47, R240, R248) -/

/-- The lanes that a lane's access stands for. -/
def LogEntry.lanesFor (e : LogEntry) (l : Nat) : Mask := if e.once then e.effm else BitVec.ofNat 32 (2 ^ l)

/-- The entry with lanes done. -/
def LogEntry.alsoDone (e : LogEntry) (l : Nat) : LogEntry := { e with done := e.done ||| e.lanesFor l }

theorem State.setThread_setThread (s : State) (tid : Nat) (t u : Thread) : (s.setThread tid t).setThread tid u = s.setThread tid u := by
  simp only [State.setThread, nset_nset_self]

theorem laneDone_entered {s : State} {u : Thread} {e : LogEntry} (new : u.newTo e) (tid l : Nat) :
    laneDone (s.setThread tid (u.entered e)) tid e.id l none false = s.setThread tid (u.entered (e.alsoDone l)) := by
  have there : (s.setThread tid (u.entered e)).thread tid = some (u.entered e) := by rw [State.thread_setThread, if_pos rfl]
  rw [laneDone, State.modEntry, State.modThread_of_thread there, Thread.modEntry_entered new rfl rfl rfl]
  simp only [State.setThread_setThread, Bool.false_and, Bool.or_false]
  rfl

/-- The entry after the lanes that a predicate picks are done. -/
def LogEntry.doneWhere (e : LogEntry) (p : Nat → Bool) (lanes : List Nat) : LogEntry :=
  lanes.foldl (fun e l => if p l then e.alsoDone l else e) e

theorem LogEntry.doneWhere_eq (e : LogEntry) (p : Nat → Bool) (lanes : List Nat) :
    ∃ m, e.doneWhere p lanes = { e with done := m } ∧
      ∀ k, m.getLsbD k = (e.done.getLsbD k || lanes.any fun l => p l && (e.lanesFor l).getLsbD k) := by
  induction lanes generalizing e with
  | nil => exact ⟨e.done, rfl, by simp⟩
  | cons l r ih =>
    rw [LogEntry.doneWhere, List.foldl_cons]
    by_cases h : p l = true
    · rw [if_pos h]
      obtain ⟨m, same, bit⟩ := ih (e.alsoDone l)
      refine ⟨m, same, fun k => ?_⟩
      have lanes : ∀ i, (e.alsoDone l).lanesFor i = e.lanesFor i := fun _ => rfl
      simp only [bit, lanes, List.any_cons, h, Bool.true_and]
      rw [LogEntry.alsoDone, BitVec.getLsbD_or, Bool.or_assoc]
    · rw [if_neg h]
      obtain ⟨m, same, bit⟩ := ih e
      refine ⟨m, same, fun k => ?_⟩
      simp only [bit, List.any_cons, h, Bool.false_and, Bool.false_or]

/-- Marking lanes as done, one after another, where the checks that pick them do not look at the entry. -/
theorem foldl_laneDone {s : State} {u : Thread} {tid : Nat} {p : State → Nat → Bool} {q : Nat → Bool} (lanes : List Nat)
    {e : LogEntry} (new : u.newTo e) (same : ∀ e l, p (s.setThread tid (u.entered e)) l = q l) :
    lanes.foldl (fun s l => if p s l then laneDone s tid e.id l none false else s) (s.setThread tid (u.entered e)) =
      s.setThread tid (u.entered (e.doneWhere q lanes)) := by
  induction lanes generalizing e with
  | nil => rfl
  | cons l r ih =>
    rw [List.foldl_cons, same, LogEntry.doneWhere, List.foldl_cons]
    by_cases h : q l = true
    · rw [if_pos h, if_pos h, laneDone_entered new]
      exact ih (e := e.alsoDone l) new
    · rw [if_neg h, if_neg h]
      exact ih new

end Sys2Proof.Machine
end

section
/-! For O39: what the entry of an access holds once its lanes have been checked. -/

namespace Sys2Proof.Machine

/-! ### The lanes of the entry as it issues -/

section
variable {opc : Nat} {f : Fields} {s : State} {tid : Nat} {t : Thread}

theorem acts_of_mem_issueLanes {l : Nat} (h : l ∈ issueLanes opc t f) :
    isOnce opc f = true ∨ l < 32 ∧ (actingLanes opc t f).getLsbD l = true := by
  unfold issueLanes at h
  split_ifs at h with once
  · exact .inl once
  · exact .inr (mem_lanesOf.1 h)

/-- Faults of a lane of the entry are dropped where those of the form's lane are. -/
theorem quiet_newEntry (acts : actingLanes opc t f ≠ 0) {l : Nat} (h : l ∈ issueLanes opc t f) :
    ((newEntry opc f s tid t).quiet l || decide (opc = 0x189)) = faultsDropped opc t f l := by
  have helper : (newEntry opc f s tid t).helper = if t.isGroup then actingLanes opc t f &&& t.hlpm else 0 := rfl
  have quiet : (newEntry opc f s tid t).quiet l = (isLoad opc && if isOnce opc f then
      decide (actingLanes opc t f &&& ~~~(newEntry opc f s tid t).helper = 0) else (newEntry opc f s tid t).helper.getLsbD l) := rfl
  have others : actingLanes opc t f &&& ~~~(actingLanes opc t f &&& t.hlpm) = actingLanes opc t f &&& ~~~t.hlpm := by
    ext i
    simp only [BitVec.getElem_and, BitVec.getElem_not]
    cases (actingLanes opc t f)[i] <;> simp
  rw [quiet, helper, faultsDropped, Bool.or_comm, Bool.and_assoc]
  refine congrArg _ (congrArg _ ?_)
  by_cases group : t.isGroup = true
  · by_cases once : isOnce opc f = true
    · simp only [group, once, if_true, others, Bool.true_and]
    · obtain ⟨_, bit⟩ := (acts_of_mem_issueLanes h).resolve_left once
      simp [group, once, bit]
  · have all : ¬actingLanes opc t f &&& ~~~(0 : Mask) = 0 := by
      rw [show ~~~(0 : Mask) = BitVec.allOnes 32 from rfl, BitVec.and_allOnes]
      exact acts
    simp only [group, all, Bool.false_eq_true, if_false, Bool.false_and, decide_false]
    split_ifs
    · rfl
    · exact BitVec.getLsbD_zero

end

/-! ### The entry once its lanes have been checked (R237 to R240) -/

/-- A lane of the form fails the checks made at issue, and its faults are dropped. -/
def dropsLane (opc : Nat) (f : Fields) (s : State) (tid : Nat) (t : Thread) (l : Nat) : Bool :=
  faultsDropped opc t f l && issueFails opc f s tid t l

/-- The lanes of the form that fail the checks made at issue and whose faults count, each with its failure. -/
def failingAtIssue (opc : Nat) (f : Fields) (s : State) (tid : Nat) (t : Thread) : List (Nat × Failed) :=
  (issueLanes opc t f).filterMap fun l =>
    if faultsDropped opc t f l || opc = 0x188 then none else (check12 s t opc f (accAddr opc f s tid t l)).map fun x => (l, x)

/-- What the entry of an access holds as the checks made at issue leave it. -/
structure LogEntry.Enters (e : LogEntry) (opc : Nat) (f : Fields) (s : State) (tid : Nat) (t : Thread) : Prop where
  id : e.id = t.logSeq
  pc : e.pc = t.pc
  form : e.opc = opc
  fields : e.f = f
  effm : e.effm = actingLanes opc t f
  once : e.once = isOnce opc f
  state : e.state = 0
  flt : e.flt = 0
  addr : opc ≠ 0x188 → ∀ l, e.addr l = accAddr opc f s tid t l
  data : isStore opc = true → e.opD = capture s tid t f.d.toNat (dataRegs (accBytes opc f))
  done : ∀ l, l < 32 → e.done.getLsbD l = ((actingLanes opc t f).getLsbD l &&
    dropsLane opc f s tid t (if isOnce opc f then lowestLane (actingLanes opc t f) else l))

section
variable {opc : Nat} {f : Fields} {s : State} {tid : Nat} {t : Thread}

/-- A fault is dropped only where the form is PREF or a load. -/
theorem faultsDropped_of_other (other : (opc = 0x189 || isLoad opc) = false) (l : Nat) : faultsDropped opc t f l = false := by
  obtain ⟨pref, load⟩ := Bool.or_eq_false_iff.1 other
  rw [faultsDropped, pref, load, Bool.false_and, Bool.false_and, Bool.or_false]

/-- FENCE has no lane that fails. -/
theorem dropsLane_eq (l : Nat) : dropsLane opc f s tid t l =
    (faultsDropped opc t f l && (check12 s t opc f (accAddr opc f s tid t l)).isSome) := by
  by_cases fence : opc = 0x188
  · rw [dropsLane, faultsDropped_of_other (by rw [fence]; rfl), Bool.false_and, Bool.false_and]
  · simp [dropsLane, issueFails, fence]

theorem LogEntry.lanesFor_once {e : LogEntry} (once : e.once = true) (l : Nat) : e.lanesFor l = e.effm := if_pos once

theorem LogEntry.lanesFor_each {e : LogEntry} (each : e.once = false) (l : Nat) : e.lanesFor l = BitVec.ofNat 32 (2 ^ l) := by
  rw [LogEntry.lanesFor, each, if_neg Bool.false_ne_true]

/-- The new entry, with the lanes done that fail and whose faults are dropped. -/
theorem enters_doneWhere (u : Thread) {q : Nat → Bool} (drops : ∀ l ∈ issueLanes opc t f, q l = dropsLane opc f s tid t l) :
    (((newEntry opc f s tid t).withDest u).doneWhere q (issueLanes opc t f)).Enters opc f s tid t := by
  obtain ⟨m, same, bit⟩ := ((newEntry opc f s tid t).withDest u).doneWhere_eq q (issueLanes opc t f)
  rw [same]
  refine ⟨rfl, rfl, rfl, rfl, rfl, rfl, rfl, rfl, fun notFence l => addr_newEntry notFence f l,
    fun store => opD_withDest store f s tid t u, fun k hk => ?_⟩
  rw [bit, show ((newEntry opc f s tid t).withDest u).done.getLsbD k = false from BitVec.getLsbD_zero, Bool.false_or]
  by_cases once : isOnce opc f = true
  · have lanes : issueLanes opc t f = [lowestLane (actingLanes opc t f)] := if_pos once
    rw [lanes] at drops ⊢
    rw [List.any_cons, drops _ List.mem_cons_self, LogEntry.lanesFor_once once, if_pos once, List.any_nil, Bool.or_false, Bool.and_comm]
    rfl
  · have lanes : issueLanes opc t f = lanesOf (actingLanes opc t f) := if_neg once
    rw [if_neg once, Bool.eq_iff_iff, List.any_eq_true, Bool.and_eq_true]
    constructor
    · rintro ⟨l, hl, both⟩
      obtain ⟨picked, here⟩ := Bool.and_eq_true_iff.1 both
      rw [LogEntry.lanesFor_each (Bool.eq_false_iff.2 once), getLsbD_laneBit hk, decide_eq_true_eq] at here
      subst here
      exact ⟨(mem_lanesOf.1 (lanes ▸ hl)).2, drops l hl ▸ picked⟩
    · rintro ⟨acts, dropped⟩
      have member : k ∈ issueLanes opc t f := lanes ▸ mem_lanesOf.2 ⟨hk, acts⟩
      refine ⟨k, member, Bool.and_eq_true_iff.2 ⟨(drops k member).trans dropped, ?_⟩⟩
      rw [LogEntry.lanesFor_each (Bool.eq_false_iff.2 once), getLsbD_laneBit hk, decide_eq_true rfl]

/-- A form that retires leaves the checks made at issue as they were, and so does its entry. -/
theorem check12_entered (ht : s.thread tid = some t) {u : State} {t' : Thread} {d : Done} (r : Retires s u tid t t' opc f d)
    (e : LogEntry) (a : Word64) : check12 (u.setThread tid (t'.entered e)) t opc f a = check12 s t opc f a := by
  refine check12_congr (fun w => ?_) (fun j => ?_) t opc f a
  · show (u.wg w).map _ = _
    rw [r.wregs, Option.map_map]
    exact congrArg (Option.map · (s.wg w)) (funext fun g => by simp only [Function.comp]; split_ifs <;> rfl)
  · rw [State.thread_setThread]
    split_ifs with here
    · have place : t'.frame.place = t.frame.place := by rw [r.frame]
      rw [here, ht, Option.map_some, Option.map_some, Thread.entered_place]
      exact congrArg some place
    · rw [r.others j here]

theorem LogEntry.doneWhere_none {q : Nat → Bool} (none' : ∀ l, q l = false) (e : LogEntry) (lanes : List Nat) :
    e.doneWhere q lanes = e := by simp [LogEntry.doneWhere, none']

/-- The checks of an entry in a state fail in a lane whose faults are dropped. -/
def quietFails (opc : Nat) (t : Thread) (f : Fields) (e : LogEntry) (s : State) (l : Nat) : Bool :=
  (e.quiet l || decide (opc = 0x189)) && (check12 s t opc f (e.addr l)).isSome

theorem quietFails_newEntry (acts : actingLanes opc t f ≠ 0) {l : Nat} (h : l ∈ issueLanes opc t f) :
    quietFails opc t f (newEntry opc f s tid t) s l = dropsLane opc f s tid t l := by
  rw [quietFails, quiet_newEntry acts h, dropsLane_eq]
  by_cases fence : opc = 0x188
  · rw [faultsDropped_of_other (by rw [fence]; rfl), Bool.false_and, Bool.false_and]
  · rw [addr_newEntry fence]

section
variable (ht : s.thread tid = some t) {u : State} {t' : Thread} {d : Done} (r : Retires s u tid t t' opc f d) {e : LogEntry}
include ht r

/-- The lanes of the new entry that fail and whose faults are dropped are done, by the checks as they were before the form. -/
theorem dropFaults_entered (form : e.opc = opc) (new : t'.newTo (e.withDest t')) :
    (if opc = 0x189 || isLoad opc then dropFaults opc t f e (u.setThread tid (t'.entered (e.withDest t'))) tid
      else u.setThread tid (t'.entered (e.withDest t'))) =
    u.setThread tid (t'.entered ((e.withDest t').doneWhere (quietFails opc t f e s) e.lanes)) := by
  by_cases some' : (decide (opc = 0x189) || isLoad opc) = true
  · rw [if_pos some']
    exact foldl_laneDone (p := quietFails opc t f e) e.lanes new fun e' l => by simp only [quietFails, check12_entered ht r]
  · rw [if_neg some', LogEntry.doneWhere_none]
    intro l
    obtain ⟨pref, load⟩ := Bool.or_eq_false_iff.1 (Bool.eq_false_iff.2 some')
    rw [quietFails, LogEntry.quiet, form, pref, load, Bool.false_and, Bool.false_or, Bool.false_and]

/-- The lanes of the new entry that take a fault fail the checks as they were before the form. -/
theorem badLanes_entered (acts : actingLanes opc t f ≠ 0) (e' : LogEntry) :
    badLanes opc t f (newEntry opc f s tid t) (u.setThread tid (t'.entered e')) = failingAtIssue opc f s tid t := by
  refine List.filterMap_congr fun l hl => ?_
  rw [quiet_newEntry acts hl, check12_entered ht r]
  by_cases fence : opc = 0x188
  · simp [fence]
  · rw [addr_newEntry fence]

end

/-- A form that retires in a group that no tadpole steps leaves it so. -/
theorem retire_stepping {d : Done} (fit : t.fits d.writes = true) (step : t.stepping = 0) {t' : Thread}
    (h : (retire opc f s tid t d).thread tid = some t') : t'.stepping = 0 := by
  simp only [retire, fit, if_true, State.thread_modThread, Option.map_eq_some_iff] at h
  obtain ⟨u, -, rfl⟩ := h
  simp only [id, Thread.retired, step]
  rfl

/-- An access with lanes that act and room for its destination stands in the log, its own lanes checked, and then takes the faults
that count. -/
theorem enterAccess_enters (ht : s.thread tid = some t) (blk : t.blk = none) (acts : actingLanes opc t f ≠ 0)
    (fit : t.fits (destWrites opc f t) = true) (new : ∀ x ∈ t.log, x.id < t.logSeq) :
    ∃ u t' e, Retires s u tid t t' opc f { writes := destWrites opc f t } ∧ t'.blk = none ∧
      (t.stepping = 0 → t'.stepping = 0) ∧ e.Enters opc f s tid t ∧ t'.newTo e ∧
      enterAccess opc f s tid t = faultLanes (u.setThread tid (t'.entered e)) tid e.id (failingAtIssue opc f s tid t) := by
  obtain ⟨t', r⟩ := retire_retires opc f { writes := destWrites opc f t } ht blk fit
  let e0 := newEntry opc f s tid t
  let q := quietFails opc t f e0 s
  have log : t'.frame.log = t.frame.log := by rw [r.frame]
  have new' : t'.newTo (e0.withDest t') := fun x hx => new x (log ▸ hx)
  have stands : entered opc f s tid t =
      State.setThread (retire opc f s tid t { writes := destWrites opc f t }) tid (t'.entered (e0.withDest t')) :=
    State.modThread_of_thread r.thread _
  have enters := enters_doneWhere t' (q := q) fun l hl => quietFails_newEntry acts hl
  have id : ((e0.withDest t').doneWhere q (issueLanes opc t f)).id = e0.id := enters.id
  refine ⟨_, t', _, r, retire_blk fit r.thread, fun step => retire_stepping fit step r.thread, enters, fun x hx => ?_, ?_⟩
  · rw [id]; exact new' x hx
  · rw [enterAccess_fits acts fit, id]
    simp only [stands]
    rw [badLanes_entered ht r acts, dropFaults_entered ht r rfl new']
    rfl

end

end Sys2Proof.Machine
end

section
/-! For O39: an access without a fault at issue goes on, its entry in the log. -/

namespace Sys2Proof.Machine

/-- A form that retires, and then enters the log, goes on with the registers as it wrote them. -/
theorem Retires.advances_entered {s u : State} {tid : Nat} {t t' : Thread} {opc : Nat} {f : Fields} {ws : List Write}
    (r : Retires s u tid t t' opc f { writes := ws }) (blk : t'.blk = none) (e : LogEntry) :
    Advances s (u.setThread tid (t'.entered e)) tid t (t'.entered e) opc f ws := by
  obtain ⟨a, b, c, d, same⟩ := t'.entered_eq e
  have frame := r.frame
  have field : ∀ {α : Type} (k : Thread → α), k t'.frame = k t.frame := fun k => congrArg k frame
  have flags : t'.fpstat = t.fpstat := by rw [r.flags]; simp [raiseFlags]
  rw [same]
  exact {
    thread := by rw [State.thread_setThread, if_pos rfl]
    pc := r.pc
    sig := r.sig
    vector := r.vector
    scalar := r.scalar
    pred := r.pred
    wregs := by
      show (u.wg t.wg).map _ = _
      rw [r.wregs, Option.map_map]
      exact congrArg (Option.map · (s.wg t.wg)) (funext fun g => by simp)
    masks := ⟨field (·.exm), field (·.stack), field (·.exited), field (·.deadm)⟩
    special := ⟨field (·.fpctl), flags, field (·.mstat), field (·.nchk)⟩
    stands := ⟨field (·.fz), field (·.place), blk⟩
    bytes := by rw [State.setThread_mem, r.state]; exact ⟨rfl, rfl⟩ }

/-- A lane that acts is served by its own access, or by the one that the group makes. -/
theorem mem_issueLanes_of_acts {opc : Nat} {f : Fields} {t : Thread} {l : Nat} (small : l < 32)
    (acts : (actingLanes opc t f).getLsbD l = true) :
    (if isOnce opc f then lowestLane (actingLanes opc t f) else l) ∈ issueLanes opc t f := by
  unfold issueLanes
  split_ifs
  · exact List.mem_cons_self
  · exact mem_lanesOf.2 ⟨small, acts⟩

/-- Where the lanes' faults are dropped or their checks hold, no lane takes a fault at issue. -/
theorem failingAtIssue_eq_nil {opc : Nat} {f : Fields} {s : State} {tid : Nat} {t : Thread}
    (passes : ∀ l ∈ issueLanes opc t f, faultsDropped opc t f l = true ∨ issueFails opc f s tid t l = false) :
    failingAtIssue opc f s tid t = [] := by
  refine List.filterMap_eq_nil_iff.2 fun l hl => ?_
  rcases passes l hl with dropped | holds
  · rw [dropped, Bool.true_or, if_pos rfl]
  · by_cases fence : opc = 0x188
    · simp [fence]
    · have none' : check12 s t opc f (accAddr opc f s tid t l) = none := by simpa [issueFails, fence] using holds
      rw [none']
      split_ifs <;> rfl

theorem faultLanes_nil (s : State) (tid eid : Nat) : faultLanes s tid eid [] = s := rfl

/-- Where no lane takes a fault, every lane that fails is one whose faults are dropped. -/
theorem dropsLane_of_passes {opc : Nat} {f : Fields} {s : State} {tid : Nat} {t : Thread} {l : Nat}
    (passes : faultsDropped opc t f l = true ∨ issueFails opc f s tid t l = false) :
    dropsLane opc f s tid t l = issueFails opc f s tid t l := by
  rcases passes with dropped | holds
  · rw [dropsLane, dropped, Bool.true_and]
  · rw [dropsLane, holds, Bool.and_false]

theorem accessEntersTheLog : Claims.AccessEntersTheLog := by
  unfold Claims.AccessEntersTheLog
  intro r form f s tid t h acts names writes
  refine ⟨fun dead => ?_, fun some' unfit quiet => ?_, fun some' fit quiet new passes => ?_⟩
  · have ran := exec_access form h fun fence => .inr (by simpa [acts, actingLanes, fence] using dead)
    rw [enterAccess_dead dead] at ran
    obtain ⟨t', retires⟩ := retire_retires r.1 f {} h.thread h.new (Thread.fits_of_newNames t _ rfl)
    exact ⟨_, t', ran, retires⟩
  · rw [exec_access form h fun fence => .inl (quiet fence), enterAccess_unfit some' unfit]
  · have ran := exec_access form h fun fence => .inl (quiet fence)
    obtain ⟨u, t', e, retires, blk, -, enters, -, enter⟩ := enterAccess_enters h.thread h.new some' fit new
    rw [enter, failingAtIssue_eq_nil passes, faultLanes_nil] at ran
    have frame := retires.frame
    have field : ∀ {α : Type} (k : Thread → α), k t'.frame = k t.frame := fun k => congrArg k frame
    have log : t'.log = t.log := field (·.log)
    refine ⟨_, t'.entered e, e, ran, retires.advances_entered blk e, ?_, enters.id, ?_, enters.form, enters.fields, enters.pc,
      enters.effm, enters.once, enters.state, enters.flt, fun k hk => ?_, fun notFence l _ => enters.addr notFence l,
      fun store l _ k _ hk => ?_, fun n hn => ?_, ?_, fun j hj => ?_⟩
    · rw [Thread.entered_log, log]
    · rw [Thread.nextEntry, Thread.entered_logSeq, enters.id, Thread.nextEntry]
    · rw [enters.done k hk]
      by_cases bit : acts.getLsbD k = true
      · rw [dropsLane_of_passes (passes _ (mem_issueLanes_of_acts hk bit))]
      · rw [Bool.eq_false_iff.2 bit, Bool.false_and, Bool.false_and]
    · rw [enters.data store]
      exact lane_data store hk s tid t l
    · rw [Thread.counter_entered _ _ hn, enters.form, enters.fields, show t'.counter n = t.counter n from field (·.counter n)]
    · rw [State.setThread_mem, retires.state]
    · rw [State.thread_setThread, if_neg hj, retires.others j hj]

end Sys2Proof.Machine
end

section
/-! For O39: FENCE and FABST report a recorded fabric failure. -/

namespace Sys2Proof.Machine

theorem fabricFailureIsReported : Claims.FabricFailureIsReported := by
  unfold Claims.FabricFailureIsReported
  intro f s tid t x failed live reports
  refine ⟨fun h => ?_, fun h done => ?_⟩
  · rw [exec_fence, execFence, issue_runs h]
    simp only [failed, live, if_false]
    rfl
  · have waits : (decide (Forms.mo f 7 7 = 1) && !t.fOpen.isEmpty) = false := by
      rcases done with off | none'
      · simp [off]
      · simp [none']
    rw [exec_fabst, execFabst, issue_runs h]
    simp only [failed, live, waits, if_false, Bool.false_eq_true]
    rfl

end Sys2Proof.Machine
end

section
/-! For O39: a misaligned access under MISPOL 01 kills the context (R99, R166). -/

namespace Sys2Proof.Machine

/-! ### What a kill leaves of the workgroups -/

/-- A workgroup as a kill leaves it. -/
def Wg.dead (g : Wg) : Wg := { g with killed := true, excused := true, bars := [], ring := abandoned g.ring, tiles := [], mqSave := [] }

theorem killWg_wgs {s : State} {w : Nat} {g : Wg} (hg : s.wg w = some g) (alive : g.killed = false) :
    (killWg s w).wgs = nmod s.wgs w Wg.dead := by
  unfold killWg
  simp only [hg, alive, Bool.false_eq_true, if_false]
  split_ifs <;>
  · refine Eq.trans (b := nmod (List.foldl _ s g.groups).wgs w Wg.dead) rfl (congrArg (nmod · w Wg.dead) ?_)
    exact List.foldlRecOn (motive := fun u : State => u.wgs = s.wgs) _ _ rfl fun u same _ _ => same

theorem killWg_of_killed {s : State} {w : Nat} (dead : ∀ g, s.wg w = some g → g.killed = true) : killWg s w = s := by
  unfold killWg
  cases hg : s.wg w with
  | none => rfl
  | some g => simp only [dead g hg, if_true]

theorem endTadpole_wgs (s : State) (tid : Nat) : (endTadpole s tid).wgs = s.wgs := by
  unfold endTadpole
  split
  · rfl
  · split
    · split_ifs <;> rfl
    · rfl

/-- A kill of a workgroup kills it, and revives no other. -/
theorem killWg_kills {s : State} {v : Nat} {g : Wg} (hg : s.wg v = some g) (w : Nat) :
    ∃ g', (killWg s w).wg v = some g' ∧ (v = w ∨ g.killed = true → g'.killed = true) := by
  by_cases dead : ∀ h, s.wg w = some h → h.killed = true
  · rw [killWg_of_killed dead]
    refine ⟨g, hg, ?_⟩
    rintro (rfl | killed)
    · exact dead g hg
    · exact killed
  · push Not at dead
    obtain ⟨h, hw, alive⟩ := dead
    rw [State.wg, killWg_wgs hw (Bool.eq_false_iff.2 alive), nget_nmod]
    by_cases here : v = w
    · exact ⟨g.dead, by rw [if_pos here]; exact congrArg (Option.map Wg.dead) (here ▸ hg), fun _ => rfl⟩
    · exact ⟨g, by rw [if_neg here]; exact hg, fun killed => killed.resolve_left here⟩

theorem foldl_killWg_kills (ws : List Nat) {s : State} {v : Nat} {g : Wg} (hg : s.wg v = some g) (dies : v ∈ ws ∨ g.killed = true) :
    ∃ g', (ws.foldl killWg s).wg v = some g' ∧ g'.killed = true := by
  induction ws generalizing s g with
  | nil => exact ⟨g, hg, dies.resolve_left List.not_mem_nil⟩
  | cons w r ih =>
    obtain ⟨g', hg', killed⟩ := killWg_kills hg w
    refine ih hg' ?_
    rcases dies with member | dead
    · exact (List.mem_cons.1 member).symm.imp_right fun here => killed (.inl here)
    · exact .inr (killed (.inr dead))

/-- A kill of a context kills every workgroup of it. -/
theorem killCtx_kills {s : State} {w : Nat} {g : Wg} (hg : s.wg w = some g) :
    ∃ g', (killCtx s g.ctx).wg w = some g' ∧ g'.killed = true := by
  let ws := (s.wgs.filter fun p => p.2.ctx = g.ctx).map (·.1)
  have member : w ∈ ws := List.mem_map.2 ⟨(w, g), List.mem_filter.2 ⟨mem_of_nget hg, decide_eq_true rfl⟩, rfl⟩
  have same : (killCtx s g.ctx).wgs = (ws.foldl killWg s).wgs := by
    refine Eq.trans (b := (List.foldl endTadpole (ws.foldl killWg s) _).wgs) rfl ?_
    exact List.foldlRecOn (motive := fun u : State => u.wgs = _) _ _ rfl fun u keeps tid _ => (endTadpole_wgs u tid).trans keeps
  rw [State.wg, same]
  exact foldl_killWg_kills ws hg (.inl member)

/-! ### The fault of a misaligned access under MISPOL 01 -/

/-- A misaligned access of a group that no tadpole steps kills the context where MISPOL says so. -/
theorem takeFault_kills {s : State} {tid : Nat} {t : Thread} {x : Trap} (resume : Word64) (ht : s.thread tid = some t)
    (group : t.kind = .group) (step : t.stepping = 0) (cause : x.cause = cMISAL) (policy : s.mispolOf t = 1) {w : Nat} {g : Wg}
    (hg : s.wg w = some g) (ctx : g.ctx = t.ctx) : ∃ g', (takeFault s tid x resume).wg w = some g' ∧ g'.killed = true := by
  have kills : (decide (x.cause = cMISAL) && decide (((s.launchOf t).map (·.lr.mispol)).getD 0 = 1)) = true := by
    simpa [State.mispolOf, cause] using policy
  unfold takeFault
  simp only [ht]
  split
  next =>
    rw [if_neg (not_not.2 step), if_pos kills, ← ctx]
    split_ifs
    · exact killCtx_kills (by rw [State.wg, raiseTrigger_wgs]; exact hg)
    · exact killCtx_kills hg
  next k => rw [group] at k; cases k
  next k => rw [group] at k; cases k

end Sys2Proof.Machine
end

section
/-! For O39: the lanes that fail the checks made at issue, and the first check that any of them failed. -/

namespace Sys2Proof.Machine

/-! ### What a lane fails (R97, R238) -/

/-- A lane's address is misaligned for its form. -/
def misaligned (opc : Nat) (f : Fields) (a : Word64) : Bool := decide (a.toNat % min (accBytes opc f) 16 ≠ 0)

/-- A lane's address lies beyond global space, or beyond its workgroup's scratchpad. -/
def beyondSpace (opc : Nat) (f : Fields) (s : State) (t : Thread) (a : Word64) : Bool :=
  (accAs f = 0 && decide (2 ^ 57 ≤ a.toNat)) || (accAs f = 1 && decide (scratchBytes s t < a.toNat + accBytes opc f))

def misalFailure (opc : Nat) (f : Fields) : Failed := ⟨1, cMISAL, accSyn opc f (decide (16 < accBytes opc f))⟩
def spaceFailure (opc : Nat) (f : Fields) : Failed := ⟨2, if accAs f = 0 then cXLAT else cPERM, accSyn opc f false⟩

theorem check12_eq (s : State) (t : Thread) (opc : Nat) (f : Fields) (a : Word64) :
    check12 s t opc f a = if misaligned opc f a then some (misalFailure opc f)
      else if beyondSpace opc f s t a then some (spaceFailure opc f) else none := by
  have size : (if 16 < accBytes opc f then 16 else accBytes opc f) = min (accBytes opc f) 16 := by split_ifs <;> omega
  simp only [check12, misaligned, beyondSpace, misalFailure, spaceFailure, decide_eq_true_eq, size]
  refine if_congr Iff.rfl rfl ?_
  split
  next zero => simp [zero]
  next one => simp [one]
  next zero one => simp [show ¬accAs f = 0 from zero, show ¬accAs f = 1 from one]

/-! ### The first check that any lane failed (R238) -/

/-- The failure to report of two, the older of equals. -/
def Failed.first (acc : Option Failed) (x : Failed) : Option Failed :=
  match acc with
  | none => some x
  | some y => if x.rank < y.rank then some x else some y

theorem firstFailed_eq_foldl (l : List (Nat × Failed)) : firstFailed l = (l.map (·.2)).foldl Failed.first none := by
  rw [List.foldl_map]
  rfl

theorem foldl_first_of_least {x : Failed} {l : List Failed} (least : ∀ y ∈ l, y = x ∨ x.rank < y.rank) :
    l.foldl Failed.first (some x) = some x := by
  refine List.foldlRecOn (motive := fun acc => acc = some x) l _ rfl fun acc same y hy => ?_
  rw [same, Failed.first]
  rcases least y hy with rfl | lt
  · exact if_neg (lt_irrefl _)
  · exact if_neg lt.not_gt

/-- A failure that comes first of those that occur is the one that is reported. -/
theorem foldl_first_eq {x : Failed} {l : List Failed} (occurs : x ∈ l) (least : ∀ y ∈ l, y = x ∨ x.rank < y.rank) {acc : Option Failed}
    (later : ∀ y, acc = some y → x.rank < y.rank) : l.foldl Failed.first acc = some x := by
  induction l generalizing acc with
  | nil => cases occurs
  | cons y r ih =>
    obtain ⟨here, rest⟩ := List.forall_mem_cons.1 least
    rw [List.foldl_cons]
    rcases here with rfl | lt
    · have taken : Failed.first acc y = some y := by
        cases acc with
        | none => rfl
        | some z => exact if_pos (later z rfl)
      rw [taken]
      exact foldl_first_of_least rest
    · have inRest : x ∈ r := (List.mem_cons.1 occurs).resolve_left (by rintro rfl; exact lt_irrefl _ lt)
      refine ih inRest rest fun z hz => ?_
      cases acc with
      | none => cases hz; exact lt
      | some z' =>
        simp only [Failed.first] at hz
        split_ifs at hz <;> cases hz
        · exact lt
        · exact later _ rfl

theorem firstFailed_eq {x : Failed} {l : List (Nat × Failed)} (occurs : ∃ p ∈ l, p.2 = x) (least : ∀ p ∈ l, p.2 = x ∨ x.rank < p.2.rank) :
    firstFailed l = some x := by
  rw [firstFailed_eq_foldl]
  exact foldl_first_eq (List.mem_map.2 occurs) (List.forall_mem_map.2 least) fun _ h => by cases h

/-! ### The lanes that fail -/

section
variable (opc : Nat) (f : Fields) (s : State) (tid : Nat) (t : Thread)

/-- The lanes whose checks made at issue count: those whose faults are not dropped. -/
def checkedLanes : List Nat := (issueLanes opc t f).filter fun l => !faultsDropped opc t f l

/-- The lanes that fail the checks made at issue, and whose faults count. -/
def failsAtIssue (l : Nat) : Bool :=
  (checkedLanes opc f t).contains l &&
    (misaligned opc f (accAddr opc f s tid t l) || beyondSpace opc f s t (accAddr opc f s tid t l))

end

section
variable {opc : Nat} {f : Fields} {s : State} {tid : Nat} {t : Thread} (notFence : opc ≠ 0x188)
include notFence

theorem mem_failingAtIssue {l : Nat} {x : Failed} : (l, x) ∈ failingAtIssue opc f s tid t ↔
    l ∈ checkedLanes opc f t ∧ check12 s t opc f (accAddr opc f s tid t l) = some x := by
  simp only [failingAtIssue, checkedLanes, List.mem_filterMap, List.mem_filter, notFence, decide_false, Bool.or_false]
  constructor
  · rintro ⟨i, hi, picked⟩
    split_ifs at picked with dropped
    obtain ⟨y, checks, same⟩ := Option.map_eq_some_iff.1 picked
    cases same
    exact ⟨⟨hi, by simp [dropped]⟩, checks⟩
  · rintro ⟨⟨hl, counts⟩, checks⟩
    refine ⟨l, hl, ?_⟩
    rw [Bool.not_eq_true'] at counts
    rw [counts, checks]
    rfl

theorem any_failingAtIssue (l : Nat) :
    ((failingAtIssue opc f s tid t).any fun p => p.1 = l) = failsAtIssue opc f s tid t l := by
  rw [Bool.eq_iff_iff, List.any_eq_true, failsAtIssue, Bool.and_eq_true, List.contains_iff_mem]
  constructor
  · rintro ⟨⟨i, x⟩, member, same⟩
    obtain rfl : i = l := of_decide_eq_true same
    obtain ⟨counts, checks⟩ := (mem_failingAtIssue notFence).1 member
    refine ⟨counts, ?_⟩
    rw [check12_eq] at checks
    split_ifs at checks with off far
    · rw [off, Bool.true_or]
    · rw [far, Bool.or_true]
  · rintro ⟨counts, fails⟩
    have checks : ∃ x, check12 s t opc f (accAddr opc f s tid t l) = some x := by
      rw [check12_eq]
      rcases Bool.or_eq_true_iff.1 fails with off | far
      · exact ⟨_, if_pos off⟩
      · split_ifs
        · exact ⟨_, rfl⟩
        · exact ⟨_, rfl⟩
    obtain ⟨x, checks⟩ := checks
    exact ⟨(l, x), (mem_failingAtIssue notFence).2 ⟨counts, checks⟩, decide_eq_true rfl⟩

/-- A lane that counts and is misaligned fails with MISAL, before any that lies beyond its space. -/
theorem firstFailed_misal (off : ∃ l ∈ checkedLanes opc f t, misaligned opc f (accAddr opc f s tid t l) = true) :
    firstFailed (failingAtIssue opc f s tid t) = some (misalFailure opc f) := by
  obtain ⟨l, hl, off⟩ := off
  refine firstFailed_eq ⟨(l, misalFailure opc f), (mem_failingAtIssue notFence).2 ⟨hl, ?_⟩, rfl⟩ ?_
  · rw [check12_eq, if_pos off]
  · rintro ⟨i, y⟩ member
    have checks := ((mem_failingAtIssue notFence).1 member).2
    rw [check12_eq] at checks
    split_ifs at checks <;> cases checks
    · exact .inl rfl
    · exact .inr (show 1 < 2 by decide)

/-- Where none is misaligned, a lane that counts and lies beyond its space fails with XLAT or PERM. -/
theorem firstFailed_space (aligned : ∀ l ∈ checkedLanes opc f t, misaligned opc f (accAddr opc f s tid t l) = false)
    (far : ∃ l ∈ checkedLanes opc f t, beyondSpace opc f s t (accAddr opc f s tid t l) = true) :
    firstFailed (failingAtIssue opc f s tid t) = some (spaceFailure opc f) := by
  obtain ⟨l, hl, far⟩ := far
  refine firstFailed_eq ⟨(l, spaceFailure opc f), (mem_failingAtIssue notFence).2 ⟨hl, ?_⟩, rfl⟩ ?_
  · rw [check12_eq, aligned l hl, if_neg Bool.false_ne_true, if_pos far]
  · rintro ⟨i, y⟩ member
    obtain ⟨hi, checks⟩ := (mem_failingAtIssue notFence).1 member
    rw [check12_eq, aligned i hi, if_neg Bool.false_ne_true] at checks
    split_ifs at checks
    cases checks
    exact .inl rfl

omit notFence in
theorem failsAtIssue_iff {l : Nat} : failsAtIssue opc f s tid t l = true ↔ l ∈ issueLanes opc t f ∧ faultsDropped opc t f l = false ∧
    (misaligned opc f (accAddr opc f s tid t l) || beyondSpace opc f s t (accAddr opc f s tid t l)) = true := by
  rw [failsAtIssue, Bool.and_eq_true, List.contains_iff_mem, checkedLanes, List.mem_filter, Bool.not_eq_true', and_assoc]

/-! ### The lanes that the entry marks as failed -/

/-- The lanes of the entry that fail at issue, as its FLT. -/
def issueFaults (opc : Nat) (f : Fields) (s : State) (tid : Nat) (t : Thread) : Mask := laneMask (failsAtIssue opc f s tid t)

omit notFence in
/-- The lanes that take the fault are not done. -/
theorem issueFaults_and_not_done {e : LogEntry} (enters : e.Enters opc f s tid t) :
    issueFaults opc f s tid t &&& ~~~e.done = issueFaults opc f s tid t := by
  refine BitVec.eq_of_getLsbD_eq fun k hk => ?_
  rw [BitVec.getLsbD_and, BitVec.getLsbD_not, decide_eq_true hk, Bool.true_and, issueFaults, getLsbD_laneMask _ hk, enters.done k hk]
  by_cases fails : failsAtIssue opc f s tid t k = true
  · obtain ⟨member, counts, -⟩ := failsAtIssue_iff.1 fails
    have here : (if isOnce opc f then lowestLane (actingLanes opc t f) else k) = k := by
      split_ifs with once
      · rw [issueLanes, if_pos once] at member
        exact (List.mem_singleton.1 member).symm
      · rfl
    rw [here, dropsLane, counts, Bool.false_and, Bool.and_false, Bool.not_false, Bool.and_true]
  · rw [Bool.eq_false_iff.2 fails, Bool.false_and]

/-- The entry takes the fault in these lanes. -/
theorem faultLanes_entered {e : LogEntry} (enters : e.Enters opc f s tid t) {u : Thread} (new : u.newTo e) (v : State) {x : Failed}
    (first : firstFailed (failingAtIssue opc f s tid t) = some x) (some' : ∃ l, failsAtIssue opc f s tid t l = true) :
    faultLanes (v.setThread tid (u.entered e)) tid e.id (failingAtIssue opc f s tid t) =
      markFault (v.setThread tid (u.entered e)) tid e.id (issueFaults opc f s tid t) x := by
  have there : (v.setThread tid (u.entered e)).thread tid = some (u.entered e) := by rw [State.thread_setThread, if_pos rfl]
  have mask : (if e.once then BitVec.ofNat 32 (2 ^ lowestLane e.effm) else
      laneMask fun i => (failingAtIssue opc f s tid t).any fun p => p.1 = i) = issueFaults opc f s tid t := by
    simp only [any_failingAtIssue notFence, enters.once, enters.effm]
    split_ifs with once
    · have lanes : issueLanes opc t f = [lowestLane (actingLanes opc t f)] := if_pos once
      obtain ⟨l, fails⟩ := some'
      have one : ∀ i, failsAtIssue opc f s tid t i = true → i = lowestLane (actingLanes opc t f) := fun i hi =>
        List.mem_singleton.1 (lanes ▸ (failsAtIssue_iff.1 hi).1)
      rw [← laneMask_one, issueFaults]
      refine congrArg laneMask (funext fun i => Bool.eq_iff_iff.2 ⟨fun same => ?_, fun hi => decide_eq_true (one i hi).symm⟩)
      rw [← of_decide_eq_true same, ← one l fails]
      exact fails
    · rfl
  simp only [faultLanes, first, (State.entry_of_thread there _).trans (Thread.entry_entered new), mask]

end

end Sys2Proof.Machine
end

section
/-! Settles O39: a lane that fails the checks made at issue stops its group, or its context. -/

namespace Sys2Proof.Machine

/-- `v` is `s` with thread `tid` at `u`, past an access whose entry `e` lanes have failed at issue with `x`. -/
structure FailedAtIssue (v : State) (u : Thread) (e : LogEntry) (opc : Nat) (f : Fields) (s : State) (tid : Nat) (t : Thread)
    (x : Failed) : Prop where
  thread : v.thread tid = some u
  pc : u.pc = nextPc t.pc
  log : u.log = t.log ++ [e]
  kind : u.kind = t.kind
  stepping : t.stepping = 0 → u.stepping = 0
  ctx : u.ctx = t.ctx
  launch : u.launch = t.launch
  entryPc : e.pc = t.pc
  state : e.state = 1
  flt : e.flt = issueFaults opc f s tid t
  failed : e.flt &&& ~~~e.done = issueFaults opc f s tid t
  cause : e.cause = x.cause
  syn : e.syn = x.syn
  addr : ∀ l, e.addr l = accAddr opc f s tid t l
  lch : v.lch = s.lch
  ctxs : v.ctxs = s.ctxs
  mem : v.mem = s.mem
  wgs : ∀ w g, s.wg w = some g → ∃ g', v.wg w = some g' ∧ g'.ctx = g.ctx

/-- Lanes of an entry fail at issue, beside those already failed. -/
theorem failedAtIssue_of_enters {opc : Nat} {f : Fields} {s v : State} {tid : Nat} {t u : Thread} {d : Done} {e : LogEntry}
    (notFence : opc ≠ 0x188) (r : Retires s v tid t u opc f d) (next : d.pc = none) (step : t.stepping = 0 → u.stepping = 0)
    (enters : e.Enters opc f s tid t) (x : Failed) :
    FailedAtIssue (v.setThread tid (u.entered (e.failed (issueFaults opc f s tid t) x)))
      (u.entered (e.failed (issueFaults opc f s tid t) x)) (e.failed (issueFaults opc f s tid t) x) opc f s tid t x := by
  have frame := r.frame
  have field : ∀ {α : Type} (k : Thread → α), k u.frame = k t.frame := fun k => congrArg k frame
  have flt : (e.failed (issueFaults opc f s tid t) x).flt = issueFaults opc f s tid t := by
    rw [LogEntry.failed, enters.flt]
    exact BitVec.zero_or
  have pc : u.pc = nextPc t.pc := by rw [r.pc, next, Option.getD_none]
  obtain ⟨a, b, c, k, same⟩ := u.entered_eq (e.failed (issueFaults opc f s tid t) x)
  rw [same]
  exact {
    thread := by rw [State.thread_setThread, if_pos rfl]
    pc := pc
    log := congrArg (· ++ _) (field (·.log))
    kind := field (·.kind)
    stepping := step
    ctx := field (·.ctx)
    launch := field (·.launch)
    entryPc := enters.pc
    state := rfl
    flt := flt
    failed := by
      rw [flt]
      exact issueFaults_and_not_done (e := e) enters
    cause := rfl
    syn := rfl
    addr := enters.addr notFence
    lch := by rw [State.setThread_lch, r.state]
    ctxs := by rw [State.setThread_ctxs, r.state]
    mem := by rw [State.setThread_mem, r.state]
    wgs := fun w g hg => by
      show ∃ g', v.wg w = some g' ∧ _
      rw [r.wregs, hg]
      exact ⟨_, rfl, by split_ifs <;> rfl⟩ }

section
variable {r : Nat × (Fields → Instr)} (form : r ∈ accessForms) (notFence : r.1 ≠ 0x188) {f : Fields} {s : State} {tid : Nat} {t : Thread}
  (h : Issues s tid t r.1 f) (active : t.place = .active) (runs : t.fz = none) (new : ∀ x ∈ t.log, x.id < t.nextEntry)
  (acts : actingLanes r.1 t f ≠ 0) (fit : t.fits (destWrites r.1 f t) = true)
include form notFence h active runs new acts fit

/-- An access of a running group of which lanes fail at issue takes the fault of its entry. -/
theorem exec_access_faults {x : Failed} (first : firstFailed (failingAtIssue r.1 f s tid t) = some x)
    (some' : ∃ l, failsAtIssue r.1 f s tid t l = true) :
    ∃ v u e t0, exec (r.2 f) s = .next (takeFault v tid (entryTrap t0 e) u.pc) ∧ FailedAtIssue v u e r.1 f s tid t x := by
  have ran := exec_access form h fun fence => absurd fence notFence
  obtain ⟨v, u, e, retires, -, step, enters, new', enter⟩ := enterAccess_enters h.thread h.new acts fit new
  have frame := retires.frame
  have field : ∀ {α : Type} (k : Thread → α), k u.frame = k t.frame := fun k => congrArg k frame
  have there : (v.setThread tid (u.entered e)).thread tid = some (u.entered e) := by rw [State.thread_setThread, if_pos rfl]
  have fault := markFault_first there (Thread.entry_entered new') enters.state
    ((u.entered_place e).trans ((field (·.place)).trans active)) ((u.entered_fz e).trans ((field (·.fz)).trans runs))
    (issueFaults r.1 f s tid t) x
  rw [State.modEntry, State.modThread_of_thread there, Thread.modEntry_entered new' rfl rfl rfl, State.setThread_setThread,
    Thread.entered_pc] at fault
  rw [enter, faultLanes_entered notFence enters new' v first some', fault] at ran
  refine ⟨_, u.entered (e.failed (issueFaults r.1 f s tid t) x), _, u.entered e, ?_,
    failedAtIssue_of_enters notFence retires rfl step enters x⟩
  rw [Thread.entered_pc]
  exact ran

end

section
variable {v : State} {u : Thread} {e : LogEntry} {opc : Nat} {f : Fields} {s : State} {tid : Nat} {t : Thread} {x : Failed}
  (failed : FailedAtIssue v u e opc f s tid t x) (group : t.isGroup = true) (step : t.stepping = 0)
include failed

theorem FailedAtIssue.mispolOf : v.mispolOf u = s.mispolOf t := by
  rw [State.mispolOf, State.mispolOf, State.launchOf, State.launchOf, failed.lch, failed.launch]

include group in
theorem FailedAtIssue.isGroup : u.isGroup = true := by
  rw [Thread.isGroup, failed.kind]
  exact group

include group step

/-- A group that fails at issue freezes at the next instruction. -/
theorem FailedAtIssue.freezes (stays : ¬(x.cause = cMISAL ∧ s.mispolOf t = 1)) (sysent : (s.ctx t.ctx).sysent ≠ 0)
    (tile : x.cause ≠ cDIEL) (peer : x.cause ≠ cFABF) (t0 : Thread) :
    ∃ z, (takeFault v tid (entryTrap t0 e) u.pc).thread tid = some { u with fz := some z } ∧ z.OfEntry e ∧
      (takeFault v tid (entryTrap t0 e) u.pc).mem = s.mem := by
  have sysent' : (v.ctx u.ctx).sysent ≠ 0 := by rwa [State.ctx, failed.ctxs, failed.ctx]
  obtain ⟨z, thread, of, mem⟩ := takeFault_entry failed.thread t0 (failed.isGroup group) (failed.stepping step)
    (by rwa [failed.cause, failed.mispolOf]) sysent' (failed.cause ▸ tile) (failed.cause ▸ peer)
  exact ⟨z, thread, of, mem.trans failed.mem⟩

/-- A misaligned access under MISPOL 01 kills every workgroup of its context. -/
theorem FailedAtIssue.kills (cause : x.cause = cMISAL) (policy : s.mispolOf t = 1) (t0 : Thread) {w : Nat} {g : Wg}
    (hg : s.wg w = some g) (ctx : g.ctx = t.ctx) : ∃ g', (takeFault v tid (entryTrap t0 e) u.pc).wg w = some g' ∧ g'.killed = true := by
  obtain ⟨g', hg', ctx'⟩ := failed.wgs w g hg
  have misal : e.cause = cMISAL := failed.cause.trans cause
  rw [entryTrap_eq t0 e (by rw [misal]; decide) (by rw [misal]; decide)]
  exact takeFault_kills u.pc failed.thread (by simpa [Thread.isGroup] using failed.isGroup group) (failed.stepping step) misal
    (failed.mispolOf.trans policy) hg' (by rw [ctx', ctx, failed.ctx])

end

theorem spaceFailure_cause (opc : Nat) (f : Fields) : (spaceFailure opc f).cause ≠ cMISAL ∧ (spaceFailure opc f).cause ≠ cDIEL ∧
    (spaceFailure opc f).cause ≠ cFABF := by
  have two : ∀ p : Prop, [Decidable p] → (if p then cXLAT else cPERM) ≠ cMISAL ∧ (if p then cXLAT else cPERM) ≠ cDIEL ∧
      (if p then cXLAT else cPERM) ≠ cFABF := fun p _ => by split_ifs <;> decide
  exact two (accAs f = 0)

theorem misalignedAccessFaults : Claims.MisalignedAccessFaults := by
  unfold Claims.MisalignedAccessFaults
  intro r form notFence f s tid t h group active runs step sysent new acts n addr checked off far flt stops some' fit
  have faults : ∀ {x : Failed}, firstFailed (failingAtIssue r.1 f s tid t) = some x → (∃ l ∈ checked, (off l || far l) = true) →
      ∃ v u e t0, exec (r.2 f) s = .next (takeFault v tid (entryTrap t0 e) u.pc) ∧ FailedAtIssue v u e r.1 f s tid t x := by
    intro x first lane
    obtain ⟨l, hl, fails⟩ := lane
    exact exec_access_faults form notFence h active runs new some' fit first
      ⟨l, Bool.and_eq_true_iff.2 ⟨List.contains_iff_mem.2 hl, fails⟩⟩
  have freezes : ∀ {x : Failed}, firstFailed (failingAtIssue r.1 f s tid t) = some x → (∃ l ∈ checked, (off l || far l) = true) →
      ¬(x.cause = cMISAL ∧ s.mispolOf t = 1) → x.cause ≠ cDIEL → x.cause ≠ cFABF → stops x.cause x.syn := by
    intro x first lane stays tile peer
    obtain ⟨v, u, e, t0, ran, failed⟩ := faults first lane
    obtain ⟨z, thread, of, mem⟩ := failed.freezes group step stays sysent tile peer t0
    obtain ⟨byFault, -, cause, fpc, lanes, opd0, syn⟩ := of
    rw [failed.failed] at lanes opd0
    exact ⟨_, _, e, z, ran, thread, failed.pc, failed.log, failed.state, failed.flt, failed.cause, rfl, byFault,
      failed.cause ▸ cause, fpc.trans failed.entryPc, lanes, opd0.trans (failed.addr _), failed.syn ▸ syn, by rw [mem], by rw [mem]⟩
  have offFails : (∃ l ∈ checked, off l = true) → ∃ l ∈ checked, (off l || far l) = true :=
    fun ⟨l, hl, bad⟩ => ⟨l, hl, Bool.or_eq_true_iff.2 (.inl bad)⟩
  refine ⟨fun lane policy => ?_, fun lane policy => ?_, fun aligned lane => ?_⟩
  · exact freezes (firstFailed_misal notFence lane) (offFails lane) (fun both => policy both.2) (show cMISAL ≠ cDIEL by decide)
      (show cMISAL ≠ cFABF by decide)
  · obtain ⟨v, u, e, t0, ran, failed⟩ := faults (firstFailed_misal notFence lane) (offFails lane)
    exact ⟨_, ran, fun w g hg ctx => failed.kills group step rfl policy t0 hg ctx⟩
  · obtain ⟨misal, diel, fabf⟩ := spaceFailure_cause r.1 f
    have farFails : ∃ l ∈ checked, (off l || far l) = true := by
      obtain ⟨l, hl, bad⟩ := lane
      exact ⟨l, hl, Bool.or_eq_true_iff.2 (.inr bad)⟩
    exact freezes (firstFailed_space notFence aligned lane) farFails (fun both => misal both.1) diel fabf

/-- Settles O39: an access enters the log, where the lanes that fail the checks made at issue stop its group or its context, and a
recorded fabric failure comes before it. -/
theorem accessIssue : Obligations.AccessIssue := ⟨accessEntersTheLog, misalignedAccessFaults, fabricFailureIsReported⟩

end Sys2Proof.Machine
end

section
/-! Settles O1, O2 and O3: the decoder and the encoder read and write the same words (R112, R123). -/

namespace Sys2Proof

/-! ### A word and its fields (R112) -/

/-- `wordOf` with its width left as the sum of the widths of its parts, the form in which the library's lemmas about appended words
apply to it. -/
def fieldWord (opc : Nat) (f : Fields) :=
  (0 : BitVec 3) ++ BitVec.ofBool f.yld ++ f.stall ++ BitVec.ofBool f.lrc ++ BitVec.ofBool f.lrb ++
    BitVec.ofBool f.lra ++ BitVec.ofBool f.gneg ++ f.grd ++ f.mod ++ BitVec.ofBool f.xk ++ f.x ++ f.b ++ f.a ++
    f.d ++ BitVec.ofNat 10 opc

theorem wordOf_eq_fieldWord (opc : Nat) (f : Fields) : wordOf opc f = fieldWord opc f := rfl

/-- The flags of a word made from fields are those fields. -/
theorem fieldWord_flags (opc : Nat) (f : Fields) :
    (fieldWord opc f).getLsbD 92 = f.yld ∧ (fieldWord opc f).getLsbD 87 = f.lrc ∧ (fieldWord opc f).getLsbD 86 = f.lrb ∧
      (fieldWord opc f).getLsbD 85 = f.lra ∧ (fieldWord opc f).getLsbD 84 = f.gneg ∧ (fieldWord opc f).getLsbD 69 = f.xk := by
  simp [fieldWord, BitVec.getLsbD_append, -BitVec.getLsbD_eq_getElem, -Nat.reduceAdd]

/-- The numbers in a word made from fields are those fields, and its top bits are zero. -/
theorem fieldWord_numbers (opc : Nat) (f : Fields) :
    (fieldWord opc f).extractLsb' 93 3 = 0 ∧ (fieldWord opc f).extractLsb' 88 4 = f.stall ∧
      (fieldWord opc f).extractLsb' 80 4 = f.grd ∧ (fieldWord opc f).extractLsb' 70 10 = f.mod ∧
      (fieldWord opc f).extractLsb' 37 32 = f.x ∧ (fieldWord opc f).extractLsb' 28 9 = f.b ∧
      (fieldWord opc f).extractLsb' 19 9 = f.a ∧ (fieldWord opc f).extractLsb' 10 9 = f.d ∧
      (fieldWord opc f).extractLsb' 0 10 = BitVec.ofNat 10 opc := by
  simp [fieldWord, BitVec.extractLsb'_append_eq_of_le, BitVec.extractLsb'_append_eq_of_add_le, -Nat.reduceAdd]

theorem fieldsOf_wordOf (opc : Nat) (f : Fields) : fieldsOf (wordOf opc f) = f := by
  obtain ⟨yld, lrc, lrb, lra, gneg, xk⟩ := fieldWord_flags opc f
  obtain ⟨-, stall, grd, mod, x, b, a, d, -⟩ := fieldWord_numbers opc f
  cases f
  exact Fields.mk.injEq .. ▸ ⟨yld, stall, lrc, lrb, lra, gneg, grd, mod, xk, x, b, a, d⟩

theorem opcOf_wordOf {opc : Nat} (h : opc < 1024) (f : Fields) : opcOf (wordOf opc f) = opc := by
  obtain ⟨-, -, -, -, -, -, -, -, low⟩ := fieldWord_numbers opc f
  exact (congrArg BitVec.toNat low).trans (Nat.mod_eq_of_lt h)

theorem reserved_wordOf (opc : Nat) (f : Fields) : (wordOf opc f).extractLsb' 93 3 = 0 := (fieldWord_numbers opc f).1

theorem ofBool_getLsbD {n : Nat} (w : BitVec n) (i : Nat) : BitVec.ofBool (w.getLsbD i) = w.extractLsb' i 1 := by
  ext j hj
  simp [show j = 0 by omega]

/-- A word whose top bits are zero is made from its OPC and its fields: none of its bits is dropped. -/
theorem wordOf_fieldsOf {w : BitVec 96} (h : w.extractLsb' 93 3 = 0) : wordOf (opcOf w) (fieldsOf w) = w := by
  simp only [wordOf, opcOf, fieldsOf, ← h, ofBool_getLsbD, BitVec.ofNat_toNat, BitVec.setWidth_eq]
  simp (disch := rfl) only [BitVec.extractLsb'_append_extractLsb'_eq_extractLsb', -Nat.reduceAdd]
  exact BitVec.extractLsb'_eq_self

/-! ### The form of an OPC (R122) -/


section
variable {op : Nat} {f : Fields} {i : Instr}

theorem form_of_ofCtl (h : ofCtl op f = some i) : i.form = some (64 * 0 + op, f) := by
  unfold ofCtl at h
  split at h
  case h_21 => split at h <;> cases h <;> rfl
  all_goals cases h <;> rfl

theorem form_of_ofSal (h : ofSal op f = some i) : i.form = some (64 * 1 + op, f) := by
  unfold ofSal at h
  split at h <;> cases h <;> rfl

theorem form_of_ofVin (h : ofVin op f = some i) : i.form = some (64 * 2 + op, f) := by
  unfold ofVin at h
  split at h <;> cases h <;> rfl

theorem form_of_ofVfp (h : ofVfp op f = some i) : i.form = some (64 * 3 + op, f) := by
  unfold ofVfp at h
  split at h <;> cases h <;> rfl

theorem form_of_ofVxf (h : ofVxf op f = some i) : i.form = some (64 * 4 + op, f) := by
  unfold ofVxf at h
  split at h <;> cases h <;> rfl

theorem form_of_ofMat (h : ofMat op f = some i) : i.form = some (64 * 5 + op, f) := by
  unfold ofMat at h
  split at h <;> cases h <;> rfl

theorem form_of_ofAcc (h : ofAcc op f = some i) : i.form = some (64 * 6 + op, f) := by
  unfold ofAcc at h
  split at h <;> cases h <;> rfl

theorem form_of_ofCpy (h : ofCpy op f = some i) : i.form = some (64 * 7 + op, f) := by
  unfold ofCpy at h
  split at h <;> cases h <;> rfl

theorem form_of_ofFab (h : ofFab op f = some i) : i.form = some (64 * 8 + op, f) := by
  unfold ofFab at h
  split at h <;> cases h <;> rfl

theorem form_of_ofSyn (h : ofSyn op f = some i) : i.form = some (64 * 9 + op, f) := by
  unfold ofSyn at h
  split at h <;> cases h <;> rfl

theorem form_of_ofWrk (h : ofWrk op f = some i) : i.form = some (64 * 10 + op, f) := by
  unfold ofWrk at h
  split at h
  case h_2 => split at h <;> cases h <;> rfl
  all_goals cases h <;> rfl

theorem form_of_ofTrp (h : ofTrp op f = some i) : i.form = some (64 * 11 + op, f) := by
  unfold ofTrp at h
  split at h
  case h_5 => split at h <;> cases h <;> rfl
  case h_10 => split at h <;> cases h <;> rfl
  all_goals cases h <;> rfl

theorem form_of_ofSys (h : ofSys op f = some i) : i.form = some (64 * 12 + op, f) := by
  unfold ofSys at h
  split at h <;> cases h <;> rfl

end

theorem class_of_ofForm {opc : Nat} {f : Fields} {i : Instr} (h : ofForm opc f = some i) : opc / 64 < 13 := by
  unfold ofForm at h
  split at h
  case h_14 => cases h
  all_goals omega

theorem form_of_ofForm {opc : Nat} {f : Fields} {i : Instr} (h : ofForm opc f = some i) : i.form = some (opc, f) := by
  have inClass : ∀ {k}, opc / 64 = k → i.form = some (64 * k + opc % 64, f) → i.form = some (opc, f) := by
    rintro k rfl form
    rwa [Nat.div_add_mod] at form
  unfold ofForm at h
  split at h
  case h_1 k => exact inClass k (form_of_ofCtl h)
  case h_2 k => exact inClass k (form_of_ofSal h)
  case h_3 k => exact inClass k (form_of_ofVin h)
  case h_4 k => exact inClass k (form_of_ofVfp h)
  case h_5 k => exact inClass k (form_of_ofVxf h)
  case h_6 k => exact inClass k (form_of_ofMat h)
  case h_7 k => exact inClass k (form_of_ofAcc h)
  case h_8 k => exact inClass k (form_of_ofCpy h)
  case h_9 k => exact inClass k (form_of_ofFab h)
  case h_10 k => exact inClass k (form_of_ofSyn h)
  case h_11 k => exact inClass k (form_of_ofWrk h)
  case h_12 k => exact inClass k (form_of_ofTrp h)
  case h_13 k => exact inClass k (form_of_ofSys h)
  case h_14 => cases h

/-! ### Decoding and encoding (R112, R123) -/

theorem wf_of_form {m : Mode} {i : Instr} {opc : Nat} {f : Fields} (form : i.form = some (opc, f)) :
    i.wf m = true ↔ illegal m opc f = none ∧ ofForm opc f = some i := by
  simp [Instr.wf, form]

/-- A word decodes to an instruction only by passing each of the decoder's checks. -/
theorem decode_eq_instr_iff {m : Mode} {w : BitVec 96} {i : Instr} : decode m w = .instr i ↔
    w.extractLsb' 93 3 = 0 ∧ illegal m (opcOf w) (fieldsOf w) = none ∧ ofForm (opcOf w) (fieldsOf w) = some i := by
  unfold decode
  constructor
  · intro h
    split_ifs at h with reserved
    split at h
    · cases h
    · split at h
      · cases h; exact ⟨not_not.1 reserved, ‹_›, ‹_›⟩
      · cases h
  · rintro ⟨reserved, legal, form⟩
    simp [reserved, legal, form]

theorem decode_of_reserved {m : Mode} {w : BitVec 96} (reserved : w.extractLsb' 93 3 ≠ 0) : decode m w = .illegal 1 9 :=
  if_pos reserved

/-- Settles O1: the encoder's word holds the form's OPC and fields, which passed the checks as the form is well formed. -/
theorem decodeOfEncodedForm : Obligations.DecodeOfEncodedForm := by
  unfold Obligations.DecodeOfEncodedForm
  intro m i w wf word
  obtain ⟨⟨opc, f⟩, form, rfl⟩ := Option.map_eq_some_iff.1 word
  obtain ⟨legal, named⟩ := (wf_of_form form).1 wf
  have small : opc < 1024 := by have := class_of_ofForm named; omega
  rw [decode_eq_instr_iff, opcOf_wordOf small, fieldsOf_wordOf]
  exact ⟨reserved_wordOf opc f, legal, named⟩

/-- Settles O2: a word that passes the checks is made from the OPC and the fields read from it, and they are its instruction's. -/
theorem encodeOfDecodedWord : Obligations.EncodeOfDecodedWord := by
  unfold Obligations.EncodeOfDecodedWord
  intro m w i decoded
  obtain ⟨reserved, legal, named⟩ := decode_eq_instr_iff.1 decoded
  have form := form_of_ofForm named
  refine ⟨?_, (wf_of_form form).2 ⟨legal, named⟩⟩
  rw [encode, form, Option.map_some, wordOf_fieldsOf reserved]

/-- Settles O3: each word is the one its form encodes to, and check 1 is the reserved bits'. -/
theorem exampleWordsDecode : Obligations.ExampleWordsDecode := by
  unfold Obligations.ExampleWordsDecode
  exact ⟨decodeOfEncodedForm _ _ _ (by decide) (by decide), decodeOfEncodedForm _ _ _ (by decide) (by decide),
    decodeOfEncodedForm _ _ _ (by decide) (by decide), fun _ => decode_of_reserved⟩

end Sys2Proof
end
section
/-! Settles O27: what the scalar forms write. -/

namespace Sys2Proof.Machine

/-- A form whose action is done with writes of no new vector name retires with it: no budget holds it back. -/
theorem retiresWith_of_act {i : Instr} {opc : Nat} {f : Fields} {s : State} {tid : Nat} {t : Thread} {act : State → Nat → Thread → Act}
    (h : Issues s tid t opc f) (runs : exec i s = issueAct opc f s act) {d : Done} (noNew : newNames t d.writes = [])
    (done : act s tid t = .done d) : RetiresWith i opc f s tid t d := by
  obtain ⟨u, t', next, retires⟩ := issueAct_retires h done (t.fits_of_newNames _ noNew)
  exact ⟨u, t', runs.trans next, retires⟩

/-! ### Forms with one result (R182, R183) -/

/-- The form of a row runs the action that writes the row's result. -/
def ValueRow.IsScalar (r : ValueRow) : Prop := ∀ f s, exec (r.form f) s = issueAct r.opc f s (salAct f r.srcs (r.res f))

/-- With LIVE not empty, it retires with that one write. -/
theorem ValueRow.IsScalar.retires {r : ValueRow} (scalar : r.IsScalar) {f : Fields} {s : State} {tid : Nat} {t : Thread}
    (h : Issues s tid t r.opc f) (live : t.live f ≠ 0) :
    let (a, b, c) := salSrc s tid t f r.srcs
    RetiresWith (r.form f) r.opc f s tid t { writes := [.uni f.d.toNat (uniStore (Forms.ty f) (r.res f a b c))] } :=
  retiresWith_of_act h (scalar f s) rfl (if_neg live)

theorem Arith.shl_eq (ty a b : Nat) : Arith.shl ty a b = (a * 2 ^ (b % tyWidth ty)) % 2 ^ tyWidth ty := by
  rw [Arith.shl, Nat.shiftLeft_eq]

theorem Arith.shr_eq (ty a b : Nat) : Arith.shr ty a b = a / 2 ^ (b % tyWidth ty) := Nat.shiftRight_eq_div_pow ..

theorem Arith.pop_eq (ty a : Nat) : Arith.pop ty a = (List.range (tyWidth ty)).countP fun i => a.testBit i :=
  List.countP_eq_length_filter.symm

theorem scalarArithmetic_isScalar : ∀ r ∈ scalarArithmetic, r.IsScalar := by
  simp only [scalarArithmetic, List.forall_mem_cons]
  exact ⟨exec_sadd, exec_ssub, exec_smul, exec_smulh, exec_smad, exec_smin, exec_smax, by simp⟩

theorem scalarBits_isScalar : ∀ r ∈ scalarBits, r.IsScalar := by
  simp only [scalarBits, List.forall_mem_cons]
  refine ⟨exec_sand, exec_sor, exec_sxor, fun f s => ?_, fun f s => ?_, exec_ssar, exec_ssel, exec_smov, exec_sclz, fun f s => ?_,
    exec_sbfe, exec_sbfi, by simp⟩
  · simp only [exec_sshl, execSshl, Arith.shl_eq, widthOf]
  · simp only [exec_sshr, execSshr, Arith.shr_eq, widthOf]
  · simp only [exec_spop, execSpop, Arith.pop_eq, widthOf]

theorem scalarArithmeticResults : Claims.ScalarArithmeticResults :=
  fun r row _ _ _ _ h live => (scalarArithmetic_isScalar r row).retires h live

theorem scalarBitResults : Claims.ScalarBitResults :=
  fun r row _ _ _ _ h live => (scalarBits_isScalar r row).retires h live

/-! ### SCMP, SMOVI and SLEA (R182, R183) -/

/-- An immediate put beside the low half of a register, by masks as by its halves. -/
theorem or_highHalf_eq (x : BitVec 32) (old : Word64) :
    (old &&& (0xFFFFFFFF : Word64)) ||| (x.setWidth 64 <<< 32) = x ++ old.setWidth 32 := by
  have mask : 0xFFFFFFFF#64 = (BitVec.allOnes 32).setWidth 64 := rfl
  ext i hi
  have inMask : (0xFFFFFFFF#64)[i] = decide (i < 32) := by rw [mask, BitVec.getElem_setWidth, BitVec.getLsbD_allOnes]
  rw [BitVec.getElem_append]
  by_cases low : i < 32
  · simp [low, inMask, BitVec.getLsbD_eq_getElem hi]
  · simp [low, inMask, show i - 32 < 32 by omega]

theorem scalarCompareMoveAddress : Claims.ScalarCompareMoveAddress := by
  unfold Claims.ScalarCompareMoveAddress
  intro f s tid t
  refine ⟨fun h => retiresWith_of_act h (exec_scmp f s) rfl ?_, fun h live => retiresWith_of_act h (exec_smovi f s) rfl ?_,
    fun h live => retiresWith_of_act h (exec_slea f s) rfl (if_neg live)⟩
  · rfl
  · rw [← or_highHalf_eq]
    exact if_neg live

/-- Settles O27: a table's forms by the action that they share, the other three each by its own. -/
theorem scalarResults : Obligations.ScalarResults := ⟨scalarArithmeticResults, scalarBitResults, scalarCompareMoveAddress⟩

end Sys2Proof.Machine
end
section
/-! For O50: what kills and resumed groups leave of the threads. -/

namespace Sys2Proof.Machine

/-! ### Retirement of any thread, standing in a wait or not -/

theorem Thread.foldIssue_sreg (t : Thread) (opc : Nat) (sig : Option Word) : (t.foldIssue opc sig).sreg = t.sreg := by
  unfold Thread.foldIssue Thread.setSig Thread.foldOpc
  split <;> split_ifs <;> rfl

/-- The end of a form's issue, where its thread stands at `t0` and read its operands at `t`. -/
theorem retire_leaves {opc : Nat} {f : Fields} {s : State} {tid : Nat} {t t0 : Thread} {d : Done} (ht : s.thread tid = some t0)
    (fit : t.fits d.writes = true) : ∃ t', (retire opc f s tid t d).thread tid = some t' ∧ t'.pc = d.pc.getD (nextPc t.pc) ∧
      t'.blk = none ∧ (∀ n, ngetD t'.sreg n 0 = scalarAfter d.writes n (ngetD t0.sreg n 0)) ∧
      ∀ j, j ≠ tid → (retire opc f s tid t d).thread j = s.thread j := by
  obtain ⟨t1, wrote⟩ := applyWrites_wrote d.lat tid d.writes s t0 ht
  unfold retire
  simp only [fit, if_true, State.thread_modThread, wrote.thread, Option.map_some]
  refine ⟨_, rfl, rfl, rfl, fun n => ?_, fun j hj => (if_neg hj).trans (wrote.others j hj)⟩
  rw [← wrote.scalar n, ← t1.foldIssue_sreg opc d.sig]
  rfl

theorem retire_null_wgs (opc : Nat) (f : Fields) (s : State) (tid : Nat) (t : Thread) : (retire opc f s tid t {}).wgs = s.wgs := by
  rw [retire, if_pos (Thread.fits_of_newNames t _ rfl)]
  rfl

/-! ### A group that goes on (R397, R413) -/

/-- Held commands go on: no thread, byte or w register changes. -/
structure EnginesGoOn (s u : State) : Prop where
  thr : u.thr = s.thr
  mem : u.mem = s.mem
  cyc : u.cyc = s.cyc
  wregs : ∀ w, (u.wg w).map (·.w) = (s.wg w).map (·.w)

theorem goOn_enginesGoOn (s : State) (tid : Nat) : EnginesGoOn s (goOn s tid) := by
  unfold goOn
  split
  · exact ⟨rfl, rfl, rfl, fun _ => rfl⟩
  · split_ifs
    · exact ⟨rfl, rfl, rfl, fun _ => rfl⟩
    · refine ⟨rfl, rfl, rfl, fun w => ?_⟩
      refine (congrArg (Option.map _) (State.wg_modWg ..)).trans ?_
      split_ifs with same
      · rw [same, Option.map_map]; rfl
      · rfl

/-- A group with no access in its log leaves the frozen state. -/
theorem unfreeze_eq {g : Thread} (log : g.log = []) (now : Nat) : unfreeze g now =
    { g with fz := none, gen := (g.gen + 1) % 65536, wdSince := now, readySince := now, swaps := 0, overdue := none, early := [] } := by
  unfold unfreeze
  dsimp only
  split_ifs <;> simp [log]

/-- A group that is held with no other one, outside brumation, runs on alone. -/
theorem resumeGroup_alone {s : State} {gid : Nat} {g : Thread} {z : Freeze} (hg : s.thread gid = some g) (fz : g.fz = some z)
    (free : z.tied = none) (alone : ∀ p ∈ s.thr, (p.2.fz.bind (·.tied)) ≠ some gid) (runs : s.halting g.ctx = false) :
    resumeGroup s gid = runOn s gid g := by
  have none' : (s.thr.filter fun p => (p.2.fz.bind (·.tied)) = some gid) = [] :=
    List.filter_eq_nil_iff.2 fun p hp => by simpa using alone p hp
  simp only [resumeGroup, none', List.map_nil, List.foldl_nil, ite_self, resumeOne, hg, fz, free, Option.isSome_none, runs,
    Bool.false_eq_true, if_false]

theorem runOn_enginesGoOn (s : State) (gid : Nat) (g : Thread) :
    EnginesGoOn (s.setThread gid (unfreeze g s.cyc)) (runOn s gid g) := goOn_enginesGoOn _ _

theorem runOn_thread (s : State) (gid : Nat) (g : Thread) (j : Nat) :
    (runOn s gid g).thread j = if j = gid then some (unfreeze g s.cyc) else s.thread j := by
  rw [State.thread, (runOn_enginesGoOn s gid g).thr]
  exact State.thread_setThread ..

/-- Group `gid`, frozen as `g`, goes on at its resume PC with its registers and masks as they were. -/
def Resumed (g : Thread) (gid : Nat) (u : State) : Prop :=
  ∃ g', u.thread gid = some g' ∧ g'.fz = none ∧ g'.gen = (g.gen + 1) % 65536 ∧ g'.pc = g.pc ∧ g'.exm = g.exm ∧
    g'.vmap = g.vmap ∧ g'.sreg = g.sreg ∧ g'.place = g.place

theorem resumed_of_thread {g : Thread} (log : g.log = []) {gid now : Nat} {u : State} (h : u.thread gid = some (unfreeze g now)) :
    Resumed g gid u := by
  rw [unfreeze_eq log] at h
  exact ⟨_, h, rfl, rfl, rfl, rfl, rfl, rfl, rfl⟩

theorem aliveLanes_unfreeze {g : Thread} (log : g.log = []) (now : Nat) : (unfreeze g now).aliveLanes = g.aliveLanes := by
  rw [unfreeze_eq log]
  rfl

/-- A resumed group that keeps a launched lane has not exited. -/
theorem endIfResumed_of_alive {s : State} {gid : Nat} {t : Thread} (h : s.thread gid = some t) (alive : t.aliveLanes ≠ 0) :
    endIfResumed s gid = s := by
  unfold endIfResumed
  split_ifs
  · exact endIfEmpty_of_alive h alive
  · rfl

/-! ### The end of a tadpole (R400) -/

theorem endTadpole_thr {s : State} {tid : Nat} {t : Thread} (ht : s.thread tid = some t) (new : t.blk = none) :
    (endTadpole s tid).thr = nerase s.thr tid := by
  simp only [endTadpole, ht, new]
  rfl

/-- The end of a tadpole that is making no step removes it and no other thread. -/
theorem endTadpole_thread {s : State} {tid : Nat} {t : Thread} (ht : s.thread tid = some t) (new : t.blk = none) (j : Nat) :
    (endTadpole s tid).thread j = if j = tid then none else s.thread j := by
  rw [State.thread, endTadpole_thr ht new, nget_nerase]
  rfl

/-- The end of a tadpole after a change of another thread. -/
theorem endTadpole_modThread {s : State} {tid gid : Nat} {t g : Thread} (ht : s.thread tid = some t) (new : t.blk = none)
    (hg : s.thread gid = some g) (other : gid ≠ tid) (k : Thread → Thread) :
    (endTadpole (s.modThread gid k) tid).thread tid = none ∧ (endTadpole (s.modThread gid k) tid).thread gid = some (k g) := by
  have ends := endTadpole_thread ((State.thread_modThread s gid k tid).trans ((if_neg other.symm).trans ht)) new
  rw [ends, ends, if_pos rfl, if_neg other, State.thread_modThread, if_pos rfl, hg]
  exact ⟨rfl, rfl⟩

/-! ### Kills (R413) -/

/-- A group as the kill of its workgroup leaves it. -/
def Thread.killed (t : Thread) : Thread :=
  { t.finish with vmap := [], log := t.log.filter (·.state ≠ 1), fOpen := [], ffail := none, openOps := [], batches := [] }

/-- The groups named by a list, killed. -/
def killedThreads (m : NMap Thread) (l : List Nat) : NMap Thread := l.foldl (fun m tid => nmod m tid Thread.killed) m

theorem killWg_thr {s : State} {w : Nat} {g : Wg} (hg : s.wg w = some g) (alive : g.killed = false) :
    (killWg s w).thr = killedThreads s.thr g.groups := by
  unfold killWg
  simp only [hg, alive, Bool.false_eq_true, if_false]
  split_ifs <;>
  · refine Eq.trans (b := (List.foldl _ s g.groups).thr) rfl ?_
    exact (List.foldl_hom State.thr fun _ _ => rfl).symm

theorem nget_killedThreads_of_not_mem {tid : Nat} {l : List Nat} (out : tid ∉ l) (m : NMap Thread) :
    nget (killedThreads m l) tid = nget m tid := by
  refine List.foldlRecOn (motive := fun u => nget u tid = nget m tid) _ _ rfl fun u same j hj => ?_
  have other : tid ≠ j := fun here => out (here ▸ hj)
  exact (nget_nmod_ne _ _ _ _ other).trans same

theorem nget_killedThreads_of_mem {tid : Nat} (l : List Nat) {m : NMap Thread} {t : Thread} (ht : nget m tid = some t)
    (dies : tid ∈ l ∨ t.place = .exited ∧ t.fz = none) :
    ∃ t', nget (killedThreads m l) tid = some t' ∧ t'.place = .exited ∧ t'.fz = none := by
  induction l generalizing m t with
  | nil => exact ⟨t, ht, dies.resolve_left List.not_mem_nil⟩
  | cons j r ih =>
    by_cases here : tid = j
    · exact ih (t := t.killed) (by rw [nget_nmod, if_pos here, ← here, ht]; rfl) (.inr ⟨rfl, rfl⟩)
    · exact ih ((nget_nmod_ne _ _ _ _ here).trans ht) (dies.imp_left fun member => (List.mem_cons.1 member).resolve_left here)

/-- Thread `tid` stands, and is of no context `c`. -/
def StandsOutside (m : NMap Thread) (tid c : Nat) : Prop := (nget m tid).isSome = true ∧ ∀ p ∈ m, p.1 = tid → p.2.ctx ≠ c

theorem mem_nset {α : Type} {m : NMap α} {k : Nat} {v : α} {p : Nat × α} (h : p ∈ nset m k v) : p = (k, v) ∨ p ∈ m := by
  induction m with
  | nil => exact .inl (List.mem_singleton.1 h)
  | cons q r ih =>
    simp only [nset] at h
    split_ifs at h
    · exact List.mem_cons.1 h
    · exact (List.mem_cons.1 h).imp_right (List.mem_cons_of_mem q)
    · rcases List.mem_cons.1 h with rfl | later
      · exact .inr List.mem_cons_self
      · exact (ih later).imp_right (List.mem_cons_of_mem q)

section
variable {m : NMap Thread} {tid c : Nat} (stands : StandsOutside m tid c)
include stands

theorem StandsOutside.nmod (j : Nat) {g : Thread → Thread} (keeps : ∀ t, (g t).ctx = t.ctx) : StandsOutside (nmod m j g) tid c := by
  obtain ⟨some', outside⟩ := stands
  constructor
  · rw [nget_nmod]
    split_ifs with here
    · rw [Option.isSome_map, ← here, some']
    · exact some'
  · unfold Sys2Proof.nmod
    cases hj : nget m j with
    | none => exact outside
    | some t =>
      rintro p hp rfl
      rcases mem_nset hp with rfl | old
      · exact keeps t ▸ outside (_, t) (mem_of_nget hj) rfl
      · exact outside p old rfl

theorem StandsOutside.nerase {j : Nat} (other : j ≠ tid) : StandsOutside (nerase m j) tid c := by
  refine ⟨?_, fun p hp => stands.2 p (List.mem_filter.1 hp).1⟩
  rw [nget_nerase, if_neg other.symm]
  exact stands.1

end

theorem killWg_standsOutside {s : State} {tid c : Nat} (stands : StandsOutside s.thr tid c) (w : Nat) :
    StandsOutside (killWg s w).thr tid c := by
  by_cases dead : ∀ g, s.wg w = some g → g.killed = true
  · rwa [killWg_of_killed dead]
  · push Not at dead
    obtain ⟨g, hg, alive⟩ := dead
    rw [killWg_thr hg (Bool.eq_false_iff.2 alive)]
    exact List.foldlRecOn (motive := fun u => StandsOutside u tid c) _ _ stands fun u ih j _ => ih.nmod j fun _ => rfl

theorem endTadpole_standsOutside {s : State} {tid c : Nat} (stands : StandsOutside s.thr tid c) {j : Nat} (other : j ≠ tid) :
    StandsOutside (endTadpole s j).thr tid c := by
  unfold endTadpole
  split
  · exact stands
  · refine StandsOutside.nerase ?_ other
    split
    · split_ifs
      · exact stands.nmod _ fun _ => rfl
      · exact stands
    · exact stands

/-- The kill of a context leaves a thread of another one where it stands. -/
theorem killCtx_spares {s : State} {tid c : Nat} (stands : StandsOutside s.thr tid c) : ∃ t, (killCtx s c).thread tid = some t := by
  suffices standing : StandsOutside (killCtx s c).thr tid c from Option.isSome_iff_exists.1 standing.1
  let ws := (s.wgs.filter fun p => p.2.ctx = c).map (·.1)
  let u := ws.foldl killWg s
  have groups : StandsOutside u.thr tid c :=
    List.foldlRecOn (motive := fun u : State => StandsOutside u.thr tid c) _ _ stands fun _ ih w _ => killWg_standsOutside ih w
  have others : ∀ j ∈ (u.thr.filter fun p => p.2.ctx = c && !p.2.isGroup).map (·.1), j ≠ tid := by
    intro j hj here
    obtain ⟨p, hp, rfl⟩ := List.mem_map.1 hj
    obtain ⟨member, of⟩ := List.mem_filter.1 hp
    exact groups.2 p member here (of_decide_eq_true (Bool.and_eq_true_iff.1 of).1)
  exact List.foldlRecOn (motive := fun u : State => StandsOutside u.thr tid c) _ _ groups
    fun _ ih j hj => endTadpole_standsOutside ih (others j hj)

end Sys2Proof.Machine
end

section
/-! For O50: FZRES, FZKILL and HRET (R111, R397, R405, R413). -/

namespace Sys2Proof.Machine

/-- A form on a frozen group that no other one is stepping acts on it. -/
theorem trpForm_runs {opc : Nat} {f : Fields} {s : State} {tid gid : Nat} {t g : Thread} (h : Issues s tid t opc f)
    (live : t.live f ≠ 0) (cap : findCap s t (uniVal s tid t f.a.toNat) = .ok (gid, g)) (free : g.stepping = 0)
    (body : State → Nat → Thread → Nat → Thread → State) : trpForm opc f s body = .next (body s tid t gid g) := by
  simp only [trpForm, issue_runs h, live, if_false, capArg, cap, free, ne_eq, not_true_eq_false]

section
variable {f : Fields} {s : State} {tid gid : Nat} {t g : Thread} {z : Freeze}

/-! ### FZRES -/

theorem exec_fzres_runs (h : Issues s tid t 0x2C7 f) (live : t.live f ≠ 0) (quiet : t.quiet = true)
    (cap : findCap s t (uniVal s tid t f.a.toNat) = .ok (gid, g)) (free : g.stepping = 0) :
    exec (.fzres f) s = .next (endIfResumed (retire 0x2C7 f (resumeGroup s gid) tid t {}) gid) := by
  rw [exec_fzres, execFzres, trpForm_runs h live cap free]
  simp only [quiet, Bool.not_true, Bool.false_eq_true, if_false]

/-- A form that retires without writes goes on. -/
theorem retire_null_advances (opc : Nat) (f : Fields) (ht : s.thread tid = some t) (new : t.blk = none) :
    ∃ t', Advances s (retire opc f s tid t {}) tid t t' opc f [] := by
  have fit := Thread.fits_of_newNames t [] rfl
  obtain ⟨t', retires⟩ := retire_retires opc f {} ht new fit
  have goes := retires.advances (retire_blk fit retires.thread) (g := id) ⟨_, _, _, _, rfl⟩
  rw [← retire_with (d := {}) fit] at goes
  exact ⟨t', goes⟩

/-- A tadpole's form goes on as well from an earlier state with the same clock, bytes and w registers. -/
theorem Advances.before {s0 s u : State} {t' : Thread} {opc : Nat} {ws : List Write} (a : Advances s u tid t t' opc f ws)
    (tadpole : t.isGroup = false) (mem : s.mem = s0.mem) (cyc : s.cyc = s0.cyc)
    (wregs : (s.wg t.wg).map (·.w) = (s0.wg t.wg).map (·.w)) : Advances s0 u tid t t' opc f ws :=
  { a with
    vector := fun n l hl _ => a.vector n l hl (.inl (by simp [lrNames, tadpole]))
    wregs := by
      have before := congrArg (Option.map (wAfter s.cyc 8 t.barrel tid ws)) wregs
      simp only [Option.map_map] at before
      exact cyc ▸ a.wregs.trans before
    bytes := by rw [← mem]; exact a.bytes }

theorem fzres_resumes (h : Issues s tid t 0x2C7 f) (live : t.live f ≠ 0) (quiet : t.quiet = true) (tadpole : t.isGroup = false)
    (cap : findCap s t (uniVal s tid t f.a.toNat) = .ok (gid, g)) (free : g.stepping = 0) (other : gid ≠ tid)
    (resumes : resumeGroup s gid = runOn s gid g) (log : g.log = []) (alive : g.aliveLanes ≠ 0) :
    ∃ u t', exec (.fzres f) s = .next u ∧ Advances s u tid t t' 0x2C7 f [] ∧ Resumed g gid u := by
  have engines := runOn_enginesGoOn s gid g
  have threads := runOn_thread s gid g
  have ht : (runOn s gid g).thread tid = some t := (threads tid).trans ((if_neg other.symm).trans h.thread)
  obtain ⟨t', goes⟩ := retire_null_advances 0x2C7 f ht h.new
  obtain ⟨-, -, -, -, -, others⟩ := retire_leaves (opc := 0x2C7) (f := f) (d := {}) ht (Thread.fits_of_newNames t _ rfl)
  have hg := (others gid other).trans ((threads gid).trans (if_pos rfl))
  refine ⟨_, t', exec_fzres_runs h live quiet cap free, ?_⟩
  rw [resumes, endIfResumed_of_alive hg (aliveLanes_unfreeze log _ ▸ alive)]
  exact ⟨goes.before tadpole engines.mem engines.cyc (engines.wregs t.wg), resumed_of_thread log hg⟩

/-! ### FZKILL -/

/-- A tadpole's FZKILL of a whole context retires after it. -/
theorem exec_fzkill_context (h : Issues s tid t 0x2C8 f) (live : t.live f ≠ 0) (all : Forms.mo f 0 0 = 1)
    (job : (uniVal s tid t f.a.toNat).getLsbD 32 = false) (cap : findCap s t (uniVal s tid t f.a.toNat) = .ok (gid, g))
    (free : g.stepping = 0) : exec (.fzkill f) s = .next (retire 0x2C8 f (killCtx s g.ctx) tid t {}) := by
  rw [exec_fzkill, execFzkill, issue_runs h]
  simp only [live, if_false, capArg, all, decide_true, job, Bool.and_false, Bool.false_eq_true, cap, free, ne_eq, not_true_eq_false,
    if_true]

/-- So does one by a job capability, which needs no group. -/
theorem exec_fzkill_job (h : Issues s tid t 0x2C8 f) (live : t.live f ≠ 0) (all : Forms.mo f 0 0 = 1)
    (job : (uniVal s tid t f.a.toNat).getLsbD 32 = true) (good : capBad t (uniVal s tid t f.a.toNat) = none) :
    exec (.fzkill f) s = .next (retire 0x2C8 f (killCtx s (bits (uniVal s tid t f.a.toNat) 63 54)) tid t {}) := by
  rw [exec_fzkill, execFzkill, issue_runs h]
  simp only [live, if_false, capArg, all, decide_true, job, Bool.and_true, if_true, good]

theorem exec_fzkill_workgroup (h : Issues s tid t 0x2C8 f) (live : t.live f ≠ 0) (one : Forms.mo f 0 0 = 0)
    (cap : findCap s t (uniVal s tid t f.a.toNat) = .ok (gid, g)) (free : g.stepping = 0) :
    exec (.fzkill f) s = .next (retire 0x2C8 f (killWg s g.wg) tid t {}) := by
  rw [exec_fzkill, execFzkill, issue_runs h]
  simp only [live, if_false, capArg, one, cap, free, ne_eq, not_true_eq_false, Nat.reduceEqDiff, decide_false,
    Bool.false_and, Bool.false_eq_true]

theorem bits_63_54 (x : Word64) : bits x 63 54 = x.toNat / 2 ^ 54 := by
  have small := x.isLt
  simp only [bits, BitVec.extractLsb'_toNat, Nat.shiftRight_eq_div_pow]
  omega

theorem bits_15_0 (x : Word64) : bits x 15 0 = x.toNat % 2 ^ 16 := by
  simp [bits, BitVec.extractLsb'_toNat]

/-- A capability without reserved bits, of the tadpole's own context or used by context 0, does not fail of itself (R405). -/
theorem capBad_eq_none {x : Word64} (reserved : x.toNat % 2 ^ 16 = 0) (context : x.toNat / 2 ^ 54 = t.ctx ∨ t.ctx = 0) :
    capBad t x = none := by
  have allowed : ¬(decide (x.toNat / 2 ^ 54 ≠ t.ctx) && decide (t.ctx ≠ 0)) = true := by
    rcases context with own | zero
    · rw [own]; simp
    · simp [zero]
  rw [capBad, bits_15_0, bits_63_54, if_neg (not_not.2 reserved), if_neg allowed]

/-- After the kill of a context its workgroups are killed, and a tadpole of another context has gone on. -/
theorem retire_killCtx {opc c : Nat} (ht : s.thread tid = some t) (only : ∀ p ∈ s.thr, p.1 = tid → p.2 = t) :
    (∀ w h, s.wg w = some h → h.ctx = c → ∃ h', (retire opc f (killCtx s c) tid t {}).wg w = some h' ∧ h'.killed = true) ∧
      (t.ctx ≠ c → ∃ t', (retire opc f (killCtx s c) tid t {}).thread tid = some t' ∧ t'.pc = nextPc t.pc) := by
  refine ⟨fun w h hw ctx => ?_, fun outside => ?_⟩
  · rw [State.wg, retire_null_wgs, ← ctx]
    exact killCtx_kills hw
  · have stands : StandsOutside s.thr tid c := ⟨Option.isSome_iff_exists.2 ⟨t, ht⟩, fun p hp here => only p hp here ▸ outside⟩
    obtain ⟨t0, spared⟩ := killCtx_spares stands
    obtain ⟨t', thread, pc, -⟩ := retire_leaves (opc := opc) (f := f) (d := {}) spared (Thread.fits_of_newNames t _ rfl)
    exact ⟨t', thread, pc⟩

theorem fzkill_workgroup_kills (h : Issues s tid t 0x2C8 f) (live : t.live f ≠ 0) (one : Forms.mo f 0 0 = 0)
    (cap : findCap s t (uniVal s tid t f.a.toNat) = .ok (gid, g)) (free : g.stepping = 0) (hg : s.thread gid = some g)
    (other : gid ≠ tid) {w : Wg} (hw : s.wg g.wg = some w) (alive : w.killed = false) (spared : tid ∉ w.groups)
    (dies : gid ∈ w.groups) :
    ∃ u t' w' g', exec (.fzkill f) s = .next u ∧ u.thread tid = some t' ∧ t'.pc = nextPc t.pc ∧ u.wg g.wg = some w' ∧
      w'.killed = true ∧ u.thread gid = some g' ∧ g'.place = .exited ∧ g'.fz = none := by
  have thr := killWg_thr hw alive
  have ht : (killWg s g.wg).thread tid = some t := by
    rw [State.thread, thr, nget_killedThreads_of_not_mem spared]; exact h.thread
  obtain ⟨g', dead, place, fz⟩ := nget_killedThreads_of_mem w.groups hg (.inl dies)
  obtain ⟨w', killed, dies'⟩ := killWg_kills hw g.wg
  obtain ⟨t', thread, pc, -, -, others⟩ := retire_leaves (opc := 0x2C8) (f := f) (d := {}) ht (Thread.fits_of_newNames t _ rfl)
  refine ⟨_, t', w', g', exec_fzkill_workgroup h live one cap free, thread, pc, ?_, dies' (.inl rfl), ?_, place, fz⟩
  · rw [State.wg, retire_null_wgs]; exact killed
  · rw [others gid other, State.thread, thr]; exact dead

/-! ### HRET -/

theorem exec_hret_ends (h : Issues s tid t 0x2CA f) (live : t.live f ≠ 0) (quiet : t.quiet = true) (own : ownGroup s t = none) :
    exec (.hret f) s = .next (endTadpole s tid) := by
  rw [exec_hret, execHret, issue_runs h]
  simp only [live, if_false]
  simp [quiet, own]

section
variable (h : Issues s tid t 0x2CA f) (live : t.live f ≠ 0) (quiet : t.quiet = true) (own : ownGroup s t = some gid)
  (hg : s.thread gid = some g) (free : g.stepping = 0)
include h live quiet own hg free

theorem exec_hret_holds (hold : Forms.mo f 0 0 = 1) : exec (.hret f) s = .next (endTadpole (s.modThread gid fun u =>
    { u with fz := u.fz.map (fun z => { z with hold := true }),
             place := if u.place = .active && pendingRoom s u.cu u.barrel then .pending else u.place }) tid) := by
  rw [exec_hret, execHret, issue_runs h]
  simp only [live, if_false, quiet, own, Option.bind_some, hg, free, hold, if_true, Option.any_some, ne_eq, not_true_eq_false,
    decide_false, Bool.not_true, Bool.or_false, Bool.false_eq_true]

theorem exec_hret_faults (goes : Forms.mo f 0 0 = 0) {x : Trap} (bad : resumeTrap g.pc = some x) :
    exec (.hret f) s = .next (takeFault s tid x t.pc) := by
  rw [exec_hret, execHret, issue_runs h]
  simp only [live, if_false]
  simp [quiet, own, hg, free, goes, bad]

theorem exec_hret_resumes (goes : Forms.mo f 0 0 = 0) (good : resumeTrap g.pc = none) :
    exec (.hret f) s = .next (endIfResumed (endTadpole (resumeGroup s gid) tid) gid) := by
  rw [exec_hret, execHret, issue_runs h]
  simp only [live, if_false]
  simp [quiet, own, hg, free, goes, good]

end

/-- HRET resumes the tadpole's own group and removes the tadpole. -/
theorem hret_resumes (h : Issues s tid t 0x2CA f) (live : t.live f ≠ 0) (quiet : t.quiet = true) (own : ownGroup s t = some gid)
    (hg : s.thread gid = some g) (free : g.stepping = 0) (other : gid ≠ tid) (goes : Forms.mo f 0 0 = 0) (good : resumeTrap g.pc = none)
    (resumes : resumeGroup s gid = runOn s gid g) (log : g.log = []) (alive : g.aliveLanes ≠ 0) :
    ∃ u, exec (.hret f) s = .next u ∧ u.thread tid = none ∧ Resumed g gid u := by
  have threads := runOn_thread s gid g
  have ht : (runOn s gid g).thread tid = some t := (threads tid).trans ((if_neg other.symm).trans h.thread)
  have ends := endTadpole_thread ht h.new
  have hg' := (ends gid).trans ((if_neg other).trans ((threads gid).trans (if_pos rfl)))
  refine ⟨_, exec_hret_resumes h live quiet own hg free goes good, ?_⟩
  rw [resumes, endIfResumed_of_alive hg' (aliveLanes_unfreeze log _ ▸ alive)]
  exact ⟨(ends tid).trans (if_pos rfl), resumed_of_thread log hg'⟩

theorem frozenGroupsGoOnOrEnd : Claims.FrozenGroupsGoOnOrEnd := by
  unfold Claims.FrozenGroupsGoOnOrEnd
  intro f s tid t g gid z tadpole live other quiet hg group fz untied log alive free alone runs resumed job cap kills
  have resumes := resumeGroup_alone hg fz untied alone runs
  have killed : ∀ {c}, Issues s tid t 0x2C8 f → exec (.fzkill f) s = .next (retire 0x2C8 f (killCtx s c) tid t {}) → kills c :=
    fun h ran only => ⟨_, ran, retire_killCtx h.thread only⟩
  refine ⟨fun ok h => fzres_resumes h live quiet tadpole ok free other resumes log alive,
    fun ok h all noJob => killed h (exec_fzkill_context h live all noJob ok free), fun h all isJob reserved context => killed h ?_,
    fun w ok h one hw up spared dies => fzkill_workgroup_kills h live one ok free hg other hw up spared dies,
    fun own h goes slot high => ?_, fun own h goes slot => ?_, fun own h goes slot high => ?_, fun own h hold => ?_,
    fun own h => exec_hret_ends h live quiet own⟩
  · rw [← bits_63_54]
    exact exec_fzkill_job h live all isJob (capBad_eq_none reserved context)
  · exact hret_resumes h live quiet own hg free other goes (by simp [resumeTrap, slot, high]) resumes log alive
  · exact exec_hret_faults h live quiet own hg free goes (by simp [resumeTrap, slot, targetTrap])
  · exact exec_hret_faults h live quiet own hg free goes (by simp [resumeTrap, slot, high, targetTrap])
  · refine ⟨_, exec_hret_holds h live quiet own hg free hold, ?_⟩
    obtain ⟨gone, changed⟩ := endTadpole_modThread h.thread h.new hg other fun u =>
      { u with fz := u.fz.map (fun z => { z with hold := true }),
               place := if u.place = .active && pendingRoom s u.cu u.barrel then .pending else u.place }
    rw [fz] at changed
    exact ⟨gone, changed⟩

end

end Sys2Proof.Machine
end

section
/-! Settles O50: FZSTEP, with the resumes and kills above (R406, R412). -/

namespace Sys2Proof.Machine

section
variable {f : Fields} {s : State} {tid gid : Nat} {t g : Thread}

/-! ### An instruction that stands in a wait -/

/-- A form that stands in a wait runs at its next turn as at its first. -/
theorem issue_runs_standing {opc : Nat} (turn : s.env.cur = some tid) (ht : s.thread tid = some t) (ready' : ready s tid t opc f = true)
    (body : State → Nat → Thread → State) : issue opc f s body = .next (body s tid t) := by
  simp only [issue, turn, ht, ready', if_true]

/-- A form that comes to stand in a wait, after a change of another thread, stays at its PC. -/
theorem standIn_modThread (ht : s.thread tid = some t) (hg : s.thread gid = some g) (other : gid ≠ tid) (k : Thread → Thread) (opc : Nat)
    (b : Blk) : ∃ t', (standIn opc (s.modThread gid k) tid b).thread tid = some t' ∧ t'.pc = t.pc ∧ t'.blk = some b ∧
      (standIn opc (s.modThread gid k) tid b).thread gid = some (k g) := by
  have pc : (if t.blk.isSome then t else t.foldOpc opc).pc = t.pc := by
    unfold Thread.foldOpc
    split_ifs <;> rfl
  simp only [standIn, State.thread_modThread, other, other.symm, if_true, if_false, ht, hg, Option.map_some]
  exact ⟨_, rfl, pc, rfl, trivial⟩

/-! ### FZSTEP as it issues -/

section
variable (h : Issues s tid t 0x2C6 f) (live : t.live f ≠ 0) (quiet : t.quiet = true)
  (cap : findCap s t (uniVal s tid t f.a.toNat) = .ok (gid, g))
include h live quiet cap

theorem exec_fzstep_first (free : g.stepping = 0) (log : g.log = []) : exec (.fzstep f) s = .next
    (standIn 0x2C6 (s.modThread gid fun u =>
        { u with stepping := 4, log := u.log.map fun e => if e.state = 1 then e.reissued else e }) tid
      { stage := stepWait, val := gid, aux := 0 }) := by
  rw [exec_fzstep, execFzstep, issue_runs h]
  simp only [h.new, live, if_false]
  simp [quiet, capArg, cap, free, log]

/-- Two steps of one group are made one after the other. -/
theorem exec_fzstep_waits (busy : g.stepping ≠ 0) : Waits (.fzstep f) s tid := by
  rw [Waits, exec_fzstep, execFzstep, issue_runs h]
  simp only [h.new, live, if_false]
  simp [quiet, capArg, cap, busy, trpWait]

end

/-! ### FZSTEP as it waits -/

/-- What the end of FZSTEP makes of the group. -/
def Thread.stepEnded (g : Thread) (status : Nat) : Thread :=
  { g with stepping := 0,
           fz := if status = 0x11 then g.fz.map fun z => { z with fr := { z.fr with cause := BitVec.ofNat 64 cSTEP } } else g.fz }

theorem stepEnd_leaves (ht : s.thread tid = some t) (hg : s.thread gid = some g) (other : gid ≠ tid) (status : Nat) :
    ∃ t', (stepEnd f s tid t gid status).thread tid = some t' ∧ t'.pc = nextPc t.pc ∧ t'.blk = none ∧
      (∀ n, ngetD t'.sreg n 0 = scalarAfter [.uni f.d.toNat (BitVec.ofNat 64 status)] n (ngetD t.sreg n 0)) ∧
      (stepEnd f s tid t gid status).thread gid = some (g.stepEnded status) := by
  have ht' : (s.modThread gid fun u => u.stepEnded status).thread tid = some t := by rw [State.thread_modThread, if_neg other.symm, ht]
  obtain ⟨t', thread, pc, blk, sreg, others⟩ := retire_leaves (opc := 0x2C6) (f := f)
    (d := { writes := [.uni f.d.toNat (BitVec.ofNat 64 status)] }) ht' (fits_uni t _ _)
  have changed : (s.modThread gid fun u => u.stepEnded status).thread gid = some (g.stepEnded status) := by
    rw [State.thread_modThread, if_pos rfl, hg]; rfl
  exact ⟨t', thread, pc, blk, sreg, (others gid other).trans changed⟩

section
variable {b : Blk} (turn : s.env.cur = some tid) (ht : s.thread tid = some t) (ready' : ready s tid t 0x2C6 f = true)
  (blk : t.blk = some b) (val : b.val = gid) (hg : s.thread gid = some g) (active : g.place = .active)
include turn ht ready' blk val hg active

theorem exec_fzstep_issues (log : g.log = []) (stage : b.stage = stepWait) (waits : g.stepping = 4) : exec (.fzstep f) s = .next
    (standIn 0x2C6 (s.modThread gid fun u => { u with stepping := 1, stepSince := s.cyc, stall := 0 }) tid
      { stage := stepRun, val := gid, aux := g.logSeq }) := by
  rw [exec_fzstep, execFzstep, issue_runs_standing turn ht ready']
  simp [blk, val, hg, active, waits, stage, log]

theorem exec_fzstep_expires (stage : b.stage = stepRun) (runs : g.stepping = 1) (late : g.stepSince + 2 ^ 20 ≤ s.cyc) :
    exec (.fzstep f) s = .next (stepEnd f s tid t gid 0xFE) := by
  rw [exec_fzstep, execFzstep, issue_runs_standing turn ht ready']
  simp only [blk, val, hg, late, if_true]
  simp [active, runs, stage, stepRun, stepWait]

theorem exec_fzstep_completes (log : g.log = []) (stage : b.stage = stepRun) (issued : g.stepping = 2) (closed : stepOpen s gid = false) :
    exec (.fzstep f) s = .next (stepEnd f s tid t gid 0x11) := by
  rw [exec_fzstep, execFzstep, issue_runs_standing turn ht ready']
  simp [blk, val, hg, active, issued, stage, log, closed, stepRun, stepWait]

end
end

theorem singleStep : Claims.SingleStep := by
  unfold Claims.SingleStep
  intro f s tid t g gid z tadpole other hg fz active log closed
  refine ⟨fun live quiet free h cap => ?_, fun live quiet busy h cap => exec_fzstep_waits h live quiet cap busy,
    fun b turn ht ready' blk val => ⟨fun stage waits => ?_, fun stage runs late => ?_, fun stage issued => ?_⟩⟩
  · obtain ⟨t', thread, pc, stands, changed⟩ := standIn_modThread h.thread hg other _ 0x2C6 _
    exact ⟨_, t', _, exec_fzstep_first h live quiet cap free log, thread, pc, stands, changed, rfl, rfl⟩
  · obtain ⟨t', thread, pc, stands, changed⟩ := standIn_modThread ht hg other _ 0x2C6 _
    exact ⟨_, t', _, exec_fzstep_issues turn ht ready' blk val hg active log stage waits, thread, pc, stands, changed, rfl⟩
  · obtain ⟨t', thread, pc, -, sreg, changed⟩ := stepEnd_leaves ht hg other 0xFE
    exact ⟨_, t', _, exec_fzstep_expires turn ht ready' blk val hg active stage runs late, thread, pc, sreg, changed, rfl, rfl, fz⟩
  · obtain ⟨t', thread, pc, stands, sreg, changed⟩ := stepEnd_leaves ht hg other 0x11
    refine ⟨_, t', _, exec_fzstep_completes turn ht ready' blk val hg active log stage issued closed, thread, pc, stands, sreg, changed,
      rfl, rfl, ?_⟩
    rw [Thread.stepEnded, if_pos rfl, fz]
    rfl

/-- Settles O50: a resume by the engines that go on with the group, a kill by the threads that it ends, a step by its stages. -/
theorem frozenGroupsEnd : Obligations.FrozenGroupsEnd := ⟨frozenGroupsGoOnOrEnd, singleStep⟩

end Sys2Proof.Machine
end
section
/-! Settles O29: what the floating-point forms write, and the flags that they raise. -/

namespace Sys2Proof.Machine

/-! ### Forms with one 32-bit result (R190 to R193) -/

/-- The form of a row runs the action that writes the row's result and raises its flags. -/
def FloatRow.IsPerLane (r : FloatRow) : Prop := ∀ f s, exec (r.form f) s = issueAct r.opc f s (fpAct f r.srcs (r.res f))

/-- Within the budget, it retires with the results in the lanes of LIVE and the flags of the lanes of EFF. -/
theorem FloatRow.IsPerLane.completes {r : FloatRow} (perLane : r.IsPerLane) (f : Fields) (s : State) (tid : Nat) (t : Thread) :
    Completes r.form r.opc f s tid t (vecWrites f.d.toNat false (t.live f) fun l => (r.lane s tid t f l).1)
      (flags := (lanesOf (t.eff f)).foldl (fun acc l => acc ||| (r.lane s tid t f l).2) 0) :=
  completes_of (fpAct f r.srcs (r.res f)) (perLane f s) rfl

/-- FCLASS reads its operand in the format of its type: F32, F16, or else BF16. -/
theorem exec_fclass_byFormat (f : Fields) (s : State) : exec (.fclass f) s = issueAct 0x0C7 f s (fpAct f 1 fun a _ _ =>
    (if Forms.ty f = 6 then f32.fclass a else (fmtOf (if Forms.ty f = 7 then 7 else 8)).fclass (a % 65536), 0)) := by
  rw [exec_fclass, execFclass]
  congr 2
  funext a _ _
  split
  · next single => rw [if_pos single]
  · next half => rw [half]; rfl
  · next notSingle notHalf => rw [if_neg notSingle, if_neg notHalf]; rfl

theorem singleFloat_isPerLane : ∀ r ∈ singleFloat, r.IsPerLane := by
  simp only [singleFloat, List.forall_mem_cons]
  exact ⟨exec_fadd, exec_fsub, exec_fmul, exec_ffma, exec_fmin, exec_fmax, exec_fclass_byFormat, exec_fdiv, exec_fsqrt, exec_frcp,
    exec_frsq, exec_fexp2, exec_flog2, exec_ftanh, by simp⟩

theorem singleFloatResults : Claims.SingleFloatResults := fun r row => (singleFloat_isPerLane r row).completes

/-! ### Packed forms (R143, R190, R191) -/

/-- A sign flip by a decided condition is one by the condition. -/
theorem negPair_decide (p : Prop) [Decidable p] (x : Nat) : negPair (decide p) x = if p then x ^^^ 0x80008000 else x := by
  simp only [negPair, decide_eq_true_eq]

theorem packedFloat_isPerLane : ∀ r ∈ packedFloat, r.IsPerLane := by
  simp only [packedFloat, List.forall_mem_cons]
  refine ⟨fun f s => ?_, fun f s => ?_, fun f s => ?_, exec_hmax2, exec_hmin2, by simp⟩
  · simp only [exec_hadd2, execHadd2, negPair_decide, packed2]
  · simp only [exec_hmul2, execHmul2, negPair_decide, packed2]
  · simp only [exec_hfma2, execHfma2, negPair_decide, packed2]

theorem packedFloatResults : Claims.PackedFloatResults := fun r row => (packedFloat_isPerLane r row).completes

/-! ### FCMP, CVT, FXCVT and FXTOF (R192, R195, R196) -/

/-- The operands of a two-source form in F32: IMM32 may stand for B. -/
theorem vecSrc_two_of_single {f : Fields} (single : Forms.ty f = 6) (s : State) (tid : Nat) (t : Thread) (l : Nat) :
    vecSrc s tid t f 2 l = ((lane32 s tid t f.a.toNat 0 l).toNat,
      if f.xk then f.x.toNat else (lane32 s tid t f.b.toNat 0 l).toNat, (lane32 s tid t f.c.toNat 0 l).toNat) := by
  rw [vecSrc, single]
  rfl

/-- FXCVT's result is the integer stored in 64 bits, with the flags of the conversion. -/
theorem fxcvt_eq (x scale : Nat) : fxcvt x scale =
    let fixed := floatToInt 0 (-(2 ^ 63 : Nat)) ((2 ^ 63 : Nat) - 1) (f32.val x) scale
    (storeInt 64 true false fixed.1, fixed.2) := rfl

theorem floatCompareAndConvert : Claims.FloatCompareAndConvert := by
  unfold Claims.FloatCompareAndConvert
  intro f s tid t
  refine ⟨fun single => completes_of _ (exec_fcmp f s) ?_, completes_of _ (exec_cvt f s) rfl, completes_of _ (exec_fxcvt f s) ?_,
    completes_of _ (exec_fxtof f s) rfl⟩
  · simp only [vecSrc_two_of_single single]
    rfl
  · simp only [fxcvt_eq]
    rfl

/-- Settles O29: a table's forms by the action that they share, the other four each by its own. -/
theorem floatResults : Obligations.FloatResults := ⟨singleFloatResults, packedFloatResults, floatCompareAndConvert⟩

end Sys2Proof.Machine
end

section
/-! Settles O36: SIGCHK, BKPT and TRAP. -/

namespace Sys2Proof.Machine

/-! ### Triggers of brumation (R425, R427) -/

theorem raiseTrigger_cus (s : State) (c : Nat) (x : Trigger) : (raiseTrigger s c x).cus = s.cus := by
  simp only [raiseTrigger]
  split_ifs <;> rfl

theorem Ctx.halts_beginHalt (k : Ctx) (x : Trigger) : bits (k.beginHalt x).brst 1 0 ≠ 0 := by
  unfold Ctx.beginHalt
  split_ifs with halts
  · exact halts
  · intro none'
    have bit : ((k.brst &&& ~~~3) ||| 1).getLsbD 0 = true := by simp
    have low : ((k.brst &&& ~~~3) ||| 1).extractLsb' 0 2 = 0 := BitVec.eq_of_toNat_eq none'
    have := congrArg (·.getLsbD 0) low
    simp at this

theorem State.ctx_modPart (s : State) (k : Nat) (g : Part → Part) (c : Nat) : (s.modPart k g).ctx c = s.ctx c := rfl

theorem brst_raiseTrigger (s : State) (c : Nat) (x : Trigger) : ((raiseTrigger s c x).ctx c).brst = ((s.ctx c).beginHalt x).brst := by
  have noted : ((noteTrigger s c x).ctx c).brst = ((s.ctx c).beginHalt x).brst := by
    simp only [noteTrigger, State.ctx_modCtx, State.ctx_modPart, if_true]
    exact (apply_ite Ctx.brst _ _ _).trans (ite_self _)
  have kept : (raiseTrigger s c x).ctx c =
      { (noteTrigger s c x).ctx c with trig := (insertTrigger ((noteTrigger s c x).ctx c).trig x).take 8,
                                       trigTotal := min 255 (((noteTrigger s c x).ctx c).trigTotal + 1) } := by
    simp only [raiseTrigger]
    split_ifs <;> simp only [State.ctx_modPart, State.ctx_modCtx, if_true]
  rw [kept, ← noted]

/-- After a trigger a context is halting, whether or not it was before. -/
theorem halting_raiseTrigger (s : State) (c : Nat) (x : Trigger) : (raiseTrigger s c x).halting c = true := by
  rw [State.halting, brst_raiseTrigger, decide_eq_true_eq]
  exact Ctx.halts_beginHalt _ x

/-! ### The tadpole of a fault, and the halt that it may bring (R398, R400, R425) -/

theorem mem_insertSpawn (l : List Spawn) (q : Spawn) : q ∈ insertSpawn l q := by
  induction l with
  | nil => exact List.mem_singleton_self q
  | cons y r ih =>
    rw [insertSpawn]
    split_ifs
    · exact List.mem_cons_self
    · exact List.mem_cons_of_mem y ih

/-- A fault of a group queues a tadpole for it on its CU. -/
theorem mem_queueSpawn {s : State} {t : Thread} (group : t.isGroup = true) (sysent : (s.ctx t.ctx).sysent ≠ 0) (tid : Nat) (fr : FaultRec)
    (sys imp : Bool) (ocause : Nat) : ∃ q ∈ ((queueSpawn s tid t fr sys false false imp ocause).cu t.cu).spawnq,
      q.tid = tid ∧ q.fr = fr ∧ q.ctx = t.ctx := by
  unfold queueSpawn
  simp only [sysent, decide_false, Bool.and_false, Bool.false_eq_true, if_false, State.cu_modCu, if_true]
  exact ⟨_, mem_insertSpawn _ _, by simp [group]⟩

/-- A fault of a thread is a trigger of brumation: BKPT, and the causes that HALTM of its launch selects. -/
def State.triggers (s : State) (t : Thread) (cause : Nat) : Bool :=
  decide (cause = cBKPT) || Nat.testBit (((s.launchOf t).map (·.lr.haltm)).getD 0) cause

section
variable {s : State} {tid : Nat} {t : Thread} {x : Trap} (resume : Word64) (ht : s.thread tid = some t) (group : t.isGroup = true)
  (step : t.stepping = 0) (cause : x.cause ≠ cMISAL) (sysent : (s.ctx t.ctx).sysent ≠ 0)
include ht group step cause sysent

theorem mem_spawnq_takeFault : ∃ q ∈ ((takeFault s tid x resume).cu t.cu).spawnq, q.tid = tid ∧ q.fr = faultRec s t x ∧ q.ctx = t.ctx := by
  have queued := mem_queueSpawn (s := s.setThread tid (t.frozenBy x (faultRec s t x) resume)) group sysent tid (faultRec s t x)
    (decide (x.cause = cDIEL)) x.imp 0
  simp only [takeFault_running resume ht (by simpa [Thread.isGroup] using group) step cause]
  split_ifs
  · rw [State.cu, raiseTrigger_cus]
    exact queued
  · exact queued

theorem halting_takeFault : (takeFault s tid x resume).halting t.ctx =
    (s.halting t.ctx || s.triggers t x.cause) := by
  obtain ⟨g, queued⟩ := queueSpawn_modCu (s := s.setThread tid (t.frozenBy x (faultRec s t x) resume)) sysent tid (faultRec s t x)
    (decide (x.cause = cDIEL)) false false x.imp 0
  simp only [takeFault_running resume ht (by simpa [Thread.isGroup] using group) step cause, queued]
  split_ifs with halts
  · rw [show s.triggers t x.cause = true from halts, Bool.or_true, halting_raiseTrigger]
  · rw [show s.triggers t x.cause = false from Bool.eq_false_iff.2 halts, Bool.or_false]
    rfl

end

/-! ### A form that retires and then faults (R178, R396) -/

/-- A form whose fault resumes at the next instruction has retired when it takes it. -/
theorem actOn_trapNext (opc : Nat) (f : Fields) (s : State) (tid : Nat) (t : Thread) (x : Trap) : actOn opc f s tid t (.trapNext x) =
    takeFault (retire opc f s tid t {}) tid { x with fpc := some (x.fpc.getD t.pc) } (nextPc t.pc) := by
  rw [retire, if_pos (Thread.fits_of_newNames t _ rfl)]
  rfl

section
variable {s u : State} {tid : Nat} {t t' : Thread} {opc : Nat} {f : Fields} {d : Done}

theorem Retires.ctx (r : Retires s u tid t t' opc f d) (c : Nat) : u.ctx c = s.ctx c := by rw [r.state]; rfl
theorem Retires.launchOf (r : Retires s u tid t t' opc f d) (t0 : Thread) : u.launchOf t0 = s.launchOf t0 := by rw [r.state]; rfl
theorem Retires.mem (r : Retires s u tid t t' opc f d) : u.mem = s.mem := by rw [r.state]

/-- What `Retires` says of a field that no form writes. -/
theorem Retires.same {α : Type} (r : Retires s u tid t t' opc f d) (k : Thread → α) (framed : ∀ x : Thread, k x.frame = k x) :
    k t' = k t := by
  rw [← framed t', r.frame, framed]

/-- What a group's fault leaves that it takes with the next instruction as its resume point, after its form has retired. -/
structure FreezesAtNext (s v : State) (tid : Nat) (t : Thread) (x : Trap) (t' : Thread) (z : Freeze) : Prop where
  thread : v.thread tid = some t'
  pc : t'.pc = nextPc t.pc
  exm : t'.exm = t.exm
  frozen : t'.fz = some z
  byFault : z.byFault = true
  imp : z.imp = x.imp
  cause : z.fr.cause = BitVec.ofNat 64 x.cause
  syn : z.fr.syn = x.syn
  opd0 : z.fr.opd0 = x.opd0
  lanes : z.fr.lanes = x.lanes
  fpc : z.fr.fpc = t.pc
  mem : v.mem = s.mem
  queued : ∃ q ∈ (v.cu t.cu).spawnq, q.tid = tid ∧ q.fr = z.fr ∧ q.ctx = t.ctx
  halting : v.halting t.ctx =
    (s.halting t.ctx || s.triggers t x.cause)

theorem Retires.freezesAtNext (r : Retires s u tid t t' opc f d) (group : t.isGroup = true) (step : t'.stepping = 0)
    (sysent : (s.ctx t.ctx).sysent ≠ 0) {x : Trap} (cause : x.cause ≠ cMISAL) (fpc : x.fpc = some t.pc) :
    ∃ z, FreezesAtNext s (takeFault u tid x (nextPc t.pc)) tid t x (t'.frozenBy x (faultRec u t' x) (nextPc t.pc)) z := by
  have group' : t'.isGroup = true := (r.same (·.isGroup) fun _ => rfl).trans group
  have ctx : t'.ctx = t.ctx := r.same (·.ctx) fun _ => rfl
  have cu : t'.cu = t.cu := r.same (·.cu) fun _ => rfl
  have launch : t'.launch = t.launch := r.same (·.launch) fun _ => rfl
  have sysent' : (u.ctx t'.ctx).sysent ≠ 0 := by rwa [r.ctx, ctx]
  obtain ⟨thr, -, mem⟩ :=
    takeFault_group (nextPc t.pc) r.thread (by simpa [Thread.isGroup] using group') step cause sysent'
  have queued := mem_spawnq_takeFault (nextPc t.pc) r.thread group' step cause sysent'
  have halting := halting_takeFault (nextPc t.pc) r.thread group' step cause sysent'
  refine ⟨_, ?_, rfl, r.same (·.exm) fun _ => rfl, rfl, rfl, rfl, rfl, rfl, rfl, rfl, ?_,
    mem.trans r.mem, ?_, ?_⟩
  · rw [State.thread, thr, nget_nset_self]
  · rw [faultRec, fpc]
    rfl
  · rw [← cu, ← ctx]
    exact queued
  · rw [← ctx, halting, State.triggers, State.launchOf, launch, ← State.launchOf, r.launchOf, State.halting, r.ctx]
    rfl

end

/-! ### SIGCHK (R176) -/

section
variable {f : Fields} {s : State} {tid : Nat} {t : Thread} (h : Issues s tid t 0x011 f)
include h

theorem exec_sigchk_never (never : neverGuard f = true) : exec (.sigchk f) s = .next (retire 0x011 f s tid t {}) := by
  rw [exec_sigchk, execSigchk, issue_runs h, if_pos never]

/-- The retirement of a checking SIGCHK is a reset point of the signature (R175). -/
def sigchkDone : Done := { sig := some sigReset }

theorem exec_sigchk_passes (checks : neverGuard f = false) (good : t.sig = f.x) : exec (.sigchk f) s =
    .next ((retire 0x011 f s tid t sigchkDone).modThread tid fun u => { u with nchk := u.nchk + 1 }) := by
  rw [exec_sigchk, execSigchk, issue_runs h, ← retire_with (Thread.fits_of_newNames t _ rfl)]
  simp only [checks, good, if_true, Bool.false_eq_true, if_false]
  rfl

/-- The fault of a signature that does not match. -/
def sigfTrap (f : Fields) (t : Thread) : Trap :=
  { cause := cSIGF, syn := t.sig.setWidth 64, opd0 := f.x.setWidth 64, unit := some (funit 4 t.barrel), fpc := some t.pc }

theorem exec_sigchk_fails (checks : neverGuard f = false) (bad : t.sig ≠ f.x) : exec (.sigchk f) s =
    .next (takeFault (retire 0x011 f s tid t sigchkDone) tid (sigfTrap f t) (nextPc t.pc)) := by
  rw [exec_sigchk, execSigchk, issue_runs h]
  simp only [checks, bad, if_false, Bool.false_eq_true]
  rfl

end

theorem signatureCheck : Claims.SignatureCheck := by
  intro f s tid t h group
  have fit : t.fits [] = true := Thread.fits_of_newNames t [] rfl
  refine ⟨fun never => ?_, fun checks good => ?_, fun checks bad step sysent => ?_⟩
  · obtain ⟨t', r⟩ := retire_retires 0x011 f {} h.thread h.new fit
    exact ⟨_, t', exec_sigchk_never h never, r.thread, r.pc, r.same (·.nchk) fun _ => rfl, r.same (·.fz) fun _ => rfl,
      r.same (·.exm) fun _ => rfl, r.mem⟩
  · obtain ⟨t', r⟩ := retire_retires 0x011 f sigchkDone h.thread h.new fit
    refine ⟨_, { t' with nchk := t'.nchk + 1 }, exec_sigchk_passes h checks good, ?_, r.pc, ?_, r.sig.trans (if_pos group),
      r.same (·.fz) fun _ => rfl, r.same (·.exm) fun _ => rfl, r.mem⟩
    · rw [State.thread_modThread, if_pos rfl, r.thread]
      rfl
    · exact congrArg (· + 1) (r.same (·.nchk) fun _ => rfl)
  · obtain ⟨t', r⟩ := retire_retires 0x011 f sigchkDone h.thread h.new fit
    obtain ⟨z, frozen⟩ := r.freezesAtNext (x := sigfTrap f t) group (retire_stepping fit step r.thread) sysent
      (show cSIGF ≠ cMISAL by decide) rfl
    refine ⟨_, _, z, exec_sigchk_fails h checks bad, frozen.thread, frozen.pc, r.sig.trans (if_pos group), frozen.frozen,
      frozen.byFault, frozen.imp, frozen.cause, frozen.syn, frozen.opd0, frozen.fpc, fun l launch runs => ?_⟩
    rw [frozen.halting, runs, State.triggers, launch]
    rfl

/-! ### BKPT and TRAP (R178) -/

/-- The fault of BKPT or TRAP. -/
def softTrapOf (cause : Nat) (f : Fields) (t : Thread) : Trap :=
  { cause := cause, syn := BitVec.ofNat 64 (Forms.ex f 15 0), lanes := (t.live f).setWidth 64, fpc := some t.pc }

/-- A form that raises what BKPT and TRAP raise freezes its group at the next instruction. -/
theorem softTrap_freezes {opc cause : Nat} {f : Fields} {s : State} {tid : Nat} {t : Thread} (h : Issues s tid t opc f)
    (group : t.isGroup = true) (live : t.live f ≠ 0) (step : t.stepping = 0) (sysent : (s.ctx t.ctx).sysent ≠ 0)
    (other : cause ≠ cMISAL) {i : Instr} (runs : exec i s = issueAct opc f s fun _ _ t => softTrap cause f t) :
    ∃ v t' z, exec i s = .next v ∧ FreezesAtNext s v tid t (softTrapOf cause f t) t' z := by
  have fit : t.fits [] = true := Thread.fits_of_newNames t [] rfl
  obtain ⟨t', r⟩ := retire_retires opc f {} h.thread h.new fit
  obtain ⟨z, frozen⟩ := r.freezesAtNext (x := softTrapOf cause f t) group (retire_stepping fit step r.thread) sysent other rfl
  refine ⟨_, _, z, ?_, frozen⟩
  rw [runs, issueAct, issue_runs h, softTrap, if_neg live, actOn_trapNext]
  rfl

theorem breakpointAndTrapFreeze : Claims.BreakpointAndTrapFreeze := by
  intro f s tid t group live step sysent freezes
  have freezes_of : ∀ {i : Instr} {cause : Nat},
      (∃ v t' z, exec i s = .next v ∧ FreezesAtNext s v tid t (softTrapOf cause f t) t' z) → freezes i cause := by
    rintro i cause ⟨v, t', z, ran, frozen⟩
    obtain ⟨q, queued, taker, record, ctx⟩ := frozen.queued
    exact ⟨v, t', z, q, ran, frozen.thread, frozen.pc, frozen.frozen, frozen.byFault, frozen.cause, frozen.syn, frozen.lanes,
      frozen.fpc, frozen.exm, frozen.mem, queued, taker, record, ctx⟩
  exact ⟨fun h => freezes_of (softTrap_freezes h group live step sysent (show cBKPT ≠ cMISAL by decide) (exec_bkpt f s)),
    fun h => freezes_of (softTrap_freezes h group live step sysent (show cTRAP ≠ cMISAL by decide) (exec_trap f s))⟩

/-- Settles O36: the forms retire, and a fault of theirs freezes the group as they leave it. -/
theorem signatureAndTraps : Obligations.SignatureAndTraps := ⟨signatureCheck, breakpointAndTrapFreeze⟩

end Sys2Proof.Machine
end

section
/-! For O42 and O45: forms that enter a command for an engine: their release action, and what they leave of their group. -/

namespace Sys2Proof.Machine

/-! ### Registrations (R32, R266) -/

/-- A registration changes the list of registrations alone. -/
theorem register_eq (s : State) (r : Reg32) : ∃ l, register s r = { s with mem := { s.mem with regs := l } } := by
  unfold register
  split_ifs
  · exact ⟨s.mem.regs, rfl⟩
  · exact ⟨_, rfl⟩

section
variable {opc : Nat} {f : Fields} {s : State} {tid : Nat} {t : Thread}

/-! ### The release action of a form at its PC (R88) -/

/-- What a form's release action leaves when nothing is left to do: the record of it in the form's own thread. -/
structure Released (s u : State) (tid : Nat) (t : Thread) : Prop where
  thread : ∃ wb, u.thread tid = some { t with wb := wb }
  others : ∀ j, j ≠ tid → u.thread j = s.thread j
  rest : u = { s with thr := u.thr }

theorem Released.refl (ht : s.thread tid = some t) : Released s s tid t := ⟨⟨t.wb, ht⟩, fun _ _ => rfl, rfl⟩

/-- Where nothing is left to do, the release action of a form with or without that order is done at once. -/
theorem releaseAtPc_of_done (ht : s.thread tid = some t) (done : ReleaseDone f s t) :
    ∃ u, (if accOrder f = 2 then releaseAtPc s tid t (accScope f) else (s, true)) = (u, true) ∧ Released s u tid t := by
  by_cases order : accOrder f = 2
  · obtain ⟨log, wb, clean, fabric⟩ := done order
    have work : releaseWork s t.cu (accScope f) t.wb = (s, []) := by
      unfold releaseWork
      split_ifs
      · rfl
      · simp [wb, clean, flushAll]
    refine ⟨s.modThread tid fun u => { u with wb := some [] }, ?_, ⟨some [], ?_⟩, fun j hj => ?_, rfl⟩
    · rw [if_pos order]
      simp [releaseAtPc, log, work, fabric]
    · rw [State.thread_modThread, if_pos rfl, ht]
      rfl
    · rw [State.thread_modThread, if_neg hj]
  · exact ⟨s, if_neg order, .refl ht⟩

/-! ### Operand words that a form has read (R261, R328) -/

/-- A form's checks are made as it reads its operand words; while it waits with them they are not made again. -/
theorem checks_passed {α : Type} {x : Option α} (good : t.ops ≠ [] ∨ x = none) : (if t.ops.isEmpty then x else none) = none := by
  rcases good with waited | none'
  · rw [if_neg (by simpa using waited)]
  · rw [none', ite_self]

/-! ### A form that goes on from a state that it has changed already -/

/-- Only the forms that read fragments take the names they release from a handle. -/
theorem lrNames_congr (noFragments : opc ≠ 0x143 ∧ opc ≠ 0x144) (s u : State) : lrNames s tid t opc f = lrNames u tid t opc f := by
  simp only [lrNames, noFragments.1, noFragments.2, decide_false, Bool.or_false, Bool.false_eq_true, if_false]

/-- A form goes on as well from an earlier state with the same clock, bytes and w registers. -/
theorem Advances.since {s0 u : State} {t' : Thread} {ws : List Write} (a : Advances s u tid t t' opc f ws)
    (noFragments : opc ≠ 0x143 ∧ opc ≠ 0x144) (cyc : s.cyc = s0.cyc) (wregs : (s.wg t.wg).map (·.w) = (s0.wg t.wg).map (·.w))
    (bytes : s.mem.dram = s0.mem.dram ∧ s.mem.hostMem = s0.mem.hostMem) : Advances s0 u tid t t' opc f ws :=
  { a with
    vector := lrNames_congr noFragments s s0 ▸ a.vector
    wregs := by
      have before := congrArg (Option.map (wAfter s.cyc 8 t.barrel tid ws)) wregs
      simp only [Option.map_map] at before
      exact cyc ▸ a.wregs.trans before
    bytes := ⟨a.bytes.1.trans bytes.1, a.bytes.2.trans bytes.2⟩ }

/-- The changes of its thread that a form makes as it enters a command: the counts of C and of its group's commands. -/
theorem Advances.counting {u : State} {t' : Thread} {ws : List Write} (a : Advances s u tid t t' opc f ws) {g : Thread → Thread}
    (keeps : ∃ c n l, g t' = { t' with cC := c, fseq := n, fOpen := l }) : Advances s (u.modThread tid g) tid t (g t') opc f ws := by
  obtain ⟨c, n, l, same⟩ := keeps
  rw [same]
  exact { a with
    thread := by rw [State.thread_modThread, if_pos rfl, a.thread, Option.map_some, same]
    wregs := a.wregs
    bytes := a.bytes }

/-- What a state that a form has changed before it retires keeps of the state `s0` in which it issued. -/
structure Prepared (s0 s : State) (tid : Nat) (t : Thread) : Prop where
  thread : ∃ wb, s.thread tid = some { t with wb := wb }
  cyc : s.cyc = s0.cyc
  wregs : (s.wg t.wg).map (·.w) = (s0.wg t.wg).map (·.w)
  bytes : s.mem.dram = s0.mem.dram ∧ s.mem.hostMem = s0.mem.hostMem

/-- A form that has entered a command retires, and goes on with its counts changed. -/
theorem Prepared.retires {s0 : State} (p : Prepared s0 s tid t) (new : t.blk = none) (noFragments : opc ≠ 0x143 ∧ opc ≠ 0x144)
    {ws : List Write} (fit : t.fits ws = true) {g : Thread → Thread}
    (keeps : ∀ x, ∃ c n l, g x = { x with cC := c, fseq := n, fOpen := l }) :
    ∃ wb t', Retires s (retire opc f s tid t { writes := ws }) tid { t with wb := wb } t' opc f { writes := ws } ∧
      Advances s0 (retire opc f s tid t { writes := ws } g) tid t (g t') opc f ws := by
  obtain ⟨wb, thread⟩ := p.thread
  obtain ⟨t', r⟩ := retire_retires opc f { writes := ws } thread new fit
  refine ⟨wb, t', r, ?_⟩
  have goes := r.advances (retire_blk fit r.thread) (g := id) ⟨_, _, _, _, rfl⟩
  have goes0 : Advances s0 _ tid { t with wb := wb } t' opc f ws := goes.since noFragments p.cyc p.wregs p.bytes
  have counted := goes0.counting (keeps t')
  rw [State.modThread_modThread] at counted
  rw [retire_with fit]
  exact { counted with vector := counted.vector }

end

end Sys2Proof.Machine
end

section
/-! For O42: CPYQ (R257 to R262). -/

namespace Sys2Proof.Machine

section
variable {f : Fields} {s : State} {tid : Nat} {t : Thread} {g : Wg}

/-! ### What CPYQ does (R261) -/

/-- The command of a group whose workgroup stands there. -/
theorem cmdOf_eq (hg : s.wg t.wg = some g) : cmdOf s tid t f =
    let w := fun (k : Nat) => ((cpyWords s tid t f)[k]?).getD 0
    { id := 0, w0 := w 0, w1 := w 1, w2 := w 2, w3 := w 3, ntf := g.copyReg 0x30 s.cyc t.barrel, stb := g.copyReg 0x31 s.cyc t.barrel,
      seq := (g.cpySeq + 1) % 2 ^ 32, tid := tid, running := false, shape := [], pos := 0, written := 0, wo := false, stage := 0,
      held := none, stepped := t.stepping = 1, buf := [] } := by
  simp only [cmdOf, hg]
  rfl

/-- The registration of a command's destination. -/
def CopyCmd.regOf (c : CopyCmd) (s : State) (t : Thread) : Reg32 :=
  { cmd := s.env.nextId, eng := engineOf t.cu 0, die := dieOf t.cu, wg := t.wg, ctx := t.ctx, space := c.das,
    pend := rangeBlocks c.range.1 c.range.2 }

/-- The state with a command at the end of the ring of a thread's workgroup. -/
def copyEntered (s : State) (t : Thread) (c : CopyCmd) : State :=
  (register s.fresh.2 (c.regOf s t)).modWg t.wg fun g => { g with cpySeq := c.seq, ring := g.ring ++ [{ c with id := s.env.nextId }] }

/-- The fault of CPYQ where a command is bad. -/
def cpyqTrap (f : Fields) (t : Thread) (cause syn a : Nat) : Trap :=
  { cause := cause, syn := BitVec.ofNat 64 syn, opd0 := BitVec.ofNat 64 a, lanes := if cause = cTRAP then (t.live f).setWidth 64 else 0,
    unit := some 0x90 }

section
variable (h : Issues s tid t 0x1C0 f) (acts : t.eff f ≠ 0)
include h acts

theorem exec_cpyq_faults (hg : s.wg t.wg = some g) {cause syn a : Nat} (fresh : t.ops = [])
    (bad : (cmdOf s tid t f).fault g.spBytes = some (cause, syn, a)) :
    exec (.cpyq f) s = .next (takeFault s tid (cpyqTrap f t cause syn a) t.pc) := by
  rw [exec_cpyq, execCpyq, issue_runs h, if_neg acts]
  simp only [fresh, List.isEmpty_nil, if_true, hg, Option.map_some, Option.getD_some, bad]
  rfl

theorem exec_cpyq_waits (hg : s.wg t.wg = some g) (good : t.ops ≠ [] ∨ (cmdOf s tid t f).fault g.spBytes = none) (order : accOrder f ≠ 2)
    (blocked : 32 ≤ g.ring.length ∨ ((cmdOf s tid t f).das = 1 ∧ scratchOpen t = true) ∨ (cmdOf s tid t f).readsOpen t = true) :
    exec (.cpyq f) s = .next (waitWith s tid (cpyWords s tid t f)) := by
  have stays : (!true || !decide (g.ring.length < 32) || (decide ((cmdOf s tid t f).das = 1) && scratchOpen t) ||
      (cmdOf s tid t f).readsOpen t) = true := by
    rcases blocked with full | own | reads
    · simp [Nat.not_lt.2 full]
    · simp [own]
    · simp [reads]
  rw [exec_cpyq, execCpyq, issue_runs h, if_neg acts]
  simp only [hg, Option.map_some, Option.getD_some, checks_passed good, order, if_false, stays, if_true]

theorem exec_cpyq_enters (hg : s.wg t.wg = some g) (good : t.ops ≠ [] ∨ (cmdOf s tid t f).fault g.spBytes = none) {u : State}
    (released : (if accOrder f = 2 then releaseAtPc s tid t (accScope f) else (s, true)) = (u, true)) (hu : u.wg t.wg = some g)
    (room : g.ring.length < 32) (own : (cmdOf s tid t f).das = 1 → scratchOpen t = false)
    (reads : (cmdOf s tid t f).readsOpen t = false) :
    exec (.cpyq f) s = .next (retire 0x1C0 f (copyEntered u t (cmdOf s tid t f)) tid t
      { writes := [.uni f.d.toNat (BitVec.ofNat 64 (cmdOf s tid t f).seq)] } (·.countUp 2)) := by
  have goes : (!true || !decide (g.ring.length < 32) || (decide ((cmdOf s tid t f).das = 1) && scratchOpen t) ||
      (cmdOf s tid t f).readsOpen t) = false := by
    by_cases scratch : (cmdOf s tid t f).das = 1 <;> simp [room, reads, scratch, own]
  rw [exec_cpyq, execCpyq, issue_runs h, if_neg acts]
  simp only [hg, hu, Option.map_some, Option.getD_some, checks_passed good, released, goes, Bool.false_eq_true, if_false]
  rfl

end

/-! ### What the command leaves (R257 to R259) -/

theorem copyEntered_wg (hg : s.wg t.wg = some g) (c : CopyCmd) : (copyEntered s t c).wg t.wg =
    some { g with cpySeq := c.seq, ring := g.ring ++ [{ c with id := s.env.nextId }] } := by
  obtain ⟨l, same⟩ := register_eq s.fresh.2 (c.regOf s t)
  rw [copyEntered, State.wg_modWg, if_pos rfl, same]
  exact congrArg (Option.map _) hg

theorem copyEntered_thread (s : State) (t : Thread) (c : CopyCmd) (j : Nat) : (copyEntered s t c).thread j = s.thread j := by
  obtain ⟨l, same⟩ := register_eq s.fresh.2 (c.regOf s t)
  rw [copyEntered, State.thread_modWg, same]
  rfl

theorem copyEntered_prepared {s0 : State} (r : Released s0 s tid t) (hg : s.wg t.wg = some g) (c : CopyCmd) :
    Prepared s0 (copyEntered s t c) tid t := by
  obtain ⟨l, same⟩ := register_eq s.fresh.2 (c.regOf s t)
  have rest := r.rest
  refine ⟨?_, ?_, ?_, ?_⟩
  · rw [copyEntered_thread]
    exact r.thread
  · rw [copyEntered, same, rest]
    rfl
  · rw [copyEntered_wg hg, show s0.wg t.wg = some g by rw [rest] at hg; exact hg]
    rfl
  · rw [copyEntered, State.modWg_mem, same, rest]
    exact ⟨rfl, rfl⟩

end

theorem copyCommandEntersTheRing : Claims.CopyCommandEntersTheRing := by
  intro f s tid t g h acts hg ws w n c
  have hc : cmdOf s tid t f = c := cmdOf_eq hg
  rw [← hc]
  refine ⟨fun cause syn a fresh bad => exec_cpyq_faults h acts hg fresh bad,
    fun good order blocked => exec_cpyq_waits h acts hg good order blocked, fun good done room own reads => ?_⟩
  obtain ⟨v, released, r⟩ := releaseAtPc_of_done h.thread done
  have hv : v.wg t.wg = some g := by rw [r.rest]; exact hg
  have fit := fits_uni t f.d.toNat (BitVec.ofNat 64 (cmdOf s tid t f).seq)
  obtain ⟨wb, t', retires, goes⟩ := (copyEntered_prepared r hv (cmdOf s tid t f)).retires h.new (opc := 0x1C0) (f := f) (by decide) fit
    (g := (·.countUp 2)) fun x => ⟨x.cC + 1, _, _, rfl⟩
  have wgs := (congrArg (State.wg · t.wg) (retire_with fit (·.countUp 2))).trans (retires.wregs t.wg)
  rw [copyEntered_wg hv, Option.map_some, if_pos rfl] at wgs
  have number : (cmdOf s tid t f).seq = n := by rw [hc]
  refine ⟨_, t'.countUp 2, _, v.env.nextId, exec_cpyq_enters h acts hg good released hv room own reads, number ▸ goes, wgs, rfl, number,
    rfl, rfl, ?_, ?_, ?_, fun j hj => ?_⟩
  · exact congrArg (· + 1) (retires.same (·.cC) fun _ => rfl)
  · exact retires.same (·.cL) fun _ => rfl
  · exact retires.same (·.cS) fun _ => rfl
  · rw [retire_with fit, State.thread_modThread, if_neg hj, retires.others j hj, copyEntered_thread, r.others j hj]

end Sys2Proof.Machine
end

section
/-! For O42: COPY_DISPATCH and COPY_COMPLETE (R257, R265, R273, R274). -/

namespace Sys2Proof.Machine

/-! ### The command at the head of a ring -/

/-- The command at the head of a workgroup's ring, which no other one of the ring shares its number with. -/
structure HeadsRing (s : State) (w : Nat) (g : Wg) (c : CopyCmd) (rest : List CopyCmd) : Prop where
  wg : s.wg w = some g
  ring : g.ring = c :: rest
  alone : ∀ d ∈ rest, d.id ≠ c.id

section
variable {s : State} {w : Nat} {g : Wg} {c : CopyCmd} {rest : List CopyCmd} (head : HeadsRing s w g c rest)
include head

theorem HeadsRing.copyAt : copyAt s w c.id = some (g, c) := by simp [Machine.copyAt, head.wg, head.ring]

/-- A change of the command at the head. -/
theorem HeadsRing.modCopy (h : CopyCmd → CopyCmd) : s.modCopy w c.id h = s.modWg w fun g => { g with ring := h c :: rest } := by
  refine State.modWg_congr head.wg ?_
  have others : (rest.map fun d => if d.id = c.id then h d else d) = rest :=
    (List.map_congr_left fun d hd => if_neg (head.alone d hd)).trans (List.map_id rest)
  rw [head.ring, List.map_cons, if_pos rfl, others]

theorem HeadsRing.wg_modCopy (h : CopyCmd → CopyCmd) : (s.modCopy w c.id h).wg w = some { g with ring := h c :: rest } := by
  rw [head.modCopy, State.wg_modWg, if_pos rfl, head.wg]
  rfl

theorem HeadsRing.removed : (g.ring.filter fun x => x.id ≠ c.id) = rest := by
  rw [head.ring, List.filter_cons_of_neg (by simp)]
  exact List.filter_eq_self.2 fun d hd => by simpa using head.alone d hd

/-- COPY_DISPATCH starts it, where it has no shape record to fetch. -/
theorem exec_copyDispatch_head (runs : s.halting g.ctx = false) (free : c.stepped = false) (idle : c.running = false) (stage : c.stage ≠ 4)
    (kind : c.kind ≠ 3) : exec (.copyDispatch w c.id) s = .next (s.modCopy w c.id fun c => { c with running := true }) := by
  rw [exec_copyDispatch, execCopyDispatch, head.copyAt]
  simp [head.ring, idle, free, runs, stage, kind]

section
variable (runs : s.halting g.ctx = false) (free : c.stepped = false) (held : c.held = none) (running : c.running = true)
  (stage : c.stage ≠ 4) {u : State}
include runs free held running stage

/-- A running command at the head takes its next data step, or its next completion step where it has none left. -/
theorem exec_copyComplete_head
    (next : ((if c.stage = 0 then copyData s g w c else none).getD (copyFinish s g w c)) = .done u) :
    exec (.copyComplete w c.id) s = .next u := by
  have step : copyNext s g w c = some (.done u) := by
    rw [← next]
    unfold copyNext
    simp only [head.ring, stage, running, held, free, runs, List.head?_cons, Option.any_some, decide_true, if_true, if_false]
    cases (if c.stage = 0 then copyData s g w c else none) <;> rfl
  rw [exec_copyComplete, execCopyComplete, head.copyAt]
  simp only [step]

theorem exec_copyComplete_data (data : c.stage = 0) (next : copyData s g w c = some (.done u)) :
    exec (.copyComplete w c.id) s = .next u := by
  refine exec_copyComplete_head head runs free held running stage ?_
  rw [if_pos data, next]
  rfl

theorem exec_copyComplete_finish (noData : c.stage = 0 → copyData s g w c = none) (next : copyFinish s g w c = .done u) :
    exec (.copyComplete w c.id) s = .next u := by
  refine exec_copyComplete_head head runs free held running stage ?_
  split_ifs with data
  · rw [noData data]
    exact next
  · exact next

end

end

/-! ### A phase counter after an arrival (R280, R281) -/

theorem leNat_lt (l : List Byte) : leNat l < 256 ^ l.length := by
  induction l with
  | nil => exact Nat.one_pos
  | cons b r ih =>
    have byte : b.toNat < 256 := b.isLt
    rw [List.length_cons, Nat.pow_succ]
    show leNat r * 256 + b.toNat < _
    omega

theorem leNat_append_byte (l : List Byte) (b : Byte) : leNat (l ++ [b]) = leNat l + 256 ^ l.length * b.toNat := by
  induction l with
  | nil => simp [leNat]
  | cons x r ih =>
    show leNat (r ++ [b]) * 256 + x.toNat = leNat r * 256 + x.toNat + 256 ^ (r.length + 1) * b.toNat
    rw [ih, Nat.pow_succ]
    ring

theorem leNat_leBytes_mod (n r : Nat) : leNat (leBytes n r) = r % 256 ^ n := by
  induction n with
  | zero => simp [leBytes, leNat, Nat.mod_one]
  | succ n ih =>
    have top : leBytes (n + 1) r = leBytes n r ++ [BitVec.ofNat 8 (r >>> (8 * n))] := by simp [leBytes, List.range_succ]
    have length : (leBytes n r).length = n := by simp [leBytes]
    rw [top, leNat_append_byte, ih, length, BitVec.toNat_ofNat, Nat.shiftRight_eq_div_pow, Nat.pow_mul]
    exact Nat.mod_pow_succ.symm

theorem bytes_setBytes_self (m : Memory) (a : Nat) (l : List Byte) : Memory.bytes (Memory.setBytes m a l) a l.length = l := by
  refine List.ext_getElem (by simp [Memory.bytes]) fun k _ hk => ?_
  simp [Memory.bytes, byte_setBytes_of_getElem? m a (List.getElem?_eq_getElem hk)]

theorem phArrive_lt {r : Nat} (h : r < 2 ^ 128) (v : Nat) : phArrive r v < 2 ^ 128 := by
  unfold phArrive phCnt phExp phPhase
  simp only [Nat.shiftLeft_eq, Nat.shiftRight_eq_div_pow]
  split_ifs with ex
  · omega
  · have phase := Nat.mod_lt (r / 2 ^ 112 + (r % 2 ^ 64 + v) % 2 ^ 64 / (r / 2 ^ 64 % 2 ^ 40)) (show 0 < 2 ^ 16 by decide)
    have count := Nat.mod_lt ((r % 2 ^ 64 + v) % 2 ^ 64) (Nat.pos_of_ne_zero ex)
    have small := Nat.mod_lt (r / 2 ^ 64) (show 0 < 2 ^ 40 by decide)
    omega

section
variable {s : State} {w : Nat} {g : Wg} (hg : s.wg w = some g)
include hg

theorem phRecord_of_wg (off : Nat) : phRecord s w off = leNat (Memory.bytes g.scratch off 16) := by simp only [phRecord, hg]

/-- The scratchpad after an arrival on a record. -/
theorem wg_arrive (off v : Nat) : (arrive s w off v).wg w =
    some { g with scratch := Memory.setBytes g.scratch off (leBytes 16 (phArrive (phRecord s w off) v)) } := by
  refine (State.wg_modWg s w _ w).trans ?_
  rw [if_pos rfl, hg]
  rfl

/-- The record reads as the arrival leaves it. -/
theorem phRecord_arrived (off v : Nat) :
    leNat (Memory.bytes (Memory.setBytes g.scratch off (leBytes 16 (phArrive (phRecord s w off) v))) off 16) =
      phArrive (phRecord s w off) v := by
  have length : ∀ x, (leBytes 16 x).length = 16 := fun x => by simp [leBytes]
  have record : phRecord s w off < 2 ^ 128 := by
    rw [phRecord_of_wg hg]
    exact (leNat_lt _).trans_eq (by simp [Memory.bytes])
  have back := bytes_setBytes_self g.scratch off (leBytes 16 (phArrive (phRecord s w off) v))
  rw [length] at back
  rw [back, leNat_leBytes_mod, Nat.mod_eq_of_lt (show _ < 256 ^ 16 from phArrive_lt record v)]

end

/-! ### Completion steps (R258, R274) -/

section
variable {s : State} {w : Nat} {g : Wg} {c : CopyCmd}

theorem copyData_of_noBlock (kind : c.kind ≠ 3) (block : c.block c.pos = none) : copyData s g w c = none := by
  simp [copyData, kind, block]

theorem copyFinish_noStamp (stage : c.stage = 0) (noStamp : c.ste = false) :
    copyFinish s g w c = .done (s.modCopy w c.id fun c => { c with stage := 2 }) := by
  simp only [copyFinish, stage, noStamp, Bool.not_false, if_true]

theorem copyFinish_arrives (stage : c.stage = 2) : copyFinish s g w c =
    .done ((if c.phe then arrive s w c.phoff (if c.arr1 then 1 else c.written) else s).modCopy w c.id fun c => { c with stage := 3 }) := by
  simp only [copyFinish, stage]

theorem copyFinish_ends (stage : c.stage = 3) (silent : c.ntf.getLsbD 0 = false) : copyFinish s g w c = .done (endCopy s w c) := by
  simp only [copyFinish, stage, silent, Bool.not_false, if_true]

theorem wg_endCopy {rest : List CopyCmd} (head : HeadsRing s w g c rest) :
    (endCopy s w c).wg w = some { g with ring := rest, cpyDone := c.seq } := by
  refine (State.wg_modWg (regEnd s c.id) w _ w).trans ?_
  rw [if_pos rfl, show (regEnd s c.id).wg w = some g from head.wg, Option.map_some, head.removed]

/-- The end of a command lowers the count of C of its group, whose overflow marks it may raise. -/
theorem thread_endCopy {t : Thread} (ht : s.thread c.tid = some t) :
    ∃ x, (endCopy s w c).thread c.tid = some { t with cC := t.cC - 1, fpstat := x } := by
  have here : (endCopy s w c).thread c.tid = (s.thread c.tid).map _ := (State.thread_modThread _ _ _ _).trans (if_pos rfl)
  rw [here, ht, Option.map_some]
  split_ifs
  · exact ⟨_, rfl⟩
  · exact ⟨t.fpstat, rfl⟩

end

/-! ### A block of a fill command (R257, R265, R273) -/

/-- A fold of reads that all succeed, without an overflow mark and without a change, gives what they read. -/
theorem engineFold_ok {α β : Type} {s : State} {l : List α} {step : State → α → State × Eng (β × Bool)} {x : α → β}
    (reads : ∀ i ∈ l, step s i = (s, .ok (x i, false))) : engineFold s l step = (s, .ok (l.map x, false)) := by
  induction l using List.reverseRecOn with
  | nil => rfl
  | append_singleton l i ih =>
    have before := ih fun j hj => reads j (List.mem_append_left _ hj)
    have here := reads i (by simp)
    unfold engineFold at before ⊢
    rw [List.foldl_append, before]
    simp only [List.foldl_cons, List.foldl_nil, here, List.map_append, List.map_cons, List.map_nil, Bool.or_self]

/-- What a fill command puts at an address. -/
def CopyCmd.fillByte (c : CopyCmd) (a : Nat) : Option Byte :=
  if c.dst ≤ a ∧ a < c.dst + c.len then some (c.w1.extractLsb' (8 * (a % 8)) 8) else none

section
variable {s : State} {w : Nat} {g : Wg} {c : CopyCmd} (fill : c.kind = 4)
include fill

theorem byteSrc_fill (a : Nat) : c.byteSrc a =
    if (a + 2 ^ 64 - c.dst) % 2 ^ 64 < c.len then .const (c.w1.extractLsb' (8 * (a % 8)) 8) else .skip := by
  simp only [CopyCmd.byteSrc, fill]

/-- A fill command whose destination lies in the low 4 GiB writes its pattern, and reads nothing. -/
theorem byteAt_fill (low : c.dst < 2 ^ 32) (buf : NMap (List Byte)) {a : Nat} (ha : a < 2 ^ 32) :
    c.byteAt buf (a % 2 ^ 64) = (c.fillByte a).map .inl := by
  have len : c.len < 2 ^ 40 := (c.w3.extractLsb' 0 40).isLt
  have small : a % 2 ^ 64 = a := Nat.mod_eq_of_lt (by omega)
  have inside : (a + 2 ^ 64 - c.dst) % 2 ^ 64 < c.len ↔ c.dst ≤ a ∧ a < c.dst + c.len := by omega
  rw [small, CopyCmd.byteAt, byteSrc_fill fill, CopyCmd.fillByte]
  simp only [inside]
  split_ifs <;> rfl

theorem readList_fill (base : Nat) : readList s g.cu g.ctx w c base = (s, .ok ([], false)) := by
  have none' : c.listParts base = [] := by
    rw [CopyCmd.listParts, List.filterMap_eq_nil_iff.2]
    · rfl
    · intro i _
      rw [byteSrc_fill fill]
      split_ifs <;> rfl
  rw [readList, none']
  rfl

theorem readBlock_fill (low : c.dst < 2 ^ 32) (buf : NMap (List Byte)) {base : Nat} (fits : base + 64 ≤ 2 ^ 32) :
    readBlock s g.cu g.ctx w c buf base = (s, .ok ((List.range 64).map fun i => c.fillByte (base + i), false)) := by
  refine engineFold_ok fun i hi => ?_
  have below : base + i < 2 ^ 32 := by have := List.mem_range.1 hi; omega
  rw [byteAt_fill fill low buf below]
  cases c.fillByte (base + i) <;> rfl

end

/-! ### Writing a block to the scratchpad -/

/-- Enabled bytes of a list read back, and every other byte as before. -/
theorem Memory.byte_setEnabled (m : Memory) (a : Nat) (en : Nat → Bool) (d : List Byte) (i j : Nat) :
    Memory.byte (Memory.setEnabled m a en d i) j =
      if a + i ≤ j ∧ j < a + i + d.length ∧ en (j - a) = true then d.getD (j - a - i) 0 else Memory.byte m j := by
  induction d generalizing m i with
  | nil =>
    rw [Memory.setEnabled, if_neg]
    rw [List.length_nil]
    omega
  | cons b r ih =>
    rw [Memory.setEnabled, ih, List.length_cons]
    by_cases here : j = a + i
    · subst here
      have first : a + i - a = i := by omega
      rw [if_neg (by omega), first, Nat.sub_self]
      by_cases on : en i = true
      · simp [on, Memory.byte_setByte]
      · simp [on]
    · have kept : Memory.byte (if en i = true then Memory.setByte m (a + i) b else m) j = Memory.byte m j := by
        split_ifs
        · rw [Memory.byte_setByte, if_neg here]
        · rfl
      rw [kept]
      by_cases past : a + (i + 1) ≤ j
      · have drop : j - a - i = (j - a - (i + 1)) + 1 := by omega
        rw [drop, List.getD_cons_succ]
        exact if_congr ⟨fun ⟨_, _, on⟩ => ⟨by omega, by omega, on⟩, fun ⟨_, _, on⟩ => ⟨by omega, by omega, on⟩⟩ rfl rfl
      · rw [if_neg (by omega), if_neg (by omega)]

/-- A scratchpad after the bytes of a block of 64 that there are have been written. -/
def BlockWritten (m m' : Memory) (base : Nat) (l : List (Option Byte)) : Prop :=
  ∀ j, Memory.byte m' j = (if base ≤ j then (l[j - base]?).getD none else none).getD (Memory.byte m j)

/-- The mask of the bytes of a block that there are. -/
def blockMask (l : List (Option Byte)) : BitVec 64 :=
  BitVec.ofNat 64 ((List.range 64).foldl (fun acc i => if ((l[i]?).getD none).isSome then acc + 2 ^ i else acc) 0)

theorem getLsbD_blockMask (l : List (Option Byte)) {i : Nat} (h : i < 64) : (blockMask l).getLsbD i = ((l[i]?).getD none).isSome := by
  rw [blockMask, BitVec.getLsbD_ofNat, (testBit_sum_bits (fun i => ((l[i]?).getD none).isSome) 64 i).1]
  simp [h]

/-- The bytes of a block that there are, put in a memory. -/
def putBlock (m : Memory) (base : Nat) (l : List (Option Byte)) : Memory :=
  Memory.setEnabled m base (fun i => (blockMask l).getLsbD i) (l.map fun b => b.getD 0)

theorem blockWritten_putBlock (m : Memory) (base : Nat) {l : List (Option Byte)} (size : l.length = 64) :
    BlockWritten m (putBlock m base l) base l := by
  intro j
  rw [putBlock, Memory.byte_setEnabled, Nat.add_zero, Nat.sub_zero, List.length_map, size]
  by_cases inside : base ≤ j ∧ j < base + 64
  · have below : j - base < 64 := by omega
    have read : l[j - base]? = some l[j - base] := List.getElem?_eq_getElem _
    simp only [inside, true_and, if_true, getLsbD_blockMask l below, read, Option.getD_some]
    cases byte : l[j - base] with
    | none => rfl
    | some b => simp [read, byte]
  · rw [if_neg (by omega)]
    split_ifs with low
    · rw [List.getElem?_eq_none (by omega)]
      rfl
    · rfl

theorem blockWritten_nothing (m : Memory) (base : Nat) {l : List (Option Byte)} (none' : (l.filter Option.isSome).length = 0) :
    BlockWritten m m base l := by
  intro j
  have skips : (l[j - base]?).getD none = none := by
    cases at' : l[j - base]? with
    | none => rfl
    | some b =>
      have := List.filter_eq_nil_iff.1 (List.length_eq_zero_iff.1 none') b (List.mem_of_getElem? at')
      simpa using this
  rw [skips, ite_self]
  rfl

section
variable {s : State} {w : Nat} {g : Wg} {c : CopyCmd} {rest : List CopyCmd} (head : HeadsRing s w g c rest)
include head

/-- A block of a scratch destination is written, and the command goes on to the next one. -/
theorem writeBlock_scratch (das : c.das = 1) (buf : NMap (List Byte)) (base : Nat) {l : List (Option Byte)} (size : l.length = 64)
    (wo : Bool) : ∃ u m c', writeBlock s g w c buf base l wo = .done u ∧
      u.wg w = some { g with scratch := m, ring := c' :: rest } ∧ c'.pos = c.pos + 1 ∧ BlockWritten g.scratch m base l ∧
      u.mem.dram = s.mem.dram := by
  let next : CopyCmd → CopyCmd := fun c =>
    { c with pos := c.pos + 1, written := c.written + (l.filter Option.isSome).length, wo := c.wo || wo, buf := buf }
  by_cases none' : (l.filter Option.isSome).length = 0
  · refine ⟨s.modCopy w c.id next, g.scratch, next c, ?_, head.wg_modCopy next, rfl, blockWritten_nothing _ _ none', rfl⟩
    simp only [writeBlock, none', if_true, Nat.add_zero, next]
  · let m := putBlock g.scratch base l
    let u := regWritten (fireScratch (s.modWg w fun g => { g with scratch := putBlock g.scratch base l }) w base 64) c.id 1 (base / 64)
      (blockMask l) true
    have hu : u.wg w = some { g with scratch := m } := by
      refine (State.wg_modWg s w _ w).trans ?_
      rw [if_pos rfl, head.wg]
      rfl
    have head' : HeadsRing u w { g with scratch := m } c rest := ⟨hu, head.ring, head.alone⟩
    refine ⟨u.modCopy w c.id next, m, next c, ?_, head'.wg_modCopy next, rfl, blockWritten_putBlock _ _ size, rfl⟩
    simp only [writeBlock, none', das, if_true, if_false]
    rfl

end

/-- A running fill command of a scratch destination writes its block. -/
theorem exec_copyComplete_fill {s : State} {w : Nat} {g : Wg} {c : CopyCmd} {rest : List CopyCmd} (head : HeadsRing s w g c rest)
    (runs : s.halting g.ctx = false) (free : c.stepped = false) (held : c.held = none) (running : c.running = true) (stage : c.stage = 0)
    (fill : c.kind = 4) (das : c.das = 1) {base : Nat} (block : c.block c.pos = some base) (fits : base + 64 ≤ 2 ^ 32)
    (low : c.dst < 2 ^ 32) : ∃ u m c', exec (.copyComplete w c.id) s = .next u ∧
      u.wg w = some { g with scratch := m, ring := c' :: rest } ∧ c'.pos = c.pos + 1 ∧
      BlockWritten g.scratch m base ((List.range 64).map fun i => c.fillByte (base + i)) ∧ u.mem.dram = s.mem.dram := by
  obtain ⟨u, m, c', written, wg, pos, bytes, dram⟩ :=
    writeBlock_scratch head das [] base (l := (List.range 64).map fun i => c.fillByte (base + i)) (by simp) false
  refine ⟨u, m, c', exec_copyComplete_data head runs free held running (by omega) stage ?_, wg, pos, bytes, dram⟩
  simp only [copyData, fill, block, readList_fill fill, readBlock_fill fill low [] fits, Bool.or_self, written]
  rfl

theorem copyCommandsRunAndEnd : Claims.CopyCommandsRunAndEnd := by
  intro s w g c rest t hg ring alone runs ht held free
  have head : HeadsRing s w g c rest := ⟨hg, ring, alone⟩
  refine ⟨fun idle stage kind => ?_, fun base running stage fill das block fits low _ => ?_, fun running stage kind block noStamp => ?_,
    fun running stage phe _ => ?_, fun running stage phe => ?_, fun running stage silent => ?_⟩
  · rw [exec_copyDispatch_head head runs free idle (by omega) kind, head.modCopy]
  · obtain ⟨u, m, c', ran, wg, pos, bytes, dram⟩ :=
      exec_copyComplete_fill head runs free held running stage fill das block fits low
    refine ⟨u, _, c', ran, wg, rfl, pos, fun i hi => ?_, fun b out => ?_, dram⟩
    · rw [bytes, if_pos (Nat.le_add_right base i), Nat.add_sub_cancel_left]
      simp only [List.getElem?_map, List.getElem?_range hi, Option.map_some, Option.getD_some, CopyCmd.fillByte]
      split_ifs <;> rfl
    · rw [bytes]
      split_ifs with above
      · rw [List.getElem?_eq_none (by simp; omega)]
        rfl
      · rfl
  · rw [exec_copyComplete_finish head runs free held running (by omega) (fun _ => copyData_of_noBlock kind block)
      (copyFinish_noStamp stage noStamp), head.modCopy]
  · let v := if c.arr1 then 1 else c.written
    have wg := wg_arrive hg c.phoff v
    have arrived : HeadsRing (arrive s w c.phoff v) w _ c rest := ⟨wg, ring, alone⟩
    have wg' := arrived.wg_modCopy fun c => { c with stage := 3 }
    have finish := copyFinish_arrives (s := s) (g := g) (w := w) stage
    rw [if_pos phe] at finish
    refine ⟨_, _, exec_copyComplete_finish head runs free held running (by omega) (by omega) finish, wg', rfl, ?_, fun b out => ?_, rfl⟩
    · rw [phRecord_of_wg wg']
      exact phRecord_arrived hg c.phoff v
    · show Memory.byte (Memory.setBytes _ _ _) b = _
      rw [Memory.byte_setBytes, if_neg]
      simp [leBytes]
      omega
  · rw [exec_copyComplete_finish head runs free held running (by omega) (by omega) (copyFinish_arrives stage), phe]
    exact congrArg Host.Outcome.next (head.modCopy _)
  · obtain ⟨x, thread⟩ := thread_endCopy (w := w) ht
    exact ⟨_, _, _, exec_copyComplete_finish head runs free held running (by omega) (by omega) (copyFinish_ends stage silent),
      wg_endCopy head, rfl, rfl, rfl, thread, rfl, rfl, rfl⟩

/-- Settles O42: CPYQ by what it leaves before it retires, the copy events by the step that the head of the ring takes. -/
theorem copyCommands : Obligations.CopyCommands := ⟨copyCommandEntersTheRing, copyCommandsRunAndEnd⟩

end Sys2Proof.Machine
end

section
/-! For O45: the mailbox forms (R319 to R322). -/

namespace Sys2Proof.Machine

/-! ### The lowest free mailbox (R319, R321) -/

/-- A mailbox of the table is in use. -/
def boxUsed (s : State) (i : Nat) : Bool := (nget s.fab.boxes i).any fun b => b.used

/-- A list with entries for all numbers below `i` has at least as many. -/
theorem length_of_nget {α : Type} {m : NMap α} {i : Nat} (here : ∀ j, j < i → (nget m j).isSome = true) : i ≤ m.length := by
  have keys : List.range i ⊆ m.map (·.1) := by
    intro j hj
    obtain ⟨v, hv⟩ := Option.isSome_iff_exists.1 (here j (List.mem_range.1 hj))
    exact List.mem_map.2 ⟨(j, v), mem_of_nget hv, rfl⟩
  have := (List.nodup_range.subperm keys).length_le
  simpa using this

theorem freeBox_eq_some {s : State} {i : Nat} (inside : i < 16384) (free : boxUsed s i = false) (low : ∀ j, j < i → boxUsed s j = true) :
    freeBox s = some i := by
  have present : i ≤ s.fab.boxes.length := length_of_nget fun j hj => by
    have used := low j hj
    unfold boxUsed at used
    cases at' : nget s.fab.boxes j with
    | none => rw [at'] at used; cases used
    | some b => rfl
  rw [freeBox, List.find?_range_eq_some]
  exact ⟨by simpa [boxUsed] using free, by simp; omega, fun j hj => by simpa [boxUsed] using low j hj⟩

theorem freeBox_eq_none {s : State} (full : ∀ j, j < 16384 → boxUsed s j = true) : freeBox s = none := by
  rw [freeBox, List.find?_range_eq_none]
  intro j hj
  have := full j (by omega)
  simpa [boxUsed] using this

/-- The handle of a mailbox: module, generation and place (R320). -/
theorem boxHandle_eq (s : State) (i gen : Nat) : boxHandle s i gen = BitVec.ofNat 64 (s.mdl.number * 2 ^ 52 + gen * 2 ^ 16 + i) := by
  simp only [boxHandle, Nat.shiftLeft_eq]

/-! ### MBOXREG and MBOXREL -/

section
variable {f : Fields} {s : State} {tid : Nat} {t : Thread} (acts : t.eff f ≠ 0)
include acts

theorem exec_mboxreg_faults (h : Issues s tid t 0x205 f) {x : Trap} (bad : phFault s t (phOff s tid t f) = some x) :
    exec (.mboxreg f) s = .next (takeFault s tid { x with unit := some 0xA0 } t.pc) := by
  rw [exec_mboxreg, execMboxreg, issue_runs h, if_neg acts]
  simp only [bad]
  rfl

theorem exec_mboxreg_full (h : Issues s tid t 0x205 f) (good : phFault s t (phOff s tid t f) = none)
    (full : 16 ≤ (boxesOf s t.ctx t.wg).length ∨ (∃ p ∈ boxesOf s t.ctx t.wg, p.2.off = phOff s tid t f) ∨ freeBox s = none) :
    exec (.mboxreg f) s = .next (retire 0x205 f s tid t { writes := [.uni f.d.toNat 0] }) := by
  rw [exec_mboxreg, execMboxreg, issue_runs h, if_neg acts]
  simp only [good]
  split_ifs with own
  · rfl
  · have none' : freeBox s = none := by
      rcases full with many | same | none'
      · simp [many] at own
      · exact absurd (by simp [same]) own
      · exact none'
    rw [none']

/-- The mailbox that MBOXREG enters at place `i`. -/
def boxEntered (s : State) (tid : Nat) (t : Thread) (f : Fields) (i : Nat) : Mailbox :=
  { used := true, key := (s.ctx t.ctx).key, gen := (((nget s.fab.boxes i).map (·.gen)).getD 0) % 65535 + 1, ctx := t.ctx, wg := t.wg,
    off := phOff s tid t f, die := t.cu / 64, cu := t.cu % 64, wgs := ((s.wg t.wg).map (·.place)).getD 0, infl := 0, closing := false }

/-- The state with a mailbox at a place of the table. -/
def State.putBox (s : State) (i : Nat) (b : Mailbox) : State := { s with fab := { s.fab with boxes := nset s.fab.boxes i b } }

theorem exec_mboxreg_enters (h : Issues s tid t 0x205 f) (good : phFault s t (phOff s tid t f) = none)
    (room : (boxesOf s t.ctx t.wg).length < 16) (new : ∀ p ∈ boxesOf s t.ctx t.wg, p.2.off ≠ phOff s tid t f) {i : Nat}
    (place : freeBox s = some i) : exec (.mboxreg f) s =
      .next (retire 0x205 f (s.putBox i (boxEntered s tid t f i)) tid t
        { writes := [.uni f.d.toNat (boxHandle s i (boxEntered s tid t f i).gen)] }) := by
  have goes : ¬(decide (16 ≤ (boxesOf s t.ctx t.wg).length) || (boxesOf s t.ctx t.wg).any fun p => p.2.off = phOff s tid t f) = true := by
    simpa using ⟨room, fun a b hb => new (a, b) hb⟩
  rw [exec_mboxreg, execMboxreg, issue_runs h, if_neg acts]
  simp only [good, place]
  rw [if_neg goes]
  rfl

theorem exec_mboxrel_unknown (h : Issues s tid t 0x206 f)
    (none' : ((boxesOf s t.ctx t.wg).find? fun p => boxHandle s p.1 p.2.gen = uniVal s tid t f.a.toNat) = none) :
    exec (.mboxrel f) s = .next (takeFault s tid (trapSyn 0x80000034 (t.live f)) t.pc) := by
  rw [exec_mboxrel, execMboxrel, issue_runs h, if_neg acts]
  simp only [none']

theorem exec_mboxrel_known (h : Issues s tid t 0x206 f) {i : Nat} {b : Mailbox}
    (own : ((boxesOf s t.ctx t.wg).find? fun p => boxHandle s p.1 p.2.gen = uniVal s tid t f.a.toNat) = some (i, b)) :
    exec (.mboxrel f) s = .next (if b.infl = 0 then retire 0x206 f (s.putBox i { b with used := false, closing := false }) tid t {}
      else (s.putBox i { b with closing := true }).modThread tid fun u => { u with waits := true }) := by
  rw [exec_mboxrel, execMboxrel, issue_runs h, if_neg acts]
  simp only [own]
  rfl

end

/-- A form that retires from a state that keeps its thread, without a further change of it. -/
theorem retiresFrom_of_retire {i : Instr} {opc : Nat} {f : Fields} {s s1 : State} {tid : Nat} {t : Thread} {d : Done}
    (ht : s1.thread tid = some t) (new : t.blk = none) (fit : t.fits d.writes = true)
    (ran : exec i s = .next (retire opc f s1 tid t d)) : RetiresFrom i opc f s s1 tid t d := by
  obtain ⟨t', r⟩ := retire_retires opc f d ht new fit
  exact ⟨_, t', ran.trans (congrArg Host.Outcome.next (retire_with fit id)), r⟩

theorem mailboxesOpenAndClose : Claims.MailboxesOpenAndClose := by
  intro f s tid t acts off mine h handle used put
  have handles : handle = boxHandle s := funext₂ fun i gen => (boxHandle_eq s i gen).symm
  refine ⟨fun x issues bad => exec_mboxreg_faults acts issues bad, fun issues good room new i inside free low => ?_,
    fun issues good full => ?_, fun i b issues own => ?_, fun issues none' => ?_⟩
  · refine retiresFrom_of_retire issues.thread issues.new (fits_uni t _ _) ?_
    rw [exec_mboxreg_enters acts issues good room new (freeBox_eq_some inside free low), boxHandle_eq]
    rfl
  · have ran := exec_mboxreg_full acts issues good
      (full.imp_right fun other => other.imp_right fun all => freeBox_eq_none all)
    obtain ⟨t', r⟩ := retire_retires 0x205 f { writes := [.uni f.d.toNat 0] } issues.thread issues.new (fits_uni t _ _)
    exact ⟨_, t', ran, r⟩
  · rw [handles] at own
    have known := exec_mboxrel_known acts issues own
    refine ⟨fun none' => ?_, fun busy => ?_⟩
    · rw [if_pos none'] at known
      exact retiresFrom_of_retire issues.thread issues.new (Thread.fits_of_newNames t _ rfl) known
    · rw [if_neg busy] at known
      exact known
  · rw [handles] at none'
    exact exec_mboxrel_unknown acts issues none'

end Sys2Proof.Machine
end

section
/-! For O45: the forms that enter a fabric command (R328 to R331). -/

namespace Sys2Proof.Machine

section
variable {opc kind : Nat} {f : Fields} {s : State} {tid : Nat} {t : Thread}

/-! ### The command of a BX form -/

/-- The operand words of a BX form. -/
def fabWords (kind : Nat) (f : Fields) (s : State) (tid : Nat) (t : Thread) : List Word64 := t.words fun k =>
  uniVal s tid t (if kind = 4 then (if k = 0 then f.a.toNat else if k = 1 then f.b.toNat else f.c.toNat) else f.a.toNat + k)

/-- The command of a BX form, before it has a number. -/
def fabCommand (kind : Nat) (f : Fields) (s : State) (tid : Nat) (t : Thread) : FabCmd :=
  let w := fun (k : Nat) => ((fabWords kind f s tid t)[k]?).getD 0
  { id := 0, tid := tid, ctx := t.ctx, cu := t.cu, seq := (t.fseq + 1) % 2 ^ 32, kind := kind, w0 := w 0, w1 := w 1, w2 := w 2,
    w3 := if kind = 4 then 0 else w 3, xid := 0, total := 0, sent := 0, left := [], fail := 0, failAddr := 0, counted := 0,
    bitmap := 0, held := none, stepped := t.stepping = 1, wo := false, wrote := 0 }

/-- The command as it stands in the table under a number. -/
def FabCmd.numbered (c : FabCmd) (id : Nat) : FabCmd := { c with id := id, xid := id % 2 ^ 24, total := c.packets, left := c.replies }

/-- The state with a command in the table, and with the destination of a BXGET registered. -/
def fabEntered (s : State) (t : Thread) (c : FabCmd) : State :=
  let u := s.fresh.2.modFab fun x => { x with cmds := nset x.cmds s.env.nextId (c.numbered s.env.nextId) }
  if c.kind = 1 then
    register u { cmd := s.env.nextId, eng := engineOf t.cu 2, die := dieOf t.cu, wg := t.wg, ctx := t.ctx, space := 0,
                 pend := rangeBlocks c.local' c.len }
  else u

/-- A thread that has entered a fabric command under its next number. -/
def Thread.fabCounted (seq : Nat) (t : Thread) : Thread := { (t.countUp 2) with fseq := seq, fOpen := t.fOpen ++ [seq] }

/-- Of the five kinds only BXGET and BXFLAG read no source on this module. -/
theorem FabCmd.reads_eq {c : FabCmd} (kind : c.kind < 5) :
    c.reads = (decide (c.kind ≠ 1) && decide (c.kind ≠ 4) && decide (c.len ≠ 0)) := by
  have kinds : ∀ k < 5, (decide (k = 0) || decide (k = 2) || decide (k = 3)) = (decide (k ≠ 1) && decide (k ≠ 4)) := by decide
  rw [FabCmd.reads, kinds _ kind]

/-! ### What a BX form does (R328) -/

section
variable (h : Issues s tid t opc f) (acts : t.eff f ≠ 0)
include h acts

theorem bxForm_faults {cause syn a : Nat} (fresh : t.ops = []) (bad : (fabCommand kind f s tid t).fault s = some (cause, syn, a)) :
    bxForm opc kind f s = .next (takeFault s tid
      { cause := cause, syn := BitVec.ofNat 64 syn, opd0 := BitVec.ofNat 64 a,
        lanes := if cause = cTRAP then (t.live f).setWidth 64 else 0, unit := some 0xA0 } t.pc) := by
  have bad' : (if t.ops.isEmpty then (fabCommand kind f s tid t).fault s else none) = some (cause, syn, a) := by rw [fresh]; exact bad
  rw [bxForm, issue_runs h, if_neg acts]
  simp only [fabCommand, fabWords] at bad'
  simp only [bad']
  rfl

theorem bxForm_waits (good : t.ops ≠ [] ∨ (fabCommand kind f s tid t).fault s = none) (order : accOrder f ≠ 2)
    (blocked : 64 ≤ fabQueue s t.cu ∨ ((fabCommand kind f s tid t).reads && sourceOpen t 0) = true) :
    bxForm opc kind f s = .next (waitWith s tid (fabWords kind f s tid t)) := by
  have stays : (!true || decide (64 ≤ fabQueue s t.cu) || ((fabCommand kind f s tid t).reads && sourceOpen t 0)) = true := by
    rcases blocked with full | reads
    · simp [full]
    · simp [reads]
  have passed := checks_passed good
  rw [bxForm, issue_runs h, if_neg acts]
  simp only [fabCommand, fabWords] at passed stays
  simp only [passed, order, if_false, stays, if_true]
  rfl

theorem bxForm_enters (good : t.ops ≠ [] ∨ (fabCommand kind f s tid t).fault s = none) {u : State}
    (released : (if accOrder f = 2 then releaseAtPc s tid t (accScope f) else (s, true)) = (u, true))
    (room : fabQueue u t.cu < 64) (closed : ((fabCommand kind f s tid t).reads && sourceOpen t 0) = false) :
    bxForm opc kind f s = .next (retire opc f (fabEntered u t (fabCommand kind f s tid t)) tid t
      { writes := [.uni f.d.toNat (BitVec.ofNat 64 ((t.fseq + 1) % 2 ^ 32))] } (·.fabCounted ((t.fseq + 1) % 2 ^ 32))) := by
  have goes : (!true || decide (64 ≤ fabQueue u t.cu) || ((fabCommand kind f s tid t).reads && sourceOpen t 0)) = false := by
    simp [room, closed]
  have passed := checks_passed good
  rw [bxForm, issue_runs h, if_neg acts]
  simp only [fabCommand, fabWords] at passed goes
  simp only [passed, released, goes, Bool.false_eq_true, if_false]
  rfl

end

/-! ### What the command leaves -/

/-- Entering a command changes the count of names, the table of commands, and the registrations. -/
theorem fabEntered_eq (s : State) (t : Thread) (c : FabCmd) : ∃ l, fabEntered s t c =
    { s with env := s.fresh.2.env, mem := { s.mem with regs := l },
             fab := { s.fab with cmds := nset s.fab.cmds s.env.nextId (c.numbered s.env.nextId) } } := by
  unfold fabEntered
  split_ifs
  · obtain ⟨l, same⟩ := register_eq (s.fresh.2.modFab fun x => { x with cmds := nset x.cmds s.env.nextId (c.numbered s.env.nextId) })
      { cmd := s.env.nextId, eng := engineOf t.cu 2, die := dieOf t.cu, wg := t.wg, ctx := t.ctx, space := 0,
        pend := rangeBlocks c.local' c.len }
    exact ⟨l, same⟩
  · exact ⟨s.mem.regs, rfl⟩

theorem fabEntered_prepared {s0 : State} (r : Released s0 s tid t) (c : FabCmd) : Prepared s0 (fabEntered s t c) tid t := by
  obtain ⟨l, same⟩ := fabEntered_eq s t c
  have rest := r.rest
  rw [same]
  refine ⟨r.thread, ?_, ?_, ?_⟩
  · rw [rest]; rfl
  · rw [rest]; rfl
  · rw [rest]; exact ⟨rfl, rfl⟩

end

/-- The forms of the table enter commands of their kind; none of them reads fragments. -/
theorem exec_fabricForm : ∀ r ∈ fabricForms, (∀ f s, exec (r.2.2 f) s = bxForm r.1 r.2.1 f s) ∧ r.2.1 < 5 ∧ r.1 ≠ 0x143 ∧ r.1 ≠ 0x144 := by
  simp only [fabricForms, List.forall_mem_cons]
  exact ⟨⟨exec_bxsend, by decide⟩, ⟨exec_bxget, by decide⟩, ⟨exec_bxmc, by decide⟩, ⟨exec_bxred, by decide⟩,
    ⟨exec_bxflag, by decide⟩, by simp⟩

theorem fabricCommandEnters : Claims.FabricCommandEnters := by
  intro r form f s tid t h acts kind ws word seq c
  obtain ⟨runs, kinds, noFragments⟩ := exec_fabricForm r form
  have reads : (c.reads && sourceOpen t 0) = (decide (kind ≠ 1) && decide (kind ≠ 4) && decide (c.len ≠ 0) && sourceOpen t 0) := by
    rw [FabCmd.reads_eq (c := c) kinds]
  refine ⟨fun cause syn a fresh bad => (runs f s).trans (bxForm_faults h acts fresh bad), ?_⟩
  intro open'
  refine ⟨fun good order blocked => ?_, fun good done room closed => ?_⟩
  · refine (runs f s).trans (bxForm_waits h acts good order (blocked.imp_right fun own => ?_))
    exact reads.trans own
  · obtain ⟨v, released, rel⟩ := releaseAtPc_of_done h.thread done
    have fabric : v.fab = s.fab := by rw [rel.rest]
    have fit := fits_uni t f.d.toNat (BitVec.ofNat 64 seq)
    obtain ⟨wb, t', retires, goes⟩ := (fabEntered_prepared rel c).retires h.new (opc := r.1) (f := f) noFragments fit
      (g := (·.fabCounted seq)) fun x => ⟨x.cC + 1, _, _, rfl⟩
    obtain ⟨l, entered⟩ := fabEntered_eq v t c
    let u := retire r.1 f (fabEntered v t c) tid t { writes := [.uni f.d.toNat (BitVec.ofNat 64 seq)] } (·.fabCounted seq)
    have same : u = (retire r.1 f (fabEntered v t c) tid t { writes := [.uni f.d.toNat (BitVec.ofNat 64 seq)] }).modThread tid
      (·.fabCounted seq) := retire_with fit _
    have fab : u.fab = { s.fab with cmds := nset s.fab.cmds v.env.nextId (c.numbered v.env.nextId) } := by
      rw [same, State.modThread_fab, retires.state, entered, fabric]
    refine ⟨u, _, v.env.nextId, (runs f s).trans (bxForm_enters h acts good released ?_ (reads.trans closed)), goes, ?_, rfl, ?_, ?_, ?_,
      ?_, fun j hj => ?_⟩
    · rwa [fabQueue, fabric]
    · rw [fab]
      exact nget_nset_self _ _ _
    · exact congrArg (· ++ [seq]) (retires.same (·.fOpen) fun _ => rfl)
    · exact congrArg (· + 1) (retires.same (·.cC) fun _ => rfl)
    · rw [fab]
    · rw [fab]
    · rw [same, State.thread_modThread, if_neg hj, retires.others j hj, entered]
      exact rel.others j hj

end Sys2Proof.Machine
end
section
/-! Settles O45: FABST (R343), with the mailboxes and the commands above. -/

namespace Sys2Proof.Machine

/-! ### The status word -/

/-- A status word: a flag, a count of open commands, and a number. -/
def statusWord (recovers : Bool) (n done : Nat) : Word64 :=
  BitVec.ofNat 64 ((if recovers then 1 else 0) <<< 41 + (n % 256) <<< 32 + done)

section
variable (recovers : Bool) (n : Nat) {done : Nat} (small : done < 2 ^ 32)
include small

theorem toNat_statusWord : (statusWord recovers n done).toNat = recovers.toNat * 2 ^ 41 + n % 256 * 2 ^ 32 + done := by
  have flag : (if recovers then 1 else 0) = recovers.toNat := by cases recovers <;> rfl
  have bit := recovers.toNat_le
  rw [statusWord, flag, BitVec.toNat_ofNat, Nat.shiftLeft_eq, Nat.shiftLeft_eq]
  omega

/-- The fields of a status word (R343). -/
theorem statusWord_fields : (statusWord recovers n done).extractLsb' 32 8 = BitVec.ofNat 8 n ∧
    (statusWord recovers n done).extractLsb' 0 32 = BitVec.ofNat 32 done ∧
    (statusWord recovers n done).getLsbD 41 = recovers ∧ (statusWord recovers n done).getLsbD 40 = false ∧
    (statusWord recovers n done).extractLsb' 42 22 = 0 := by
  have value := toNat_statusWord recovers n small
  have bit := recovers.toNat_le
  refine ⟨BitVec.eq_of_toNat_eq ?_, BitVec.eq_of_toNat_eq ?_, ?_, ?_, BitVec.eq_of_toNat_eq ?_⟩
  · simp only [BitVec.extractLsb'_toNat, BitVec.toNat_ofNat, value, Nat.shiftRight_eq_div_pow]
    omega
  · simp only [BitVec.extractLsb'_toNat, BitVec.toNat_ofNat, value, Nat.shiftRight_eq_div_pow]
    omega
  · rw [BitVec.getLsbD, Nat.testBit_eq_decide_div_mod_eq, value]
    cases recovers <;> simp <;> omega
  · rw [BitVec.getLsbD, Nat.testBit_eq_decide_div_mod_eq, value, decide_eq_false_iff_not]
    omega
  · simp only [BitVec.extractLsb'_toNat, value, Nat.shiftRight_eq_div_pow]
    show _ = 0
    omega

end

/-- The number up to which all commands of a group are complete. -/
def completeUpTo (t : Thread) : Nat := t.fOpen.foldl (fun a n => min a (n - 1)) t.fseq

theorem completeUpTo_le (t : Thread) : completeUpTo t ≤ t.fseq :=
  List.foldlRecOn (motive := fun a => a ≤ t.fseq) _ _ le_rfl fun _ below _ _ => (min_le_left _ _).trans below

theorem fabStatus_eq (s : State) (tid : Nat) (t : Thread) :
    fabStatus s tid t = statusWord (!(recovSince s tid).isEmpty) t.fOpen.length (completeUpTo t) := rfl

/-! ### Commands to recovering modules (R345) -/

section
variable {s : State} {tid : Nat}

theorem recovSince_of_none (none' : ∀ m n, nget s.fab.peers m ≠ some (.recov n)) : recovSince s tid = [] := by
  refine List.filterMap_eq_nil_iff.2 fun m _ => ?_
  split
  · next n at' => exact absurd at' (none' m n)
  · rfl

theorem recovSince_of_command {p : Nat × FabCmd} (mem : p ∈ s.fab.cmds) (own : p.2.tid = tid) (direct : p.2.direct = true) {n : Nat}
    (recovers : nget s.fab.peers p.2.peer = some (.recov n)) : recovSince s tid ≠ [] := by
  have named : n ∈ recovSince s tid := by
    refine List.mem_filterMap.2 ⟨p.2.peer, List.mem_append_left _ (List.mem_append_left _ ?_), by simp only [recovers]⟩
    refine List.mem_flatten.2 ⟨[p.2.peer], List.mem_map.2 ⟨p, List.mem_filter.2 ⟨mem, by simpa using own⟩, ?_⟩, List.mem_singleton_self _⟩
    rw [if_pos direct]
  exact List.ne_nil_of_mem named

end

/-! ### FABST -/

theorem fabricStatusRead : Claims.FabricStatusRead := by
  intro f s tid t h live
  refine ⟨fun waits busy => ?_, fun failed ready' small => ?_⟩
  · have stays : (decide (Forms.mo f 7 7 = 1) && !t.fOpen.isEmpty) = true := by simp [waits, busy]
    rw [Waits, exec_fabst, execFabst, issue_runs h, if_neg live, if_pos stays]
  · have goes : ¬(decide (Forms.mo f 7 7 = 1) && !t.fOpen.isEmpty) = true := by
      rcases ready' with off | none'
      · simp [off]
      · simp [none']
    obtain ⟨t', r⟩ := retire_retires 0x207 f { writes := [.uni f.d.toNat (fabStatus s tid t)] } h.thread h.new (fits_uni t _ _)
    obtain ⟨count, number, flag, pad, rest⟩ := statusWord_fields (!(recovSince s tid).isEmpty) t.fOpen.length
      ((completeUpTo_le t).trans_lt small)
    refine ⟨fabStatus s tid t, ⟨_, t', ?_, r⟩, count, number, fun none' => ?_, fun ⟨p, mem, own, direct, n, recovers⟩ => ?_, pad, rest⟩
    · rw [exec_fabst, execFabst, issue_runs h, if_neg live, if_neg goes]
      simp only [failed]
    · rw [fabStatus_eq, flag, recovSince_of_none none']
      rfl
    · rw [fabStatus_eq, flag]
      simpa using recovSince_of_command mem own direct recovers

/-- Settles O45: the mailbox forms by the place they take, a fabric form by what it leaves before it retires, FABST by its fields. -/
theorem fabricForms_hold : Obligations.FabricForms := ⟨mailboxesOpenAndClose, fabricCommandEnters, fabricStatusRead⟩

end Sys2Proof.Machine
end

section
/-! Settles O30: what the forms that act across lanes, and those on predicates, write. -/

namespace Sys2Proof.Machine

/-! ### Exchanges between lanes (R197 to R199) -/

theorem exchange_eq_exchanged (f : Fields) (s : State) (tid : Nat) (t : Thread) (j : Nat → Option Nat) :
    exchange s tid t f j = exchanged f s tid t j := by
  funext l
  unfold exchange exchanged
  cases j l <;> rfl

/-- A form that runs an exchange retires with what its lanes read. -/
theorem completes_of_exchange {form : Fields → Instr} {opc : Nat} {f : Fields} {s : State}
    {j : State → Nat → Thread → Nat → Option Nat} (runs : exec (form f) s = issueAct opc f s (exchangeAct f j)) (tid : Nat) (t : Thread) :
    Completes form opc f s tid t (vecWrites f.d.toNat (tyWide (Forms.ty f)) (t.live f) (fun l => (exchanged f s tid t (j s tid t) l).1) ++
      [.prd (Forms.ex f 3 0 % 16) (laneMask fun l => (exchanged f s tid t (j s tid t) l).2) (t.live f)]) := by
  rw [← exchange_eq_exchanged]
  exact completes_of (exchangeAct f j) runs rfl

theorem exchangeResults : Claims.ExchangeResults := fun f s tid t =>
  ⟨completes_of_exchange (exec_qswp f s) tid t, completes_of_exchange (exec_qbc f s) tid t, completes_of_exchange (exec_shfl f s) tid t⟩

/-! ### Votes (R200, R201) -/

theorem allLanes_decide (p : Prop) [Decidable p] : allLanes (decide p) = if p then 0xFFFFFFFF else 0 := by
  simp only [allLanes, decide_eq_true_eq]

section
variable {f : Fields} {s : State} {tid : Nat} {t : Thread}

/-- The modes of VOTE other than BALLOT, a field of two bits, are ANY, ALL and UNI. -/
theorem vote_completes_predicate (mode : Forms.mo f 8 7 ≠ 3) :
    let q := t.eff f
    let p := t.pred (Forms.ex f 3 0) &&& q
    let voted : Bool := match Forms.mo f 8 7 with
      | 0 => p ≠ 0
      | 1 => p = q
      | _ => p = q || p = 0
    Completes .vote 0x106 f s tid t [.prd (f.d.toNat % 16) (allLanes voted) (t.live f)] := by
  refine completes_of _ (exec_vote f s) ?_
  have below : Forms.mo f 8 7 < 4 := Nat.mod_lt _ (by decide)
  obtain any | all | uniform : Forms.mo f 8 7 = 0 ∨ Forms.mo f 8 7 = 1 ∨ Forms.mo f 8 7 = 2 := by omega
  · simp only [any, allLanes_decide]; rfl
  · simp only [all, allLanes_decide]; rfl
  · simp only [uniform]; rfl

theorem vote_completes_ballot (mode : Forms.mo f 8 7 = 3) (live : t.live f ≠ 0) :
    let p := t.pred (Forms.ex f 3 0) &&& t.eff f
    Completes .vote 0x106 f s tid t (anyWrites f.d.toNat false (t.live f) p.toNat (p.setWidth 64)) := by
  refine completes_of _ (exec_vote f s) ?_
  simp only [mode]
  exact if_neg live

/-! ### Reductions and scans (R200, R202) -/

/-- GSCAN: with the list of running values as a variable, the two spellings of the pair at a lane agree by unfolding. -/
theorem gscan_completes :
    let runs := scanRuns s tid t f
    let run := fun l => (runs[l]?).getD (none, none)
    Completes .gscan 0x108 f s tid t
      (vecWrites f.d.toNat (tyWide (Forms.ty f)) (t.live f) fun l =>
        redStore f (if (t.eff f).getLsbD l && Forms.ex f 0 0 = 1 then (run l).1 else (run l).2))
      (flags := redFlags f (((runs.getLast?).map (·.2)).getD none)) (lat := 16) := by
  refine completes_of _ (exec_gscan f s) ?_
  beta_reduce
  generalize scanRuns s tid t f = runs
  rfl

/-! ### Predicates (R204) -/

theorem pmov_completes_predicate (mode : Forms.mo f 7 7 = 0) : Completes .pmov 0x10A f s tid t
    [.prd (f.d.toNat % 16) ((uniVal s tid t f.a.toNat).setWidth 32) (t.live f)] :=
  completes_of _ (exec_pmov f s) (if_pos mode)

theorem pmov_completes_mask (mode : Forms.mo f 7 7 = 1) (live : t.live f ≠ 0) :
    let standing := t.pred (Forms.ex f 3 0) &&& ~~~t.deadLanes
    Completes .pmov 0x10A f s tid t (anyWrites f.d.toNat false (t.live f) standing.toNat (standing.setWidth 64)) :=
  completes_of _ (exec_pmov f s) ((if_neg (mode ▸ one_ne_zero)).trans (if_neg live))

end

theorem voteReduceScanPredicates : Claims.VoteReduceScanPredicates := fun f s _ _ =>
  ⟨vote_completes_predicate, vote_completes_ballot, fun live => completes_of _ (exec_gred f s) (if_neg live), gscan_completes,
    completes_of _ (exec_plop f s) rfl, pmov_completes_predicate, pmov_completes_mask⟩

/-- Settles O30: an exchange by what a lane reads, the other forms each by its own action. -/
theorem crossLaneResults : Obligations.CrossLaneResults := ⟨exchangeResults, voteReduceScanPredicates⟩

end Sys2Proof.Machine
end

section
/-! For O43: the records of phase counters, and what an arrival leaves of one (R280 to R282). -/

namespace Sys2Proof.Machine

/-! ### The fields of a record (R280) -/

/-- A record put together from its phase, the bits that hold the expected value, and its count. -/
theorem phFields_of_parts {phase mid count : Nat} (hm : mid < 2 ^ 48) (hc : count < 2 ^ 64) :
    let r := phase * 2 ^ 112 + mid * 2 ^ 64 + count
    phPhase r = phase ∧ phExp r = mid % 2 ^ 40 ∧ phCnt r = count := by
  simp only [phPhase, phExp, phCnt, Nat.shiftRight_eq_div_pow]
  omega

/-- The record that PHINIT writes. -/
def phFresh (v : Nat) : Nat := (v % 2 ^ 40) <<< 64

theorem phFresh_eq (v : Nat) : phFresh v = v % 2 ^ 40 * 2 ^ 64 := Nat.shiftLeft_eq _ _

theorem phFresh_fields (v : Nat) : phPhase (phFresh v) = 0 ∧ phExp (phFresh v) = v % 2 ^ 40 ∧ phCnt (phFresh v) = 0 := by
  have below : v % 2 ^ 40 < 2 ^ 40 := Nat.mod_lt _ (by decide)
  obtain ⟨phase, expected, count⟩ := phFields_of_parts (phase := 0) (mid := v % 2 ^ 40) (count := 0) (by omega) (by decide)
  rw [Nat.zero_mul, Nat.zero_add, Nat.add_zero, ← phFresh_eq] at phase expected count
  exact ⟨phase, expected.trans (Nat.mod_mod ..), count⟩

theorem phFresh_lt (v : Nat) : phFresh v < 2 ^ 128 := by
  rw [phFresh_eq]
  omega

/-- Without an expected value an arrival adds to the count. -/
theorem phArrive_fields_none {r : Nat} (v : Nat) (none' : phExp r = 0) : phPhase (phArrive r v) = phPhase r ∧
    phExp (phArrive r v) = phExp r ∧ phCnt (phArrive r v) = (phCnt r + v) % 2 ^ 64 := by
  have parts : phArrive r v = phPhase r * 2 ^ 112 + r / 2 ^ 64 % 2 ^ 48 * 2 ^ 64 + (phCnt r + v) % 2 ^ 64 := by
    rw [phArrive, if_pos none']
    simp only [phCnt, phPhase, Nat.shiftRight_eq_div_pow]
    omega
  obtain ⟨phase, expected, count⟩ := phFields_of_parts (phase := phPhase r) (Nat.mod_lt (r / 2 ^ 64) (show 0 < 2 ^ 48 by decide))
    (Nat.mod_lt (phCnt r + v) (show 0 < 2 ^ 64 by decide))
  rw [parts]
  refine ⟨phase, expected.trans ?_, count⟩
  rw [Nat.mod_mod_of_dvd _ (by decide), phExp, Nat.shiftRight_eq_div_pow]

/-- With an expected value, each time that the count reaches it the phase rises by one and the count falls by it. -/
theorem phArrive_fields_some {r : Nat} (v : Nat) (some' : phExp r ≠ 0) :
    phPhase (phArrive r v) = (phPhase r + (phCnt r + v) % 2 ^ 64 / phExp r) % 2 ^ 16 ∧
    phExp (phArrive r v) = phExp r ∧ phCnt (phArrive r v) = (phCnt r + v) % 2 ^ 64 % phExp r := by
  have parts : phArrive r v = (phPhase r + (phCnt r + v) % 2 ^ 64 / phExp r) % 2 ^ 16 * 2 ^ 112 +
      r / 2 ^ 64 % 2 ^ 48 * 2 ^ 64 + (phCnt r + v) % 2 ^ 64 % phExp r := by
    rw [phArrive, if_neg some']
    simp only [Nat.shiftLeft_eq, Nat.shiftRight_eq_div_pow]
  have small : (phCnt r + v) % 2 ^ 64 % phExp r < 2 ^ 64 := (Nat.mod_le _ _).trans_lt (Nat.mod_lt _ (by decide))
  obtain ⟨phase, expected, count⟩ := phFields_of_parts (phase := (phPhase r + (phCnt r + v) % 2 ^ 64 / phExp r) % 2 ^ 16)
    (Nat.mod_lt (r / 2 ^ 64) (show 0 < 2 ^ 48 by decide)) small
  rw [parts]
  refine ⟨phase, expected.trans ?_, count⟩
  rw [Nat.mod_mod_of_dvd _ (by decide), phExp, Nat.shiftRight_eq_div_pow]

theorem phExp_phArrive (r v : Nat) : phExp (phArrive r v) = phExp r := by
  by_cases none' : phExp r = 0
  · exact (phArrive_fields_none v none').2.1
  · exact (phArrive_fields_some v none').2.1

theorem phArrive_counts {r : Nat} (v : Nat) (none' : phExp r = 0) :
    phPhase (phArrive r v) = phPhase r ∧ phCnt (phArrive r v) = (phCnt r + v) % 2 ^ 64 :=
  (phArrive_fields_none v none').imp id And.right

theorem phArrive_passes {r : Nat} (v : Nat) (some' : phExp r ≠ 0) :
    phPhase (phArrive r v) = (phPhase r + (phCnt r + v) % 2 ^ 64 / phExp r) % 2 ^ 16 ∧
    phCnt (phArrive r v) = (phCnt r + v) % 2 ^ 64 % phExp r :=
  (phArrive_fields_some v some').imp id And.right

/-! ### A record in the scratchpad -/

section
variable {s : State} {w : Nat} {g : Wg} (hg : s.wg w = some g)
include hg

theorem wg_phStore (off r : Nat) :
    (phStore s w off r).wg w = some { g with scratch := Memory.setBytes g.scratch off (leBytes 16 r) } := by
  refine (State.wg_modWg s w _ w).trans ?_
  rw [if_pos rfl, hg]
  rfl

theorem phRecord_lt (off : Nat) : phRecord s w off < 2 ^ 128 := by
  rw [phRecord_of_wg hg]
  exact (leNat_lt _).trans_eq (by simp [Memory.bytes])

end

/-- Sixteen bytes stored read back as the number that they are of. -/
theorem leNat_bytes_setBytes (m : Memory) (off : Nat) {r : Nat} (small : r < 2 ^ 128) :
    leNat (Memory.bytes (Memory.setBytes m off (leBytes 16 r)) off 16) = r := by
  have back := bytes_setBytes_self m off (leBytes 16 r)
  have length : (leBytes 16 r).length = 16 := by simp [leBytes]
  rw [length] at back
  rw [back, leNat_leBytes_mod, Nat.mod_eq_of_lt (show r < 256 ^ 16 from small)]

theorem phRecord_phStore {s : State} {w : Nat} {g : Wg} (hg : s.wg w = some g) (off : Nat) {r : Nat} (small : r < 2 ^ 128) :
    phRecord (phStore s w off r) w off = r := by
  rw [phRecord_of_wg (wg_phStore hg off r)]
  exact leNat_bytes_setBytes _ _ small

end Sys2Proof.Machine
end

section
/-! For O43: PHINIT and PHARR (R226, R283, R285). -/

namespace Sys2Proof.Machine

section
variable {opc : Nat} {f : Fields} {s : State} {tid : Nat} {t : Thread}

/-! ### What the two forms share -/

section
variable (h : Issues s tid t opc f) (acts : t.eff f ≠ 0) (act : State → Nat → Thread → Nat → State × List Write)
include h acts

theorem phWrite_faults {x : Trap} (bad : phFault s t (phOff s tid t f) = some x) :
    phWrite opc f s act = .next (takeFault s tid x t.pc) := by
  rw [phWrite, issue_runs h, if_neg acts]
  simp only [bad]

theorem phWrite_waits (good : phFault s t (phOff s tid t f) = none) (order : accOrder f ≠ 2)
    (blocked : scratchOpen t = true ∨ scratchHeld s t.wg (phOff s tid t f) 16 = true) :
    phWrite opc f s act = .next (s.modThread tid fun u => { u with waits := true }) := by
  have stays : (!!scratchOpen t || scratchHeld s t.wg (phOff s tid t f) 16) = true := by simpa using blocked
  rw [phWrite, issue_runs h, if_neg acts]
  simp only [good, order, if_false, stays, if_true]

theorem phWrite_acts (good : phFault s t (phOff s tid t f) = none) (own : scratchOpen t = false) {u : State}
    (released : (if accOrder f = 2 then releaseAtPc s tid t (accScope f) else (s, true)) = (u, true))
    (free : scratchHeld u t.wg (phOff s tid t f) 16 = false) {v : State} {ws : List Write}
    (does : act u tid t (phOff s tid t f) = (v, ws)) : phWrite opc f s act = .next (retire opc f v tid t { writes := ws }) := by
  rw [phWrite, issue_runs h, if_neg acts]
  simp only [good, own, Bool.not_false, released, Bool.not_true, Bool.false_or, free, Bool.false_eq_true, if_false, does]

end

/-- A form that has stored a record retires, and goes on from the state in which it issued. -/
theorem phStore_retires {s0 : State} (rel : Released s0 s tid t) (new : t.blk = none) (noFragments : opc ≠ 0x143 ∧ opc ≠ 0x144)
    {g : Wg} (hg : s.wg t.wg = some g) {ws : List Write} (fit : t.fits ws = true) (off r : Nat) :
    ∃ t' w, Advances s0 (retire opc f (phStore s t.wg off r) tid t { writes := ws }) tid t t' opc f ws ∧
      (retire opc f (phStore s t.wg off r) tid t { writes := ws }).wg t.wg =
        some { g with scratch := Memory.setBytes g.scratch off (leBytes 16 r), w := w } := by
  obtain ⟨wb, thread⟩ := rel.thread
  obtain ⟨m, stored⟩ := thread_fireScratch
    (s := s.modWg t.wg fun g => { g with scratch := Memory.setBytes g.scratch off (leBytes 16 r) }) thread t.wg off 16
  obtain ⟨t', ret⟩ := retire_retires opc f { writes := ws } stored new fit
  have wg := ret.wregs t.wg
  rw [show State.wg (fireScratch _ t.wg off 16) t.wg = _ from wg_phStore hg off r, Option.map_some, if_pos rfl] at wg
  have goes := ret.advances (retire_blk fit ret.thread) (g := id) ⟨_, _, _, _, rfl⟩
  have rest := rel.rest
  have goes0 := goes.since (s0 := s0) noFragments (by rw [rest]; rfl)
    (by
      refine (congrArg (Option.map Wg.w) (wg_phStore hg off r)).trans ?_
      rw [rest] at hg
      exact (congrArg (Option.map Wg.w) hg).symm)
    (by rw [rest]; exact ⟨rfl, rfl⟩)
  refine ⟨t', _, ?_, wg⟩
  have same := retire_with (opc := opc) (f := f) (s := phStore s t.wg off r) (tid := tid) (d := { writes := ws }) fit id
  rw [same]
  exact { goes0 with vector := goes0.vector }

/-- A form that stores a record and retires leaves that record, and every other byte of the scratchpad. -/
theorem phWrite_stores (h : Issues s tid t opc f) (acts : t.eff f ≠ 0) (noFragments : opc ≠ 0x143 ∧ opc ≠ 0x144) {g : Wg}
    (hg : s.wg t.wg = some g)
    (free : phFault s t (phOff s tid t f) = none ∧ ReleaseDone f s t ∧ scratchOpen t = false ∧
      scratchHeld s t.wg (phOff s tid t f) 16 = false)
    {act : State → Nat → Thread → Nat → State × List Write} {r : Nat} (small : r < 2 ^ 128) {ws : List Write}
    (fit : t.fits ws = true)
    (stores : ∀ u, u = { s with thr := u.thr } → act u tid t (phOff s tid t f) = (phStore u t.wg (phOff s tid t f) r, ws)) :
    ∃ u t' g', phWrite opc f s act = .next u ∧ Advances s u tid t t' opc f ws ∧ u.wg t.wg = some g' ∧
      phRecord u t.wg (phOff s tid t f) = r ∧
      ∀ b, b < phOff s tid t f ∨ phOff s tid t f + 16 ≤ b → Memory.byte g'.scratch b = Memory.byte g.scratch b := by
  obtain ⟨good, done, own, clear⟩ := free
  obtain ⟨v, released, rel⟩ := releaseAtPc_of_done h.thread done
  have rest := rel.rest
  have hv : v.wg t.wg = some g := by rw [rest]; exact hg
  have clear' : scratchHeld v t.wg (phOff s tid t f) 16 = false := by rw [rest]; exact clear
  obtain ⟨t', w, goes, wg⟩ := phStore_retires (opc := opc) (f := f) rel h.new noFragments hv fit (phOff s tid t f) r
  refine ⟨_, t', _, phWrite_acts h acts act good own released clear' (stores v rest), goes, wg, ?_, fun b out => ?_⟩
  · rw [phRecord_of_wg wg]
    exact leNat_bytes_setBytes _ _ small
  · show Memory.byte (Memory.setBytes _ _ _) b = _
    rw [Memory.byte_setBytes, if_neg]
    simp [leBytes]
    omega

end

/-! ### PHINIT and PHARR (R283) -/

/-- What PHINIT does at the scratchpad: it stores a new record. -/
def phInitAct (f : Fields) (s : State) (tid : Nat) (t : Thread) (off : Nat) : State × List Write :=
  (phStore s t.wg off (phFresh (phB s tid t f).toNat), [])
/-- What PHARR does there: its value arrives, and D is the phase after it. -/
def phArriveAct (f : Fields) (s : State) (tid : Nat) (t : Thread) (off : Nat) : State × List Write :=
  let u := arrive s t.wg off (phB s tid t f).toNat
  (u, [.uni f.d.toNat (BitVec.ofNat 64 (phPhase (phRecord u t.wg off)))])

theorem exec_phinit_writes (f : Fields) (s : State) : exec (.phinit f) s = phWrite 0x1C1 f s (phInitAct f) := rfl
theorem exec_pharr_writes (f : Fields) (s : State) : exec (.pharr f) s = phWrite 0x1C2 f s (phArriveAct f) := rfl

/-- An arrival stores the record as it leaves it, whose phase PHARR gives. -/
theorem phArriveAct_stores {f : Fields} {s u : State} {tid : Nat} {t : Thread} {g : Wg} (hg : s.wg t.wg = some g)
    (same : u = { s with thr := u.thr }) (off : Nat) :
    let r := phArrive (phRecord s t.wg off) (phB s tid t f).toNat
    phArriveAct f u tid t off = (phStore u t.wg off r, [.uni f.d.toNat (BitVec.ofNat 64 (phPhase r))]) := by
  intro r
  have stored := phRecord_phStore (s := u) (w := t.wg) (by rw [same]; exact hg) off (phArrive_lt (phRecord_lt hg off) (phB s tid t f).toNat)
  have arrives : arrive u t.wg off (phB u tid t f).toNat = phStore u t.wg off r := by rw [same]; rfl
  rw [phArriveAct, arrives, stored]

theorem phaseCountersArrive : Claims.PhaseCountersArrive := by
  intro f s tid t g acts hg off v r cnt free
  rw [exec_phinit_writes, exec_pharr_writes, Waits, Waits, exec_phinit_writes, exec_pharr_writes]
  refine ⟨fun x bad => ⟨fun h => phWrite_faults h acts _ bad, fun h => phWrite_faults h acts _ bad⟩,
    fun good order blocked => ⟨fun h => phWrite_waits h acts _ good order blocked, fun h => phWrite_waits h acts _ good order blocked⟩,
    fun free h => ?_, fun free h => ?_⟩
  · obtain ⟨u, t', g', ran, goes, wg, record, others⟩ := phWrite_stores h acts (by decide) hg free (phFresh_lt v)
      (Thread.fits_of_newNames t [] rfl) (act := phInitAct f) fun u same => by rw [same]; rfl
    obtain ⟨phase, expected, count⟩ := phFresh_fields v
    exact ⟨u, t', g', ran, goes, wg, (congrArg phPhase record).trans phase, (congrArg phExp record).trans expected,
      (congrArg phCnt record).trans count, others⟩
  · obtain ⟨u, t', g', ran, goes, wg, record, others⟩ := phWrite_stores h acts (by decide) hg free (phArrive_lt (phRecord_lt hg off) v)
      (fits_uni t _ _) (act := phArriveAct f) fun u same => phArriveAct_stores hg same off
    refine ⟨u, t', g', ran, ?_⟩
    rw [show phRecord u t.wg off = phArrive r v from record]
    refine ⟨goes, wg, phExp_phArrive r v, fun none' => phArrive_counts v none', fun some' => phArrive_passes v some', others⟩

end Sys2Proof.Machine
end

section
/-! Settles O43: PHWAIT and PHTEST (R226, R284, R285), with PHINIT and PHARR above. -/

namespace Sys2Proof.Machine

/-! ### What the two forms share -/

/-- What a form that reads a record gets of it: nothing, where it is to wait. -/
def phAnswer (opc : Nat) (f : Fields) (s : State) (tid : Nat) (t : Thread) (act : State → Nat → Thread → Nat → Option Word64) :
    Option Word64 :=
  if opc = 0x1C3 && (scratchOpen t || scratchHeld s t.wg (phOff s tid t f) 16) then none
  else act s tid t (phRecord s t.wg (phOff s tid t f))

/-- The state after a form's acquire, where it has one. -/
def phAcquired (f : Fields) (s : State) (t : Thread) : State :=
  if accOrder f = 1 && accScope f ≠ 0 then acquireL1 s t.cu else s

/-- An acquire empties lines of an L1, and changes nothing else. -/
theorem phAcquired_eq (f : Fields) (s : State) (t : Thread) : phAcquired f s t = { s with cus := (phAcquired f s t).cus } := by
  unfold phAcquired
  split_ifs <;> rfl

section
variable {opc : Nat} {f : Fields} {s : State} {tid : Nat} {t : Thread} (h : Issues s tid t opc f) (live : t.live f ≠ 0)
  (act : State → Nat → Thread → Nat → Option Word64)
include h live

theorem phRead_faults {x : Trap} (bad : phFault s t (phOff s tid t f) = some x) :
    phRead opc f s act = .next (takeFault s tid x t.pc) := by
  rw [phRead, issue_runs h, if_neg live]
  simp only [bad]

theorem phRead_waits (good : phFault s t (phOff s tid t f) = none) (none' : phAnswer opc f s tid t act = none) :
    phRead opc f s act = .next (s.modThread tid fun u => { u with waits := true }) := by
  rw [phAnswer] at none'
  rw [phRead, issue_runs h, if_neg live]
  simp only [good, none']

/-- A form that gets a number retires with it, and changes no memory. -/
theorem phRead_retires (noFragments : opc ≠ 0x143 ∧ opc ≠ 0x144) (good : phFault s t (phOff s tid t f) = none) {v : Word64}
    (some' : phAnswer opc f s tid t act = some v) :
    ∃ u t', phRead opc f s act = .next u ∧ Advances s u tid t t' opc f [.uni f.d.toNat v] ∧ u.mem = s.mem := by
  have acquired := phAcquired_eq f s t
  have prepared : Prepared s (phAcquired f s t) tid t := by
    rw [acquired]
    exact ⟨⟨t.wb, h.thread⟩, rfl, rfl, rfl, rfl⟩
  obtain ⟨wb, t', ret, goes⟩ := prepared.retires h.new (opc := opc) (f := f) noFragments (fits_uni t f.d.toNat v) (g := id)
    fun x => ⟨x.cC, _, _, rfl⟩
  refine ⟨_, t', ?_, goes, ?_⟩
  · rw [phAnswer] at some'
    rw [phRead, issue_runs h, if_neg live]
    simp only [good, some']
    rfl
  · rw [retire_with (fits_uni t f.d.toNat v), State.modThread_mem, ret.state, acquired]

end

/-! ### PHWAIT and PHTEST (R284) -/

/-- PHWAIT gets the phase, once its own has passed. -/
def phWaitAct (f : Fields) (s : State) (tid : Nat) (t : Thread) (r : Nat) : Option Word64 :=
  if phPassed (phPhase r) (phB s tid t f).toNat then some (BitVec.ofNat 64 (phPhase r)) else none
/-- PHTEST gets the phase and the count. -/
def phTestAct (_ : State) (_ : Nat) (_ : Thread) (r : Nat) : Option Word64 :=
  some (BitVec.ofNat 64 (phPhase r + (min (phCnt r) (2 ^ 48 - 1)) <<< 16))

theorem exec_phwait_reads (f : Fields) (s : State) : exec (.phwait f) s = phRead 0x1C3 f s (phWaitAct f) := rfl
theorem exec_phtest_reads (f : Fields) (s : State) : exec (.phtest f) s = phRead 0x1C4 f s phTestAct := rfl

/-- PHWAIT gets an answer once nothing is left to do at the record and a phase has passed. -/
theorem phAnswer_wait (f : Fields) (s : State) (tid : Nat) (t : Thread) :
    phAnswer 0x1C3 f s tid t (phWaitAct f) =
      let r := phRecord s t.wg (phOff s tid t f)
      let past := (phPhase r + 2 ^ 16 - (phB s tid t f).toNat % 2 ^ 16) % 2 ^ 16
      if (scratchOpen t || scratchHeld s t.wg (phOff s tid t f) 16) = false ∧ 1 ≤ past ∧ past ≤ 32767 then
        some (BitVec.ofNat 64 (phPhase r)) else none := by
  let r := phRecord s t.wg (phOff s tid t f)
  let past := (phPhase r + 2 ^ 16 - (phB s tid t f).toNat % 2 ^ 16) % 2 ^ 16
  have passed : phPassed (phPhase r) (phB s tid t f).toNat = true ↔ 1 ≤ past ∧ past ≤ 32767 :=
    (Bool.and_eq_true_iff ..).trans (and_congr decide_eq_true_iff decide_eq_true_iff)
  rw [phAnswer, phWaitAct]
  cases held : scratchOpen t || scratchHeld s t.wg (phOff s tid t f) 16 with
  | true => rfl
  | false => exact (if_neg (by simp)).trans (if_congr (passed.trans (and_iff_right rfl).symm) rfl rfl)

theorem phaseCountersAreAwaited : Claims.PhaseCountersAreAwaited := by
  intro f s tid t live off p r past open'
  rw [Waits, exec_phwait_reads, exec_phtest_reads]
  refine ⟨fun x bad => ⟨fun h => phRead_faults h live _ bad, fun h => phRead_faults h live _ bad⟩,
    fun good h free ready => ?_, fun good h early => ?_, fun good h => ?_⟩
  · exact phRead_retires h live _ (by decide) good ((phAnswer_wait f s tid t).trans (if_pos ⟨free, ready⟩))
  · refine phRead_waits h live _ good ((phAnswer_wait f s tid t).trans (if_neg fun ⟨free, low, high⟩ => ?_))
    rcases early with busy | zero | late
    · exact absurd (busy.symm.trans free) (by decide)
    · exact absurd zero (Nat.one_le_iff_ne_zero.1 low)
    · exact absurd late high.not_gt
  · rw [← Nat.shiftLeft_eq]
    exact phRead_retires h live _ (by decide) good rfl

/-- Settles O43: PHINIT and PHARR by the record that they store, PHWAIT and PHTEST by what they get of it. -/
theorem phaseCounters : Obligations.PhaseCounters := ⟨phaseCountersArrive, phaseCountersAreAwaited⟩

end Sys2Proof.Machine
end

section
/-! For O38: what a matrix form leaves as it checks its destination, before it enters the queue (R212). -/

namespace Sys2Proof.Machine

/-! ### Walks change no byte of host memory (R441; of the pool, see `Asked`) -/

theorem hostMem_sendRequest (s : State) (a sec : Nat) (wr t64 : Bool) (att : Nat) (l : List Nat) :
    (sendRequest s a sec wr t64 att l).mem.hostMem = s.mem.hostMem :=
  List.foldlRecOn (motive := fun u : State => u.mem.hostMem = s.mem.hostMem) l _ rfl fun _ same _ _ => same

theorem hostMem_need (s : State) (a sec : Nat) (wr t64 : Bool) (eng : Option Nat) :
    (need s a sec wr t64 eng).mem.hostMem = s.mem.hostMem := by
  unfold need
  by_cases settled : ((if wr then s.canWrite a sec else s.canRead a sec) || (nget s.mem.trans (l2key a sec)).isSome) = true
  · rw [if_pos settled]
  · rw [if_neg settled]
    exact hostMem_sendRequest ..

theorem hostMem_l2Fetch (s : State) (a sec : Nat) (imm t64 : Bool) (eng : Option Nat) :
    (l2Fetch s a sec imm t64 eng).1.mem.hostMem = s.mem.hostMem := by
  unfold l2Fetch
  cases s.winOf sec with
  | some w =>
    cases nget s.mem.copies (l2key a sec) with
    | some d => rfl
    | none => rfl
  | none =>
    simp only
    split_ifs
    · rfl
    · rfl
    · exact hostMem_need ..

theorem hostMem_walkReads (s : State) (cu c va : Nat) : (walkReads s cu c va).mem.hostMem = s.mem.hostMem := by
  unfold walkReads
  split
  · rfl
  · exact List.foldlRecOn (motive := fun u : State => u.mem.hostMem = s.mem.hostMem) _ _ rfl
      fun _ same _ _ => (hostMem_l2Fetch ..).trans same

/-! ### What an engine's translations change (R441, R447) -/

/-- `u` is `s` with addresses translated: threads, workgroups, matrix queues and the bytes of memory stay. -/
structure Translated (s u : State) : Prop where
  env : u.env = { s.env with nextId := u.env.nextId }
  thr : u.thr = s.thr
  wgs : u.wgs = s.wgs
  queues : ∀ n, (u.cu n).mq = (s.cu n).mq
  bytes : u.mem.dram = s.mem.dram ∧ u.mem.hostMem = s.mem.hostMem

theorem Translated.refl (s : State) : Translated s s := ⟨rfl, rfl, rfl, fun _ => rfl, rfl, rfl⟩

theorem Translated.trans {s u v : State} (h : Translated s u) (k : Translated u v) : Translated s v where
  env := by
    have both := k.env
    rw [h.env] at both
    exact both
  thr := k.thr.trans h.thr
  wgs := k.wgs.trans h.wgs
  queues n := (k.queues n).trans (h.queues n)
  bytes := ⟨k.bytes.1.trans h.bytes.1, k.bytes.2.trans h.bytes.2⟩

theorem translated_walkReads (s : State) (cu c va : Nat) : Translated s (walkReads s cu c va) := by
  have asked := asked_walkReads s cu c va
  have rest := asked.rest
  refine ⟨?_, ?_, ?_, fun n => ?_, asked.dram, hostMem_walkReads s cu c va⟩
  · rw [rest]
  · rw [rest]
  · rw [rest]
  · rw [rest]; rfl

theorem translated_rlbFill (s : State) (cu c va : Nat) (x : Xl) : Translated s (rlbFill s cu c va x) := by
  have kept : ∀ l : List RlbEntry, Translated s (s.modCu cu fun u => { u with rlb := l }) := fun l =>
    ⟨rfl, rfl, rfl, fun n => by
      rw [State.cu_modCu]
      split_ifs with here
      · rw [here]
      · rfl, rfl, rfl⟩
  have walker : ∀ (u : State) l, Translated u (u.modMem fun m => { m with walkers := l }) := fun u l =>
    ⟨rfl, rfl, rfl, fun _ => rfl, rfl, rfl⟩
  unfold rlbFill
  simp only
  split_ifs
  · exact .refl s
  · exact walker ..
  · exact kept _
  · exact (kept _).trans (walker ..)

theorem translated_xlate (s : State) (cu c va : Nat) : Translated s (xlate s cu c va).1 := by
  unfold xlate
  cases translate s cu c va with
  | none => exact translated_walkReads ..
  | some x =>
    have touched : ∀ u : State, Translated u (u.touch c x) := fun u => ⟨rfl, rfl, rfl, fun _ => rfl, rfl, rfl⟩
    have all := ((translated_walkReads s cu c va).trans (translated_rlbFill ..)).trans (touched (rlbFill (walkReads s cu c va) cu c va x))
    simp only
    split_ifs
    · exact all
    · exact all

theorem translated_engineXl (s : State) (cu c va : Nat) (w : Bool) : Translated s (engineXl s cu c va w).1 := by
  have translated := translated_xlate s cu c va
  unfold engineXl
  split_ifs
  · exact .refl s
  · generalize xlate s cu c va = out at translated ⊢
    obtain ⟨u, _ | _⟩ := out <;> exact translated

/-! ### The checks of a destination (R212) -/

theorem translated_drainXl (s : State) (cu c : Nat) (l : List Nat) : Translated s (drainXl s cu c l).1 := by
  unfold drainXl
  refine List.foldlRecOn (motive := fun acc : State × Eng (List DrainPart) => Translated s acc.1) _ _ (.refl s) fun acc before va _ => ?_
  obtain ⟨u, out | _ | _⟩ := acc
  · have next := before.trans (translated_engineXl u cu c va true)
    rcases hx : engineXl u cu c va true with ⟨v, _ | _ | _⟩ <;> rw [hx] at next <;> simpa only [hx] using next
  · exact before
  · exact before

theorem translated_drainParts (s : State) (t : Thread) (space b st k n : Nat) : Translated s (drainParts s t space b st k n).1 := by
  unfold drainParts
  split_ifs
  · exact .refl s
  · exact translated_drainXl ..

theorem translated_matRange (s : State) (t : Thread) (opc : Nat) (f : Fields) (x : Tile) (va vb vc : Nat) :
    Translated s (matRange s t opc f x va vb vc).1 := by
  unfold matRange
  cases matKind opc with
  | free => exact .refl s
  | zero => exact .refl s
  | mma => exact .refl s
  | wracc => exact .refl s
  | drain => exact translated_drainParts ..
  | drainq =>
    have elements := translated_drainParts s t (Forms.mo f 8 7) va (vc % 2 ^ 32) (rowsOf x.mc)
      (colsOf x.nf * elementBits (Forms.ex f 3 0) / 8)
    simp only
    generalize drainParts s t (Forms.mo f 8 7) va (vc % 2 ^ 32) (rowsOf x.mc) (colsOf x.nf * elementBits (Forms.ex f 3 0) / 8) = first
      at elements ⊢
    obtain ⟨u, l | _ | _⟩ := first
    · have scales := elements.trans (translated_drainParts u t (Forms.mo f 8 7) vb (vc >>> 32) (rowsOf x.mc) (colsOf x.nf / 32))
      simp only
      generalize drainParts u t (Forms.mo f 8 7) vb (vc >>> 32) (rowsOf x.mc) (colsOf x.nf / 32) = second at scales ⊢
      obtain ⟨v, k | _ | _⟩ := second <;> exact scales
    · exact elements
    · exact elements

end Sys2Proof.Machine
end

section
/-! For O38: a form enters the matrix queue (R212, R213, R217). -/

namespace Sys2Proof.Machine

/-! ### A form that goes on from a state that it has changed already -/

section
variable {opc : Nat} {f : Fields} {s s0 : State} {tid : Nat} {t : Thread}

/-- A w register is read from its workgroup's w registers, at the clock. -/
theorem State.wreg_eq (s : State) (tid : Nat) (t : Thread) (n : Nat) : s.wreg tid t n =
    (((s.wg t.wg).map (·.w)).map fun w =>
      if t.hasWg then (ngetD w n WReg.zero).read s.cyc tid (Config.wRace s.env.freeCtr n) else 0).getD 0 := by
  unfold State.wreg
  cases s.wg t.wg <;> rfl

theorem cyc_congr (env : s.env = { s0.env with nextId := s.env.nextId }) : s.cyc = s0.cyc := by
  rw [State.cyc, env]
  rfl

theorem uniVal_congr (env : s.env = { s0.env with nextId := s.env.nextId }) (wregs : (s.wg t.wg).map (·.w) = (s0.wg t.wg).map (·.w))
    (code : Nat) : uniVal s tid t code = uniVal s0 tid t code := by
  have free : s.env.freeCtr = s0.env.freeCtr := by rw [env]
  have wreg : ∀ n, s.wreg tid t n = s0.wreg tid t n := fun n => by
    rw [State.wreg_eq, State.wreg_eq, wregs, cyc_congr env, free]
  simp only [uniVal, wreg]

/-- As `Advances.since`, also for forms that read fragments: the handle that these name reads as before. -/
theorem Advances.sinceIssue {u : State} {t' : Thread} {ws : List Write} (a : Advances s u tid t t' opc f ws)
    (env : s.env = { s0.env with nextId := s.env.nextId }) (wregs : (s.wg t.wg).map (·.w) = (s0.wg t.wg).map (·.w))
    (bytes : s.mem.dram = s0.mem.dram ∧ s.mem.hostMem = s0.mem.hostMem) : Advances s0 u tid t t' opc f ws :=
  { a with
    vector := by
      have names : lrNames s tid t opc f = lrNames s0 tid t opc f := by simp only [lrNames, uniVal_congr env wregs]
      exact names ▸ a.vector
    wregs := by
      have before := congrArg (Option.map (wAfter s.cyc 8 t.barrel tid ws)) wregs
      simp only [Option.map_map] at before
      exact cyc_congr env ▸ a.wregs.trans before
    bytes := ⟨a.bytes.1.trans bytes.1, a.bytes.2.trans bytes.2⟩ }

end

/-! ### What a matrix form checks (R212) -/

section
variable (opc : Nat) (f : Fields) (x : Tile)

/-- The fragments that a form captures, by step. -/
def matFragA : List (List Nat) := if matKind opc = .mma then fragA opc f x.mc else []
def matFragB : List (List Nat) := if matKind opc = .mma && !decide (Forms.mo f 7 7 = 1) then fragB opc f x.nf else []
/-- The vector registers that a form captures, as it counts them. -/
def matRegs : List Nat := ((matFragA opc f x).flatten ++ (matFragB opc f x).flatten).eraseDups

theorem matRegs_eq (kind : matKind opc = .mma ↔ opc = 0x143 ∨ opc = 0x144) : matRegs opc f x = matrixNames opc f x := by
  rw [matRegs, matFragA, matFragB, matrixNames]
  by_cases mma : opc = 0x143 ∨ opc = 0x144
  · by_cases scratch : Forms.mo f 7 7 = 1 <;> simp [mma, kind.2 mma, scratch]
  · have other := mt kind.1 mma
    simp [mma, other]

variable (s : State) (tid : Nat) (t : Thread)

/-- The operand registers of a form. -/
def matA : Word64 := uniVal s tid t f.a.toNat
def matB : Word64 := uniVal s tid t f.b.toNat
def matC : Word64 := uniVal s tid t f.c.toNat

/-- The checks of a form on a tile. -/
def matTrapAt : Option Nat := matTrap opc f x (matA f s tid t).toNat (matB f s tid t).toNat (matC f s tid t).toNat (matRegs opc f x)
def matRangeAt : State × Eng (List DrainPart) :=
  matRange s t opc f x (matA f s tid t).toNat (matB f s tid t).toNat (matC f s tid t).toNat

end

/-- No place in the queue or the operand buffer, or a drain to scratch behind accesses of its workgroup there. -/
def matBlocked (s : State) (t : Thread) (regs : Nat) (dst : List DrainPart) : Bool :=
  128 ≤ (s.cu t.cu).mq.length || 256 < bufferUsed (s.cu t.cu) t.barrel + regs ||
    ((dst.any fun p => p.space = 1) && wgScratchOpen s t.wg)

theorem matBlocked_iff {s u : State} (h : Translated s u) (t : Thread) (regs : Nat) (dst : List DrainPart) :
    matBlocked u t regs dst = false ↔ (s.cu t.cu).mq.length < 128 ∧ bufferUsed (s.cu t.cu) t.barrel + regs ≤ 256 ∧
      ((∀ p ∈ dst, p.space ≠ 1) ∨ wgScratchOpen s t.wg = false) := by
  have used : bufferUsed (u.cu t.cu) t.barrel = bufferUsed (s.cu t.cu) t.barrel := by simp only [bufferUsed, h.queues]
  have opens : wgScratchOpen u t.wg = wgScratchOpen s t.wg := by simp only [wgScratchOpen, h.thr]
  simp only [matBlocked, h.queues, used, opens, Bool.or_eq_false_iff, Bool.and_eq_false_iff, decide_eq_false_iff_not, List.any_eq_false,
    decide_eq_true_eq, not_le, not_lt, and_assoc, ne_eq]

/-! ### The operation that a form enters (R213, R217) -/

/-- The operation of a form, of which `v` is the state once its destination has been checked. -/
def matOpOf (opc : Nat) (f : Fields) (s v : State) (tid : Nat) (t : Thread) (x : Tile) (dst : List DrainPart) : MatOp :=
  { id := v.env.nextId, tid := tid, wg := t.wg, barrel := t.barrel, pc := t.pc, kind := matKind opc, handle := uniVal s tid t f.d.toNat,
    f := f, frA := (matFragA opc f x).map fun l => l.map (captureReg t), frB := (matFragB opc f x).map fun l => l.map (captureReg t),
    va := matA f s tid t, vb := matB f s tid t, vc := matC f s tid t, mxovf := t.fpctl.getLsbD 8, bufRegs := (matRegs opc f x).length,
    mark := t.nextEntry, dst := dst, nan := [], stepped := t.stepping = 1,
    caps := (matRegs opc f x).filterMap fun n => (nget t.vmap n).map (·.id), since := v.cyc }

/-- The registration of the blocks of one space that an operation writes. -/
def MatOp.regOf (o : MatOp) (opc : Nat) (t : Thread) (x : Tile) (space : Nat) : Reg32 :=
  { cmd := o.id, eng := engineOf t.cu 1, die := dieOf t.cu, wg := t.wg, ctx := t.ctx, space := space,
    pend := (o.dst.filter fun p => p.space = space).map fun p =>
      (p.addr / 64, { written := false, bytes := drainMask opc o.f x o.va.toNat o.vb.toNat o.vc.toNat p.addr }) }

/-- A workgroup of which a tile ends with an operation. -/
def Wg.dying (g : Wg) (x : Tile) : Wg := { g with tiles := g.tiles.map fun y => if y = x then { y with dying := true } else y }

/-- The state with an operation at the end of its CU's queue. -/
def matEntered (opc : Nat) (v : State) (t : Thread) (x : Tile) (o : MatOp) : State :=
  let queued := v.fresh.2.modCu t.cu fun c => { c with mq := c.mq ++ [o] }
  let u := register (register queued (o.regOf opc t x 0)) (o.regOf opc t x 1)
  if matKind opc = .free then u.modWg t.wg (·.dying x) else u

theorem register_wgs (s : State) (r : Reg32) : (register s r).wgs = s.wgs := by
  obtain ⟨_, same⟩ := register_eq s r
  rw [same]

section
variable (opc : Nat) (v : State) (t : Thread) (x : Tile) (o : MatOp)

/-- Beside the queue, entering changes the count of names, the registrations, and where MTFREE ends a tile the workgroup. -/
theorem matEntered_keeps :
    let u := matEntered opc v t x o
    u.env = v.fresh.2.env ∧ u.thr = v.thr ∧ u.cus = (v.modCu t.cu fun c => { c with mq := c.mq ++ [o] }).cus ∧
      u.mem.dram = v.mem.dram ∧ u.mem.hostMem = v.mem.hostMem := by
  obtain ⟨_, first⟩ := register_eq (v.fresh.2.modCu t.cu fun c => { c with mq := c.mq ++ [o] }) (o.regOf opc t x 0)
  obtain ⟨_, both⟩ := register_eq (register (v.fresh.2.modCu t.cu fun c => { c with mq := c.mq ++ [o] }) (o.regOf opc t x 0))
    (o.regOf opc t x 1)
  rw [matEntered, both, first]
  split_ifs
  · exact ⟨rfl, rfl, rfl, rfl, rfl⟩
  · exact ⟨rfl, rfl, rfl, rfl, rfl⟩

theorem matEntered_wg {g : Wg} (hg : v.wg t.wg = some g) : ∃ l, (matEntered opc v t x o).wg t.wg = some { g with tiles := l } := by
  let queued := v.fresh.2.modCu t.cu fun c => { c with mq := c.mq ++ [o] }
  have kept : (register (register queued (o.regOf opc t x 0)) (o.regOf opc t x 1)).wg t.wg = some g := by
    rw [State.wg, register_wgs, register_wgs]
    exact hg
  rw [matEntered]
  split_ifs
  · rw [State.wg_modWg, if_pos rfl, kept]
    exact ⟨_, rfl⟩
  · exact ⟨g.tiles, kept⟩

end

/-- A form that has entered an operation retires, and goes on from the state in which it issued. -/
theorem matEntered_goes {opc : Nat} {f : Fields} {s v : State} {tid : Nat} {t : Thread} {g : Wg} {x : Tile} {o : MatOp}
    (h : Issues s tid t opc f) (translated : Translated s v) (hg : s.wg t.wg = some g) :
    let u := retire opc f (matEntered opc v t x o) tid t {} fun u => { u with openOps := u.openOps ++ [o.id] }
    ∃ t' g', Advances s u tid t t' opc f [] ∧ t'.openOps = t.openOps ++ [o.id] ∧ u.wg t.wg = some g' ∧ g'.tileMem = g.tileMem ∧
      g'.scratch = g.scratch ∧ (u.cu t.cu).mq = (s.cu t.cu).mq ++ [o] ∧ ∀ j, j ≠ tid → u.thread j = s.thread j := by
  let s1 := matEntered opc v t x o
  obtain ⟨tiles, wg⟩ := matEntered_wg opc v t x o (g := g) (by rw [State.wg, translated.wgs]; exact hg)
  obtain ⟨named, threads, cus, bytes⟩ := matEntered_keeps opc v t x o
  have thr : s1.thr = s.thr := threads.trans translated.thr
  have env : s1.env = { s.env with nextId := s1.env.nextId } := by
    have before := translated.env
    rw [show s1.env = v.fresh.2.env from named]
    show { v.env with nextId := v.env.nextId + 1 } = _
    rw [before]
    rfl
  have fit : t.fits [] = true := Thread.fits_of_newNames t [] rfl
  obtain ⟨t', ret⟩ := retire_retires opc f {} (s := s1) (by rw [State.thread, thr]; exact h.thread) h.new fit
  have goes := ret.advances (retire_blk fit ret.thread) (g := fun u => { u with openOps := u.openOps ++ [o.id] }) ⟨_, _, _, _, rfl⟩
  have wgs := ret.wregs t.wg
  rw [wg, Option.map_some, if_pos rfl] at wgs
  intro u
  have retires : u = (retire opc f s1 tid t {}).modThread tid fun u => { u with openOps := u.openOps ++ [o.id] } := retire_with fit _
  rw [retires]
  have ops : t'.openOps ++ [o.id] = t.openOps ++ [o.id] := congrArg (· ++ [o.id]) (ret.same (·.openOps) fun _ => rfl)
  refine ⟨_, _, goes.sinceIssue env ?_ ?_, ops, wgs, rfl, rfl, ?_, fun j hj => ?_⟩
  · rw [wg, hg]
    rfl
  · exact ⟨bytes.1.trans translated.bytes.1, bytes.2.trans translated.bytes.2⟩
  · rw [State.cu, State.modThread_cus, ret.state]
    show (ngetD s1.cus t.cu Cu.reset).mq = _
    rw [show s1.cus = _ from cus, State.modCu_cus, ngetD_nset, if_pos rfl]
    exact congrArg (· ++ [o]) (translated.queues t.cu)
  · rw [State.thread_modThread, if_neg hj, ret.others j hj, State.thread, thr]
    rfl

/-! ### What a matrix form does -/

/-- What a form does on its tile. -/
def enterOn (opc : Nat) (f : Fields) (s : State) (tid : Nat) (t : Thread) (x : Tile) : State :=
  let wait := s.modThread tid fun u => { u with waits := true }
  match matTrapAt opc f x s tid t with
  | some n => takeFault s tid (trapSyn n (t.live f)) t.pc
  | none =>
    match matRangeAt opc f x s tid t with
    | (v, .bad c a) => takeFault v tid
        { cause := c, syn := BitVec.ofNat 64 (if c = cDIEL then 0 else 16 * (opc % 16)), opd0 := BitVec.ofNat 64 a, unit := some 0x50 }
        t.pc
    | (_, .wait) => wait
    | (v, .ok dst) =>
      if matBlocked v t (matRegs opc f x).length dst then wait
      else retire opc f (matEntered opc v t x (matOpOf opc f s v tid t x dst)) tid t {} fun u =>
        { u with openOps := u.openOps ++ [v.env.nextId] }

section
variable {opc : Nat} {f : Fields} {s : State} {tid : Nat} {t : Thread} {g : Wg} (live : t.live f ≠ 0) (hg : s.wg t.wg = some g)
include live hg

theorem enterMat_noTile (none' : tileOf g (uniVal s tid t f.d.toNat) = none) :
    enterMat opc f s tid t = takeFault s tid (trapSyn 0x80000010 (t.live f)) t.pc := by
  rw [enterMat, if_neg live]
  simp only [hg, Option.bind_some, none']

theorem enterMat_tile {x : Tile} (tile : tileOf g (uniVal s tid t f.d.toNat) = some x) :
    enterMat opc f s tid t = enterOn opc f s tid t x := by
  rw [enterMat, if_neg live]
  simp only [hg, Option.bind_some, tile]
  rfl

end

section
variable {opc : Nat} {f : Fields} {s : State} {tid : Nat} {t : Thread} {x : Tile}

theorem enterOn_traps {n : Nat} (trap : matTrapAt opc f x s tid t = some n) :
    enterOn opc f s tid t x = takeFault s tid (trapSyn n (t.live f)) t.pc := by
  simp only [enterOn, trap]

variable (pass : matTrapAt opc f x s tid t = none)
include pass

theorem enterOn_faults {c a : Nat} (bad : (matRangeAt opc f x s tid t).2 = .bad c a) :
    enterOn opc f s tid t x = takeFault (matRangeAt opc f x s tid t).1 tid
      { cause := c, syn := BitVec.ofNat 64 (if c = cDIEL then 0 else 16 * (opc % 16)), opd0 := BitVec.ofNat 64 a, unit := some 0x50 }
      t.pc := by
  rcases h : matRangeAt opc f x s tid t with ⟨v, out⟩
  rw [h] at bad
  cases bad
  simp only [enterOn, pass, h]

variable {dst : List DrainPart} (good : (matRangeAt opc f x s tid t).2 = .ok dst)
include good

theorem enterOn_checked : enterOn opc f s tid t x =
    let v := (matRangeAt opc f x s tid t).1
    if matBlocked v t (matRegs opc f x).length dst then s.modThread tid fun u => { u with waits := true }
    else retire opc f (matEntered opc v t x (matOpOf opc f s v tid t x dst)) tid t {} fun u =>
      { u with openOps := u.openOps ++ [v.env.nextId] } := by
  rcases h : matRangeAt opc f x s tid t with ⟨v, out⟩
  rw [h] at good
  cases good
  simp only [enterOn, pass, h]

end

/-- The forms of the table enter the matrix queue; MMA and MLOOP multiply. -/
theorem exec_matrixForm : ∀ r ∈ matrixForms,
    (∀ f s, exec (r.2 f) s = issue r.1 f s (enterMat r.1 f)) ∧ (matKind r.1 = .mma ↔ r.1 = 0x143 ∨ r.1 = 0x144) := by
  simp only [matrixForms, List.forall_mem_cons]
  exact ⟨⟨exec_mtfree, by decide⟩, ⟨exec_mzero, by decide⟩, ⟨exec_mma, by decide⟩, ⟨exec_mloop, by decide⟩,
    ⟨exec_mwracc, by decide⟩, ⟨exec_mdrain, by decide⟩, ⟨exec_mdrainq, by decide⟩, by simp⟩

theorem matrixFormsEnterTheQueue : Claims.MatrixFormsEnterTheQueue := by
  intro r form f s tid t g h live hg hd va vb vc trap
  obtain ⟨runs, kind⟩ := exec_matrixForm r form
  have ran : exec (r.2 f) s = .next (enterMat r.1 f s tid t) := (runs f s).trans (issue_runs h _)
  refine ⟨fun none' => ran.trans (congrArg Host.Outcome.next (enterMat_noTile live hg none')), fun x tile => ?_⟩
  rw [enterMat_tile live hg tile] at ran
  intro names
  have regs : matRegs r.1 f x = names := matRegs_eq r.1 f x kind
  have checks : matTrapAt r.1 f x s tid t = matTrap r.1 f x va.toNat vb.toNat vc.toNat names := by rw [matTrapAt, regs]; rfl
  have translated : Translated s (matRangeAt r.1 f x s tid t).1 := translated_matRange ..
  rw [← checks, ← regs]
  refine ⟨fun n trap => ran.trans (congrArg Host.Outcome.next (enterOn_traps trap)), fun c a pass bad => ?_, fun dst pass good => ?_⟩
  · refine (ran.trans (congrArg Host.Outcome.next (enterOn_faults pass bad))).trans ?_
    rw [apply_ite (BitVec.ofNat 64)]
    rfl
  · rw [enterOn_checked pass good] at ran
    refine ⟨fun full => ran.trans (congrArg Host.Outcome.next (if_pos ?_)), fun free => ?_⟩
    · rw [← Bool.not_eq_false, matBlocked_iff translated]
      exact full
    · let v := (matRangeAt r.1 f x s tid t).1
      let o := matOpOf r.1 f s v tid t x dst
      obtain ⟨t', g', goes, ops, wg, tileMem, scratch, queue, others⟩ :=
        matEntered_goes (opc := r.1) (f := f) (x := x) (o := o) h translated hg
      have blocked : matBlocked v t (matRegs r.1 f x).length dst = false := (matBlocked_iff translated ..).2 free
      exact ⟨_, t', g', o, ran.trans (congrArg Host.Outcome.next (if_neg (by rw [blocked]; decide))), goes, queue, ops, rfl, rfl, rfl, rfl,
        rfl, rfl, rfl, rfl, rfl, rfl, rfl, wg, tileMem, scratch, others⟩

end Sys2Proof.Machine
end

section
/-! Settles O38: MATRIX_OPERATION_COMPLETE (R213, R214, R218, R223, R224), with the forms that enter the queue above. -/

namespace Sys2Proof.Machine

/-! ### The operation at the head of a queue (R213) -/

/-- The operation that a CU's queue serves, which no other one of the queue shares its number with. -/
structure HeadsQueue (s : State) (cu : Nat) (o : MatOp) (rest : List MatOp) : Prop where
  queue : (s.cu cu).mq = o :: rest
  alone : ∀ q ∈ rest, q.id ≠ o.id

section
variable {s : State} {cu : Nat} {o : MatOp} {rest : List MatOp} (head : HeadsQueue s cu o rest)
include head

/-- A change of the operation at the head. -/
theorem HeadsQueue.mq_modMat (h : MatOp → MatOp) : ((s.modMat cu o.id h).cu cu).mq = h o :: rest := by
  have others : (rest.map fun q => if q.id = o.id then h q else q) = rest :=
    (List.map_congr_left fun q hq => if_neg (head.alone q hq)).trans (List.map_id rest)
  rw [State.modMat, State.cu_modCu, if_pos rfl, head.queue, List.map_cons, if_pos rfl, others]

/-- The operation at the head leaves the queue as it ends. -/
theorem HeadsQueue.mq_finishMat (flags : Nat) : ((finishMat s cu o flags).cu cu).mq = rest := by
  have removed : ((o :: rest).filter fun q => q.id ≠ o.id) = rest := by
    rw [List.filter_cons_of_neg (by simp)]
    exact List.filter_eq_self.2 fun q hq => by simpa using head.alone q hq
  have left := State.cu_modCu s cu (fun c => { c with mq := c.mq.filter fun q => q.id ≠ o.id }) cu
  rw [if_pos rfl] at left
  refine (congrArg Cu.mq left).trans ?_
  show (s.cu cu).mq.filter _ = rest
  rw [head.queue]
  exact removed

end

/-- An operation's group takes its flags as it ends, and counts it no more; a group without batches ends none. -/
theorem thread_finishMat {s : State} {o : MatOp} {t : Thread} (ht : s.thread o.tid = some t) (none' : t.batches = []) (cu flags : Nat) :
    (finishMat s cu o flags).thread o.tid =
      some { t with mstat := (t.mstat ||| BitVec.ofNat 64 flags) &&& mstatMask, openOps := t.openOps.filter (· ≠ o.id) } := by
  have here : (finishMat s cu o flags).thread o.tid = (s.thread o.tid).map _ := (State.thread_modThread _ _ _ _).trans (if_pos rfl)
  rw [here, ht, Option.map_some, endBatches_of_open (by simp [none'])]
  simp only [none', List.map_nil]

theorem thread_finishMat_of_ne (s : State) (o : MatOp) (cu flags : Nat) {j : Nat} (hj : j ≠ o.tid) :
    (finishMat s cu o flags).thread j = s.thread j := (State.thread_modThread _ _ _ _).trans (if_neg hj)

/-! ### What an operation does to its workgroup (R209, R218, R223) -/

/-- The words that MWRACC loads, row by row. -/
def MatOp.loaded (o : MatOp) (x : Tile) (scratch : Memory) : List (List Nat) :=
  (List.range (rowsOf x.mc)).map fun i => (List.range (colsOf x.nf)).map fun n =>
    leNat (Memory.bytes scratch ((o.va.toNat + i * o.vb.toNat) % 2 ^ 64 + 4 * n) 4)

/-- A workgroup as an operation on a tile leaves it at its end. -/
def MatOp.effect (o : MatOp) (x : Tile) (g : Wg) : Wg :=
  match o.kind with
  | .free => { g with tiles := g.tiles.filter fun y => y.handle ≠ o.handle }
  | .zero => { g with tileMem := x.store g.tileMem ((x.rows g.tileMem).map fun r => r.map fun _ => 0) }
  | .wracc => { g with tileMem := x.store g.tileMem (o.loaded x g.scratch) }
  | .mma => { g with tileMem := x.store g.tileMem (runMma o x g.scratch (x.rows g.tileMem)).1 }
  | .drain | .drainq => g

/-- The MSTAT flags that an operation raises at its end. -/
def MatOp.flags (o : MatOp) (x : Tile) (g : Wg) : Nat :=
  match o.kind with
  | .mma => (runMma o x g.scratch (x.rows g.tileMem)).2
  | .drain | .drainq => (drainRuns o (x.rows g.tileMem)).2
  | .free | .zero | .wracc => 0

/-- Only multiplications and drains raise flags. -/
theorem MatOp.or_flags (o : MatOp) (x : Tile) (g : Wg) (m : Word64) : m ||| BitVec.ofNat 64 (o.flags x g) =
    if o.kind = .mma then m ||| BitVec.ofNat 64 (runMma o x g.scratch (x.rows g.tileMem)).2
    else if o.kind = .drain ∨ o.kind = .drainq then m ||| BitVec.ofNat 64 (drainRuns o (x.rows g.tileMem)).2 else m := by
  unfold MatOp.flags
  cases o.kind <;> simp

section
variable {s : State} {cu : Nat} {o : MatOp} {g : Wg} {x : Tile} (hg : s.wg o.wg = some g) (tile : opTile g o = some x)
include hg tile

/-- An operation without blocks to write ends, its workgroup changed. -/
theorem runMat_ends (clean : o.nan = []) (noBlock : o.dst = []) : ∃ u, runMat s cu o = finishMat u cu o (o.flags x g) ∧
    u.wg o.wg = some (o.effect x g) ∧ u = { s with wgs := u.wgs } := by
  have stored : ∀ rows, setTile s o x rows = s.modWg o.wg fun g => { g with tileMem := x.store g.tileMem rows } := fun rows => by
    simp only [setTile, clean, Tile.poison, List.isEmpty_nil, if_true]
  have changed : ∀ k : Wg → Wg, (s.modWg o.wg k).wg o.wg = some (k g) := fun k => by rw [State.wg_modWg, if_pos rfl, hg]; rfl
  unfold runMat MatOp.effect MatOp.flags
  simp only [hg, tile, noBlock, stored]
  cases o.kind with
  | free => exact ⟨_, rfl, changed _, rfl⟩
  | zero => exact ⟨_, rfl, changed _, rfl⟩
  | wracc =>
    refine ⟨_, rfl, ?_, rfl⟩
    rw [changed, MatOp.loaded, Tile.rows, List.length_map, List.length_range]
  | mma => exact ⟨_, rfl, changed _, rfl⟩
  | drain => exact ⟨s, rfl, hg, rfl⟩
  | drainq => exact ⟨s, rfl, hg, rfl⟩

/-- The scratchpad with a block of a drain written. -/
def blockStored (m : Memory) (runs : List (Nat × List Byte)) (base : Nat) : Memory :=
  Memory.setEnabled m base (fun i => (blockOf runs base).1.getLsbD i) (blockOf runs base).2

/-- A drain writes its next block, here to scratch. -/
theorem runMat_drains (drains : o.kind = .drain ∨ o.kind = .drainq) {p : DrainPart} {ps : List DrainPart} (blocks : o.dst = p :: ps)
    (scratch : p.space = 1) : ∃ u : State, runMat s cu o = u.modMat cu o.id (fun q => { q with dst := ps }) ∧
      u.wg o.wg = some { g with scratch := blockStored g.scratch (drainRuns o (x.rows g.tileMem)).1 p.addr } ∧ u.cus = s.cus ∧
      u.mem.dram = s.mem.dram := by
  let runs := (drainRuns o (x.rows g.tileMem)).1
  let u := regWritten (fireScratch (s.modWg o.wg fun g => { g with scratch := blockStored g.scratch runs p.addr }) o.wg p.addr 64) o.id 1
    (p.addr / 64) (blockOf runs p.addr).1 true
  have block : drainBlock s cu o runs p = (u, .ok ()) := by
    rw [drainBlock]
    simp only [scratch, if_true]
    rfl
  refine ⟨u, ?_, ?_, rfl, rfl⟩
  · unfold runMat
    simp only [hg, tile]
    rcases drains with kind | kind <;> simp only [kind, blocks, runs] at block ⊢ <;> rw [block]
  · refine (State.wg_modWg s o.wg _ o.wg).trans ?_
    rw [if_pos rfl, hg]
    rfl

end

/-- Of the block's 64 bytes those that the drain covers are written. -/
theorem byte_blockStored (m : Memory) (runs : List (Nat × List Byte)) (base j : Nat) : Memory.byte (blockStored m runs base) j =
    if base ≤ j ∧ j < base + 64 ∧ (blockOf runs base).1.getLsbD (j - base) = true then ((blockOf runs base).2[j - base]?).getD 0
    else Memory.byte m j := by
  have size : (blockOf runs base).2.length = 64 := by simp [blockOf]
  rw [blockStored, Memory.byte_setEnabled, size, Nat.add_zero, Nat.sub_zero, List.getD_eq_getElem?_getD]

/-! ### MATRIX_OPERATION_COMPLETE (R214) -/

/-- The operation at the head goes on, where nothing holds it back. -/
theorem exec_matrixOperationComplete_runs {s : State} {cu : Nat} {o : MatOp} {rest : List MatOp} {g : Wg} {t : Thread}
    (queue : (s.cu cu).mq = o :: rest) (free : ∀ q ∈ o :: rest, q.stepped = false) (hg : s.wg o.wg = some g)
    (runs : s.halting g.ctx = false) (ht : s.thread o.tid = some t) (stored : scratchStoreOpen t o.mark = false) :
    exec (.matrixOperationComplete cu o.id) s = .next (runMat s cu o) := by
  have goes : matWaits s o = false := by simp [matWaits, ht, stored]
  rw [exec_matrixOperationComplete, execMatrixOperationComplete, queue, matHead_of_first free]
  simp [hg, runs, goes]

theorem matrixOperationCompletes : Claims.MatrixOperationCompletes := by
  intro s cu o rest g x t queue alone free hg tile halting ht batches stored clean step runs at' drains
  have ran := exec_matrixOperationComplete_runs queue free hg halting ht stored
  refine ⟨fun noBlock => ?_, fun p ps drain blocks scratch _ => ?_⟩
  · obtain ⟨v, ends, wg, same⟩ := runMat_ends (cu := cu) hg tile clean noBlock
    have head : HeadsQueue v cu o rest := ⟨by rw [same]; exact queue, alone⟩
    have thread := thread_finishMat (cu := cu) (flags := o.flags x g) (s := v) (by rw [same]; exact ht) batches
    refine ⟨_, _, o.effect x g, ran.trans (congrArg Host.Outcome.next ends), head.mq_finishMat _, thread, rfl, rfl, wg, ?_, ?_,
      fun kind => ?_, fun kind => ?_, fun kind => ?_, fun kind => ?_, fun kind => ?_, fun kind => ?_, ?_, fun j hj => ?_⟩
    · unfold MatOp.effect
      cases o.kind <;> rfl
    · exact congrArg (· &&& mstatMask) (o.or_flags x g t.mstat)
    · rw [MatOp.effect, kind]
      exact ⟨rfl, rfl⟩
    · rw [MatOp.effect, kind]
    · rw [MatOp.effect, kind]
      rfl
    · rw [MatOp.effect, kind]
    · rcases kind with kind | kind <;> rw [MatOp.effect, kind]
    · unfold MatOp.effect
      cases h : o.kind with
      | free => exact absurd h kind
      | zero | wracc | mma | drain | drainq => rfl
    · rw [same]; rfl
    · rw [thread_finishMat_of_ne _ _ _ _ hj, same]
      rfl
  · obtain ⟨v, drained, wg, cus, dram⟩ := runMat_drains (cu := cu) hg tile drain blocks scratch
    have head : HeadsQueue v cu o rest := ⟨by rw [State.cu, cus]; exact queue, alone⟩
    exact ⟨_, _, ran.trans (congrArg Host.Outcome.next drained), head.mq_modMat _, wg, byte_blockStored _ _ _, rfl, rfl, dram⟩

/-- Settles O38: a form by what it leaves before it retires, an operation by what it does to its workgroup at its end. -/
theorem matrixOperations : Obligations.MatrixOperations := ⟨matrixFormsEnterTheQueue, matrixOperationCompletes⟩

end Sys2Proof.Machine
end

section
/-! Settles O41: MSLP, monitors and locks (R251, R255). -/

namespace Sys2Proof.Machine

/-! ### The end of MSLP (R255) -/

/-- Monitors of which those that MSEL names and that have fired are disarmed. -/
def disarmed (f : Fields) (l : NMap Monitor) : NMap Monitor :=
  nmap l fun k m => if m.fired && (Forms.mo f 9 6).testBit k then { m with armed := false, fired := false } else m

theorem any_mselMons {f : Fields} {t : Thread} {p : Nat × Monitor} (hp : p ∈ t.mons) :
    ((mselMons f t).any fun q => q.1 = p.1) = (Forms.mo f 9 6).testBit p.1 := by
  rw [Bool.eq_iff_iff, List.any_eq_true]
  constructor
  · rintro ⟨q, picked, same⟩
    rw [← of_decide_eq_true same]
    exact (List.mem_filter.1 picked).2
  · exact fun named => ⟨p, List.mem_filter.2 ⟨hp, named⟩, decide_eq_true rfl⟩

/-- Thread `u` with the monitors disarmed that MSLP picked of thread `t` and that have fired. -/
def Thread.slept (f : Fields) (t u : Thread) : Thread :=
  { u with mons := nmap u.mons fun k m =>
      if m.fired && (mselMons f t).any (fun p => p.1 = k) then { m with armed := false, fired := false } else m }

theorem mslpEnd_eq (f : Fields) (s : State) (tid : Nat) (t : Thread) (d : Nat) :
    mslpEnd f s tid t d =
      (retire 0x18F f s tid t { writes := [.uni f.d.toNat (BitVec.ofNat 64 d)] }).modThread tid (Thread.slept f t) :=
  retire_with (f := f) (d := { writes := [.uni f.d.toNat (BitVec.ofNat 64 d)] }) (fits_uni t _ _) (Thread.slept f t)

theorem Thread.mons_slept (f : Fields) {t u : Thread} (same : u.mons = t.mons) : (Thread.slept f t u).mons = disarmed f t.mons := by
  rw [Thread.slept, same]
  exact List.map_congr_left fun p hp => by simp only [any_mselMons hp]

section
variable {f : Fields} {s : State} {tid : Nat} {t : Thread}

/-- A further change of a thread's monitors leaves what `Advances` says. -/
theorem Advances.watching {u : State} {t' : Thread} {opc : Nat} {ws : List Write} (a : Advances s u tid t t' opc f ws)
    {g : Thread → Thread} (keeps : ∃ m, g t' = { t' with mons := m }) : Advances s (u.modThread tid g) tid t (g t') opc f ws := by
  obtain ⟨m, same⟩ := keeps
  rw [same]
  exact { a with
    thread := by rw [State.thread_modThread, if_pos rfl, a.thread, Option.map_some, same]
    wregs := a.wregs
    bytes := a.bytes }

/-- A new MSLP that ends goes on with its monitors disarmed. -/
theorem mslpEnd_advances (h : Issues s tid t 0x18F f) (d : Nat) : ∃ t',
    Advances s (mslpEnd f s tid t d) tid t t' 0x18F f [.uni f.d.toNat (BitVec.ofNat 64 d)] ∧ (mslpEnd f s tid t d).mem = s.mem ∧
      (∀ j, j ≠ tid → (mslpEnd f s tid t d).thread j = s.thread j) ∧ t'.mons = disarmed f t.mons := by
  obtain ⟨t', r⟩ := retire_retires 0x18F f { writes := [.uni f.d.toNat (BitVec.ofNat 64 d)] } h.thread h.new (fits_uni t _ _)
  have goes := r.advances (retire_blk (fits_uni t _ _) r.thread) (g := id) ⟨_, _, _, _, rfl⟩
  have slept := goes.watching (g := Thread.slept f t) ⟨_, rfl⟩
  rw [State.modThread_modThread] at slept
  rw [mslpEnd_eq]
  refine ⟨_, slept, r.mem, fun j hj => ?_, Thread.mons_slept f (r.same (·.mons) fun _ => rfl)⟩
  rw [State.thread_modThread, if_neg hj]
  exact r.others j hj

/-- A form that stood in a wait retires without a further fold of its operation. -/
theorem retire_standing {opc : Nat} {d : Done} (ht : s.thread tid = some t) (stands : t.blk.isSome = true) (sig : d.sig = none)
    (fit : t.fits d.writes = true) {t' : Thread} (after : (retire opc f s tid t d).thread tid = some t') : t'.sig = t.sig := by
  obtain ⟨t1, wrote⟩ := applyWrites_wrote d.lat tid d.writes s t ht
  have stood : t1.blk.isSome = true := by rw [wrote.same]; exact stands
  simp only [retire, fit, if_true, State.thread_modThread, wrote.thread, Option.map_some, id, Thread.foldIssue, sig, stood] at after
  rw [← Option.some.inj after]
  rw [show (t1.retired t _ _ f d).sig = t1.sig from rfl, wrote.same]

/-- So does an MSLP that stood in its wait; its operation is not folded again. -/
theorem mslpEnd_standing (ht : s.thread tid = some t) (stands : t.blk.isSome = true) (d : Nat) : ∃ t',
    (mslpEnd f s tid t d).thread tid = some t' ∧ t'.pc = nextPc t.pc ∧ t'.sig = t.sig ∧ t'.blk = none ∧
      (∀ n, ngetD t'.sreg n 0 = scalarAfter [.uni f.d.toNat (BitVec.ofNat 64 d)] n (ngetD t.sreg n 0)) ∧
      (mslpEnd f s tid t d).mem = s.mem := by
  have fit := fits_uni t f.d.toNat (BitVec.ofNat 64 d)
  obtain ⟨t', thread, pc, blk, sreg, -⟩ :=
    retire_leaves (opc := 0x18F) (f := f) (d := { writes := [.uni f.d.toNat (BitVec.ofNat 64 d)] }) ht fit
  have sig := retire_standing ht stands rfl fit thread
  obtain ⟨t1, wrote⟩ := applyWrites_wrote 8 tid [.uni f.d.toNat (BitVec.ofNat 64 d)] s t ht
  rw [mslpEnd_eq]
  refine ⟨Thread.slept f t t', ?_, pc, sig, blk, sreg, ?_⟩
  · rw [State.thread_modThread, if_pos rfl, thread, Option.map_some]
  · rw [State.modThread_mem, retire, if_pos fit, State.modThread_mem, wrote.state]

/-! ### MSLP (R255) -/

/-- The numbers of the selected monitors that have fired, as a word. -/
def firedMons (f : Fields) (t : Thread) : Nat := (mselMons f t).foldl (fun acc p => if p.2.fired then acc + 2 ^ p.1 else acc) 0

theorem firedMons_eq_zero (none' : ∀ p ∈ t.mons, p.2.fired = false) : firedMons f t = 0 :=
  List.foldlRecOn (motive := (· = 0)) _ _ rfl fun _ zero p hp => by
    rw [none' p (List.mem_filter.1 hp).1]
    exact zero

section
variable (h : Issues s tid t 0x18F f) (live : t.live f ≠ 0)
include h live

theorem exec_mslp_unarmed (unarmed : (mselMons f t).any (fun p => p.2.armed) = false) (forever : mslpTime f s tid t = 2 ^ 32 - 1) :
    exec (.mslp f) s = .next (mslpEnd f s tid t 512) := by
  rw [exec_mslp, execMslp, issue_runs h, if_neg live]
  simp only [h.new, unarmed, forever]
  rfl

/-- An MSLP that has something to wait for acts on what has fired and on its time. -/
theorem exec_mslp_sleeps (sleeps : (mselMons f t).any (fun p => p.2.armed) = true ∨ mslpTime f s tid t ≠ 2 ^ 32 - 1) :
    exec (.mslp f) s = .next (
      if firedMons f t ≠ 0 then mslpEnd f s tid t (firedMons f t)
      else if mslpTime f s tid t ≠ 2 ^ 32 - 1 && s.ns + mslpTime f s tid t ≤ s.ns then mslpEnd f s tid t 256
      else if t.stepping = 1 then s.modThread tid fun u => { u with waits := true }
      else standIn 0x18F s tid { stage := mslpStage, val := s.ns, aux := mslpTime f s tid t }) := by
  have first : ¬(t.blk.isNone && !(mselMons f t).any (fun p => p.2.armed) && decide (mslpTime f s tid t = 2 ^ 32 - 1)) = true := by
    intro both
    obtain ⟨asleep, forever⟩ := Bool.and_eq_true_iff.1 both
    rcases sleeps with armed | timed
    · rw [armed, Bool.not_true, Bool.and_false] at asleep
      cases asleep
    · exact timed (of_decide_eq_true forever)
  rw [exec_mslp, execMslp, issue_runs h, if_neg live]
  simp only [h.new] at first ⊢
  rw [if_neg first]
  rfl

theorem exec_mslp_fired (sleeps : (mselMons f t).any (fun p => p.2.armed) = true ∨ mslpTime f s tid t ≠ 2 ^ 32 - 1)
    (fired : firedMons f t ≠ 0) : exec (.mslp f) s = .next (mslpEnd f s tid t (firedMons f t)) := by
  rw [exec_mslp_sleeps h live sleeps, if_pos fired]

theorem exec_mslp_polls (none' : firedMons f t = 0) (zero : mslpTime f s tid t = 0) :
    exec (.mslp f) s = .next (mslpEnd f s tid t 256) := by
  rw [exec_mslp_sleeps h live (.inr (by simp [zero])), if_neg (not_not.2 none'), if_pos (by simp [zero])]

theorem exec_mslp_waits (sleeps : (mselMons f t).any (fun p => p.2.armed) = true ∨ mslpTime f s tid t ≠ 2 ^ 32 - 1)
    (none' : firedMons f t = 0) (some' : mslpTime f s tid t ≠ 0) (free : t.stepping = 0) :
    exec (.mslp f) s = .next (standIn 0x18F s tid { stage := mslpStage, val := s.ns, aux := mslpTime f s tid t }) := by
  have early : ¬s.ns + mslpTime f s tid t ≤ s.ns := by omega
  rw [exec_mslp_sleeps h live sleeps, if_neg (not_not.2 none'), if_neg (by simp [early]), if_neg (by simp [free])]

end

/-- An MSLP that has slept past its time with no monitor fired ends with bit 8. -/
theorem exec_mslp_expired (turn : s.env.cur = some tid) (ht : s.thread tid = some t) (ready' : ready s tid t 0x18F f = true)
    (live : t.live f ≠ 0) {since : Nat} (blk : t.blk = some { stage := mslpStage, val := since, aux := mslpTime f s tid t })
    (timed : mslpTime f s tid t ≠ 2 ^ 32 - 1) (late : since + mslpTime f s tid t ≤ s.ns) (none' : firedMons f t = 0) :
    exec (.mslp f) s = .next (mslpEnd f s tid t 256) := by
  unfold firedMons at none'
  rw [exec_mslp, execMslp, issue_runs_standing turn ht ready', if_neg live]
  simp only [blk, Option.isNone_some, Bool.false_and, Bool.false_eq_true, if_false]
  rw [if_neg (not_not.2 none'), if_pos (Bool.and_eq_true_iff.2 ⟨decide_eq_true timed, decide_eq_true late⟩)]

end

/-- A form that comes to stand in a wait changes its thread's signature and its marks of the wait alone. -/
theorem standIn_leaves {s : State} {tid : Nat} {t : Thread} (ht : s.thread tid = some t) (new : t.blk = none) (opc : Nat) (b : Blk) :
    ∃ sig, (standIn opc s tid b).thread tid = some { t with sig := sig, blk := some b, waits := true } := by
  have first : t.blk.isSome = false := by rw [new]; rfl
  rw [standIn, State.thread_modThread, if_pos rfl, ht, Option.map_some]
  simp only [first, Bool.false_eq_true, if_false, Thread.foldOpc]
  split_ifs <;> exact ⟨_, rfl⟩

theorem monitorSleepEnds : Claims.MonitorSleepEnds := by
  unfold Claims.MonitorSleepEnds
  intro f s tid t h live free sel limit fired armed ends
  have ends_of : ∀ {d}, exec (.mslp f) s = .next (mslpEnd f s tid t d) → ends d := fun ran => by
    obtain ⟨t', goes, mem, others, mons⟩ := mslpEnd_advances h _
    exact ⟨_, t', ran, goes, mem, others, mons⟩
  refine ⟨fun unarmed forever => ends_of (exec_mslp_unarmed h live unarmed forever),
    fun sleeps some' => ends_of (exec_mslp_fired h live sleeps some'), fun none' zero => ends_of (exec_mslp_polls h live none' zero),
    fun sleeps none' some' => ?_⟩
  obtain ⟨sig, thread⟩ := standIn_leaves h.thread h.new 0x18F { stage := mslpStage, val := s.ns, aux := limit }
  exact ⟨_, _, exec_mslp_waits h live sleeps none' some' free, thread, rfl, rfl, rfl, rfl, rfl⟩

/-! ### Times that pass (R251, R255) -/

theorem sleepAndLockTimesPass : Claims.SleepAndLockTimesPass := by
  intro s tid t ht
  refine ⟨fun since time blk timed late => ⟨?_, fun f turn ready' live imm same none' => ?_⟩, fun n k hk held waiter aged => ?_⟩
  · rw [exec_mslpTimeout, execMslpTimeout]
    simp only [ht, blk]
    exact if_pos (Bool.and_eq_true_iff.2
      ⟨Bool.and_eq_true_iff.2 ⟨decide_eq_true (Eq.refl mslpStage), decide_eq_true timed⟩, decide_eq_true late⟩)
  · have limit : mslpTime f s tid t = time := by rw [mslpTime, if_pos imm, same]
    obtain ⟨t', thread, pc, sig, new, sreg, mem⟩ := mslpEnd_standing (f := f) ht (by rw [blk]; rfl) 256
    exact ⟨_, t', exec_mslp_expired turn ht ready' live (limit.symm ▸ blk) (limit.symm ▸ timed) (limit.symm ▸ late)
      (firedMons_eq_zero none'), thread, pc, sig, new, sreg, mem⟩
  · rw [exec_lockBreak, execLockBreak]
    simp only [ht, hk, held, waiter, aged]
    simp

/-- Settles O41: an MSLP ends or stands in its wait, and the two events end a wait and a lock whose times have passed. -/
theorem monitorsAndLocks : Obligations.MonitorsAndLocks := ⟨monitorSleepEnds, sleepAndLockTimesPass⟩

end Sys2Proof.Machine
end

section
/-! For O49: FZRD, FZWR, FZPC, FZMASK and FZLANE (R406 to R410). -/

namespace Sys2Proof.Machine

/-! ### A form that changes the frozen group and goes on -/

/-- Group `gid` stands at `g'` in `s1`, which else differs from `s` in fresh names alone. -/
structure Patched (s s1 : State) (gid : Nat) (g' : Thread) : Prop where
  thread : s1.thread gid = some g'
  others : ∀ j, j ≠ gid → s1.thread j = s.thread j
  wgs : s1.wgs = s.wgs
  mem : s1.mem = s.mem
  cyc : s1.cyc = s.cyc

theorem Patched.modThread {s : State} {gid : Nat} {g : Thread} (hg : s.thread gid = some g) (k : Thread → Thread) :
    Patched s (s.modThread gid k) gid (k g) where
  thread := by rw [State.thread_modThread, if_pos rfl, hg]; rfl
  others j hj := by rw [State.thread_modThread, if_neg hj]
  wgs := rfl
  mem := rfl
  cyc := rfl

theorem fits_tadpole {t : Thread} (tadpole : t.isGroup = false) (ws : List Write) : t.fits ws = true := by
  simp [Thread.fits, tadpole]

section
variable {f : Fields} {s : State} {tid gid : Nat} {t g : Thread}

/-- A tadpole's form that has changed the frozen group retires, and leaves the group as it changed it. -/
theorem Patched.retires {s1 : State} {g' : Thread} (p : Patched s s1 gid g') {opc : Nat} (h : Issues s tid t opc f)
    (tadpole : t.isGroup = false) (other : gid ≠ tid) {i : Instr} {ws : List Write}
    (ran : exec i s = .next (retire opc f s1 tid t { writes := ws })) :
    ∃ u t', exec i s = .next u ∧ Advances s u tid t t' opc f ws ∧ u.thread gid = some g' ∧
      ∀ j, j ≠ tid → j ≠ gid → u.thread j = s.thread j := by
  have fit := fits_tadpole tadpole ws
  obtain ⟨t', r⟩ := retire_retires opc f { writes := ws } ((p.others tid other.symm).trans h.thread) h.new fit
  have goes := r.advances (retire_blk fit r.thread) (g := id) ⟨_, _, _, _, rfl⟩
  rw [← retire_with fit] at goes
  exact ⟨_, t', ran, goes.before tadpole p.mem p.cyc (by rw [State.wg, p.wgs]; rfl), (r.others gid other).trans p.thread,
    fun j hj hj' => (r.others j hj).trans (p.others j hj')⟩

/-- A tadpole's form that only reads the frozen group retires with what it read. -/
theorem tadpole_retires {opc : Nat} (h : Issues s tid t opc f) (tadpole : t.isGroup = false) {i : Instr} {d : Done}
    (ran : exec i s = .next (retire opc f s tid t d)) : RetiresWith i opc f s tid t d := by
  obtain ⟨t', r⟩ := retire_retires opc f d h.thread h.new (fits_tadpole tadpole _)
  exact ⟨_, t', ran, r⟩

/-! ### Selector words (R407) -/

/-- The selector and the lane that a word names. -/
theorem selector_of_word (v : Word64) : v.toNat % 2 ^ 32 % 65536 = v.toNat % 2 ^ 16 ∧
    (v.toNat % 2 ^ 32) >>> 16 % 32 = v.toNat / 2 ^ 16 % 32 := by
  rw [Nat.shiftRight_eq_div_pow]
  omega

theorem fzItem_vector {sel : Nat} (low : sel < 320) (s : State) (gid : Nat) (g : Thread) (lane : Nat) :
    fzItem s gid g sel lane = (g.vlane sel lane).setWidth 64 := if_pos low

theorem fzItem_scalar {sel : Nat} (low : 320 ≤ sel) (high : sel < 384) (s : State) (gid : Nat) (g : Thread) (lane : Nat) :
    fzItem s gid g sel lane = ngetD g.sreg (sel - 320) 0 := (if_neg low.not_gt).trans (if_pos high)

theorem fzItem_pc (s : State) (gid : Nat) (g : Thread) (lane : Nat) : fzItem s gid g 0x200 lane = g.pc := rfl

theorem selWritable_of_lt {sel : Nat} (low : sel < 384) : selWritable sel = true := by
  have register : sel < 0x18F := by omega
  simp [selWritable, register]

/-! ### Writing an item (R409) -/

/-- The write of a v register's lane. -/
def laneWrite (sel lane : Nat) (v : Word64) : Write := .vec sel (mkLanes fun _ => v.setWidth 32) (BitVec.ofNat 32 (2 ^ lane))

theorem newNames_laneWrite (g : Thread) (sel lane : Nat) (v : Word64) :
    newNames g [laneWrite sel lane v] = if (nget g.vmap sel).isNone then [sel] else [] := by
  cases h : nget g.vmap sel with
  | none => simp [newNames, laneWrite, h, List.eraseDups_cons]
  | some p => simp [newNames, laneWrite, h]

theorem fzWrite_vector {sel : Nat} (low : sel < 320) (s : State) (gid : Nat) (g : Thread) (lane : Nat) (v : Word64) :
    fzWrite s gid g sel lane v =
      if g.fits [laneWrite sel lane v] then (applyWrite 0 gid s (laneWrite sel lane v), 0) else (s, 1) := if_pos low

/-- A name that is not mapped is not written where the group has no room for it. -/
theorem fzWrite_full {sel : Nat} (low : sel < 320) (group : g.isGroup = true) (new : nget g.vmap sel = none)
    (full : g.budget ≤ g.vmap.length) (s : State) (gid lane : Nat) (v : Word64) : fzWrite s gid g sel lane v = (s, 1) := by
  have room : ¬g.vmap.length + 1 ≤ g.budget := by omega
  rw [fzWrite_vector low, if_neg]
  simp [Thread.fits, group, newNames_laneWrite, new, room]

theorem fzWrite_mapped {sel : Nat} (low : sel < 320) (mapped : (nget g.vmap sel).isSome = true) (s : State) (gid lane : Nat) (v : Word64) :
    fzWrite s gid g sel lane v = (applyWrite 0 gid s (laneWrite sel lane v), 0) := by
  have known : (nget g.vmap sel).isNone = false := by rw [← Option.not_isSome, mapped]; rfl
  rw [fzWrite_vector low, if_pos (Thread.fits_of_newNames g _ (by rw [newNames_laneWrite, known]; rfl))]

theorem fzWrite_scalar {sel : Nat} (low : 320 ≤ sel) (high : sel < 384) (s : State) (gid : Nat) (g : Thread) (lane : Nat) (v : Word64) :
    fzWrite s gid g sel lane v = (s.modThread gid fun u =>
      { u with sreg := nset u.sreg (sel - 320) v, corrupt := u.corrupt.filter fun x => x ≠ sel }, 0) :=
  (if_neg low.not_gt).trans (if_pos high)

theorem patched_laneWrite (hg : s.thread gid = some g) (sel lane : Nat) (v : Word64) :
    Patched s (applyWrite 0 gid s (laneWrite sel lane v)) gid
      (g.writeVec s.env.nextId sel (fun l => ((mkLanes fun _ => v.setWidth 32)[l]?).getD 0) (BitVec.ofNat 32 (2 ^ lane))) :=
  { Patched.modThread (s := s.fresh.2) hg _ with }

theorem vlane_laneWrite (g : Thread) (id sel lane : Nat) (v : Word64) (m : Nat) {l : Nat} (hl : l < 32) :
    (g.writeVec id sel (fun l => ((mkLanes fun _ => v.setWidth 32)[l]?).getD 0) (BitVec.ofNat 32 (2 ^ lane))).vlane m l =
      if m = sel ∧ l = lane then v.setWidth 32 else g.vlane m l := by
  rw [Thread.vlane_writeVec _ _ _ _ _ _ _ hl, getLsbD_laneBit hl, mkLanes_get _ _ hl]
  simp only [decide_eq_true_eq, eq_comm (a := sel), eq_comm (a := lane), Option.getD_some]

/-! ### FZRD and FZWR -/

section
variable (live : t.live f ≠ 0) (cap : findCap s t (uniVal s tid t f.a.toNat) = .ok (gid, g)) (free : g.stepping = 0)
include live cap free

theorem exec_fzrd_reads (h : Issues s tid t 0x2C0 f) (valid : selOk ((trpB s tid t f).toNat % 2 ^ 32) = true) :
    exec (.fzrd f) s = .next (retire 0x2C0 f s tid t
      { writes := trpOut f t (fzItem s gid g ((trpB s tid t f).toNat % 2 ^ 16) ((trpB s tid t f).toNat / 2 ^ 16 % 32)) }) := by
  obtain ⟨sel, lane⟩ := selector_of_word (trpB s tid t f)
  rw [exec_fzrd, execFzrd, trpForm_runs h live cap free]
  simp only [valid, sel, lane, Bool.not_true, Bool.false_eq_true, if_false]

theorem exec_fzrd_traps (h : Issues s tid t 0x2C0 f) (bad : ¬selOk ((trpB s tid t f).toNat % 2 ^ 32) = true) :
    exec (.fzrd f) s = .next (takeFault s tid (trapSyn 0x80000060 (t.live f)) t.pc) := by
  rw [exec_fzrd, execFzrd, trpForm_runs h live cap free]
  simp only [bad, Bool.not_false, if_true]

theorem exec_fzwr_writes (h : Issues s tid t 0x2C1 f) (valid : selOk ((trpB s tid t f).toNat % 2 ^ 32) = true)
    (writable : selWritable ((trpB s tid t f).toNat % 2 ^ 16) = true) {u : State} {status : Nat}
    (writes : fzWrite s gid g ((trpB s tid t f).toNat % 2 ^ 16) ((trpB s tid t f).toNat / 2 ^ 16 % 32) (uniVal s tid t f.c.toNat) =
      (u, status)) :
    exec (.fzwr f) s = .next (retire 0x2C1 f u tid t { writes := [.uni f.d.toNat (BitVec.ofNat 64 status)] }) := by
  obtain ⟨sel, lane⟩ := selector_of_word (trpB s tid t f)
  rw [exec_fzwr, execFzwr, trpForm_runs h live cap free]
  simp only [valid, writable, sel, lane, writes, Bool.not_true, Bool.false_eq_true, if_false]

theorem exec_fzwr_traps (h : Issues s tid t 0x2C1 f) (bad : ¬selOk ((trpB s tid t f).toNat % 2 ^ 32) = true) :
    exec (.fzwr f) s = .next (takeFault s tid (trapSyn 0x80000060 (t.live f)) t.pc) := by
  rw [exec_fzwr, execFzwr, trpForm_runs h live cap free]
  simp only [bad, Bool.not_false, if_true]

theorem exec_fzwr_readOnly (h : Issues s tid t 0x2C1 f) (valid : selOk ((trpB s tid t f).toNat % 2 ^ 32) = true)
    (readOnly : selWritable ((trpB s tid t f).toNat % 2 ^ 16) = false) :
    exec (.fzwr f) s = .next (takeFault s tid (trapSyn 0x80000061 (t.live f)) t.pc) := by
  obtain ⟨sel, -⟩ := selector_of_word (trpB s tid t f)
  rw [exec_fzwr, execFzwr, trpForm_runs h live cap free]
  simp only [valid, sel, readOnly, Bool.not_true, Bool.not_false, Bool.false_eq_true, if_false, if_true]

/-! ### FZPC, FZMASK and FZLANE (R410) -/

theorem exec_fzpc_sets (h : Issues s tid t 0x2C2 f) (slot : slotOk (uniVal s tid t f.b.toNat) = true)
    (high : pcHighOk (uniVal s tid t f.b.toNat) = true) :
    exec (.fzpc f) s = .next (retire 0x2C2 f (s.modThread gid fun u =>
      { u with pc := uniVal s tid t f.b.toNat, blk := none, wb := none, ops := [] }) tid t {}) := by
  rw [exec_fzpc, execFzpc, trpForm_runs h live cap free]
  simp only [slot, high, Bool.not_true, Bool.false_eq_true, if_false]

theorem exec_fzpc_misaligned (h : Issues s tid t 0x2C2 f) (slot : slotOk (uniVal s tid t f.b.toNat) = false) :
    exec (.fzpc f) s = .next (takeFault s tid (targetTrap cMISAL (uniVal s tid t f.b.toNat)) t.pc) := by
  rw [exec_fzpc, execFzpc, trpForm_runs h live cap free]
  simp only [slot, Bool.not_false, if_true]

theorem exec_fzpc_untranslated (h : Issues s tid t 0x2C2 f) (slot : slotOk (uniVal s tid t f.b.toNat) = true)
    (high : pcHighOk (uniVal s tid t f.b.toNat) = false) :
    exec (.fzpc f) s = .next (takeFault s tid (targetTrap cXLAT (uniVal s tid t f.b.toNat)) t.pc) := by
  rw [exec_fzpc, execFzpc, trpForm_runs h live cap free]
  simp only [slot, high, Bool.not_true, Bool.not_false, Bool.false_eq_true, if_false, if_true]

theorem exec_fzmask_sets (h : Issues s tid t 0x2C3 f) :
    exec (.fzmask f) s = .next (retire 0x2C3 f (s.modThread gid fun u =>
      { u.setExm ((trpB s tid t f).setWidth 32) with corrupt := u.corrupt.filter fun i => i ≠ 0x201 }) tid t
        { writes := [.uni f.d.toNat (((trpB s tid t f).setWidth 32 &&& g.curC).setWidth 64)] }) := by
  rw [exec_fzmask, execFzmask, trpForm_runs h live cap free]
  rfl

theorem exec_fzlane_kills (h : Issues s tid t 0x2C5 f) :
    exec (.fzlane f) s = .next (retire 0x2C5 f (s.modThread gid fun u => u.killLanes ((trpB s tid t f).setWidth 32)) tid t
      { writes := [.uni f.d.toNat ((g.deadm ||| ((trpB s tid t f).setWidth 32 &&& g.lmask &&& ~~~g.exited)).setWidth 64)] }) := by
  rw [exec_fzlane, execFzlane, trpForm_runs h live cap free]
  rfl

end

/-- The lanes that die leave the mask EXM. -/
theorem exm_killLanes (g : Thread) (m : Mask) :
    (g.killLanes m).exm &&& (g.deadm ||| (m &&& g.lmask &&& ~~~g.exited)) &&& ~~~g.deadm = 0 := by
  simp only [Thread.killLanes, Thread.dropLanes]
  generalize m &&& g.lmask &&& ~~~g.exited = n
  ext i
  simp only [BitVec.getElem_and, BitVec.getElem_or, BitVec.getElem_not]
  cases n[i] <;> cases g.deadm[i] <;> simp

theorem frozenStateIsReadAndPatched : Claims.FrozenStateIsReadAndPatched := by
  unfold Claims.FrozenStateIsReadAndPatched
  intro f s tid t g gid tadpole live other cap hg free v sel lane c valid reads patches target mask
  have reads_item : ∀ {x}, Issues s tid t 0x2C0 f → valid → fzItem s gid g sel lane = x → reads x := fun h ok item =>
    tadpole_retires h tadpole (item ▸ exec_fzrd_reads live cap free h ok)
  have patches_of : ∀ {s1 g' i opc ws} {holds : Thread → Prop}, Issues s tid t opc f → Patched s s1 gid g' →
      exec i s = .next (retire opc f s1 tid t { writes := ws }) → holds g' → g'.fz = g.fz → g'.log = g.log →
      patches i opc ws holds := fun h p ran new fz log => by
    obtain ⟨u, t', ran', goes, thread, others⟩ := p.retires h tadpole other ran
    exact ⟨u, t', _, ran', goes, thread, new, fz, log, others⟩
  refine ⟨fun h ok => reads_item h ok rfl, fun h ok low => reads_item h ok (fzItem_vector low ..),
    fun h ok low high => reads_item h ok (fzItem_scalar low high ..), fun h ok pc => reads_item h ok (pc ▸ fzItem_pc ..),
    fun h bad => exec_fzrd_traps live cap free h bad, fun h ok low high => ?_, fun h ok low group new full => ?_,
    fun h ok low mapped => ?_, fun h slot high => ?_, fun h slot => exec_fzpc_misaligned live cap free h slot,
    fun h slot high => exec_fzpc_untranslated live cap free h slot high, fun h bad => exec_fzwr_traps live cap free h bad,
    fun h ok readOnly => exec_fzwr_readOnly live cap free h ok readOnly, fun h => ?_, fun h => ?_⟩
  · exact patches_of h (.modThread hg _)
      (exec_fzwr_writes live cap free h ok (selWritable_of_lt high) (fzWrite_scalar low high ..)) ⟨rfl, rfl, rfl, rfl⟩ rfl rfl
  · exact tadpole_retires h tadpole (exec_fzwr_writes live cap free h ok (selWritable_of_lt (low.trans (by decide)))
      (fzWrite_full low group new full ..))
  · exact patches_of h (patched_laneWrite hg sel lane c)
      (exec_fzwr_writes live cap free h ok (selWritable_of_lt (low.trans (by decide))) (fzWrite_mapped low mapped ..))
      ⟨rfl, fun m l hl => vlane_laneWrite g _ sel lane c m hl⟩ rfl rfl
  · exact patches_of h (.modThread hg _) (exec_fzpc_sets live cap free h slot high) ⟨rfl, rfl⟩ rfl rfl
  · exact patches_of h (.modThread hg _) (exec_fzmask_sets live cap free h) ⟨rfl, rfl⟩ rfl rfl
  · exact patches_of h (.modThread hg _) (exec_fzlane_kills live cap free h) ⟨rfl, exm_killLanes g _, rfl⟩ rfl rfl

end

end Sys2Proof.Machine
end

section
/-! Settles O49: FZLOG.RD, FZLOG.REG, FZLOG.PUT and FZLOG.DONE (R237, R411), with the forms above. -/

namespace Sys2Proof.Machine

section
variable {f : Fields} {s : State} {tid gid : Nat} {t g : Thread}

/-! ### The entry that a form names (R411) -/

section
variable (h : Issues s tid t 0x2C4 f) (live : t.live f ≠ 0) (cap : findCap s t (uniVal s tid t f.a.toNat) = .ok (gid, g))
  (free : g.stepping = 0)
include h live cap free

theorem logForm_missing (none' : g.entryAt (uniVal s tid t f.b.toNat).toNat = none) (needFault : Bool)
    (body : State → Nat → Thread → Nat → LogEntry → State) :
    logForm f s needFault body = .next (takeFault s tid (trapSyn 0x80000062 (t.live f)) t.pc) := by
  rw [logForm, trpForm_runs h live cap free]
  simp only [none']

section
variable {e : LogEntry} (entry : g.entryAt (uniVal s tid t f.b.toNat).toNat = some e)
include entry

theorem logForm_sound (sound : e.state ≠ 1) (body : State → Nat → Thread → Nat → LogEntry → State) :
    logForm f s true body = .next (takeFault s tid (trapSyn 0x80000062 (t.live f)) t.pc) := by
  rw [logForm, trpForm_runs h live cap free]
  simp [entry, sound]

theorem logForm_runs {needFault : Bool} (fit : needFault = true → e.state = 1) (body : State → Nat → Thread → Nat → LogEntry → State) :
    logForm f s needFault body = .next (body s tid t gid e) := by
  rw [logForm, trpForm_runs h live cap free]
  cases needFault with
  | false => simp [entry]
  | true => simp [entry, fit rfl]

/-! ### What the forms do -/

theorem exec_fzlogRd_reads : exec (.fzlogRd f) s = .next (retire 0x2C4 f s tid t
    { writes := trpOut f t (BitVec.ofNat 64 (e.image / 2 ^ (64 * Forms.ex f 2 0))) }) := by
  rw [exec_fzlogRd, execFzlogRd, logForm_runs h live cap free entry (needFault := false) nofun, Nat.shiftRight_eq_div_pow]

theorem exec_fzlogReg_reads (register : Forms.ex f 13 10 < (e.operand (Forms.ex f 9 8)).regs) :
    exec (.fzlogReg f) s = .next (retire 0x2C4 f s tid t
      { writes := trpOut f t (((e.operand (Forms.ex f 9 8)).lane (Forms.ex f 13 10) (Forms.ex f 7 3)).setWidth 64) }) := by
  rw [exec_fzlogReg, execFzlogReg, logForm_runs h live cap free entry (needFault := false) nofun]
  exact congrArg Host.Outcome.next (if_neg register.not_ge)

theorem exec_fzlogReg_traps (beyond : (e.operand (Forms.ex f 9 8)).regs ≤ Forms.ex f 13 10) :
    exec (.fzlogReg f) s = .next (takeFault s tid (trapSyn 0x80000062 (t.live f)) t.pc) := by
  rw [exec_fzlogReg, execFzlogReg, logForm_runs h live cap free entry (needFault := false) nofun]
  exact congrArg Host.Outcome.next (if_pos beyond)

/-- An entry with results for lanes keeps the value for the lane and the register that EXT names. -/
theorem exec_fzlogPut_keeps (faulted : e.state = 1) (register : Forms.ex f 13 10 < (e.operand (Forms.ex f 9 8)).regs)
    (lanes : ∀ c, e.dest ≠ .uniform c) :
    exec (.fzlogPut f) s = .next (retire 0x2C4 f (s.modEntry gid e.id fun e =>
      { e with put := nset e.put (16 * Forms.ex f 7 3 + Forms.ex f 13 10) ((uniVal s tid t f.c.toNat).setWidth 32) }) tid t {}) := by
  rw [exec_fzlogPut, execFzlogPut, logForm_runs h live cap free entry fun _ => faulted]
  refine congrArg Host.Outcome.next ((if_neg register.not_ge).trans ?_)
  cases dest : e.dest with
  | uniform c => exact absurd dest (lanes c)
  | none => rfl
  | vector names => rfl

theorem exec_fzlogDone_completes (faulted : e.state = 1) (ended : e.todo = []) :
    exec (.fzlogDone f) s = .next (retire 0x2C4 f (completeEntry s gid e.id) tid t {}) := by
  rw [exec_fzlogDone, execFzlogDone, logForm_runs h live cap free entry fun _ => faulted]
  simp only [settleEntry, ended, List.isEmpty_nil, if_true]

end
end

/-! ### The completion of a load without a destination (R100, R238) -/

/-- A group without a load of its log, which no longer counts; a load on which the group waited restarts its watchdog (R424). -/
def Thread.loadEnded (g : Thread) (e : LogEntry) (now : Nat) : Thread :=
  { g with wdSince := if g.waits && isLoad e.opc && accAs e.f = 2 then now else g.wdSince,
           log := g.log.filter fun x => x.id ≠ e.id,
           fpstat := if e.wo then raiseFlags g.fpctl g.fpstat (flagWO + flagOF) else g.fpstat,
           cL := g.cL - 1 }

theorem completeEntry_load {e : LogEntry} (hg : s.thread gid = some g) (log : g.log = [e]) (load : e.opc = 0x180) (none' : e.dest = .none) :
    completeEntry s gid e.id = s.modThread gid fun u => u.loadEnded e s.cyc := by
  have entry : s.entry gid e.id = some e := (State.entry_of_thread hg _).trans (Thread.entry_alone log)
  have counter : counterOf e.opc e.f = some 0 := by rw [load]; rfl
  simp only [completeEntry, entry, writeResults, none', counter]
  congr 1
  funext u
  simp only [Thread.countDown, Thread.loadEnded]
  split_ifs <;> rfl

theorem frozenLogIsReadAndCompleted : Claims.FrozenLogIsReadAndCompleted := by
  unfold Claims.FrozenLogIsReadAndCompleted
  intro f s tid t g gid tadpole live other h cap hg free off reg trap out
  refine ⟨fun none' => ⟨(exec_fzlogRd f s).trans (logForm_missing h live cap free none' ..),
      (exec_fzlogReg f s).trans (logForm_missing h live cap free none' ..),
      (exec_fzlogPut f s).trans (logForm_missing h live cap free none' ..),
      (exec_fzlogDone f s).trans (logForm_missing h live cap free none' ..)⟩, fun e entry =>
    ⟨tadpole_retires h tadpole (exec_fzlogRd_reads h live cap free entry),
      fun register => tadpole_retires h tadpole (exec_fzlogReg_reads h live cap free entry register),
      fun beyond => exec_fzlogReg_traps h live cap free entry beyond,
      fun sound => ⟨(exec_fzlogPut f s).trans (logForm_sound h live cap free entry sound _),
        (exec_fzlogDone f s).trans (logForm_sound h live cap free entry sound _)⟩,
      fun m faulted log register lanes key => ?_, fun faulted log load ended none' => ?_⟩⟩
  · obtain ⟨u, t', ran, goes, thread, -⟩ :=
      (Patched.modThread hg _).retires h tadpole other (exec_fzlogPut_keeps h live cap free entry faulted register lanes)
    rw [Thread.modEntry_alone log] at thread
    exact ⟨u, t', _, ran, goes, thread, by rw [key], rfl⟩
  · have ran := exec_fzlogDone_completes h live cap free entry faulted ended
    rw [completeEntry_load hg log load none'] at ran
    obtain ⟨u, t', ran', goes, thread, -⟩ := (Patched.modThread hg _).retires h tadpole other ran
    exact ⟨u, t', _, ran', goes, thread, by simp [Thread.loadEnded, log], rfl, rfl, rfl, rfl⟩

end

/-- Settles O49: a form on the frozen group retires with what it reads, or patches the group's thread alone. -/
theorem frozenState : Obligations.FrozenState := ⟨frozenStateIsReadAndPatched, frozenLogIsReadAndCompleted⟩

end Sys2Proof.Machine
end

section
/-! Refutes O7: the home's answer to an atomic of a module in recovery is held, and does not leave yet (R345). -/

namespace Sys2Proof.Machine

/-- An unsigned addition of 1 to the first word of sector 0, which a packet of module 1 brought. -/
def recoveringAtom : HomeAtom :=
  { pkt := some { Packet.blank with pkind := 7, smod := 1 }, tid := 0, eid := 0, lane := 0, sector := 0, addr := 0, op := 0, ty := 1,
    b := 1, c := 0 }

/-- Home 0 holds every token of sector 0, for which that atomic is queued, and module 1 is in recovery. -/
def recoveringState : State :=
  { State.reset with
    mem := { MemSys.reset with homes := [(0, { Home.reset with atoms := [recoveringAtom] })] },
    fab := { Fabric.reset with peers := [(1, .recov 0)] } }

/-- The atomic is performed at once, and its answer is held for module 1. -/
theorem directAtoms_recoveringState : ((directAtoms recoveringState 0).home 0).hreq = none ∧
    ((directAtoms recoveringState 0).home 0).atoms = [] ∧ (directAtoms recoveringState 0).fab.held.length = 1 ∧
    (raiseHome (directAtoms recoveringState 0) 0).fab.out = [] := by decide +kernel

theorem exec_homeRequest_recoveringState :
    exec (.homeRequest 0) recoveringState = .next (raiseHome (directAtoms recoveringState 0) 0) := by
  obtain ⟨quiet, -⟩ := directAtoms_recoveringState
  rw [exec_homeRequest, execHomeRequest]
  simp only [quiet]

/-- Refutes O7: the module that sent an atomic gets the old value only once it is no longer in recovery; the statement has the answer
leave in every state. -/
theorem not_homePerformsAtomics : ¬Obligations.HomePerformsAtomics := by
  unfold Obligations.HomePerformsAtomics
  intro h
  obtain ⟨-, packets, -⟩ := h recoveringState 0 recoveringAtom rfl rfl rfl
  obtain ⟨u, ran, -, -, r, left, -⟩ := packets _ rfl (.inl rfl) rfl rfl
  obtain ⟨-, -, -, none'⟩ := directAtoms_recoveringState
  rw [exec_homeRequest_recoveringState] at ran
  rw [← Host.Outcome.next.inj ran, none'] at left
  cases left

end Sys2Proof.Machine
end

section
/-! Settles O44: the faults of the copy and the fabric engine (R276, R344). -/

namespace Sys2Proof.Machine

/-! ### The group that an engine's fault freezes (R102, R396) -/

theorem raiseTrigger_fab (s : State) (c : Nat) (x : Trigger) : (raiseTrigger s c x).fab = s.fab := by
  simp only [raiseTrigger]
  split_ifs <;> rfl

theorem takeFault_fab {s : State} {tid : Nat} {t : Thread} {x : Trap} (resume : Word64) (ht : s.thread tid = some t)
    (group : t.kind = .group) (step : t.stepping = 0) (cause : x.cause ≠ cMISAL) (sysent : (s.ctx t.ctx).sysent ≠ 0) :
    (takeFault s tid x resume).fab = s.fab := by
  obtain ⟨g, queued⟩ := queueSpawn_modCu (s := s.setThread tid (t.frozenBy x (faultRec s t x) resume)) sysent tid (faultRec s t x)
    (decide (x.cause = cDIEL)) false false x.imp 0
  simp only [takeFault_running resume ht group step cause, queued]
  split_ifs
  · exact raiseTrigger_fab ..
  · rfl

/-- A running group that can take the fault of an engine's command: it is in an active slot, not frozen and not stepped, and its context
has system code. -/
structure TakesEngineFault (s : State) (tid : Nat) (t : Thread) : Prop where
  thread : s.thread tid = some t
  group : t.isGroup = true
  active : t.place = .active
  runs : t.fz = none
  step : t.stepping = 0
  sysent : (s.ctx t.ctx).sysent ≠ 0

/-- An engine's fault of a cause other than MISAL freezes the group where it stands, and changes no workgroup, no memory and no command. -/
theorem TakesEngineFault.freezes {s : State} {tid : Nat} {t : Thread} (takes : TakesEngineFault s tid t) (w : Nat) (x : Trap)
    (cause : x.cause ≠ cMISAL) :
    let u := (raiseEngine s w tid x).1
    let x' : Trap := { x with imp := true, async := true }
    u.thread tid = some (t.frozenBy x' (faultRec s t x') t.pc) ∧ u.wgs = s.wgs ∧ u.mem = s.mem ∧ u.fab = s.fab := by
  obtain ⟨ht, group, active, runs, step, sysent⟩ := takes
  have kind : t.kind = .group := by simpa [Thread.isGroup] using group
  rw [raiseEngine_running w x ht active runs]
  obtain ⟨thr, wgs, mem⟩ := takeFault_group (x := { x with imp := true, async := true }) t.pc ht kind step cause sysent
  refine ⟨?_, wgs, mem, takeFault_fab t.pc ht kind step cause sysent⟩
  rw [State.thread, thr, nget_nset_self]

/-! ### A source that does not translate (R75, R447) -/

section
variable {s : State} {cu ctx va : Nat} (walks : walk s ctx va = none) (noRlb : (s.cu cu).rlb = [])
  (noWalker : ngetD s.mem.walkers (cu / 64) [] = []) (low : va < 2 ^ 57)
include walks noRlb noWalker low

theorem engineXl_xlat (wr : Bool) : engineXl s cu ctx va wr = (walkReads s cu ctx va, .bad cXLAT va) := by
  have untranslated : translate s cu ctx va = none := by simp [translate, walks, rlbXl, noRlb, walkerXl, noWalker]
  simp only [engineXl, low.not_ge, if_false, xlate, untranslated]

/-- The byte of a global source is not read. -/
theorem engineByte_xlat (w eng : Nat) : engineByte s cu ctx w eng 0 va = (walkReads s cu ctx va, .bad cXLAT va) := by
  simp [engineByte, engineXl_xlat walks noRlb noWalker low]

/-- Bytes of a global source are not read where the first one does not translate. -/
theorem engineBytes_xlat (w eng : Nat) {n : Nat} (some' : 0 < n) :
    engineBytes s cu ctx w eng 0 va n = (walkReads s cu ctx va, .bad cXLAT va) := by
  obtain ⟨n, rfl⟩ := Nat.exists_eq_succ_of_ne_zero some'.ne'
  have first : (va + 0) % 2 ^ 64 = va := Nat.mod_eq_of_lt (by omega)
  rw [engineBytes, List.range_succ_eq_map, List.foldl_cons, first]
  simp only [engineByte_xlat walks noRlb noWalker low]
  exact List.foldl_fixed' (fun _ => rfl) _

end

/-- The fault of the first read of a fold is that of the fold. -/
theorem engineFold_bad {α β : Type} {s u : State} {i : α} {step : State → α → State × Eng (β × Bool)} {cause va : Nat}
    (first : step s i = (u, .bad cause va)) (l : List α) : engineFold s (i :: l) step = (u, .bad cause va) := by
  rw [engineFold, List.foldl_cons]
  simp only [first]
  exact List.foldl_fixed' (fun _ => rfl) _

/-! ### The first block of a linear command (R265, R276) -/

section
variable {c : CopyCmd} (linear : c.kind = 0)
include linear

theorem byteSrc_linear (a : Nat) : c.byteSrc a =
    if (a + 2 ^ 64 - c.dst) % 2 ^ 64 < c.len then .addr ((c.src + (a + 2 ^ 64 - c.dst) % 2 ^ 64) % 2 ^ 64) else .skip := by
  simp only [CopyCmd.byteSrc, linear]

theorem block_linear_first (length : c.len ≠ 0) (aligned : c.dst % 64 = 0) : c.block 0 = some c.dst := by
  have range : c.range = (c.dst, c.len) := by simp only [CopyCmd.range, linear]
  have below : c.dst < 2 ^ 64 := c.w2.isLt
  have base : (c.dst - c.dst % 64 + 64 * 0) % 2 ^ 64 = c.dst := by omega
  have blocks : ¬(c.dst % 64 + c.len + 63) / 64 ≤ 0 := by omega
  simp only [CopyCmd.block, range, base, length, blocks, decide_false, Bool.or_self, Bool.false_eq_true, if_false]

/-- The first byte of the destination is filled from the first one of the source. -/
theorem byteAt_linear_first (length : c.len ≠ 0) (buf : NMap (List Byte)) : c.byteAt buf ((c.dst + 0) % 2 ^ 64) = some (.inr c.src) := by
  have dst : c.dst < 2 ^ 64 := c.w2.isLt
  have src : c.src < 2 ^ 64 := c.w1.isLt
  have first : ((c.dst + 0) % 2 ^ 64 + 2 ^ 64 - c.dst) % 2 ^ 64 = 0 := by omega
  rw [CopyCmd.byteAt, byteSrc_linear linear, first, if_pos (Nat.pos_of_ne_zero length), Nat.add_zero, Nat.mod_eq_of_lt src]

theorem readList_linear (s : State) (cu ctx w base : Nat) : readList s cu ctx w c base = (s, .ok ([], false)) := by
  have none' : c.listParts base = [] := by
    rw [CopyCmd.listParts, List.filterMap_eq_nil_iff.2]
    · rfl
    · intro i _
      rw [byteSrc_linear linear]
      split_ifs <;> rfl
  rw [readList, none']
  rfl

/-- A linear command whose first source byte does not translate meets XLAT at its address. -/
theorem copyData_xlat {s : State} {w : Nat} {g : Wg} (source : c.sas = 0) (pos : c.pos = 0) (length : c.len ≠ 0)
    (aligned : c.dst % 64 = 0) (low : c.src < 2 ^ 57) (walks : walk s g.ctx c.src = none) (noRlb : (s.cu g.cu).rlb = [])
    (noWalker : ngetD s.mem.walkers (g.cu / 64) [] = []) :
    copyData s g w c = some (.fault cXLAT 0x60000 c.src) := by
  have block : readBlock s g.cu g.ctx w c [] c.dst = (walkReads s g.cu g.ctx c.src, .bad cXLAT c.src) := by
    rw [readBlock, List.range_succ_eq_map]
    refine engineFold_bad ?_ _
    simp only [byteAt_linear_first linear length, source, engineByte_xlat walks noRlb noWalker low]
  simp [copyData, linear, pos, block_linear_first linear length aligned, readList_linear linear, block, copySyn]

end

/-! ### COPY_ENGINE_FAULT -/

/-- The fault that a copy command's group takes. -/
def copyTrap (c : CopyCmd) (cause syn addr : Nat) : Trap :=
  { cause := cause, syn := BitVec.ofNat 64 syn, opd0 := BitVec.ofNat 64 c.seq, opd1 := BitVec.ofNat 64 addr,
    opd2 := BitVec.ofNat 64 c.written, unit := some (funit 9 0) }

/-- A copy command of a workgroup held by a fault of a cause, which a group of the workgroup takes. -/
def CopyCmd.heldBy (c : CopyCmd) (s : State) (w cause : Nat) : CopyCmd :=
  { c with shape := [], held := some { cause := cause, taker := faultTaker s w c.tid } }

/-- A running command at the head of its ring is held by the fault that its next data step meets, which is raised in its group. -/
theorem exec_copyEngineFault_data {s : State} {w : Nat} {g : Wg} {c : CopyCmd} {rest : List CopyCmd} (head : HeadsRing s w g c rest)
    (runs : s.halting g.ctx = false) (free : c.stepped = false) (held : c.held = none) (running : c.running = true) (stage : c.stage = 0)
    {cause syn addr : Nat} (data : copyData s g w c = some (.fault cause syn addr)) (notStamp : syn ≠ 0x60002) :
    exec (.copyEngineFault w c.id none) s =
      .next (raiseEngine (s.modCopy w c.id (·.heldBy s w cause)) w c.tid (copyTrap c cause syn addr)).1 := by
  have next : copyNext s g w c = some (.fault cause syn addr) := by
    simp [copyNext, stage, running, held, free, runs, data]
  rw [exec_copyEngineFault, execCopyEngineFault, head.copyAt]
  simp only [next, Option.bind_none, notStamp, if_false]
  rfl

theorem copyEngineFaultHolds : Claims.CopyEngineFaultHolds := by
  intro s w g c rest t hg ring alone halt ht held free running stage linear source pos length _ aligned low walks noRlb noWalker group
    active runs step sysent
  have head : HeadsRing s w g c rest := ⟨hg, ring, alone⟩
  have ran := exec_copyEngineFault_data head halt free held running stage
    (copyData_xlat linear source pos length aligned low walks noRlb noWalker) (by decide)
  have takes : TakesEngineFault (s.modCopy w c.id (·.heldBy s w cXLAT)) c.tid t := ⟨ht, group, active, runs, step, sysent⟩
  obtain ⟨thread, wgs, -⟩ := takes.freezes w (copyTrap c cXLAT 0x60000 c.src) (show cXLAT ≠ cMISAL by decide)
  have addr : BitVec.ofNat 64 c.src = c.w1 := BitVec.ofNat_toNat ..
  have wg := (congrArg (nget · w) wgs).trans (head.wg_modCopy (·.heldBy s w cXLAT))
  have taker : (c.heldBy s w cXLAT).held = some { cause := cXLAT, taker := some c.tid } := by
    rw [CopyCmd.heldBy, faultTaker_self w ht (by rw [active]; decide)]
  exact ⟨_, _, _, _, _, ran, thread, rfl, rfl, rfl, rfl, rfl, rfl, addr, rfl, wg, rfl, taker, rfl⟩

/-! ### The first packet of a BXSEND (R331, R344) -/

/-- The first packet of a command starts at its address, and has a byte where the command has one. -/
theorem FabCmd.part_zero (c : FabCmd) : (c.part 0).1 = 0 ∧ (0 < c.len → 0 < (c.part 0).2) := by
  simp only [FabCmd.part]
  omega

section
variable {s : State} {c : FabCmd} (first : c.sent = 0)
include first

/-- A BXSEND whose first source byte does not translate meets XLAT at its address. -/
theorem injectNext_xlat (send : c.kind = 0) (length : 0 < c.len) (low : c.local' < 2 ^ 57) (walks : walk s c.ctx c.local' = none)
    (noRlb : (s.cu c.cu).rlb = []) (noWalker : ngetD s.mem.walkers (c.cu / 64) [] = []) (w : Nat) :
    injectNext s w c = .fault cXLAT c.local' false := by
  obtain ⟨start, bytes⟩ := c.part_zero
  have addr : (c.local' + (c.part 0).1) % 2 ^ 64 = c.local' := by omega
  simp only [injectNext, send, first, addr, engineBytes_xlat walks noRlb noWalker low w _ (bytes length)]

/-- The only command of the table may inject its first packet. -/
theorem mayInject_alone {id : Nat} (name : c.id = id) (alone : ∀ q ∈ s.fab.cmds, q = (id, c)) (total : 0 < c.total) (good : c.fail = 0)
    (held : c.held = none) (halt : s.halting c.ctx = false) : mayInject s c = true := by
  have order : (s.fab.cmds.all fun p => p.2.tid ≠ c.tid || c.id ≤ p.1 || 0 < p.2.sent || p.2.total = 0 || p.2.fail ≠ 0) = true := by
    refine List.all_eq_true.2 fun q hq => ?_
    simp [alone q hq, name]
  rw [mayInject, order]
  simp [first, total, good, held, halt]

end

/-! ### FABRIC_ENGINE_FAULT -/

/-- The fault that a BXSEND's group takes: what the packets before have carried is what is done. -/
def sendTrap (c : FabCmd) (cause addr : Nat) : Trap :=
  { cause := cause, syn := 0x60000, opd0 := BitVec.ofNat 64 c.seq, opd1 := BitVec.ofNat 64 addr, opd2 := BitVec.ofNat 64 (c.part c.sent).1,
    unit := some (funit 10 0) }

/-- A fabric command of a workgroup held by a fault of a cause, which a group of the workgroup takes. -/
def FabCmd.heldBy (c : FabCmd) (s : State) (w cause : Nat) : FabCmd :=
  { c with held := some { cause := cause, taker := faultTaker s w c.tid } }

/-- A command of the table is found under its thread and number. -/
theorem find_command {s : State} {id : Nat} {c : FabCmd} {t : Thread} (cmd : Command s id c t) :
    (s.fab.cmds.find? fun p => p.2.tid = c.tid && p.2.seq = c.seq) = some (id, c) := by
  cases found : s.fab.cmds.find? fun p => p.2.tid = c.tid && p.2.seq = c.seq with
  | none => simpa using List.find?_eq_none.1 found (id, c) (mem_of_nget cmd.here)
  | some q => rw [cmd.only q (List.mem_of_find?_eq_some found) (.inr (by simpa using List.find?_some found))]

/-- A BXSEND is held by the fault that its next packet meets in its source, which is raised in its group. -/
theorem exec_fabricEngineFault_send {s : State} {id : Nat} {c : FabCmd} {t : Thread} (cmd : Command s id c t) (send : c.kind = 0)
    (may : mayInject s c = true) {cause addr : Nat} (packet : ∀ w, injectNext s w c = .fault cause addr false) :
    exec (.fabricEngineFault c.tid c.seq none) s =
      .next (raiseEngine (s.modCmd id (·.heldBy s t.wg cause)) t.wg c.tid (sendTrap c cause addr)).1 := by
  have next : fabNext s c = some (.fault cause addr false) := by simp [fabNext, may, packet]
  rw [exec_fabricEngineFault, execFabricEngineFault, find_command cmd]
  simp only [next, send, cmd.thread, Option.map_some, Option.getD_some]
  rfl

theorem fabricEngineFaultHolds : Claims.FabricEngineFaultHolds := by
  intro s id c t cmd alone send first total good held halt length low _ _ walks noRlb noWalker group active runs step sysent
  have ran := exec_fabricEngineFault_send cmd send (mayInject_alone first cmd.name alone total good held halt)
    (injectNext_xlat first send length low walks noRlb noWalker)
  have takes : TakesEngineFault (s.modCmd id (·.heldBy s t.wg cXLAT)) c.tid t := ⟨cmd.thread, group, active, runs, step, sysent⟩
  obtain ⟨thread, -, mem, fab⟩ := takes.freezes t.wg (sendTrap c cXLAT c.local') (show cXLAT ≠ cMISAL by decide)
  have addr : BitVec.ofNat 64 c.local' = c.w1 := BitVec.ofNat_toNat ..
  have nothing : BitVec.ofNat 64 (c.part c.sent).1 = 0 := by rw [first, c.part_zero.1]; rfl
  have taker : c.heldBy s t.wg cXLAT = { c with held := some { cause := cXLAT, taker := some c.tid } } := by
    rw [FabCmd.heldBy, faultTaker_self t.wg cmd.thread (by rw [active]; decide)]
  have entry := (nget_nmod_self s.fab.cmds id (·.heldBy s t.wg cXLAT)).trans (congrArg (Option.map _) cmd.here)
  rw [Option.map_some, taker] at entry
  exact ⟨_, _, _, ran, thread, rfl, rfl, rfl, rfl, rfl, rfl, addr, nothing, (congrArg (nget ·.cmds id) fab).trans entry,
    by rw [fab]; rfl, congrArg MemSys.dram mem⟩

/-- Settles O44: the command is held at its first source byte, and the fault that it meets there freezes its group. -/
theorem engineFaultsHold : Obligations.EngineFaultsHold := ⟨copyEngineFaultHolds, fabricEngineFaultHolds⟩

end Sys2Proof.Machine
end

section
/-! Settles O23: translation by a range table of one plain entry (R443 to R445). -/

namespace Sys2Proof.Machine

/-- The search of a table of one entry finds that entry, where it is valid and covers the page. -/
theorem rangeSearch_one (s : State) (k : Ctx) (vpn fuel : Nat) : rangeSearch s k vpn (fuel + 2) 0 1 =
    if reCovers (rangeEntry s k 0) vpn = true ∧ reValid s (rangeEntry s k 0) = true then some (rangeEntry s k 0) else none := by
  have empty : ∀ lo, rangeSearch s k vpn (fuel + 1) lo 0 = none := fun lo => by simp [rangeSearch]
  by_cases below : vpn < reVbase (rangeEntry s k 0)
  · have apart : ¬reVbase (rangeEntry s k 0) ≤ vpn := by omega
    simp [rangeSearch, below, apart, reCovers]
  · by_cases covers : reCovers (rangeEntry s k 0) vpn = true <;> simp [rangeSearch, below, covers]

section
variable {s : State} {c va : Nat} (one : bits (s.ctx c).rtcnt 16 0 = 1)
include one

theorem walk_one_missed (missed : reCovers (rangeEntry s (s.ctx c) 0) (va / 4096) = false ∨ reValid s (rangeEntry s (s.ctx c) 0) = false) :
    walk s c va = none := by
  have search := rangeSearch_one s (s.ctx c) (va / 4096) 16
  rw [if_neg (by rcases missed with h | h <;> simp [h])] at search
  simp only [walk, one, search]

theorem walk_one_covered (covers : reCovers (rangeEntry s (s.ctx c) 0) (va / 4096) = true)
    (valid : reValid s (rangeEntry s (s.ctx c) 0) = true) : walk s c va = rangeXl s (rangeEntry s (s.ctx c) 0) va := by
  have search := rangeSearch_one s (s.ctx c) (va / 4096) 16
  rw [if_pos ⟨covers, valid⟩] at search
  simp only [walk, one, search]

end

/-- A page of a host range lies at the same offset from PBASE. -/
theorem rangeXl_host (s : State) {e : Nat} (host : reKind e = 2) (va : Nat) :
    rangeXl s e va = some ⟨e, (rePbase e + (va / 4096 - reVbase e)) * 4096 + va % 4096⟩ := by
  simp [rangeXl, rangePage, host]

/-- A page of a plain pool range of no home set does too, as long as it lies in the pool. -/
theorem rangeXl_pool (s : State) {e : Nat} (pool : reKind e = 0) (noSet : reHset e = 0) (va : Nat) :
    rangeXl s e va = if (rePbase e + (va / 4096 - reVbase e)) * 4096 < Config.poolBytes then
      some ⟨e, (rePbase e + (va / 4096 - reVbase e)) * 4096 + va % 4096⟩ else none := by
  simp only [rangeXl, rangePage, pool, noSet, if_true]
  split_ifs <;> rfl

/-- Settles O23: the search of one entry, and the page of a plain range. -/
theorem translationOfOneRange : Obligations.TranslationOfOneRange := by
  intro s c va one
  refine ⟨walk_one_missed one, fun covers valid host => ?_, fun covers valid pool noSet => ?_⟩
  · rw [walk_one_covered one covers valid, rangeXl_host s host]
  · rw [walk_one_covered one covers valid, rangeXl_pool s pool noSet]
    rfl

end Sys2Proof.Machine
end

section
/-! Settles O22: what freezes, what is recorded and what is queued when a fault is taken (R396 to R401, R403). -/

namespace Sys2Proof.Machine

/-! ### The bits of TKIND (R401) -/

/-- The flags of a tadpole's kind. -/
theorem tkindOf_flags (sys nest ntc agt imp brum : Bool) (ocause : Nat) :
    (tkindOf sys nest ntc agt imp brum ocause).getLsbD 0 = sys ∧ (tkindOf sys nest ntc agt imp brum ocause).getLsbD 1 = nest ∧
      (tkindOf sys nest ntc agt imp brum ocause).getLsbD 4 = imp := by
  simp only [tkindOf, BitVec.getLsbD_ofNat, Nat.testBit_eq_decide_div_mod_eq, Nat.shiftLeft_eq]
  cases sys <;> cases nest <;> cases imp <;> simp <;> split_ifs <;> omega

/-- The cause of the fault before, in bits 15:8. -/
theorem tkindOf_ocause (sys nest ntc agt imp brum : Bool) {ocause : Nat} (small : ocause < 256) :
    bits (tkindOf sys nest ntc agt imp brum ocause) 15 8 = ocause := by
  simp only [tkindOf, bits, BitVec.extractLsb'_toNat, BitVec.toNat_ofNat, Nat.shiftLeft_eq, Nat.shiftRight_eq_div_pow]
  split_ifs <;> omega

/-! ### The tadpole that a fault queues (R398, R400, R401) -/

/-- The tadpole that a fault of a thread puts in the queue of its CU. -/
def spawnOf (s : State) (tid : Nat) (t : Thread) (fr : FaultRec) (useSys nest ntc imp : Bool) (ocause : Nat) : Spawn :=
  { time := fr.time.toNat, barrel := t.barrel, slot := t.slot, tid := if t.isGroup then tid else t.target.getD tid,
    hasTid := t.isGroup || t.target.isSome, ctx := t.ctx, sys := useSys, notice := ntc, agent := false, fr := fr,
    tkind := tkindOf useSys nest ntc false imp (s.halting t.ctx) ocause }

/-- A system tadpole is used where the launch has no handler (R398). -/
def State.noHandler (s : State) (t : Thread) : Bool := decide (((s.launchOf t).map (·.lr.hpc)).getD 0 = 0)

theorem queueSpawn_eq {s : State} {t : Thread} (sysent : (s.ctx t.ctx).sysent ≠ 0) (tid : Nat) (fr : FaultRec)
    (sys nest ntc imp : Bool) (ocause : Nat) : queueSpawn s tid t fr sys nest ntc imp ocause = s.modCu t.cu fun c =>
      let q := spawnOf s tid t fr (sys || s.noHandler t) nest ntc imp ocause
      { c with spawnq := if nest then q :: c.spawnq else insertSpawn c.spawnq q } := by
  unfold queueSpawn
  simp only [sysent, decide_false, Bool.and_false, Bool.false_eq_true, if_false]
  rfl

/-- A fault that triggers no brumation freezes its group and queues its tadpole, and that is all. -/
theorem takeFault_quiet {s : State} {tid : Nat} {t : Thread} {x : Trap} (resume : Word64) (ht : s.thread tid = some t)
    (group : t.kind = .group) (step : t.stepping = 0) (cause : x.cause ≠ cMISAL) (sysent : (s.ctx t.ctx).sysent ≠ 0)
    (silent : s.triggers t x.cause = false) :
    takeFault s tid x resume = (s.setThread tid (t.frozenBy x (faultRec s t x) resume)).modCu t.cu fun c =>
      let q := spawnOf s tid t (faultRec s t x) (decide (x.cause = cDIEL) || s.noHandler t) false false x.imp 0
      { c with spawnq := insertSpawn c.spawnq q } := by
  have queued := queueSpawn_eq (s := s.setThread tid (t.frozenBy x (faultRec s t x) resume)) sysent tid (faultRec s t x)
    (decide (x.cause = cDIEL)) false false x.imp 0
  rw [takeFault_running resume ht group step cause]
  simp only [show (decide (x.cause = cBKPT) || Nat.testBit (((s.launchOf t).map (·.lr.haltm)).getD 0) x.cause) = false from silent,
    queued, Bool.false_eq_true, if_false]
  rfl

/-- A fault in a user tadpole ends it, and puts a system tadpole in its place at the head of the queue. -/
theorem takeFault_userTadpole {s : State} {tid : Nat} {t : Thread} (x : Trap) (resume : Word64) (ht : s.thread tid = some t)
    (user : t.kind = .userTadpole) (sysent : (s.ctx t.ctx).sysent ≠ 0) :
    takeFault s tid x resume = endTadpole (s.modCu t.cu fun c =>
      { c with spawnq := spawnOf s tid t (faultRec s t x) true true false x.imp (bits t.frec.cause 7 0) :: c.spawnq }) tid := by
  have queued := queueSpawn_eq sysent tid (faultRec s t x) true true false x.imp (bits t.frec.cause 7 0)
  unfold takeFault
  simp only [ht]
  split
  next k => rw [user] at k; cases k
  next => rw [queued]; rfl
  next k => rw [user] at k; cases k

/-- What the end of a tadpole that steps no group leaves. -/
def tadpoleEnded (s : State) (tid cu : Nat) : State :=
  { s.modCu cu fun c => { c with pool := c.pool.filter (· ≠ tid), agent := if c.agent = some tid then none else c.agent } with
    thr := nerase s.thr tid, env := { s.env with cur := if s.env.cur = some tid then none else s.env.cur } }

theorem endTadpole_idle {s : State} {tid : Nat} {t : Thread} (ht : s.thread tid = some t)
    (idle : ∀ b, t.blk = some b → b.stage ≠ stepWait ∧ b.stage ≠ stepRun) :
    endTadpole s tid = tadpoleEnded s tid t.cu := by
  simp only [endTadpole, ht]
  cases blk : t.blk with
  | none => rfl
  | some b =>
    simp only [idle b blk, decide_false, Bool.or_self, Bool.false_eq_true, if_false]
    rfl

/-- The cause of a fault record is a number of 8 bits. -/
theorem bits_7_0_lt (x : Word64) : bits x 7 0 < 256 := by
  simp only [bits, BitVec.extractLsb'_toNat]
  omega

/-- Settles O22: a group freezes by `frozenBy`, and a user tadpole ends; either way `spawnOf` is queued. -/
theorem takingAFault : Obligations.TakingAFault := by
  intro s tid t x resume ht sysent u
  refine ⟨fun group step bkpt misal diel _ haltm => ?_, fun user idle => ?_⟩
  · have silent : s.triggers t x.cause = false := by
      simp only [State.triggers, bkpt, decide_false, Bool.false_or]
      cases launch : s.launchOf t with
      | none => exact Nat.zero_testBit _
      | some l => exact haltm l launch
    have isGroup : t.isGroup = true := by simp [Thread.isGroup, group]
    have fault : u = _ := takeFault_quiet resume ht group step misal sysent silent
    clear_value u
    obtain ⟨sys, nest, imp⟩ := tkindOf_flags (s.noHandler t) false false false x.imp (s.halting t.ctx) 0
    have others : ∀ j, j ≠ tid → u.thread j = s.thread j := fun j hj => by
      rw [fault]; exact nget_nset_ne _ _ _ _ hj
    refine ⟨t.frozenBy x (faultRec s t x) resume, _, spawnOf s tid t (faultRec s t x) (s.noHandler t) false false x.imp 0,
      by rw [fault]; exact nget_nset_self .., rfl, rfl, rfl, rfl, rfl, rfl, rfl, rfl, rfl, rfl, rfl, rfl, rfl, rfl, rfl, rfl, rfl, rfl,
      rfl, rfl, rfl, ?_, ?_, rfl, rfl, sys, nest, imp, rfl, others, by rw [fault]; rfl⟩
    · rw [fault, State.cu_modCu, if_pos rfl, decide_eq_false diel, Bool.false_or]
      exact mem_insertSpawn _ _
    · simp [spawnOf, isGroup]
  · have tadpole : t.isGroup = false := by simp [Thread.isGroup, user]
    have fault : u = _ := takeFault_userTadpole x resume ht user sysent
    rw [endTadpole_idle (s := s.modCu _ _) ht idle] at fault
    clear_value u
    obtain ⟨sys, nest, -⟩ := tkindOf_flags true true false false x.imp (s.halting t.ctx) (bits t.frec.cause 7 0)
    have ocause := tkindOf_ocause true true false false x.imp (s.halting t.ctx) (bits_7_0_lt t.frec.cause)
    have cu : u.cu t.cu = { s.cu t.cu with
        spawnq := spawnOf s tid t (faultRec s t x) true true false x.imp (bits t.frec.cause 7 0) :: (s.cu t.cu).spawnq,
        pool := (s.cu t.cu).pool.filter (· ≠ tid),
        agent := if (s.cu t.cu).agent = some tid then none else (s.cu t.cu).agent } := by
      rw [fault]
      simp only [tadpoleEnded, State.modCu, State.setCu, State.cu, ngetD, nget_nset_self, Option.getD_some]
      rfl
    have erased : ∀ j, u.thread j = if j = tid then none else s.thread j := fun j => by
      rw [fault]; exact nget_nerase ..
    refine ⟨spawnOf s tid t (faultRec s t x) true true false x.imp (bits t.frec.cause 7 0), _, (erased tid).trans (if_pos rfl),
      by rw [cu], rfl, rfl, sys, nest, ocause, rfl, rfl, ?_, by rw [cu]; simp, fun j hj => (erased j).trans (if_neg hj),
      by rw [fault]; rfl⟩
    simp [spawnOf, faultRec, tadpole]

end Sys2Proof.Machine
end

section
/-! Settles O52: the forms of context 0 elsewhere, and the tadpole of a TRAP in context 0 (R125, R178, R399, R416). -/

namespace Sys2Proof.Machine

/-- A form of context 0's tadpoles raises PRIV in a thread of another context. -/
theorem ctx0Form_privileged {opc : Nat} {f : Fields} {s : State} {tid : Nat} {t : Thread} (h : Issues s tid t opc f) (other : t.ctx ≠ 0)
    (body : State → Nat → Thread → State) :
    ctx0Form opc f s body = .next (takeFault s tid (wordTrap cPRIV 4 (wordOf opc f)) t.pc) := by
  rw [ctx0Form, issue_runs h, if_pos other]

theorem contextZeroPrivilege : Claims.ContextZeroPrivilege := by
  refine ⟨fun f s tid t other => ⟨fun h => ?_, fun h => ?_, fun h => ?_⟩, fun m f opc form => ?_⟩
  · rw [exec_ctxsv]; exact ctx0Form_privileged h other _
  · rw [exec_ctxld]; exact ctx0Form_privileged h other _
  · rw [exec_curet]; exact ctx0Form_privileged h other _
  · simp only [List.mem_cons, List.not_mem_nil, or_false] at form
    rcases form with rfl | rfl | rfl <;> cases m <;> rfl

section
variable {s : State} {tid : Nat} {t : Thread} {x : Trap} (resume : Word64) (ht : s.thread tid = some t) (group : t.kind = .group)
  (step : t.stepping = 0) (cause : x.cause ≠ cMISAL) (sysent : (s.ctx t.ctx).sysent ≠ 0)
include ht group step cause sysent

/-- The tadpole of a group's fault stands in the queue of its CU, whether or not the fault also triggers brumation. -/
theorem spawnOf_mem_takeFault : spawnOf s tid t (faultRec s t x) (decide (x.cause = cDIEL) || s.noHandler t) false false x.imp 0 ∈
    ((takeFault s tid x resume).cu t.cu).spawnq := by
  have queued := queueSpawn_eq (s := s.setThread tid (t.frozenBy x (faultRec s t x) resume)) sysent tid (faultRec s t x)
    (decide (x.cause = cDIEL)) false false x.imp 0
  have there : spawnOf s tid t (faultRec s t x) (decide (x.cause = cDIEL) || s.noHandler t) false false x.imp 0 ∈
      ((queueSpawn (s.setThread tid (t.frozenBy x (faultRec s t x) resume)) tid t (faultRec s t x) (decide (x.cause = cDIEL))
        false false x.imp 0).cu t.cu).spawnq := by
    rw [queued, State.cu_modCu, if_pos rfl]
    exact mem_insertSpawn _ _
  simp only [takeFault_running resume ht group step cause]
  split_ifs
  · rw [State.cu, raiseTrigger_cus]; exact there
  · exact there

end

theorem systemCodeTraps : Claims.SystemCodeTraps := by
  intro f s tid t l h group live step ctx sysent launch noHandler
  have fit : t.fits [] = true := Thread.fits_of_newNames t [] rfl
  obtain ⟨t', r⟩ := retire_retires 0x013 f {} h.thread h.new fit
  have ran : exec (.trap f) s = .next (takeFault (retire 0x013 f s tid t {}) tid (softTrapOf cTRAP f t) (nextPc t.pc)) := by
    have runs : exec (.trap f) s = issueAct 0x013 f s fun _ _ t => softTrap cTRAP f t := exec_trap f s
    rw [runs, issueAct, issue_runs h, softTrap, if_neg live, actOn_trapNext]
    rfl
  have other : (softTrapOf cTRAP f t).cause ≠ cMISAL := show cTRAP ≠ cMISAL by decide
  have kind : t'.kind = .group := by
    have := (r.same (·.isGroup) fun _ => rfl).trans group
    simpa [Thread.isGroup] using this
  have ctx' : t'.ctx = 0 := (r.same (·.ctx) fun _ => rfl).trans ctx
  have cu : t'.cu = t.cu := r.same (·.cu) fun _ => rfl
  have launch' : (retire 0x013 f s tid t {}).launchOf t' = some l := by
    rw [State.launchOf, r.same (·.launch) fun _ => rfl, ← State.launchOf, r.launchOf, launch]
  have sysent' : ((retire 0x013 f s tid t {}).ctx t'.ctx).sysent ≠ 0 := by rwa [ctx', r.ctx]
  obtain ⟨thr, -, -⟩ := takeFault_group (x := softTrapOf cTRAP f t) (nextPc t.pc) r.thread kind
    (retire_stepping fit step r.thread) other sysent'
  have queued := spawnOf_mem_takeFault (x := softTrapOf cTRAP f t) (nextPc t.pc) r.thread kind
    (retire_stepping fit step r.thread) other sysent'
  rw [cu] at queued
  refine ⟨_, _, _, ran, by rw [State.thread, thr, nget_nset_self], rfl, queued, ?_, ?_, ctx', rfl⟩
  · simp [spawnOf, Thread.isGroup, kind]
  · simp [spawnOf, State.noHandler, launch', noHandler]

/-- Settles O52: PRIV outside context 0, and a TRAP's tadpole in it. -/
theorem contextZeroForms : Obligations.ContextZeroForms := ⟨contextZeroPrivilege, systemCodeTraps⟩

end Sys2Proof.Machine
end

section
/-! Settles O48: capabilities, and the list of frozen groups (R404, R405, R414). -/

namespace Sys2Proof.Machine

/-! ### What a capability names (R404, R405) -/

/-- The fields of a capability that name a group's place and generation. -/
theorem capFields (x : Word64) : bits x 39 38 = x.toNat / 2 ^ 38 % 4 ∧ bits x 37 33 = x.toNat / 2 ^ 33 % 32 ∧
    bits x 31 16 = x.toNat / 2 ^ 16 % 2 ^ 16 := by
  simp [bits, BitVec.extractLsb'_toNat, Nat.shiftRight_eq_div_pow]

/-- A reserved bit is found before every other fault of a capability. -/
theorem findCap_reserved (s : State) (t : Thread) {cap : Word64} (reserved : cap.toNat % 2 ^ 16 ≠ 0) : findCap s t cap = .error 1 := by
  have bad : capBad t cap = some 1 := by rw [capBad, bits_15_0, if_pos reserved]
  simp only [findCap, bad]

theorem mem_of_groupAt {s : State} {ctx cu barrel slot gen gid : Nat} {g : Thread} (here : groupAt s ctx cu barrel slot gen = some (gid, g)) :
    (gid, g) ∈ s.thr ∧ g.isGroup = true ∧ g.ctx = ctx ∧ g.barrel = barrel ∧ g.slot = slot ∧ g.place ≠ .exited ∧ g.gen = gen := by
  have listed : (gid, g) ∈ s.thr.filter fun p => p.2.isGroup && p.2.ctx = ctx && p.2.cu = cu && p.2.barrel = barrel && p.2.slot = slot
      && p.2.place ≠ .exited && p.2.gen = gen := by
    rw [groupAt, Option.orElse_eq_some] at here
    rcases here with found | ⟨-, first⟩
    · exact List.mem_of_find?_eq_some found
    · exact List.mem_of_head? first
  obtain ⟨member, named⟩ := List.mem_filter.1 listed
  simp only [Bool.and_eq_true, decide_eq_true_eq] at named
  obtain ⟨⟨⟨⟨⟨⟨group, ctx⟩, -⟩, barrel⟩, slot⟩, place⟩, gen⟩ := named
  exact ⟨member, group, ctx, barrel, slot, place, gen⟩

/-- A capability that does not fail of itself has no reserved bit and is of a context that the tadpole reaches. -/
theorem ctx_of_capBad {t : Thread} {cap : Word64} (good : capBad t cap = none) : bits cap 63 54 = t.ctx ∨ t.ctx = 0 := by
  unfold capBad at good
  split_ifs at good with _ far
  simp only [Bool.and_eq_true, decide_eq_true_eq, not_and, not_not] at far
  by_cases own : bits cap 63 54 = t.ctx
  · exact .inl own
  · exact .inr (far own)

/-- What a capability reaches is the frozen group at its place and generation in its context. -/
theorem findCap_reaches {s : State} {t g : Thread} {cap : Word64} {gid : Nat} (found : findCap s t cap = .ok (gid, g)) :
    (gid, g) ∈ s.thr ∧ g.isGroup = true ∧ g.place ≠ .exited ∧ g.fz.isSome = true ∧ g.ctx = cap.toNat / 2 ^ 54 ∧
      (g.ctx = t.ctx ∨ t.ctx = 0) ∧ g.gen = cap.toNat / 2 ^ 16 % 2 ^ 16 ∧ g.barrel = cap.toNat / 2 ^ 38 % 4 ∧
      g.slot = cap.toNat / 2 ^ 33 % 32 := by
  obtain ⟨barrel', slot', gen'⟩ := capFields cap
  unfold findCap at found
  split at found
  next => cases found
  next good =>
    split_ifs at found
    dsimp only at found
    split at found
    next => cases found
    next cu _ =>
      split at found
      next => cases found
      next gid' g' here =>
        split_ifs at found with thawed
        obtain ⟨rfl, rfl⟩ := Prod.mk.inj (Except.ok.inj found)
        obtain ⟨member, group, ctx, barrel, slot, place, gen⟩ := mem_of_groupAt here
        refine ⟨member, group, place, by simpa [Option.isSome_iff_ne_none] using thawed, ctx.trans (bits_63_54 cap), ?_, gen.trans gen',
          barrel.trans barrel', slot.trans slot'⟩
        rw [ctx]
        exact ctx_of_capBad good

theorem capabilityChecks : Claims.CapabilityChecks := by
  intro f s tid t _ _ _ live cap
  refine ⟨fun n bad h => ?_, findCap_reserved s t, findCap_reaches, fun h => ?_⟩
  · simp only [exec_fzrd, execFzrd, trpForm, issue_runs h, live, if_false, capArg, show findCap s t (uniVal s tid t f.a.toNat) = .error n from bad]
    rfl
  · refine retiresWith_of_act h (exec_capqStat f s) rfl ((if_neg live).trans ?_)
    simp only [capArg, show uniVal s tid t f.a.toNat = cap from rfl]
    rcases findCap s t cap with n | _
    · by_cases thawed : n = 4
      · subst thawed; rfl
      · by_cases stale : n = 3
        · subst stale; rfl
        · simp
    · rfl

/-! ### The frozen groups of a context, in order (R414) -/

theorem mem_insertCap {s : State} {c : Nat} {g t : Thread} : ∀ {l : List Thread}, g ∈ insertCap s c l t ↔ g = t ∨ g ∈ l
  | [] => by simp [insertCap]
  | u :: r => by
    rw [insertCap]
    split_ifs
    · exact List.mem_cons
    · rw [List.mem_cons, mem_insertCap, List.mem_cons, or_left_comm]

/-- A list of groups rises in the order of their capabilities. -/
def CapSorted (s : State) (c : Nat) (l : List Thread) : Prop := l.Pairwise fun a b => capOrder s c a ≤ capOrder s c b

theorem capSorted_insertCap {s : State} {c : Nat} {t : Thread} : ∀ {l : List Thread}, CapSorted s c l → CapSorted s c (insertCap s c l t)
  | [], _ => List.pairwise_singleton _ _
  | u :: r, sorted => by
    obtain ⟨first, rest⟩ := List.pairwise_cons.1 sorted
    rw [insertCap]
    split_ifs with before
    · refine List.pairwise_cons.2 ⟨fun b hb => ?_, sorted⟩
      rcases List.mem_cons.1 hb with rfl | hb
      · exact before.le
      · exact before.le.trans (first b hb)
    · refine List.pairwise_cons.2 ⟨fun b hb => ?_, capSorted_insertCap rest⟩
      rcases mem_insertCap.1 hb with rfl | hb
      · exact not_lt.1 before
      · exact first b hb

/-- Insertion of a list of groups into a sorted one gives both together, sorted. -/
theorem insertCaps (s : State) (c : Nat) (l : List Thread) : ∀ {acc : List Thread}, CapSorted s c acc →
    (∀ g, g ∈ l.foldl (insertCap s c) acc ↔ g ∈ l ∨ g ∈ acc) ∧ CapSorted s c (l.foldl (insertCap s c) acc) := by
  induction l with
  | nil => exact fun sorted => ⟨fun g => by simp, sorted⟩
  | cons t r ih =>
    intro acc sorted
    obtain ⟨members, result⟩ := ih (capSorted_insertCap (t := t) sorted)
    refine ⟨fun g => ?_, result⟩
    rw [List.foldl_cons, members, mem_insertCap, List.mem_cons]
    tauto

theorem frozenGroupsAreListed : Claims.FrozenGroupsAreListed := by
  intro f s tid t h live i c l
  obtain ⟨members, sorted⟩ := insertCaps s c ((nvals s.thr).filter fun g => g.isGroup && g.ctx = c && g.fz.isSome && g.place ≠ .exited)
    (acc := []) List.Pairwise.nil
  have gives : ∀ v : Word64, (match l[i]? with | some g => s.capOf g | none => 0) = v →
      RetiresWith (.capqEnum f) 0x2C9 f s tid t { writes := [.uni f.d.toNat v] } := by
    rintro v rfl
    exact retiresWith_of_act h (exec_capqEnum f s) rfl (if_neg live)
  refine ⟨fun g here => gives _ (by rw [here]), fun past => gives _ (by rw [List.getElem?_eq_none past]), fun g => ?_, sorted⟩
  refine (members g).trans ?_
  simp only [List.not_mem_nil, or_false, List.mem_filter, Bool.and_eq_true, decide_eq_true_eq, nvals, List.mem_map, Prod.exists,
    exists_eq_right]
  tauto

/-- Settles O48: `findCap` by its checks, and `frozenGroups` by insertion in order. -/
theorem capabilities : Obligations.Capabilities := ⟨capabilityChecks, frozenGroupsAreListed⟩

end Sys2Proof.Machine
end

section
/-! For O51: PRD and PWR of a context's block (R402, R415 to R418, R443). -/

namespace Sys2Proof.Machine

/-! ### A form that has changed other records and then goes on -/

section
variable {opc : Nat} {f : Fields} {s s0 : State} {tid : Nat} {t : Thread}

/-- What such a form leaves: its thread goes on as from the state `s0` in which it issued, and all else is as the form had changed it
to `s` before it retired. -/
structure GoesOn (s0 s u : State) (tid : Nat) (t t' : Thread) (opc : Nat) (f : Fields) (ws : List Write) : Prop where
  advances : Advances s0 u tid t t' opc f ws
  same : ∀ {α : Type} (k : Thread → α), (∀ x : Thread, k x.frame = k x) → k t' = k t
  others : ∀ j, j ≠ tid → u.thread j = s.thread j
  state : u = { s with env := { s.env with nextId := u.env.nextId }, thr := u.thr, wgs := u.wgs }

theorem GoesOn.ctx {u : State} {t' : Thread} {ws : List Write} (g : GoesOn s0 s u tid t t' opc f ws) (c : Nat) : u.ctx c = s.ctx c := by
  rw [g.state]; rfl
theorem GoesOn.part {u : State} {t' : Thread} {ws : List Write} (g : GoesOn s0 s u tid t t' opc f ws) (k : Nat) : u.part k = s.part k := by
  rw [g.state]; rfl
theorem GoesOn.cus {u : State} {t' : Thread} {ws : List Write} (g : GoesOn s0 s u tid t t' opc f ws) : u.cus = s.cus := by rw [g.state]
theorem GoesOn.mem {u : State} {t' : Thread} {ws : List Write} (g : GoesOn s0 s u tid t t' opc f ws) : u.mem = s.mem := by rw [g.state]

theorem Prepared.goesOn (p : Prepared s0 s tid t) (new : t.blk = none) (noFragments : opc ≠ 0x143 ∧ opc ≠ 0x144) {ws : List Write}
    (fit : t.fits ws = true) : ∃ t', GoesOn s0 s (retire opc f s tid t { writes := ws }) tid t t' opc f ws := by
  obtain ⟨wb, t', r, goes⟩ := p.retires (f := f) new noFragments fit (g := id) fun _ => ⟨_, _, _, rfl⟩
  refine ⟨t', goes, fun k framed => ?_, r.others, r.state⟩
  exact (r.same k framed).trans ((framed { t with wb := wb }).symm.trans (framed t))

/-- A change that leaves threads, workgroups, memory and the clock as they are prepares nothing but itself. -/
theorem Prepared.of_same (ht : s0.thread tid = some t) (thr : s.thr = s0.thr) (wgs : s.wgs = s0.wgs) (mem : s.mem = s0.mem)
    (cyc : s.cyc = s0.cyc) : Prepared s0 s tid t where
  thread := ⟨t.wb, by rw [State.thread, thr]; exact ht⟩
  cyc := cyc
  wregs := by rw [State.wg, wgs]; rfl
  bytes := by rw [mem]; exact ⟨rfl, rfl⟩

end

/-! ### The registers of a context's block -/

/-- The address of a register of a context's block. -/
def ctxAddr (c o : Nat) : Nat := 0x40000 + 64 * c + o

section
variable {c o : Nat} (hc : c < 1024) (ho : o < 64)
include hc ho

theorem readReg_context (s : State) (r : Reach) : readReg s r (ctxAddr c o) = if r.sees c then (s.ctx c).reg o else 0 := by
  have low : ¬(decide (0x10000 ≤ ctxAddr c o) && decide (ctxAddr c o < 0x10400)) = true := by
    unfold ctxAddr; simp only [Bool.and_eq_true, decide_eq_true_eq]; omega
  have mid : (decide (0x40000 ≤ ctxAddr c o) && decide (ctxAddr c o < 0x50000)) = true := by
    unfold ctxAddr; simp only [Bool.and_eq_true, decide_eq_true_eq]; omega
  have num : (ctxAddr c o - 0x40000) / 64 = c := by simp only [ctxAddr]; omega
  have off : ctxAddr c o % 64 = o := by simp only [ctxAddr]; omega
  rw [readReg, if_neg low, if_pos mid, num, off]

theorem writeReg_context (s : State) (r : Reach) (v : Word64) :
    writeReg s r (ctxAddr c o) v = if r.all then writeCtx s c o v else s := by
  have low : ¬(decide (0x10000 ≤ ctxAddr c o) && decide (ctxAddr c o < 0x10400)) = true := by
    unfold ctxAddr; simp only [Bool.and_eq_true, decide_eq_true_eq]; omega
  have mid : (decide (0x40000 ≤ ctxAddr c o) && decide (ctxAddr c o < 0x50000)) = true := by
    unfold ctxAddr; simp only [Bool.and_eq_true, decide_eq_true_eq]; omega
  have num : (ctxAddr c o - 0x40000) / 64 = c := by simp only [ctxAddr]; omega
  have off : ctxAddr c o % 64 = o := by simp only [ctxAddr]; omega
  rw [writeReg, if_neg low, if_pos mid, num, off]

theorem ctxAddr_other : ctxAddr c o ≠ pselAddr ∧ gctlOf (ctxAddr c o) = none := by
  have low : ¬(decide (0x200000 ≤ ctxAddr c o) && decide (ctxAddr c o < 0x280000) && decide (ctxAddr c o % 2048 = 0)) = true := by
    unfold ctxAddr; simp only [Bool.and_eq_true, decide_eq_true_eq]; omega
  exact ⟨by simp only [ctxAddr, pselAddr]; omega, if_neg low⟩

end

/-- Each register of the table has an aligned offset in the block, and reads as its field. -/
theorem contextRegisters_read : ∀ r ∈ contextRegisters, r.1 < 64 ∧ r.1 % 8 = 0 ∧ ∀ k : Ctx, k.reg r.1 = r.2.2 k := by
  simp [contextRegisters, Ctx.reg]

/-- A context with a register of the table written. -/
def Ctx.regSet (k : Ctx) (o : Nat) (v : Word64) : Ctx :=
  match o with
  | 0x08 => { k with dieset0 := v }
  | 0x10 => { k with dieset1 := v &&& 0xFFFFF }
  | 0x18 => { k with parkb := v &&& 0x01FFFFFFFFFFF000 }
  | 0x30 => { k with rtbase := v &&& 0x000FFFFFFFFFF001 }
  | _ => { k with rtcnt := v &&& 0x1FFFF }

/-- Only that register of that context changes with a write of it, and to its writable bits. -/
theorem contextRegisters_written : ∀ r ∈ contextRegisters, ∀ (s : State) (c : Nat) (v : Word64),
    writeCtx s c r.1 v = s.modCtx c (·.regSet r.1 v) ∧ (∀ k : Ctx, r.2.2 (k.regSet r.1 v) = v &&& r.2.1) ∧
      ∀ q ∈ contextRegisters, q.1 ≠ r.1 → ∀ k : Ctx, q.2.2 (k.regSet r.1 v) = q.2.2 k := by
  intro r hr s c v
  have all : v &&& 18446744073709551615#64 = v := by rw [show 18446744073709551615#64 = BitVec.allOnes 64 from rfl, BitVec.and_allOnes]
  simp only [contextRegisters, List.mem_cons, List.not_mem_nil, or_false] at hr
  rcases hr with rfl | rfl | rfl | rfl | rfl <;> exact ⟨rfl, by simp [Ctx.regSet, all], by simp [contextRegisters, Ctx.regSet]⟩

/-! ### PRD and PWR -/

section
variable {f : Fields} {s : State} {tid : Nat} {t : Thread} (live : t.live f ≠ 0)
include live

theorem exec_prd_traps (h : Issues s tid t 0x300 f) (bad : sysA s tid t f % 8 ≠ 0) :
    exec (.prd f) s = .next (takeFault s tid (regTrap t f) t.pc) := by
  rw [exec_prd, execPrd, issueAct, issue_runs h]
  simp only [live, if_false, bad, ne_eq, not_false_eq_true, if_true]
  rfl

theorem exec_pwr_traps (h : Issues s tid t 0x301 f) (bad : (uniVal s tid t f.a.toNat).toNat % 8 ≠ 0) :
    exec (.pwr f) s = .next (takeFault s tid (regTrap t f) t.pc) := by
  rw [exec_pwr, execPwr, issue_runs h]
  simp only [live, if_false, bad, ne_eq, not_false_eq_true, if_true]

section
variable {c o : Nat} (hc : c < 1024) (ho : o < 64) (aligned : o % 8 = 0)
include hc ho aligned

theorem prd_context (h : Issues s tid t 0x300 f) (addr : sysA s tid t f = ctxAddr c o) : RetiresWith (.prd f) 0x300 f s tid t
    { writes := [.uni f.d.toNat (if (reachOf s t).sees c then (s.ctx c).reg o else 0)] } := by
  have whole : ¬sysA s tid t f % 8 ≠ 0 := by rw [addr, ctxAddr]; omega
  refine retiresWith_of_act h (exec_prd f s) rfl ?_
  rw [if_neg live]
  dsimp only
  rw [if_neg whole, addr, if_neg (ctxAddr_other hc ho).1, readReg_context hc ho]

theorem exec_pwr_context (h : Issues s tid t 0x301 f) (addr : (uniVal s tid t f.a.toNat).toNat = ctxAddr c o) : exec (.pwr f) s = .next
    (retire 0x301 f (if (reachOf s t).all then writeCtx s c o (uniVal s tid t f.b.toNat) else s) tid t {}) := by
  have whole : ¬(uniVal s tid t f.a.toNat).toNat % 8 ≠ 0 := by rw [addr, ctxAddr]; omega
  obtain ⟨noPsel, noGroup⟩ := ctxAddr_other hc ho
  rw [exec_pwr, execPwr, issue_runs h, if_neg live]
  dsimp only
  rw [if_neg whole, addr, if_neg noPsel, h.new, noGroup, writeReg_context hc ho]
  rfl

end
end

theorem moduleRegistersByTadpoles : Claims.ModuleRegistersByTadpoles := by
  intro r hr f s tid t c live hc a ap v trap
  obtain ⟨ho, aligned, reads⟩ := contextRegisters_read r hr
  refine ⟨exec_prd_traps live, exec_pwr_traps live, fun h addr => ?_, fun h addr other => ?_, fun h addr zero => ?_⟩
  · have sees : (reachOf s t).sees c = true ↔ t.ctx = 0 ∨ t.ctx = c := by
      change (decide (t.ctx = 0) || decide (t.ctx = c)) = true ↔ _
      simp
    have read := prd_context live hc ho aligned h addr
    simpa only [sees, reads] using read
  · have ran := exec_pwr_context live hc ho aligned h addr
    rw [show (reachOf s t).all = false by simp [reachOf, Reach.all, other]] at ran
    obtain ⟨t', retires⟩ := retire_retires 0x301 f {} h.thread h.new (Thread.fits_of_newNames t [] rfl)
    exact ⟨_, t', ran, retires⟩
  · have ran := exec_pwr_context live hc ho aligned h addr
    rw [show (reachOf s t).all = true by simp [reachOf, Reach.all, zero], if_pos rfl] at ran
    obtain ⟨wrote, value, rest⟩ := contextRegisters_written r hr s c v
    rw [wrote] at ran
    have prepared : Prepared s (s.modCtx c (·.regSet r.1 v)) tid t := .of_same h.thread rfl rfl rfl rfl
    obtain ⟨t', on⟩ :=
      prepared.goesOn (opc := 0x301) (f := f) h.new (by decide) (ws := []) (Thread.fits_of_newNames t [] rfl)
    have ctx : ∀ d, (retire 0x301 f (s.modCtx c (·.regSet r.1 v)) tid t {}).ctx d = if d = c then (s.ctx c).regSet r.1 v else s.ctx d := fun d => by
      rw [on.ctx, State.ctx_modCtx]
    refine ⟨_, t', ran, on.advances, ?_, fun d hd => (ctx d).trans (if_neg hd), fun q hq ne => ?_, on.others⟩
    · rw [ctx, if_pos rfl]; exact value _
    · rw [ctx, if_pos rfl]; exact rest q hq ne _

end Sys2Proof.Machine
end

section
/-! Settles O51: RLBINV (R447, R448), with PRD and PWR above. -/

namespace Sys2Proof.Machine

/-! ### What an invalidation drops -/

/-- A number of pages from a first one meets the bytes of a range. -/
def PagesMeet (lo n first pages : Nat) : Prop := first * 4096 < lo + n ∧ lo < first * 4096 + pages * 4096

theorem meets_pages (lo n first pages : Nat) : meets lo n (first * 4096) (pages * 4096) = true ↔ PagesMeet lo n first pages := by
  simp [meets, PagesMeet]

section
variable (s : State) (c lo n : Nat)

/-- A CU without the translations of a context that meet a range; a stopped drain keeps none either. -/
def Cu.dropped (u : Cu) : Cu :=
  { u with rlb := u.rlb.filter fun x => !(x.ctx = c && meets lo n (x.span.1 * 4096) (x.span.2 * 4096)),
           mq := u.mq.map fun o => if matOf s c o && matStopped s u.mq o then o.forget lo n else o }

theorem mem_rlb_dropped (u : Cu) (x : RlbEntry) :
    x ∈ (u.dropped s c lo n).rlb ↔ x ∈ u.rlb ∧ ¬(x.ctx = c ∧ PagesMeet lo n x.span.1 x.span.2) := by
  simp only [Cu.dropped, List.mem_filter, Bool.not_eq_true', ← Bool.not_eq_true, Bool.and_eq_true, decide_eq_true_eq, meets_pages]

theorem dropXl_cu (k : Nat) (x : RlbEntry) :
    x ∈ ((dropXl s c lo n).cu k).rlb ↔ x ∈ (s.cu k).rlb ∧ ¬(x.ctx = c ∧ PagesMeet lo n x.span.1 x.span.2) := by
  have cu : (dropXl s c lo n).cu k = ((nget s.cus k).map fun u => u.dropped s c lo n).getD Cu.reset :=
    congrArg (·.getD Cu.reset) (nget_nmap s.cus (fun _ u => u.dropped s c lo n) k)
  rw [cu, State.cu, ngetD]
  cases nget s.cus k with
  | none => exact ⟨fun h => (List.not_mem_nil h).elim, fun h => (List.not_mem_nil h.1).elim⟩
  | some u => exact mem_rlb_dropped s c lo n u x

theorem dropXl_walkers (die : Nat) (p : Nat × Nat) : p ∈ ngetD (dropXl s c lo n).mem.walkers die [] ↔
    p ∈ ngetD s.mem.walkers die [] ∧ ¬(p.1 = c ∧ PagesMeet lo n (reVbase p.2) (reNpg p.2)) := by
  have list : ngetD (dropXl s c lo n).mem.walkers die [] = (ngetD s.mem.walkers die []).filter fun p =>
      !(p.1 = c && meets lo n (reVbase p.2 * 4096) (reNpg p.2 * 4096)) := by
    simp only [dropXl, State.modMem_mem, ngetD, nget_nmap]
    cases nget s.mem.walkers die <;> rfl
  simp only [list, List.mem_filter, Bool.not_eq_true', ← Bool.not_eq_true, Bool.and_eq_true, decide_eq_true_eq, meets_pages]

theorem dropXl_wregs (w : Nat) : ((dropXl s c lo n).wg w).map (·.w) = (s.wg w).map (·.w) := by
  simp only [dropXl, State.wg, State.modMem_wgs, nget_nmap, Option.map_map]
  exact congrArg (Option.map · (nget s.wgs w)) (funext fun g => by simp only [Function.comp]; split_ifs <;> rfl)

theorem dropXl_prepared {tid : Nat} {t : Thread} (ht : s.thread tid = some t) : Prepared s (dropXl s c lo n) tid t where
  thread := ⟨t.wb, ht⟩
  cyc := rfl
  wregs := dropXl_wregs s c lo n t.wg
  bytes := ⟨rfl, rfl⟩

end

/-! ### RLBINV -/

/-- The range that RLBINV names: everything, or a number of bytes from an address. -/
def rlbRange (f : Fields) (s : State) (tid : Nat) (t : Thread) : Nat × Nat :=
  (if Forms.mo f 0 0 = 1 then 0 else (uniVal s tid t f.a.toNat).toNat,
   if Forms.mo f 0 0 = 1 then 2 ^ 57 else (uniVal s tid t f.b.toNat).toNat)

section
variable {f : Fields} {s : State} {tid : Nat} {t : Thread} {a n : Nat} (h : Issues s tid t 0x302 f) (live : t.live f ≠ 0)
  (range : rlbRange f s tid t = (a, n))
include h live range

theorem exec_rlbinv_range : exec (.rlbinv f) s = .next (
    let out := fun (s : State) => retire 0x302 f s tid t { writes := [.uni f.d.toNat 0] }
    if a % 4096 ≠ 0 || n % 4096 ≠ 0 then takeFault s tid (trapSyn 0x80000072 (t.live f)) t.pc
    else if 2 ^ 57 < a + n then takeFault s tid (trapSyn 0x80000073 (t.live f)) t.pc
    else if n = 0 then out s
    else if accessWaits s (reachCtx t) a n || packetWaits s (reachCtx t) a n || engineWaits s (reachCtx t) a n || drainsRun s (reachCtx t) a n
      then standIn 0x302 s tid { stage := 1, val := 0, aux := 0 }
      else out (dropXl s (reachCtx t) a n)) := by
  obtain ⟨rfl, rfl⟩ := Prod.mk.inj range
  rw [exec_rlbinv, execRlbinv, issue_runs h, if_neg live]

theorem exec_rlbinv_ragged (ragged : a % 4096 ≠ 0 ∨ n % 4096 ≠ 0) :
    exec (.rlbinv f) s = .next (takeFault s tid (trapSyn 0x80000072 (t.live f)) t.pc) := by
  rw [exec_rlbinv_range h live range]
  exact congrArg _ (if_pos (by simpa using ragged))

variable (pages : a % 4096 = 0) (whole : n % 4096 = 0)
include pages whole

theorem exec_rlbinv_beyond (beyond : 2 ^ 57 < a + n) :
    exec (.rlbinv f) s = .next (takeFault s tid (trapSyn 0x80000073 (t.live f)) t.pc) := by
  rw [exec_rlbinv_range h live range]
  dsimp only
  rw [if_neg (by simp [pages, whole]), if_pos beyond]

variable (inside : a + n ≤ 2 ^ 57)
include inside

theorem exec_rlbinv_nothing (none' : n = 0) :
    exec (.rlbinv f) s = .next (retire 0x302 f s tid t { writes := [.uni f.d.toNat 0] }) := by
  rw [exec_rlbinv_range h live range]
  dsimp only
  rw [if_neg (by simp [pages, whole]), if_neg (not_lt.2 inside), if_pos none']

theorem exec_rlbinv_some (some' : n ≠ 0) : exec (.rlbinv f) s = .next (
    if accessWaits s (reachCtx t) a n || packetWaits s (reachCtx t) a n || engineWaits s (reachCtx t) a n || drainsRun s (reachCtx t) a n
      then standIn 0x302 s tid { stage := 1, val := 0, aux := 0 }
      else retire 0x302 f (dropXl s (reachCtx t) a n) tid t { writes := [.uni f.d.toNat 0] }) := by
  rw [exec_rlbinv_range h live range]
  simp only [pages, whole, not_lt.2 inside, some', ne_eq, not_true_eq_false, decide_false, Bool.or_self, Bool.false_eq_true, if_false]

end

theorem lookasideInvalidation : Claims.LookasideInvalidation := by
  intro f s tid t h live all a n c trap drops ends runs
  have range : rlbRange f s tid t = (a, n) := rfl
  have fit := fits_uni t f.d.toNat 0
  have waits : (accessWaits s (reachCtx t) a n || packetWaits s (reachCtx t) a n || engineWaits s (reachCtx t) a n ||
      drainsRun s (reachCtx t) a n) = true ↔ runs := by
    simp only [Bool.or_eq_true, or_assoc, runs, c, reachCtx]
  refine ⟨exec_rlbinv_ragged h live range, exec_rlbinv_beyond h live range, fun pages none' inside => ?_,
    fun pages whole inside some' idle => ?_, fun pages whole inside some' busy => ?_⟩
  · have prepared : Prepared s s tid t := .of_same h.thread rfl rfl rfl rfl
    obtain ⟨t', on⟩ := prepared.goesOn (opc := 0x302) (f := f) h.new (by decide) fit
    exact ⟨_, t', exec_rlbinv_nothing h live range pages (by omega) (by omega) none', on.advances, on.cus⟩
  · have ran := exec_rlbinv_some h live range pages whole inside some'
    rw [if_neg (mt waits.1 idle)] at ran
    obtain ⟨t', on⟩ := (dropXl_prepared s (reachCtx t) a n h.thread).goesOn (opc := 0x302) (f := f) h.new (by decide) fit
    refine ⟨_, t', ran, on.advances, fun k x => ?_, fun die p => ?_, on.others⟩
    · rw [State.cu, on.cus]; exact dropXl_cu s (reachCtx t) a n k x
    · rw [on.mem]; exact dropXl_walkers s (reachCtx t) a n die p
  · have ran := exec_rlbinv_some h live range pages whole inside some'
    rw [if_pos (waits.2 busy)] at ran
    obtain ⟨sig, thread⟩ := standIn_leaves h.thread h.new 0x302 { stage := 1, val := 0, aux := 0 }
    exact ⟨_, _, ran, rfl, rfl, thread, rfl, rfl, rfl⟩

/-- Settles O51: a context's block by its registers, and RLBINV by what it drops. -/
theorem systemForms : Obligations.SystemForms := ⟨moduleRegistersByTadpoles, lookasideInvalidation⟩

end Sys2Proof.Machine
end

section
/-! For O53: what writes of an engine and of a CU's L1, kills and ended tadpoles leave of a thread that performs a form (R80, R431). -/

namespace Sys2Proof.Machine

/-! ### A thread that stands -/

/-- A thread apart from its monitors, its locks and the mark that a tadpole steps it. -/
def Thread.core (t : Thread) : Thread := { t with mons := [], locks := [], stepping := 0 }

/-- Thread `tid` stands among the threads, the same as `t` but for what others may change of it. -/
def StandsAs (m : NMap Thread) (tid : Nat) (t : Thread) : Prop := (nget m tid).isSome = true ∧ ∀ p ∈ m, p.1 = tid → p.2.core = t.core

theorem StandsAs.of_nodup {s : State} {tid : Nat} {t : Thread} (ht : s.thread tid = some t) (keys : (nkeys s.thr).Nodup) :
    StandsAs s.thr tid t := by
  refine ⟨by rw [show nget s.thr tid = some t from ht]; rfl, fun p hp here => ?_⟩
  have same : p = (tid, t) := List.inj_on_of_nodup_map keys hp (mem_of_nget ht) here
  rw [same]

section
variable {m : NMap Thread} {tid : Nat} {t : Thread} (stands : StandsAs m tid t)
include stands

theorem StandsAs.thread : ∃ x, nget m tid = some x ∧ x.core = t.core := by
  obtain ⟨x, hx⟩ := Option.isSome_iff_exists.1 stands.1
  exact ⟨x, hx, stands.2 (tid, x) (mem_of_nget hx) rfl⟩

theorem StandsAs.nmod (j : Nat) {g : Thread → Thread} (keeps : j = tid → ∀ x, (g x).core = x.core) :
    StandsAs (nmod m j g) tid t := by
  obtain ⟨there, same⟩ := stands
  constructor
  · rw [nget_nmod]
    split_ifs with here
    · rw [Option.isSome_map, ← here, there]
    · exact there
  · unfold Sys2Proof.nmod
    cases hj : nget m j with
    | none => exact same
    | some x =>
      rintro p hp rfl
      rcases mem_nset hp with rfl | old
      · exact (keeps rfl x).trans (same (_, x) (mem_of_nget hj) rfl)
      · exact same p old rfl

theorem StandsAs.nmap {g : Thread → Thread} (keeps : ∀ x : Thread, x.core = t.core → (g x).core = t.core) :
    StandsAs (nmap m fun _ x => g x) tid t := by
  obtain ⟨there, same⟩ := stands
  refine ⟨by rw [nget_nmap m (fun _ x => g x), Option.isSome_map, there], fun p hp here => ?_⟩
  obtain ⟨q, hq, rfl⟩ := List.mem_map.1 hp
  exact keeps _ (same q hq here)

theorem StandsAs.nerase {j : Nat} (other : j ≠ tid) : StandsAs (nerase m j) tid t := by
  refine ⟨?_, fun p hp => stands.2 p (List.mem_filter.1 hp).1⟩
  rw [nget_nerase, if_neg other.symm]
  exact stands.1

theorem StandsAs.killedThreads {l : List Nat} (out : tid ∉ l) : StandsAs (killedThreads m l) tid t :=
  List.foldlRecOn (motive := fun u => StandsAs u tid t) _ _ stands fun _ ih j hj => ih.nmod j fun here => (out (here ▸ hj)).elim

end

theorem StandsAs.endTadpole {s : State} {tid : Nat} {t : Thread} (stands : StandsAs s.thr tid t) {j : Nat} (other : j ≠ tid) :
    StandsAs (endTadpole s j).thr tid t := by
  unfold Machine.endTadpole
  split
  · exact stands
  · refine StandsAs.nerase ?_ other
    split
    · split_ifs
      · exact stands.nmod _ fun _ _ => rfl
      · exact stands
    · exact stands

theorem endTadpole_ctxs (s : State) (tid : Nat) : (endTadpole s tid).ctxs = s.ctxs := by
  unfold endTadpole
  split
  · rfl
  · split
    · split_ifs <;> rfl
    · rfl

/-! ### Accesses of engines -/

/-- From `s` to `u` every thread stands that stood, and the contexts stay. -/
structure Settled (s u : State) : Prop where
  stands : ∀ tid t, StandsAs s.thr tid t → StandsAs u.thr tid t
  cores : ∀ tid, (u.thread tid).map Thread.core = (s.thread tid).map Thread.core
  ctxs : u.ctxs = s.ctxs

theorem Settled.refl (s : State) : Settled s s := ⟨fun _ _ h => h, fun _ => rfl, rfl⟩
theorem Settled.trans {s u v : State} (h : Settled s u) (k : Settled u v) : Settled s v :=
  ⟨fun tid t x => k.stands tid t (h.stands tid t x), fun tid => (k.cores tid).trans (h.cores tid), k.ctxs.trans h.ctxs⟩
theorem Settled.of_eq {s u : State} (thr : u.thr = s.thr) (ctxs : u.ctxs = s.ctxs) : Settled s u :=
  ⟨fun _ _ h => thr ▸ h, fun tid => by rw [State.thread, thr]; rfl, ctxs⟩
theorem Asked.settled {s u : State} (asked : Asked s u) : Settled s u := .of_eq (by rw [asked.rest]) (by rw [asked.rest])

theorem Settled.foldl {α : Type} {g : State → α → State} (step : ∀ s a, Settled s (g s a)) (l : List α) (s : State) :
    Settled s (l.foldl g s) := List.foldlRecOn (motive := Settled s) _ _ (.refl s) fun _ ih a _ => ih.trans (step _ a)

theorem Thread.core_fired (x : Thread) (p : Monitor → Bool) : (x.fired p).core = x.core := by
  obtain ⟨m, fired⟩ := x.fired_eq p
  rw [fired]
  rfl

theorem settled_fireIf (s : State) (p : Monitor → Bool) : Settled s (fireIf s p) :=
  ⟨fun _ _ h => h.nmap (g := (·.fired p)) fun x same => by rw [Thread.core_fired]; exact same, fun tid => by
    rw [State.thread_fireIf, Option.map_map]
    exact congrArg (Option.map · (s.thread tid)) (funext fun x => x.core_fired p), rfl⟩

theorem settled_markWaiter (s : State) (a sec : Nat) : Settled s (markWaiter s a sec) := by
  unfold markWaiter
  split
  · exact .refl s
  · refine ⟨fun _ _ h => h.nmod _ fun _ _ => rfl, fun tid => ?_, rfl⟩
    rw [State.thread_modThread]
    split_ifs with here
    · rw [here, Option.map_map]; rfl
    · rfl

theorem settled_persist (s : State) (a sec : Nat) (t : Transient) : Settled s (persist s a sec t) := by
  unfold persist
  dsimp only
  split_ifs <;> exact .of_eq rfl rfl

theorem settled_finishRequest (s : State) (a sec : Nat) : Settled s (finishRequest s a sec) := by
  unfold finishRequest
  cases nget s.mem.trans (l2key a sec) with
  | none => exact .refl s
  | some t =>
    dsimp only
    split
    · exact .of_eq rfl rfl
    · split
      · exact .of_eq rfl rfl
      · split_ifs
        · exact .of_eq rfl rfl
        · refine Settled.trans ?_ (settled_persist ..)
          exact .of_eq rfl rfl

theorem settled_served (s : State) (a sec : Nat) : Settled s (served s a sec) := by
  unfold served
  split
  · split_ifs
    · exact settled_finishRequest ..
    · exact .refl s
  · exact .refl s

theorem settled_engineLets (s : State) (a sec eng : Nat) : Settled s (engineLets s a sec eng) := by
  unfold engineLets
  split
  · split_ifs
    · exact settled_finishRequest ..
    · exact .refl s
  · exact .refl s

theorem settled_l2Merge (s : State) (a sec : Nat) (mask : BitVec 64) (d : List Byte) : Settled s (l2Merge s a sec mask d) := by
  unfold l2Merge
  dsimp only
  split_ifs
  · exact .refl s
  · refine Settled.trans ?_ (settled_fireIf ..)
    exact .of_eq rfl rfl

theorem settled_hostGiveUp (s : State) (key : Nat) : Settled s (hostGiveUp s key) := by
  unfold hostGiveUp
  split
  · exact .refl s
  · refine Settled.trans ?_ (settled_fireIf ..)
    exact .of_eq rfl rfl

theorem settled_engineWrite (s : State) (a eng : Nat) (x : Xl) (mask : BitVec 64) (d : List Byte) :
    Settled s (engineWrite s a eng x mask d).1 := by
  unfold engineWrite
  split_ifs
  · exact (settled_hostGiveUp s (hostKey x)).trans (.of_eq rfl rfl)
  · exact (settled_engineLets ..).trans (settled_markWaiter ..)
  · exact (settled_l2Merge ..).trans (settled_served ..)
  · exact (asked_need ..).settled

/-! ### Write-back of L1s (R80) -/

theorem settled_flushLine (s : State) (cu sec : Nat) : Settled s (flushLine s cu sec).1 := by
  unfold flushLine
  split
  · exact .refl s
  · dsimp only
    split_ifs
    · exact .refl s
    · exact .refl s
    · exact (settled_l2Merge ..).trans (.of_eq rfl rfl)
    · exact (asked_need ..).settled

theorem settled_flushAll (s : State) (cu : Nat) (l : List Nat) : Settled s (flushAll s cu l).1 :=
  List.foldlRecOn (motive := fun acc : State × List Nat => Settled s acc.1) _ _ (.refl s)
    fun acc ih sec _ => ih.trans (settled_flushLine acc.1 cu sec)

theorem settled_flushCus (s : State) (cus : List Nat) : Settled s (flushCus s cus).1 :=
  List.foldlRecOn (motive := fun acc : State × Bool => Settled s acc.1) _ _ (.refl s)
    fun acc ih cu _ => ih.trans (settled_flushAll acc.1 cu (dirtySectors acc.1 cu))

/-! ### The write of a save image -/

/-- From `s` to `u` every thread stands that stood, and of the contexts no more changed than the tiles touched (R21). -/
structure Touched (s u : State) : Prop where
  stands : ∀ tid t, StandsAs s.thr tid t → StandsAs u.thr tid t
  ctx : ∀ c, ∃ d, u.ctx c = { s.ctx c with tdm := d }

theorem Settled.touched {s u : State} (h : Settled s u) : Touched s u :=
  ⟨h.stands, fun c => ⟨(s.ctx c).tdm, by rw [State.ctx, h.ctxs]; rfl⟩⟩

theorem Touched.trans {s u v : State} (h : Touched s u) (k : Touched u v) : Touched s v where
  stands tid t x := k.stands tid t (h.stands tid t x)
  ctx c := by
    obtain ⟨d, hd⟩ := h.ctx c
    obtain ⟨e, he⟩ := k.ctx c
    exact ⟨e, by rw [he, hd]⟩

theorem rlbFill_ctxs (s : State) (cu c va : Nat) (x : Xl) : (rlbFill s cu c va x).ctxs = s.ctxs := by
  unfold rlbFill
  dsimp only
  split_ifs <;> rfl

theorem touched_xlate (s : State) (cu c va : Nat) : Touched s (xlate s cu c va).1 := by
  unfold xlate
  cases translate s cu c va with
  | none => exact (asked_walkReads ..).settled.touched
  | some x =>
    have filled : Settled s (rlbFill (walkReads s cu c va) cu c va x) :=
      (asked_walkReads ..).settled.trans (.of_eq (translated_rlbFill ..).thr (rlbFill_ctxs ..))
    have touched : ∀ u : State, Touched u (u.touch c x) := fun u => ⟨fun _ _ h => h, fun d => by
      rw [State.touch, State.ctx_modCtx]
      split_ifs with here
      · exact ⟨_, by rw [here]⟩
      · exact ⟨_, rfl⟩⟩
    dsimp only
    split_ifs <;> exact filled.touched.trans (touched _)

theorem touched_engineXl (s : State) (cu c va : Nat) (w : Bool) : Touched s (engineXl s cu c va w).1 := by
  have touched := touched_xlate s cu c va
  unfold engineXl
  split_ifs
  · exact (Settled.refl s).touched
  · generalize xlate s cu c va = out at touched ⊢
    obtain ⟨u, _ | _⟩ := out <;> exact touched

theorem touched_writeImage (cu c : Nat) (blocks : List (List Byte)) (s : State) (va : Nat) :
    Touched s (writeImage s cu c va blocks).1 := by
  induction blocks generalizing s va with
  | nil => exact (Settled.refl s).touched
  | cons b rest ih =>
    have found := touched_engineXl s cu c va true
    rw [writeImage]
    rcases hx : engineXl s cu c va true with ⟨u, x | _ | _⟩ <;> rw [hx] at found <;> dsimp only
    · have wrote := found.trans (settled_engineWrite u (dieOf cu) (engineOf cu 3) x (byteMask 0 b.length) b).touched
      rcases hw : engineWrite u (dieOf cu) (engineOf cu 3) x (byteMask 0 b.length) b with ⟨v, _ | _⟩ <;> rw [hw] at wrote
      · exact wrote
      · exact wrote.trans (ih v (va + 64))
    · exact found
    · exact found

/-! ### A form with one scalar result after all that -/

/-- What a form of one result leaves of the state in which it retires. -/
structure Left (s u : State) (tid : Nat) (t : Thread) (w : Write) : Prop where
  thread : ∃ t', u.thread tid = some t' ∧ t'.pc = nextPc t.pc ∧ ∀ n, ngetD t'.sreg n 0 = scalarAfter [w] n (ngetD t.sreg n 0)
  wgs : ∀ v, ∃ r : Wg → NMap WReg, u.wg v = (s.wg v).map fun g => { g with w := r g }
  state : u = { s with env := { s.env with nextId := u.env.nextId }, thr := u.thr, wgs := u.wgs }

theorem Left.ctx {s u : State} {tid : Nat} {t : Thread} {w : Write} (h : Left s u tid t w) (c : Nat) : u.ctx c = s.ctx c := by
  rw [h.state]; rfl
theorem Left.cu {s u : State} {tid : Nat} {t : Thread} {w : Write} (h : Left s u tid t w) (n : Nat) : u.cu n = s.cu n := by
  rw [h.state]; rfl

/-- The thread of a form retires as `t0`, of which others may have changed what is not its core. -/
theorem retire_left {s : State} {tid : Nat} {t t0 : Thread} (ht : s.thread tid = some t0) (same : t0.core = t.core) (opc : Nat)
    (f : Fields) (code : Nat) (v : Word64) : Left s (retire opc f s tid t { writes := [.uni code v] }) tid t (.uni code v) := by
  obtain ⟨t', thread, pc, -, sreg, -⟩ := retire_leaves (opc := opc) (f := f) (d := { writes := [.uni code v] }) ht (fits_uni t code v)
  obtain ⟨t1, wrote⟩ := applyWrites_wrote 8 tid [.uni code v] s t0 ht
  have regs : t0.sreg = t.sreg := show t0.core.sreg = t.core.sreg by rw [same]
  refine ⟨⟨t', thread, pc, fun n => by rw [sreg, regs]⟩, fun x => ?_, ?_⟩
  · refine ⟨fun g => if x = t0.wg then wAfter s.cyc 8 t0.barrel tid [.uni code v] g.w else g.w, ?_⟩
    have wgs : (retire opc f s tid t { writes := [.uni code v] }).wg x = (applyWrites 8 tid s [.uni code v]).wg x := by
      rw [retire, if_pos (fits_uni t code v)]; rfl
    rw [wgs, wrote.wregs]
    refine congrArg (Option.map · (s.wg x)) (funext fun g => ?_)
    split_ifs <;> rfl
  · have rest := wrote.state
    rw [retire, if_pos (fits_uni t code v)]
    dsimp only [State.modThread]
    rw [rest]

end Sys2Proof.Machine
end

section
/-! For O53: CTXSV and CTXLD (R416, R431, R432). -/

namespace Sys2Proof.Machine

/-! ### A form of a context-0 tadpole with one result -/

section
variable {opc : Nat} {f : Fields} {s : State} {tid : Nat} {t : Thread} (h : Issues s tid t opc f)
include h

/-- A form of context 0 is performed by a tadpole of context 0. -/
theorem ctx0Form_runs (zero : t.ctx = 0) (live : t.live f ≠ 0) (body : State → Nat → Thread → State) :
    ctx0Form opc f s body = .next (body s tid t) := by
  rw [ctx0Form, issue_runs h, if_neg (not_not.2 zero), if_neg live]

theorem retiresWith_uni {i : Instr} {v : Word64} (runs : exec i s = .next (retire opc f s tid t { writes := [.uni f.d.toNat v] })) :
    RetiresWith i opc f s tid t { writes := [.uni f.d.toNat v] } := by
  obtain ⟨t', retires⟩ := retire_retires opc f { writes := [.uni f.d.toNat v] } h.thread h.new (fits_uni t _ v)
  exact ⟨_, t', runs, retires⟩

end

/-! ### CTXSV -/

/-- CTXSV gives zero for such a context. -/
def unsavable (s : State) (c : Nat) : Bool := (s.ctx c).state ≠ 2 || (s.ctx c).saved || tadpolesOf s c false

theorem unsavable_iff (s : State) (c : Nat) : unsavable s c = true ↔
    ¬bits (s.ctx c).brst 1 0 = 2 ∨ (s.ctx c).brst.getLsbD 2 = true ∨ tadpolesOf s c false = true := by
  simp only [unsavable, Bool.or_eq_true, decide_eq_true_eq]
  exact or_assoc

/-- A tadpole of a context that can be saved is an agent. -/
theorem other_context_of_savable {s : State} {tid c : Nat} {t : Thread} (ht : s.thread tid = some t) (tadpole : t.isGroup = false)
    (agent : t.agent = false) (savable : unsavable s c = false) : t.ctx ≠ c := by
  rintro rfl
  have there : tadpolesOf s t.ctx false = true :=
    Bool.or_eq_true_iff.2 (.inl (List.any_eq_true.2 ⟨(tid, t), mem_of_nget ht, by simp [tadpole, agent]⟩))
  simp [unsavable, there] at savable

/-- What the save of a context leaves of a thread of another context. -/
theorem StandsAs.saveCtx {s : State} {tid c : Nat} {t : Thread} (stands : StandsAs s.thr tid t) (tadpole : t.isGroup = false)
    (other : t.ctx ≠ c) : StandsAs (saveCtx s c).thr tid t := by
  have spares : ∀ j ∈ (s.thr.filter fun p => p.2.ctx = c && p.2.agent).map (·.1), j ≠ tid := by
    rintro j hj rfl
    obtain ⟨p, hp, here⟩ := List.mem_map.1 hj
    obtain ⟨member, of⟩ := List.mem_filter.1 hp
    have same : p.2.ctx = t.ctx := show p.2.core.ctx = t.core.ctx by rw [stands.2 p member here]
    exact other (same ▸ of_decide_eq_true (Bool.and_eq_true_iff.1 of).1)
  have ended : StandsAs (((s.thr.filter fun p => p.2.ctx = c && p.2.agent).map (·.1)).foldl Machine.endTadpole s).thr tid t :=
    List.foldlRecOn (motive := fun u : State => StandsAs u.thr tid t) _ _ stands fun _ ih j hj => ih.endTadpole (spares j hj)
  refine ended.nmap (g := fun x => if x.isGroup && x.ctx = c then
    { x.breakLocks with place := if x.place = .active then .pending else x.place } else x) fun x same => ?_
  have group : x.isGroup = t.isGroup := show x.core.isGroup = t.core.isGroup by rw [same]
  rw [group, tadpole]
  exact same

theorem foldl_endTadpole_ctxs (l : List Nat) (s : State) : (l.foldl endTadpole s).ctxs = s.ctxs :=
  List.foldlRecOn (motive := fun u : State => u.ctxs = s.ctxs) _ _ rfl fun u ih j _ => (endTadpole_ctxs u j).trans ih

theorem foldl_endTadpole_wgs (l : List Nat) (s : State) : (l.foldl endTadpole s).wgs = s.wgs :=
  List.foldlRecOn (motive := fun u : State => u.wgs = s.wgs) _ _ rfl fun u ih j _ => (endTadpole_wgs u j).trans ih

section
variable (s : State) (c : Nat)

/-- The save marks the context. -/
theorem saveCtx_brst : ((saveCtx s c).ctx c).brst = (s.ctx c).brst ||| 4 := by
  have before := foldl_endTadpole_ctxs ((s.thr.filter fun p => p.2.ctx = c && p.2.agent).map (·.1)) s
  unfold saveCtx
  rw [State.ctx_modCtx, if_pos rfl]
  unfold State.ctx State.modMem
  dsimp only
  rw [before]

/-- No CU is the context's own after it. -/
theorem saveCtx_cus (n : Nat) : ((saveCtx s c).cu n).ctx ≠ some c := by
  unfold saveCtx State.cu ngetD
  simp only [State.modCtx, State.setCtx, nget_nmap]
  cases nget _ n with
  | none => exact Option.some_ne_none c ∘ Eq.symm
  | some u =>
    simp only [Option.map_some, Option.getD_some]
    split_ifs with own
    · exact Option.some_ne_none c ∘ Eq.symm
    · exact own

/-- Its workgroups wait for admission. -/
theorem saveCtx_evicts {w : Nat} {g : Wg} (hg : (saveCtx s c).wg w = some g) (own : g.ctx = c) : g.evicted = true := by
  unfold saveCtx State.wg at hg
  simp only [State.modCtx, State.setCtx, State.modMem, nget_nmap, Option.map_eq_some_iff] at hg
  obtain ⟨g0, -, rfl⟩ := hg
  split_ifs at own ⊢ with here
  · rfl
  · exact (here own).elim

end

/-- A save image with its header. -/
def saveImage (key c : Nat) (body : List Byte) : List Byte := imageHeader key c body ++ body

section
variable {f : Fields} {s : State} {tid : Nat} {t : Thread} (h : Issues s tid t 0x303 f) (zero : t.ctx = 0) (live : t.live f ≠ 0)
include h zero live

theorem exec_ctxsv_zero (fails : unsavable s ((uniVal s tid t f.a.toNat).toNat % 1024) = true) :
    exec (.ctxsv f) s = .next (retire 0x303 f s tid t { writes := [.uni f.d.toNat (BitVec.ofNat 64 0)] }) := by
  rw [exec_ctxsv, execCtxsv, ctx0Form_runs h zero live]
  dsimp only
  rw [← unsavable, if_pos fails]

theorem exec_ctxsv_traps (savable : unsavable s ((uniVal s tid t f.a.toNat).toNat % 1024) = false)
    (bad : (uniVal s tid t f.b.toNat).toNat % 4096 ≠ 0) :
    exec (.ctxsv f) s = .next (takeFault s tid (trapSyn 0x80000071 (t.live f)) t.pc) := by
  rw [exec_ctxsv, execCtxsv, ctx0Form_runs h zero live]
  dsimp only
  rw [← unsavable, if_neg (by rw [savable]; decide), if_pos bad]

/-- The save of a context that can be saved, once its CUs are clean and its image is written. -/
theorem exec_ctxsv_saves {c va : Nat} (hc : (uniVal s tid t f.a.toNat).toNat % 1024 = c) (hva : (uniVal s tid t f.b.toNat).toNat = va)
    (savable : unsavable s c = false) (page : va % 4096 = 0) {clean u : State} (flushed : flushCus s (ctxCus s c) = (clean, true))
    {body : List Byte} (hbody : imageBody (takeImage (saveCtx clean c) c) = body)
    (wrote : writeImage clean t.cu 0 va (blocks64 (saveImage (clean.ctx c).key c body)) = (u, .ok ())) :
    exec (.ctxsv f) s = .next (retire 0x303 f
      { saveCtx u.fresh.2 c with images := nset u.images u.env.nextId (takeImage (saveCtx clean c) c) } tid t
      { writes := [.uni f.d.toNat (BitVec.ofNat 64 (saveImage (clean.ctx c).key c body).length)] }) := by
  rw [exec_ctxsv, execCtxsv, ctx0Form_runs h zero live]
  dsimp only
  rw [hc, hva, ← unsavable, if_neg (by rw [savable]; decide), if_neg (not_not.2 page), flushed]
  dsimp only
  rw [hbody, zero, ← saveImage, wrote]
  rfl

end

/-! ### CTXLD -/

section
variable {f : Fields} {s : State} {tid : Nat} {t : Thread} (h : Issues s tid t 0x304 f) (zero : t.ctx = 0) (live : t.live f ≠ 0)
  {c va : Nat} (hc : (uniVal s tid t f.a.toNat).toNat % 1024 = c) (hva : (uniVal s tid t f.b.toNat).toNat = va)
include h zero live hc

theorem exec_ctxld_notSaved (not : ¬bits (s.ctx c).brst 1 0 = 2 ∨ (s.ctx c).brst.getLsbD 2 = false) :
    exec (.ctxld f) s = .next (retire 0x304 f s tid t { writes := [.uni f.d.toNat (BitVec.ofNat 64 3)] }) := by
  rw [exec_ctxld, execCtxld, ctx0Form_runs h zero live]
  dsimp only
  rw [hc, if_pos (by simp only [Bool.or_eq_true, decide_eq_true_eq, Bool.not_eq_true']; exact not)]

variable (drained : bits (s.ctx c).brst 1 0 = 2) (saved : (s.ctx c).brst.getLsbD 2 = true) (read : (readImage s 0 va c).1 = s)
include hva drained saved read

theorem exec_ctxld_foreign (foreign : (readImage s 0 va c).2.bind (imageOf s c) = none) :
    exec (.ctxld f) s = .next (retire 0x304 f s tid t { writes := [.uni f.d.toNat (BitVec.ofNat 64 2)] }) := by
  rw [exec_ctxld, execCtxld, ctx0Form_runs h zero live]
  dsimp only
  rw [hc, hva, if_neg (by simp [Ctx.state, Ctx.saved, drained, saved]), zero, read, foreign]

variable {b : List Byte} (hb : (readImage s 0 va c).2 = some b) {m : SaveImage} {newest : Bool} (image : imageOf s c b = some (m, newest))
  {clean : State} (flushed : flushCus s (staleCus s) = (clean, true))
include hb image flushed

theorem exec_ctxld_image : exec (.ctxld f) s = .next
    (match loadAll (if newest then clean else putImage clean m) c with
     | none => retire 0x304 f clean tid t { writes := [.uni f.d.toNat (BitVec.ofNat 64 1)] }
     | some u => retire 0x304 f (u.modCtx c fun k => { k with brst := k.brst &&& ~~~4 }) tid t
        { writes := [.uni f.d.toNat (BitVec.ofNat 64 0)] }) := by
  rw [exec_ctxld, execCtxld, ctx0Form_runs h zero live]
  dsimp only
  rw [hc, hva, if_neg (by simp [Ctx.state, Ctx.saved, drained, saved]), zero, read, hb, Option.bind_some, image]
  dsimp only
  rw [flushed]
  cases loadAll (if newest then clean else putImage clean m) c <;> rfl

end

/-- The result and the PC of a form that leaves the thread of its state `s1`, with what the state holds. -/
theorem Left.leaves {s s1 : State} {tid : Nat} {t : Thread} {w : Write} {i : Instr} {u : State} (left : Left s1 u tid t w)
    (runs : exec i s = .next u) {holds : State → Prop} (held : holds u) : ∃ u t', exec i s = .next u ∧ u.thread tid = some t' ∧
      t'.pc = nextPc t.pc ∧ (∀ n, ngetD t'.sreg n 0 = scalarAfter [w] n (ngetD t.sreg n 0)) ∧ holds u := by
  obtain ⟨t', ht', pc, sreg⟩ := left.thread
  exact ⟨u, t', runs, ht', pc, sreg, held⟩

theorem contextsAreSavedAndRestored : Claims.ContextsAreSavedAndRestored := by
  intro f s tid t tadpole agent live c va k drained clean body fails image gives leaves
  have failsIff : unsavable s c = true ↔ fails := unsavable_iff s c
  refine ⟨fun other => ⟨fun h => ?_, fun h => ?_⟩, fun zero h works bad => ?_, fun zero h fail => ?_,
    fun zero h keys works page flushed wrote => ?_, fun zero h not => ?_, fun zero h hd hs read foreign => ?_,
    fun b m newest zero h hd hs read hb hm flushed => ?_⟩
  · rw [exec_ctxsv]; exact ctx0Form_privileged h other _
  · rw [exec_ctxld]; exact ctx0Form_privileged h other _
  · exact exec_ctxsv_traps h zero live (Bool.eq_false_iff.2 (mt failsIff.1 works)) bad
  · exact retiresWith_uni h (exec_ctxsv_zero h zero live (failsIff.2 fail))
  · have savable : unsavable s c = false := Bool.eq_false_iff.2 (mt failsIff.1 works)
    have settled : Settled s clean := settled_flushCus s (ctxCus s c)
    have key : (clean.ctx c).key = k.key := by rw [State.ctx, settled.ctxs]; rfl
    have touched := touched_writeImage t.cu 0 (blocks64 image) clean va
    rcases hw : writeImage clean t.cu 0 va (blocks64 image) with ⟨u, res⟩
    rw [hw] at wrote touched
    obtain rfl : res = .ok () := wrote
    have runs := exec_ctxsv_saves h zero live rfl rfl savable page (clean := clean) (Prod.ext rfl flushed) rfl
      (by rw [key]; exact hw)
    rw [key] at runs
    have both := settled.touched.trans touched
    have stands := both.stands tid t (.of_nodup h.thread keys)
    obtain ⟨t0, ht0, same⟩ := (StandsAs.saveCtx (s := u.fresh.2) stands tadpole
      (other_context_of_savable h.thread tadpole agent savable)).thread
    have left := retire_left (s := { saveCtx u.fresh.2 c with images := nset u.images u.env.nextId (takeImage (saveCtx clean c) c) })
      ht0 same 0x303 f f.d.toNat (BitVec.ofNat 64 image.length)
    refine left.leaves runs ⟨?_, fun n => ?_, fun w g hg own => ?_⟩
    · obtain ⟨d, hd⟩ := both.ctx c
      rw [left.ctx]
      refine (saveCtx_brst u.fresh.2 c).trans ?_
      rw [show u.fresh.2.ctx c = u.ctx c from rfl, hd]
    · rw [left.cu]; exact saveCtx_cus u.fresh.2 c n
    · obtain ⟨r, hr⟩ := left.wgs w
      rw [hr, Option.map_eq_some_iff] at hg
      obtain ⟨g0, hg0, rfl⟩ := hg
      exact saveCtx_evicts u.fresh.2 c (w := w) (g := g0) hg0 own
  · exact retiresWith_uni h (exec_ctxld_notSaved h zero live rfl not)
  · exact retiresWith_uni h (exec_ctxld_foreign h zero live rfl rfl hd hs read foreign)
  · intro clean' s1
    have settled : Settled s clean' := settled_flushCus s (staleCus s)
    have runs := exec_ctxld_image h zero live rfl rfl hd hs read hb hm (clean := clean') (Prod.ext rfl flushed)
    refine ⟨fun s2 loaded ht => ?_, fun full => ?_⟩
    · rw [show (if newest then clean' else putImage clean' m) = s1 from rfl, loaded] at runs
      have left := retire_left (s := s2.modCtx c fun k => { k with brst := k.brst &&& ~~~4 }) ht rfl 0x304 f f.d.toNat (BitVec.ofNat 64 0)
      refine left.leaves runs ?_
      rw [left.ctx, State.ctx_modCtx, if_pos rfl]
    · rw [show (if newest then clean' else putImage clean' m) = s1 from rfl, full] at runs
      have core := settled.cores tid
      rw [h.thread, Option.map_some, Option.map_eq_some_iff] at core
      obtain ⟨t0, ht0, same⟩ := core
      have left := retire_left ht0 same 0x304 f f.d.toNat (BitVec.ofNat 64 1)
      refine left.leaves runs ?_
      rw [left.ctx, State.ctx, settled.ctxs]
      rfl

end Sys2Proof.Machine
end

section
/-! Settles O53: RESUMEJ and CURET, with CTXSV and CTXLD above (R357, R420, R433). -/

namespace Sys2Proof.Machine

/-! ### RESUMEJ -/

/-- The partition that RESUMEJ names. -/
def resumeKey (f : Fields) (s : State) (tid : Nat) (t : Thread) : Nat :=
  if Forms.mo f 0 0 = 1 then (s.ctx t.ctx).key else sysA s tid t f % 65536

theorem exec_resumej_quiet {f : Fields} {s : State} {tid : Nat} {t : Thread} (h : Issues s tid t 0x305 f) (live : t.live f ≠ 0)
    (quiet : t.quiet = true) : exec (.resumej f) s = .next (endTadpole
      (if resumeKey f s tid t = (s.ctx t.ctx).key ∨ t.ctx = 0 then
        s.modPart (resumeKey f s tid t) fun p => { p with asked := some s.env.clk, lost := false } else s) tid) := by
  rw [exec_resumej, execResumej, issue_runs h, if_neg live, if_neg (by rw [quiet]; decide)]
  dsimp only
  simp only [Bool.or_eq_true, decide_eq_true_eq]
  rfl

/-! ### CURET -/

/-- A kill of workgroups, none of them with thread `tid`, leaves that thread standing. -/
theorem foldl_killWg_spares {tid : Nat} {t : Thread} (l : List Nat) {s : State} (stands : StandsAs s.thr tid t)
    (apart : ∀ p ∈ s.wgs, tid ∉ p.2.groups) : StandsAs (l.foldl killWg s).thr tid t := by
  induction l generalizing s with
  | nil => exact stands
  | cons w r ih =>
    by_cases dead : ∀ g, s.wg w = some g → g.killed = true
    · rw [List.foldl_cons, killWg_of_killed dead]
      exact ih stands apart
    · push Not at dead
      obtain ⟨g, hg, alive⟩ := dead
      have alive' := Bool.eq_false_iff.2 alive
      refine ih ?_ fun p hp => ?_
      · rw [killWg_thr hg alive']
        exact stands.killedThreads (apart _ (mem_of_nget hg))
      · rw [killWg_wgs hg alive', nmod, show nget s.wgs w = some g from hg] at hp
        rcases mem_nset hp with rfl | old
        · exact apart (w, g) (mem_of_nget hg)
        · exact apart p old

section
variable {s : State} {a : Nat}

/-- The workgroups that a retired CU kills. -/
def workgroupsOn (s : State) (a : Nat) : List Nat := (s.wgs.filter fun p => p.2.cu = a && !p.2.evicted).map (·.1)
/-- The tadpoles that end with it. -/
def tadpolesOn (s : State) (a : Nat) : List Nat := (s.thr.filter fun p => !p.2.isGroup && p.2.cu = a).map (·.1)

/-- A retired CU without its tree objects' part: the workgroups killed and the tadpoles ended. -/
def emptied (s : State) (a : Nat) : State :=
  (tadpolesOn ((workgroupsOn s a).foldl killWg s) a).foldl endTadpole ((workgroupsOn s a).foldl killWg s)

theorem retireCu_thr (s : State) (a : Nat) : (retireCu s a).thr = (emptied s a).thr := rfl
theorem retireCu_wgs (s : State) (a : Nat) : (retireCu s a).wgs = (emptied s a).wgs := rfl

theorem retireCu_ret (s : State) (a : Nat) : ((retireCu s a).cu a).ret = true := by
  unfold retireCu
  simp only [State.cu_modCu, if_true]

theorem retireCu_spares {tid : Nat} {t : Thread} (stands : StandsAs s.thr tid t) (elsewhere : t.cu ≠ a)
    (apart : ∀ p ∈ s.wgs, tid ∉ p.2.groups) : StandsAs (retireCu s a).thr tid t := by
  have left := foldl_killWg_spares (workgroupsOn s a) stands apart
  rw [retireCu_thr]
  refine List.foldlRecOn (motive := fun u : State => StandsAs u.thr tid t) _ _ left fun _ ih j hj => ih.endTadpole ?_
  rintro rfl
  obtain ⟨p, hp, here⟩ := List.mem_map.1 hj
  obtain ⟨member, on⟩ := List.mem_filter.1 hp
  have same : p.2.cu = t.cu := show p.2.core.cu = t.core.cu by rw [left.2 p member here]
  exact elsewhere (same ▸ of_decide_eq_true (Bool.and_eq_true_iff.1 on).2)

theorem retireCu_kills {w : Nat} {g : Wg} (hg : s.wg w = some g) (on : g.cu = a) (here : g.evicted = false) :
    ∃ g', (retireCu s a).wg w = some g' ∧ g'.killed = true := by
  have member : w ∈ workgroupsOn s a :=
    List.mem_map.2 ⟨(w, g), List.mem_filter.2 ⟨mem_of_nget hg, by simp [on, here]⟩, rfl⟩
  rw [State.wg, retireCu_wgs, emptied, foldl_endTadpole_wgs]
  exact foldl_killWg_kills _ hg (.inl member)

end

theorem resumeRequestAndCuRetirement : Claims.ResumeRequestAndCuRetirement := by
  intro f s tid t tadpole live a own k gives
  have key : resumeKey f s tid t = k := rfl
  refine ⟨fun h quiet reach => ?_, fun h quiet other out => ?_, fun h other => ?_, fun h zero => ?_⟩
  · rw [exec_resumej_quiet h live quiet, key, if_pos reach]
  · rw [exec_resumej_quiet h live quiet, key, if_neg (not_or.2 ⟨other, out⟩)]
  · rw [exec_curet]; exact ctx0Form_privileged h other _
  · have runs := exec_curet f s
    rw [execCuret, ctx0Form_runs h zero live] at runs
    dsimp only at runs
    rw [show sysA s tid t f = a from rfl] at runs
    refine ⟨fun big => ?_, fun low off => ?_, fun low on own' => ?_, fun low on other keys apart => ?_⟩
    · rw [if_pos big] at runs
      exact retiresWith_uni h runs
    · rw [if_neg (not_le.2 low), if_pos (by rw [off]; rfl)] at runs
      exact retiresWith_uni h runs
    · rw [if_neg (not_le.2 low), if_neg (by rw [on]; decide), if_pos own'] at runs
      exact retiresWith_uni h runs
    · rw [if_neg (not_le.2 low), if_neg (by rw [on]; decide), if_neg other] at runs
      have stands := retireCu_spares (.of_nodup h.thread keys) (Ne.symm other) apart
      obtain ⟨t0, ht0, same⟩ := stands.thread
      have left := retire_left ht0 same 0x306 f f.d.toNat (BitVec.ofNat 64 0)
      obtain ⟨t', ht', pc, sreg⟩ := left.thread
      refine ⟨_, t', runs, ht', pc, ?_, fun w g hg hcu here => ?_, sreg⟩
      · rw [left.cu]; exact retireCu_ret s a
      · obtain ⟨g', hg', killed⟩ := retireCu_kills hg hcu here
        obtain ⟨r, hr⟩ := left.wgs w
        exact ⟨{ g' with w := r g' }, by rw [hr, hg']; rfl, killed⟩

/-- Settles O53: the save and the return of a context, the request for a resume, and the retirement of a CU. -/
theorem contextForms : Obligations.ContextForms := ⟨contextsAreSavedAndRestored, resumeRequestAndCuRetirement⟩

end Sys2Proof.Machine
end

section
/-! For O17 and O18: BRST.STATE over a partition's contexts, and halt waves (R367, R368, R426, R427). -/

namespace Sys2Proof.Machine

/-! ### BRST.STATE -/

/-- The state bits of a word that has been given them. -/
theorem bits_1_0_set (b m : Word64) : bits ((b &&& ~~~3) ||| m) 1 0 = bits m 1 0 := by
  refine congrArg BitVec.toNat (BitVec.eq_of_getLsbD_eq fun i hi => ?_)
  have low : i = 0 ∨ i = 1 := by omega
  rcases low with rfl | rfl <;> simp

theorem Ctx.state_setState (k : Ctx) {n : Nat} (hn : n < 4) : (k.setState n).state = n := by
  refine (bits_1_0_set k.brst (BitVec.ofNat 64 n)).trans ?_
  interval_cases n <;> rfl

/-- Bits of BRST above its state leave the state as it is. -/
theorem bits_1_0_or_8 (b : Word64) : bits (b ||| 8) 1 0 = bits b 1 0 := by
  refine congrArg BitVec.toNat (BitVec.eq_of_getLsbD_eq fun i hi => ?_)
  have low : i = 0 ∨ i = 1 := by omega
  rcases low with rfl | rfl <;> simp

theorem bits_1_0_and_not_8 (b : Word64) : bits (b &&& ~~~8) 1 0 = bits b 1 0 := by
  refine congrArg BitVec.toNat (BitVec.eq_of_getLsbD_eq fun i hi => ?_)
  have low : i = 0 ∨ i = 1 := by omega
  rcases low with rfl | rfl <;> simp

/-! ### One change of each context of a list -/

/-- Every context of a list is changed in the same way. -/
def modCtxs (s : State) (l : List Nat) (g : Ctx → Ctx) : State := l.foldl (fun s c => s.modCtx c g) s

section
variable (s : State) (l : List Nat) (g : Ctx → Ctx)

theorem modCtxs_rest : modCtxs s l g = { s with ctxs := (modCtxs s l g).ctxs } :=
  List.foldlRecOn (motive := fun u : State => u = { s with ctxs := u.ctxs }) _ _ rfl fun u ih c _ => by
    rw [ih]
    rfl

theorem modCtxs_thr : (modCtxs s l g).thr = s.thr := by rw [modCtxs_rest]
theorem modCtxs_mem : (modCtxs s l g).mem = s.mem := by rw [modCtxs_rest]
theorem modCtxs_env : (modCtxs s l g).env = s.env := by rw [modCtxs_rest]
theorem modCtxs_cus : (modCtxs s l g).cus = s.cus := by rw [modCtxs_rest]
theorem modCtxs_parts : (modCtxs s l g).parts = s.parts := by rw [modCtxs_rest]

variable {l g}

/-- What the change gives, each context of the list has. -/
theorem modCtxs_gives {P : Ctx → Prop} (gives : ∀ k, P (g k)) {d : Nat} (hd : d ∈ l) : P ((modCtxs s l g).ctx d) := by
  suffices all : ∀ (l : List Nat) (s : State), d ∈ l ∨ P (s.ctx d) → P ((modCtxs s l g).ctx d) from all l s (.inl hd)
  intro l
  induction l with
  | nil => exact fun s h => h.resolve_left List.not_mem_nil
  | cons c r ih =>
    refine fun s h => ih (s.modCtx c g) ?_
    rw [State.ctx_modCtx]
    split_ifs with here
    · exact .inr (gives _)
    · exact h.imp_left fun member => (List.mem_cons.1 member).resolve_left here

/-- What the change keeps, every context keeps. -/
theorem modCtxs_keeps {β : Type} {f : Ctx → β} (keeps : ∀ k, f (g k) = f k) (d : Nat) : f ((modCtxs s l g).ctx d) = f (s.ctx d) :=
  List.foldlRecOn (motive := fun u : State => f (u.ctx d) = f (s.ctx d)) _ _ rfl fun u ih c _ => by
    rw [State.ctx_modCtx]
    split_ifs with here
    · rw [keeps, ← ih, here]
    · exact ih

/-- A change that is done once is what each context of the list has had. -/
theorem modCtxs_once (once : ∀ k, g (g k) = g k) {d : Nat} (hd : d ∈ l) : (modCtxs s l g).ctx d = g (s.ctx d) := by
  suffices all : ∀ (l : List Nat) (s : State), d ∈ l ∨ g (s.ctx d) = s.ctx d → (modCtxs s l g).ctx d = g (s.ctx d) from all l s (.inl hd)
  intro l
  induction l with
  | nil => exact fun s h => (h.resolve_left List.not_mem_nil).symm
  | cons c r ih =>
    intro s h
    have same : g ((s.modCtx c g).ctx d) = g (s.ctx d) := by
      rw [State.ctx_modCtx]
      split_ifs with here
      · rw [once, here]
      · rfl
    refine (ih (s.modCtx c g) ?_).trans same
    rw [same, State.ctx_modCtx]
    split_ifs with here
    · exact .inr (here ▸ rfl)
    · exact h.imp (fun member => (List.mem_cons.1 member).resolve_left here) id

end

/-! ### A halt wave -/

section
variable (s : State) (x : Trigger)

theorem noteTrigger_part (c key : Nat) : ((noteTrigger s c x).part key).waves = (s.part key).waves ∧
    ((noteTrigger s c x).part key).haltAt = (s.part key).haltAt := by
  have part : (noteTrigger s c x).part key =
      (s.modPart (s.ctx c).key fun p => { p with first := some (match (s.part (s.ctx c).key).first with
        | some y => if trigBefore x y then x else y
        | none => x) }).part key := rfl
  rw [part, State.part_modPart]
  split_ifs with here
  · rw [here]; exact ⟨rfl, rfl⟩
  · exact ⟨rfl, rfl⟩

/-- What noting a trigger makes of its context. -/
theorem noteTrigger_ctx (c d : Nat) : ((noteTrigger s c x).ctx d).brst = (if d = c then (s.ctx c).beginHalt x else s.ctx d).brst ∧
    ((noteTrigger s c x).ctx d).key = (s.ctx d).key := by
  simp only [noteTrigger, State.ctx_modCtx, State.ctx_modPart]
  by_cases here : d = c
  · subst here
    simp only [if_true]
    have begun : ((s.ctx d).beginHalt x).key = (s.ctx d).key := by unfold Ctx.beginHalt; split_ifs <;> rfl
    have shown : ∀ (k : Ctx) (y : Trigger), (if k.settled then k else k.show y).brst = k.brst ∧
        (if k.settled then k else k.show y).key = k.key := fun k y => by split_ifs <;> exact ⟨rfl, rfl⟩
    exact ⟨(shown _ _).1, (shown _ _).2.trans begun⟩
  · simp only [if_neg here, and_self]

theorem noteTrigger_halting (c : Nat) {d : Nat} (halts : d = c ∨ s.halting d = true) : (noteTrigger s c x).halting d = true := by
  rw [State.halting, (noteTrigger_ctx s x c d).1, decide_eq_true_eq]
  split_ifs with here
  · exact Ctx.halts_beginHalt _ x
  · exact of_decide_eq_true (halts.resolve_left here)

/-- What the contexts of a list noting a trigger leave of the machine. -/
structure Noted (s u : State) : Prop where
  thr : u.thr = s.thr
  mem : u.mem = s.mem
  waves : ∀ key, (u.part key).waves = (s.part key).waves
  haltAt : ∀ key, (u.part key).haltAt = (s.part key).haltAt
  keys : ∀ c, (u.ctx c).key = (s.ctx c).key

theorem noted_foldl (l : List Nat) : Noted s (l.foldl (fun s c => noteTrigger s c x) s) :=
  List.foldlRecOn (motive := Noted s) _ _ ⟨rfl, rfl, fun _ => rfl, fun _ => rfl, fun _ => rfl⟩ fun u ih c _ =>
    ⟨ih.thr, ih.mem, fun key => (noteTrigger_part u x c key).1.trans (ih.waves key),
      fun key => (noteTrigger_part u x c key).2.trans (ih.haltAt key), fun d => (noteTrigger_ctx u x c d).2.trans (ih.keys d)⟩

theorem foldl_noteTrigger_halting (l : List Nat) {d : Nat} (hd : d ∈ l) :
    (l.foldl (fun s c => noteTrigger s c x) s).halting d = true := by
  suffices all : ∀ (l : List Nat) (s : State), d ∈ l ∨ s.halting d = true →
      (l.foldl (fun s c => noteTrigger s c x) s).halting d = true from all l s (.inl hd)
  intro l
  induction l with
  | nil => exact fun s h => h.resolve_left List.not_mem_nil
  | cons c r ih =>
    intro s h
    refine ih _ ?_
    rcases h with member | halts
    · exact (List.mem_cons.1 member).symm.imp_right fun here => noteTrigger_halting s x c (.inl here)
    · exact .inr (noteTrigger_halting s x c (.inr halts))

end

end Sys2Proof.Machine
end

section
/-! Settles O17 and O18: the halt of a partition and its resume (R367, R368, R426 to R428, R433 to R435). -/

namespace Sys2Proof.Machine

/-! ### The halt wave -/

/-- A partition whose halt wave has come. -/
def waveMarked (s : State) (key : Nat) (x : Trigger) : State :=
  s.modPart key fun p =>
    { p with waves := p.waves.filter (· ≠ x), haltAt := match p.haltAt with | some c => some c | none => some s.env.clk }

/-- The contexts of the partition with the trigger noted. -/
def waveNoted (s : State) (key : Nat) (x : Trigger) : State :=
  (jobCtxs s key).foldl (fun s c => noteTrigger s c x) (waveMarked s key x)

/-- The groups of the partition are stopped. -/
def stoppedIn (s : State) (key : Nat) (t : Thread) : Thread :=
  if t.isGroup && t.place ≠ .exited && inPart s key t then stopGroup t else t

theorem exec_haltWave_own {s : State} {key : Nat} {x : Trigger} (own : x ∈ (s.part key).waves) : exec (.haltWave key x) s =
    .next { waveNoted s key x with thr := nmap (waveNoted s key x).thr fun _ t => stoppedIn (waveNoted s key x) key t } := by
  have has : (s.part key).waves.contains x = true := by simpa using own
  rw [exec_haltWave, execHaltWave]
  dsimp only
  rw [has]
  rfl

theorem stoppedIn_noted {s u : State} (keys : ∀ c, (u.ctx c).key = (s.ctx c).key) (key : Nat) (t : Thread) :
    stoppedIn u key t = stoppedIn s key t := by
  have part : inPart u key t = inPart s key t := by unfold inPart; rw [keys]
  rw [stoppedIn, part, stoppedIn]

/-- A group that is stopped keeps its disposition where it had one, and all that it computes with. -/
theorem stopGroup_fz (t : Thread) : ∃ z, (stopGroup t).fz = some z ∧ z.byBrum = true ∧
    (∀ y, t.fz = some y → z.hold = y.hold ∧ z.fr = y.fr) ∧ (t.fz = none → z.hold = false) := by
  unfold stopGroup
  cases t.fz with
  | none => exact ⟨_, rfl, rfl, by simp, fun _ => rfl⟩
  | some y => exact ⟨_, rfl, rfl, by simp, by simp⟩

/-! ### The settled trigger -/

/-- A context shows the settled trigger. -/
def Ctx.settle (x : Trigger) (k : Ctx) : Ctx := if k.settled then k else { k.show x with settled := true }

theorem Ctx.settle_settled (x : Trigger) (k : Ctx) : (k.settle x).settled = true := by
  unfold Ctx.settle
  split_ifs with settled
  · exact settled
  · rfl

theorem Ctx.settle_once (x : Trigger) (k : Ctx) : (k.settle x).settle x = k.settle x := by
  rw [Ctx.settle, if_pos (k.settle_settled x)]

theorem exec_firstTriggerSettled_first {s : State} {key h : Nat} {x : Trigger} (halt : (s.part key).haltAt = some h)
    (first : (s.part key).first = some x) (due : h + nsToClk 4000 ≤ s.env.clk) :
    exec (.firstTriggerSettled key x) s = .next (modCtxs s (haltingCtxs s key) (Ctx.settle x)) := by
  rw [exec_firstTriggerSettled, execFirstTriggerSettled, halt, first]
  dsimp only
  rw [if_neg (by simp [due])]
  rfl

/-! ### The drained partition's agent -/

/-- The halted partition: its contexts' state, and its request. -/
def haltedPart (s : State) (key : Nat) : State :=
  (modCtxs s (haltingCtxs s key) (·.setState 2)).modPart key fun p => { p with asked := p.asked.map fun _ => s.env.clk, lost := false }

theorem exec_brumationDrained_ready {s : State} {key m : Nat} (hkey : (s.ctx m).key = key) (halting : (s.ctx m).state = 1)
    (halt : (s.part key).haltAt.isSome = true)
    (ready : ∀ d ∈ haltingCtxs s key, (s.ctx d).settled = true ∧ ((s.ctx d).state = 2 ∨ drained s d = true)) :
    exec (.brumationDrained m) s = .next ((haltingCtxs s key).foldl (fun s c => spawnAgent s c 0) (haltedPart s key)) := by
  have all : ((haltingCtxs s key).all fun c => (s.ctx c).settled && ((s.ctx c).state = 2 || drained s c)) = true := by
    simpa only [List.all_eq_true, Bool.and_eq_true, Bool.or_eq_true, decide_eq_true_eq] using ready
  have none' : (s.part key).haltAt.isNone = false := by simpa using halt
  have env : (modCtxs s (haltingCtxs s key) (·.setState 2)).env = s.env := modCtxs_env ..
  rw [exec_brumationDrained, execBrumationDrained]
  dsimp only
  rw [hkey, all, none', halting]
  simp only [ne_eq, not_true_eq_false, decide_false, Bool.not_true, Bool.or_self, Bool.false_eq_true, if_false, haltedPart, ← env]
  rfl

/-- Nothing but the CUs changes as agents are spawned. -/
theorem spawnAgent_rest (s : State) (c n : Nat) : spawnAgent s c n = { s with cus := (spawnAgent s c n).cus } := by
  unfold spawnAgent
  dsimp only
  split_ifs
  · rfl
  · split <;> rfl

theorem foldl_spawnAgent_rest (l : List Nat) (n : Nat) (s : State) :
    l.foldl (fun s c => spawnAgent s c n) s = { s with cus := (l.foldl (fun s c => spawnAgent s c n) s).cus } :=
  List.foldlRecOn (motive := fun u : State => u = { s with cus := u.cus }) _ _ rfl fun u ih c _ => by
    rw [spawnAgent_rest u c n, ih]

/-- A context that can have no agent: no system code, or no CU. -/
def State.agentless (s : State) (c : Nat) : Prop :=
  (s.ctx c).sysent = 0 ∨ (s.ctx c).cuh.find? (fun n => decide ((s.cu n).ctx = some c)) = none

theorem spawnAgent_agentless {s : State} {c : Nat} (none' : s.agentless c) (n : Nat) : spawnAgent s c n = s := by
  unfold spawnAgent
  dsimp only
  split_ifs with barred
  · rfl
  · rcases none' with code | cu
    · exact (barred (by rw [code]; rfl)).elim
    · rw [cu]

/-- An agent once queued keeps others of its partition away. -/
theorem spawnAgent_again {s : State} {c n key : Nat} (hkey : (s.ctx c).key = key) (there : agentThere s key = true) :
    spawnAgent s c n = s := by
  unfold spawnAgent
  dsimp only
  rw [if_pos (by rw [hkey, there, Bool.or_true])]

/-- The agent that a context with system code and a CU gets. -/
theorem spawnAgent_queues {s : State} {c n cu : Nat} (code : (s.ctx c).sysent ≠ 0) (none' : agentThere s (s.ctx c).key = false)
    (hcu : (s.ctx c).cuh.find? (fun n => decide ((s.cu n).ctx = some c)) = some cu) :
    ∃ q ∈ ((spawnAgent s c n).cu cu).spawnq, q.agent = true ∧ q.ctx = c ∧ q.sys = true ∧ q.fr.cause = BitVec.ofNat 64 cHALT := by
  have free : (decide ((s.ctx c).sysent = 0) || agentThere s (s.ctx c).key) = false := by rw [decide_eq_false code, none']; rfl
  unfold spawnAgent
  dsimp only
  rw [if_neg (by rw [free]; decide), hcu]
  dsimp only
  rw [State.cu_modCu, if_pos rfl]
  exact ⟨_, mem_insertSpawn _ _, rfl, rfl, rfl, rfl⟩

theorem agentThere_of_queued {s : State} {cu key : Nat} {q : Spawn} (hq : q ∈ (s.cu cu).spawnq) (agent : q.agent = true)
    (hkey : (s.ctx q.ctx).key = key) : agentThere s key = true := by
  unfold agentThere
  refine Bool.or_eq_true_iff.2 (.inr (List.any_eq_true.2 ?_))
  cases there : nget s.cus cu with
  | none => rw [State.cu, ngetD, there] at hq; exact (List.not_mem_nil hq).elim
  | some u =>
    rw [State.cu, ngetD, there] at hq
    exact ⟨(cu, u), mem_of_nget there, List.any_eq_true.2 ⟨q, hq, by rw [agent, hkey]; simp⟩⟩

/-- Of a list of contexts of a partition without an agent, the first that can have one gets it. -/
theorem foldl_spawnAgent_queues {key n c cu : Nat} (l : List Nat) {s : State} (keys : ∀ d ∈ l, (s.ctx d).key = key)
    (none' : agentThere s key = false)
    (first : l.find? (fun d => decide ((s.ctx d).sysent ≠ 0) && (s.ctx d).cuh.any fun n => decide ((s.cu n).ctx = some d)) = some c)
    (hcu : (s.ctx c).cuh.find? (fun n => decide ((s.cu n).ctx = some c)) = some cu) :
    ∃ q ∈ ((l.foldl (fun s c => spawnAgent s c n) s).cu cu).spawnq,
      q.agent = true ∧ q.ctx = c ∧ q.sys = true ∧ q.fr.cause = BitVec.ofNat 64 cHALT := by
  induction l with
  | nil => cases first
  | cons d r ih =>
    rw [List.foldl_cons]
    cases can : decide ((s.ctx d).sysent ≠ 0) && (s.ctx d).cuh.any fun n => decide ((s.cu n).ctx = some d) with
    | false =>
      rw [List.find?_cons, can] at first
      have agentless : s.agentless d := by
        rcases Bool.and_eq_false_iff.1 can with code | cus
        · exact .inl (by simpa using code)
        · exact .inr (List.find?_eq_none.2 fun x hx on => by
            have := List.any_eq_false.1 cus x hx
            exact this on)
      rw [spawnAgent_agentless agentless]
      exact ih (fun e he => keys e (List.mem_cons_of_mem d he)) first
    | true =>
      rw [List.find?_cons, can] at first
      obtain rfl : d = c := Option.some.inj first
      have hkey := keys d List.mem_cons_self
      obtain ⟨q, hq, agent, ctx, sys, cause⟩ := spawnAgent_queues (n := n)
        (of_decide_eq_true (Bool.and_eq_true_iff.1 can).1) (hkey.symm ▸ none') hcu
      have rest := spawnAgent_rest s d n
      have keys' : ∀ e ∈ r, ((spawnAgent s d n).ctx e).key = key := fun e he => by
        rw [rest]; exact keys e (List.mem_cons_of_mem d he)
      have there : agentThere (spawnAgent s d n) key = true :=
        agentThere_of_queued hq agent (by rw [ctx, rest]; exact hkey)
      have same : r.foldl (fun s c => spawnAgent s c n) (spawnAgent s d n) = spawnAgent s d n :=
        List.foldlRecOn (motive := fun u : State => u = spawnAgent s d n) _ _ rfl fun u ih e he => by
          rw [ih]
          exact spawnAgent_again (keys' e he) there
      exact ⟨q, by rw [same]; exact hq, agent, ctx, sys, cause⟩

theorem mem_haltingCtxs {s : State} {key d : Nat} (hd : d ∈ haltingCtxs s key) : (s.ctx d).key = key :=
  of_decide_eq_true (Bool.and_eq_true_iff.1 (List.mem_filter.1 hd).2).1

/-- Settles O17: the halt wave, the settled trigger, and the drained partition's agent. -/
theorem partitionHalts : Obligations.PartitionHalts := by
  intro s key x
  refine ⟨fun own => ⟨_, exec_haltWave_own own, ?_, ?_, fun c hc => ?_, fun tid t ht group here part => ?_, fun tid t ht out => ?_, ?_⟩,
    fun h halt first due => ⟨_, exec_firstTriggerSettled_first halt first due, ?_, fun c hc => ⟨?_, fun new => ?_⟩⟩,
    fun m c cu hkey halting halt none' ready first hcu => ?_⟩
  · have waves : (waveMarked s key x).part key = _ := (State.part_modPart ..).trans (if_pos rfl)
    refine fun member => ?_
    change x ∈ ((waveNoted s key x).part key).waves at member
    rw [show ((waveNoted s key x).part key).waves = _ from (noted_foldl (waveMarked s key x) x _).waves key, waves] at member
    exact absurd rfl (of_decide_eq_true (List.mem_filter.1 member).2)
  · have marked : (waveMarked s key x).part key = _ := (State.part_modPart ..).trans (if_pos rfl)
    change ((waveNoted s key x).part key).haltAt.isSome = true
    rw [show ((waveNoted s key x).part key).haltAt = _ from (noted_foldl (waveMarked s key x) x _).haltAt key, marked]
    dsimp only
    split <;> rfl
  · exact foldl_noteTrigger_halting (waveMarked s key x) x _ hc
  all_goals have noted : Noted (waveMarked s key x) (waveNoted s key x) := noted_foldl (waveMarked s key x) x _
  · have stopped : stoppedIn (waveNoted s key x) key t = stopGroup t := by
      rw [stoppedIn_noted (s := s) noted.keys, stoppedIn, if_pos (by simp [group, here, part])]
    obtain ⟨z, hz, brum, kept, run⟩ := stopGroup_fz t
    refine ⟨stopGroup t, z, ?_, hz, brum, kept, run, rfl, rfl, rfl, rfl⟩
    refine (nget_nmap (waveNoted s key x).thr (fun _ t => stoppedIn (waveNoted s key x) key t) tid).trans ?_
    rw [noted.thr, show nget (waveMarked s key x).thr tid = some t from ht, Option.map_some, stopped]
  · have spared : stoppedIn (waveNoted s key x) key t = t := by
      rw [stoppedIn_noted (s := s) noted.keys, stoppedIn, if_neg (by rcases out with group | part <;> simp [*])]
    refine (nget_nmap (waveNoted s key x).thr (fun _ t => stoppedIn (waveNoted s key x) key t) tid).trans ?_
    rw [noted.thr, show nget (waveMarked s key x).thr tid = some t from ht, Option.map_some, spared]
  · exact noted.mem
  · exact modCtxs_thr ..
  · exact modCtxs_gives s (P := fun k => k.settled = true) (Ctx.settle_settled x) hc
  · rw [modCtxs_once s (Ctx.settle_once x) hc, Ctx.settle, if_neg (by rw [new]; decide)]
    exact ⟨rfl, rfl, rfl⟩
  · have thr : (haltedPart s key).thr = s.thr := modCtxs_thr ..
    have cus : (haltedPart s key).cus = s.cus := modCtxs_cus ..
    have ctx : ∀ d, (haltedPart s key).ctx d = (modCtxs s (haltingCtxs s key) (·.setState 2)).ctx d := fun _ => rfl
    have keeps : ∀ {β : Type} (f : Ctx → β), (∀ k : Ctx, f (k.setState 2) = f k) → ∀ d, f ((haltedPart s key).ctx d) = f (s.ctx d) :=
      fun f hf d => by rw [ctx]; exact modCtxs_keeps s hf d
    have cuOf : ∀ d, (haltedPart s key).cu d = s.cu d := fun d => by rw [State.cu, cus]; rfl
    have keyOf := keeps Ctx.key fun _ => rfl
    have same : agentThere (haltedPart s key) key = agentThere s key := by
      unfold agentThere
      simp only [keyOf]
      rw [thr, cus]
    obtain ⟨q, hq, agent, qctx, sys, cause⟩ := foldl_spawnAgent_queues (n := 0) (haltingCtxs s key) (s := haltedPart s key)
      (fun d hd => (keyOf d).trans (mem_haltingCtxs hd)) (same.trans none')
      (by simpa only [keeps Ctx.sysent fun _ => rfl, keeps Ctx.cuh fun _ => rfl, cuOf] using first)
      (by simpa only [keeps Ctx.cuh fun _ => rfl, cuOf] using hcu)
    have spawned := foldl_spawnAgent_rest (haltingCtxs s key) 0 (haltedPart s key)
    refine ⟨_, q, exec_brumationDrained_ready hkey halting halt ready, fun d hd => ?_, ?_, ?_, hq, agent, qctx, sys, cause⟩
    · rw [spawned]
      exact modCtxs_gives s (P := fun k => k.state = 2) (fun k => k.state_setState (by decide)) hd
    · rw [spawned]; exact thr
    · rw [spawned]; exact modCtxs_mem ..

end Sys2Proof.Machine
end

section
/-! Settles O18: the resume of a partition at T, and its failure (R433 to R435). -/

namespace Sys2Proof.Machine

/-! ### The resume time is fixed -/

/-- A context of a partition whose resume time is fixed. -/
def Ctx.resuming (k : Ctx) : Ctx := { (k.setState 3) with brst := (k.setState 3).brst &&& ~~~8 }

theorem Ctx.resuming_state (k : Ctx) : k.resuming.state = 3 :=
  (bits_1_0_and_not_8 _).trans (k.state_setState (by decide))

theorem exec_resumeAtT_fixes {s : State} {key : Nat} (unfixed : (s.part key).resumeT = none) (asked : (s.part key).asked.isSome = true)
    (may : mayAck s key = true) : exec (.resumeAtT key) s =
      .next (modCtxs (s.modPart key fun p => { p with resumeT := some (s.ns + 4000) }) (haltingCtxs s key) Ctx.resuming) := by
  have go : (s.part key).asked.isNone = false := by simpa using asked
  rw [exec_resumeAtT, execResumeAtT]
  dsimp only
  rw [unfixed]
  dsimp only
  rw [if_neg (by rw [go, may]; decide)]
  rfl

/-! ### T is reached -/

/-- What the groups going on leave: the contexts, the partitions and the bytes of memory. -/
structure Resuming (s u : State) : Prop where
  ctxs : u.ctxs = s.ctxs
  parts : u.parts = s.parts
  mem : u.mem = s.mem

theorem Resuming.trans {s u v : State} (h : Resuming s u) (k : Resuming u v) : Resuming s v :=
  ⟨k.ctxs.trans h.ctxs, k.parts.trans h.parts, k.mem.trans h.mem⟩

theorem resuming_goOn (s : State) (tid : Nat) : Resuming s (goOn s tid) := by
  unfold goOn
  split
  · exact ⟨rfl, rfl, rfl⟩
  · split_ifs <;> exact ⟨rfl, rfl, rfl⟩

/-- A group leaves the frozen state at its own PC. -/
theorem unfreeze_leaves (t : Thread) (now : Nat) : (unfreeze t now).fz = none ∧ (unfreeze t now).pc = t.pc ∧
    (unfreeze t now).exm = t.exm ∧ (unfreeze t now).gen = (t.gen + 1) % 65536 := by
  unfold unfreeze
  dsimp only
  split_ifs <;> exact ⟨rfl, rfl, rfl, rfl⟩

theorem Thread.aliveLanes_unfreeze (t : Thread) (now : Nat) : (unfreeze t now).aliveLanes = t.aliveLanes := by
  unfold unfreeze
  dsimp only
  split_ifs <;> rfl

theorem resumeAfter_running {s : State} {j : Nat} {t : Thread} (ht : s.thread j = some t) (runs : t.fz = none) : resumeAfter s j = s := by
  simp only [resumeAfter, ht, runs]

theorem resumeAfter_frozen {s : State} {j : Nat} {t : Thread} {z : Freeze} (ht : s.thread j = some t) (hz : t.fz = some z)
    (alive : t.aliveLanes ≠ 0) : resumeAfter s j = if z.hold then s else runOn s j t := by
  have goes : endIfResumed (runOn s j t) j = runOn s j t :=
    endIfResumed_of_alive ((runOn_thread s j t j).trans (if_pos rfl)) (by rwa [Thread.aliveLanes_unfreeze])
  simp only [resumeAfter, ht, hz, goes]

/-- The thread of a group that goes on with a live lane, or that stays held, and no other thread. -/
theorem resumeAfter_alive {s : State} {j : Nat} {t : Thread} (ht : s.thread j = some t) (alive : t.aliveLanes ≠ 0) :
    Resuming s (resumeAfter s j) ∧ (∀ i, i ≠ j → (resumeAfter s j).thread i = s.thread i) ∧ (resumeAfter s j).cyc = s.cyc ∧
      ∀ z, t.fz = some z → (resumeAfter s j).thread j = some (if z.hold then t else unfreeze t s.cyc) := by
  have stays : Resuming s s := ⟨rfl, rfl, rfl⟩
  cases hz : t.fz with
  | none =>
    rw [resumeAfter_running ht hz]
    exact ⟨stays, fun _ _ => rfl, rfl, fun _ h => nomatch h⟩
  | some z =>
    rw [resumeAfter_frozen ht hz alive]
    split_ifs with hold
    · refine ⟨stays, fun _ _ => rfl, rfl, fun y hy => ?_⟩
      cases hy
      rw [if_pos hold, ht]
    · refine ⟨?_, fun i hi => (runOn_thread s j t i).trans (if_neg hi), (runOn_enginesGoOn s j t).cyc, fun y hy => ?_⟩
      · exact Resuming.trans (u := s.setThread j (unfreeze t s.cyc)) ⟨rfl, rfl, rfl⟩ (resuming_goOn ..)
      · cases hy
        rw [if_neg hold, runOn_thread, if_pos rfl]

/-- The groups of a list, each with a live lane, go on one after the other. -/
theorem foldl_resumeAfter (l : List Nat) {s : State} (distinct : l.Nodup)
    (alive : ∀ j ∈ l, ∃ t, s.thread j = some t ∧ t.aliveLanes ≠ 0) :
    Resuming s (l.foldl resumeAfter s) ∧ (∀ i, i ∉ l → (l.foldl resumeAfter s).thread i = s.thread i) ∧
      ∀ j ∈ l, ∀ t z, s.thread j = some t → t.fz = some z →
        (l.foldl resumeAfter s).thread j = some (if z.hold then t else unfreeze t s.cyc) := by
  induction l generalizing s with
  | nil => exact ⟨⟨rfl, rfl, rfl⟩, fun _ _ => rfl, fun j hj => (List.not_mem_nil hj).elim⟩
  | cons i r ih =>
    obtain ⟨apart, distinct'⟩ := List.nodup_cons.1 distinct
    obtain ⟨ti, hti, alivei⟩ := alive i List.mem_cons_self
    obtain ⟨rest, others, cyc, own⟩ := resumeAfter_alive hti alivei
    obtain ⟨rest', others', each⟩ := ih (s := resumeAfter s i) distinct' fun j hj => by
      have other : j ≠ i := fun here => apart (here ▸ hj)
      rw [others j other]
      exact alive j (List.mem_cons_of_mem i hj)
    refine ⟨rest.trans rest', fun j hj => ?_, fun j hj t z ht hz => ?_⟩
    · obtain ⟨other, out⟩ := not_or.1 (mt List.mem_cons.2 hj)
      exact (others' j out).trans (others j other)
    · rcases List.mem_cons.1 hj with rfl | later
      · obtain rfl : ti = t := Option.some.inj (hti.symm.trans ht)
        exact (others' j apart).trans (own z hz)
      · have other : j ≠ i := fun here => apart (here ▸ later)
        rw [← cyc]
        exact each j later t z ((others j other).trans ht) hz

theorem exists_nget_of_mem {α : Type} {m : NMap α} {p : Nat × α} (hp : p ∈ m) : ∃ v, nget m p.1 = some v := by
  induction m with
  | nil => exact (List.not_mem_nil hp).elim
  | cons q r ih =>
    rw [nget]
    split_ifs with here
    · exact ⟨_, rfl⟩
    · exact ih ((List.mem_cons.1 hp).resolve_left fun same => here (same ▸ rfl))

/-- The watchdogs of a partition's tadpoles restart. -/
def rewatched (s : State) (key : Nat) (t : Thread) : Thread := if !t.isGroup && inPart s key t then { t with wdSince := s.cyc } else t

/-- A partition at T, before its groups go on. -/
def atT (s : State) (key : Nat) : State :=
  let s1 := (modCtxs s (haltingCtxs s key) (·.setState 0)).modPart key fun p =>
    { p with waves := [], first := none, haltAt := none, asked := none, lost := false, resumeT := none }
  let away := match (s.part key).haltAt with | some h => s.env.clk - h | none => 0
  let s2 := { s1 with thr := nmap s1.thr fun _ t => rewatched s1 key t }
  s2.modFab fun x => { x with reds := x.reds.map fun r => if r.key = key then { r with since := r.since + away } else r }

/-- The groups of a partition that have not exited. -/
def groupsOf (s : State) (key : Nat) : List Nat :=
  (s.thr.filter fun q => q.2.isGroup && inPart s key q.2 && q.2.place ≠ .exited).map (·.1)

theorem resumeNow_eq (s : State) (key : Nat) : resumeNow s key = (groupsOf (atT s key) key).foldl resumeAfter (atT s key) := by
  unfold resumeNow groupsOf atT modCtxs rewatched
  rfl

theorem atT_ctx (s : State) (key c : Nat) : (atT s key).ctx c = (modCtxs s (haltingCtxs s key) (·.setState 0)).ctx c := rfl

theorem atT_resumeT (s : State) (key : Nat) : ((atT s key).part key).resumeT = none := by
  have parts : (atT s key).parts = ((modCtxs s (haltingCtxs s key) (·.setState 0)).modPart key fun p =>
    { p with waves := [], first := none, haltAt := none, asked := none, lost := false, resumeT := none }).parts := rfl
  rw [State.part, parts]
  exact congrArg Part.resumeT ((State.part_modPart ..).trans (if_pos rfl))

theorem atT_keys (s : State) (key c : Nat) : ((atT s key).ctx c).key = (s.ctx c).key := by
  have keeps : ∀ k : Ctx, (k.setState 0).key = k.key := fun _ => rfl
  rw [atT_ctx]
  exact modCtxs_keeps s keeps c

theorem inPart_congr {s u : State} (keys : ∀ c, (u.ctx c).key = (s.ctx c).key) (key : Nat) (t : Thread) : inPart u key t = inPart s key t := by
  unfold inPart
  rw [keys]

theorem rewatched_group (s : State) (key : Nat) {t : Thread} (group : t.isGroup = true) : rewatched s key t = t := by
  rw [rewatched, group]
  rfl

theorem rewatched_same (s : State) (key : Nat) (t : Thread) :
    (rewatched s key t).isGroup = t.isGroup ∧ (rewatched s key t).ctx = t.ctx ∧ (rewatched s key t).place = t.place := by
  unfold rewatched
  split_ifs <;> exact ⟨rfl, rfl, rfl⟩

theorem atT_thr (s : State) (key : Nat) : ∃ u, (atT s key).thr = nmap s.thr fun _ t => rewatched u key t := by
  have before : (modCtxs s (haltingCtxs s key) (·.setState 0)).thr = s.thr := modCtxs_thr ..
  unfold atT
  exact ⟨_, by rw [← before]; rfl⟩

/-- The groups that go on are the partition's groups as they were before T. -/
theorem groupsOf_atT (s : State) (key : Nat) : groupsOf (atT s key) key = groupsOf s key := by
  obtain ⟨u, thr⟩ := atT_thr s key
  unfold groupsOf
  rw [thr, nmap, List.filter_map, List.map_map]
  refine congrArg₂ List.map rfl (List.filter_congr fun p _ => ?_)
  obtain ⟨group, ctx, place⟩ := rewatched_same u key p.2
  have part : inPart (atT s key) key (rewatched u key p.2) = inPart s key p.2 := by
    rw [inPart_congr (atT_keys s key), inPart, ctx]
    rfl
  simp only [Function.comp, part, group, place]

theorem mem_groupsOf {s : State} {key tid : Nat} {t : Thread} (keys : (nkeys s.thr).Nodup) (hj : tid ∈ groupsOf s key)
    (ht : s.thread tid = some t) : t.isGroup = true ∧ inPart s key t = true ∧ t.place ≠ .exited := by
  obtain ⟨p, hp, rfl⟩ := List.mem_map.1 hj
  obtain ⟨member, is⟩ := List.mem_filter.1 hp
  obtain rfl : p.2 = t := congrArg Prod.snd (List.inj_on_of_nodup_map keys member (mem_of_nget ht) rfl)
  simpa only [Bool.and_eq_true, decide_eq_true_eq, and_assoc] using is

theorem groupsOf_member {s : State} {key tid : Nat} {t : Thread} (ht : s.thread tid = some t) (group : t.isGroup = true)
    (part : inPart s key t = true) (here : t.place ≠ .exited) : tid ∈ groupsOf s key :=
  List.mem_map.2 ⟨(tid, t), List.mem_filter.2 ⟨mem_of_nget ht, by simp [group, part, here]⟩, rfl⟩

theorem groupsOf_nodup {s : State} {key : Nat} (keys : (nkeys s.thr).Nodup) : (groupsOf s key).Nodup :=
  keys.sublist (List.filter_sublist.map _)

/-! ### The failure of a resume -/

theorem exec_resumeFailure_kept {s : State} {key : Nat} (not : haltingCtxs s key = [] ∨ ∃ c ∈ haltingCtxs s key, (s.ctx c).state ≠ 2) :
    exec (.resumeFailure key) s = .next s := by
  have barred : ((haltingCtxs s key).isEmpty || !((haltingCtxs s key).all fun c => decide ((s.ctx c).state = 2))) = true := by
    rcases not with none' | ⟨c, hc, other⟩
    · rw [none']; rfl
    · have some' : ((haltingCtxs s key).all fun c => decide ((s.ctx c).state = 2)) = false :=
        List.all_eq_false.2 ⟨c, hc, by simpa using other⟩
      rw [some']
      exact Bool.or_true _
  rw [exec_resumeFailure, execResumeFailure]
  dsimp only
  cases (s.part key).asked with
  | none => rfl
  | some t =>
    dsimp only
    rw [if_pos (by rw [Bool.or_assoc, barred, Bool.or_true])]

/-- A context of a partition whose resume has failed. -/
def Ctx.failed (k : Ctx) : Ctx := { k with brst := k.brst ||| 8 }

/-- A partition whose resume has failed. -/
def resumeFailed (s : State) (key : Nat) : State :=
  modCtxs (s.modPart key fun p => { p with asked := none, lost := false }) (haltingCtxs s key) Ctx.failed

theorem exec_resumeFailure_fails {s : State} {key since : Nat} (asked : (s.part key).asked = some since)
    (unfixed : (s.part key).resumeT = none)
    (fails : (since + nsToClk 100000000 ≤ s.env.clk ∧ mayAck s key = false) ∨ (s.part key).lost = true)
    (some' : haltingCtxs s key ≠ []) (halted : ∀ c ∈ haltingCtxs s key, (s.ctx c).state = 2) :
    exec (.resumeFailure key) s = .next (if mayAck s key then (haltingCtxs s key).foldl (fun s c => spawnAgent s c 1) (resumeFailed s key)
      else resumeFailed s key) := by
  have all : ((haltingCtxs s key).all fun c => decide ((s.ctx c).state = 2)) = true := by simpa using halted
  have any : (haltingCtxs s key).isEmpty = false := by simpa using some'
  have fires : (since + nsToClk 100000000 ≤ s.env.clk && !(s.fab.peers.isEmpty && mayAck s key) || (s.part key).lost) = true := by
    rcases fails with ⟨late, may⟩ | lost
    · simp [late, may]
    · simp [lost]
  rw [exec_resumeFailure, execResumeFailure]
  dsimp only
  rw [asked]
  dsimp only
  rw [unfixed, fires, any, all]
  rfl

/-- Settles O18: the resume at T, and its failure. -/
theorem partitionResumes : Obligations.PartitionResumes := by
  intro s key
  refine ⟨fun unfixed asked may => ⟨_, exec_resumeAtT_fixes unfixed asked may, ?_, ?_, ?_, fun c hc => ?_⟩,
    fun at' fixed due keys lanes => ?_, exec_resumeFailure_kept, fun since asked unfixed fails some' halted => ?_⟩
  · rw [State.part, modCtxs_parts]
    exact congrArg Part.resumeT ((State.part_modPart ..).trans (if_pos rfl))
  · exact modCtxs_thr ..
  · exact modCtxs_mem ..
  · exact modCtxs_gives _ (P := fun k => k.state = 3) Ctx.resuming_state hc
  · have runs : exec (.resumeAtT key) s = .next (resumeNow s key) := by
      rw [exec_resumeAtT, execResumeAtT]
      dsimp only
      rw [fixed]
      dsimp only
      rw [if_pos due]
    obtain ⟨u, thr⟩ := atT_thr s key
    have groupAtT : ∀ tid t, s.thread tid = some t → t.isGroup = true → (atT s key).thread tid = some t := fun tid t ht group => by
      rw [State.thread, thr, nget_nmap s.thr (fun _ t => rewatched u key t), show nget s.thr tid = some t from ht, Option.map_some,
        rewatched_group u key group]
    have live : ∀ j ∈ groupsOf s key, ∃ t, (atT s key).thread j = some t ∧ t.aliveLanes ≠ 0 := fun j hj => by
      obtain ⟨p, hp, here⟩ := List.mem_map.1 hj
      obtain ⟨t, ht⟩ := exists_nget_of_mem (List.mem_filter.1 hp).1
      rw [here] at ht
      obtain ⟨group, part, place⟩ := mem_groupsOf keys hj ht
      exact ⟨t, groupAtT j t ht group, lanes j t ht group place part⟩
    rw [resumeNow_eq, groupsOf_atT] at runs
    obtain ⟨rest, -, each⟩ := foldl_resumeAfter (groupsOf s key) (groupsOf_nodup keys) live
    refine ⟨_, runs, fun c hc => ?_, ?_, fun tid t z ht group place part hz => ?_, ?_⟩
    · rw [State.ctx, rest.ctxs]
      exact modCtxs_gives s (P := fun k => k.state = 0) (fun k => k.state_setState (by decide)) hc
    · rw [State.part, rest.parts]
      exact atT_resumeT s key
    · have goes := each tid (groupsOf_member ht group part place) t z (groupAtT tid t ht group) hz
      exact ⟨fun run => ⟨unfreeze t (atT s key).cyc, by simp [goes, run], unfreeze_leaves t _⟩, fun hold => by simp [goes, hold]⟩
    · rw [rest.mem]
      exact modCtxs_mem ..
  · have parts : (resumeFailed s key).parts = _ := modCtxs_parts ..
    have failed : ∀ c ∈ haltingCtxs s key, ((resumeFailed s key).ctx c).brst = (s.ctx c).brst ||| 8 ∧ ((resumeFailed s key).ctx c).state = 2 := by
      intro c hc
      have once : ∀ k : Ctx, k.failed.failed = k.failed := fun k => by simp [Ctx.failed, BitVec.or_assoc]
      rw [resumeFailed, modCtxs_once _ once hc]
      exact ⟨rfl, (bits_1_0_or_8 _).trans (halted c hc)⟩
    have request : ((resumeFailed s key).part key).asked = none := by
      rw [State.part, parts]
      exact congrArg Part.asked ((State.part_modPart ..).trans (if_pos rfl))
    have spawned := foldl_spawnAgent_rest (haltingCtxs s key) 1 (resumeFailed s key)
    refine ⟨_, exec_resumeFailure_fails asked unfixed fails some' halted, ?_⟩
    split_ifs
    · rw [spawned]
      exact ⟨request, modCtxs_thr .., modCtxs_mem .., failed⟩
    · exact ⟨request, modCtxs_thr .., modCtxs_mem .., failed⟩

end Sys2Proof.Machine
end

section
/-! For O46: TBJOIN, TBWAIT and TBTEST (R353 to R363). -/

namespace Sys2Proof.Machine

section
variable {opc : Nat} {f : Fields} {s : State} {tid : Nat} {t : Thread}

/-! ### The object that a form names, bound to its launch (R354) -/

/-- An object that a thread's form has bound to its launch where it was free. -/
def TreeObj.boundTo (o : TreeObj) (s : State) (t : Thread) : TreeObj :=
  if o.launch = none then { o with launch := some t.launch, grid := ((s.launchOf t).map (·.gridid)).getD 0 } else o

theorem TreeObj.boundTo_same (o : TreeObj) (s : State) (t : Thread) :
    (o.boundTo s t).phase = o.phase ∧ (o.boundTo s t).exc0 = o.exc0 ∧ (o.boundTo s t).exc1 = o.exc1 := by
  unfold TreeObj.boundTo
  split_ifs <;> exact ⟨rfl, rfl, rfl⟩

theorem State.obj_modObj (s : State) (key b : Nat) (g : TreeObj → TreeObj) (k c : Nat) :
    ((s.modObj key b g).part k).obj c = if (k, c) = (key, b) then g ((s.part key).obj b) else (s.part k).obj c := by
  rw [State.modObj, State.part_modPart]
  by_cases part : k = key
  · subst part
    rw [if_pos rfl, Part.obj, ngetD_nset]
    by_cases here : c = b
    · rw [if_pos here, if_pos (by rw [here])]
    · rw [if_neg here, if_neg fun same => here (Prod.ext_iff.1 same).2]
      rfl
  · rw [if_neg part, if_neg fun same => part (Prod.ext_iff.1 same).1]

/-- Only the object that the thread's form names differs, and it is bound. -/
structure Bound (s u : State) (t : Thread) (b : Nat) : Prop where
  rest : u = { s with parts := u.parts }
  own : u.tbObject t b = (s.tbObject t b).boundTo s t
  others : ∀ k c, (k, c) ≠ ((s.ctx t.ctx).key, b) → (u.part k).obj c = (s.part k).obj c

theorem tbCheck_closed {b : Nat} (closed : (s.tbObject t b).en = false) : tbCheck s t b = .error 0x80000040 := by
  unfold State.tbObject at closed
  unfold tbCheck
  simp only [closed, Bool.not_false, if_true]

theorem tbCheck_taken {b l : Nat} (opened : (s.tbObject t b).en = true) (launch : (s.tbObject t b).launch = some l)
    (other : l ≠ t.launch) : tbCheck s t b = .error 0x80000041 := by
  unfold State.tbObject at opened launch
  unfold tbCheck
  simp only [opened, launch, Bool.not_true, Bool.false_eq_true, if_false, if_neg other]

theorem tbCheck_open {b : Nat} (opened : (s.tbObject t b).en = true)
    (free : (s.tbObject t b).launch = none ∨ (s.tbObject t b).launch = some t.launch) :
    ∃ u, tbCheck s t b = .ok u ∧ Bound s u t b := by
  rcases free with none' | own
  · refine ⟨s.modObj (s.ctx t.ctx).key b fun o => { o with launch := some t.launch, grid := ((s.launchOf t).map (·.gridid)).getD 0 },
      ?_, ⟨rfl, ?_, fun k c other => ?_⟩⟩
    · unfold State.tbObject at opened none'
      unfold tbCheck
      simp only [opened, none', Bool.not_true, Bool.false_eq_true, if_false]
    · rw [TreeObj.boundTo, if_pos none']
      exact (State.obj_modObj ..).trans (if_pos rfl)
    · exact (State.obj_modObj ..).trans (if_neg other)
  · refine ⟨s, ?_, ⟨rfl, ?_, fun _ _ _ => rfl⟩⟩
    · unfold State.tbObject at opened own
      unfold tbCheck
      simp only [opened, own, Bool.not_true, Bool.false_eq_true, if_false, if_true]
    · rw [TreeObj.boundTo, own]
      rfl

/-- A state with the same partitions and contexts as the bound one has the object bound, and no other. -/
theorem Bound.binds {b : Nat} {u v : State} (bound : Bound s u t b) (parts : v.parts = u.parts) :
    (v.part (s.ctx t.ctx).key).obj b = (s.tbObject t b).boundTo s t ∧
      ∀ k c, (k, c) ≠ ((s.ctx t.ctx).key, b) → (v.part k).obj c = (s.part k).obj c := by
  have part : ∀ k, v.part k = u.part k := fun k => by rw [State.part, parts]; rfl
  have key : (u.ctx t.ctx).key = (s.ctx t.ctx).key := by rw [bound.rest]; rfl
  refine ⟨?_, fun k c other => by rw [part]; exact bound.others k c other⟩
  have own := bound.own
  rw [State.tbObject, key] at own
  rw [part]
  exact own

/-! ### A thread that goes on with its joins counted, or stands -/

/-- A form that counts a join goes on. -/
theorem Advances.joining {u : State} {t' : Thread} {ws : List Write} (a : Advances s u tid t t' opc f ws) {g : Thread → Thread}
    (keeps : ∃ j e, g t' = { t' with joins := j, early := e }) : Advances s (u.modThread tid g) tid t (g t') opc f ws := by
  obtain ⟨j, e, same⟩ := keeps
  rw [same]
  exact { a with
    thread := by rw [State.thread_modThread, if_pos rfl, a.thread, Option.map_some, same]
    wregs := a.wregs
    bytes := a.bytes }

theorem Released.prepared {u v : State} (bound : u = { s with parts := u.parts }) (released : Released u v tid t) : Prepared s v tid t where
  thread := released.thread
  cyc := by rw [released.rest, bound]; rfl
  wregs := by rw [released.rest, bound]; rfl
  bytes := by rw [released.rest, bound]; exact ⟨rfl, rfl⟩

/-! ### The three forms -/

section
variable (live : t.live f ≠ 0)
include live

theorem exec_tb_traps {n : Nat} (bad : tbCheck s t (Forms.ex f 5 0) = .error n) :
    (Issues s tid t 0x240 f → exec (.tbjoin f) s = .next (takeFault s tid (trapSyn n (t.live f)) t.pc)) ∧
    (Issues s tid t 0x241 f → exec (.tbwait f) s = .next (takeFault s tid (trapSyn n (t.live f)) t.pc)) ∧
    (Issues s tid t 0x242 f → exec (.tbtest f) s = .next (takeFault s tid (trapSyn n (t.live f)) t.pc)) := by
  refine ⟨fun h => ?_, fun h => ?_, fun h => ?_⟩
  · rw [exec_tbjoin, execTbjoin, issue_runs h, if_neg live]
    dsimp only
    rw [tbObj, bad]
  · rw [exec_tbwait, execTbwait, issue_runs h, if_neg live]
    dsimp only
    rw [h.new]
    dsimp only
    rw [tbObj, bad]
  · rw [exec_tbtest, execTbtest, issue_runs h, if_neg live]
    dsimp only
    rw [tbObj, bad]

variable {u : State} (checked : tbCheck s t (Forms.ex f 5 0) = .ok u)
include checked

/-- TBJOIN once its release action is done. -/
theorem exec_tbjoin_released (h : Issues s tid t 0x240 f) (step : t.stepping = 0) {v : State}
    (done : (if accOrder f = 2 then releaseAtPc u tid t (accScope f) else (u, true)) = (v, true)) : exec (.tbjoin f) s = .next
      (if (v.tbObject t (Forms.ex f 5 0)).phase + 2 ≤ ngetD t.joins (Forms.ex f 5 0) 0 then
        standIn 0x240 v tid { stage := tbjoinStage, val := Forms.ex f 5 0, aux := 0 }
      else
        retire 0x240 f v tid t { writes := [.uni f.d.toNat (BitVec.ofNat 64 (ngetD t.joins (Forms.ex f 5 0) 0))] } fun u =>
          { u with joins := nset u.joins (Forms.ex f 5 0) (ngetD t.joins (Forms.ex f 5 0) 0 + 1),
                   early := if t.fz.isSome then nset t.early (Forms.ex f 5 0) (ngetD t.early (Forms.ex f 5 0) 0 + 1) else t.early }) := by
  have running : t.stepping ≠ 1 := by omega
  rw [exec_tbjoin, execTbjoin, issue_runs h, if_neg live]
  dsimp only
  rw [tbObj, checked]
  dsimp only
  rw [done]
  simp only [Bool.not_true, Bool.false_or, decide_eq_true_eq, if_true, if_neg running]

theorem exec_tbwait_new (h : Issues s tid t 0x241 f) (step : t.stepping = 0) {p : Nat}
    (hp : (uniVal s tid t f.b.toNat).toNat % 65536 = p) : exec (.tbwait f) s = .next
      (if phasePast (u.tbObject t (Forms.ex f 5 0)) p = true then tbwaitEnd f u tid t (u.tbObject t (Forms.ex f 5 0)) p false
       else if notJoined (ngetD t.joins (Forms.ex f 5 0) 0) p = true then takeFault s tid (trapSyn 0x80000042 (t.live f)) t.pc
       else standIn 0x241 u tid { stage := 241, val := Forms.ex f 5 0, aux := p }) := by
  have running : t.stepping ≠ 1 := by omega
  rw [exec_tbwait, execTbwait, issue_runs h, if_neg live]
  dsimp only
  rw [h.new]
  dsimp only
  rw [tbObj, checked]
  dsimp only
  rw [hp, if_neg running]

theorem exec_tbtest_runs (h : Issues s tid t 0x242 f) : exec (.tbtest f) s = .next
    (retire 0x242 f (if accOrder f = 1 then acquireL1 u t.cu else u) tid t
      { writes := [.uni f.d.toNat (tbStatus (u.tbObject t (Forms.ex f 5 0)) false
        (decide (ngetD t.joins (Forms.ex f 5 0) 0 ≤ (u.tbObject t (Forms.ex f 5 0)).phase)) (u.tbObject t (Forms.ex f 5 0)).exc0)] }) := by
  rw [exec_tbtest, execTbtest, issue_runs h, if_neg live]
  dsimp only
  rw [tbObj, checked]

end

/-- What an acquire action prepares after the binding of an object. -/
theorem acquired_prepared {u : State} {b : Nat} (bound : Bound s u t b) (ht : s.thread tid = some t) :
    Prepared s (if accOrder f = 1 then acquireL1 u t.cu else u) tid t ∧
      (if accOrder f = 1 then acquireL1 u t.cu else u).parts = u.parts := by
  have rest := bound.rest
  have same : ∀ v : State, v.thr = u.thr → v.wgs = u.wgs → v.mem = u.mem → v.cyc = u.cyc → Prepared s v tid t := fun v thr wgs mem cyc =>
    .of_same ht (thr.trans (by rw [rest])) (wgs.trans (by rw [rest])) (mem.trans (by rw [rest])) (cyc.trans (by rw [rest]; rfl))
  split_ifs
  · exact ⟨same _ rfl rfl rfl rfl, rfl⟩
  · exact ⟨same _ rfl rfl rfl rfl, rfl⟩

end

/-- The phase `past` before an object's has completed. -/
theorem phasePast_iff (o : TreeObj) (p : Nat) : phasePast o p = true ↔
    1 ≤ (o.phase % 2 ^ 16 + 2 ^ 16 - p) % 2 ^ 16 ∧ (o.phase % 2 ^ 16 + 2 ^ 16 - p) % 2 ^ 16 ≤ 32767 := by
  simp only [phasePast, Bool.and_eq_true, decide_eq_true_eq]
  exact Iff.rfl

theorem phasePast_congr {o o' : TreeObj} (phase : o'.phase = o.phase) (p : Nat) : phasePast o' p = phasePast o p := by
  unfold phasePast
  rw [phase]

theorem treeBarrierForms : Claims.TreeBarrierForms := by
  intro f s tid t live step key b o bound j p past trap all binds gives stands
  refine ⟨fun closed => ?_, fun l opened launch other => ?_, fun opened free => ?_⟩
  · exact exec_tb_traps live (tbCheck_closed closed)
  · exact exec_tb_traps live (tbCheck_taken opened launch other)
  obtain ⟨u, checked, bnd⟩ := tbCheck_open (s := s) (t := t) (b := b) opened free
  obtain ⟨phase, exc0, exc1⟩ := o.boundTo_same s t
  have object : ∀ {v : State}, v.parts = u.parts → v.ctxs = u.ctxs → v.tbObject t b = o.boundTo s t := fun {v} parts ctxs => by
    have same : v.tbObject t b = u.tbObject t b := by
      unfold State.tbObject State.part State.ctx
      rw [parts, ctxs]
    exact same.trans bnd.own
  have thread : u.thread tid = s.thread tid := by rw [bnd.rest]; rfl
  have standing : ∀ (opc : Nat) (k : Blk) {v : State} {wb : Option (List Nat)}, t.blk = none → v.thread tid = some { t with wb := wb } →
      v.parts = u.parts → ∃ t', (standIn opc v tid k).thread tid = some t' ∧ t'.pc = t.pc ∧ t'.joins = t.joins ∧ t'.blk = some k ∧
        t'.waits = true ∧ binds (standIn opc v tid k) := fun opc k v wb new hv parts => by
    obtain ⟨sig, left⟩ := standIn_leaves hv new opc k
    exact ⟨_, left, rfl, rfl, rfl, rfl, bnd.binds (v := standIn opc v tid k) parts⟩
  have notPast : past = 0 ∨ 32767 < past → phasePast (u.tbObject t b) p ≠ true := fun out => by
    rw [object rfl rfl, phasePast_congr phase, Ne, phasePast_iff]
    change ¬(1 ≤ past ∧ past ≤ 32767)
    omega
  refine ⟨fun h done early => ?_, fun h done ahead => ?_, fun h lo hi => ?_, fun h open' joined => ?_, fun h open' joined => ?_, fun h => ?_⟩
  · obtain ⟨v, released, rel⟩ := releaseAtPc_of_done (s := u) (f := f) (thread.trans h.thread) (by rw [bnd.rest]; exact done)
    have parts : v.parts = u.parts := by rw [rel.rest]
    have ran := exec_tbjoin_released live checked h step released
    rw [object parts (by rw [rel.rest]), phase, if_neg (not_le.2 early), retire_with (fits_uni ..)] at ran
    obtain ⟨t', on⟩ := (rel.prepared bnd.rest).goesOn (opc := 0x240) (f := f) h.new (by decide)
      (ws := [.uni f.d.toNat (BitVec.ofNat 64 j)]) (fits_uni ..)
    refine ⟨_, _, ran, on.advances.joining ⟨_, _, rfl⟩, ?_, bnd.binds ?_⟩
    · exact congrArg (fun m => nset m b (j + 1)) (on.same Thread.joins fun _ => rfl)
    · exact (congrArg State.parts on.state).trans parts
  · obtain ⟨v, released, rel⟩ := releaseAtPc_of_done (s := u) (f := f) (thread.trans h.thread) (by rw [bnd.rest]; exact done)
    have parts : v.parts = u.parts := by rw [rel.rest]
    obtain ⟨wb, hv⟩ := rel.thread
    have ran := exec_tbjoin_released live checked h step released
    rw [object parts (by rw [rel.rest]), phase, if_pos ahead] at ran
    obtain ⟨t', left⟩ := standing 0x240 { stage := tbjoinStage, val := b, aux := 0 } h.new hv parts
    exact ⟨_, t', ran, left⟩
  · have ran := exec_tbwait_new live checked h step (p := p) rfl
    have past' : phasePast (u.tbObject t b) p = true := by
      rw [object rfl rfl, phasePast_congr phase]
      exact (phasePast_iff o p).2 ⟨lo, hi⟩
    rw [if_pos past'] at ran
    obtain ⟨prepared, parts⟩ := acquired_prepared (f := f) bnd h.thread
    obtain ⟨t', on⟩ := prepared.goesOn (opc := 0x241) (f := f) h.new (by decide)
      (ws := [.uni f.d.toNat (BitVec.ofNat 64 (2 ^ 17 + (if o.exc0 ∨ (o.exc1 ∧ 2 ≤ past) then 2 ^ 16 else 0) + o.phase % 2 ^ 16))]) (fits_uni ..)
    have word : tbStatus (u.tbObject t b) false true (phasePast (u.tbObject t b) p && ((u.tbObject t b).exc0 || ((u.tbObject t b).exc1 &&
        decide (2 ≤ ((u.tbObject t b).phase % 65536 + 65536 - p) % 65536)))) =
        BitVec.ofNat 64 (2 ^ 17 + (if o.exc0 ∨ (o.exc1 ∧ 2 ≤ past) then 2 ^ 16 else 0) + o.phase % 2 ^ 16) := by
      rw [past', object rfl rfl, phase, exc0, exc1]
      simp only [tbStatus, phase, Bool.true_and, Bool.or_eq_true, Bool.and_eq_true, decide_eq_true_eq, Bool.false_eq_true, if_false, if_true,
        zero_add]
      rfl
    rw [tbwaitEnd] at ran
    rw [word] at ran
    exact ⟨_, t', ran, on.advances, on.same Thread.joins fun _ => rfl, bnd.binds ((congrArg State.parts on.state).trans parts)⟩
  · have ran := exec_tbwait_new live checked h step (p := p) rfl
    rw [if_neg (notPast open'), if_neg (by unfold notJoined; simpa using joined)] at ran
    obtain ⟨t', left⟩ := standing 0x241 { stage := 241, val := b, aux := p } (wb := t.wb) h.new (thread.trans h.thread) rfl
    exact ⟨_, t', ran, left⟩
  · have ran := exec_tbwait_new live checked h step (p := p) rfl
    rwa [if_neg (notPast open'), if_pos (by unfold notJoined; simpa using joined)] at ran
  · have ran := exec_tbtest_runs live checked h
    obtain ⟨prepared, parts⟩ := acquired_prepared (f := f) bnd h.thread
    obtain ⟨t', on⟩ := prepared.goesOn (opc := 0x242) (f := f) h.new (by decide)
      (ws := [.uni f.d.toNat (BitVec.ofNat 64 ((if j ≤ o.phase then 2 ^ 17 else 0) + (if o.exc0 then 2 ^ 16 else 0) + o.phase % 2 ^ 16))])
      (fits_uni ..)
    have word : tbStatus (u.tbObject t b) false (decide (j ≤ (u.tbObject t b).phase)) (u.tbObject t b).exc0 =
        BitVec.ofNat 64 ((if j ≤ o.phase then 2 ^ 17 else 0) + (if o.exc0 then 2 ^ 16 else 0) + o.phase % 2 ^ 16) := by
      rw [object rfl rfl]
      simp only [tbStatus, phase, exc0, decide_eq_true_eq, Bool.false_eq_true, if_false, zero_add]
      rfl
    rw [word] at ran
    exact ⟨_, t', ran, on.advances, on.same Thread.joins fun _ => rfl, bnd.binds ((congrArg State.parts on.state).trans parts)⟩

end Sys2Proof.Machine
end

section
/-! Settles O46: TBEXC and HALTJ, with the other forms of tree barriers above (R357, R362, R364). -/

namespace Sys2Proof.Machine

/-! ### The mask of an object -/

/-- An object with a CU's bit of its mask clear. -/
def TreeObj.without (o : TreeObj) (n : Nat) : TreeObj :=
  { o with msk := nset o.msk (n / 64) (ngetD o.msk (n / 64) 0 &&& ~~~BitVec.ofNat 64 (2 ^ (n % 64))) }

theorem getLsbD_two_pow_64 {i j : Nat} (hj : j < 64) : (BitVec.ofNat 64 (2 ^ i)).getLsbD j = decide (i = j) := by
  rw [BitVec.getLsbD_ofNat, decide_eq_true hj, Bool.true_and, Nat.testBit_two_pow]

theorem TreeObj.maskBit_without (o : TreeObj) (n m : Nat) : (o.without n).maskBit m = (o.maskBit m && decide (m ≠ n)) := by
  unfold TreeObj.maskBit TreeObj.without
  dsimp only
  rw [ngetD_nset]
  split_ifs with word
  · have low : m % 64 < 64 := Nat.mod_lt _ (by decide)
    have same : n % 64 = m % 64 ↔ m = n := by omega
    rw [BitVec.getLsbD_and, BitVec.getLsbD_not, getLsbD_two_pow_64 low, word, decide_eq_true low]
    simp [same]
  · have other : m ≠ n := fun here => word (by rw [here])
    simp [other]

section
variable {f : Fields} {s : State} {tid : Nat} {t : Thread}

/-! ### TBEXC -/

/-- TBEXC on an object of a partition within reach. -/
theorem exec_tbexc_reaches (h : Issues s tid t 0x243 f) (live : t.live f ≠ 0) {n k : Nat} (hn : (uniVal s tid t f.a.toNat).toNat = n)
    (hk : (uniVal s tid t f.b.toNat).toNat % 65536 = k) (reach : k = (s.ctx t.ctx).key ∨ t.ctx = 0) : exec (.tbexc f) s = .next
      (retire 0x243 f (excuse s k (Forms.ex f 5 0) n).1 tid t
        { writes := [.uni f.d.toNat (BitVec.ofNat 64 (excuse s k (Forms.ex f 5 0) n).2)] }) := by
  rw [exec_tbexc, execTbexc, issue_runs h, if_neg live]
  dsimp only
  rw [hn, hk, if_pos (by simpa using reach)]
  rfl

theorem exec_tbexc_outOfReach (h : Issues s tid t 0x243 f) (live : t.live f ≠ 0)
    (out : ¬((uniVal s tid t f.b.toNat).toNat % 65536 = (s.ctx t.ctx).key ∨ t.ctx = 0)) : exec (.tbexc f) s = .next
      (retire 0x243 f s tid t { writes := [.uni f.d.toNat (BitVec.ofNat 64 3)] }) := by
  rw [exec_tbexc, execTbexc, issue_runs h, if_neg live]
  dsimp only
  rw [if_neg (by simpa using out)]

section
variable {k b n : Nat}

theorem excuse_noCu (big : 5375 < n) : excuse s k b n = (s, 3) := if_pos big

variable (small : n ≤ 5375)
include small

theorem excuse_clear (clear : ((s.part k).obj b).maskBit n = false) : excuse s k b n = (s, 2) := by
  unfold excuse
  dsimp only
  rw [if_neg (not_lt.2 small), clear]
  rfl

variable (set' : ((s.part k).obj b).maskBit n = true)
include set'

theorem excuse_held (holds : holdsParticipant s ((s.part k).obj b) n = true) : excuse s k b n = (s, 1) := by
  unfold excuse
  dsimp only
  rw [if_neg (not_lt.2 small), set', holds]
  rfl

theorem excuse_empty (empty : holdsParticipant s ((s.part k).obj b) n = false) :
    excuse s k b n = (s.modObj k b (·.without n), 0) := by
  unfold excuse
  dsimp only
  rw [if_neg (not_lt.2 small), set', empty]
  rfl

end

/-! ### HALTJ -/

/-- Each context of a list gets a trigger. -/
def triggered (s : State) (l : List Nat) (x : Trigger) : State := l.foldl (fun s c => raiseTrigger s c x) s

theorem halting_raiseTrigger_of {s : State} (c : Nat) (x : Trigger) {d : Nat} (halts : s.halting d = true) :
    (raiseTrigger s c x).halting d = true := by
  by_cases here : d = c
  · rw [here]; exact halting_raiseTrigger ..
  · have same : (raiseTrigger s c x).ctx d = (noteTrigger s c x).ctx d := by
      simp only [raiseTrigger]
      split_ifs <;> simp only [State.ctx_modPart, State.ctx_modCtx, if_neg here]
    rw [State.halting, same]
    exact noteTrigger_halting s x c (.inr halts)

theorem triggered_halting (x : Trigger) (l : List Nat) {s : State} {d : Nat} (halts : d ∈ l ∨ s.halting d = true) :
    (triggered s l x).halting d = true := by
  induction l generalizing s with
  | nil => exact halts.resolve_left List.not_mem_nil
  | cons c r ih =>
    refine ih (s := raiseTrigger s c x) ?_
    rcases halts with member | halts
    · exact (List.mem_cons.1 member).symm.imp_right fun here => by rw [here]; exact halting_raiseTrigger ..
    · exact .inr (halting_raiseTrigger_of c x halts)

theorem raiseTrigger_env (s : State) (c : Nat) (x : Trigger) : (raiseTrigger s c x).env = s.env := by
  simp only [raiseTrigger]
  split_ifs <;> rfl

theorem triggered_prepared (x : Trigger) (l : List Nat) (ht : s.thread tid = some t) :
    Prepared s (triggered s l x) tid t ∧ (triggered s l x).thr = s.thr := by
  have rest : (triggered s l x).thr = s.thr ∧ (triggered s l x).wgs = s.wgs ∧ (triggered s l x).mem = s.mem ∧
      (triggered s l x).env = s.env :=
    List.foldlRecOn (motive := fun u : State => u.thr = s.thr ∧ u.wgs = s.wgs ∧ u.mem = s.mem ∧ u.env = s.env) _ _
      ⟨rfl, rfl, rfl, rfl⟩ fun u ⟨thr, wgs, mem, env⟩ c _ =>
        ⟨(raiseTrigger_thr u c x).trans thr, (raiseTrigger_wgs u c x).trans wgs, (raiseTrigger_mem u c x).trans mem,
          (raiseTrigger_env u c x).trans env⟩
  obtain ⟨thr, wgs, mem, env⟩ := rest
  exact ⟨.of_same ht thr wgs mem (by unfold State.cyc; rw [env]), thr⟩

/-- The trigger of HALTJ. -/
def haltTrigger (f : Fields) (s : State) (tid : Nat) (t : Thread) : Trigger :=
  { time := (s.globalTime (dieOf t.cu)).toNat, modn := s.mdl.number, tile := computeTile (dieOf t.cu), cause := cHALT,
    syn := BitVec.ofNat 32 ((uniVal s tid t f.b.toNat).toNat % 65536), grp := false, cuh := 0, brl := 0, slot := 0 }

/-- HALTJ of a partition. -/
theorem exec_haltj_runs (h : Issues s tid t 0x244 f) (live : t.live f ≠ 0) {k : Nat} (hk : (uniVal s tid t f.a.toNat).toNat % 65536 = k) :
    exec (.haltj f) s = .next (if k ≠ (s.ctx t.ctx).key ∧ t.ctx ≠ 0 then
        retire 0x244 f s tid t { writes := [.uni f.d.toNat (BitVec.ofNat 64 3)] }
      else if partCtxs s k = [] then retire 0x244 f s tid t { writes := [.uni f.d.toNat (BitVec.ofNat 64 2)] }
      else retire 0x244 f (triggered s (partCtxs s k) (haltTrigger f s tid t)) tid t
        { writes := [.uni f.d.toNat (BitVec.ofNat 64 (if (partCtxs s k).any s.halting then 1 else 0))] }) := by
  rw [exec_haltj, execHaltj, issue_runs h, if_neg live]
  dsimp only
  rw [hk]
  simp only [Bool.and_eq_true, decide_eq_true_eq, List.isEmpty_iff]
  rfl

end

theorem excuseAndHalt : Claims.ExcuseAndHalt := by
  intro f s tid t live b n kb o mine exc hlt ka
  refine ⟨fun h => ?_, fun h => ?_⟩
  · have reaches := fun reach : mine kb => exec_tbexc_reaches h live (n := n) (k := kb) rfl rfl reach
    refine ⟨fun out => ?_, fun reach small clear => ?_, fun reach small set' holds => ?_, fun reach small set' empty => ?_⟩
    · by_cases reach : mine kb
      · have ran := reaches reach
        rw [excuse_noCu (out.resolve_right (not_not.2 reach))] at ran
        exact retiresWith_uni h ran
      · exact retiresWith_uni h (exec_tbexc_outOfReach h live reach)
    · have ran := reaches reach
      rw [excuse_clear small clear] at ran
      exact retiresWith_uni h ran
    · have ran := reaches reach
      rw [excuse_held small set' holds] at ran
      exact retiresWith_uni h ran
    · have ran := reaches reach
      rw [excuse_empty small set' empty] at ran
      have prepared : Prepared s (s.modObj kb b (·.without n)) tid t := .of_same h.thread rfl rfl rfl rfl
      obtain ⟨t', on⟩ := prepared.goesOn (opc := 0x243) (f := f) h.new (by decide) (ws := [.uni f.d.toNat (BitVec.ofNat 64 0)]) (fits_uni ..)
      refine ⟨_, t', ran, on.advances, ?_, fun m other _ => ?_, on.others⟩
      · rw [on.part, State.obj_modObj_self, TreeObj.maskBit_without]
        simp
      · rw [on.part, State.obj_modObj_self, TreeObj.maskBit_without, decide_eq_true other, Bool.and_true]
  · have ran := exec_haltj_runs h live (k := ka) rfl
    refine ⟨fun out => ?_, fun reach none' => ?_, fun reach some' => ?_⟩
    · rw [if_pos (not_or.1 out)] at ran
      exact retiresWith_uni h ran
    · rw [if_neg (by tauto), if_pos none'] at ran
      exact retiresWith_uni h ran
    · have word : BitVec.ofNat 64 (if (partCtxs s ka).any s.halting then 1 else 0) = if (partCtxs s ka).any s.halting then 1 else 0 := by
        split_ifs <;> rfl
      rw [if_neg (by tauto), if_neg some', word] at ran
      obtain ⟨prepared, thr⟩ := triggered_prepared (haltTrigger f s tid t) (partCtxs s ka) h.thread
      obtain ⟨t', on⟩ := prepared.goesOn (opc := 0x244) (f := f) h.new (by decide)
        (ws := [.uni f.d.toNat (if (partCtxs s ka).any s.halting then 1 else 0)]) (fits_uni ..)
      refine ⟨_, t', ran, fun c hc => ?_, on.advances, fun j hj => ?_⟩
      · rw [State.halting, on.ctx]
        exact triggered_halting _ _ (.inl hc)
      · rw [on.others j hj, State.thread, thr]
        rfl

/-- Settles O46: the forms of tree barriers, and HALTJ. -/
theorem treeBarriersAndHalt : Obligations.TreeBarriersAndHalt := ⟨treeBarrierForms, excuseAndHalt⟩

end Sys2Proof.Machine
end

section
/-! For O47: LAUNCH and QTOK (R379 to R381, R389, R390). -/

namespace Sys2Proof.Machine

/-- A field of a word as its number. -/
theorem bits_eq {n : Nat} (x : BitVec n) (hi lo : Nat) : bits x hi lo = x.toNat / 2 ^ lo % 2 ^ (hi + 1 - lo) := by
  rw [bits, BitVec.extractLsb'_toNat, Nat.shiftRight_eq_div_pow]

section
variable {f : Fields} {s : State} {tid : Nat} {t : Thread}

/-! ### LAUNCH -/

section
variable (h : Issues s tid t 0x280 f) (works : t.eff f ≠ 0)
include h works

theorem exec_launch_misaligned (bad : (uniVal s tid t f.a.toNat).toNat % 64 ≠ 0) :
    exec (.launch f) s = .next (takeFault s tid (trapSyn 0x80000050 (t.live f)) t.pc) := by
  rw [exec_launch, execLaunch, issue_runs h, if_neg works]
  dsimp only
  rw [if_pos (by rw [bits_eq]; simpa using bad)]

variable (aligned : (uniVal s tid t f.a.toNat).toNat % 64 = 0)
include aligned

theorem exec_launch_outside (out : 2 ^ 57 ≤ (uniVal s tid t f.a.toNat).toNat) :
    exec (.launch f) s = .next (takeFault s tid { cause := cXLAT } t.pc) := by
  have wide := (uniVal s tid t f.a.toNat).isLt
  rw [exec_launch, execLaunch, issue_runs h, if_neg works]
  dsimp only
  rw [if_neg (by rw [bits_eq]; simpa using aligned), if_pos (by rw [bits_eq]; omega)]

/-- A context with one more launch in its device buffer. -/
def Ctx.buffered (k : Ctx) (a : Nat) : Ctx :=
  { k with devCount := (k.devCount + 1) % 2 ^ 32, devBuf := k.devBuf ++ [(a, (k.devCount + 1) % 2 ^ 32)] }

/-- LAUNCH once its release action is done. -/
theorem exec_launch_released (step : t.stepping = 0) (inside : (uniVal s tid t f.a.toNat).toNat < 2 ^ 57) {u : State}
    (done : (if accOrder f = 2 then releaseAtPc s tid t (accScope f) else (s, true)) = (u, true)) : exec (.launch f) s = .next
      (if 256 ≤ (u.ctx t.ctx).devBuf.length then standIn 0x280 u tid { stage := 1, val := 0, aux := 0 }
       else retire 0x280 f (u.modCtx t.ctx (·.buffered (uniVal s tid t f.a.toNat).toNat)) tid t
        { writes := [.uni f.d.toNat (BitVec.ofNat 64 (((u.ctx t.ctx).devCount + 1) % 2 ^ 32))] }) := by
  have running : t.stepping ≠ 1 := by omega
  have wide := (uniVal s tid t f.a.toNat).isLt
  rw [exec_launch, execLaunch, issue_runs h, if_neg works]
  dsimp only
  rw [if_neg (by rw [bits_eq]; simpa using aligned), if_neg (by rw [bits_eq]; omega), done]
  dsimp only
  by_cases full : 256 ≤ (u.ctx t.ctx).devBuf.length
  · rw [if_pos full, if_pos (by simp [devBufSize, full]), if_neg running]
  · rw [if_neg full, if_neg (by rw [Bool.not_true, Bool.false_or, decide_eq_true_eq]; exact full)]
    rfl

end

theorem deviceLaunchIsBuffered : Claims.DeviceLaunchIsBuffered := by
  intro f s tid t h works step a k n
  refine ⟨exec_launch_misaligned h works, exec_launch_outside h works, fun aligned inside done room => ?_, fun aligned inside done full => ?_⟩
  all_goals
    obtain ⟨u, released, rel⟩ := releaseAtPc_of_done h.thread done
    have ctx : ∀ c, u.ctx c = s.ctx c := fun c => by rw [rel.rest]; rfl
    have ran := exec_launch_released h works aligned step inside released
    rw [ctx] at ran
  · rw [if_neg (not_le.2 room)] at ran
    have prepared : Prepared s (u.modCtx t.ctx (·.buffered a.toNat)) tid t := by
      obtain ⟨thread, cyc, wregs, bytes⟩ := rel.prepared (s := s) rfl
      exact ⟨thread, cyc, wregs, bytes⟩
    obtain ⟨t', on⟩ := prepared.goesOn (opc := 0x280) (f := f) h.new (by decide) (ws := [.uni f.d.toNat (BitVec.ofNat 64 n)]) (fits_uni ..)
    refine ⟨_, t', ran, on.advances, ?_, fun c other => ?_, fun j hj => (on.others j hj).trans (rel.others j hj)⟩
    · rw [on.ctx, State.ctx_modCtx, if_pos rfl, ctx]
      rfl
    · rw [on.ctx, State.ctx_modCtx, if_neg other, ctx]
  · rw [if_pos full] at ran
    obtain ⟨wb, hu⟩ := rel.thread
    obtain ⟨sig, left⟩ := standIn_leaves hu h.new 0x280 { stage := 1, val := 0, aux := 0 }
    exact ⟨_, _, ran, left, rfl, rfl, by rw [standIn, State.modThread_ctxs, rel.rest]⟩

/-! ### QTOK -/

theorem tokCnt_eq (v : Word64) : tokCnt v = v.toNat % 2 ^ 32 := by rw [tokCnt, bits_eq]; simp

theorem tokIdx_eq (v : Word64) : tokIdx v = v.toNat % 2 ^ 12 := by rw [tokIdx, bits_eq]; simp

theorem State.token_setToken (s : State) (key i : Nat) (v : Word64) {k l : Nat} (other : k ≠ key ∨ l ≠ i) :
    (s.setToken key i v).token k l = s.token k l := by
  unfold State.token State.setToken
  rw [State.part_modPart]
  split_ifs with part
  · rw [ngetD_nset, if_neg (other.resolve_left (not_not.2 part)), part]
  · rfl

section
variable (h : Issues s tid t 0x281 f)
include h

theorem exec_qtok_traps (live : t.live f ≠ 0) (works : t.eff f ≠ 0) (bad : bits (uniVal s tid t f.a.toNat) 31 12 ≠ 0) :
    exec (.qtokSig f) s = .next (takeFault s tid (trapSyn 0x80000053 (t.live f)) t.pc) ∧
    exec (.qtokGet f) s = .next (takeFault s tid (trapSyn 0x80000053 (t.live f)) t.pc) ∧
    exec (.qtokReset f) s = .next (takeFault s tid (trapSyn 0x80000053 (t.live f)) t.pc) := by
  refine ⟨?_, ?_, ?_⟩
  · rw [exec_qtokSig, execQtokSig, issue_runs h, if_neg works]
    dsimp only
    rw [if_pos bad]
    rfl
  · rw [exec_qtokGet, execQtokGet, issueAct, issue_runs h, if_neg live]
    dsimp only
    rw [if_pos bad]
    rfl
  · rw [exec_qtokReset, execQtokReset, issue_runs h, if_neg live]
    dsimp only
    rw [if_pos bad]
    rfl

variable (good : ¬bits (uniVal s tid t f.a.toNat) 31 12 ≠ 0)
include good

theorem exec_qtokSig_waits (works : t.eff f ≠ 0) (stores : (t.log.any fun e => isStore e.opc || isAtomic e.opc) = true) : Waits (.qtokSig f) s tid := by
  rw [Waits, exec_qtokSig, execQtokSig, issue_runs h, if_neg works]
  dsimp only
  rw [if_neg good, if_pos stores]

theorem exec_qtokSig_runs (works : t.eff f ≠ 0) (none' : (t.log.any fun e => isStore e.opc || isAtomic e.opc) = false) {key i : Nat}
    (hkey : (s.ctx t.ctx).key = key) (hi : tokIdx (uniVal s tid t f.a.toNat) = i) : exec (.qtokSig f) s = .next
      (retire 0x281 f (signalToken s key i [some t.cu]) tid t
        { writes := [.uni f.d.toNat (BitVec.ofNat 64 ((tokCnt (s.token key i) + 1) % 2 ^ 32))] }) := by
  rw [exec_qtokSig, execQtokSig, issue_runs h, if_neg works]
  dsimp only
  rw [if_neg good, none', hkey, hi, tokCnt_signalToken]
  rfl

theorem exec_qtokGet_runs (live : t.live f ≠ 0) : exec (.qtokGet f) s = .next (retire 0x281 f s tid t
    { writes := [.uni f.d.toNat (BitVec.ofNat 64 (tokCnt (s.token (s.ctx t.ctx).key (tokIdx (uniVal s tid t f.a.toNat)))))] }) := by
  rw [exec_qtokGet, execQtokGet, issueAct, issue_runs h, if_neg live]
  dsimp only
  rw [if_neg good]
  rfl

theorem exec_qtokReset_runs (live : t.live f ≠ 0) {key i : Nat} (hkey : (s.ctx t.ctx).key = key) (hi : tokIdx (uniVal s tid t f.a.toNat) = i) :
    exec (.qtokReset f) s = .next (retire 0x281 f (resetToken s key i) tid t
      { writes := [.uni f.d.toNat (BitVec.ofNat 64 (tokCnt (s.token key i)))] }) := by
  rw [exec_qtokReset, execQtokReset, issue_runs h, if_neg live]
  dsimp only
  rw [if_neg good, hkey, hi]

end
end

theorem queueTokens : Claims.QueueTokens := by
  intro f s tid t live works hd key i cnt good trap gives h
  have fields : bits hd 31 12 = hd.toNat / 2 ^ 12 % 2 ^ 20 := bits_eq ..
  have index : tokIdx hd = i := tokIdx_eq hd
  have count : tokCnt (s.token key i) = cnt := tokCnt_eq _
  have goodIff : ¬bits hd 31 12 ≠ 0 ↔ good := by rw [fields, not_not]
  -- a form that has changed no more than the token goes on
  have goes : ∀ (u : State) (x : Instr) (v w : Nat), u = { s with parts := u.parts } →
      exec x s = .next (retire 0x281 f u tid t { writes := [.uni f.d.toNat (BitVec.ofNat 64 v)] }) →
      tokCnt (u.token key i) = w → (∀ k l, k ≠ key ∨ l ≠ i → u.token k l = s.token k l) → gives x v w := by
    intro u x v w rest ran value others
    have prepared : Prepared s u tid t := .of_same h.thread (by rw [rest]) (by rw [rest]) (by rw [rest]) (by rw [rest]; rfl)
    obtain ⟨t', on⟩ := prepared.goesOn (opc := 0x281) (f := f) h.new (by decide) (ws := [.uni f.d.toNat (BitVec.ofNat 64 v)]) (fits_uni ..)
    have token : ∀ k l, State.token _ k l = u.token k l := fun k l => congrArg (fun p : Part => ngetD p.toks l 0) (on.part k)
    refine ⟨_, t', ran, on.advances, ?_, fun k l other => (token k l).trans (others k l other), fun j hj => ?_⟩
    · rw [token, ← tokCnt_eq, value]
    · rw [on.others j hj, rest]; rfl
  refine ⟨fun bad => exec_qtok_traps h live works (by rwa [← goodIff, not_not] at bad), fun ok none' => ?_, fun ok stores => ?_,
    fun ok => ?_, fun ok => ?_⟩
  all_goals have ok' := goodIff.2 ok
  · refine goes (signalToken s key i [some t.cu]) _ _ _ rfl ?_ ?_ fun k l other => State.token_setToken s key i _ other
    · rw [← count]; exact exec_qtokSig_runs h ok' works none' rfl index
    · rw [tokCnt_signalToken, count]
  · exact exec_qtokSig_waits h ok' works stores
  · refine goes s _ _ _ rfl ?_ count fun k l _ => rfl
    rw [← count, ← index]; exact exec_qtokGet_runs h ok' live
  · refine goes (resetToken s key i) _ _ _ rfl ?_ ?_ fun k l other => State.token_setToken s key i _ other
    · rw [← count]; exact exec_qtokReset_runs h ok' live rfl index
    · rw [resetToken, State.token_setToken_self]; rfl

end Sys2Proof.Machine
end

section
/-! Settles O47: work lists, with LAUNCH and QTOK above (R391 to R393). -/

namespace Sys2Proof.Machine

section
variable {f : Fields} {s : State} {tid : Nat} {t : Thread}

/-! ### The object that a form names (R391) -/

/-- An object as it is first bound to a launch. -/
def freshObj (l : Nat) : WorkObj := { launch := l, lists := [], ops := 0, waves := 0, snap := 0, done := false }

/-- The object of a thread's launch, new where the object is free or another launch's that is over. -/
def workObjOf (s : State) (t : Thread) (n : Nat) : WorkObj :=
  ((nget (s.ctx t.ctx).objs n).filter fun o => o.launch = t.launch).getD (freshObj t.launch)

/-- Another live launch has the object. -/
def workObjTaken (s : State) (t : Thread) (n : Nat) : Bool :=
  (nget (s.ctx t.ctx).objs n).any fun o => o.launch ≠ t.launch && (nget s.lch o.launch).isSome

/-- The state with an object bound differs in its context alone. -/
structure WorkBound (s u : State) (c n : Nat) (o : WorkObj) : Prop where
  rest : u = { s with ctxs := u.ctxs }
  obj : nget (u.ctx c).objs n = some o

theorem wlBind_taken {n : Nat} (taken : workObjTaken s t n = true) : wlBind s t n = none := by
  unfold workObjTaken at taken
  unfold wlBind
  cases old : nget (s.ctx t.ctx).objs n with
  | none => rw [old] at taken; cases taken
  | some o =>
    rw [old, Option.any_some, Bool.and_eq_true, decide_eq_true_eq] at taken
    obtain ⟨other, live⟩ := taken
    dsimp only
    rw [if_neg other, if_pos live]

theorem wlBind_free {n : Nat} (free : workObjTaken s t n = false) :
    ∃ u, wlBind s t n = some (u, workObjOf s t n) ∧ WorkBound s u t.ctx n (workObjOf s t n) := by
  have fresh : WorkBound s (s.modCtx t.ctx fun k => { k with objs := nset k.objs n (freshObj t.launch) }) t.ctx n (freshObj t.launch) :=
    ⟨rfl, by rw [State.ctx_modCtx, if_pos rfl]; exact nget_nset_self ..⟩
  unfold workObjTaken at free
  unfold wlBind workObjOf
  cases old : nget (s.ctx t.ctx).objs n with
  | none => exact ⟨_, rfl, fresh⟩
  | some o =>
    by_cases own : o.launch = t.launch
    · refine ⟨s, ?_, rfl, ?_⟩
      · simp only [if_pos own, Option.filter, decide_eq_true own, if_true, Option.getD_some]
      · rw [old]
        simp only [Option.filter, decide_eq_true own, if_true, Option.getD_some]
    · have free' : (nget s.lch o.launch).isSome = false := by
        rw [old, Option.any_some, decide_eq_true (show o.launch ≠ t.launch from own), Bool.true_and] at free
        exact free
      have new : (((some o : Option WorkObj).filter fun o => decide (o.launch = t.launch)).getD (freshObj t.launch)) = freshObj t.launch := by
        simp [Option.filter, own]
      rw [new]
      refine ⟨_, ?_, fresh⟩
      dsimp only
      rw [if_neg own, if_neg (by rw [free']; decide)]
      rfl

theorem State.nget_setObj (s : State) (c n : Nat) (o : WorkObj) : nget ((s.setObj c n o).ctx c).objs n = some o := by
  rw [State.setObj, State.ctx_modCtx, if_pos rfl]
  exact nget_nset_self ..

/-- A form of work lists goes on from a state in which it has changed no more than objects and its CU's L1. -/
theorem worklist_goes {opc : Nat} {u : State} {n : Nat} {o : WorkObj} (new : t.blk = none)
    (noFragments : opc ≠ 0x143 ∧ opc ≠ 0x144) {ws : List Write} (fit : t.fits ws = true)
    (prepared : Prepared s u tid t) (obj : nget (u.ctx t.ctx).objs n = some o) : ∃ t',
      Advances s (retire opc f u tid t { writes := ws }) tid t t' opc f ws ∧
        nget ((retire opc f u tid t { writes := ws }).ctx t.ctx).objs n = some o := by
  obtain ⟨t', on⟩ := prepared.goesOn (opc := opc) (f := f) new noFragments fit
  exact ⟨t', on.advances, by rw [on.ctx]; exact obj⟩

/-! ### The three forms -/

section
variable (works : t.eff f ≠ 0) (live : t.live f ≠ 0)
include works live

theorem exec_worklist_taken (taken : workObjTaken s t (Forms.ex f 3 0) = true) :
    (Issues s tid t 0x282 f → exec (.wlapp f) s = .next (takeFault s tid (trapSyn 0x80000051 (t.live f)) t.pc)) ∧
    (Issues s tid t 0x283 f → exec (.wltake f) s = .next (takeFault s tid (trapSyn 0x80000051 (t.live f)) t.pc)) ∧
    (Issues s tid t 0x284 f → exec (.wlstat f) s = .next (takeFault s tid (trapSyn 0x80000051 (t.live f)) t.pc)) := by
  have none' := wlBind_taken taken
  refine ⟨fun h => ?_, fun h => ?_, fun h => ?_⟩
  · rw [exec_wlapp, execWlapp, issue_runs h, if_neg works, wlObj, none']
    rfl
  · rw [exec_wltake, execWltake, issue_runs h, if_neg live, wlObj, none']
    rfl
  · rw [exec_wlstat, execWlstat, issue_runs h, if_neg live, wlObj, none']
    rfl

end

section
variable {u : State} {o : WorkObj} (bound : WorkBound s u t.ctx (Forms.ex f 3 0) o)
include bound

theorem WorkBound.uniVal (code : Nat) : uniVal u tid t code = uniVal s tid t code :=
  uniVal_congr (by rw [bound.rest]) (by rw [bound.rest]; rfl) code

theorem WorkBound.clidOf : u.clidOf t = s.clidOf t := by rw [bound.rest]; rfl

theorem WorkBound.launchOf : u.launchOf t = s.launchOf t := by rw [bound.rest]; rfl

/-- A state that differs from the bound one in contexts and CUs alone prepares what the bound one does. -/
theorem WorkBound.prepared {v : State} (ht : s.thread tid = some t) (thr : v.thr = u.thr) (wgs : v.wgs = u.wgs) (mem : v.mem = u.mem)
    (env : v.env = u.env) : Prepared s v tid t := by
  have rest := bound.rest
  exact .of_same ht (thr.trans (by rw [rest])) (wgs.trans (by rw [rest])) (mem.trans (by rw [rest]))
    (by unfold State.cyc; rw [env, rest])

/-- As does a new object in the state that a release action leaves. -/
theorem WorkBound.prepared_setObj {v : State} (rel : Released u v tid t) (o' : WorkObj) :
    Prepared s (v.setObj t.ctx (Forms.ex f 3 0) o') tid t := by
  have same : v.env = s.env ∧ v.wgs = s.wgs ∧ v.mem = s.mem := by rw [rel.rest, bound.rest]; exact ⟨rfl, rfl, rfl⟩
  obtain ⟨env, wgs, mem⟩ := same
  refine ⟨rel.thread, ?_, ?_, ?_⟩
  · change v.cyc = s.cyc
    unfold State.cyc
    rw [env]
  · change (nget v.wgs t.wg).map _ = _
    rw [wgs]
    rfl
  · change v.mem.dram = _ ∧ v.mem.hostMem = _
    rw [mem]
    exact ⟨rfl, rfl⟩

variable (bind : wlBind s t (Forms.ex f 3 0) = some (u, o))
include bind

/-! WLAPP -/

theorem exec_wlapp_noCluster (h : Issues s tid t 0x282 f) (works : t.eff f ≠ 0) {l : Launch} (launch : nget s.lch t.launch = some l)
    (beyond : l.clusters ≤ (uniVal s tid t f.a.toNat).toNat % 2 ^ 32) :
    exec (.wlapp f) s = .next (takeFault u tid (trapSyn 0x80000052 (t.live f)) t.pc) := by
  have clusters : ((u.launchOf t).map (·.clusters)).getD 0 = l.clusters := by rw [bound.launchOf, State.launchOf, launch]; rfl
  rw [exec_wlapp, execWlapp, issue_runs h, if_neg works, wlObj, bind]
  dsimp only
  rw [bound.uniVal, clusters, if_pos beyond]

theorem exec_wlapp_released (h : Issues s tid t 0x282 f) (works : t.eff f ≠ 0) {l : Launch} (launch : nget s.lch t.launch = some l)
    {k : Nat} (hk : (uniVal s tid t f.a.toNat).toNat % 2 ^ 32 = k) (within : k < l.clusters) {v : State}
    (done : (if accOrder f = 2 then releaseAtPc u tid t (accScope f) else (u, true)) = (v, true)) (rel : Released u v tid t) :
    exec (.wlapp f) s = .next (retire 0x282 f (v.setObj t.ctx (Forms.ex f 3 0) (o.append k (uniVal s tid t f.b.toNat)).2) tid t
      { writes := [.uni f.d.toNat (BitVec.ofNat 64 (o.append k (uniVal s tid t f.b.toNat)).1)] }) := by
  have clusters : ((u.launchOf t).map (·.clusters)).getD 0 = l.clusters := by rw [bound.launchOf, State.launchOf, launch]; rfl
  have obj : nget (v.ctx t.ctx).objs (Forms.ex f 3 0) = some o := by rw [rel.rest]; exact bound.obj
  have item : Machine.uniVal v tid t f.b.toNat = Machine.uniVal s tid t f.b.toNat := by
    rw [uniVal_congr (s0 := u) (by rw [rel.rest]) (by rw [rel.rest]; rfl), bound.uniVal]
  rw [exec_wlapp, execWlapp, issue_runs h, if_neg works, wlObj, bind]
  dsimp only
  rw [bound.uniVal, hk, clusters, if_neg (not_le.2 within), done]
  dsimp only
  rw [obj]
  dsimp only
  rw [item]
  rfl

/-! WLTAKE -/

theorem exec_wltake_item (h : Issues s tid t 0x283 f) (live : t.live f ≠ 0) {x : Word64} {rest : List Word64}
    (own : ngetD o.lists (s.clidOf t) [] = x :: rest) : exec (.wltake f) s = .next (wltakeEnd f
      (u.setObj t.ctx (Forms.ex f 3 0) { o with lists := nset o.lists (s.clidOf t) rest, ops := o.ops + 1 }) tid t (some x)) := by
  rw [exec_wltake, execWltake, issue_runs h, if_neg live, wlObj, bind]
  dsimp only
  rw [bound.clidOf, own]

theorem exec_wltake_empty (h : Issues s tid t 0x283 f) (live : t.live f ≠ 0) (step : t.stepping = 0)
    (own : ngetD o.lists (s.clidOf t) [] = []) : exec (.wltake f) s = .next (if o.done then wltakeEnd f u tid t none
      else standIn 0x283 u tid { stage := 283, val := Forms.ex f 3 0, aux := 0 }) := by
  have running : t.stepping ≠ 1 := by omega
  rw [exec_wltake, execWltake, issue_runs h, if_neg live, wlObj, bind]
  dsimp only
  rw [bound.clidOf, own]
  dsimp only
  rw [if_neg running]

/-! WLSTAT -/

theorem exec_wlstat_runs (h : Issues s tid t 0x284 f) (live : t.live f ≠ 0) : exec (.wlstat f) s = .next (retire 0x284 f u tid t
    { writes := [.uni f.d.toNat (BitVec.ofNat 64
      ((ngetD o.lists (s.clidOf t) []).length + 2 ^ 32 + if o.done then 2 ^ 33 else 0))] }) := by
  rw [exec_wlstat, execWlstat, issue_runs h, if_neg live, wlObj, bind]
  dsimp only
  rw [bound.clidOf]

end

/-- What the end of WLTAKE prepares: the acquire action changes a CU alone. -/
theorem wltake_goes {u v : State} {o o' : WorkObj} (bound : WorkBound s u t.ctx (Forms.ex f 3 0) o) (h : Issues s tid t 0x283 f)
    (changed : v = { u with ctxs := v.ctxs }) (obj : nget (v.ctx t.ctx).objs (Forms.ex f 3 0) = some o') (x : Option Word64) : ∃ t',
      Advances s (wltakeEnd f v tid t x) tid t t' 0x283 f
        [.uni f.d.toNat (x.getD 0), .prd (Forms.ex f 7 4) (if x.isSome then 0xFFFFFFFF else 0) (t.live f)] ∧
      nget ((wltakeEnd f v tid t x).ctx t.ctx).objs (Forms.ex f 3 0) = some o' := by
  unfold wltakeEnd wlPred
  refine worklist_goes h.new (by decide) (Thread.fits_of_newNames t _ rfl) ?_ ?_
  · split_ifs
    · exact bound.prepared h.thread (by rw [acquireL1, State.modCu_thr, changed]) (by rw [acquireL1, State.modCu_wgs, changed])
        (by rw [acquireL1, State.modCu_mem, changed]) (by rw [acquireL1, State.modCu_env, changed])
    · exact bound.prepared h.thread (by rw [changed]) (by rw [changed]) (by rw [changed]) (by rw [changed])
  · split_ifs <;> exact obj

end

/-- The status of WLAPP, and the object after it. -/
theorem WorkObj.append_eq (o : WorkObj) (k : Nat) (x : Word64) :
    let status := if o.done then 2 else if 65536 ≤ (ngetD o.lists k []).length then 1 else 0
    o.append k x = (status, if status = 0 then { o with lists := nset o.lists k (ngetD o.lists k [] ++ [x]), ops := o.ops + 1 } else o) := by
  intro status
  unfold WorkObj.append wlMax
  cases done : o.done with
  | true => simp [status, done]
  | false =>
    by_cases full : 65536 ≤ (ngetD o.lists k []).length
    · simp [status, done, full]
    · simp [status, done, full]

theorem workLists : Claims.WorkLists := by
  intro f s tid t l live works step n old o other k own item theirs obj trap v launch
  refine ⟨fun taken => exec_worklist_taken works live taken, fun free => ?_⟩
  obtain ⟨u, bind, bound⟩ := wlBind_free (s := s) (t := t) (n := n) free
  refine ⟨fun h beyond => ?_, fun h done within => ?_, fun x rest h own' => ?_, fun h own' done => ?_, fun h own' open' => ?_, fun h => ?_⟩
  · exact ⟨u, exec_wlapp_noCluster bound bind h works launch beyond, bound.obj, by rw [bound.rest], by rw [bound.rest]⟩
  · intro status
    obtain ⟨v, released, rel⟩ := releaseAtPc_of_done (s := u) (t := t) (tid := tid) (f := f)
      (by rw [bound.rest]; exact h.thread) (by rw [bound.rest]; exact done)
    have ran := exec_wlapp_released bound bind h works launch rfl within released rel
    rw [WorkObj.append_eq] at ran
    obtain ⟨t', goes, there⟩ := worklist_goes (opc := 0x282) (f := f) (n := n) h.new (by decide)
      (fits_uni t f.d.toNat (BitVec.ofNat 64 status)) (bound.prepared_setObj rel _) (State.nget_setObj ..)
    exact ⟨_, t', ran, goes, there⟩
  · obtain ⟨t', goes, there⟩ := wltake_goes bound h (v := u.setObj t.ctx n { o with lists := nset o.lists (s.clidOf t) rest, ops := o.ops + 1 })
      rfl (State.nget_setObj ..) (some x)
    exact ⟨_, t', exec_wltake_item bound bind h live own', goes, there⟩
  · obtain ⟨t', goes, there⟩ := wltake_goes bound h (v := u) rfl bound.obj none
    have ran := exec_wltake_empty bound bind h live step own'
    rw [show (workObjOf s t n).done = true from done, if_pos rfl] at ran
    exact ⟨_, t', ran, goes, there⟩
  · have ran := exec_wltake_empty bound bind h live step own'
    rw [show (workObjOf s t n).done = false from open', if_neg (by decide)] at ran
    obtain ⟨sig, left⟩ := standIn_leaves (s := u) (t := t) (tid := tid) (by rw [bound.rest]; exact h.thread) h.new 0x283
      { stage := 283, val := Forms.ex f 3 0, aux := 0 }
    exact ⟨_, _, ran, left, rfl, rfl, rfl, bound.obj⟩
  · obtain ⟨t', goes, there⟩ := worklist_goes (opc := 0x284) (f := f) (n := n) h.new (by decide)
      (fits_uni t f.d.toNat (BitVec.ofNat 64 (own.length + 2 ^ 32 + if o.done then 2 ^ 33 else 0)))
      (bound.prepared h.thread rfl rfl rfl rfl) bound.obj
    exact ⟨_, t', exec_wlstat_runs bound bind h live, goes, there⟩

/-- Settles O47: LAUNCH, QTOK, and work lists. -/
theorem workForms : Obligations.WorkForms := ⟨deviceLaunchIsBuffered, queueTokens, workLists⟩

end Sys2Proof.Machine
end

section
/-! Settles O13: doorbells, and the entries of host queues (R374 to R377, R381). -/

namespace Sys2Proof.Machine

/-! ### Faults and kills leave the module's own record -/

theorem killWg_mdl (s : State) (w : Nat) : (killWg s w).mdl = s.mdl := by
  by_cases dead : ∀ g, s.wg w = some g → g.killed = true
  · rw [killWg_of_killed dead]
  · push Not at dead
    obtain ⟨g, hg, alive⟩ := dead
    unfold killWg
    simp only [hg, Bool.eq_false_iff.2 alive, Bool.false_eq_true, if_false]
    split_ifs <;>
    · refine Eq.trans (b := (List.foldl _ s g.groups).mdl) rfl ?_
      exact List.foldlRecOn (motive := fun u : State => u.mdl = s.mdl) _ _ rfl fun _ ih _ _ => ih

theorem endTadpole_mdl (s : State) (tid : Nat) : (endTadpole s tid).mdl = s.mdl := by
  unfold endTadpole
  split
  · rfl
  · split
    · split_ifs <;> rfl
    · rfl

theorem killCtx_mdl (s : State) (c : Nat) : (killCtx s c).mdl = s.mdl := by
  have kills : ∀ l : List Nat, (l.foldl killWg s).mdl = s.mdl := fun l =>
    List.foldlRecOn (motive := fun u : State => u.mdl = s.mdl) _ _ rfl fun u ih w _ => (killWg_mdl u w).trans ih
  refine Eq.trans (b := (List.foldl endTadpole (List.foldl killWg s _) _).mdl) rfl ?_
  exact List.foldlRecOn (motive := fun u : State => u.mdl = s.mdl) _ _ (kills _) fun u ih j _ => (endTadpole_mdl u j).trans ih

theorem raiseTrigger_mdl (s : State) (c : Nat) (x : Trigger) : (raiseTrigger s c x).mdl = s.mdl := by
  simp only [raiseTrigger]
  split_ifs <;> rfl

theorem queueSpawn_mdl (s : State) (tid : Nat) (t : Thread) (fr : FaultRec) (sys nest ntc imp : Bool) (ocause : Nat) :
    (queueSpawn s tid t fr sys nest ntc imp ocause).mdl = s.mdl := by
  unfold queueSpawn
  dsimp only
  split
  · exact killCtx_mdl ..
  · rfl

theorem mdl_ite {p : Prop} [Decidable p] {a b s : State} (ha : a.mdl = s.mdl) (hb : b.mdl = s.mdl) : (if p then a else b).mdl = s.mdl := by
  split
  · exact ha
  · exact hb

theorem takeFault_mdl (s : State) (tid : Nat) (x : Trap) (resume : Word64) : (takeFault s tid x resume).mdl = s.mdl := by
  unfold takeFault
  split
  · rfl
  · dsimp only
    split
    · refine mdl_ite (mdl_ite (raiseTrigger_mdl ..) rfl) (mdl_ite ((killCtx_mdl ..).trans ?_) (mdl_ite ?_ (queueSpawn_mdl ..)))
      · exact mdl_ite (raiseTrigger_mdl ..) rfl
      · exact (raiseTrigger_mdl ..).trans (queueSpawn_mdl ..)
    · exact (endTadpole_mdl ..).trans (queueSpawn_mdl ..)
    · exact killCtx_mdl ..

theorem engineFault_mdl (s : State) (tid : Nat) (x : Trap) : (engineFault s tid x).mdl = s.mdl := by
  unfold engineFault
  split
  · rfl
  · dsimp only
    split_ifs
    · exact takeFault_mdl ..
    · rfl
    · rfl

theorem dielWhere_mdl (s : State) (hit : Thread → Bool) : (dielWhere s hit).mdl = s.mdl :=
  List.foldlRecOn (motive := fun u : State => u.mdl = s.mdl) _ _ rfl fun u ih j _ => by
    split
    · split_ifs
      · exact ih
      · exact (engineFault_mdl ..).trans ih
    · exact ih

/-! ### A read by the work engine (R21, R64, R376) -/

/-- A request leaves what tiles are lost, and changes no more than a context's touched tiles where the tile of the address is there. -/
theorem requestCtx_mdl (s : State) (c : Nat) (x : Xl) (again : Bool) : (requestCtx s c x again).mdl = s.mdl := by
  unfold requestCtx
  dsimp only
  split_ifs
  · exact dielWhere_mdl ..
  · rfl

theorem requestCtx_there {s : State} {x : Xl} (there : s.tileLost x = false) (c : Nat) (again : Bool) :
    requestCtx s c x again = s.touch c x := by
  unfold requestCtx
  dsimp only
  rw [show (s.touch c x).tileLost x = s.tileLost x from rfl, there]
  rfl

/-- What a read by the work engine leaves as it was. -/
structure EngineRead (s u : State) : Prop where
  parts : u.parts = s.parts
  ctx : ∀ d, ∃ tdm, u.ctx d = { s.ctx d with tdm := tdm }

theorem EngineRead.touch (s : State) (c : Nat) (x : Xl) : EngineRead s (s.touch c x) where
  parts := rfl
  ctx d := by
    rw [State.touch, State.ctx_modCtx]
    split_ifs with here
    · exact ⟨_, by rw [here]⟩
    · exact ⟨_, rfl⟩

theorem EngineRead.of_eq {s u v : State} (h : EngineRead s u) (parts : v.parts = u.parts) (ctxs : v.ctxs = u.ctxs) : EngineRead s v where
  parts := parts.trans h.parts
  ctx d := by rw [State.ctx, ctxs]; exact h.ctx d

theorem hostGiveUp_keeps (s : State) (key : Nat) : (hostGiveUp s key).parts = s.parts ∧ (hostGiveUp s key).ctxs = s.ctxs := by
  unfold hostGiveUp
  split <;> exact ⟨rfl, rfl⟩

/-- A block that can be read is on no lost tile. -/
theorem recordBlock_read {s u : State} {c va : Nat} {b : List Byte} (read : recordBlock s c va = (u, some b)) : EngineRead s u := by
  unfold recordBlock at read
  split_ifs at read
  · cases read
  · split at read
    · cases read
    next x _ =>
      dsimp only at read
      have lost : (requestCtx s c x true).tileLost x = s.tileLost x := by unfold State.tileLost; rw [requestCtx_mdl]
      rw [lost] at read
      by_cases bad : (!reRd x.e || s.tileLost x) = true
      · rw [if_pos bad] at read
        cases read
      · rw [if_neg bad] at read
        have there : s.tileLost x = false := (Bool.or_eq_false_iff.1 (Bool.eq_false_iff.2 bad)).2
        rw [requestCtx_there there] at read
        split at read
        · obtain ⟨parts, ctxs⟩ := hostGiveUp_keeps (s.touch c x) (hostKey x)
          cases read
          exact (EngineRead.touch s c x).of_eq parts ctxs
        · split at read
          · cases read
            exact EngineRead.touch s c x
          · obtain rfl := (Prod.ext_iff.1 read).1
            exact EngineRead.touch s c x

/-- An entry that is well formed could be read. -/
theorem headEntry_read {s : State} {c q kind r : Nat} {arg : Word64} {irq : Bool} (ok : (headEntry s c q).2 = .ok kind arg r irq) :
    EngineRead s (headEntry s c q).1 := by
  unfold headEntry at ok ⊢
  dsimp only at ok ⊢
  split at ok
  next u b read =>
    exact recordBlock_read read
  next => cases ok

/-! ### The entry at a queue's head -/

section
variable {s : State} {c q : Nat} (ready' : queueReady s c q = true) {u : State}
include ready'

theorem onEntry_good {kind r : Nat} {arg : Word64} {irq : Bool} (head : headEntry s c q = (u, .ok kind arg r irq))
    (g : State → Word64 → Nat → Bool → State) : onEntry s c q kind g = g u arg r irq := by
  unfold onEntry
  rw [ready', head]
  simp only [Bool.not_true, Bool.false_eq_true, if_false, if_true]

theorem onEntry_bad {irq : Bool} (head : headEntry s c q = (u, .bad irq)) (want : Nat) (g : State → Word64 → Nat → Bool → State) :
    onEntry s c q want g = takeEntry u c q irq (some 5) none := by
  unfold onEntry
  rw [ready', head]
  rfl

end

/-- What the taking of an entry makes of its queue. -/
def Queue.taken (x : Queue) (irq : Bool) (status pend : Option Nat) : Queue :=
  { x with head := x.head + 1, pend := pend, entries := x.entries ++ [{ seq := x.head, irq := irq, status := status }] }

theorem takeEntry_queue (s : State) (c q : Nat) (irq : Bool) (status pend : Option Nat) :
    ((takeEntry s c q irq status pend).ctx c).queue q = ((s.ctx c).queue q).taken irq status pend := State.queue_modQueue_self ..

theorem takeEntry_token (s : State) (c q : Nat) (irq : Bool) (status pend : Option Nat) (k i : Nat) :
    (takeEntry s c q irq status pend).token k i = s.token k i := rfl

/-- A token that the host signals has the host as its producer. -/
theorem signalToken_host (s : State) (key i : Nat) :
    signalToken s key i [none] = s.setToken key i (tokOf 4 0 (tokCnt (s.token key i) + 1)) := by
  have feet : ∀ fk fid, mergeFeet fk fid [none] = (4, 0) := fun fk fid => rfl
  unfold signalToken
  dsimp only
  rw [feet]

/-- How far a doorbell value lies ahead of a queue's HEAD. -/
def Queue.ahead (x : Queue) (v : Word64) : Nat := (v.toNat % 2 ^ 32 + 2 ^ 32 - x.head % 2 ^ 32) % 2 ^ 32

/-- Settles O13: doorbells, and each kind of entry at a queue's head. -/
theorem queueEntriesAreTaken : Obligations.QueueEntriesAreTaken := by
  intro s c q hc hq x key
  refine ⟨fun v => fun ready' sized fits after => ?_, fun v => fun out => ?_, fun kind arg r irq ready' ok => ?_, fun irq ready' bad => ?_⟩
  · refine ⟨_, exec_qtailDoorbell_inRange s hc hq v, ?_, ?_, ?_⟩
    all_goals
      unfold doorbell
      dsimp only
      rw [if_neg (by simp only [ready', show ((s.ctx c).queue q).sized = true from sized]; simpa using ⟨fits, after⟩)]
    · exact State.queue_modQueue_self ..
    · rfl
    · rfl
  · rw [exec_qtailDoorbell_inRange s hc hq v]
    unfold doorbell
    dsimp only
    refine congrArg Host.Outcome.next (if_pos ?_)
    simp only [Bool.or_eq_true, Bool.not_eq_true', decide_eq_true_eq, Queue.sized, Bool.and_eq_false_iff, decide_eq_false_iff_not, not_le]
    change ((s.mready = false ∨ x.log2n < 4 ∨ 16 < x.log2n) ∨ 2 ^ x.log2n < x.ahead v) ∨ x.head + x.ahead v < x.tail
    change 2 ^ x.log2n < x.ahead v ∨ x.head + x.ahead v < x.tail ∨ _ at out
    tauto
  · intro s1 took held
    have head : headEntry s c q = (s1, .ok kind arg r irq) := Prod.ext rfl ok
    have read : EngineRead s s1 := headEntry_read ok
    obtain ⟨tdm, ctx⟩ := read.ctx c
    have queue : (s1.ctx c).queue q = x := by rw [ctx]; rfl
    have key' : (s1.ctx c).key = key := by rw [ctx]; rfl
    have token : ∀ k i, s1.token k i = s.token k i := fun k i => by unfold State.token State.part; rw [read.parts]
    have drained : queueDrained s1 c q = x.entries.isEmpty := by unfold queueDrained; rw [queue]
    have takes : ∀ {i status pend}, exec i s = .next (takeEntry s1 c q irq status pend) → took i status pend none := fun ran =>
      ⟨_, ran, by rw [takeEntry_queue, queue]; rfl, fun _ h => (nomatch h), fun k i _ => token k i, rfl, rfl⟩
    have sets : ∀ {i status t}, exec i s = .next (takeEntry (s1.setToken key (tokIdx arg) t) c q irq status none) →
        took i status none (some t) := fun {i status t} ran => by
      refine ⟨_, ran, ?_, fun t' h => ?_, fun k j other => ?_, rfl, rfl⟩
      · rw [takeEntry_queue, show (s1.setToken key (tokIdx arg) t).ctx c = s1.ctx c from rfl, queue]; rfl
      · rw [takeEntry_token, State.token_setToken_self, Option.some.inj h]
      · rw [takeEntry_token, State.token_setToken _ _ _ _ (other.resolve_left (by simp)), token]
    refine ⟨?_, ?_, ?_, ?_, ?_, ?_, ?_⟩
    · rintro rfl
      exact takes (by rw [exec_entryLaunch, execEntryLaunch, onEntry_good ready' head])
    · rintro rfl empty
      refine sets ?_
      rw [exec_entrySignalToken, execEntrySignalToken, onEntry_good ready' head, drained, empty, key', signalToken_host, token]
      rfl
    · rintro rfl some'
      rw [exec_entrySignalToken, execEntrySignalToken, onEntry_good ready' head, drained, if_pos (by simpa using some')]
    · rintro rfl satisfied
      refine takes ?_
      rw [exec_entryWaitToken, execEntryWaitToken, onEntry_good ready' head, key', token, satisfied]
      rfl
    · rintro rfl open'
      rw [exec_entryWaitToken, execEntryWaitToken, onEntry_good ready' head, key', token, open']
      rfl
    · rintro rfl empty
      refine sets ?_
      rw [exec_entryResetToken, execEntryResetToken, onEntry_good ready' head, drained, empty, key']
      rfl
    · rintro rfl some'
      rw [exec_entryResetToken, execEntryResetToken, onEntry_good ready' head, drained, if_pos (by simpa using some')]
  · intro s1 y i hi
    have head : headEntry s c q = (s1, .bad irq) := Prod.ext rfl bad
    have taken : exec i s = .next (takeEntry s1 c q irq (some 5) none) := by
      simp only [List.mem_cons, List.not_mem_nil, or_false] at hi
      rcases hi with rfl | rfl | rfl | rfl
      · rw [exec_entryLaunch, execEntryLaunch, onEntry_bad ready' head]
      · rw [exec_entrySignalToken, execEntrySignalToken, onEntry_bad ready' head]
      · rw [exec_entryWaitToken, execEntryWaitToken, onEntry_bad ready' head]
      · rw [exec_entryResetToken, execEntryResetToken, onEntry_bad ready' head]
    exact ⟨_, taken, takeEntry_queue ..⟩

end Sys2Proof.Machine
end

section
/-! Settles O19: a host write that enables no byte of a clean sector sends the sector home without its data (R294, R438). -/

namespace Sys2Proof.Machine

/-- A host port's agent holds every token of sector 0, clean; nothing is under way. -/
def cleanAtPort : State :=
  { State.reset with
    mdl := { Module.reset with mstatus := 1 },
    mem := { MemSys.reset with l2 := [(l2key 84 0,
      { t64 := false, n := 8, o := true, v := true, d := false, data := [], poi := false, ser := 0, wok := true, rg := false })] } }

/-- The messages under way after a step that goes on, each with whether it carries data. -/
def dataUnderWay : Host.Outcome State Fault Refusal → Option (List (Nat × Bool))
  | .next u => some (u.mem.net.map fun p => (p.1, p.2.dat))
  | _ => none

theorem cleanAtPort_write : dataUnderWay (exec (.cxlMemWrite 0 0 0 []) cleanAtPort) = some [(0, false)] := by decide +kernel

/-- Refutes O19: the message that takes the clean sector home after a write of no byte has no data. -/
theorem not_hostReachesMemory : ¬ Obligations.HostReachesMemory := by
  intro claim
  obtain ⟨-, -, -, write, -⟩ := claim cleanAtPort 0 0 0 [] (by decide) (by decide) rfl
  obtain ⟨u, id, m, ran, -, there, -, -, -, -, dat, -⟩ := write (by decide +kernel) (by decide +kernel) (by decide +kernel)
    (by decide +kernel) (by decide +kernel)
  have net := cleanAtPort_write
  rw [ran, dataUnderWay, Option.some_inj] at net
  have member : (id, m.dat) ∈ [(0, false)] := net ▸ List.mem_map.2 ⟨(id, m), mem_of_nget there, rfl⟩
  simp [dat] at member

end Sys2Proof.Machine
end

section
/-! Settles O55: the expansion that a window read brings to a full slice gives up another line, whose loss a monitor may see (R254,
R293, R308). -/

namespace Sys2Proof.Machine

/-! ### Sectors of one slice -/

/-- Whatever the hash of slices is, a sector shares its slice with more others than a slice holds. -/
theorem exists_full_slice : ∃ (p : Nat) (rest : List Nat), p ∉ rest ∧ sliceSectors < rest.length + 1 ∧ p < 2 ^ 30 ∧
    ∀ x ∈ rest, x < 2 ^ 30 ∧ sliceOfSector x = sliceOfSector p := by
  have fits : ∀ x ∈ Finset.range (2 ^ 30), sliceOfSector x ∈ Finset.range 64 := fun x _ =>
    Finset.mem_range.2 (Nat.mod_lt _ (by decide))
  obtain ⟨σ, -, many⟩ := Finset.exists_lt_card_fiber_of_mul_lt_card_of_maps_to (n := sliceSectors + 1) fits
    (by rw [Finset.card_range, Finset.card_range, sliceSectors]; norm_num)
  have listed : ∀ x, x ∈ ((Finset.range (2 ^ 30)).filter fun x => sliceOfSector x = σ).toList ↔ x < 2 ^ 30 ∧ sliceOfSector x = σ :=
    fun x => by rw [Finset.mem_toList, Finset.mem_filter, Finset.mem_range]
  have distinct := ((Finset.range (2 ^ 30)).filter fun x => sliceOfSector x = σ).nodup_toList
  rw [← Finset.length_toList] at many
  generalize ((Finset.range (2 ^ 30)).filter fun x => sliceOfSector x = σ).toList = sectors at listed distinct many
  cases sectors with
  | nil => exact (Nat.not_lt_zero _ many).elim
  | cons p rest =>
    obtain ⟨small, slice⟩ := (listed p).1 List.mem_cons_self
    refine ⟨p, rest, (List.nodup_cons.1 distinct).1, ?_, small, fun x hx => ?_⟩
    · rw [List.length_cons] at many
      omega
    · obtain ⟨small', slice'⟩ := (listed x).1 (List.mem_cons_of_mem p hx)
      exact ⟨small', slice'.trans slice.symm⟩

/-! ### A die whose slice is full -/

/-- A clean line with one token. -/
def oneToken : TokLine :=
  { t64 := false, n := 1, o := false, v := true, d := false, data := [], poi := false, ser := 0, wok := false, rg := false }

/-- A monitor armed for the loss of a sector by die 0. -/
def lossMonitor (x : Nat) : Monitor := { space := 0, addr := 64 * x, place := x, die := 0, armed := true, fired := false }

/-- A thread of die 1 with such a monitor for each sector of a list. -/
def watcher (l : List Nat) : Thread :=
  { Thread.start .group 0 0 64 0 0 0 0 with mons := l.map fun x => (x, lossMonitor x) }

/-- Die 0 holds the sectors of a list, and has asked for the expansion of sector `p` of window 0. -/
def fullSlice (p : Nat) (rest : List Nat) : State :=
  { State.reset with
    mem := { MemSys.reset with l2 := rest.map fun x => (l2key 0 x, oneToken), winReq := [l2key 0 p],
                               wins := [(0, { Window.reset with ctl := 1, exl := 1, exb := BitVec.ofNat 64 (64 * p) })] },
    thr := [(0, watcher rest)] }

/-- As `fullSlice`, with the expansion come. -/
def expanded (p : Nat) (rest : List Nat) (d : List Byte × Bool) : State :=
  (fullSlice p rest).modMem fun m => { m with winReq := [], copies := [(l2key 0 p, d)] }

theorem dieThreads_fullSlice {p : Nat} {rest : List Nat} : dieThreads (fullSlice p rest) 0 = [] := by
  rw [dieThreads, fullSlice, List.filter_cons_of_neg (by change ¬ decide (dieOf 64 = 0) = true; decide)]
  rfl

section
variable {p : Nat} {rest : List Nat} (small : p < 2 ^ 30)
include small

theorem winOf_fullSlice : (fullSlice p rest).winOf p = some 0 := by
  have base : bits (BitVec.ofNat 64 (64 * p)) 47 0 / 64 = p := by
    rw [bits_eq, BitVec.toNat_ofNat]
    omega
  have covers : (((fullSlice p rest).win 0).covers p) = true := by
    change ((1 : Word64).getLsbD 0 && decide (bits (BitVec.ofNat 64 (64 * p)) 47 0 / 64 ≤ p) &&
      decide (p < bits (BitVec.ofNat 64 (64 * p)) 47 0 / 64 + bits (1 : Word64) 33 0)) = true
    rw [base, show bits (1 : Word64) 33 0 = 1 by decide]
    simp
  rw [State.winOf, List.range_eq_range', List.range'_succ, List.find?_cons_of_pos (p := fun w => ((fullSlice p rest).win w).covers p) covers]

theorem exec_windowSectorRead_fullSlice : exec (.windowSectorRead 0 p) (fullSlice p rest) =
    .next (evictOne (expanded p rest (expandSector (fullSlice p rest) ((fullSlice p rest).win 0) p)) 0 p) := by
  have asked : (fullSlice p rest).mem.winReq.contains (l2key 0 p) = true := by simp [fullSlice]
  have filtered : (fullSlice p rest).modMem (fun m => { m with winReq := m.winReq.filter (· ≠ l2key 0 p) }) =
      (fullSlice p rest).modMem fun m => { m with winReq := [] } := by simp [fullSlice, State.modMem]
  have window : State.winOf ((fullSlice p rest).modMem fun m => { m with winReq := [] }) p = some 0 :=
    winOf_fullSlice (rest := rest) small
  rw [exec_windowSectorRead, execWindowSectorRead, asked, filtered]
  dsimp only [Bool.not_true]
  rw [if_neg (by decide), window]
  dsimp only
  change Host.Outcome.next ((dieThreads (fullSlice p rest) 0).foldl advanceAll _) = _
  rw [dieThreads_fullSlice]
  rfl

end

/-! ### What the expansion displaces -/

section
variable {p : Nat} {rest : List Nat} (small : p < 2 ^ 30)
  (held : ∀ x ∈ rest, x < 2 ^ 30 ∧ sliceOfSector x = sliceOfSector p) (d : List Byte × Bool)
include small held

theorem sliceHeld_expanded : sliceHeld (expanded p rest d) 0 (sliceOfSector p) = rest ++ [p] := by
  have lines : (expanded p rest d).mem.l2 = rest.map fun x => (l2key 0 x, oneToken) := rfl
  have copies : (expanded p rest d).mem.copies = [(l2key 0 p, d)] := rfl
  have hosts : (expanded p rest d).mem.hostLines = [] := rfl
  have key : ∀ x < 2 ^ 30, l2key 0 x / 2 ^ 80 = 0 ∧ l2key 0 x % 2 ^ 80 = x := fun x hx => by
    unfold l2key
    omega
  rw [sliceHeld, lines, copies, hosts, List.filterMap_map]
  simp only [List.filterMap_cons, List.filterMap_nil, key p small, decide_true, Bool.and_self, if_true, List.append_nil]
  congr 1
  refine (List.filterMap_congr fun x hx => ?_).trans List.filterMap_some
  obtain ⟨small', slice⟩ := held x hx
  obtain ⟨agent, place⟩ := key x small'
  rw [Function.comp_apply]
  dsimp only
  rw [if_neg (show ¬ oneToken.n = 0 by decide), agent, place, slice]
  simp

theorem evictOne_expanded (distinct : p ∉ rest) (many : sliceSectors < rest.length + 1) :
    ∃ x ∈ rest, evictOne (expanded p rest d) 0 p = writeBack (expanded p rest d) 0 x := by
  have may : (rest ++ [p]).filter (fun x => x ≠ p && !heldAt (expanded p rest d) 0 x &&
      (nget (expanded p rest d).mem.trans (l2key 0 x)).isNone) = rest := by
    rw [List.filter_append, List.filter_eq_self.2 fun x hx => ?_]
    · simp
    · have other : x ≠ p := fun eq => distinct (eq ▸ hx)
      have free : heldAt (expanded p rest d) 0 x = false := rfl
      have idle : (nget (expanded p rest d).mem.trans (l2key 0 x)).isNone = true := rfl
      rw [free, idle, decide_eq_true other]
      rfl
  have full : ¬ (rest ++ [p]).length ≤ sliceSectors := by
    rw [List.length_append, List.length_singleton]
    omega
  have lines : ¬ (expanded p rest d).lineCount ≤ sliceSectors := by
    have count : (expanded p rest d).lineCount = (rest.map fun x => (l2key 0 x, oneToken)).length + 1 + 0 := rfl
    rw [count, List.length_map]
    omega
  have some_ : 0 < rest.length := by
    rw [sliceSectors] at many
    omega
  have pick : Config.victim (expanded p rest d).env.freeCtr % rest.length < rest.length := Nat.mod_lt _ some_
  refine ⟨_, List.getElem_mem pick, ?_⟩
  have member := List.getElem_mem pick
  rw [evictOne, if_neg lines]
  dsimp only
  rw [sliceHeld_expanded small held d, if_neg full, may, List.getElem?_eq_getElem pick]
  dsimp only
  generalize rest[Config.victim (expanded p rest d).env.freeCtr % rest.length] = x at member
  obtain ⟨small', -⟩ := held x member
  have other : ¬ l2key 0 p = l2key 0 x := fun eq => distinct (Nat.add_left_cancel eq ▸ member)
  have copy : nget (expanded p rest d).mem.copies (l2key 0 x) = none := by
    change (if l2key 0 p = l2key 0 x then some d else none) = none
    rw [if_neg other]
  rw [if_neg (by unfold hostPlace; omega), copy]
  rfl

end

theorem nget_lines {x : Nat} : ∀ {l : List Nat}, x ∈ l → nget (l.map fun y => (l2key 0 y, oneToken)) (l2key 0 x) = some oneToken
  | y :: l, mem => by
    rw [List.map_cons, nget]
    split_ifs with same
    · rfl
    · have other : x ≠ y := fun eq => same (by rw [eq])
      exact nget_lines (List.mem_of_ne_of_mem other mem)

/-- A watched loss is seen. -/
theorem watcher_fired {x : Nat} {l : List Nat} (mem : x ∈ l) :
    (watcher l).fired (fun m => m.space ≠ 1 && m.place = x && m.die = 0) ≠ watcher l := by
  intro same
  have watched : (x, lossMonitor x) ∈ (watcher l).mons := List.mem_map_of_mem mem
  have hit : (watcher l).mons.any (fun q => q.2.armed && (q.2.space ≠ 1 && q.2.place = x && q.2.die = 0)) = true :=
    List.any_eq_true.2 ⟨_, watched, by simp [lossMonitor]⟩
  rw [Thread.fired, if_pos hit] at same
  have gone : (x, { lossMonitor x with fired := true }) ∈ (watcher l).mons := by
    rw [← congrArg Thread.mons same]
    refine List.mem_map.2 ⟨_, watched, ?_⟩
    simp [lossMonitor]
  obtain ⟨y, -, eq⟩ := List.mem_map.1 gone
  exact Bool.false_ne_true (congrArg (fun q => q.2.fired) eq)

/-- The loss of a sector that a watched die gives up is seen. -/
theorem writeBack_expanded_seen {p x : Nat} {rest : List Nat} (d : List Byte × Bool) (mem : x ∈ rest) :
    (writeBack (expanded p rest d) 0 x).thr ≠ (fullSlice p rest).thr := by
  have line : (expanded p rest d).line 0 x = oneToken := by
    have lines : (expanded p rest d).mem.l2 = rest.map fun y => (l2key 0 y, oneToken) := rfl
    rw [State.line, lines, ngetD, nget_lines mem]
    rfl
  have seen : (writeBack (expanded p rest d) 0 x).thr =
      [(0, (watcher rest).fired fun m => m.space ≠ 1 && m.place = x && m.die = 0)] := by
    rw [writeBack, line]
    dsimp only
    rw [if_neg (by decide), State.putLine, line]
    rfl
  intro same
  have thread : [(0, (watcher rest).fired fun m => m.space ≠ 1 && m.place = x && m.die = 0)] = [(0, watcher rest)] := seen.symm.trans same
  exact watcher_fired mem (congrArg Prod.snd (List.head_eq_of_cons_eq thread))

/-- Refutes O55: the expansion of a window's sector goes to a slice that is full, the slice gives up the last token of another sector
(R293), and the loss fires the monitor that a thread of another die has armed there (R254): WINDOW_SECTOR_READ changes a thread, which
the clause about it in `Claims.FormatWindows` excludes. -/
theorem not_scrubAndWindows : ¬ Obligations.ScrubAndWindows := by
  unfold Obligations.ScrubAndWindows
  rintro ⟨-, windows⟩
  obtain ⟨p, rest, distinct, many, small, held⟩ := exists_full_slice
  obtain ⟨-, -, -, read⟩ := windows (fullSlice p rest) 0 0
  have asked : (fullSlice p rest).mem.winReq.contains (l2key 0 p) = true := by simp [fullSlice]
  obtain ⟨u, run, -, -, -, kept⟩ := read 0 p asked (winOf_fullSlice small) dieThreads_fullSlice
  obtain ⟨x, mem, evicts⟩ := evictOne_expanded small held (expandSector (fullSlice p rest) ((fullSlice p rest).win 0) p) distinct many
  rw [exec_windowSectorRead_fullSlice small, evicts] at run
  cases run
  exact writeBack_expanded_seen _ mem kept

end Sys2Proof.Machine
end

section
/-! Settles O57: commands whose numbers are not distinct, of which the loss of a peer cuts the wrong one before it is judged (R341,
R346). -/

namespace Sys2Proof.Machine

/-- A BXMC of one packet, not yet injected, whose packets have a transfer number. -/
def waitingBxmc (xid : Nat) : FabCmd :=
  { id := 0, tid := 0, ctx := 0, cu := 0, seq := 0, kind := 2, w0 := 0, w1 := 0, w2 := 0, w3 := 0, xid := xid, total := 1, sent := 0,
    left := [0], fail := 0, failAddr := 0, counted := 0, bitmap := 0, held := none, stepped := false, wo := false, wrote := 0 }

/-- Two commands stand under number 0. Module 5, the one member of their group, has been in recovery for 2 s; a packet of the second
command toward it has no acknowledgement. -/
def sharedNumber : State :=
  { State.reset with
    env := { State.reset.env with clk := nsToClk 2000000000 },
    parts := [(0, { Part.reset with groups := [(0, { McGroup.reset with ctl := 129, live := [(0, 5)] })] })],
    fab := { State.reset.fab with
      peers := [(5, .recov 0)], cmds := [(0, waitingBxmc 0), (0, waitingBxmc 1)],
      unacked := [{ pkt := { Packet.blank with dmod := 5, xid := 1 }, since := 0, inj := true, sw := false }] } }

/-- The bitmap of the command under a number after a step that goes on. -/
def bitmapAfter (id : Nat) : Host.Outcome State Fault Refusal → Option Word64
  | .next u => (nget u.fab.cmds id).map (·.bitmap)
  | _ => none

theorem sharedNumber_peerLost : bitmapAfter 0 (exec (.peerLost 5) sharedNumber) = some 0 := by decide +kernel

/-- Refutes O57: the lost packet of the second command under number 0 cuts the first, which is then over and keeps an empty bitmap, though
the lost module is a member of its group. -/
theorem not_fabricTime : ¬ Obligations.FabricTime := by
  rintro ⟨claim, -⟩
  obtain ⟨-, -, -, back, -⟩ := claim sharedNumber
  obtain ⟨-, lost⟩ := back 5 0 rfl
  obtain ⟨u, ran, -, -, multi⟩ := lost (by decide +kernel) rfl
  obtain ⟨c, here, -, -, marked⟩ := multi 0 (waitingBxmc 0) rfl rfl (by decide +kernel) rfl (by decide +kernel) (by decide +kernel)
    (by decide +kernel)
  have bitmap := sharedNumber_peerLost
  rw [ran, bitmapAfter, here, Option.map_some, Option.some_inj] at bitmap
  rw [bitmap] at marked
  exact absurd marked (by decide +kernel)

end Sys2Proof.Machine
end

section
/-! Settles O9: a system atomic whose header names a length of two pages touches a second context, which a table of contexts out of
order then finds first (R21, R38, R316). -/

namespace Sys2Proof.Machine

/-- A readable and writable range entry: pages of host memory from a virtual page on. -/
def hostRange (vpage pages ppage : Nat) : Nat :=
  2 * 2 ^ 244 + ppage * 2 ^ 140 + pages * 2 ^ 64 + 7 * 2 ^ 229 + vpage * 2 ^ 12

/-- An atomic add of 0 to four bytes at the end of page 7; its length reaches into page 8. -/
def longAtomic : Packet :=
  sealed { Packet.blank with pkind := 7, smod := 9, daddr := 0x7FC0, len := 65, ty := 1 }

/-- Contexts 5 and 3, in this order, with one key: 5 maps page 7 to itself, 3 maps pages 7 and 8 to the pages from 0x100 on. -/
def outOfOrder : State :=
  { State.reset with
    ctxs := [(5, { Ctx.reset with rtbase := 0x4000, rtcnt := 1 }), (3, { Ctx.reset with rtbase := 0x5000, rtcnt := 1 })],
    mem := { MemSys.reset with
      dram := Memory.setBytes (Memory.setBytes [] 0x4000 (leBytes 32 (hostRange 7 1 7))) 0x5000 (leBytes 32 (hostRange 7 2 0x100)),
      hostMem := [(0x7FC0, 1)] } }

/-- What the packets sent by a step that goes on carry. -/
def payloadsOut : Host.Outcome State Fault Refusal → Option (List (List Byte))
  | .next u => some (u.fab.out.map (·.payload))
  | _ => none

theorem outOfOrder_atomic : payloadsOut (exec (.systemAccessPacket longAtomic) outOfOrder) = some [[0, 0, 0, 0]] := by decide +kernel

theorem outOfOrder_old : Memory.bytes outOfOrder.mem.hostMem 0x7FC0 4 = [1, 0, 0, 0] := by decide +kernel

theorem newPacket_longAtomic : NewPacket outOfOrder longAtomic :=
  ⟨rfl, by decide, rfl, rfl, by decide +kernel, by decide +kernel, fun since => by simp [outOfOrder, State.reset, Fabric.reset], rfl⟩

/-- Refutes O9: noting that page 8 is touched puts context 3 before context 5, and the atomic is performed under context 3's translation,
not under that of the first context of the key. -/
theorem not_fabricPortsPerformPackets : ¬ Obligations.FabricPortsPerformPackets := by
  intro claim
  obtain ⟨-, performed⟩ := claim outOfOrder longAtomic ⟨hostRange 7 1 7, 0x7FC0⟩ newPacket_longAtomic
  obtain ⟨-, -, -, -, atomic⟩ := performed (by decide +kernel) (by decide +kernel) (by decide +kernel) (by decide +kernel)
    (by decide +kernel) (by decide +kernel)
  obtain ⟨u, ran, ⟨⟨r, out, -, -, payload, -⟩, -⟩, -⟩ := atomic (by decide +kernel) (by decide +kernel) (by decide +kernel)
  have sent := outOfOrder_atomic
  have old : r.payload = [1, 0, 0, 0] := payload.trans outOfOrder_old
  rw [ran, payloadsOut, out, Option.some_inj, List.map_append, List.map_singleton, old] at sent
  exact absurd sent (by decide)

end Sys2Proof.Machine
end

section
/-! For O10: replies end the commands of the fabric, or leave their failure in them (R334, R338, R341). -/

namespace Sys2Proof.Machine

/-! ### The end of a command -/

theorem FabCmd.cut_of_sent {c : FabCmd} (all : c.total ≤ c.sent) : c.cut = c := by
  rw [FabCmd.cut, if_pos (by simp [all])]

/-- What a reply changes of a command. -/
def FabCmd.replied (c : FabCmd) (gone : List Nat) (fail : Nat) (addr : Word64) (counted : Nat) : FabCmd :=
  FabCmd.cut { c with
    left := c.left.filter fun k => !gone.contains k, fail := if c.fail = 0 then fail else c.fail,
    failAddr := if c.fail = 0 && fail ≠ 0 then addr else c.failAddr, counted := max c.counted counted }

theorem replyCmd_eq {s : State} {id : Nat} {c : FabCmd} (here : nget s.fab.cmds id = some c) (gone : List Nat) (fail : Nat)
    (addr : Word64) (counted : Nat) : replyCmd s id gone fail addr counted =
      if ((c.replied gone fail addr counted).isOver && (c.replied gone fail addr counted).fail = 0) = true then
        endCmd (s.modCmd id fun c => c.replied gone fail addr counted) (c.replied gone fail addr counted)
      else s.modCmd id fun c => c.replied gone fail addr counted := by
  have after : nget (s.modCmd id fun c => c.replied gone fail addr counted).fab.cmds id = some (c.replied gone fail addr counted) := by
    change nget (nmod s.fab.cmds id _) id = _
    rw [nget_nmod_self, here, Option.map_some]
  change checkCmd (s.modCmd id fun c => c.replied gone fail addr counted) id = _
  rw [checkCmd, after]

/-- What the end of a command changes of its thread. -/
def FabCmd.endedIn (c : FabCmd) (t : Thread) : Thread :=
  { (t.countDown 2) with
    fOpen := t.fOpen.filter (· ≠ c.seq), fpstat := if c.wo then raiseFlags t.fpctl t.fpstat (flagWO + flagOF) else t.fpstat }

section
variable {s : State} {id : Nat} {c : FabCmd} {t : Thread}

theorem endCmd_eq (noArrival : c.kind ≠ 1 ∨ c.fail ≠ 0) :
    endCmd s c = (regEnd (s.modFab fun x => { x with cmds := nerase x.cmds c.id }) c.id).modThread c.tid c.endedIn := by
  have none' : (c.kind = 1 && c.len = 0 && c.fail = 0 && c.w3 ≠ 0) = false := by
    rcases noArrival with kind | fail
    · simp [kind]
    · simp [fail]
  rw [endCmd, none']
  rfl

theorem thread_endCmd (noArrival : c.kind ≠ 1 ∨ c.fail ≠ 0) (ht : s.thread c.tid = some t) :
    (endCmd s c).thread c.tid = some (c.endedIn t) := by
  rw [endCmd_eq noArrival, State.thread_modThread, if_pos rfl]
  exact congrArg (Option.map _) ht

theorem endCmd_ends (noArrival : c.kind ≠ 1 ∨ c.fail ≠ 0) (name : c.id = id) (ht : s.thread c.tid = some t) :
    CommandEnds s (endCmd s c) id c t := by
  refine ⟨?_, ⟨_, thread_endCmd noArrival ht, rfl, rfl, rfl, rfl⟩, fun j hj => ?_, ?_, ?_, ?_⟩ <;> rw [endCmd_eq noArrival]
  · change nget (nerase s.fab.cmds c.id) id = none
    rw [nget_nerase, if_pos name.symm]
  · rw [State.thread_modThread, if_neg hj]
    rfl
  all_goals rfl

end

theorem CommandEnds.transfer {s s0 u : State} {id : Nat} {c c0 : FabCmd} {t : Thread} (e : CommandEnds s u id c t) (thr : s.thr = s0.thr)
    (mem : s.mem = s0.mem) (wgs : s.wgs = s0.wgs) (tid : c.tid = c0.tid) (seq : c.seq = c0.seq) : CommandEnds s0 u id c0 t := by
  obtain ⟨gone, own, others, dram, hostMem, groups⟩ := e
  rw [tid, seq] at own
  rw [mem] at dram hostMem
  exact ⟨gone, own, fun j hj => (others j (tid ▸ hj)).trans (congrArg (nget · j) thr), dram, hostMem, groups.trans wgs⟩

/-! ### Replies that name a command -/

section
variable {s : State} {id : Nat} {c : FabCmd} {t : Thread} {p : Packet}

/-- A command is found under its transfer number among those that satisfy what it does. -/
theorem find_transfer (cmd : Command s id c t) {g : FabCmd → Bool} (hit : g c = true) :
    (s.fab.cmds.find? fun q => q.2.xid = c.xid && g q.2) = some (id, c) := by
  cases found : s.fab.cmds.find? fun q => q.2.xid = c.xid && g q.2 with
  | none => simpa [hit] using List.find?_eq_none.1 found (id, c) (mem_of_nget cmd.here)
  | some q =>
    have named := List.find?_some found
    rw [Bool.and_eq_true, decide_eq_true_eq] at named
    rw [cmd.only q (List.mem_of_find?_eq_some found) (.inl named.1)]

/-- A packet of this module's has been taken out of those that have left, and what it acknowledges is not kept any more. -/
def heard (s : State) (p : Packet) : State := acked (s.modFab fun x => { x with out := x.out.filter (· ≠ p) }) p.xid p.pseq

theorem exec_acknowledgement_command (cmd : Command s id c t) (mine : p.dmod = s.mdl.number) (sound : p.pcrc = packetCrc p)
    (young : expired s p = false) (kind : p.pkind = 8) (direct : c.direct = true) (xid : p.xid = c.xid) :
    exec (.acknowledgement p) s = .next (replyCmd (heard s p) id [p.pseq] p.status p.daddr p.opB.toNat) := by
  have found : (heard s p).fab.cmds.find? (fun q => q.2.xid = p.xid && q.2.direct) = some (id, c) := by
    rw [xid]
    exact find_transfer cmd direct
  rw [exec_acknowledgement, execAcknowledgement, if_neg (by simp [kind, mine]), if_neg (by simp [sound, young])]
  dsimp only
  rw [show (s.modFab fun x => { x with out := x.out.filter (· ≠ p) }).fab.merges = [] from cmd.noMerge,
    show (s.modFab fun x => { x with out := x.out.filter (· ≠ p) }).fab.sysReq = [] from cmd.noSys]
  change (match (heard s p).fab.cmds.find? (fun q => q.2.xid = p.xid && q.2.direct) with | some (id, _) => _ | none => _) = _
  rw [found]
  rfl

theorem exec_mergedAcknowledgement_command (cmd : Command s id c t) (mine : p.dmod = s.mdl.number) (sound : p.pcrc = packetCrc p)
    (young : expired s p = false) (kind : p.pkind = 9) (multi : c.kind = 2) (xid : p.xid = c.xid) (status : p.status = 0) :
    exec (.mergedAcknowledgement p) s = .next (replyCmd ((heard s p).modCmd id fun c => { c with bitmap := c.bitmap ||| p.bitmap })
      id [p.pseq] (if p.bitmap ≠ 0 then 1 else 0) 0 0) := by
  have found : (heard s p).fab.cmds.find? (fun q => q.2.xid = p.xid && !q.2.direct) = some (id, c) := by
    rw [xid]
    exact find_transfer cmd (g := fun q => !q.direct) (by simp [FabCmd.direct, multi])
  rw [exec_mergedAcknowledgement, execMergedAcknowledgement, if_neg (by simp [kind, mine]), if_neg (by simp [sound, young])]
  change (match (heard s p).fab.cmds.find? (fun q => q.2.xid = p.xid && !q.2.direct) with | none => _ | some (id, c) => _) = _
  rw [found]
  dsimp only
  rw [if_pos multi, status]
  rfl

end

/-! ### The last reply of a command -/

section
variable {s : State} {id k : Nat} {c : FabCmd} {t : Thread} (here : nget s.fab.cmds id = some c) (all : c.total ≤ c.sent)
  (left : c.left = [k]) (good : c.fail = 0)
include all left good

theorem replied_last (fail : Nat) (addr : Word64) (counted : Nat) : c.replied [k] fail addr counted =
    { c with left := [], fail := fail, failAddr := if fail ≠ 0 then addr else c.failAddr, counted := max c.counted counted } := by
  rw [FabCmd.replied, FabCmd.cut_of_sent (by exact all)]
  simp [left, good]

include here

theorem replyCmd_last_ends (notGet : c.kind ≠ 1) (name : c.id = id) (ht : s.thread c.tid = some t) (addr : Word64) (counted : Nat) :
    CommandEnds s (replyCmd s id [k] 0 addr counted) id c t ∧ (replyCmd s id [k] 0 addr counted).fab.out = s.fab.out ∧
      (replyCmd s id [k] 0 addr counted).fab.unacked = s.fab.unacked := by
  have reply := replied_last all left good 0 addr counted
  have ended : ((c.replied [k] 0 addr counted).isOver && (c.replied [k] 0 addr counted).fail = 0) = true := by
    rw [reply]
    simp [FabCmd.isOver, all]
  have get : (c.replied [k] 0 addr counted).kind ≠ 1 := by rwa [reply]
  rw [replyCmd_eq here, if_pos ended]
  refine ⟨CommandEnds.transfer (endCmd_ends (.inl get) ?_ ?_) rfl rfl rfl ?_ ?_, ?_, ?_⟩
  · rw [reply]
    exact name
  · rw [reply]
    exact ht
  · rw [reply]
  · rw [reply]
  · rw [endCmd_eq (.inl get)]
    rfl
  · rw [endCmd_eq (.inl get)]
    rfl

theorem replyCmd_last_fails {fail : Nat} (fails : fail ≠ 0) (addr : Word64) (counted : Nat) : ∃ g, replyCmd s id [k] fail addr counted = s.modCmd id g ∧
    g c = { c with left := [], fail := fail, failAddr := addr, counted := max c.counted counted } := by
  have reply := replied_last all left good fail addr counted
  rw [if_pos fails] at reply
  have stays : ¬((c.replied [k] fail addr counted).isOver && (c.replied [k] fail addr counted).fail = 0) = true := by
    rw [reply]
    simp [fails]
  exact ⟨fun c => c.replied [k] fail addr counted, by rw [replyCmd_eq here, if_neg stays], reply⟩

end

/-! ### O10 -/

/-- Settles O10: the last reply ends a command or leaves its failure in it, by the one command that a transfer number or a thread's sequence
number names. -/
theorem repliesEndCommands : Obligations.RepliesEndCommands := by
  intro s id c t p cmd mine sound young all
  have hereAt (u : State) (same : u.fab.cmds = s.fab.cmds) : nget u.fab.cmds id = some c := same ▸ cmd.here
  have marked : nget ((heard s p).modCmd id fun c => { c with bitmap := c.bitmap ||| p.bitmap }).fab.cmds id =
      some { c with bitmap := c.bitmap ||| p.bitmap } := by
    change nget (nmod s.fab.cmds id _) id = _
    rw [nget_nmod_self, cmd.here, Option.map_some]
  refine ⟨fun kind direct notGet xid left good status => ?_, fun kind direct xid left good status => ?_,
    fun kind multi xid left good status bitmap clean => ?_, fun kind multi xid left good status bitmap => ?_,
    fun fail left stays fresh => ?_⟩
  · have reply := replyCmd_last_ends (hereAt (heard s p) rfl) all left good notGet cmd.name cmd.thread p.daddr p.opB.toNat
    obtain ⟨ends, out, unacked⟩ := reply
    rw [exec_acknowledgement_command cmd mine sound young kind direct xid, status]
    refine ⟨_, rfl, CommandEnds.transfer (s := heard s p) ends rfl rfl rfl rfl rfl, ?_, fun y hy same => ?_⟩
    · rw [out]
      change p ∉ s.fab.out.filter (· ≠ p)
      simp
    · rw [unacked] at hy
      have kept : y ∈ s.fab.unacked.filter fun u => !(u.pkt.xid = p.xid && u.pkt.pseq = p.pseq) := hy
      simpa [same] using (List.mem_filter.1 kept).2
  · obtain ⟨g, reply, value⟩ := replyCmd_last_fails (hereAt (heard s p) rfl) all left good status p.daddr p.opB.toNat
    rw [exec_acknowledgement_command cmd mine sound young kind direct xid, reply]
    refine ⟨_, rfl, ?_, rfl, rfl⟩
    change nget (nmod s.fab.cmds id g) id = _
    rw [nget_nmod_self, cmd.here, Option.map_some, value]
  · obtain ⟨ends, -, -⟩ := replyCmd_last_ends marked all left good (by simp [multi]) cmd.name cmd.thread 0 0
    rw [exec_mergedAcknowledgement_command cmd mine sound young kind multi xid status, if_neg (by simp [bitmap])]
    exact ⟨_, rfl, CommandEnds.transfer ends rfl rfl rfl rfl rfl⟩
  · obtain ⟨g, reply, value⟩ := replyCmd_last_fails marked all left good (fail := 1) (by decide) 0 0
    rw [exec_mergedAcknowledgement_command cmd mine sound young kind multi xid status, if_pos bitmap, reply]
    have kept := nget_nmod_self ((heard s p).modCmd id fun c => { c with bitmap := c.bitmap ||| p.bitmap }).fab.cmds id g
    rw [marked, Option.map_some, value] at kept
    exact ⟨_, _, rfl, kept, rfl, rfl, rfl, rfl, rfl⟩
  · have keeps : (c.fail = 0 || !c.isOver) = false := by simp [fail, FabCmd.isOver, left, all]
    have run : exec (.fabricFailureRecorded c.tid c.seq) s =
        .next ((endCmd s c).modThread c.tid fun u => { u with ffail := some (addFailure t c) }) := by
      rw [exec_fabricFailureRecorded, execFabricFailureRecorded, find_command cmd, cmd.thread]
      dsimp only
      rw [if_neg (by simpa using keeps), if_neg stays]
    obtain ⟨gone, own, others, rest⟩ := endCmd_ends (.inr fail) cmd.name cmd.thread
    have own' : ((endCmd s c).modThread c.tid fun u => { u with ffail := some (addFailure t c) }).thread c.tid =
        some { c.endedIn t with ffail := some (addFailure t c) } := by
      rw [State.thread_modThread, if_pos rfl, thread_endCmd (.inr fail) cmd.thread, Option.map_some]
    refine ⟨_, _, addFailure t c, run, ⟨gone, ⟨_, own', rfl, rfl, rfl, rfl⟩, fun j hj => ?_, rest⟩, own', rfl, ?_⟩
    · rw [State.thread_modThread, if_neg hj]
      exact others j hj
    · rw [addFailure, fresh]
      simp

end Sys2Proof.Machine
end

section
/-! For O56: what the first switch sends on, and groups (R336 to R339). -/

namespace Sys2Proof.Machine

/-! ### Lists without repetition -/

theorem eraseDups_sublist {α : Type} [BEq α] : ∀ l : List α, l.eraseDups.Sublist l
  | [] => List.Sublist.refl _
  | a :: l => by
    rw [List.eraseDups_cons]
    exact ((eraseDups_sublist (l.filter fun b => !b == a)).trans List.filter_sublist).cons_cons a
termination_by l => l.length
decreasing_by exact Nat.lt_succ_of_le (List.length_filter_le _ _)

theorem nodup_eraseDups {α : Type} [BEq α] [LawfulBEq α] : ∀ l : List α, l.eraseDups.Nodup
  | [] => List.nodup_nil
  | a :: l => by
    rw [List.eraseDups_cons, List.nodup_cons, List.mem_eraseDups, List.mem_filter]
    exact ⟨by simp, nodup_eraseDups (l.filter fun b => !b == a)⟩
termination_by l => l.length
decreasing_by exact Nat.lt_succ_of_le (List.length_filter_le _ _)

theorem eraseDups_of_nodup {α : Type} [BEq α] [LawfulBEq α] {l : List α} (distinct : l.Nodup) : l.eraseDups = l :=
  (eraseDups_sublist l).eq_of_length_le (List.subperm_of_subset distinct fun _ => List.mem_eraseDups.2).length_le

theorem length_eraseDups_iff {α : Type} [BEq α] [LawfulBEq α] {l : List α} : l.eraseDups.length = l.length ↔ l.Nodup :=
  ⟨fun same => (eraseDups_sublist l).eq_of_length same ▸ nodup_eraseDups l, fun distinct => by rw [eraseDups_of_nodup distinct]⟩

/-- Bit `i` of the bitmap of some numbers below `n`. -/
theorem getLsbD_bitmapOf (p : Nat → Bool) (n : Nat) {i : Nat} (low : i < 64) :
    (bitmapOf ((List.range n).filter p)).getLsbD i = (decide (i < n) && p i) := by
  rw [bitmapOf, eraseDups_of_nodup (List.nodup_range.filter p), List.foldl_filter, BitVec.getLsbD_ofNat, (testBit_sum_bits p n i).1,
    decide_eq_true low, Bool.true_and]

/-! ### Packets that the switch adds to those under way -/

/-- Packets have been added to those on their way to the ports here and to those that have left. -/
def Adds (s u : State) (net out : List Packet) : Prop := u = s.modFab fun x => { x with net := x.net ++ net, out := x.out ++ out }

theorem Adds.trans {s u v : State} {n o n' o' : List Packet} (a : Adds s u n o) (b : Adds u v n' o') : Adds s v (n ++ n') (o ++ o') := by
  rw [Adds] at *
  subst a
  rw [b]
  simp [State.modFab]

theorem adds_foldl {α : Type} {f : State → α → State} {net out : α → List Packet} {s : State}
    (step : ∀ u q, u.mdl = s.mdl → u.env = s.env → Adds u (f u q) (net q) (out q)) (l : List α) :
    Adds s (l.foldl f s) (l.flatMap net) (l.flatMap out) := by
  suffices from' : ∀ u, u.mdl = s.mdl → u.env = s.env → Adds u (l.foldl f u) (l.flatMap net) (l.flatMap out) from from' s rfl rfl
  induction l with
  | nil =>
    intro u _ _
    simp [Adds, State.modFab]
  | cons q l ih =>
    intro u mdl env
    have first := step u q mdl env
    refine first.trans (ih _ ?_ ?_) <;> rw [show f u q = _ from first]
    · exact mdl
    · exact env

/-- The copy of a packet for a member. -/
def memberCopy (p : Packet) (md : Nat) (h : Word64) (ver : Nat) : Packet := sealed { p with dmod := md, mbox := h, ver := ver }

theorem adds_toMember (s : State) (p : Packet) (md : Nat) (h : Word64) (ver : Nat) : Adds s (toMember s p md h ver)
    (if md = s.mdl.number then [memberCopy p md h ver] else []) (if md = s.mdl.number then [] else [memberCopy p md h ver]) := by
  rw [toMember, Adds]
  split <;> simp [State.modFab, memberCopy]

/-- The root's reply to a contributor, as it leaves. -/
def rootAnswer (s : State) (r : Reduction) (p : Packet) (bitmap : Word64) (status : Nat) : Packet :=
  sealed { Packet.blank with plane := p.plane, pkind := 9, dmod := p.smod, smod := s.mdl.number, pkey := r.key, group := r.group, ver := r.ver,
                             epoch := r.epoch, xid := p.xid, pseq := r.pseq, bitmap := bitmap, status := status, itime := s.ns % 2 ^ 32 }

theorem ns_congr {s u : State} (mdl : u.mdl = s.mdl) (env : u.env = s.env) : u.ns = s.ns := by
  unfold State.ns offsetOf State.raw
  rw [mdl, env]

theorem rootAnswer_congr {s u : State} {r : Reduction} {p : Packet} {bitmap : Word64} {status : Nat} (mdl : u.mdl = s.mdl)
    (env : u.env = s.env) : rootAnswer u r p bitmap status = rootAnswer s r p bitmap status := by
  rw [rootAnswer, rootAnswer, ns_congr mdl env, mdl]

theorem adds_rootReply (s : State) (r : Reduction) (p : Packet) (bitmap : Word64) (status : Nat) :
    Adds s (rootReply s r p bitmap status) [] [rootAnswer s r p bitmap status] := by
  rw [Adds, rootReply, switchReply, leave]
  simp [State.modFab, rootAnswer, sealed]

/-! ### Replication (R337, R338) -/

section
variable {s : State} {p : Packet}

/-- A packet has been taken out of those at the first switch. -/
def takenUp (s : State) (p : Packet) : State := s.modFab fun x => { x with up := x.up.filter (· ≠ p) }

/-- What the first switch gathers for a packet of a group that it has not met before. -/
def newMerge (s : State) (p : Packet) : MergeAck :=
  { key := p.pkey, group := p.group, ver := (groupOf s p).ver, xid := p.xid, pseq := p.pseq, members := (groupOf s p).members,
    handles := (groupOf s p).handles, waiting := List.range (groupOf s p).members.length, bitmap := 0 }

theorem find_merge_none (new : ∀ m ∈ s.fab.merges, m.xid = p.xid → m.pseq ≠ p.pseq) :
    (s.fab.merges.find? fun m => m.xid = p.xid && m.pseq = p.pseq) = none :=
  List.find?_eq_none.2 fun m hm => by simpa using new m hm

theorem exec_multicastReplication_new (own : p.smod = s.mdl.number) (up : p ∈ s.fab.up) (kind : p.pkind = 0)
    (new : ∀ m ∈ s.fab.merges, m.xid = p.xid → m.pseq ≠ p.pseq) : exec (.multicastReplication p) s = .next (
      if (groupOf s p).en = false then takenUp s p
      else (List.range (groupOf s p).members.length).foldl (fun s' i => toMember s' p (((groupOf s p).members[i]?).getD 0)
        (((groupOf s p).handles[i]?).getD 0) (groupOf s p).ver) ((takenUp s p).modFab fun x => { x with merges := x.merges ++ [newMerge s p] })) := by
  have here : (p.pkind ≠ 0 || !atSwitch s p) = false := by simp [kind, atSwitch, up]
  rw [exec_multicastReplication, execMulticastReplication, here, if_neg Bool.false_ne_true]
  dsimp only
  have again : ((takenUp s p).fab.merges.find? fun m => m.xid = p.xid && m.pseq = p.pseq) = none := find_merge_none new
  rw [takenUp] at again ⊢
  rw [if_neg (not_not.2 own), again]
  cases (groupOf s p).en <;> rfl

/-- The copies of a packet for members of a group, where each goes. -/
theorem adds_copies {s0 : State} (number : s0.mdl.number = s.mdl.number) (members : List Nat) (handles : List Word64) (ver : Nat) (l : List Nat) :
    let copy := fun i : Nat => memberCopy p ((members[i]?).getD 0) ((handles[i]?).getD 0) ver
    let here := fun i : Nat => (members[i]?).getD 0 = s.mdl.number
    Adds s0 (l.foldl (fun u i => toMember u p ((members[i]?).getD 0) ((handles[i]?).getD 0) ver) s0)
      (l.flatMap fun i => if here i then [copy i] else []) (l.flatMap fun i => if here i then [] else [copy i]) :=
  adds_foldl (fun u i mdl _ => by
    have sent := adds_toMember u p ((members[i]?).getD 0) ((handles[i]?).getD 0) ver
    rwa [mdl, number] at sent) l

/-- The parts of `Claims.SwitchReplicatesAndReduces` about a packet of BXMC. -/
theorem switchReplicates (own : p.smod = s.mdl.number) (up : p ∈ s.fab.up) (kind : p.pkind = 0) (on : (groupOf s p).en = true)
    (new : ∀ m ∈ s.fab.merges, m.xid = p.xid → m.pseq ≠ p.pseq) : ∃ u, exec (.multicastReplication p) s = .next u ∧
      u.fab.up = s.fab.up.filter (· ≠ p) ∧ u.fab.merges = s.fab.merges ++ [newMerge s p] ∧
      (∀ (i md : Nat), (groupOf s p).members[i]? = some md →
        memberCopy p md (((groupOf s p).handles[i]?).getD 0) (groupOf s p).ver ∈ (if md = s.mdl.number then u.fab.net else u.fab.out)) ∧
      u.thr = s.thr ∧ u.mem = s.mem := by
  have sends := adds_copies (s0 := (takenUp s p).modFab fun x => { x with merges := x.merges ++ [newMerge s p] }) (s := s) (p := p) rfl
    (groupOf s p).members (groupOf s p).handles (groupOf s p).ver (List.range (groupOf s p).members.length)
  refine ⟨_, exec_multicastReplication_new own up kind new, ?_⟩
  rw [if_neg (by simp [on]), show List.foldl _ _ _ = _ from sends]
  refine ⟨rfl, rfl, fun i md member => ?_, rfl, rfl⟩
  have at' : ((groupOf s p).members[i]?).getD 0 = md := by rw [member]; rfl
  have inside : i ∈ List.range (groupOf s p).members.length := List.mem_range.2 (List.getElem?_eq_some_iff.1 member).1
  subst at'
  split
  next here => exact List.mem_append_right _ (List.mem_flatMap.2 ⟨i, inside, by rw [if_pos here]; exact List.mem_singleton_self _⟩)
  next away => exact List.mem_append_right _ (List.mem_flatMap.2 ⟨i, inside, by rw [if_neg away]; exact List.mem_singleton_self _⟩)

/-! ### Reductions (R339) -/

/-- A reduction is the one that a contribution of this module belongs to, under the version in force. -/
def sameAs (s : State) (p : Packet) (r : Reduction) : Bool :=
  r.key = p.pkey && r.group = p.group && r.ver = (groupOf s p).ver && r.epoch = p.epoch && r.pseq = p.pseq

theorem sameAs_iff {r : Reduction} : sameAs s p r = true ↔
    r.key = p.pkey ∧ r.group = p.group ∧ r.ver = (groupOf s p).ver ∧ r.epoch = p.epoch ∧ r.pseq = p.pseq := by
  simp [sameAs, and_assoc]

/-- The reduction that a first contribution opens. -/
def newReduction (s : State) (p : Packet) : Reduction :=
  { key := p.pkey, group := p.group, ver := (groupOf s p).ver, epoch := p.epoch, pseq := p.pseq, rop := p.rop, len := p.len,
    members := (groupOf s p).members, handles := (groupOf s p).handles, got := [], bad := [], since := s.env.clk }

/-- A reduction with one contribution more. -/
def joined (r : Reduction) (p : Packet) : Reduction := { r with got := nset r.got (r.members.findIdx (· = p.smod)) p }

/-- A reduction has a contribution more, and is the one of its identity. -/
def withJoined (s : State) (p : Packet) (r : Reduction) : State :=
  (takenUp s p).modFab fun x => { x with reds := (x.reds.filter fun y => !sameAs s p y) ++ [joined r p] }

theorem exec_reductionContribution_joins (own : p.smod = s.mdl.number) (up : p ∈ s.fab.up) (kind : p.pkind = 4) {r : Reduction}
    (open' : s.fab.reds.find? (sameAs s p) = some r ∨
      s.fab.reds.find? (sameAs s p) = none ∧ (groupOf s p).en = true ∧ r = newReduction s p)
    (member : r.members.findIdx (· = p.smod) < r.members.length) (len : p.len = r.len) (rop : p.rop = r.rop) :
    exec (.reductionContribution p) s = .next (
      if r.members.length ≤ (joined r p).got.length then finishReduction (withJoined s p r) (joined r p) else withJoined s p r) := by
  have here : (p.pkind ≠ 4 || !atSwitch s p) = false := by simp [kind, atSwitch, up]
  rw [exec_reductionContribution, execReductionContribution, here, if_neg Bool.false_ne_true]
  dsimp only
  have ver : (if p.smod = (takenUp s p).mdl.number then (groupOf s p).ver else p.ver) = (groupOf s p).ver := if_pos own
  rw [takenUp] at ver
  simp only [ver]
  have absent : ¬r.members.length ≤ r.members.findIdx (· = p.smod) := Nat.not_le.2 member
  have good : (decide (p.len ≠ r.len) || decide (p.rop ≠ r.rop)) = false := by simp [len, rop]
  have look (o : Option Reduction) (find : s.fab.reds.find? (sameAs s p) = o) :
      (s.modFab fun x => { x with up := x.up.filter (· ≠ p) }).fab.reds.find? (fun r =>
        r.key = p.pkey && r.group = p.group && r.ver = (groupOf s p).ver && r.epoch = p.epoch && r.pseq = p.pseq) = o := find
  rcases open' with old | ⟨none', on, new⟩
  · rw [look _ old]
    dsimp only
    rw [if_neg absent, good]
    rfl
  · have version : (groupOf s p).version (groupOf s p).ver = ((groupOf s p).members, (groupOf s p).handles) := by
      simp [McGroup.version, on]
    rw [look _ none', on, version]
    subst new
    have good' : (decide (p.len ≠ p.len) || decide (p.rop ≠ p.rop)) = false := good
    refine (if_neg absent).trans ?_
    dsimp only
    rw [good']
    rfl

/-- The reduction is no longer at the switch. -/
def withoutReduction (s : State) (r : Reduction) : State := s.modFab fun x => { x with reds := x.reds.filter (· ≠ r) }

/-- The result of a reduction. -/
def reductionData (s : State) (r : Reduction) : List Byte :=
  combineAll s r.rop ((r.got.filter fun q => !r.bad.contains q.1).map fun q => q.2.payload)

/-- The result as it goes to a member. -/
def resultCopy (s : State) (r : Reduction) (q : Nat × Packet) : Packet :=
  memberCopy { q.2 with payload := reductionData s r, len := (reductionData s r).length } ((r.members[q.1]?).getD 0) ((r.handles[q.1]?).getD 0) r.ver

theorem adds_finishReduction (s : State) (r : Reduction) :
    let here := fun q : Nat × Packet => (r.members[q.1]?).getD 0 = s.mdl.number
    Adds (withoutReduction s r) (finishReduction s r) (r.got.flatMap fun q => if here q then [resultCopy s r q] else [])
      (r.got.flatMap fun q => (if here q then [] else [resultCopy s r q]) ++ [rootAnswer s r q.2 (bitmapOf r.bad) 0]) := by
  refine adds_foldl (s := withoutReduction s r) (fun u q mdl env => ?_) r.got
  have sent := adds_toMember u { q.2 with payload := reductionData s r, len := (reductionData s r).length } ((r.members[q.1]?).getD 0)
    ((r.handles[q.1]?).getD 0) r.ver
  have both := sent.trans (adds_rootReply _ r q.2 (bitmapOf r.bad) 0)
  rw [List.append_nil, rootAnswer_congr (s := s) ((congrArg State.mdl sent).trans mdl) ((congrArg State.env sent).trans env), mdl] at both
  exact both

/-- The parts of `Claims.SwitchReplicatesAndReduces` about a contribution. -/
theorem contributionOpens (own : p.smod = s.mdl.number) (up : p ∈ s.fab.up) (kind : p.pkind = 4) (on : (groupOf s p).en = true)
    (new : ∀ r ∈ s.fab.reds, ¬sameAs s p r = true) (member : s.mdl.number ∈ (groupOf s p).members) (several : 2 ≤ (groupOf s p).members.length) :
    exec (.reductionContribution p) s = .next ((takenUp s p).modFab fun x => { x with reds := x.reds ++ [joined (newReduction s p) p] }) := by
  have inside : (newReduction s p).members.findIdx (· = p.smod) < (newReduction s p).members.length :=
    List.findIdx_lt_length_of_exists ⟨_, member, by simp [own]⟩
  have kept : s.fab.reds.filter (fun y => !sameAs s p y) = s.fab.reds := List.filter_eq_self.2 fun r hr => by simpa using new r hr
  rw [exec_reductionContribution_joins own up kind (r := newReduction s p)
    (.inr ⟨List.find?_eq_none.2 new, on, rfl⟩) inside rfl rfl,
    if_neg (show ¬(newReduction s p).members.length ≤ (joined (newReduction s p) p).got.length from Nat.not_le.2 several), withJoined]
  change Host.Outcome.next ((takenUp s p).modFab fun x => { x with reds := s.fab.reds.filter (fun y => !sameAs s p y) ++ _ }) = _
  rw [kept]
  rfl

theorem combineAll_pair (s : State) (rop : Nat) (a b : List Byte) :
    combineAll s rop [a, b] = ropBytesCombine rop a b ∨ combineAll s rop [a, b] = ropBytesCombine rop b a := by
  rw [combineAll]
  dsimp only [List.isEmpty_cons, List.length_cons, List.length_nil]
  rcases Nat.mod_two_eq_zero_or_one (Config.freeValue s.env.freeCtr).toNat with k | k
  · left
    simp [k]
  · right
    simp [k]

/-- The last of two contributions completes a reduction. -/
theorem reductionCompletes {r : Reduction} {q : Packet} (own : p.smod = s.mdl.number) (up : p ∈ s.fab.up) (kind : p.pkind = 4)
    (reds : s.fab.reds = [r]) (same : sameAs s p r = true) (members : r.members = [q.smod, s.mdl.number]) (away : q.smod ≠ s.mdl.number)
    (got : r.got = [(0, q)]) (len : p.len = r.len) (rop : p.rop = r.rop) :
    exec (.reductionContribution p) s = .next (finishReduction (withJoined s p r) (joined r p)) ∧
      (joined r p).got = [(0, q), (1, p)] ∧ (finishReduction (withJoined s p r) (joined r p)).fab.reds = [] := by
  have second : r.members.findIdx (· = p.smod) = 1 := by
    rw [members, own]
    simp [List.findIdx_cons, away]
  have both : (joined r p).got = [(0, q), (1, p)] := by
    rw [joined, second, got]
    rfl
  have found : s.fab.reds.find? (sameAs s p) = some r := by
    rw [reds, List.find?_cons_of_pos same]
  refine ⟨?_, both, ?_⟩
  · rw [exec_reductionContribution_joins own up kind (.inl found) (by rw [second, members]; exact Nat.one_lt_two) len rop, both,
      members, if_pos (by exact le_rfl)]
  · rw [show finishReduction _ _ = _ from adds_finishReduction (withJoined s p r) (joined r p)]
    change ((s.fab.reds.filter fun y => !sameAs s p y) ++ [joined r p]).filter (· ≠ joined r p) = []
    rw [reds]
    simp [same]

/-- The members of a reduction that have not contributed. -/
def absentFrom (r : Reduction) : List Nat := (List.range r.members.length).filter fun i => (nget r.got i).isNone

/-- The part of `Claims.SwitchReplicatesAndReduces` about the time a reduction may take. -/
theorem exec_reductionTimeout_due {r : Reduction} (reds : s.fab.reds = [r]) (same : sameAs s p r = true) (good : r.bad = [])
    (due : r.since + nsToClk 100000000 ≤ s.env.clk) (runs : (s.part p.pkey).haltAt = none) :
    exec (.reductionTimeout p.pkey p.group (groupOf s p).ver p.epoch p.pseq) s = .next ((withoutReduction s r).modFab fun x =>
      { x with net := x.net ++ [], out := x.out ++ r.got.flatMap fun q => [rootAnswer s r q.2 (bitmapOf (absentFrom r)) 6] }) := by
  have found : (s.fab.reds.find? fun r => r.key = p.pkey && r.group = p.group && r.ver = (groupOf s p).ver && r.epoch = p.epoch &&
      r.pseq = p.pseq) = some r := by
    rw [reds]
    exact List.find?_cons_of_pos same
  have counts : (s.env.clk < r.since + nsToClk 100000000 || (s.part p.pkey).haltAt.isSome) = false := by
    rw [runs]
    simpa using due
  have answers := adds_foldl (s := withoutReduction s r) (f := fun u (q : Nat × Packet) => rootReply u r q.2 (bitmapOf (absentFrom r)) 6)
    (net := fun _ => []) (out := fun q => [rootAnswer s r q.2 (bitmapOf (absentFrom r)) 6])
    (fun u q mdl env => rootAnswer_congr (s := s) mdl env ▸ adds_rootReply u r q.2 (bitmapOf (absentFrom r)) 6) r.got
  rw [exec_reductionTimeout, execReductionTimeout, found]
  dsimp only
  rw [counts, if_neg Bool.false_ne_true, good, List.append_nil]
  have nothing : (r.got.flatMap fun _ : Nat × Packet => ([] : List Packet)) = [] := by simp
  rw [nothing] at answers
  exact congrArg Host.Outcome.next answers

end

/-! ### The claims of O56 -/

theorem switchReplicatesAndReduces : Claims.SwitchReplicatesAndReduces := by
  intro s p own up
  refine ⟨fun kind off new => ?_, fun kind on new => switchReplicates own up kind on new, fun kind on new member several => ?_,
    fun r q kind reds same members away got good len rop => ?_, fun r reds same good few due runs => ?_⟩
  · rw [exec_multicastReplication_new own up kind new, if_pos (show (groupOf s p).en = false from off)]
    rfl
  · refine ⟨_, joined (newReduction s p) p,
      contributionOpens own up kind on (fun r hr => new r hr ∘ sameAs_iff.1) member several, rfl, ⟨rfl, rfl, rfl, rfl, rfl⟩, rfl, ?_, rfl,
      rfl, rfl, rfl, rfl, rfl⟩
    rw [← own]
    rfl
  · obtain ⟨run, both, none'⟩ := reductionCompletes own up kind reds (sameAs_iff.2 same) members away got len rop
    have sent := adds_finishReduction (withJoined s p r) (joined r p)
    have data : reductionData (withJoined s p r) (joined r p) = combineAll (withJoined s p r) r.rop [q.payload, p.payload] := by
      rw [reductionData, both, show (joined r p).bad = [] from good]
      rfl
    have answered : ∀ c ∈ (joined r p).got, rootAnswer (withJoined s p r) (joined r p) c.2 (bitmapOf r.bad) 0 ∈
        (finishReduction (withJoined s p r) (joined r p)).fab.out := fun c hc => by
      rw [show finishReduction _ _ = _ from sent]
      exact List.mem_append_right _ (List.mem_flatMap.2 ⟨c, hc, List.mem_append_right _ (List.mem_singleton_self _)⟩)
    have result : resultCopy (withJoined s p r) (joined r p) (1, p) ∈ (finishReduction (withJoined s p r) (joined r p)).fab.net := by
      rw [show finishReduction _ _ = _ from sent]
      refine List.mem_append_right _ (List.mem_flatMap.2 ⟨(1, p), by simp [both], ?_⟩)
      rw [if_pos (by rw [show (joined r p).members = r.members from rfl, members]; rfl)]
      exact List.mem_singleton_self _
    have clear (i : Nat) : (bitmapOf r.bad).getLsbD i = false := by
      rw [good]
      exact BitVec.getLsbD_zero
    rw [both] at answered
    refine ⟨_, run, none', ⟨_, answered (0, q) (by simp), rfl, rfl, rfl, rfl, rfl, fun i _ => clear i⟩,
      ⟨_, answered (1, p) (by simp), rfl, rfl, rfl, rfl, rfl, fun i _ => clear i⟩, _, result, ?_, rfl, ?_⟩
    · change (r.members[1]?).getD 0 = _
      rw [members]
      rfl
    · rw [show (resultCopy _ _ _).payload = reductionData (withJoined s p r) (joined r p) from rfl, data]
      exact combineAll_pair _ _ _ _
  · rw [← groupOf, exec_reductionTimeout_due reds (sameAs_iff.2 same) good due runs]
    refine ⟨_, rfl, ?_, rfl, fun q hq => ⟨rootAnswer s r q.2 (bitmapOf (absentFrom r)) 6, ?_, rfl, rfl, rfl, rfl, rfl, fun i low => ?_⟩⟩
    · change s.fab.reds.filter (· ≠ r) = []
      rw [reds]
      simp
    · exact List.mem_append_right _ (List.mem_flatMap.2 ⟨q, hq, List.mem_singleton_self _⟩)
    · exact getLsbD_bitmapOf (fun i => (nget r.got i).isNone) r.members.length low

theorem mcast_setGroup (s : State) (key g : Nat) (x : McGroup) (k h : Nat) :
    ((s.modPart key fun p => { p with groups := nset p.groups g x }).part k).mcast h =
      if k = key ∧ h = g then x else (s.part k).mcast h := by
  rw [State.part_modPart]
  by_cases hk : k = key
  · rw [if_pos hk, Part.mcast, ngetD_nset]
    simp only [hk, true_and]
    rfl
  · simp [hk]

/-- A group with the version in force kept for the packets latched under it. -/
def McGroup.keeping (x : McGroup) : McGroup := { x with old := if x.en then nset x.old x.ver (x.members, x.handles) else x.old }

/-- The member modules that a write of GCTL names. -/
def namedModules (x : McGroup) (v : Word64) : List Nat := (List.range (bits v 6 0)).map fun i => bits (ngetD x.mmod i 0) 11 0

/-- A write of GCTL puts 1 to 64 different members into force. -/
def Commits (x : McGroup) (v : Word64) : Prop := 1 ≤ bits v 6 0 ∧ bits v 6 0 ≤ 64 ∧ (namedModules x v).Nodup

theorem commits_iff {x : McGroup} {v : Word64} :
    (1 ≤ bits v 6 0 && bits v 6 0 ≤ 64 && (namedModules x v).eraseDups.length = bits v 6 0) = true ↔ Commits x v := by
  have length : (namedModules x v).length = bits v 6 0 := by simp [namedModules]
  have distinct := length_eraseDups_iff (l := namedModules x v)
  rw [length] at distinct
  simp [Commits, distinct, and_assoc]

/-- A group after a write of GCTL. -/
def McGroup.written (x : McGroup) (v : Word64) : McGroup :=
  let n := bits v 6 0
  if !v.getLsbD 7 then { x.keeping with ctl := BitVec.ofNat 64 n, ver := (x.ver + 1) % 256 }
  else if !(1 ≤ n && n ≤ 64 && (namedModules x v).eraseDups.length = n) then { x.keeping with ctl := BitVec.ofNat 64 n }
  else { x.keeping with ctl := BitVec.ofNat 64 (128 + n), ver := (x.ver + 1) % 256, live := x.mmod, liveH := x.mhnd }

theorem writeGctl_eq (s : State) (key g : Nat) (v : Word64) : writeGctl s key g v = s.modPart key fun p =>
    { p with groups := nset p.groups g (((s.part key).mcast g).written v) } := by
  rw [writeGctl, McGroup.written, McGroup.keeping]
  dsimp only
  cases ((s.part key).mcast g).en <;> rfl

theorem en_of_ctl {x : McGroup} {v : Word64} (ctl : x.ctl = BitVec.ofNat 64 (bits v 6 0)) : x.en = false := by
  have low : bits v 6 0 < 2 ^ 7 := by
    rw [bits_eq]
    omega
  rw [McGroup.en, ctl, BitVec.getLsbD_ofNat, Nat.testBit_lt_two_pow low, Bool.and_false]

theorem groupCommit : Claims.GroupCommit := by
  intro s key g v x n mods x' good
  have run : exec (.gctlCommit key g v) s = .next (writeGctl s key g v) := rfl
  rw [writeGctl_eq] at run
  refine ⟨_, run, fun k h other => ?_, rfl, rfl, fun en ok => ?_, fun en bad => ?_, fun off => ?_⟩
  · rw [mcast_setGroup, if_neg fun same => other (Prod.ext same.1 same.2)]
  · rw [mcast_setGroup, if_pos ⟨rfl, rfl⟩, McGroup.written, en, commits_iff.2 ok]
    rfl
  · have refused : (1 ≤ bits v 6 0 && bits v 6 0 ≤ 64 && (namedModules ((s.part key).mcast g) v).eraseDups.length = bits v 6 0) = false :=
      Bool.eq_false_iff.2 fun ok => bad (commits_iff.1 ok)
    rw [mcast_setGroup, if_pos ⟨rfl, rfl⟩, McGroup.written, en, refused]
    exact ⟨rfl, en_of_ctl rfl⟩
  · rw [mcast_setGroup, if_pos ⟨rfl, rfl⟩, McGroup.written, off]
    exact ⟨rfl, en_of_ctl rfl⟩

/-- Settles O56: the packets that the switch adds to those under way are, for each member or contributor, its copy, result or answer. -/
theorem switchAndGroups : Obligations.SwitchAndGroups := ⟨switchReplicatesAndReduces, groupCommit⟩

end Sys2Proof.Machine
end

section
/-! For O5, O6, O8 and O54: messages under way (R290, R298). -/

namespace Sys2Proof.Machine

/-! ### Sending -/

/-- What was under way still is, and numbers of messages have only risen. -/
def Later (s u : State) : Prop :=
  s.env.nextId ≤ u.env.nextId ∧ ∀ id, id < s.env.nextId → nget u.mem.net id = nget s.mem.net id

/-- A message is under way, under a number that no other message gets. -/
def Sent (u : State) (m : Msg) : Prop := ∃ id, id < u.env.nextId ∧ nget u.mem.net id = some m

theorem Sent.inFlight {u : State} {m : Msg} : Sent u m → InFlight u m := fun ⟨id, _, there⟩ => ⟨id, there⟩

theorem Later.refl (s : State) : Later s s := ⟨Nat.le_refl _, fun _ _ => rfl⟩

theorem Later.trans {s u v : State} (a : Later s u) (b : Later u v) : Later s v :=
  ⟨a.1.trans b.1, fun id low => (b.2 id (low.trans_le a.1)).trans (a.2 id low)⟩

theorem Later.sent {s u : State} {m : Msg} (l : Later s u) : Sent s m → Sent u m :=
  fun ⟨id, low, there⟩ => ⟨id, low.trans_le l.1, (l.2 id low).trans there⟩

/-- A message that has left the network does not come back. -/
theorem Later.gone {s u : State} {id : Nat} (l : Later s u) (low : id < s.env.nextId) (none' : nget s.mem.net id = none) :
    nget u.mem.net id = none := (l.2 id low).trans none'

/-- Messages have been sent, and nothing else has changed. -/
structure Posts (s u : State) : Prop where
  rest : u = { s with env := { s.env with nextId := u.env.nextId }, mem := { s.mem with net := u.mem.net } }
  later : Later s u

theorem Posts.refl (s : State) : Posts s s := ⟨rfl, Later.refl s⟩

theorem Posts.trans {s u v : State} (a : Posts s u) (b : Posts u v) : Posts s v where
  rest := by
    have both := b.rest
    rw [a.rest] at both
    exact both
  later := a.later.trans b.later

theorem posts_send (s : State) (m : Msg) : Posts s (send s m) :=
  ⟨rfl, Nat.le_succ _, fun id low => nget_nset_ne s.mem.net s.env.nextId m id (Nat.ne_of_lt low)⟩

theorem sent_send (s : State) (m : Msg) : Sent (send s m) m :=
  ⟨s.env.nextId, Nat.lt_succ_self _, nget_nset_self s.mem.net s.env.nextId m⟩

/-- One message for each member of a list. -/
theorem posts_foldl {α : Type} (f : α → Msg) (l : List α) (s : State) :
    Posts s (l.foldl (fun s b => send s (f b)) s) ∧ ∀ b ∈ l, Sent (l.foldl (fun s b => send s (f b)) s) (f b) := by
  induction l generalizing s with
  | nil => exact ⟨Posts.refl s, fun b hb => absurd hb List.not_mem_nil⟩
  | cons b l ih =>
    obtain ⟨posts, sent⟩ := ih (send s (f b))
    refine ⟨(posts_send s (f b)).trans posts, fun c hc => ?_⟩
    rcases List.mem_cons.1 hc with rfl | rest
    · exact posts.later.sent (sent_send s (f c))
    · exact sent c rest

theorem posts_broadcast (s : State) (m : Msg) : Posts s (broadcast s m) :=
  (posts_foldl (fun a => { m with t64 := (s.smeta m.sector).t64, dst := .agent a }) s.agents s).1

/-- Every agent is told. -/
theorem sent_broadcast (s : State) (m : Msg) {a : Nat} (ha : a ∈ s.agents) :
    Sent (broadcast s m) { m with dst := .agent a, t64 := (s.smeta m.sector).t64 } :=
  (posts_foldl (fun a => { m with t64 := (s.smeta m.sector).t64, dst := .agent a }) s.agents s).2 a ha

theorem posts_sendRequest (s : State) (a sec : Nat) (wr t64 : Bool) (att : Nat) (l : List Nat) :
    Posts s (sendRequest s a sec wr t64 att l) ∧ Sent (sendRequest s a sec wr t64 att l) (requestMsg s a sec wr t64 att) ∧
      ∀ b ∈ l, Sent (sendRequest s a sec wr t64 att l) { requestMsg s a sec wr t64 att with dst := .agent b } := by
  obtain ⟨posts, sent⟩ := posts_foldl (fun b => { requestMsg s a sec wr t64 att with dst := .agent b }) l
    (send s (requestMsg s a sec wr t64 att))
  exact ⟨(posts_send s _).trans posts, posts.later.sent (sent_send s _), sent⟩

/-! ### Homes and metadata -/

theorem State.home_modHome (s : State) (h : Nat) (g : Home → Home) (j : Nat) :
    (s.modHome h g).home j = if j = h then g (s.home h) else s.home j := ngetD_nset _ _ _ _ _

theorem State.smeta_setMeta (s : State) (sec : Nat) (x : Meta) (v : Nat) : (s.setMeta sec x).smeta v = if v = sec then x else s.smeta v :=
  ngetD_nset _ _ _ _ _

/-- A home has sent a message, keeps other metadata of a sector, and may remember whom it sent tokens. -/
structure HomeSends (s u : State) (sec : Nat) (x : Meta) (m : Msg) : Prop where
  later : Later s u
  sent : Sent u m
  smeta : u.mem.smeta = nset s.mem.smeta sec x
  dram : u.mem.dram = s.mem.dram
  thr : u.thr = s.thr
  home : ∀ j, ∃ hint, u.home j = { s.home j with hint := hint }

/-- The TOK in which a home sends tokens. -/
def homeTokMsg (s : State) (sec r k : Nat) (own dat wr : Bool) (acq : Nat) : Msg :=
  { Msg.of .tok (.home (homeOf sec)) (.agent r) r sec (s.smeta sec).ser with
    cnt := k, own := own, dat := dat, poi := dat && (s.smeta sec).poi, t64 := (s.smeta sec).t64, wr := wr, acq := acq,
    hint := ngetD (s.home (homeOf sec)).hint sec [], data := if dat then Memory.bytes s.mem.dram (sec * 64) 64 else [] }

theorem homeSends_homeTok (s : State) (sec r k : Nat) (own dat wr : Bool) (acq : Nat) :
    HomeSends s (homeTok s sec r k own dat wr acq) sec { s.smeta sec with hn := (s.smeta sec).hn - k, ho := (s.smeta sec).ho && !own }
      (homeTokMsg s sec r k own dat wr acq) := by
  have given : HomeSends s (send (s.setMeta sec { s.smeta sec with hn := (s.smeta sec).hn - k, ho := (s.smeta sec).ho && !own })
      (homeTokMsg s sec r k own dat wr acq)) sec { s.smeta sec with hn := (s.smeta sec).hn - k, ho := (s.smeta sec).ho && !own }
      (homeTokMsg s sec r k own dat wr acq) :=
    ⟨(posts_send (s.setMeta sec _) _).later, sent_send _ _, rfl, rfl, rfl, fun j => ⟨_, rfl⟩⟩
  have tok : homeTok s sec r k own dat wr acq = if k = 0 then send (s.setMeta sec
      { s.smeta sec with hn := (s.smeta sec).hn - k, ho := (s.smeta sec).ho && !own }) (homeTokMsg s sec r k own dat wr acq)
      else noteHint (send (s.setMeta sec { s.smeta sec with hn := (s.smeta sec).hn - k, ho := (s.smeta sec).ho && !own })
        (homeTokMsg s sec r k own dat wr acq)) (homeOf sec) sec r := rfl
  rw [tok]
  split
  · exact given
  · generalize send _ (homeTokMsg s sec r k own dat wr acq) = v at given
    have later : Later s (noteHint v (homeOf sec) sec r) := by
      rw [noteHint]
      exact given.later
    refine ⟨later, given.sent, given.smeta, given.dram, given.thr, fun j => ?_⟩
    obtain ⟨hint, home⟩ := given.home j
    rw [noteHint, State.home_modHome]
    split_ifs with same full
    · rw [← same]
      exact ⟨hint, home⟩
    · rw [← same, home]
      exact ⟨_, rfl⟩
    · exact ⟨hint, home⟩

/-! ### Activation (R298) -/

/-- A home sends nothing, or tokens, and only their sector's metadata and what it remembers of them differ. -/
structure HomeForwards (s u : State) : Prop where
  later : Later s u
  dram : u.mem.dram = s.mem.dram
  thr : u.thr = s.thr
  home : ∀ j, ∃ hint, u.home j = { s.home j with hint := hint }

theorem HomeSends.forwards {s u : State} {sec : Nat} {x : Meta} {m : Msg} (g : HomeSends s u sec x m) : HomeForwards s u :=
  ⟨g.later, g.dram, g.thr, g.home⟩

theorem HomeSends.smeta_self {s u : State} {sec : Nat} {x : Meta} {m : Msg} (g : HomeSends s u sec x m) : u.smeta sec = x := by
  rw [State.smeta, g.smeta, ngetD_nset, if_pos rfl]

theorem homeForwards_homeForward (s : State) (sec r : Nat) (wr : Bool) : HomeForwards s (homeForward s sec r wr) := by
  have refl : HomeForwards s s := ⟨Later.refl s, rfl, rfl, fun j => ⟨_, rfl⟩⟩
  rw [homeForward]
  split_ifs
  · exact refl
  · exact (homeSends_homeTok ..).forwards
  · exact (homeSends_homeTok ..).forwards
  · exact refl

/-- The number of an activation, and the entry that it makes active. -/
def nextAseq (s : State) (h : Nat) : Nat := ((s.home h).aseq + 1) % 65536
def activeEntry (s : State) (h r : Nat) (e : PEntry) : PEntry :=
  { e with st := .active, rtime := s.ns % 2 ^ 32, blk := (pendingOf (s.home h)).filter (· ≠ r) }

/-- The PACT of an activation, less its destination. -/
def pactMsg (s : State) (h r : Nat) (e : PEntry) : Msg :=
  { Msg.of .pact (.home h) (.home h) r e.sector (s.smeta e.sector).ser with wr := e.wr, aseq := nextAseq s h }

/-- A home has made an entry active. -/
structure Activated (s u : State) (h r : Nat) (e : PEntry) : Prop where
  ptab : (u.home h).ptab = nset (s.home h).ptab r (activeEntry s h r e)
  aseq : (u.home h).aseq = nextAseq s h
  told : ∀ a ∈ s.agents, Sent u { pactMsg s h r e with dst := .agent a, t64 := (s.smeta e.sector).t64 }
  gives : e.wr = true → (s.smeta e.sector).hn ≠ 0 → u.smeta e.sector = { s.smeta e.sector with hn := 0, ho := false, md := true } ∧
    Sent u (homeTokMsg s e.sector r (s.smeta e.sector).hn (s.smeta e.sector).ho (s.smeta e.sector).ho false 0)
  later : Later s u
  dram : u.mem.dram = s.mem.dram
  thr : u.thr = s.thr

/-- The state of an activation before its messages. -/
def entryMade (s : State) (h r : Nat) (e : PEntry) : State :=
  let s1 := s.modHome h fun x => { x with aseq := nextAseq s h, ptab := nset x.ptab r (activeEntry s h r e) }
  if e.wr then s1.setMeta e.sector { s1.smeta e.sector with md := true } else s1

/-- What an entry's activation leaves as it was, before its messages. -/
structure EntryMade (s u : State) (h r : Nat) (e : PEntry) : Prop where
  agents : u.agents = s.agents
  later : Later s u
  dram : u.mem.dram = s.mem.dram
  thr : u.thr = s.thr
  home : u.home h = { s.home h with aseq := nextAseq s h, ptab := nset (s.home h).ptab r (activeEntry s h r e) }
  hint : ∀ j, (u.home j).hint = (s.home j).hint
  smeta : u.smeta e.sector = { s.smeta e.sector with md := (s.smeta e.sector).md || e.wr }

theorem entryMade_spec (s : State) (h r : Nat) (e : PEntry) : EntryMade s (entryMade s h r e) h r e := by
  have home (j : Nat) : (s.modHome h fun x => { x with aseq := nextAseq s h, ptab := nset x.ptab r (activeEntry s h r e) }).home j =
      if j = h then { s.home h with aseq := nextAseq s h, ptab := nset (s.home h).ptab r (activeEntry s h r e) } else s.home j :=
    State.home_modHome ..
  have own := home h
  rw [if_pos rfl] at own
  have hint (j : Nat) : ((s.modHome h fun x => { x with aseq := nextAseq s h, ptab := nset x.ptab r (activeEntry s h r e) }).home j).hint =
      (s.home j).hint := by
    rw [home]
    split
    next same => rw [same]
    next => rfl
  rw [entryMade]
  cases wr : e.wr
  · refine ⟨rfl, Later.refl s, rfl, rfl, own, hint, ?_⟩
    rw [wr, Bool.or_false]
    rfl
  · refine ⟨rfl, Later.refl s, rfl, rfl, own, hint, ?_⟩
    dsimp only
    rw [if_pos rfl, State.smeta_setMeta, if_pos rfl, wr, Bool.or_true]
    rfl

theorem activate_eq {s : State} {h r : Nat} {e : PEntry} (entry : nget (s.home h).ptab r = some e) :
    activate s h r = homeForward (broadcast (entryMade s h r e) (pactMsg s h r e)) e.sector r e.wr := by
  have pact : pactMsg s h r e = { Msg.of .pact (.home h) (.home h) r e.sector ((entryMade s h r e).smeta e.sector).ser with
      wr := e.wr, aseq := nextAseq s h } := by
    rw [(entryMade_spec s h r e).smeta, pactMsg]
  rw [activate, entry, pact]
  rfl

theorem activated_activate {s : State} {h r : Nat} {e : PEntry} (entry : nget (s.home h).ptab r = some e) :
    Activated s (activate s h r) h r e := by
  have made := entryMade_spec s h r e
  rw [activate_eq entry]
  have posts := posts_broadcast (entryMade s h r e) (pactMsg s h r e)
  have told {a : Nat} (ha : a ∈ s.agents) := sent_broadcast (entryMade s h r e) (pactMsg s h r e) (made.agents ▸ ha)
  have pactTo : ((entryMade s h r e).smeta (pactMsg s h r e).sector).t64 = (s.smeta e.sector).t64 := by
    rw [show (pactMsg s h r e).sector = e.sector from rfl, made.smeta]
  rw [pactTo] at told
  generalize broadcast (entryMade s h r e) (pactMsg s h r e) = v at posts told ⊢
  have homes (j : Nat) : v.home j = (entryMade s h r e).home j := congrArg (fun w => w.home j) posts.rest
  have metas : v.smeta e.sector = (entryMade s h r e).smeta e.sector := congrArg (fun w => w.smeta e.sector) posts.rest
  have forwards := homeForwards_homeForward v e.sector r e.wr
  obtain ⟨hint, home⟩ := forwards.home h
  rw [homes, made.home] at home
  refine ⟨?_, ?_, fun a ha => forwards.later.sent (told ha), fun wr some' => ?_, ?_, ?_, ?_⟩
  · rw [home]
  · rw [home]
  · rw [made.smeta, wr, Bool.or_true] at metas
    have tok := homeSends_homeTok v e.sector r (v.smeta e.sector).hn (v.smeta e.sector).ho (v.smeta e.sector).ho false 0
    have msg : homeTokMsg v e.sector r (v.smeta e.sector).hn (v.smeta e.sector).ho (v.smeta e.sector).ho false 0 =
        homeTokMsg s e.sector r (s.smeta e.sector).hn (s.smeta e.sector).ho (s.smeta e.sector).ho false 0 := by
      have dram : v.mem.dram = s.mem.dram := (congrArg (·.mem.dram) posts.rest).trans made.dram
      rw [homeTokMsg, homeTokMsg, metas, homes, made.hint, dram]
    have forward : homeForward v e.sector r e.wr = homeTok v e.sector r (v.smeta e.sector).hn (v.smeta e.sector).ho (v.smeta e.sector).ho false 0 := by
      rw [homeForward, metas]
      dsimp only
      rw [if_neg some', if_pos wr]
    have left := tok.smeta_self
    rw [forward]
    refine ⟨?_, msg ▸ tok.sent⟩
    rw [left, metas]
    simp
  · exact (made.later.trans posts.later).trans forwards.later
  · exact (forwards.dram.trans (congrArg (·.mem.dram) posts.rest)).trans made.dram
  · exact (forwards.thr.trans (congrArg (·.thr) posts.rest)).trans made.thr

end Sys2Proof.Machine
end

section
/-! Settles O6: token requests that are not answered (R292, R297, R298). -/

namespace Sys2Proof.Machine

/-! ### Requests that go on -/

/-- A request has been changed to another. -/
def askedAs (s : State) (a sec : Nat) (t : Transient) : State := s.modMem fun m => { m with trans := nset m.trans (l2key a sec) t }

/-- An agent has a persistent request under way. -/
def persistBusy (s : State) (a : Nat) : Bool := s.mem.trans.any fun p => p.1 / 2 ^ 80 = a && p.2.att = 3

/-- The persistent request of an agent for a sector. -/
def preqMsg (s : State) (a sec : Nat) (t : Transient) : Msg :=
  { Msg.of .preq (.agent a) (.home (homeOf sec)) a sec (s.line a sec).ser with t64 := t.t64, wr := t.wr }

theorem persist_spec (s : State) (a sec : Nat) (t : Transient) :
    Posts (askedAs s a sec { t with att := if persistBusy s a then 4 else 3 }) (persist s a sec t) ∧
      (persistBusy s a = false → Sent (persist s a sec t) (preqMsg s a sec t)) := by
  have run : persist s a sec t = if persistBusy s a then askedAs s a sec { t with att := if persistBusy s a then 4 else 3 }
      else send (askedAs s a sec { t with att := if persistBusy s a then 4 else 3 }) (preqMsg s a sec t) := rfl
  rw [run]
  split
  next busy => exact ⟨Posts.refl _, fun idle => absurd busy (by simp [idle])⟩
  next => exact ⟨posts_send _ _, fun _ => sent_send _ _⟩

theorem Posts.trans_self {s u : State} {a sec : Nat} {t : Transient} (p : Posts (askedAs s a sec t) u) :
    nget u.mem.trans (l2key a sec) = some t :=
  (congrArg (fun v => nget v.mem.trans (l2key a sec)) p.rest).trans (nget_nset_self _ _ _)

/-- A first attempt that is over is followed by a second, one that has lasted too long by a persistent request. -/
theorem retryExpired_again {s : State} {a sec : Nat} {t : Transient} (asks : nget s.mem.trans (l2key a sec) = some t) (first : t.att = 1)
    (due : t.deadline ≤ s.env.clk) (young : s.env.clk < t.since + nsToClk 2000) :
    retryExpired s a sec = sendRequest (askedAs s a sec
      { t with att := 2, deadline := s.env.clk + nsToClk (if s.isCoherent sec then 6000 else 1200) }) a sec t.wr t.t64 2
        (s.agents.filter fun b => (b < 84 || (s.isCoherent sec && !isRemote sec && 88 ≤ b)) && b ≠ a) := by
  have old : decide (t.since + nsToClk 2000 ≤ s.env.clk) = false := decide_eq_false (Nat.not_le.2 young)
  rw [retryExpired, asks]
  dsimp only
  rw [old, first, decide_eq_true due]
  rfl

theorem retryExpired_persists {s : State} {a sec : Nat} {t : Transient} (asks : nget s.mem.trans (l2key a sec) = some t) (early : t.att < 3)
    (due : (t.att = 2 ∧ t.deadline ≤ s.env.clk) ∨ t.since + nsToClk 2000 ≤ s.env.clk) : retryExpired s a sec = persist s a sec t := by
  have goes : ¬(3 ≤ t.att || !(decide (t.since + nsToClk 2000 ≤ s.env.clk) || decide (t.deadline ≤ s.env.clk))) = true := by
    rcases due with ⟨-, deadline⟩ | old
    · simp [Nat.not_le.2 early, deadline]
    · simp [Nat.not_le.2 early, old]
  have last : ¬(t.att = 1 && !decide (t.since + nsToClk 2000 ≤ s.env.clk)) = true := by
    rcases due with ⟨second, -⟩ | old
    · simp [second]
    · simp [old]
  rw [retryExpired, asks]
  dsimp only
  rw [if_neg goes, if_neg last]

/-! ### Arbitration -/

theorem arbitrate_one {s : State} {h r : Nat} {e : PEntry} (ptab : (s.home h).ptab = [(r, e)]) (pending : e.st = .pending)
    (quiet : homeAsks s h e.sector = false) (whole : regrowing s h e.sector = false) : arbitrate s h = activate s h r := by
  have secs : ((s.home h).ptab.filterMap fun p => if p.2.st = .pending then some p.2.sector else none).eraseDups = [e.sector] := by
    rw [ptab]
    simp [pending, List.eraseDups_cons]
  have idle : activeFor s h e.sector = none := by
    rw [activeFor, ptab]
    simp [pending]
  have next : nextPending s h e.sector = some r := by
    rw [nextPending, ptab]
    simp [pending]
  rw [arbitrate, secs]
  dsimp only [List.foldl_cons, List.foldl_nil]
  rw [idle, quiet, whole, next]
  rfl

/-! ### PNAK (R298) -/

/-- A message received by an agent has left the network, and nothing waits for it. -/
def receivedBy (s : State) (id a sec : Nat) : State :=
  (s.modMem fun x => { x with net := nerase x.net id }).modMem fun x => { x with pressed := nerase x.pressed (l2key a sec) }

theorem deliver_agent {s : State} {id a : Nat} {m : Msg} (arrives : Arrives s id m) (dst : m.dst = .agent a) :
    deliver m.kind id s = atAgentMsg (receivedBy s id a m.sector) a m := by
  obtain ⟨there, -, live, ready⟩ := arrives
  rw [dst] at live ready
  rw [deliver, there]
  dsimp only
  rw [if_neg (not_not.2 rfl), dst, live, if_neg Bool.false_ne_true]
  dsimp only
  rw [show heldAt s a m.sector = false from ready, Bool.and_false, if_neg Bool.false_ne_true]
  rfl

theorem nextWaiting_one {s : State} {a sec : Nat} {t : Transient} (small : sec < 2 ^ 80) (trans : s.mem.trans = [(l2key a sec, t)])
    (waits : t.att = 4) : nextWaiting s a = some (l2key a sec, t) := by
  have agent : l2key a sec / 2 ^ 80 = a := by
    unfold l2key
    omega
  rw [nextWaiting, trans]
  rw [List.foldl_cons, List.foldl_nil, agent, waits]
  exact if_neg (by simp)

/-- The agent's refused request is due, and is the one that waits. -/
theorem pnakAgain_due {s : State} {a sec due : Nat} {t : Transient} (pnak : nget s.mem.pnak a = some due) (late : due ≤ s.env.clk)
    (small : sec < 2 ^ 80) (trans : s.mem.trans = [(l2key a sec, t)]) (waits : t.att = 4) :
    pnakAgain s a = persist (s.modMem fun m => { m with pnak := nerase m.pnak a }) a sec t := by
  have sector : l2key a sec % 2 ^ 80 = sec := by
    unfold l2key
    omega
  rw [pnakAgain, pnak]
  dsimp only
  rw [if_neg (Nat.not_lt.2 late), show nextWaiting (s.modMem _) a = some (l2key a sec, t) from
    nextWaiting_one (s := s.modMem fun m => { m with pnak := nerase m.pnak a }) small trans waits]
  dsimp only
  rw [sector]

/-- A refusal is noted: the request waits, and is raised again 1 µs later. -/
def refusedAt (s : State) (a sec : Nat) : State := s.modMem fun x =>
  { x with pnak := nset x.pnak a (s.env.clk + nsToClk 1000),
           trans := nmod x.trans (l2key a sec) fun t => if t.att = 3 then { t with att := 4 } else t }

theorem noteSer_keeps (s : State) (a : Nat) (m : Msg) : ∃ l2, noteSer s a m = { s with mem := { s.mem with l2 := l2 } } ∧
    (noteSer s a m).lineFor a m = s.lineFor a m := by
  rw [noteSer]
  cases here : nget s.mem.l2 (l2key a m.sector) with
  | some l => exact ⟨s.mem.l2, rfl, rfl⟩
  | none =>
    refine ⟨_, rfl, ?_⟩
    rw [State.lineFor, State.lineFor, here]
    change (nget (nset s.mem.l2 _ _) _).getD _ = _
    rw [nget_nset_self]
    rfl

theorem atAgentMsg_pnak {s : State} {a : Nat} {m : Msg} (kind : m.kind = .pnak) (ser : m.ser = (s.lineFor a m).ser) :
    ∃ l2, atAgentMsg s a m = refusedAt { s with mem := { s.mem with l2 := l2 } } a m.sector := by
  obtain ⟨l2, noted, line⟩ := noteSer_keeps s a m
  refine ⟨l2, ?_⟩
  rw [atAgentMsg, kind]
  dsimp only
  rw [agentPnak, line, if_neg (not_not.2 ser.symm), noted]
  rfl

/-- A request that has just been refused is not raised again yet. -/
theorem pnakAgain_refusedAt (s : State) (a sec : Nat) : pnakAgain (refusedAt s a sec) a = refusedAt s a sec := by
  have due : nget (refusedAt s a sec).mem.pnak a = some (s.env.clk + nsToClk 1000) := nget_nset_self _ _ _
  have early : (refusedAt s a sec).env.clk < s.env.clk + nsToClk 1000 := Nat.lt_add_of_pos_right (by decide)
  rw [pnakAgain, due]
  exact if_pos early

/-! ### O6 -/

/-- Settles O6, by what each event sends and the one request or entry that it changes. -/
theorem requestsAreRetried : Obligations.RequestsAreRetried := by
  refine ⟨?_, ?_, ?_, ?_, ?_⟩
  · intro s a sec t asks first due young wide again
    obtain ⟨posts, sent, each⟩ := posts_sendRequest (askedAs s a sec { t with att := 2, deadline := s.env.clk + nsToClk (if wide then 6000 else 1200) })
      a sec t.wr t.t64 2 (s.agents.filter fun b => (b < 84 || (wide && !isRemote sec && 88 ≤ b)) && b ≠ a)
    have message : requestMsg (askedAs s a sec { t with att := 2, deadline := s.env.clk + nsToClk (if wide then 6000 else 1200) })
        a sec t.wr t.t64 2 = again := by
      rw [requestMsg, askedAs, State.modMem]
      dsimp only
      rw [nget_nset_self]
      rfl
    rw [message] at sent each
    refine ⟨_, congrArg Host.Outcome.next (retryExpired_again asks first due young), posts.trans_self, sent.inFlight,
      fun b hb other reach => (each b ?_).inFlight, congrArg (·.mem.l2) posts.rest, congrArg (·.thr) posts.rest⟩
    rw [List.mem_filter]
    refine ⟨hb, ?_⟩
    rcases reach with near | ⟨coherent, here, port⟩
    · simp [near, other]
    · simp [coherent, here, port, other]
  · intro s a sec t asks early due busy
    obtain ⟨posts, sent⟩ := persist_spec s a sec t
    exact ⟨_, congrArg Host.Outcome.next (retryExpired_persists asks early due), posts.trans_self, fun idle => (sent idle).inFlight,
      congrArg (·.mem.l2) posts.rest, congrArg (·.thr) posts.rest⟩
  · intro s h r e ptab pending quiet whole home x
    have entry : nget (s.home h).ptab r = some e := by
      rw [ptab]
      exact if_pos rfl
    have active := activated_activate entry
    have alone : activeEntry s h r e = { e with st := .active, rtime := s.ns % 2 ^ 32, blk := [] } := by
      rw [activeEntry, pendingOf, ptab]
      simp [pending]
    have table := active.ptab
    rw [ptab, alone] at table
    refine ⟨_, congrArg Host.Outcome.next (arbitrate_one ptab pending quiet whole), table.trans ?_, active.aseq,
      fun a ha => (active.told a ha).inFlight, fun wr some' => ?_, active.dram, active.thr⟩
    · simp [nset]
    · obtain ⟨kept, sent⟩ := active.gives wr some'
      refine ⟨kept, ?_⟩
      subst home
      exact sent.inFlight
  · intro s a sec due t pnak late small trans waits none'
    have nothing : (s.mem.net.filter fun p => p.2.kind = .pnak && p.2.dst = .agent a) = [] :=
      List.filter_eq_nil_iff.2 fun p hp => by simpa using none' p hp
    have run : exec (.pnakRetry a) s = .next (pnakAgain s a) := by
      rw [exec_pnakRetry, execPnakRetry, nothing]
      rfl
    rw [pnakAgain_due pnak late small trans waits] at run
    have idle : persistBusy (s.modMem fun m => { m with pnak := nerase m.pnak a }) a = false := by
      change s.mem.trans.any _ = false
      rw [trans]
      simp [waits]
    obtain ⟨posts, sent⟩ := persist_spec (s.modMem fun m => { m with pnak := nerase m.pnak a }) a sec t
    rw [idle] at posts
    refine ⟨_, run, (congrArg (fun v => nget v.mem.pnak a) posts.rest).trans ?_, posts.trans_self, (sent idle).inFlight,
      congrArg (·.thr) posts.rest⟩
    change nget (nerase s.mem.pnak a) a = none
    rw [nget_nerase, if_pos rfl]
  · intro s a id m t arrives net kind dst ser asks third
    have one : (s.mem.net.filter fun p => p.2.kind = .pnak && p.2.dst = .agent a) = [(id, m)] := by
      rw [net]
      simp [kind, dst]
    obtain ⟨l2, received⟩ := atAgentMsg_pnak (s := receivedBy s id a m.sector) kind ser
    have run : exec (.pnakRetry a) s = .next (refusedAt { receivedBy s id a m.sector with
        mem := { (receivedBy s id a m.sector).mem with l2 := l2 } } a m.sector) := by
      rw [exec_pnakRetry, execPnakRetry, one]
      change Host.Outcome.next (pnakAgain (deliver .pnak id s) a) = _
      rw [← kind, deliver_agent arrives dst, received, pnakAgain_refusedAt]
    refine ⟨_, run, ?_, nget_nset_self _ _ _, ?_, rfl⟩
    · change nget (nerase s.mem.net id) id = none
      rw [nget_nerase, if_pos rfl]
    · change nget (nmod s.mem.trans _ _) _ = _
      rw [nget_nmod_self, asks, Option.map_some, if_pos third]

end Sys2Proof.Machine
end

section
/-! Settles O54: what a home does with each message (R289 to R299). -/

namespace Sys2Proof.Machine

/-! ### A message received by a home -/

/-- A message has left the network. -/
def received (s : State) (id : Nat) : State := s.modMem fun x => { x with net := nerase x.net id }

theorem received_gone (s : State) (id : Nat) : nget (received s id).mem.net id = none := by
  change nget (nerase s.mem.net id) id = none
  rw [nget_nerase, if_pos rfl]

/-- What has been done with a received message leaves it out of the network. -/
theorem gone_of_arrives {s u : State} {id : Nat} {m : Msg} (arrives : Arrives s id m) (l : Later (received s id) u) : nget u.mem.net id = none :=
  l.gone arrives.2.1 (received_gone s id)

theorem deliver_home {s : State} {id h : Nat} {m : Msg} (arrives : Arrives s id m) (dst : m.dst = .home h) (near : h < 84) :
    deliver m.kind id s = atHomeMsg (received s id) h m := by
  obtain ⟨there, -, live, -⟩ := arrives
  rw [dst] at live
  rw [deliver, there]
  dsimp only
  rw [if_neg (not_not.2 rfl), dst, live, if_neg Bool.false_ne_true]
  exact if_neg (Nat.not_le.2 near)

section
variable {s : State} {h : Nat} {m : Msg}

theorem regrowUnread_known (known : (s.home h).unread.contains m.sector = false) : regrowUnread s h m.sector = s := by
  rw [regrowUnread, known, if_neg Bool.false_ne_true]

theorem adjustBudget_same (t64 : m.t64 = (s.smeta m.sector).t64) : adjustBudget s h m.sector m.t64 = s := by
  rw [adjustBudget]
  exact if_neg (by simp [t64])

/-- A home answers a request: it neither regrows nor asks for the sector. -/
def Quiet (s : State) (h sec : Nat) : Prop := regrowing s h sec = false ∧ homeAsks s h sec = false

theorem ignores_iff : (regrowing s h m.sector || homeAsks s h m.sector || (s.smeta m.sector).ser ≠ m.ser) = true ↔
    ¬(Quiet s h m.sector ∧ m.ser = (s.smeta m.sector).ser) := by
  rw [Quiet, eq_comm (a := m.ser)]
  cases regrowing s h m.sector <;> cases homeAsks s h m.sector <;> simp

section
variable (known : (s.home h).unread.contains m.sector = false)
include known

theorem homeRdt_ignores (ignores : ¬(Quiet s h m.sector ∧ m.ser = (s.smeta m.sector).ser)) : homeRdt s h m = s := by
  rw [homeRdt, regrowUnread_known known]
  exact if_pos (ignores_iff.2 ignores)

theorem homeWrt_ignores (ignores : ¬(Quiet s h m.sector ∧ m.ser = (s.smeta m.sector).ser)) : homeWrt s h m = s := by
  rw [homeWrt, regrowUnread_known known]
  exact if_pos (ignores_iff.2 ignores)

theorem homeRdt_answers (quiet : Quiet s h m.sector) (ser : m.ser = (s.smeta m.sector).ser) (t64 : m.t64 = (s.smeta m.sector).t64)
    (owner : (s.smeta m.sector).ho = true) : homeRdt s h m = homeTok s m.sector m.req 1 ((s.smeta m.sector).hn = 1) true false := by
  rw [homeRdt, regrowUnread_known known]
  dsimp only
  rw [if_neg fun ignores => ignores_iff.1 ignores ⟨quiet, ser⟩, adjustBudget_same t64, if_pos owner]

theorem homeWrt_answers (quiet : Quiet s h m.sector) (ser : m.ser = (s.smeta m.sector).ser) (t64 : m.t64 = (s.smeta m.sector).t64) :
    homeWrt s h m = homeTok (s.setMeta m.sector { s.smeta m.sector with md := true }) m.sector m.req (s.smeta m.sector).hn
      (s.smeta m.sector).ho (s.smeta m.sector).ho true m.acq := by
  rw [homeWrt, regrowUnread_known known]
  dsimp only
  rw [if_neg fun ignores => ignores_iff.1 ignores ⟨quiet, ser⟩, adjustBudget_same t64]

theorem homePreq_ignores (other : m.ser ≠ (s.smeta m.sector).ser) : homePreq s h m = s := by
  rw [homePreq, regrowUnread_known known]
  exact if_pos other.symm

theorem homePreq_enters (free : ∀ e, nget (s.home h).ptab m.req = some e → e.st ≠ .marked) (ser : m.ser = (s.smeta m.sector).ser)
    (t64 : m.t64 = (s.smeta m.sector).t64) : homePreq s h m = s.modHome h fun x =>
      { x with ptab := nset x.ptab m.req { blk := [], rtime := 0, st := .pending, wr := m.wr, ser := m.ser, sector := m.sector },
               after := x.after.filter (· ≠ m.req) } := by
  have barred : (match nget (s.home h).ptab m.req with | some e => decide (e.st = .marked) | none => false) = false := by
    cases here : nget (s.home h).ptab m.req with
    | none => rfl
    | some e => exact decide_eq_false (free e here)
  rw [homePreq, regrowUnread_known known]
  dsimp only
  rw [if_neg (not_not.2 ser.symm)]
  refine (if_neg (Bool.eq_false_iff.1 barred)).trans ?_
  rw [adjustBudget_same t64]

theorem homePreq_refuses {e : PEntry} (entry : nget (s.home h).ptab m.req = some e) (marked : e.st = .marked)
    (ser : m.ser = (s.smeta m.sector).ser) : homePreq s h m = send s { Msg.of .pnak (.home h) (.agent m.req) m.req m.sector (s.smeta m.sector).ser with
      t64 := (s.smeta m.sector).t64 } := by
  rw [homePreq, regrowUnread_known known]
  dsimp only
  rw [if_neg (not_not.2 ser.symm), entry]
  exact if_pos (by simp [marked])

end

theorem homeTokens_ignores (other : m.ser ≠ (s.smeta m.sector).ser) : homeTokens s h m = s := by
  rw [homeTokens]
  exact if_pos other.symm

/-- Dirty data that comes with the owner token goes to DRAM. -/
def dataHome (s : State) (m : Msg) : State :=
  if m.own && m.dty then s.modMem fun y => { y with dram := Memory.setBytes y.dram (m.sector * 64) m.data } else s

/-- A sector's metadata with the tokens of a message. -/
def Meta.taking (x : Meta) (m : Msg) : Meta :=
  { x with hn := x.hn + m.cnt, ho := x.ho || m.own, md := x.md && !m.own, poi := if (m.own && m.dty) = true then m.poi else x.poi }

theorem homeTokens_counts (ser : m.ser = (s.smeta m.sector).ser) (stays : regrowing s h m.sector = true ∨ activeFor s h m.sector = none) :
    homeTokens s h m = (dataHome s m).setMeta m.sector ((s.smeta m.sector).taking m) := by
  have steps : homeTokens s h m = match activeFor s h m.sector with
      | some (r, e) => if regrowing s h m.sector then (dataHome s m).setMeta m.sector ((s.smeta m.sector).taking m)
        else homeForward ((dataHome s m).setMeta m.sector ((s.smeta m.sector).taking m)) m.sector r e.wr
      | none => (dataHome s m).setMeta m.sector ((s.smeta m.sector).taking m) := by
    rw [homeTokens, dataHome, Meta.taking]
    dsimp only
    rw [if_neg (not_not.2 ser.symm)]
    cases m.own <;> cases m.dty <;> simp <;> rfl
  rw [steps]
  rcases stays with regrows | none'
  · cases activeFor s h m.sector with
    | none => rfl
    | some p => exact if_pos regrows
  · rw [none']

theorem homePdone_ignores (other : m.ser ≠ (s.smeta m.sector).ser) (a : Nat) : homePdone s h a m.sector m.ser = s := by
  rw [homePdone]
  cases nget (s.home h).ptab a with
  | none => rfl
  | some e => exact if_pos other.symm

end

/-! ### The end of an entry (R298) -/

section
variable {s : State} {h a sec : Nat} {e : PEntry}

/-- A home's entry is marked, and its agent served. -/
def markedAt (s : State) (h a : Nat) (e : PEntry) : State := s.modHome h fun x =>
  clearBlk { x with ptab := nset x.ptab a { e with st := .marked }, after := x.after.filter (· ≠ a) } a

theorem home_markedAt : (markedAt s h a e).home h =
    clearBlk { s.home h with ptab := nset (s.home h).ptab a { e with st := .marked }, after := (s.home h).after.filter (· ≠ a) } a := by
  rw [markedAt, State.home_modHome, if_pos rfl]

theorem homePdone_ends (entry : nget (s.home h).ptab a = some e) (idle : activeFor (markedAt s h a e) h sec = none) :
    homePdone s h a sec (s.smeta sec).ser = activateOrEnd (markedAt s h a e) h sec := by
  rw [homePdone, entry]
  dsimp only
  rw [if_neg (not_not.2 rfl)]
  exact if_pos (by rw [show activeFor (s.modHome h _) h sec = none from idle]; rfl)

theorem ptab_markedAt_alone (ptab : (s.home h).ptab = [(a, e)]) (free : e.blk = []) : ((markedAt s h a e).home h).ptab = [] := by
  rw [home_markedAt, clearBlk, ptab]
  simp [nset, nmap, free]

/-- Entries of two agents, in order. -/
def twoEntries (r a : Nat) (q e : PEntry) : NMap PEntry := if r < a then [(r, q), (a, e)] else [(a, e), (r, q)]

theorem ptab_markedAt_two {r : Nat} {q : PEntry} (ptab : (s.home h).ptab = twoEntries r a q e) (other : r ≠ a) (blocks : e.blk = [r])
    (pending : q.st = .pending) : ((markedAt s h a e).home h).ptab =
      twoEntries r a { q with blk := q.blk.filter (· ≠ a) } { e with st := .marked } := by
  have kept : ([r] : List Nat).filter (· ≠ a) = [r] := by simp [other]
  have entry : ({ e with st := .marked, blk := [r] } : PEntry) = { e with st := .marked } := by rw [← blocks]
  rw [home_markedAt, clearBlk, ptab, twoEntries, twoEntries]
  split
  next first =>
    have put : nset [(r, q), (a, e)] a { e with st := .marked } = [(r, q), (a, { e with st := .marked })] := by
      simp [nset, Nat.not_lt.2 first.le, other]
    dsimp only
    rw [put]
    simp [nmap, blocks, other, pending]
  next first =>
    have put : nset [(a, e), (r, q)] a { e with st := .marked } = [(a, { e with st := .marked }), (r, q)] := by simp [nset]
    dsimp only
    rw [put]
    simp [nmap, blocks, other, pending]

theorem nget_twoEntries {r : Nat} {q : PEntry} (other : r ≠ a) : nget (twoEntries r a q e) r = some q ∧ nget (twoEntries r a q e) a = some e := by
  rw [twoEntries]
  split <;> simp [nget, other, other.symm]

end

theorem activateOrEnd_next {s : State} {h sec r : Nat} (next : nextPending s h sec = some r) (quiet : homeAsks s h sec = false)
    (whole : regrowing s h sec = false) : activateOrEnd s h sec = activate s h r := by
  rw [activateOrEnd, next]
  dsimp only
  rw [quiet, whole]
  exact if_neg Bool.false_ne_true

/-! ### O54 -/

theorem servedEntryEnds : Claims.ServedEntryEnds := by
  intro s id m h e arrives kind dst near entry active sector ser x told
  have run : exec (.pdone id) s = .next (homePdone (received s id) h m.req m.sector ((received s id).smeta m.sector).ser) := by
    have delivered := deliver_home arrives dst near
    rw [kind] at delivered
    rw [exec_pdone, execPdone, delivered, atHomeMsg, kind]
    dsimp only
    rw [ser]
    rfl
  have entry' : nget ((received s id).home h).ptab m.req = some e := entry
  refine ⟨fun ptab free => ?_, fun r q ptab blocks pending same quietly whole => ?_⟩
  · have table := ptab_markedAt_alone (s := received s id) (h := h) ptab free
    have none' : activeFor (markedAt (received s id) h m.req e) h m.sector = none := by
      rw [activeFor, table]
      rfl
    have last : nextPending (markedAt (received s id) h m.req e) h m.sector = none := by
      rw [nextPending, table]
      rfl
    rw [homePdone_ends entry' none', activateOrEnd, last] at run
    have posts := posts_broadcast (markedAt (received s id) h m.req e) { Msg.of .pdeact (.home h) (.home h) 999 m.sector
      ((markedAt (received s id) h m.req e).smeta m.sector).ser with aseq := ((markedAt (received s id) h m.req e).home h).aseq }
    refine ⟨_, run, (congrArg (fun v => (v.home h).ptab) posts.rest).trans table, congrArg (·.mem.smeta) posts.rest,
      congrArg (·.mem.dram) posts.rest, fun a ha => ?_⟩
    have sent := sent_broadcast (markedAt (received s id) h m.req e) { Msg.of .pdeact (.home h) (.home h) 999 m.sector
      ((markedAt (received s id) h m.req e).smeta m.sector).ser with aseq := ((markedAt (received s id) h m.req e).home h).aseq } ha
    rw [home_markedAt] at sent ⊢
    exact sent.inFlight
  · have order : ((received s id).home h).ptab = twoEntries r m.req q e ∧ r ≠ m.req := by
      rcases ptab with ⟨ptab, first⟩ | ⟨ptab, first⟩
      · exact ⟨ptab.trans (if_pos first).symm, first.ne⟩
      · exact ⟨ptab.trans (if_neg first.le.not_gt).symm, first.ne'⟩
    obtain ⟨ptab, other⟩ := order
    have table := ptab_markedAt_two ptab other blocks pending
    have homes := home_markedAt (s := received s id) (h := h) (a := m.req) (e := e)
    have none' : activeFor (markedAt (received s id) h m.req e) h m.sector = none := by
      rw [activeFor, table, twoEntries]
      split <;> simp [pending]
    have next : nextPending (markedAt (received s id) h m.req e) h m.sector = some r := by
      rw [nextPending, table, twoEntries]
      split <;> simp [pending, same]
    have asks : homeAsks (markedAt (received s id) h m.req e) h m.sector = false := by
      rw [homeAsks, homes]
      exact quietly
    have regrows : regrowing (markedAt (received s id) h m.req e) h m.sector = false := by
      rw [regrowing, homes]
      exact whole
    rw [homePdone_ends entry' none', activateOrEnd_next next asks regrows] at run
    obtain ⟨entryR, entryA⟩ := nget_twoEntries (q := { q with blk := q.blk.filter (· ≠ m.req) }) (e := { e with st := .marked }) other
    have made := activated_activate (s := markedAt (received s id) h m.req e) (h := h) (r := r) (by rw [table]; exact entryR)
    have alone : (pendingOf ((markedAt (received s id) h m.req e).home h)).filter (· ≠ r) = [] := by
      rw [pendingOf, table, twoEntries]
      split <;> simp [pending]
    have aseq : nextAseq (markedAt (received s id) h m.req e) h = ((s.home h).aseq + 1) % 65536 := by
      rw [nextAseq, homes]
      rfl
    have ptab' := made.ptab
    rw [table, activeEntry, alone] at ptab'
    refine ⟨_, run, ?_, ?_, made.aseq.trans aseq, made.dram, fun a ha => ?_⟩
    · rw [ptab', nget_nset_ne _ _ _ _ other.symm, entryA]
    · rw [ptab', nget_nset_self]
      rfl
    · have sent := made.told a ha
      rw [pactMsg, aseq] at sent
      dsimp only at sent
      rw [same] at sent
      exact sent.inFlight

theorem dataHome_keeps (s : State) (m : Msg) : ∃ d, dataHome s m = { s with mem := { s.mem with dram := d } } ∧
    ((m.own && m.dty) = true → d = Memory.setBytes s.mem.dram (m.sector * 64) m.data) ∧ ((m.own && m.dty) = false → d = s.mem.dram) := by
  rw [dataHome]
  cases m.own && m.dty
  · exact ⟨s.mem.dram, rfl, fun yes => absurd yes Bool.false_ne_true, fun _ => rfl⟩
  · exact ⟨_, rfl, fun _ => rfl, fun no => absurd no.symm Bool.false_ne_true⟩

theorem homeServesMessages : Claims.HomeServesMessages := by
  intro s id m h arrives dst near known x at' tok data quiet
  have home : homeOf m.sector = h := by
    have there := arrives.2.2.2
    rw [dst] at there
    exact there.symm
  have run : deliver m.kind id s = atHomeMsg (received s id) h m := deliver_home arrives dst near
  have known' : ((received s id).home h).unread.contains m.sector = false := known
  refine ⟨fun kind calm ser t64 owner => ?_, fun kind calm ser t64 => ?_, fun busy => ?_, fun kind stays ser => ?_, fun kind free ser t64 => ?_,
    fun e kind entry marked ser => ?_, fun other => ?_, fun other => ?_⟩
  · rw [atHomeMsg, kind] at run
    dsimp only at run
    rw [homeRdt_answers known' calm ser t64 owner] at run
    have sends := homeSends_homeTok (received s id) m.sector m.req 1 (((received s id).smeta m.sector).hn = 1) true false 0
    refine ⟨_, congrArg Host.Outcome.next run, gone_of_arrives arrives sends.later, ?_, ?_, sends.dram, sends.thr⟩
    · rw [sends.smeta_self]
      change ({ x with hn := x.hn - 1, ho := x.ho && !decide (x.hn = 1) } : Meta) = _
      rw [owner, Bool.true_and, decide_not]
    · have sent := sends.sent
      rw [homeTokMsg, home] at sent
      exact sent.inFlight
  · rw [atHomeMsg, kind] at run
    dsimp only at run
    rw [homeWrt_answers known' calm ser t64] at run
    have sends := homeSends_homeTok ((received s id).setMeta m.sector { x with md := true }) m.sector m.req x.hn x.ho x.ho true m.acq
    have marked : ((received s id).setMeta m.sector { x with md := true }).smeta m.sector = { x with md := true } := by
      rw [State.smeta_setMeta, if_pos rfl]
    refine ⟨_, congrArg Host.Outcome.next run, gone_of_arrives arrives sends.later, ?_, ?_, sends.dram, sends.thr⟩
    · refine sends.smeta_self.trans ?_
      rw [marked]
      simp
    · have sent := sends.sent
      rw [homeTokMsg, home, marked] at sent
      exact sent.inFlight
  · rw [atHomeMsg] at run
    refine ⟨fun kind => ?_, fun kind => ?_⟩ <;> rw [kind] at run <;> dsimp only at run
    · rw [homeRdt_ignores known' fun answers => busy answers.1] at run
      exact congrArg Host.Outcome.next run
    · rw [homeWrt_ignores known' fun answers => busy answers.1] at run
      exact congrArg Host.Outcome.next run
  · have counted : exec (if m.kind = .wb then .wb id else .tok id) s =
        .next ((dataHome (received s id) m).setMeta m.sector (((received s id).smeta m.sector).taking m)) := by
      rw [← homeTokens_counts (s := received s id) ser stays]
      rcases kind with kind | kind <;> rw [atHomeMsg, kind] at run <;> dsimp only at run <;> rw [kind]
      · exact congrArg Host.Outcome.next run
      · exact congrArg Host.Outcome.next run
    obtain ⟨d, left, put, kept⟩ := dataHome_keeps (received s id) m
    rw [left] at counted
    refine ⟨_, counted, received_gone s id, ?_, fun own dty length => ?_, kept, rfl, rfl⟩
    · rw [State.smeta_setMeta, if_pos rfl]
      rfl
    · have written : d = Memory.setBytes s.mem.dram at' m.data := put (by rw [own, dty]; rfl)
      change Memory.bytes d at' 64 = m.data ∧ ∀ a, a < at' ∨ at' + 64 ≤ a → Memory.byte d a = Memory.byte s.mem.dram a
      rw [written]
      refine ⟨?_, fun a outside => ?_⟩
      · rw [← length]
        exact bytes_setBytes_self ..
      · rw [Memory.byte_setBytes, if_neg (by omega)]
  · rw [atHomeMsg, kind] at run
    dsimp only at run
    rw [homePreq_enters known' free ser t64] at run
    refine ⟨_, congrArg Host.Outcome.next run, received_gone s id, ?_, rfl, rfl, rfl⟩
    rw [State.home_modHome, if_pos rfl]
    exact nget_nset_self _ _ _
  · rw [atHomeMsg, kind] at run
    dsimp only at run
    rw [homePreq_refuses known' entry marked ser] at run
    exact ⟨_, congrArg Host.Outcome.next run, (sent_send _ _).inFlight, rfl, rfl, rfl⟩
  · intro f hf kind
    have other' : m.ser ≠ ((received s id).smeta m.sector).ser := other
    rw [atHomeMsg, kind] at run
    simp only [List.mem_cons, List.not_mem_nil, or_false] at hf
    rcases hf with rfl | rfl | rfl | rfl | rfl | rfl <;> dsimp only at run
    · rw [homeRdt_ignores known' fun answers => other answers.2] at run
      exact congrArg Host.Outcome.next run
    · rw [homeWrt_ignores known' fun answers => other answers.2] at run
      exact congrArg Host.Outcome.next run
    · rw [homeTokens_ignores other'] at run
      exact congrArg Host.Outcome.next run
    · rw [homeTokens_ignores other'] at run
      exact congrArg Host.Outcome.next run
    · rw [homePreq_ignores known' other'] at run
      exact congrArg Host.Outcome.next run
    · rw [homePdone_ignores other'] at run
      exact congrArg Host.Outcome.next run
  · intro f hf kind
    rw [atHomeMsg, kind] at run
    simp only [List.mem_cons, List.not_mem_nil, or_false] at hf
    rcases hf with rfl | rfl <;> dsimp only at run
    · rw [homeRgack, if_pos (show homeSer (received s id) h m.sector ≠ m.ser from other.symm)] at run
      exact congrArg Host.Outcome.next run
    · rw [homeRgdata, if_pos (show homeSer (received s id) h m.sector ≠ m.ser from other.symm)] at run
      exact congrArg Host.Outcome.next run

/-- Settles O54, by cases of a message's kind; the entry of a served agent ends alone, or makes the one that it blocked active. -/
theorem homeServes : Obligations.HomeServes := ⟨homeServesMessages, servedEntryEnds⟩

end Sys2Proof.Machine
end

section
/-! Settles O8: token regrowth (R302, R303, R309). -/

namespace Sys2Proof.Machine

/-! ### The start -/

theorem agents_ne_nil (s : State) : s.agents ≠ [] :=
  List.ne_nil_of_mem (a := 88) (List.mem_filter.2 ⟨List.mem_range.2 (by decide), rfl⟩)

/-- The serial number that regrowth ends: of a sector whose metadata is unreadable, the one before. -/
def regrowSer (s : State) (h sec : Nat) : Nat :=
  if (s.home h).unread.contains sec then ((s.smeta sec).ser + 15) % 16 else (s.smeta sec).ser

/-- A regrowth as it starts. -/
def newRegrow (s : State) (h sec : Nat) : Regrow :=
  { sector := sec, ser := regrowSer s h sec, hadHo := (s.smeta sec).ho, waitAck := s.agents, waitData := [], lostData := false, data := none,
    since := s.env.clk }

/-- Every agent has been sent a message about a sector of the state before. -/
def ToldAll (s u : State) (sec : Nat) (m : Msg) : Prop := ∀ a ∈ s.agents, InFlight u { m with dst := .agent a, t64 := (s.smeta sec).t64 }

/-- Regrowth of a sector has started. -/
structure RegrowStarts (s u : State) (h sec : Nat) : Prop where
  smeta : u.smeta sec = { s.smeta sec with hn := 0, ho := false }
  regrow : (u.home h).regrow = [newRegrow s h sec]
  known : (u.home h).unread.contains sec = false
  told : ToldAll s u sec (Msg.of .rgstart (.home h) (.home h) 999 sec (regrowSer s h sec))
  dram : u.mem.dram = s.mem.dram
  thr : u.thr = s.thr
  deferred : (u.home h).deferred = (s.home h).deferred.filter (· ≠ sec)

/-- Regrowth as it starts, before its messages. -/
def regrowBegun (s : State) (h sec : Nat) : State :=
  (s.modHome h fun y =>
    { y with deferred := y.deferred.filter (· ≠ sec), unread := y.unread.filter (· ≠ sec),
             regrow := y.regrow ++ [newRegrow s h sec] }).setMeta sec { s.smeta sec with hn := 0, ho := false }

theorem startRegrow_starts {s : State} {h : Nat} (sec : Nat) (none' : (s.home h).regrow = []) : RegrowStarts s (startRegrow s h sec) h sec := by
  have run : startRegrow s h sec =
      checkRegrow (broadcast (regrowBegun s h sec) (Msg.of .rgstart (.home h) (.home h) 999 sec (regrowSer s h sec))) h sec := rfl
  have posts := posts_broadcast (regrowBegun s h sec) (Msg.of .rgstart (.home h) (.home h) 999 sec (regrowSer s h sec))
  have told {a : Nat} (ha : a ∈ s.agents) :=
    sent_broadcast (regrowBegun s h sec) (Msg.of .rgstart (.home h) (.home h) 999 sec (regrowSer s h sec)) (a := a) ha
  have home : (regrowBegun s h sec).home h =
      { s.home h with
        deferred := (s.home h).deferred.filter (· ≠ sec), unread := (s.home h).unread.filter (· ≠ sec), regrow := [newRegrow s h sec] } := by
    have put := State.home_modHome s h (fun y =>
      { y with deferred := y.deferred.filter (· ≠ sec), unread := y.unread.filter (· ≠ sec),
               regrow := y.regrow ++ [newRegrow s h sec] }) h
    rw [if_pos rfl, none', List.nil_append] at put
    exact put
  have smeta : (regrowBegun s h sec).smeta sec = { s.smeta sec with hn := 0, ho := false } := by
    rw [regrowBegun, State.smeta_setMeta, if_pos rfl]
  rw [run]
  generalize broadcast (regrowBegun s h sec) (Msg.of .rgstart (.home h) (.home h) 999 sec (regrowSer s h sec)) = v at posts told ⊢
  have home' : v.home h = _ := (congrArg (fun w => w.home h) posts.rest).trans home
  have waits : checkRegrow v h sec = v := by
    have found : ((v.home h).regrow.find? fun r => r.sector = sec) = some (newRegrow s h sec) := by
      rw [home']
      exact List.find?_cons_of_pos (by simp [newRegrow])
    rw [checkRegrow, found]
    exact if_neg (by simp [newRegrow, agents_ne_nil])
  rw [waits]
  refine ⟨(congrArg (fun w => w.smeta sec) posts.rest).trans smeta, ?_, ?_, fun a ha => ?_, congrArg (·.mem.dram) posts.rest,
    congrArg (·.thr) posts.rest, ?_⟩
  · rw [home']
  · rw [home']
    simp
  · have sent := told ha
    rw [show (Msg.of .rgstart (.home h) (.home h) 999 sec (regrowSer s h sec)).sector = sec from rfl, smeta] at sent
    exact sent.inFlight
  · rw [home']

/-! ### The end -/

/-- DRAM with the data that regrowth brought. -/
def regrowDram (d : Memory) (r : Regrow) : Memory :=
  match r.data with
  | some (l, _) => Memory.setBytes d (r.sector * 64) l
  | none => d

/-- A sector's poison after regrowth. -/
def regrowPoi (x : Meta) (r : Regrow) : Bool :=
  match r.data with
  | some (_, p) => p
  | none => x.poi || r.lostData || (!r.hadHo && x.md)

/-- A sector's metadata after regrowth: every token is at home under the next serial number. -/
def regrownMeta (x : Meta) (r : Regrow) : Meta :=
  { x with ser := (x.ser + 1) % 16, hn := x.budget, ho := true, poi := regrowPoi x r, md := if r.data.isSome then false else x.md }

/-- Regrowth of a sector has ended. -/
structure RegrowEnds (s u : State) (h : Nat) (r : Regrow) : Prop where
  regrow : (u.home h).regrow = []
  smeta : u.smeta r.sector = regrownMeta (s.smeta r.sector) r
  told : ToldAll s u r.sector (Msg.of .rgend (.home h) (.home h) 999 r.sector (((s.smeta r.sector).ser + 1) % 16))
  dram : u.mem.dram = regrowDram s.mem.dram r

/-- Regrowth as it ends, before its messages. -/
def regrowOver (s : State) (h : Nat) (r : Regrow) : State :=
  ((s.modMem fun m => { m with dram := regrowDram m.dram r }).setMeta r.sector (regrownMeta (s.smeta r.sector) r)).modHome h fun y =>
    { y with regrow := y.regrow.filter fun q => q.sector ≠ r.sector, recent := nset y.recent r.sector s.env.clk }

theorem finishRegrow_eq (s : State) (h : Nat) (r : Regrow) : finishRegrow s h r =
    (let v := broadcast (regrowOver s h r) (Msg.of .rgend (.home h) (.home h) 999 r.sector (((s.smeta r.sector).ser + 1) % 16))
    match activeFor v h r.sector with
    | some (a, e) => homeForward (if e.wr then v.setMeta r.sector { v.smeta r.sector with md := true } else v) r.sector a e.wr
    | none => v) := by
  rw [finishRegrow, regrowOver, regrownMeta, regrowPoi]
  cases data : r.data with
  | none =>
    simp only [regrowDram, data]
    rfl
  | some d =>
    simp only [regrowDram, data]
    rfl

theorem finishRegrow_ends {s : State} {h : Nat} {r : Regrow} (one : (s.home h).regrow = [r]) (idle : activeFor s h r.sector = none) :
    RegrowEnds s (finishRegrow s h r) h r := by
  have posts := posts_broadcast (regrowOver s h r) (Msg.of .rgend (.home h) (.home h) 999 r.sector (((s.smeta r.sector).ser + 1) % 16))
  have told {a : Nat} (ha : a ∈ s.agents) :=
    sent_broadcast (regrowOver s h r) (Msg.of .rgend (.home h) (.home h) 999 r.sector (((s.smeta r.sector).ser + 1) % 16)) (a := a) ha
  have home : (regrowOver s h r).home h = { s.home h with regrow := [], recent := nset (s.home h).recent r.sector s.env.clk } := by
    have put := State.home_modHome ((s.modMem fun m => { m with dram := regrowDram m.dram r }).setMeta r.sector (regrownMeta (s.smeta r.sector) r)) h
      (fun y => { y with regrow := y.regrow.filter fun q => q.sector ≠ r.sector, recent := nset y.recent r.sector s.env.clk }) h
    rw [if_pos rfl] at put
    refine put.trans ?_
    change ({ s.home h with regrow := (s.home h).regrow.filter fun q => q.sector ≠ r.sector, recent := nset (s.home h).recent r.sector s.env.clk } : Home) = _
    rw [one]
    simp
  have smeta : (regrowOver s h r).smeta r.sector = regrownMeta (s.smeta r.sector) r :=
    (State.smeta_setMeta _ _ _ _).trans (if_pos rfl)
  rw [finishRegrow_eq]
  dsimp only
  generalize broadcast (regrowOver s h r) (Msg.of .rgend (.home h) (.home h) 999 r.sector (((s.smeta r.sector).ser + 1) % 16)) = v at posts told ⊢
  have home' : v.home h = _ := (congrArg (fun w => w.home h) posts.rest).trans home
  have none' : activeFor v h r.sector = none := by
    rw [activeFor, home']
    exact idle
  rw [none']
  refine ⟨?_, (congrArg (fun w => w.smeta r.sector) posts.rest).trans smeta, fun a ha => ?_, congrArg (·.mem.dram) posts.rest⟩
  · rw [home']
  · have sent := told ha
    rw [show (Msg.of .rgend (.home h) (.home h) 999 r.sector (((s.smeta r.sector).ser + 1) % 16)).sector = r.sector from rfl, smeta] at sent
    exact sent.inFlight

/-! ### Regrowth that goes on -/

section
variable {s : State} {h : Nat} {r : Regrow} (one : (s.home h).regrow = [r])
include one

theorem find_regrow : ((s.home h).regrow.find? fun q => q.sector = r.sector) = some r := by
  rw [one]
  exact List.find?_cons_of_pos (decide_eq_true rfl)

theorem checkRegrow_ends (acks : r.waitAck = []) (data : r.waitData = []) : checkRegrow s h r.sector = finishRegrow s h r := by
  rw [checkRegrow, find_regrow one]
  exact if_pos (by rw [acks, data]; rfl)

theorem checkRegrow_waits (waits : r.waitAck ≠ [] ∨ r.waitData ≠ []) : checkRegrow s h r.sector = s := by
  rw [checkRegrow, find_regrow one]
  exact if_neg (by rcases waits with acks | data <;> simp_all)

theorem home_modRegrow (g : Regrow → Regrow) : (modRegrow s h r.sector g).home h = { s.home h with regrow := [g r] } := by
  rw [modRegrow, State.home_modHome, if_pos rfl, one]
  simp

theorem homeSer_of_regrow : homeSer s h r.sector = r.ser := by
  rw [homeSer, find_regrow one]

/-- Regrowth that waits for nothing more once it is changed ends. -/
theorem modRegrow_ends {g : Regrow → Regrow} (sector : (g r).sector = r.sector) (acks : (g r).waitAck = []) (data : (g r).waitData = [])
    (idle : activeFor s h r.sector = none) : RegrowEnds s (checkRegrow (modRegrow s h r.sector g) h r.sector) h (g r) := by
  have home := home_modRegrow one g
  have one' : ((modRegrow s h r.sector g).home h).regrow = [g r] := by rw [home]
  have idle' : activeFor (modRegrow s h r.sector g) h (g r).sector = none := by
    rw [activeFor, home, sector]
    exact idle
  have check := checkRegrow_ends one' acks data
  rw [sector] at check
  rw [check]
  obtain ⟨regrow, smeta, told, dram⟩ := finishRegrow_ends one' idle'
  exact ⟨regrow, smeta, told, dram⟩

/-- Regrowth that still waits once it is changed goes on. -/
theorem modRegrow_waits {g : Regrow → Regrow} (sector : (g r).sector = r.sector) (waits : (g r).waitAck ≠ [] ∨ (g r).waitData ≠ []) :
    checkRegrow (modRegrow s h r.sector g) h r.sector = modRegrow s h r.sector g := by
  have one' : ((modRegrow s h r.sector g).home h).regrow = [g r] := by rw [home_modRegrow one g]
  have check := checkRegrow_waits one' waits
  rwa [sector] at check

end

section
variable {s : State} {h : Nat} (none' : (s.home h).regrow = [])
include none'

theorem regrowing_of_nil (sec : Nat) : regrowing s h sec = false := by
  rw [regrowing, none']
  rfl

theorem triggerRegrow_starts {sec : Nat} (may : mayRegrow s h sec = true) : triggerRegrow s h sec = startRegrow s h sec := by
  rw [triggerRegrow, regrowing_of_nil none', if_neg Bool.false_ne_true, if_pos may]

theorem triggerRegrow_defers {sec : Nat} (may : mayRegrow s h sec = false) :
    triggerRegrow s h sec = s.modHome h fun x =>
      { x with deferred := if x.deferred.contains sec then x.deferred else x.deferred ++ [sec] } := by
  rw [triggerRegrow, regrowing_of_nil none', if_neg Bool.false_ne_true, may, if_neg Bool.false_ne_true]

/-- A request for a sector whose metadata is unreadable starts its regrowth, and is not answered. -/
theorem request_regrows {m : Msg} (unread : (s.home h).unread.contains m.sector = true) (may : mayRegrow s h m.sector = true) :
    homeRdt s h m = startRegrow s h m.sector ∧ homeWrt s h m = startRegrow s h m.sector := by
  have begun : regrowing (startRegrow s h m.sector) h m.sector = true := by
    rw [regrowing, (startRegrow_starts m.sector none').regrow]
    simp [newRegrow]
  have first : regrowUnread s h m.sector = startRegrow s h m.sector := by
    rw [regrowUnread, if_pos unread, triggerRegrow_starts none' may]
  constructor
  · rw [homeRdt, first]
    exact if_pos (by rw [begun]; rfl)
  · rw [homeWrt, first]
    exact if_pos (by rw [begun]; rfl)

end

/-- What an RGACK and an RGDATA change of the regrowth that they are for. -/
def Regrow.acked (r : Regrow) (m : Msg) (now : Nat) : Regrow :=
  { r with waitAck := r.waitAck.filter (· ≠ m.req), waitData := if m.dty && r.data.isNone then nset r.waitData m.req now else r.waitData }
def Regrow.given (r : Regrow) (m : Msg) : Regrow := { r with data := some (m.data, m.poi), waitData := nerase r.waitData m.req }

/-- What the time that an RGDATA or an RGACK may take changes of a regrowth. -/
def Regrow.dataLost (r : Regrow) (a : Nat) : Regrow := { r with waitData := nerase r.waitData a, lostData := true }
def Regrow.ackLost (r : Regrow) (a : Nat) : Regrow := { r with waitAck := r.waitAck.filter (· ≠ a) }

theorem homeRgack_eq {s : State} {h : Nat} {r : Regrow} {m : Msg} (one : (s.home h).regrow = [r]) (sector : r.sector = m.sector)
    (ser : m.ser = r.ser) {now : Nat} (clk : s.env.clk = now) :
    homeRgack s h m = checkRegrow (modRegrow s h r.sector fun r => r.acked m now) h r.sector := by
  subst clk
  have known := homeSer_of_regrow one
  rw [sector] at known ⊢
  rw [homeRgack, if_neg (not_not.2 (known.trans ser.symm))]
  rfl

theorem homeRgdata_eq {s : State} {h : Nat} {r : Regrow} {m : Msg} (one : (s.home h).regrow = [r]) (sector : r.sector = m.sector)
    (ser : m.ser = r.ser) : homeRgdata s h m = checkRegrow (modRegrow s h r.sector fun r => r.given m) h r.sector := by
  have known := homeSer_of_regrow one
  rw [sector] at known ⊢
  rw [homeRgdata, if_neg (not_not.2 (known.trans ser.symm))]
  rfl

theorem nset_ne_nil {α : Type} (m : NMap α) (k : Nat) (v : α) : nset m k v ≠ [] :=
  fun empty => by
    have put := nget_nset_self m k v
    rw [empty] at put
    exact Option.some_ne_none v put.symm

/-- REGROWTH_WAIT_TIMEOUT on an RGDATA that has not come in time. -/
theorem regrowthWaitTimeout_data {s : State} {h a t : Nat} {r : Regrow} (one : (s.home h).regrow = [r]) (data : r.waitData = [(a, t)])
    (late : t + nsToClk 1000000 ≤ s.env.clk) :
    exec (.regrowthWaitTimeout h r.sector a) s = .next (checkRegrow (modRegrow s h r.sector fun r => r.dataLost a) h r.sector) := by
  have due : (nget r.waitData a).any (fun t => t + nsToClk 1000000 ≤ s.env.clk) = true := by
    have since : nget r.waitData a = some t := by rw [data, nget, if_pos rfl]
    rw [since, Option.any_some, decide_eq_true late]
  rw [exec_regrowthWaitTimeout, execRegrowthWaitTimeout, find_regrow one]
  dsimp only
  rw [due, if_pos rfl]
  rfl

/-- REGROWTH_WAIT_TIMEOUT on an acknowledgement that a fabric port has not given in time. -/
theorem regrowthWaitTimeout_ack {s : State} {h a : Nat} {r : Regrow} (one : (s.home h).regrow = [r]) (acks : r.waitAck = [a])
    (data : r.waitData = []) (port : 88 ≤ a) (late : r.since + nsToClk 2000000000 ≤ s.env.clk) :
    exec (.regrowthWaitTimeout h r.sector a) s = .next (checkRegrow (modRegrow s h r.sector fun r => r.ackLost a) h r.sector) := by
  have here : r.waitAck.contains a = true := by rw [acks, List.contains_cons, beq_self_eq_true, Bool.true_or]
  rw [exec_regrowthWaitTimeout, execRegrowthWaitTimeout, find_regrow one]
  dsimp only
  rw [data, here, decide_eq_true port, decide_eq_true late]
  rfl

/-! ### O8 -/

/-- Settles O8: regrowth starts in one way whatever triggers it, and ends in one way whatever it waited for last. -/
theorem regrowthStartsAndEnds : Obligations.RegrowthStartsAndEnds := by
  intro s h sec here near x ser told starts ends
  have begins {v : State} (same : ∃ id, v = s ∨ v = received s id) (st : RegrowStarts v (startRegrow v h sec) h sec) :
      starts (startRegrow v h sec) := by
    obtain ⟨id, rfl | rfl⟩ := same <;>
      exact ⟨st.smeta, st.regrow, st.known, st.told, st.dram, st.thr⟩
  have finishes {u : State} {r : Regrow} (sector : r.sector = sec) (en : RegrowEnds s u h r) : ends u := by
    have smeta := en.smeta
    have toldAll := en.told
    rw [sector] at smeta toldAll
    refine ⟨en.regrow, ?_, ?_, ?_, toldAll⟩ <;> rw [smeta] <;> rfl
  refine ⟨fun none' may _ due => ?_, fun none' may fresh due => ?_, fun none' may fresh => ?_,
    fun id m arrives dst sector unread none' may f hf kind => ?_, fun id m r arrives kind dst sector ser clean one same acks data idle => ?_,
    fun id m r arrives kind dst sector ser dirty one same data => ?_, fun id m r arrives kind dst sector ser one same acks => ?_,
    fun a r at' one same acks data late fresh idle => ?_, fun a r one same acks port data late idle => ?_⟩
  · refine ⟨startRegrow s h sec, ?_, begins ⟨0, .inl rfl⟩ (startRegrow_starts sec none')⟩
    rw [exec_regrowthTrigger, execRegrowthTrigger, if_pos due, triggerRegrow_starts none' may]
  · have run : exec (.regrowthTrigger h sec) s = .next (s.modHome h fun x =>
        { x with deferred := if x.deferred.contains sec then x.deferred else x.deferred ++ [sec] }) := by
      rw [exec_regrowthTrigger, execRegrowthTrigger, if_pos due, triggerRegrow_defers none' may]
    refine ⟨_, run, ?_, ?_, rfl, rfl, rfl⟩ <;> rw [State.home_modHome, if_pos rfl]
    · rw [fresh]
      rfl
    · exact none'
  · have st := startRegrow_starts sec none'
    have go : ((s.home h).deferred.contains sec && mayRegrow s h sec && !regrowing s h sec) = true := by
      rw [fresh, may, regrowing_of_nil none']
      simp
    refine ⟨startRegrow s h sec, ?_, begins ⟨0, .inl rfl⟩ st, ?_⟩
    · rw [exec_regrowthDeferralExpiry, execRegrowthDeferralExpiry, if_pos go]
    · rw [st.deferred, fresh]
      simp
  · subst sector
    obtain ⟨rdt, wrt⟩ := request_regrows (s := received s id) (m := m) none' unread may
    have st : RegrowStarts (received s id) (startRegrow (received s id) h m.sector) h m.sector := startRegrow_starts m.sector none'
    have run := deliver_home arrives dst near
    rw [atHomeMsg, kind] at run
    refine ⟨startRegrow (received s id) h m.sector, ?_, begins ⟨id, .inr rfl⟩ st⟩
    simp only [List.mem_cons, List.not_mem_nil, or_false] at hf
    rcases hf with rfl | rfl <;> dsimp only at run
    · rw [rdt] at run
      exact congrArg Host.Outcome.next run
    · rw [wrt] at run
      exact congrArg Host.Outcome.next run
  · have run := deliver_home arrives dst near
    rw [atHomeMsg, kind] at run
    dsimp only at run
    rw [homeRgack_eq (s := received s id) one (same.trans sector.symm) ser (now := s.env.clk) rfl] at run
    have last : (r.acked m s.env.clk).waitAck = [] ∧ (r.acked m s.env.clk).waitData = [] := by
      rw [Regrow.acked, acks, data, clean]
      simp
    obtain ⟨regrow, smeta, toldAll, dram⟩ := modRegrow_ends (s := received s id) (g := fun r => r.acked m s.env.clk) one rfl last.1 last.2
      (same ▸ idle)
    have en : RegrowEnds s _ h (r.acked m s.env.clk) := ⟨regrow, smeta, toldAll, dram⟩
    have poi := congrArg Meta.poi smeta
    rw [show (r.acked m s.env.clk).sector = sec from same] at poi
    refine ⟨_, congrArg Host.Outcome.next run, finishes (r := r.acked m s.env.clk) same en, fun d p came length => ?_, fun lost whole owner => ?_⟩
    · rw [dram, poi]
      simp only [regrowDram, regrownMeta, regrowPoi, Regrow.acked, came, same, and_true]
      rw [← length]
      exact bytes_setBytes_self ..
    · rw [dram, poi]
      simp [regrowDram, regrownMeta, regrowPoi, Regrow.acked, lost, whole, owner]
      exact ⟨rfl, rfl⟩
  · have run := deliver_home arrives dst near
    rw [atHomeMsg, kind] at run
    dsimp only at run
    have waits : (r.acked m s.env.clk).waitData ≠ [] := by
      rw [Regrow.acked, dirty, data]
      exact nset_ne_nil _ _ _
    rw [homeRgack_eq (s := received s id) one (same.trans sector.symm) ser (now := s.env.clk) rfl,
      modRegrow_waits (s := received s id) (g := fun r => r.acked m s.env.clk) one rfl (.inr waits)] at run
    refine ⟨_, congrArg Host.Outcome.next run, ?_, rfl, rfl⟩
    rw [home_modRegrow (s := received s id) one]
    simp [Regrow.acked, dirty, data]
  · have run := deliver_home arrives dst near
    rw [atHomeMsg, kind] at run
    dsimp only at run
    rw [homeRgdata_eq (s := received s id) one (same.trans sector.symm) ser,
      modRegrow_waits (s := received s id) (g := fun r => r.given m) one rfl (.inl acks)] at run
    refine ⟨_, congrArg Host.Outcome.next run, ?_, rfl, rfl⟩
    rw [home_modRegrow (s := received s id) one]
    rfl
  · subst same
    have run := regrowthWaitTimeout_data one data late
    have en := modRegrow_ends (g := fun r => r.dataLost a) one rfl acks (by simp [Regrow.dataLost, data, nerase]) idle
    refine ⟨_, run, finishes (r := r.dataLost a) rfl en, ?_, ?_⟩
    · rw [show State.smeta _ r.sector = _ from en.smeta]
      simp [regrownMeta, regrowPoi, Regrow.dataLost, fresh]
    · rw [en.dram]
      simp [regrowDram, Regrow.dataLost, fresh]
  · subst same
    have run := regrowthWaitTimeout_ack one acks data port late
    have en := modRegrow_ends (g := fun r => r.ackLost a) one rfl (by simp [Regrow.ackLost, acks]) data idle
    exact ⟨_, run, finishes (r := r.ackLost a) rfl en⟩

end Sys2Proof.Machine
end

section
/-! Settles O5: what an L2 agent does with each message (R291 to R293, R299, R302). -/

namespace Sys2Proof.Machine

/-! ### Lines without monitors -/

/-- No thread has a monitor that a line given up could fire. -/
def Unwatched (s : State) : Prop := (s.thr.all fun p => p.2.mons.isEmpty) = true

theorem fireIf_unwatched {s : State} (quiet : Unwatched s) (p : Monitor → Bool) : fireIf s p = s := by
  have same : (nmap s.thr fun _ t => if t.mons.any fun q => q.2.armed && p q.2 then
      { t with mons := nmap t.mons fun _ m => if m.armed && p m then { m with fired := true } else m } else t) = s.thr := by
    rw [nmap]
    refine (List.map_congr_left fun q hq => ?_).trans (List.map_id' _)
    have none' : q.2.mons = [] := List.isEmpty_iff.1 (List.all_eq_true.1 quiet q hq)
    rw [none']
    rfl
  rw [fireIf, same]

/-- What is kept of a line: one without tokens keeps its serial number and its marks. -/
def TokLine.kept (l : TokLine) : TokLine := if l.n = 0 then { TokLine.empty l.ser with rg := l.rg, wok := l.wok } else l

theorem putLine_unwatched {s : State} (quiet : Unwatched s) (a sec : Nat) (l : TokLine) : s.putLine a sec l = s.setLine a sec l.kept := by
  have fires : fireLoss (s.setLine a sec l.kept) a sec = s.setLine a sec l.kept := fireIf_unwatched (s := s.setLine a sec l.kept) quiet _
  rw [State.putLine]
  dsimp only
  rw [← TokLine.kept, fires, ite_self]

theorem State.line_of_nget {s : State} {a sec : Nat} {l : TokLine} (here : nget s.mem.l2 (l2key a sec) = some l) : s.line a sec = l := by
  rw [State.line, ngetD, here]
  rfl

theorem State.line_setLine (s : State) (a sec : Nat) (l : TokLine) : (s.setLine a sec l).line a sec = l :=
  State.line_of_nget (nget_nset_self s.mem.l2 _ l)

/-! ### Tokens that an agent gives -/

/-- An agent has sent a message, and keeps another line of a sector. -/
structure Gave (v u : State) (a sec : Nat) (l : TokLine) (q : Msg) : Prop where
  line : u.line a sec = l
  sent : InFlight u q
  later : Later v u
  places : u.mem.places = v.mem.places
  trans : u.mem.trans = v.mem.trans
  thr : u.thr = v.thr

/-- A line less the tokens that an agent gives. -/
def TokLine.less (l : TokLine) (k : Nat) (own leave : Bool) : TokLine :=
  { l with n := l.n - k, o := l.o && !own, d := l.d && !own, wok := leave, v := l.v && l.n ≠ k }

/-- The TOK in which an agent gives tokens. -/
def TokLine.tok (l : TokLine) (a sec : Nat) (dst : Party) (req k : Nat) (own dat : Bool) : Msg :=
  { Msg.of .tok (.agent a) dst req sec l.ser with
    t64 := l.t64, cnt := k, own := own, dat := dat, dty := own && l.d, poi := dat && l.poi, data := if dat then l.data else [] }

theorem gave_send (v : State) (a sec : Nat) (l : TokLine) (q : Msg) : Gave v (send (v.setLine a sec l) q) a sec l q :=
  ⟨State.line_setLine v a sec l, (sent_send _ q).inFlight, (posts_send (v.setLine a sec l) q).later, rfl, rfl, rfl⟩

theorem gave_giveTok {v : State} (quiet : Unwatched v) {a sec : Nat} {l : TokLine} (line : v.line a sec = l) (dst : Party) (req k : Nat)
    (own dat : Bool) : Gave v (giveTok v a sec dst req k own dat) a sec (l.less k own (leaveToWrite v a sec)).kept
      (l.tok a sec dst req k own dat) := by
  subst line
  rw [giveTok]
  dsimp only
  rw [putLine_unwatched quiet]
  exact gave_send v a sec _ _

theorem TokLine.kept_less_some {l : TokLine} {k : Nat} (more : l.n - k ≠ 0) (own : Bool) :
    (l.less k own false).kept = { l with n := l.n - k, o := l.o && !own, d := l.d && !own, wok := false } := by
  have v : (l.v && decide (l.n ≠ k)) = l.v := by
    rw [decide_eq_true (by omega), Bool.and_true]
  rw [TokLine.kept, if_neg (c := (l.less k own false).n = 0) more, TokLine.less, v]

theorem TokLine.kept_less_all {l : TokLine} (rg : l.rg = false) (own : Bool) : (l.less l.n own false).kept = TokLine.empty l.ser := by
  rw [TokLine.kept, if_pos (c := (l.less l.n own false).n = 0) (Nat.sub_self l.n)]
  simp [TokLine.less, rg, TokLine.empty]

/-! ### A message received by a die's L2 -/

/-- The same state under another predictor (R295). -/
def predAs (s : State) (pred : NMap (List Nat)) : State := s.modMem fun m => { m with pred := pred }

theorem learn_pred (s : State) (a sec x : Nat) : ∃ pred, learn s a sec x = predAs s pred := by
  rw [learn]
  split
  · exact ⟨s.mem.pred, rfl⟩
  · unfold State.modMem predAs State.modMem
    dsimp only
    split
    · exact ⟨s.mem.pred, rfl⟩
    · exact ⟨_, rfl⟩

section
variable {s : State} {a : Nat} {m : Msg} {l : TokLine} (here : nget s.mem.l2 (l2key a m.sector) = some l)

include here in
theorem lineFor_here : s.lineFor a m = l := by
  rw [State.lineFor, here]
  rfl

include here in
theorem noteSer_here : noteSer s a m = s := by
  rw [noteSer, here]

/-- What an L2 does first with a message of a kind. -/
def agentFirst (s : State) (a : Nat) (m : Msg) : State :=
  match m.kind with
  | .rdt => agentRdt s a m
  | .wrt => agentWrt s a m
  | .tok => serve (evictOne (agentTok s a m) a m.sector) a m.sector
  | .pact => serve (agentPact s a (homeOf m.sector) m) a m.sector
  | .pdeact => agentPdeact s a (homeOf m.sector) m
  | .pnak => agentPnak s a m
  | .rgstart => agentRgstart s a (homeOf m.sector) m
  | .rgend => agentRgend s a m
  | _ => s

include here in
theorem atAgentMsg_die (die : a < 84) : atAgentMsg s a m = agentFirst s a m := by
  have near : ¬88 ≤ a := by omega
  rw [atAgentMsg, agentFirst]
  dsimp only
  rw [noteSer_here here]
  cases m.kind <;> dsimp only <;> rw [if_neg near]

theorem serve_unsatisfied (die : a < 84) {sec : Nat} (no : satisfied s a sec = false) : serve s a sec = s := by
  have near : ¬88 ≤ a := by omega
  rw [serve, no, decide_eq_false near]
  rfl

/-- The place that a PACT enters. -/
def Msg.place (m : Msg) (h : Nat) : ActPlace := { home := h, req := m.req, sector := m.sector, wr := m.wr, aseq := m.aseq }

section
variable (ser : m.ser = l.ser)
include here ser

theorem agentRdt_gives (free : ownTransient s a m.sector = false) (owner : l.o = true) :
    ∃ pred, agentRdt s a m = giveTok (predAs s pred) a m.sector (.agent m.req) m.req 1 (!decide (2 ≤ l.n)) true := by
  obtain ⟨pred, learned⟩ := learn_pred s a m.sector m.req
  refine ⟨pred, ?_⟩
  rw [agentRdt, learned, lineFor_here (s := predAs s pred) here, show ownTransient (predAs s pred) a m.sector = false from free, owner, ser]
  by_cases many : 2 ≤ l.n <;> simp [many]

theorem agentWrt_gives (free : ownTransient s a m.sector = false) (some' : l.n ≠ 0) :
    ∃ pred, agentWrt s a m = forwardTok (predAs s pred) a m.sector true (.agent m.req) m.req := by
  obtain ⟨pred, learned⟩ := learn_pred s a m.sector m.req
  refine ⟨pred, ?_⟩
  rw [agentWrt, learned, lineFor_here (s := predAs s pred) here, show ownTransient (predAs s pred) a m.sector = false from free, ser]
  simp [some']

theorem agentPact_enters (fresh : ∀ p, placeAt s a m.sector = some p → aseqOlder m.aseq p.aseq = false) (other : m.req ≠ a) (h : Nat) :
    ∃ pred, agentPact s a h m = forwardTok (predAs (setPlace s a (m.place h))
      pred) a m.sector m.wr (partyOf m.req m.sector) m.req := by
  obtain ⟨pred, learned⟩ := learn_pred (setPlace s a (m.place h)) a m.sector m.req
  refine ⟨pred, ?_⟩
  have enters (young : ¬(l.ser ≠ m.ser || match placeAt s a m.sector with | some p => aseqOlder m.aseq p.aseq | none => false) = true) :
      agentPact s a h m = forwardTok (predAs (setPlace s a (m.place h)) pred) a m.sector m.wr (partyOf m.req m.sector) m.req := by
    rw [agentPact, lineFor_here here]
    refine (if_neg young).trans ?_
    exact (if_neg other).trans (congrArg (forwardTok · a m.sector m.wr (partyOf m.req m.sector) m.req) learned)
  apply enters
  cases placed : placeAt s a m.sector with
  | none => simp [ser]
  | some p => simp [ser, fresh p placed]

theorem agentPdeact_ends (fresh : ∀ p, placeAt s a m.sector = some p → aseqOlder m.aseq p.aseq = false) (h : Nat) :
    agentPdeact s a h m = setPlace s a { home := h, req := 999, sector := m.sector, wr := false, aseq := m.aseq } := by
  rw [agentPdeact, lineFor_here here]
  cases placed : placeAt s a m.sector with
  | none => exact if_neg (by simp [ser])
  | some p => exact if_neg (by simp [ser, fresh p placed])

end

theorem placeAt_setPlace (s : State) (a : Nat) (p : ActPlace) : placeAt (setPlace s a p) a p.sector = some p := by
  have own : ngetD (setPlace s a p).mem.places a [] = p :: (ngetD s.mem.places a []).filter fun q => q.sector ≠ p.sector := by
    rw [ngetD]
    change (nget (nset s.mem.places a _) a).getD [] = _
    rw [nget_nset_self]
    rfl
  rw [placeAt, own, List.find?_cons_of_pos (by simp)]

/-- What an agent forwards to one who writes, and to one who reads. -/
theorem forwardTok_write {sec : Nat} (line : s.line a sec = l) (some' : l.n ≠ 0) (dst : Party) (req : Nat) :
    forwardTok s a sec true dst req = giveTok s a sec dst req l.n l.o (l.o && l.v) := by
  rw [forwardTok, line]
  rw [if_neg some', if_pos rfl]

theorem forwardTok_read {sec : Nat} (line : s.line a sec = l) (some' : l.n ≠ 0) (owner : l.o = true) (dst : Party) (req : Nat) :
    forwardTok s a sec false dst req = giveTok s a sec dst req 1 true l.v := by
  rw [forwardTok, line]
  rw [if_neg some', if_neg Bool.false_ne_true, if_pos owner]

/-- A message from before, or of another serial number, changes nothing. -/
theorem agentPact_ignores (h : Nat) (old : m.ser ≠ (s.lineFor a m).ser ∨ ∃ p, placeAt s a m.sector = some p ∧ aseqOlder m.aseq p.aseq = true) :
    agentPact s a h m = s := by
  rw [agentPact]
  rcases old with other | ⟨p, placed, late⟩
  · exact if_pos (by simp [other.symm])
  · rw [placed]
    exact if_pos (by simp [late])

theorem agentPdeact_ignores (h : Nat) (old : m.ser ≠ (s.lineFor a m).ser ∨ ∃ p, placeAt s a m.sector = some p ∧ aseqOlder m.aseq p.aseq = true) :
    agentPdeact s a h m = s := by
  rw [agentPdeact]
  rcases old with other | ⟨p, placed, late⟩
  · exact if_pos (by simp [other.symm])
  · rw [placed]
    exact if_pos (by simp [late])

theorem agentRgstart_ignores (h : Nat) (other : m.ser ≠ (s.lineFor a m).ser) : agentRgstart s a h m = s := by
  rw [agentRgstart]
  exact if_pos other.symm

/-- An agent that asks for itself, or to which the serial number is another, gives nothing for a request. -/
theorem agentRdt_gives_nothing (keeps : m.ser ≠ (s.lineFor a m).ser ∨ ownTransient s a m.sector = true) : ∃ pred, agentRdt s a m = predAs s pred := by
  obtain ⟨pred, learned⟩ := learn_pred s a m.sector m.req
  refine ⟨pred, ?_⟩
  rw [agentRdt, learned]
  rcases keeps with other | own
  · exact if_pos (by simp [show (State.lineFor (predAs s pred) a m).ser ≠ m.ser from other.symm])
  · exact if_pos (by simp [show ownTransient (predAs s pred) a m.sector = true from own])

theorem agentWrt_gives_nothing (keeps : m.ser ≠ (s.lineFor a m).ser ∨ ownTransient s a m.sector = true) : ∃ pred, agentWrt s a m = predAs s pred := by
  obtain ⟨pred, learned⟩ := learn_pred s a m.sector m.req
  refine ⟨pred, ?_⟩
  rw [agentWrt, learned]
  rcases keeps with other | own
  · exact if_pos (by simp [show (State.lineFor (predAs s pred) a m).ser ≠ m.ser from other.symm])
  · exact if_pos (by simp [show ownTransient (predAs s pred) a m.sector = true from own])

/-! ### Regrowth at an agent (R302) -/

theorem agentRgstart_sends (here : nget s.mem.l2 (l2key a m.sector) = some l) (ser : m.ser = l.ser) (quiet : Unwatched s) (h : Nat) :
    Posts (s.setLine a m.sector { s.noTokens a m.sector m.ser with rg := true }) (agentRgstart s a h m) ∧
      Sent (agentRgstart s a h m) { Msg.of .rgack (.agent a) (.home h) a m.sector m.ser with dty := l.o && l.d, t64 := m.t64 } ∧
      (l.o = true → l.d = true → Sent (agentRgstart s a h m)
        { Msg.of .rgdata (.agent a) (.home h) a m.sector m.ser with dat := true, data := l.data, poi := l.poi, t64 := m.t64 }) := by
  rw [agentRgstart, lineFor_here here]
  dsimp only
  rw [if_neg (not_not.2 ser.symm), putLine_unwatched quiet]
  generalize line : TokLine.kept _ = discarded
  have kept : discarded = { s.noTokens a m.sector m.ser with rg := true } := line.symm
  subst kept
  cases dirty : l.o && l.d
  · refine ⟨posts_send _ _, sent_send _ _, fun owner d => ?_⟩
    rw [owner, d] at dirty
    exact absurd dirty (by decide)
  · exact ⟨(posts_send _ _).trans (posts_send _ _), sent_send _ _, fun _ _ => (posts_send _ _).later.sent (sent_send _ _)⟩

theorem agentRgend_renews (here : nget s.mem.l2 (l2key a m.sector) = some l) (other : m.ser ≠ l.ser) (quiet : Unwatched s) :
    Posts (s.setLine a m.sector (s.noTokens a m.sector m.ser)) (agentRgend s a m) ∧
      ∀ t, nget s.mem.trans (l2key a m.sector) = some t → t.att = 3 → placeAt s a m.sector = none →
        Sent (agentRgend s a m)
          { Msg.of .preq (.agent a) (.home (homeOf m.sector)) a m.sector m.ser with t64 := t.t64, wr := t.wr } := by
  have old : ¬((s.line a m.sector).ser = m.ser && !(s.line a m.sector).rg) = true := by
    rw [State.line_of_nget here]
    simp [other.symm]
  have renewed : s.putLine a m.sector (s.noTokens a m.sector m.ser) = s.setLine a m.sector (s.noTokens a m.sector m.ser) :=
    putLine_unwatched quiet a m.sector _
  rw [agentRgend, if_neg old, renewed]
  dsimp only
  cases asks : nget (s.setLine a m.sector (s.noTokens a m.sector m.ser)).mem.trans (l2key a m.sector) with
  | none => exact ⟨Posts.refl _, fun t asked => absurd (asks.symm.trans asked) nofun⟩
  | some t =>
    dsimp only
    split
    · exact ⟨posts_send _ _, fun q asked _ _ => Option.some.inj (asks.symm.trans asked) ▸ sent_send _ _⟩
    next not =>
      refine ⟨Posts.refl _, fun q asked att placed => absurd ?_ not⟩
      rw [Option.some.inj (asks.symm.trans asked), att, ownActive,
        show placeAt (s.setLine a m.sector (s.noTokens a m.sector m.ser)) a m.sector = none from placed]
      rfl

/-! ### Tokens that an agent receives -/

theorem learn_all (s : State) (a sec : Nat) (l : List Nat) : ∃ pred, l.foldl (fun s b => learn s a sec b) s = predAs s pred := by
  induction l generalizing s with
  | nil => exact ⟨s.mem.pred, rfl⟩
  | cons b l ih =>
    obtain ⟨pred, learned⟩ := learn_pred s a sec b
    obtain ⟨last, rest⟩ := ih (predAs s pred)
    exact ⟨last, by rw [List.foldl_cons, learned, rest]; rfl⟩

/-- A line with the tokens of a message. -/
def TokLine.taking (l : TokLine) (m : Msg) (leave : Bool) : TokLine :=
  { l with t64 := m.t64, n := l.n + m.cnt, o := l.o || m.own, d := if m.own then m.dty else l.d, v := l.v || m.dat,
           data := if m.dat then m.data else l.data, poi := if m.dat then m.poi else l.poi, wok := l.wok || leave }

theorem passTok_none {sec : Nat} (free : placeAt s a sec = none) : passTok s a sec = s := by
  rw [passTok, free]

theorem agentTok_counts (here : nget s.mem.l2 (l2key a m.sector) = some l) (ser : m.ser = l.ser) (rg : l.rg = false) (some' : l.n ≠ 0)
    (free : placeAt s a m.sector = none) :
    ∃ pred, agentTok s a m = predAs (s.setLine a m.sector (l.taking m (wokOf s a m))) pred := by
  have same : (m.ser + 16 - l.ser) % 16 = 0 := by omega
  have full : lineFull s a m.sector = false := by
    rw [lineFull, State.line_of_nget here, decide_eq_false some', Bool.and_false, Bool.false_and]
  have more : ¬l.n + m.cnt = 0 := by omega
  obtain ⟨first, known⟩ : ∃ pred, (match m.src with
      | .agent b => learn (s.setLine a m.sector (l.taking m (wokOf s a m))) a m.sector b
      | .home _ => s.setLine a m.sector (l.taking m (wokOf s a m))) = predAs (s.setLine a m.sector (l.taking m (wokOf s a m))) pred := by
    cases m.src with
    | agent b => exact learn_pred _ a m.sector b
    | home h => exact ⟨s.mem.pred, rfl⟩
  obtain ⟨pred, learned⟩ := learn_all (predAs (s.setLine a m.sector (l.taking m (wokOf s a m))) first) a m.sector m.hint
  refine ⟨pred, ?_⟩
  rw [agentTok, lineFor_here here]
  dsimp only
  rw [same]
  refine (if_neg (by simp [rg])).trans ?_
  simp only [↓reduceIte, if_neg more, full, Bool.false_and, if_neg Bool.false_ne_true]
  refine (congrArg (fun v => passTok (m.hint.foldl (fun s b => learn s a m.sector b) v) a m.sector) known).trans ?_
  rw [learned]
  exact passTok_none free

/-- What a slice that gives another line up keeps. -/
structure KeepsLine (s u : State) (a sec : Nat) : Prop where
  line : nget u.mem.l2 (l2key a sec) = nget s.mem.l2 (l2key a sec)
  trans : u.mem.trans = s.mem.trans
  later : Later s u
  dram : u.mem.dram = s.mem.dram
  thr : u.thr = s.thr

theorem KeepsLine.refl (s : State) (a sec : Nat) : KeepsLine s s a sec := ⟨rfl, rfl, Later.refl s, rfl, rfl⟩

theorem keepsLine_writeBack (quiet : Unwatched s) {x sec : Nat} (other : sec ≠ x) : KeepsLine s (writeBack s a x) a sec := by
  rw [writeBack]
  dsimp only
  split
  · exact KeepsLine.refl s a sec
  · rw [putLine_unwatched quiet]
    refine ⟨nget_nset_ne s.mem.l2 _ _ _ fun same => other ?_, rfl, (posts_send (s.setLine a x _) _).later, rfl, rfl⟩
    unfold l2key at same
    omega

theorem keepsLine_hostGiveUp (quiet : Unwatched s) (key sec : Nat) : KeepsLine s (hostGiveUp s key) a sec := by
  rw [hostGiveUp]
  cases nget s.mem.hostLines key with
  | none => exact KeepsLine.refl s a sec
  | some h =>
    dsimp only
    rw [fireIf_unwatched (s := s.modMem _) quiet]
    exact ⟨rfl, rfl, Later.refl s, rfl, rfl⟩

theorem keepsLine_evictOne (quiet : Unwatched s) (a sec : Nat) : KeepsLine s (evictOne s a sec) a sec := by
  rw [evictOne]
  split
  · exact KeepsLine.refl s a sec
  dsimp only
  split
  · exact KeepsLine.refl s a sec
  split
  next x given =>
    have other : sec ≠ x := by
      have may := (List.mem_filter.1 (List.mem_of_getElem? given)).2
      simp only [Bool.and_eq_true, decide_eq_true_eq] at may
      exact fun same => may.1.1 same.symm
    split
    · exact keepsLine_hostGiveUp quiet _ sec
    split
    · exact ⟨rfl, rfl, Later.refl s, rfl, rfl⟩
    · exact keepsLine_writeBack quiet other
  next => exact KeepsLine.refl s a sec

theorem satisfied_of_few {sec : Nat} (line : s.line a sec = l)
    (few : ∀ t, nget s.mem.trans (l2key a sec) = some t → t.wr = true ∧ l.n < l.budget) : satisfied s a sec = false := by
  rw [satisfied]
  cases asks : nget s.mem.trans (l2key a sec) with
  | none => rfl
  | some t =>
    obtain ⟨wr, less⟩ := few t asks
    dsimp only
    rw [if_pos wr, State.canWrite, line, TokLine.canWrite, decide_eq_false (Nat.ne_of_lt less)]
    rfl

theorem wokOf_die (die : a < 84) (writes : ∀ t, nget s.mem.trans (l2key a m.sector) = some t → t.wr = true) :
    wokOf s a m = (m.wr && (nget s.mem.trans (l2key a m.sector)).any fun t => t.acq = m.acq) := by
  rw [wokOf]
  cases asks : nget s.mem.trans (l2key a m.sector) with
  | none =>
    dsimp only [Option.any_none]
    rw [decide_eq_false (by omega)]
  | some t =>
    dsimp only [Option.any_some]
    rw [writes t asks, Bool.true_and]

end

/-! ### Who keeps what it has (R293, R300) -/

section
variable {s : State} {a sec : Nat}

theorem ownActive_idle (idle : nget s.mem.trans (l2key a sec) = none) : ownActive s a sec = false := by
  rw [ownActive, idle]
  cases placeAt s a sec <;> rfl

theorem ownTransient_idle (idle : nget s.mem.trans (l2key a sec) = none) : ownTransient s a sec = false := by
  rw [ownTransient, ownActive_idle idle, idle]
  rfl

theorem leaveToWrite_idle (idle : nget s.mem.trans (l2key a sec) = none) : leaveToWrite s a sec = false := by
  rw [leaveToWrite, ownActive_idle idle, Bool.false_and]

theorem ownTransient_asking {t : Transient} (asks : nget s.mem.trans (l2key a sec) = some t)
    (own : t.att < 3 ∨ t.att = 3 ∧ ∃ p, placeAt s a sec = some p ∧ p.req = a) : ownTransient s a sec = true := by
  rw [ownTransient, asks]
  rcases own with early | ⟨att, p, placed, mine⟩
  · dsimp only
    rw [decide_eq_true early, Bool.true_or]
  · rw [ownActive, placed, asks]
    simp [att, mine]

end

/-- What an agent that asks for nothing keeps of a line of which it gives some tokens, or all. -/
theorem gave_giveTok_some {v : State} (quiet : Unwatched v) {a sec : Nat} {l : TokLine} (line : v.line a sec = l)
    (idle : nget v.mem.trans (l2key a sec) = none) {k : Nat} (more : l.n - k ≠ 0) (dst : Party) (req : Nat) (own dat : Bool) :
    Gave v (giveTok v a sec dst req k own dat) a sec { l with n := l.n - k, o := l.o && !own, d := l.d && !own, wok := false }
      (l.tok a sec dst req k own dat) := by
  have g := gave_giveTok quiet line dst req k own dat
  rwa [leaveToWrite_idle idle, TokLine.kept_less_some more] at g

theorem gave_giveTok_all {v : State} (quiet : Unwatched v) {a sec : Nat} {l : TokLine} (line : v.line a sec = l)
    (idle : nget v.mem.trans (l2key a sec) = none) (rg : l.rg = false) (dst : Party) (req : Nat) (own dat : Bool) :
    Gave v (giveTok v a sec dst req l.n own dat) a sec (TokLine.empty l.ser) (l.tok a sec dst req l.n own dat) := by
  have g := gave_giveTok quiet line dst req l.n own dat
  rwa [leaveToWrite_idle idle, TokLine.kept_less_all rg] at g

/-! ### O5 -/

/-- What an L2 does with a message about a sector of which it has a line. -/
theorem deliver_die {s : State} {id a : Nat} {m : Msg} {l : TokLine} (arrives : Arrives s id m) (dst : m.dst = .agent a) (die : a < 84)
    (here : nget s.mem.l2 (l2key a m.sector) = some l) : deliver m.kind id s = agentFirst (receivedBy s id a m.sector) a m :=
  (deliver_agent arrives dst).trans (atAgentMsg_die (s := receivedBy s id a m.sector) here die)

theorem receivedBy_gone {s u : State} {id a sec : Nat} {m : Msg} (arrives : Arrives s id m) (l : Later (receivedBy s id a sec) u) :
    nget u.mem.net id = none := gone_of_arrives arrives l

/-- Settles O5: an agent gives what it may spare, counts what it gets, and keeps to the serial number that it knows. -/
theorem agentServesMessages : Obligations.AgentServesMessages := by
  intro s id m a l arrives dst die here rg some' quiet idle toks all asker fwd none' place stale leave
  have run := deliver_die arrives dst die here
  have gone {u : State} (later : Later (receivedBy s id a m.sector) u) := receivedBy_gone arrives later
  have line (pred : NMap (List Nat)) : (predAs (receivedBy s id a m.sector) pred).line a m.sector = l := State.line_of_nget here
  have placed (p : ActPlace) (pred : NMap (List Nat)) :
      (predAs (setPlace (receivedBy s id a m.sector) a p) pred).line a m.sector = l := State.line_of_nget here
  have free (i : idle) : ownTransient (receivedBy s id a m.sector) a m.sector = false := ownTransient_idle i
  have fresh (f : ∀ p, ¬stale p) (p : ActPlace) (at' : placeAt s a m.sector = some p) : aseqOlder m.aseq p.aseq = false :=
    Bool.eq_false_iff.2 fun late => f p ⟨at', late⟩
  have unserved (i : idle) (v : State) (same : v.mem.trans = s.mem.trans) : serve v a m.sector = v := by
    refine serve_unsatisfied die ?_
    rw [satisfied, same, show nget s.mem.trans (l2key a m.sector) = none from i]
  have entering {u : State} {pred : NMap (List Nat)}
      (places : u.mem.places = (predAs (setPlace (receivedBy s id a m.sector) a (m.place (homeOf m.sector))) pred).mem.places) :
      placeAt u a m.sector = some place := by
    rw [placeAt, places]
    exact placeAt_setPlace (receivedBy s id a m.sector) a (m.place (homeOf m.sector))
  refine ⟨fun kind i ser owner many => ?_, fun kind i ser owner one => ?_, fun kind i ser => ?_, fun t asks own f hf kind => ?_,
    fun kind few ser unplaced => ?_, fun kind i ser young other wr => ?_, fun kind i ser young other wr owner many => ?_,
    fun kind ser young => ?_, fun p old => ⟨fun kind i => ?_, fun kind => ?_⟩, fun kind ser => ?_, fun kind ser => ?_,
    fun ser i f hf kind => ?_⟩
  · obtain ⟨pred, gives⟩ := agentRdt_gives (s := receivedBy s id a m.sector) here ser (free i) owner
    rw [agentFirst, kind] at run
    dsimp only at run
    rw [gives, decide_eq_true many] at run
    have g := gave_giveTok_some (v := predAs (receivedBy s id a m.sector) pred) quiet (line pred) i (k := 1) (by omega) asker m.req false true
    rw [Bool.not_false, Bool.and_true, Bool.and_true] at g
    exact ⟨_, congrArg Host.Outcome.next run, gone g.later, g.line, g.sent, g.thr⟩
  · obtain ⟨pred, gives⟩ := agentRdt_gives (s := receivedBy s id a m.sector) here ser (free i) owner
    rw [agentFirst, kind] at run
    dsimp only at run
    rw [gives, decide_eq_false (by omega)] at run
    have g := gave_giveTok_all (v := predAs (receivedBy s id a m.sector) pred) quiet (line pred) i rg asker m.req true true
    rw [one] at g
    exact ⟨_, congrArg Host.Outcome.next run, g.line, g.sent, g.thr⟩
  · obtain ⟨pred, gives⟩ := agentWrt_gives (s := receivedBy s id a m.sector) here ser (free i) some'
    rw [agentFirst, kind] at run
    dsimp only at run
    rw [gives, forwardTok_write (line pred) some'] at run
    have g := gave_giveTok_all (v := predAs (receivedBy s id a m.sector) pred) quiet (line pred) i rg asker m.req l.o (l.o && l.v)
    exact ⟨_, congrArg Host.Outcome.next run, g.line, g.sent, g.thr⟩
  · have keeps : ownTransient (receivedBy s id a m.sector) a m.sector = true := ownTransient_asking asks own
    simp only [List.mem_cons, List.not_mem_nil, or_false] at hf
    rcases hf with rfl | rfl <;> rw [agentFirst, kind] at run
    · obtain ⟨pred, nothing⟩ := agentRdt_gives_nothing (s := receivedBy s id a m.sector) (m := m) (.inr keeps)
      dsimp only at run
      rw [nothing] at run
      exact ⟨_, congrArg Host.Outcome.next run, rfl, rfl, rfl⟩
    · obtain ⟨pred, nothing⟩ := agentWrt_gives_nothing (s := receivedBy s id a m.sector) (m := m) (.inr keeps)
      dsimp only at run
      rw [nothing] at run
      exact ⟨_, congrArg Host.Outcome.next run, rfl, rfl, rfl⟩
  · obtain ⟨pred, counts⟩ := agentTok_counts (s := receivedBy s id a m.sector) here ser rg some' unplaced
    rw [agentFirst, kind] at run
    dsimp only at run
    rw [wokOf_die (s := receivedBy s id a m.sector) die fun t asks => (few t asks).1] at counts
    rw [counts] at run
    generalize took : l.taking m _ = l' at run
    have kept := keepsLine_evictOne (s := predAs ((receivedBy s id a m.sector).setLine a m.sector l') pred) quiet a m.sector
    generalize evictOne _ a m.sector = v at run kept
    have has : nget v.mem.l2 (l2key a m.sector) = some l' := kept.line.trans (nget_nset_self s.mem.l2 _ l')
    have unsatisfied : satisfied v a m.sector = false := satisfied_of_few (State.line_of_nget has) fun t asks => by
      rw [kept.trans] at asks
      rw [← took]
      exact few t asks
    rw [serve_unsatisfied die unsatisfied] at run
    exact ⟨v, congrArg Host.Outcome.next run, gone kept.later, (State.line_of_nget has).trans took.symm, kept.dram, kept.thr⟩
  · obtain ⟨pred, enters⟩ := agentPact_enters (s := receivedBy s id a m.sector) here ser (fresh young) other (homeOf m.sector)
    rw [agentFirst, kind] at run
    dsimp only at run
    rw [wr, forwardTok_write (placed _ pred) some'] at enters
    have g := gave_giveTok_all (v := predAs (setPlace (receivedBy s id a m.sector) a (m.place (homeOf m.sector))) pred) quiet
      (placed _ pred) i rg fwd m.req l.o (l.o && l.v)
    rw [enters, unserved i _ g.trans] at run
    exact ⟨_, congrArg Host.Outcome.next run, entering g.places, g.line, g.sent, g.thr⟩
  · obtain ⟨pred, enters⟩ := agentPact_enters (s := receivedBy s id a m.sector) here ser (fresh young) other (homeOf m.sector)
    rw [agentFirst, kind] at run
    dsimp only at run
    rw [wr, forwardTok_read (placed _ pred) some' owner] at enters
    have g := gave_giveTok_some (v := predAs (setPlace (receivedBy s id a m.sector) a (m.place (homeOf m.sector))) pred) quiet
      (placed _ pred) i (k := 1) (by omega) fwd m.req true l.v
    rw [enters, unserved i _ g.trans] at run
    rw [Bool.not_true, Bool.and_false, Bool.and_false] at g
    exact ⟨_, congrArg Host.Outcome.next run, entering g.places, g.line, g.sent, g.thr⟩
  · have ends := agentPdeact_ends (s := receivedBy s id a m.sector) here ser (fresh young) (homeOf m.sector)
    rw [agentFirst, kind] at run
    dsimp only at run
    rw [ends] at run
    exact ⟨_, congrArg Host.Outcome.next run, placeAt_setPlace (receivedBy s id a m.sector) a _, State.line_of_nget here, rfl⟩
  · have ignores := agentPact_ignores (s := receivedBy s id a m.sector) (homeOf m.sector) (.inr ⟨p, old⟩)
    rw [agentFirst, kind] at run
    dsimp only at run
    rw [ignores, unserved i (receivedBy s id a m.sector) rfl] at run
    exact congrArg Host.Outcome.next run
  · have ignores := agentPdeact_ignores (s := receivedBy s id a m.sector) (homeOf m.sector) (.inr ⟨p, old⟩)
    rw [agentFirst, kind] at run
    dsimp only at run
    rw [ignores] at run
    exact congrArg Host.Outcome.next run
  · obtain ⟨posts, ack, data⟩ := agentRgstart_sends (s := receivedBy s id a m.sector) here ser quiet (homeOf m.sector)
    rw [agentFirst, kind] at run
    dsimp only at run
    refine ⟨_, congrArg Host.Outcome.next run, ?_, ack.inFlight, fun owner dirty => (data owner dirty).inFlight, congrArg (·.thr) posts.rest⟩
    exact (congrArg (fun v => v.line a m.sector) posts.rest).trans (State.line_setLine (receivedBy s id a m.sector) a m.sector _)
  · obtain ⟨posts, again⟩ := agentRgend_renews (s := receivedBy s id a m.sector) here ser quiet
    rw [agentFirst, kind] at run
    dsimp only at run
    refine ⟨_, congrArg Host.Outcome.next run, gone posts.later, ?_, fun t asks att unplaced => (again t asks att unplaced).inFlight,
      congrArg (·.thr) posts.rest⟩
    exact (congrArg (fun v => v.line a m.sector) posts.rest).trans (State.line_setLine (receivedBy s id a m.sector) a m.sector _)
  · have other : m.ser ≠ ((receivedBy s id a m.sector).lineFor a m).ser := by
      rw [lineFor_here (s := receivedBy s id a m.sector) here]
      exact ser
    simp only [List.mem_cons, List.not_mem_nil, or_false] at hf
    rcases hf with rfl | rfl | rfl | rfl | rfl <;> rw [agentFirst, kind] at run <;> dsimp only at run
    · obtain ⟨pred, nothing⟩ := agentRdt_gives_nothing (s := receivedBy s id a m.sector) (m := m) (.inl other)
      rw [nothing] at run
      exact ⟨_, congrArg Host.Outcome.next run, rfl, rfl, rfl, rfl⟩
    · obtain ⟨pred, nothing⟩ := agentWrt_gives_nothing (s := receivedBy s id a m.sector) (m := m) (.inl other)
      rw [nothing] at run
      exact ⟨_, congrArg Host.Outcome.next run, rfl, rfl, rfl, rfl⟩
    · rw [agentPact_ignores _ (.inl other), unserved i (receivedBy s id a m.sector) rfl] at run
      exact ⟨_, congrArg Host.Outcome.next run, rfl, rfl, rfl, rfl⟩
    · rw [agentPdeact_ignores _ (.inl other)] at run
      exact ⟨_, congrArg Host.Outcome.next run, rfl, rfl, rfl, rfl⟩
    · rw [agentRgstart_ignores _ other] at run
      exact ⟨_, congrArg Host.Outcome.next run, rfl, rfl, rfl, rfl⟩

end Sys2Proof.Machine
end
